-- ==== Sys2Proof/RegNames.lean ====
section
/-! DEFINITION. The names of the registers and of their fields, as the register tables of the spec give them (R13 to R20 and each chapter's table); a subscript (camp, die, slot, k) is dropped from a register's name and becomes its index. -/

namespace Sys2Proof

/-- The registers of BAR0, in the order of the chapters. -/
inductive RegName where
  | HS_PITCH_MAP | HS_BP_MAP | RUN_CAMP_CTRL | RUN_CAMP_STATUS | RUN_CAMP_CYCLE_LO | RUN_CAMP_CYCLE_HI 
  | RUN_CAMP_PITCH_LO | RUN_CAMP_PITCH_HI | CL_BOUNDS | CL_FAULT_LOG | CL_FAULT_CYCLE | CL_FAULT_COUNT | WU_CFG 
  | WU_BOUNDS | WU_SR_PTR | CM_MGMT_ADDR | CM_MGMT_DATA | CM_MGMT_CHECK | CM_MGMT_CTRL | CM_ECC_LOG | CM_ECC_CE_COUNT 
  | CM_ECC_UE_COUNT | CM_STATUS | DN_CONFLICT_LOG | DN_CONFLICT_CYCLE | DN_CONFLICT_COUNT | RUN_XING_LOG 
  | RUN_XING_CYCLE | RUN_XING_COUNT | RUN_XING_USED | GL_STALL_CAUSE | GL_STALL_LAST | GL_STALL_TIME 
  | GL_STALL_EVENTS | GL_CAMP_SPAN | GL_FIFO_LOG | GL_FIFO_CYCLE | GL_FIFO_COUNT | GL_OVERRUN_LOG | GL_OVERRUN_COUNT 
  | DC_CTRL | DC_TAG | DC_ACC | DC_VECTOR | DC_SNAP_BASE | DC_SNAP_TARGET | DC_SNAP_CTRL | DC_SNAP_STATUS 
  | DC_SNAP_CYCLE | DC_SNAP_SIZE | DC_SNAP_SEL | DC_REPLAY_CTRL | DC_REPLAY_DIVERGE | RUN_CONTRACT_LOG 
  | RUN_CONTRACT_CYCLE | RUN_CONTRACT_COUNT | RUN_CONTRACT_STEPS | RUN_CAMP_TARGET | RUN_CAMP_DRAM | RUN_CAMP_HOP 
  | LD_CTRL | LD_STATUS | LD_ERR_DETAIL | LD_TIMEOUT | LD_DMA_ADDR_LO | LD_DMA_ADDR_HI | LD_DMA_PUSH | LD_PROGRESS 
  | LD_SERIAL | LD_PLACE_MOD | LD_PLACE_PITCH_LO | LD_PLACE_PITCH_HI | LD_PLACE_DEEP_BASE | LD_PLACE_DEEP_SIZE 
  | DM_CTRL | DM_STATUS | DM_BOUND | DM_REF | DM_TRAIN_SEL | DM_TRAIN_VAL | DM_TRAIN_CMD | DM_RH_CFG | DM_RH_LOG 
  | DM_RH_COUNT | DM_ECC_CE | DM_ECC_UE | DM_PPR | DM_LATE | DM_DROP | DM_MAP | MP_KEY_CMD | MP_KEY_ADDR_LO 
  | MP_KEY_ADDR_HI | MP_ALARM_LOG | MP_ALARM_ADDR | MP_ALARM_COUNT | MP_TREE_CE | MP_REENC_COUNT | MP_POISON 
  | MP_KEYSTATE | MP_RANGE_BASE | MP_RANGE_SIZE | MP_LINK_STATUS | MP_LINK_AUTH | CC_CTRL | CC_STATUS | CC_PC 
  | CC_TRAP_LOG | CC_TRAP_ADDR | CC_TRAP_COUNT | CC_RETIRED | CC_SLEEPS | CC_DOM_CFG | CC_DOM_WBASE | CC_DOM_WSIZE 
  | CH_CFG | CH_CTRL | CH_PEER | CH_HRING_LO | CH_HRING_HI | CH_RING | CH_TIMEOUT | CH_SEQ_IN | CH_SEQ_OUT 
  | CH_IN_IDX | CH_OUT_IDX | CH_ERR_LOG | CH_ERR_SEQ | CH_ERR_CYCLE | CH_DUP_COUNT | CH_REJECT_COUNT 
  | CH_TIMEOUT_COUNT | CH_LIMIT | TS_TASK_SEL | TS_TASK_FLAGS | TS_TASK_MASK | TS_TASK_CFG | TS_TASK_CTX 
  | TS_TASK_CMD | TS_TASK_END | TS_REORDER | TS_LOG_BASE | TS_LOG_SIZE | TS_LOG_POS_LO | TS_LOG_POS_HI 
  | TS_LOG_KEEP_LO | TS_LOG_KEEP_HI | TS_LOG_STATUS | NOC_AGE | NOC_CRIT_STATUS | NOC_CRIT_LATE | NOC_CRIT_HELD 
  | NOC_FENCE_ADDR_LO | NOC_FENCE_ADDR_HI | NOC_FENCE_STATUS | NOC_RESEND | NOC_PD_LOG | NOC_PD_DROPS 
  | NOC_PD_DISCARD | NOC_PD_TIMEOUT | NOC_PROBE_CFG | NOC_PROBE_FILTER | NOC_PROBE_COUNT | NOC_PROBE_AGE 
  | NOC_PROBE_TR_HDR | NOC_PROBE_TR_ADDR | NOC_PROBE_TR_CTRL | HN_CTRL | HN_STATUS | HN_PEER | HN_LAT | HN_FEC_CE 
  | HN_FEC_UE | HN_CRC_ERR | HN_REPLAY_COUNT | HN_TRAIN_COUNT | HN_LANE_SEL | HN_LANE_TAP | HN_LANE_ERR | HN_EQ_REQ 
  | HN_EQ_EYE | HN_SPARE_CFG | HN_LINK_ID | FB_ID | FB_CTRL | FB_STATUS | FB_DROP | FB_LOST_LOG | FB_LOST_COUNT 
  | FB_RT_SEL | FB_RT_ENTRY | FB_NBR | TM_CTRL | TM_STATUS | TM_NOW_FRAC | TM_NOW_NS_LO | TM_NOW_NS_HI | TM_RATE 
  | TM_OFFSET | TM_SERVO | TM_SYNC_COUNT | TM_CMP_CFG | TM_CMP_T_LO | TM_CMP_T_HI | TM_CMP_PERIOD | TM_PULSE 
  | TM_CAP_CFG | TM_CAP_FRAC | TM_CAP_NS_LO | TM_CAP_NS_HI | TM_DT_INC_LO | TM_DT_INC_HI | TM_DT_CTRL | TM_DT_FRAC 
  | TM_DT_NS_LO | TM_DT_NS_HI | ACQ_CTRL | ACQ_TIMING | ACQ_RING | ACQ_RING_SIZE | ACQ_HITMASK | ACQ_MISSED 
  | ACQ_MISS_LOG | ACQ_TRIG_CYCLE | ACQ_PRE_COUNT | ACQ_SEQ | ACQ_LOST | ACQ_COND | ACQ_RULE | ACQ_DEC_CFG 
  | ACQ_DEC_PARAM | ACQ_DEC_SRC01 | ACQ_DEC_SRC2 | ACQ_DEC_MATCH | ACQ_DEC_MASK | ACQ_DEC_LAST | ACQ_LP | ACQ_GLOBAL 
  | ACQ_TRIGOUT | ACQ_IN_CFG | ACQ_IN_OVERRATE | ACQ_CMP_CFG | ACQ_CMP_VAL | ACQ_CMP_MASK | TR_CTRL | TR_STATUS 
  | TR_RING | TR_RING_SIZE | TR_WPTR | TR_CORES | TR_DOMS_LO | TR_DOMS_HI | TR_LOST | TR_EXCL | TR_FB_STATUS 
  | TR_FB_OVERWRITE | TR_FB_SEL | TR_FB_DATA | TR_CHAL_LO | TR_CHAL_HI | TR_TOKEN_ADDR_LO | TR_TOKEN_ADDR_HI 
  | TR_TOKEN_CMD | TR_TOKEN | PW_CTRL | PW_STATUS | PW_IN | PW_STAGGER | PW_TEMP | PW_LIMIT_COUNT | PW_FW_ADDR_LO 
  | PW_FW_ADDR_HI | PW_FW_LEN | PW_FW_STATUS | PW_DOM | PW_CAMP | HS_COL_MAP | HS_CTRL | HS_CMD | HS_STATUS 
  | HS_SUP_LOG | HS_SUP_COUNT | HS_WEAR | SC_CTRL | SC_STATUS | SC_UE_LOG | SC_CE_COUNT | SC_UE_COUNT | SC_VOTE_COUNT 
  | SC_CHECKSUM | ID_DEVICE | ID_REV | ID_PCI | ID_JTAG | ID_KEY_SEL | ID_KEY_DATA | ID_ROLLBACK | ID_ERR_SUMMARY 
  | ID_ERR_LOG | ID_ERR_COUNT | ID_ERR_OFFSET | HI_BAR2_AP | HI_IRQ_CAUSE | HI_IRQ_EN | HI_CAMP_IRQ | HI_CH_VEC 
  | PW_REFCLK
  deriving DecidableEq, Repr

/-- The fields of the registers; one name serves every register that has a field so named. -/
inductive FName where
  | SPARE_COL | UNUSABLE | PENDING | ACTIVE_COL | SPARE0 | SPARE1 | FAILED | CMD | HALT_ON_FAULT | START_SRC 
  | STEP_COUNT | STATE | STALLED | CMD_PENDING | CMD_ERR | HALT_MIDCYCLE | RAMPING | HALT_CAUSE | PITCH_COUNT 
  | SCHED_STEPS | KEY_ID | CYCLE | PITCHES | BIT_LIMIT | STATE_LIMIT | RECV_LIMIT | CODE | BP | STEP | OPND | MORE 
  | VALID | COUNT | MODE | SR_BASE | SR_LEN | MEM_LIMIT | PTR | WADDR | SLOT | KIND | RAW | DATA | CHECK | GO | BUSY 
  | RESULT | ADDR | SRC | UE | CLEARING | WIRE | INDEX | DST | CAMP | ENTRIES | ACTIVE | CAUSE | ISLAND | MODULE 
  | BND | TIME | REACH | NEED | HOPS | FIFO_ID | SIDE | DATA_LOST | NO_CAMP | LEAD | HOME | WR_ERR | NUM | DEN | EN 
  | ACC | CUR | PREV | BASE | ARM | ABORT | NEXT | DEEP | ERR | SAVE_PEAK | SIZE | SEL_ERR | REPLAY | COMPARE 
  | PAUSE_ON_DIVERGE | DIVERGED | LOG_END | OWN | OTHER | MHZ | CHK_ALL | BUDGET | HOP | MEASURED | MODULES | LMOD 
  | SEGMENT | LCLUSTER | MS | LEN | DEPTH | SEGMENTS | SERIAL | PAGES | TRAIN_HOST | HOT | PPR_FAIL | OUTSTANDING 
  | NS | TREFI | TRFC | FGR | REFSB | POSTPONE | PARAM | SUB | LANE | VALUE | OP | MR | THRESH | THROTTLE_NS | RFM_EN 
  | BANK | ROW | SOURCE | SOFT | MASK | TARGET | CLASS | LEVEL | USED | OVERFLOW | INSTALLED | ROLLING | FROZEN 
  | POISONED | ALARM | ENC | EPOCH_TX | EPOCH_RX | ENABLE | SLEEP_EN | SLEEP_AFTER | WAKE | PSTATE | TASK | PL 
  | DOMAIN | PC | BUSCAUSE | SLICE | LOCKED | RD | WR | EX | AKIND | BKIND | PORT | ORDERED | POLICY | EV_RX | EV_TX 
  | GRANT | RCH | LOG2 | MIRROR | CYCLES | EXPECT | HELD | PROD | CONS | OFFSET | SEQ | LIMIT | FLAGS | FLOW 
  | AFFINITY | PEND_CANCEL | CORE | TICKET | PEAK | PAGE | POS | KEEP | FULL | RD_ERR | BULK | NORMAL | HIGH | OVER 
  | TOKEN | DROPPED | NODE | FORCED | US | NET | SRC_MASK | DST_MASK | SID | SID_EN | MAX | EFF | POP | LOST 
  | RATE_MAX | EQ_HOST | PRESET | IDLE_EN | IDLE_AFTER | RATE | SPARE_TX | SPARE_RX | SPARED_TX | SPARED_RX | FAIL 
  | ONEWAY_PS | PRE2 | PRE1 | POST1 | MAIN | SYM | TAP | RESP | HEIGHT | WIDTH | WINDOW_MS | PEER_PORT 
  | PEER_SPARE_OK | PEER_RATES | ADDR_VALID | ROUTE_HOST | LOSS_MS | TOPO_CHANGED | ADDR_CONFLICT | ROOT | PEER 
  | REASON | TABLE | DEST | OUT | TREE | SERVO_HOST | AUTO_ROOT | PARENT | ROOT_CONFLICT | OUT_OF_TOL | FRAC | INC 
  | E | KP | KI | MAX_PPM | LOCK_NS | TOL_NS | DESIGN | ACQ | IRQ | FIRED | COMP | WIDTH_NS | OWNER_EN | EDGE | OVF 
  | REARM | WRAP | BUFS | PRE | OWNED | HOLDOFF | POST_CYCLES | HITS | BUF | K_MAX | COND | TRIG | PROGRESS | FORMAT 
  | HOST | FORCE | SRC0 | SRC1 | SRC2 | MATCH | FIELD | DRIVE | LOAD | OVERRIDE | SHORT | UNIT | POL | STUCK_MS 
  | STUCK | MASKED | WORD | IEN | DVAL | STALL | CAIRN_US | SYNC_FRAMES | FLUSH_US | DRAIN | DRAINING | LINE 
  | WRAPPED | HEAD | FRAME | CHAL | SCOPE | CAP_W | HYST_W | TEMP_LIM | PHASE | READY | LAST_RESET | ILIM | LIMITING 
  | HI_ENV | L_W | VIN | IIN | PIN | DIE | BYTES | REV | MV | CURR | COL0 | COL1 | ACTIVE0 | ACTIVE1 | SCRUB_HOST 
  | SPARE_HOST | PASS_MS | CE_THRESH | FLUSH_S | PASSES | RELOADING | CRC | FAMILY | GRADE | STEPPING | VENDOR 
  | DEVICE | IDCODE | KEY | MIN_REV | LOGS | DIES | BAR | VEC | PRESENT | OUT_EN | REFSEL | ADDR_STRAP
  deriving DecidableEq, Repr

/-- The access codes of R15. -/
inductive Acc where
  | ro | rw | w1c | w1s | rc | wo
  deriving DecidableEq, Repr

/-- One register of BAR0: its name and its index (0 where the register has none). -/
structure RegRef where
  reg : RegName
  i : Nat
  deriving DecidableEq, Repr

end Sys2Proof
end

