-- ==== Sys2Proof/Word.lean ====
section
/-! DEFINITION. The words of the machine: the 40-bit word every register, cluster-memory word and word-unit register is (R13, R105, R137), the 80-bit instruction (R60, R105), the byte, and their plainest arithmetic. -/

namespace Sys2Proof

/-- A 40-bit word (R13, R105, R137). -/
abbrev Word := BitVec 40

/-- A 32-bit register of a channel core (R409). -/
abbrev Word32 := BitVec 32

/-- An 80-bit instruction or table entry, two 40-bit words (R61). -/
abbrev Inst80 := BitVec 80

/-- A byte of deep memory. -/
abbrev Byte := BitVec 8

/-- A store of 1,024 one-bit cells (R71, R75, R87). -/
abbrev Bits1024 := BitVec 1024

/-- One cell of a 1,024-bit store; a number above 1,023 reads false. -/
def Bits1024.at (b : Bits1024) (i : Nat) : Bool := b.getLsbD i

/-- The store with cell `i` set to `v`; a number above 1,023 changes nothing. -/
def Bits1024.put (b : Bits1024) (i : Nat) (v : Bool) : Bits1024 :=
  if v then b ||| (1#1024 <<< i) else b &&& ~~~(1#1024 <<< i)

/-- Bits `[lo + w - 1 : lo]` of a number. -/
def bitsOf (x lo w : Nat) : Nat := x / 2 ^ lo % 2 ^ w

/-- A Bool as 0 or 1. -/
def bit (b : Bool) : Nat := if b then 1 else 0

/-- The number `n` counted up by `k`, held at `2 ^ w - 1` (a saturating counter). -/
def satAdd (w n k : Nat) : Nat := min (n + k) (2 ^ w - 1)

end Sys2Proof
end

