-- ==== Sys2Proof/Syntax.lean ====
section
/-! DEFINITION. The commands of the block: one constructor of `Instr` per row of spec/opcode_table.json, with the row's operands, and the operand types. -/

namespace Sys2Proof

/-- A position of a camp within a design cycle: a schedule step or a boundary step B0 to B15 (R212). -/
inductive Pos where
  | step (n : Nat)
  | bnd (b : Nat)
  deriving DecidableEq, Repr

/-- A guyline STALL (R213): identity, cause (R225), island (R226), position P with its design cycle (none where it carries none, R215), and the address of the module that raised it. -/
structure Stall where
  id : Nat
  cause : Nat
  island : Nat
  pos : Option (Nat × Pos)
  module : Nat
  deriving DecidableEq, Repr

/-- A physical cluster: E-die 0 to 7 and cluster slot 0 to 71 (R6). -/
structure ClusterSite where
  die : Nat
  slot : Nat
  deriving DecidableEq, Repr

/-- A logical BP of a physical cluster (R6, R33). -/
structure BpSite where
  die : Nat
  slot : Nat
  bp : Nat
  deriving DecidableEq, Repr

/-- The fields of a BP instruction other than OP (R62). -/
structure BpFields where
  dest : Nat
  xout : Bool
  pred : Nat
  chk : Bool
  res : Nat
  tt : BitVec 16
  a : Nat
  b : Nat
  c : Nat
  d : Nat
  deriving DecidableEq, Repr

/-- The fields of a word-unit instruction other than WOP (R109). -/
structure WuFields where
  pred : Nat
  chk : Bool
  dst : Nat
  sa : Nat
  sb : Nat
  immb : Bool
  imm16 : BitVec 16
  mode : Word
  deriving DecidableEq, Repr

/-- A check-bit error met by a fetch in the step (R664): physical cluster, memory kind (R686), unit, word address, uncorrectable or not. -/
structure Upset where
  cluster : Nat
  kind : Nat
  unit : Nat
  addr : Nat
  ue : Bool
  deriving DecidableEq, Repr

/-- A disagreement among the three copies of a cluster's configuration registers (R665): physical cluster, and whether all three differ. -/
structure VoteEvent where
  cluster : Nat
  all : Bool
  deriving DecidableEq, Repr

/-- What a step's fetches met, and the frozen time to charge if the step ends a stall: radiation and elapsed time are no commands of the spec, so the sender says them. -/
structure StepObs where
  upsets : List Upset
  votes : List VoteEvent
  frozen : Nat
  deriving DecidableEq, Repr

/-- The read-write fields of RUN_CAMP_CTRL written along with a run command (R51). -/
structure RunFields where
  hof : Bool
  src : Bool
  steps : Nat
  deriving DecidableEq, Repr

/-- An asynchronous FIFO's identity (R211). -/
structure FifoId where
  cls : Nat
  unit : Nat
  inst : Nat
  deriving DecidableEq, Repr

/-- A BOUNDARY message between modules (R213, R541): sending module, design cycle, fault summary, executed steps (R286), and the edge vector it carries with its design cycle. -/
structure BoundaryMsg where
  module : Nat
  cycle : Nat
  fault : Bool
  steps : Nat
  vec : Option (Nat × BitVec 16)
  deriving DecidableEq, Repr

/-- A placement entry of a load (R325): module address, camp number, pitch set, base and size of the deep region in pages; and the grade code of the module there, which R277 needs and no rule carries. -/
structure PlaceEntry where
  addr : Nat
  camp : Nat
  pitches : Nat
  base : Nat
  size : Nat
  grade : Nat
  deriving DecidableEq, Repr

/-- What a listed module sends the entry module (R309, R311): receipt of a segment, pass, or failure with code, segment and logical cluster. -/
inductive LoadAck where
  | received (seg : Nat)
  | pass
  | fail (err seg lcl : Nat)
  deriving DecidableEq, Repr

/-- A write of a register of an MP_RANGE entry (R399): BASE, KEY_ID and VALID, or PAGES. -/
inductive RangeWrite where
  | base (page key : Nat) (valid : Bool)
  | size (pages : Nat)
  deriving DecidableEq, Repr

/-- A deep-memory request (R334, R335): source ID, key ID, address, bytes to read or the bytes to write, and whether it is one of the posted writes of R489. -/
structure DeepReq where
  src : Nat
  key : Nat
  addr : Nat
  len : Nat
  data : Option (List Byte)
  posted : Bool
  deriving DecidableEq, Repr

/-- A node of the counter tree (R383): level 0 for leaves, 1 to 6 above, and its index. -/
structure Node where
  level : Nat
  idx : Nat
  deriving DecidableEq, Repr

/-- What the DRAM and the node cache did while a request was served, which no rule decides: error of the line's burst (0 none, 1 corrected, 2 uncorrectable, 3 MAC mismatch), nodes whose check failed with cause 2 or 3, corrected tree bursts, nodes the cache wrote back or dropped, whether a row was activated, and the causes that held the request back. DESIGN CHOICE (log 12), safe. DEDUCED (log 77), unsafe. -/
structure DeepObs where
  line : Nat
  nodes : List (Node × Nat)
  treeCe : Nat
  backs : List Node
  drops : List Node
  activates : Bool
  held : List Nat
  deriving DecidableEq, Repr

/-- The fields of a T-format instruction (R412): RD, RA, RB, COND, and bits [15:0], which must be zero. -/
structure FmtT where
  rd : Nat
  ra : Nat
  rb : Nat
  cond : Nat
  zero : Nat
  deriving DecidableEq, Repr

/-- The fields of a K-format instruction (R412): bits [33:29], RA and IMM24. -/
structure FmtK where
  rd : Nat
  ra : Nat
  imm : BitVec 24
  deriving DecidableEq, Repr

/-- The fields of a P-format instruction (R412): bits [33:29], bits [28:24] and OFS24. -/
structure FmtP where
  ra : Nat
  rb : Nat
  ofs : BitVec 24
  deriving DecidableEq, Repr

/-- The fields of a Q-format instruction beside FN (R412): RD, RA, bits [19:12], which must be zero, and CW. -/
structure FmtQ where
  rd : Nat
  ra : Nat
  zero : Nat
  cw : Nat
  deriving DecidableEq, Repr

/-- A write of a domain descriptor (R430): its configuration, or the base or size of window w. -/
inductive DomWrite where
  | cfg (pl key slice : Nat) (valid : Bool)
  | base (w page : Nat) (rd wr ex : Bool)
  | size (w pages : Nat)
  deriving DecidableEq, Repr

/-- The read-write fields of ACQ_CTRL written along with a command (R614). -/
structure AcqFields where
  rearm : Bool
  wrap : Bool
  bufs : Nat
  pre : Nat
  deriving DecidableEq, Repr

/-- A port's record in a TOPO packet (R535): neighbour's address, its port, and ONEWAY_PS. -/
structure TopoPort where
  addr : Nat
  port : Nat
  ps : Nat
  deriving DecidableEq, Repr

/-- What a TOPO packet carries (R535): version, the module's serial, and for each port a record or none. -/
structure Topo where
  version : Nat
  serial : Nat
  ports : List (Option TopoPort)
  deriving DecidableEq, Repr

/-- Firmware management (R532), by fabric camp tag: a design-time increment and its acknowledgement (R568), an arm of a snapshot and a module's report on it, 0 for DONE (R252). -/
inductive Mgmt where
  | dtInc (tag inc : Nat)
  | dtAck (tag : Nat)
  | snapArm (tag target : Nat) (deep : Bool)
  | snapReport (tag err : Nat)
  deriving DecidableEq, Repr

/-- The data of a fabric packet (R532), or of one fragment of it: bytes of a segment or of a channel message, placement entries, COMMIT, ABORT and reports of a load (R309, R311), topology, management. -/
inductive PktData where
  | bytes (b : List Byte)
  | places (ps : List PlaceEntry)
  | commit
  | abort
  | ack (lmod : Nat) (a : LoadAck)
  | topo (t : Topo)
  | mgmt (m : Mgmt)
  deriving DecidableEq, Repr

/-- A fabric packet's fragment (R532). -/
structure Packet where
  dst : Nat
  src : Nat
  kind : Nat
  ttl : Nat
  frag : Nat
  last : Bool
  data : PktData
  deriving DecidableEq, Repr

/-- Crossing items in a DATA flit (R514): fabric camp tag, step, low bits of the design-cycle count, first slot, value and valid of each slot. -/
structure DataPay where
  tag : Nat
  step : Nat
  cyc : Nat
  base : Nat
  bits : List (Bool × Bool)
  deriving DecidableEq, Repr

/-- The payload of a flit (R513). -/
inductive FlitBody where
  | empty
  | data (d : DataPay)
  | packet (p : Packet)
  deriving DecidableEq, Repr

/-- A flit (R513): TYPE, SEQ, ACK, NAK, control slot, payload. -/
structure Flit where
  type : Nat
  seq : Nat
  ack : Nat
  nak : Bool
  ctrl : Nat
  body : FlitBody
  deriving DecidableEq, Repr

/-- What a receiver finds of a flit (R513, R516, R520): FEC result (0 clean, 1 corrected, 2 uncorrectable), CRC and tag good, symbol errors by lane, and lane 8 locked and deskewed. -/
structure FlitObs where
  fec : Nat
  crc : Bool
  tag : Bool
  sym : List (Nat × Nat)
  locked8 : Bool
  deriving DecidableEq, Repr

/-- A request of the far receiver to the own transmitter of a lane (R510, R528): TAP, OP and PRESET as in HN_EQ_REQ. -/
structure EqReq where
  lane : Nat
  tap : Nat
  op : Nat
  preset : Nat
  deriving DecidableEq, Repr

/-- What a training state's work found (R505, R506, R510, R511): lanes that pass (bit per lane), clocks within 100 ppm, and the requests that came for the own transmitter. -/
structure TrainObs where
  lanes : Nat
  clock : Bool
  reqs : List EqReq
  deriving DecidableEq, Repr

/-- The read-write fields of TM_CTRL written along with a command (R578). -/
structure TmFields where
  servoHost : Bool
  autoRoot : Bool
  deriving DecidableEq, Repr

/-- The read-write fields of HN_CTRL written along with a command (R528). -/
structure HnFields where
  en : Bool
  rateMax : Nat
  eqHost : Bool
  preset : Nat
  idleEn : Bool
  idleAfter : Nat
  deriving DecidableEq, Repr

/-- A packet of the NoC (R479, R482, R500): network (0 request, 1 response, 2 snoop, 3 data), class, source and destination node, injection port at the source and port at the destination (on an E-die pitch row 0 to 7, or 8 for the acquisition front end; otherwise 0), source ID, key ID, deep address, whether it is posted (R489), and a response's status. -/
structure NocPkt where
  net : Nat
  cls : Nat
  src : Nat
  dst : Nat
  sport : Nat
  dport : Nat
  sid : Nat
  key : Nat
  addr : Nat
  posted : Bool
  status : Nat
  deriving DecidableEq, Repr

/-- The read-write fields of PW_CTRL written along with a command (R661). -/
structure PwFields where
  capW : Nat
  hystW : Nat
  tempLim : Nat
  deriving DecidableEq, Repr

/-- What the power controller's sensors say at the end of a control interval (R636, R637, R646, R661): input voltage averaged and last (10 mV), input current (10 mA), average power (W), ILIM, temperatures of E-dies 0 to 7 and the H-die (°C), and voltage (mV) and current (10 mA) of each rail. -/
structure PowerObs where
  vavg : Nat
  vin : Nat
  iin : Nat
  pin : Nat
  ilim : Bool
  temps : List Nat
  rails : List (Nat × Nat × Nat)
  deriving DecidableEq, Repr

/-- A unit of the wear record (R673): die (8 the H-die), slot, unit. -/
structure UnitId where
  die : Nat
  slot : Nat
  unit : Nat
  deriving DecidableEq, Repr

/-- A register or table that the host reaches (R689, R694, R696): a BAR0 offset, an offset of BAR4, or the MSI-X control of the configuration space. -/
inductive RegSpace where
  | bar0 (off : Nat)
  | bar4 (off : Nat)
  | msixControl
  deriving DecidableEq, Repr

/-- What a register write that acts on something timed brings with it: the frozen time to charge where it ends a stall, and for LOAD the grade codes of the modules that the placement entries name (R277). -/
structure WriteObs where
  frozen : Nat
  grades : List Nat
  deriving DecidableEq, Repr

/-- The commands, in the order of spec/opcode_table.json. -/
inductive Instr where
  /-- SCHEDULE_STEP (R41): An island executes one schedule step of a segment that runs in this cycle; its router entries, crossings, deep accesses and lateness checks happen in it. -/
  | scheduleStep (camp : Nat) (die : Nat) (obs : StepObs)
  /-- BP_NOP (R86): BP NOP reads, writes and drives nothing. -/
  | bpNop (loc : BpSite) (f : BpFields)
  /-- LUT4 (R64): A BP evaluates a four-input truth table and writes the stores that DEST names, optionally driving its crossbar line. -/
  | lut4 (loc : BpSite) (f : BpFields)
  /-- LUT4E (R82): A BP evaluates a net, writes it to the history shadow and outputs the rising-edge flag. -/
  | lut4e (loc : BpSite) (f : BpFields)
  /-- ROUTE (R84): A BP drives operand A onto an outgoing die-network or crossing slot, optionally writing its bit store. -/
  | route (loc : BpSite) (f : BpFields)
  /-- HOLD (R85): A BP keeps its bit-store address unchanged and may drive its value on the crossbar line. -/
  | hold (loc : BpSite) (f : BpFields)
  /-- CKPT (R88): A BP starts its snapshot-latch drain if one is waiting to begin. -/
  | ckpt (loc : BpSite) (f : BpFields)
  /-- DRAIN_START (R89): A waiting snapshot drain begins once fewer than four drains run in the cluster, or at the B12 fallback. -/
  | drainStart (loc : ClusterSite)
  /-- DRAIN_END (R88): A snapshot-latch drain ends 64 executed steps after it began and frees the latch. -/
  | drainEnd (loc : BpSite)
  /-- WU_NOP (R113): The word unit does nothing in this step. -/
  | wuNop (loc : ClusterSite) (f : WuFields)
  /-- WU_ADD (R113): Word unit writes A + B to W[DST]. -/
  | wuAdd (loc : ClusterSite) (f : WuFields)
  /-- WU_SUB (R113): Word unit writes A − B to W[DST]. -/
  | wuSub (loc : ClusterSite) (f : WuFields)
  /-- WU_CARRY (R113): Word unit writes the unsigned carry of A + B. -/
  | wuCarry (loc : ClusterSite) (f : WuFields)
  /-- WU_BORROW (R113): Word unit writes 1 if A < B unsigned. -/
  | wuBorrow (loc : ClusterSite) (f : WuFields)
  /-- WU_AND (R113): Word unit writes A AND B. -/
  | wuAnd (loc : ClusterSite) (f : WuFields)
  /-- WU_OR (R113): Word unit writes A OR B. -/
  | wuOr (loc : ClusterSite) (f : WuFields)
  /-- WU_XOR (R113): Word unit writes A XOR B. -/
  | wuXor (loc : ClusterSite) (f : WuFields)
  /-- WU_ANDN (R113): Word unit writes A AND NOT B. -/
  | wuAndn (loc : ClusterSite) (f : WuFields)
  /-- WU_SHL (R113): Word unit shifts A left by B mod 64. -/
  | wuShl (loc : ClusterSite) (f : WuFields)
  /-- WU_SHR (R113): Word unit shifts A right with zero fill. -/
  | wuShr (loc : ClusterSite) (f : WuFields)
  /-- WU_SAR (R113): Word unit shifts A right with sign fill. -/
  | wuSar (loc : ClusterSite) (f : WuFields)
  /-- WU_ROL (R113): Word unit rotates A left by B mod 40. -/
  | wuRol (loc : ClusterSite) (f : WuFields)
  /-- WU_ROR (R113): Word unit rotates A right by B mod 40. -/
  | wuRor (loc : ClusterSite) (f : WuFields)
  /-- WU_CMPEQ (R113): Word unit writes 1 if A equals B. -/
  | wuCmpeq (loc : ClusterSite) (f : WuFields)
  /-- WU_CMPLTU (R113): Word unit writes 1 if A < B unsigned. -/
  | wuCmpltu (loc : ClusterSite) (f : WuFields)
  /-- WU_CMPLTS (R113): Word unit writes 1 if A < B signed. -/
  | wuCmplts (loc : ClusterSite) (f : WuFields)
  /-- WU_SEL (R113): Word unit selects A or B by C. -/
  | wuSel (loc : ClusterSite) (f : WuFields)
  /-- WU_BSEL (R113): Word unit merges A and B bitwise under C. -/
  | wuBsel (loc : ClusterSite) (f : WuFields)
  /-- WU_EXT (R113): Word unit extracts a field of A. -/
  | wuExt (loc : ClusterSite) (f : WuFields)
  /-- WU_DEP (R113): Word unit deposits low bits of B into a field of A. -/
  | wuDep (loc : ClusterSite) (f : WuFields)
  /-- WU_MULLO (R114): Word unit issues a multiply whose low 40 bits are written three executed steps later. -/
  | wuMullo (loc : ClusterSite) (f : WuFields)
  /-- WU_MULHIU (R114): Word unit issues an unsigned multiply returning the high 40 bits. -/
  | wuMulhiu (loc : ClusterSite) (f : WuFields)
  /-- WU_MULHIS (R114): Word unit issues a signed multiply returning the high 40 bits. -/
  | wuMulhis (loc : ClusterSite) (f : WuFields)
  /-- MUL_RESULT_WRITE (R114): A multiply result is written at the end of its third executed step. -/
  | mulResultWrite (loc : ClusterSite)
  /-- WU_LDM (R118): Word unit reads a cluster-memory word into W[DST] in its own step. -/
  | wuLdm (loc : ClusterSite) (f : WuFields)
  /-- WU_STM (R118): Word unit writes W[SB] to a cluster-memory word, plain, conditional or through an atomic alias. -/
  | wuStm (loc : ClusterSite) (f : WuFields)
  /-- WU_PACK (R122): Word unit packs one bit-store bit of a range of BPs into W[DST]. -/
  | wuPack (loc : ClusterSite) (f : WuFields)
  /-- WU_UNPACK (R123): Word unit writes the bits of W[SA] into bit stores of a range of BPs. -/
  | wuUnpack (loc : ClusterSite) (f : WuFields)
  /-- WU_XEC (R116): Word unit runs a microinstruction entry with register offset. -/
  | wuXec (loc : ClusterSite) (f : WuFields)
  /-- WU_SHIFT (R127): Word unit reads and replaces the delay-line word at the pointer and advances it. -/
  | wuShift (loc : ClusterSite) (f : WuFields)
  /-- SHADOW_COMMIT (R76): At B0 every marked state address takes its shadow value and the marks clear. -/
  | shadowCommit (camp : Nat)
  /-- FAULT_FLAGS_CLOSE (R43): At B1 the cluster fault flags of the cycle are closed. -/
  | faultFlagsClose (camp : Nat)
  /-- ACQUISITION_SAMPLE (R579): At B2 each front end samples the camp's bit and word channels and feeds triggers and capture. -/
  | acquisitionSample (camp : Nat)
  /-- RECORD_EXCHANGE (R449): In B3 to B10 each port's control word is read and inbound and outbound records are exchanged with its channel. -/
  | recordExchange (camp : Nat)
  /-- SNAPSHOT_POINT (R87): At B11 of an armed cycle latches are loaded, cluster-memory lines and deep pages marked pending. -/
  | snapshotPoint (camp : Nat)
  /-- CYCLE_END (R43): At B15 the cycle counter increments, design time advances and a pending run command takes effect. -/
  | cycleEnd (camp : Nat)
  /-- START (R47): RUN_CAMP_CTRL START moves the camp to RUNNING, restoring a snapshot first when START_SRC = 1, and begins the ramp. -/
  | start (camp : Nat) (f : RunFields)
  /-- PAUSE (R47): PAUSE is accepted as a pending command that takes effect at the next boundary. -/
  | pause (camp : Nat) (f : RunFields)
  /-- RESUME (R47): RESUME returns a PAUSED camp to RUNNING at once. -/
  | resume (camp : Nat) (f : RunFields)
  /-- STEP (R727): STEP runs STEP_COUNT design cycles from the boundary at which it takes effect, then pauses. -/
  | step (camp : Nat) (f : RunFields)
  /-- HALT (R56): HALT stops the camp at the boundary, or at once if frozen or ramping. -/
  | halt (camp : Nat) (f : RunFields)
  /-- UNLOAD (R321): UNLOAD isolates the camp's pitches and starts their clear and release. -/
  | unload (camp : Nat) (f : RunFields)
  /-- UNLOAD_DONE (R321): After isolation and clearing, the camp reaches UNLOADED and frees its resources. -/
  | unloadDone (camp : Nat)
  /-- RAMP_START (R644): A START's step-clock ramp begins once PW_STAGGER has passed since any other camp's ramp. -/
  | rampStart (camp : Nat) (sinceOther : Nat)
  /-- RAMP_STEP (R644): Every 31.25 µs the pitches of a ramping camp move one of 64 frequency steps. -/
  | rampStep (camp : Nat)
  /-- FIRST_DESIGN_CYCLE_START (R49): Once every pitch reaches its target, step 0 of the first cycle runs and RAMPING falls. -/
  | firstDesignCycleStart (camp : Nat)
  /-- HELD_START_RELEASE (R261): A START held behind a copying snapshot proceeds when that snapshot reaches DONE or ABANDONED. -/
  | heldStartRelease (camp : Nat)
  /-- RESTORE_DONE (R261): The snapshot restore finishes writing stores and state, and the ramp may begin. -/
  | restoreDone (camp : Nat)
  /-- RESTORE_BUS_ERROR (R261): A bus error reading the snapshot stops the restore and halts the camp with HALT_CAUSE 6. -/
  | restoreBusError (camp : Nat) (written : Nat) (alarm : Bool)
  /-- BANK_GRANT (R142): A free bank is granted to the next waiting requester 1 to 4 in rotation order. -/
  | bankGrant (loc : ClusterSite) (bank : Nat)
  /-- MGMT_ACCESS_GO (R157): A write of CM_MGMT_CTRL.GO starts a management access or refuses it under R156. -/
  | mgmtAccessGo (die : Nat)
  /-- MGMT_ACCESS_DONE (R157): A management access completes, BUSY falls and RESULT and data are valid. -/
  | mgmtAccessDone (die : Nat)
  /-- WAKE_CLEAR_END (R153): A pitch's 33 µs wake clear ends, CLEARING falls and its NoC port opens. -/
  | wakeClearEnd (pitch : Nat)
  /-- CROSSING_ITEM_ARRIVE (R219): A crossing item reaches an E-die edge elastic buffer and is stored for its step position. -/
  | crossingItemArrive (camp : Nat) (dst : Nat) (arr : Nat) (frozen : Nat)
  /-- FIFO_WRITE (R206): An item is written into an asynchronous FIFO. -/
  | fifoWrite (id : FifoId) (x : Nat) (full : Bool)
  /-- FIFO_READ (R206): An item is read from an asynchronous FIFO, or nothing if EMPTY. -/
  | fifoRead (id : FifoId) (empty : Bool)
  /-- FIFO_PTR_MISMATCH (R207): Duplicated pointer copies disagree: the FIFO resets, logs and raises FIFO_RESET stalls. -/
  | fifoPtrMismatch (id : FifoId) (side : Bool)
  /-- FIFO_REPRIME (R207): A reset FIFO is re-primed, resends unread items or resumes, and its FIFO_RESET stall is released. -/
  | fifoReprime (id : FifoId) (frozen : Nat)
  /-- STALL (R215): A guyline STALL message is applied; die groups freeze at their next step boundary at or after P. -/
  | stall (camp : Nat) (st : Stall) (port : Option Nat)
  /-- RELEASE (R216): A guyline RELEASE ends its STALL; a die group with no STALL left resumes. -/
  | release (camp : Nat) (module : Nat) (id : Nat) (port : Option Nat) (frozen : Nat)
  /-- BOUNDARY (R44): A BOUNDARY message delivers a die group's fault summary and the edge vector to queue. -/
  | boundary (camp : Nat) (msg : BoundaryMsg) (port : Option Nat) (frozen : Nat)
  /-- GUYLINE_HALT (R543): A HALT from another module halts the spanning camp with the same HALT_CAUSE. -/
  | guylineHalt (camp : Nat) (cause : Nat) (module : Nat) (port : Option Nat)
  /-- RELOCK_DONE (R224): After a power-limit frequency change every pitch has relocked and the POWER_LIMIT stall is released. -/
  | relockDone (camp : Nat) (frozen : Nat)
  /-- DC_TAG_WRITE (R244): A write of DC_TAG_k is accepted only while LOADED or PAUSED and takes effect at cycle c + 1 + LEAD. -/
  | dcTagWrite (camp : Nat) (k : Nat) (num : Nat) (den : Nat) (en : Bool)
  /-- DC_ACC_WRITE (R244): A write of DC_ACC_k is accepted only while LOADED or PAUSED, else sets WR_ERR. -/
  | dcAccWrite (camp : Nat) (k : Nat) (acc : Nat)
  /-- SNAP_ARM (R251): DC_SNAP_CTRL.ARM arms a snapshot for the next or a target B11, or is refused with ERR. -/
  | snapArm (camp : Nat) (next : Bool) (deep : Bool) (abort : Bool)
  /-- SNAP_ABORT (R265): DC_SNAP_CTRL.ABORT abandons an armed or copying snapshot with ERR = ABORT. -/
  | snapAbort (camp : Nat) (next : Bool) (deep : Bool)
  /-- SNAPSHOT_DONE (R257): All latches, lines, saved words and pages are written and COMPLETE is written last. -/
  | snapshotDone (camp : Nat)
  /-- SNAPSHOT_BUS_ERROR (R257): A snapshot write or read completing with a bus error abandons the snapshot. -/
  | snapshotBusError (camp : Nat) (onRead : Bool)
  /-- DC_SNAP_SEL_WRITE (R260): A write of DC_SNAP_SEL.BASE starts the header check of the selected snapshot. -/
  | dcSnapSelWrite (camp : Nat) (page : Nat)
  /-- SNAP_SEL_CHECK_DONE (R260): The header check ends and sets VALID or SEL_ERR. -/
  | snapSelCheckDone (camp : Nat) (busErr : Bool)
  /-- LOAD (R313): LD_CTRL LOAD starts a camp load, or is rejected with CMD_ERR. -/
  | load (src : Nat) (modules : Nat) (grades : List Nat)
  /-- LD_ABORT (R314): LD_CTRL ABORT fails the load in progress with LOAD_ABORTED. -/
  | ldAbort
  /-- LD_DMA_PUSH (R324): A push queues a segment address and length for the host-link source. -/
  | ldDmaPush (len : Nat)
  /-- LOAD_SEGMENT (R314): A segment is framed, authenticated, decrypted and its records checked and written. -/
  | loadSegment (bytes : List Byte)
  /-- PLACEMENT_ENTRY_ARRIVE (R312): A listed module receives placement entries and joins the load, or answers LOAD_RESOURCE if busy. -/
  | placementEntryArrive (src : Nat) (modules : Nat) (ps : List PlaceEntry)
  /-- LOAD_ACK (R311): A listed module's segment receipt or pass/fail report reaches the entry module. -/
  | loadAck (lmod : Nat) (ack : LoadAck)
  /-- COMMIT (R318): COMMIT puts spare maps and setup into force and moves the camp to LOADED. -/
  | commit
  /-- ABORT (R311): An ABORT from the entry module makes a listed module fail the load under R320. -/
  | abort
  /-- LOAD_TIMEOUT (R314): No segment or report arrives within LD_TIMEOUT and the load fails with LOAD_TRUNCATED. -/
  | loadTimeout (lmod : Option Nat)
  /-- LOAD_CLEAR_DONE (R320): The failed load's clear ends and LD_STATUS.STATE becomes FAILED. -/
  | loadClearDone
  /-- DM_INIT (R342): DM_CTRL INIT resets the devices with the trained delays and starts refresh. -/
  | dmInit (chan : Nat) (host : Bool)
  /-- DM_INIT_DONE (R342): INIT finishes and the channel enters QUIESCED, or FAILED if unresponsive. -/
  | dmInitDone (chan : Nat) (ok : Bool)
  /-- DM_ACTIVATE (R342): ACTIVATE moves a QUIESCED channel to ACTIVE, refused while DM_BOUND.NS is 0. -/
  | dmActivate (chan : Nat) (host : Bool)
  /-- DM_QUIESCE (R343): QUIESCE stops the channel serving requests, refused while a camp with a deep region runs. -/
  | dmQuiesce (chan : Nat) (host : Bool)
  /-- QUIESCE_DONE (R343): Held requests complete and the channel enters QUIESCED. -/
  | quiesceDone (chan : Nat)
  /-- DM_PPR (R362): PPR repairs the row in DM_PPR on a QUIESCED channel. -/
  | dmPpr (chan : Nat) (host : Bool)
  /-- PPR_DONE (R362): A repair completes, or fails and moves the channel to FAILED. -/
  | pprDone (chan : Nat) (ok : Bool)
  /-- MRW (R345): DM_TRAIN_CMD issues a mode-register write to one subchannel. -/
  | mrw (chan : Nat) (sub : Nat) (mr : Nat) (data : Nat)
  /-- MRR (R345): DM_TRAIN_CMD issues a mode-register read to one subchannel. -/
  | mrr (chan : Nat) (sub : Nat) (mr : Nat) (data : Nat)
  /-- MPC (R345): DM_TRAIN_CMD issues an MPC command to one subchannel. -/
  | mpc (chan : Nat) (sub : Nat) (mr : Nat) (data : Nat)
  /-- TRAIN_OP_DONE (R363): A training operation completes and BUSY falls. -/
  | trainOpDone (chan : Nat) (data : Nat)
  /-- DM_MAP_WRITE (R340): A write to the shared address-mapping masks is accepted only with every channel OFF or UNTRAINED and valid masks. -/
  | dmMapWrite (chan : Nat) (k : Nat) (mask : Nat)
  /-- REFRESH_DUE (R348): A refresh interval expires and a refresh is issued or postponed. -/
  | refreshDue (chan : Nat) (sub : Nat) (bank : Option Nat)
  /-- POSTPONED_REFRESH_ISSUE (R349): Postponed refreshes are issued once no scheduled access waits. -/
  | postponedRefreshIssue (chan : Nat) (sub : Nat) (bank : Option Nat)
  /-- REFRESH_DONE (R349): A refresh completes and accesses waiting for its banks proceed. -/
  | refreshDone (chan : Nat) (sub : Nat) (bank : Option Nat)
  /-- RH_WINDOW_CLEAR (R351): At each refresh window the row-activation tables are cleared. -/
  | rhWindowClear (chan : Nat)
  /-- RFM_DONE (R352): An RFM completes, its entry's counts zero and the throttle lifts. -/
  | rfmDone (chan : Nat) (sub : Nat) (bank : Nat) (row : Nat)
  /-- DEEP_REQUEST (R336): A deep-memory request reaches the protection engine and its channel controller and is served. -/
  | deepRequest (req : DeepReq) (obs : DeepObs)
  /-- DEEP_READ_DATA_ARRIVE (R358): Scheduled read data reaches the pitch, releasing a late-read stall. -/
  | deepReadDataArrive (camp : Nat) (pitch : Nat) (entry : Nat) (frozen : Nat)
  /-- REENCRYPT_DONE (R386): Page re-encryption ends and the REENCRYPT STALL is released. -/
  | reencryptDone (page : Nat) (frozen : Nat)
  /-- INSTALL (R379): MP_KEY_CMD INSTALL reads and unwraps a key blob. -/
  | install (target : Nat)
  /-- KEY_BLOB_READ_DONE (R379): The blob read completes and keys are replaced or RESULT set. -/
  | keyBlobReadDone (ok : Bool) (blob : List Byte)
  /-- ROLL (R392): MP_KEY_CMD ROLL draws new keys and starts reinitialising the key ID's pages. -/
  | roll (target : Nat)
  /-- ROLL_DONE (R393): The roll finishes, ROLLING falls and freezes are cleared. -/
  | rollDone (key : Nat)
  /-- REMOVE (R379): MP_KEY_CMD REMOVE erases a key ID's keys and invalidates its ranges. -/
  | remove (target : Nat)
  /-- MP_RANGE_WRITE (R375): A write of an MP_RANGE entry is checked and starts initialisation of a newly owned range. -/
  | mpRangeWrite (r : Nat) (w : RangeWrite)
  /-- REGION_INIT_DONE (R375): Initialisation of a new range or camp region ends and it serves requests. -/
  | regionInitDone (base : Nat)
  /-- EPOCH_LIMIT (R396): Before the 2^32-th flit of an epoch the sender increments EPOCH and signals it. -/
  | epochLimit (port : Nat)
  /-- ADD (R414): Channel core RD = RA + RB. -/
  | add (core : Nat) (f : FmtT)
  /-- SUB (R414): Channel core RD = RA − RB. -/
  | sub (core : Nat) (f : FmtT)
  /-- AND (R414): Channel core RD = RA AND RB. -/
  | and (core : Nat) (f : FmtT)
  /-- OR (R414): Channel core RD = RA OR RB. -/
  | or (core : Nat) (f : FmtT)
  /-- XOR (R414): Channel core RD = RA XOR RB. -/
  | xor (core : Nat) (f : FmtT)
  /-- SHL (R414): Channel core left shift. -/
  | shl (core : Nat) (f : FmtT)
  /-- SHR (R414): Channel core logical right shift. -/
  | shr (core : Nat) (f : FmtT)
  /-- SAR (R414): Channel core arithmetic right shift. -/
  | sar (core : Nat) (f : FmtT)
  /-- CMP (R414): Channel core sets RD to 1 if condition COND holds. -/
  | cmp (core : Nat) (f : FmtT)
  /-- MULLO (R414): Channel core low 40 bits of a product. -/
  | mullo (core : Nat) (f : FmtT)
  /-- MULHIU (R414): Channel core unsigned high 40 bits of a product. -/
  | mulhiu (core : Nat) (f : FmtT)
  /-- ADDI (R414): Channel core adds a sign-extended immediate. -/
  | addi (core : Nat) (f : FmtK)
  /-- ANDI (R414): Channel core ANDs a zero-extended immediate. -/
  | andi (core : Nat) (f : FmtK)
  /-- ORI (R414): Channel core ORs a zero-extended immediate. -/
  | ori (core : Nat) (f : FmtK)
  /-- XORI (R414): Channel core XORs a zero-extended immediate. -/
  | xori (core : Nat) (f : FmtK)
  /-- SHLI (R414): Channel core shifts left by an immediate. -/
  | shli (core : Nat) (f : FmtK)
  /-- SHRI (R414): Channel core shifts right by an immediate. -/
  | shri (core : Nat) (f : FmtK)
  /-- SARI (R414): Channel core shifts right arithmetically by an immediate. -/
  | sari (core : Nat) (f : FmtK)
  /-- CMPI_LT (R414): Channel core signed compare with an immediate. -/
  | cmpiLt (core : Nat) (f : FmtK)
  /-- CMPI_LO (R414): Channel core unsigned compare with an immediate. -/
  | cmpiLo (core : Nat) (f : FmtK)
  /-- ORH (R414): Channel core ORs an immediate shifted left by 16. -/
  | orh (core : Nat) (f : FmtK)
  /-- LD8 (R416): Channel core loads a byte. -/
  | ld8 (core : Nat) (f : FmtK)
  /-- LD16 (R416): Channel core loads 16 bits. -/
  | ld16 (core : Nat) (f : FmtK)
  /-- LD32 (R416): Channel core loads 32 bits. -/
  | ld32 (core : Nat) (f : FmtK)
  /-- LDS (R416): Channel core loads a 40-bit slot, including local-space registers at level 0. -/
  | lds (core : Nat) (f : FmtK)
  /-- ST8 (R416): Channel core stores a byte. -/
  | st8 (core : Nat) (f : FmtK)
  /-- ST16 (R416): Channel core stores 16 bits. -/
  | st16 (core : Nat) (f : FmtK)
  /-- ST32 (R416): Channel core stores 32 bits. -/
  | st32 (core : Nat) (f : FmtK)
  /-- STS (R416): Channel core stores a 40-bit slot. -/
  | sts (core : Nat) (f : FmtK) (obs : WriteObs)
  /-- ASWAP (R434): Channel core atomically swaps a slot. -/
  | aswap (core : Nat) (f : FmtT)
  /-- AADD (R434): Channel core atomically adds to a slot. -/
  | aadd (core : Nat) (f : FmtT)
  /-- CALL (R414): Channel core saves the return PC and branches. -/
  | call (core : Nat) (f : FmtP)
  /-- CALLR (R414): Channel core calls a register target. -/
  | callr (core : Nat) (f : FmtK)
  /-- GATE (R426): Channel core traps with cause GATE and a gate number. -/
  | gate (core : Nat) (f : FmtK)
  /-- CODESYNC (R427): Channel core orders all accesses and invalidates its instruction cache. -/
  | codesync (core : Nat) (f : FmtT)
  /-- BR_EQ (R413): Branch if equal. -/
  | brEq (core : Nat) (f : FmtP)
  /-- BR_NE (R413): Branch if not equal. -/
  | brNe (core : Nat) (f : FmtP)
  /-- BR_LT (R413): Branch if less, signed. -/
  | brLt (core : Nat) (f : FmtP)
  /-- BR_GE (R413): Branch if greater or equal, signed. -/
  | brGe (core : Nat) (f : FmtP)
  /-- BR_LO (R413): Branch if lower, unsigned. -/
  | brLo (core : Nat) (f : FmtP)
  /-- BR_HS (R413): Branch if higher or same, unsigned. -/
  | brHs (core : Nat) (f : FmtP)
  /-- BR_BS (R413): Branch if any bit of RA AND RB is set. -/
  | brBs (core : Nat) (f : FmtP)
  /-- BR_BC (R413): Branch if RA AND RB is zero. -/
  | brBc (core : Nat) (f : FmtP)
  /-- CSEND (R417): Channel core sends one record on a channel and writes a status. -/
  | csend (core : Nat) (f : FmtT) (frozen : Nat)
  /-- CRECV (R417): Channel core takes the next record of a channel into memory and writes a status. -/
  | crecv (core : Nat) (f : FmtT) (frozen : Nat)
  /-- CWAIT (R418): Channel core continues if its flags meet the mask, otherwise sets its readiness mask and yields. -/
  | cwait (core : Nat) (f : FmtT) (frozen : Nat)
  /-- EVSET (R418): Channel core ORs bits into another task's event flags. -/
  | evset (core : Nat) (f : FmtT)
  /-- YIELD (R419): The task saves its context and returns to READY, unless a pending cancel ends it. -/
  | yield (core : Nat) (f : FmtT) (frozen : Nat)
  /-- DONE (R419): The task ends and its result is released through its flow. -/
  | done (core : Nat) (f : FmtT) (frozen : Nat)
  /-- ORDER (R427): Channel core waits until earlier accesses of the selected classes complete. -/
  | order (core : Nat) (f : FmtK)
  /-- RDCW (R424): CTL reads a control word into RD at level 0. -/
  | rdcw (core : Nat) (f : FmtQ)
  /-- WRCW (R424): CTL writes a control word from RA at level 0. -/
  | wrcw (core : Nat) (f : FmtQ)
  /-- BACK (R426): CTL returns from a trap to the trapped task. -/
  | back (core : Nat) (f : FmtQ)
  /-- DOZE (R428): CTL puts the core into SLEEP. -/
  | doze (core : Nat) (f : FmtQ)
  /-- CC_MEMORY_RESPONSE (R410): A channel-core load, store or atomic completes from the NoC, or traps on a bus error. -/
  | ccMemoryResponse (core : Nat) (n : Nat) (victim : Nat) (obs : DeepObs)
  /-- SLICE_EXPIRE (R425): A tenant task exceeds its slice without yielding and traps with SLICE. -/
  | sliceExpire (core : Nat)
  /-- SLEEP_ENTRY (R428): After SLEEP_AFTER idle cycles with SLEEP_EN a core enters SLEEP. -/
  | sleepEntry (core : Nat)
  /-- CORE_WAKE_DONE (R428): A sleeping core becomes able to dispatch 64 cycles after a task became ready or WAKE. -/
  | coreWakeDone (core : Nat)
  /-- CC_CTRL_WAKE (R428): A write of CC_CTRL.WAKE wakes a sleeping core. -/
  | ccCtrlWake (core : Nat)
  /-- CC_ENABLE_WRITE (R426): A write of CC_CTRL.ENABLE lets a core take tasks, or restarts a STOPPED core after 0 then 1. -/
  | ccEnableWrite (core : Nat) (enable : Bool)
  /-- CC_DOM_WRITE (R423): A write to a domain descriptor is applied, or ignored with WR_ERR if forbidden. -/
  | ccDomWrite (dom : Nat) (w : DomWrite)
  /-- TASK_DISPATCH (R462): A core's bivouac task issues its first instruction after the running task yields or ends. -/
  | taskDispatch (core : Nat)
  /-- BIVOUAC_LOAD_DONE (R462): The head of a ready list is loaded with its context into the bivouac slot. -/
  | bivouacLoadDone (core : Nat)
  /-- TASK_ARM (R459): TS_TASK_CMD ARM moves a FREE task to WAIT with a flow ticket. -/
  | taskArm
  /-- TASK_CANCEL (R459): TS_TASK_CMD CANCEL cancels a waiting or ready task or sets a running task's pending-cancel flag. -/
  | taskCancel (frozen : Nat)
  /-- TASK_FREE (R459): TS_TASK_CMD FREE returns a released DONE or CANCELLED task to FREE. -/
  | taskFree
  /-- TS_TASK_FLAGS_WRITE (R465): A W1S write of TS_TASK_FLAGS is a flag-set event that may make the task ready. -/
  | tsTaskFlagsWrite (x : Word)
  /-- CH_ENABLE (R440): CH_CTRL ENABLE makes a channel ACTIVE if its camp and configuration allow. -/
  | chEnable (chan : Nat) (frozen : Nat)
  /-- CH_QUIESCE (R440): CH_CTRL QUIESCE stops fetching and lets in-flight messages complete. -/
  | chQuiesce (chan : Nat)
  /-- CHANNEL_QUIESCED (R440): A quiescing channel with nothing moving becomes QUIESCED. -/
  | channelQuiesced (chan : Nat)
  /-- CH_DISABLE (R440): CH_CTRL DISABLE discards held messages and disables the channel. -/
  | chDisable (chan : Nat)
  /-- CHANNEL_DOORBELL (R695): A host doorbell gives a HOST channel its inbound producer and outbound consumer indices. -/
  | channelDoorbell (chan : Nat) (value : BitVec 32) (merged : Bool) (frozen : Nat)
  /-- INBOUND_SLOT_FETCHED (R443): An inbound host-ring slot is copied into the mirror ring and checked as a message. -/
  | inboundSlotFetched (chan : Nat) (bytes : List Byte) (frozen : Nat)
  /-- DATA_MESSAGE (R444): A DATA message from a partner is checked and accepted, held, dropped or rejected by its sequence number. -/
  | dataMessage (chan : Nat) (bytes : List Byte) (frozen : Nat)
  /-- CREDIT_MESSAGE (R445): A CREDIT message raises LIMIT if newer. -/
  | creditMessage (chan : Nat) (bytes : List Byte) (frozen : Nat)
  /-- OUTBOUND_COPY_DONE (R443): An outbound message is copied to the host ring, the producer index updated and the vector signalled. -/
  | outboundCopyDone (chan : Nat)
  /-- MIRROR_BUS_ERROR (R730): A mirror-ring access with a bus error logs MIRROR_ERR and quiesces the channel. -/
  | mirrorBusError (chan : Nat) (out : Bool) (cause : Nat) (seq : Nat)
  /-- CHANNEL_TIMEOUT (R453): A channel wait reaches its timeout and POLICY is applied. -/
  | channelTimeout (chan : Nat) (byMs : Bool) (frozen : Nat)
  /-- TS_LOG_KEEP_WRITE (R455): A write of KEEP may release a replay-log FULL stall. -/
  | tsLogKeepWrite (camp : Nat) (keep : Nat) (frozen : Nat)
  /-- NOC_PACKET (R483): A NoC packet wins arbitration at a router output and moves one hop along its fixed route. -/
  | nocPacket (router : Nat) (out : Nat) (net : Nat) (injected : List NocPkt)
  /-- CRITICAL_WINDOW_END (R487): A 1,024-cycle window ends and critical load above 102 flits sets OVER. -/
  | criticalWindowEnd (router : Nat)
  /-- FENCE_DOORBELL (R491): A fence doorbell holds later doorbells until earlier BAR writes are visible. -/
  | fenceDoorbell (token : Nat)
  /-- FENCE_COMPLETE (R491): Earlier writes are visible; the token is written and held doorbells released. -/
  | fenceComplete (frozen : Nat)
  /-- DOMAIN_ON (R641): PW_DOM ON is accepted and the domain reads WAKING. -/
  | domainOn (dom : Nat)
  /-- DOMAIN_ON_START (R641): A waiting ON transition begins once PW_STAGGER has passed since the last. -/
  | domainOnStart (sinceLast : Nat)
  /-- DOMAIN_ON_DONE (R640): A rail reaches regulation; its NoC nodes open, or a pitch starts its wake clear. -/
  | domainOnDone (dom : Nat)
  /-- DOMAIN_OFF (R642): PW_DOM OFF closes the domain's nodes and drains them, or is refused with ERR. -/
  | domainOff (dom : Nat) (side : Bool)
  /-- POWER_DOWN_DRAIN_DONE (R492): Nothing remains in flight and the domain is isolated and switched off. -/
  | powerDownDrainDone (dom : Nat)
  /-- PD_TIMEOUT (R492): NOC_PD_TIMEOUT expires; remaining traffic is discarded and the domain switched off. -/
  | pdTimeout (dom : Nat)
  /-- PROBE_POP (R503): NOC_PROBE_TR_CTRL.POP removes the oldest probe trace record. -/
  | probePop (probe : Nat)
  /-- TRAINING_RETRY (R506): 10 ms after a failure a port with EN = 1 restarts training at DETECT. -/
  | trainingRetry (port : Nat)
  /-- TRAINING_STATE_TIMEOUT (R506): A training state's limit expires and training fails, or KEY goes UP unencrypted. -/
  | trainingStateTimeout (port : Nat)
  /-- CAPABILITY_WORD (R507): A capability word is received in CAP and the rate is agreed. -/
  | capabilityWord (port : Nat) (word : Nat)
  /-- TRAINING_STATE_DONE (R506): A training state completes its work and the port moves to the next state. -/
  | trainingStateDone (port : Nat) (obs : TrainObs)
  /-- EQ_REQUEST (R511): HN_EQ_REQ.GO sends a host equalization request for a receive lane. -/
  | eqRequest (port : Nat) (tap : Nat) (op : Nat) (preset : Nat)
  /-- EQ_RESPONSE (R510): The far transmitter answers an equalization request. -/
  | eqResponse (port : Nat) (resp : Nat) (height : Nat) (width : Nat)
  /-- FLIT_RECEIVE (R516): A flit is received and judged by FEC, CRC, tag and sequence number. -/
  | flitReceive (port : Nat) (f : Flit) (obs : FlitObs)
  /-- DATA_FLIT (R514): A DATA flit's crossing items are delivered to the hub switch. -/
  | dataFlit (port : Nat) (d : DataPay)
  /-- REPLAY_TIMEOUT (R516): A flit unacknowledged for 2 µs is resent. -/
  | replayTimeout (port : Nat)
  /-- RETRAIN (R517): HN_CTRL RETRAIN makes the port retrain through DOWN. -/
  | retrain (port : Nat) (f : HnFields)
  /-- HN_SPARE_CMD (R520): HN_CTRL SPARE starts sparing of the named receive lane. -/
  | hnSpareCmd (port : Nat) (f : HnFields)
  /-- EXIT_IDLE (R519): HN_CTRL EXIT_IDLE makes the port leave electrical idle. -/
  | exitIdle (port : Nat) (f : HnFields)
  /-- IDLE_TIMER (R518): After IDLE_AFTER µs of IDLE flits the port sends IDLE_ENTER. -/
  | idleTimer (port : Nat)
  /-- IDLE_ENTER (R518): An IDLE_ENTER slot places both ends' lanes in electrical idle. -/
  | idleEnter (port : Nat)
  /-- IDLE_EXIT_BURST (R519): A training burst from the far end makes the port relock and answer. -/
  | idleExitBurst (port : Nat)
  /-- IDLE_LOCK_TIMEOUT (R519): Flit lock not regained within 10 µs of idle exit makes the port retrain. -/
  | idleLockTimeout (port : Nat)
  /-- LANE_LOCK_LOSS (R520): A lane loses lock and needs sparing or retraining. -/
  | laneLockLoss (port : Nat) (lane : Nat)
  /-- SPARE_REQ (R520): A SPARE_REQ makes the transmitter wake lane 8 and mirror the failing lane. -/
  | spareReq (port : Nat) (lane : Nat)
  /-- SPARE_DONE (R520): SPARE_DONE makes the transmitter idle the replaced lane. -/
  | spareDone (port : Nat) (lane : Nat)
  /-- SPARING_TIMEOUT (R520): No SPARE_DONE within 10 µs makes the port retrain. -/
  | sparingTimeout (port : Nat)
  /-- EPOCH (R526): An EPOCH slot switches the receive direction to the new epoch key once. -/
  | epoch (port : Nat)
  /-- PROBE (R512): A PROBE slot is answered with an ECHO carrying the turnaround time. -/
  | probe (port : Nat) (turnaround : Nat)
  /-- ECHO (R512): An ECHO gives a one-way latency sample and the largest of 16 is recorded. -/
  | echo (port : Nat) (turnaround : Nat) (roundTrip : Nat)
  /-- HELLO (R531): A HELLO updates the neighbour's address and port state. -/
  | hello (port : Nat) (addr : Nat) (valid : Bool) (peerPort : Nat)
  /-- HELLO_TIMER (R530): Every 1 ms after UP a port sends a HELLO. -/
  | helloTimer (port : Nat)
  /-- FB_ID_WRITE (R529): A write of FB_ID sets the module address and triggers HELLO and TOPO. -/
  | fbIdWrite (addr : Nat) (valid : Bool)
  /-- LOAD_PACKET (R537): A LOAD fabric packet carrying placement entries or a segment is routed, forwarded or kept. -/
  | loadPacket (port : Option Nat) (pkt : Packet)
  /-- CHANNEL_PACKET (R534): A CHANNEL fabric packet carrying a PEER channel message is routed or delivered. -/
  | channelPacket (port : Option Nat) (pkt : Packet) (frozen : Nat)
  /-- TOPO (R535): A TOPO packet updates the topology record and is flooded if newer. -/
  | topo (port : Nat) (pkt : Packet)
  /-- MGMT (R568): A MGMT packet delivers firmware management such as a design-time increment and its acknowledgement. -/
  | mgmt (port : Option Nat) (pkt : Packet)
  /-- TOPO_TIMER (R535): 100 ms after its last TOPO a module floods a new one. -/
  | topoTimer
  /-- TOPO_RECORD_EXPIRE (R535): A topology record not renewed for 400 ms is dropped. -/
  | topoRecordExpire (addr : Nat)
  /-- ROUTE_COMPUTE (R536): Firmware recomputes route tables in the inactive bank after a topology change and activates it. -/
  | routeCompute
  /-- FB_ACTIVE_WRITE (R538): A write of FB_CTRL.ACTIVE switches the route bank in host mode. -/
  | fbActiveWrite (active : Nat)
  /-- ROUTE_HOST_WRITE (R538): A write of FB_CTRL.ROUTE_HOST is accepted only while no packet is in flight. -/
  | routeHostWrite (host : Bool)
  /-- LINK_LOSS (R544): A port out of UP for LOSS_MS, or with a changed peer, loses its link and halts camps with hops on it. -/
  | linkLoss (port : Nat)
  /-- SYNC (R562): A SYNC from the parent forms the offset and runs the servo or step. -/
  | sync (port : Nat) (offer : Bool) (root : Nat) (hops : Nat) (ns : Nat) (frac : Nat)
  /-- HIGH (R560): A HIGH completes the upper nanoseconds of the preceding SYNC's T_sync. -/
  | high (port : Nat) (ns : Nat)
  /-- SYNC_TIMER (R560): Every 125 µs a LOCKED or ROOT module sends SYNC and HIGH on each ACTIVE port. -/
  | syncTimer
  /-- AUTO_ROOT_TIMEOUT (R558): After 400 ms without an offer, the broadcast root with AUTO_ROOT becomes the time root. -/
  | autoRootTimeout
  /-- TM_ROOT (R558): TM_CTRL ROOT makes a FREE module the time root. -/
  | tmRoot (f : TmFields)
  /-- TM_RESET (R559): TM_CTRL RESET returns the module's time to FREE. -/
  | tmReset (f : TmFields)
  /-- TM_LOAD (R559): TM_CTRL LOAD loads the staged fabric time in FREE. -/
  | tmLoad (f : TmFields)
  /-- TM_RATE_WRITE (R562): A host write of TM_RATE in servo host mode is clamped and applied. -/
  | tmRateWrite (value : Nat)
  /-- TM_DT_INC_HI_WRITE (R567): A write of TM_DT_INC_HI submits a design-time increment for a later boundary. -/
  | tmDtIncHiWrite (camp : Nat) (hi : Nat)
  /-- COMPARATOR_FIRE (R570): A time comparator's source reaches TARGET; it fires, pulses, triggers or interrupts. -/
  | comparatorFire (k : Nat)
  /-- PULSE_WIDTH_END (R572): A time-pulse output's WIDTH_NS ends and the pin is driven low. -/
  | pulseWidthEnd (pin : Nat)
  /-- CAPTURE_INPUT_EDGE (R573): A conditioned edge on a time-capture input stores a fabric-time stamp. -/
  | captureInputEdge (input : Nat)
  /-- TRIGGER_IN_EDGE (R591): A conditioned trigger-in edge is latched for the next evaluated sample. -/
  | triggerInEdge
  /-- CONDITIONER_WINDOW_END (R605): At the end of an 8 ns window a differing input level is passed as one edge. -/
  | conditionerWindowEnd (input : Nat)
  /-- INPUT_STUCK (R605): An input active longer than STUCK_MS sets STUCK and is masked. -/
  | inputStuck (input : Nat)
  /-- ACQ_ARM (R595): ACQ_CTRL ARM puts a capture unit in ARMED in buffer 0. -/
  | acqArm (unit : Nat) (f : AcqFields)
  /-- ACQ_STOP (R595): ACQ_CTRL STOP closes the buffer and stops the unit. -/
  | acqStop (unit : Nat) (f : AcqFields)
  /-- ACQ_FORCE (R595): ACQ_CTRL FORCE triggers the unit at the next sample. -/
  | acqForce (unit : Nat) (f : AcqFields)
  /-- DEC_FORCE (R588): ACQ_DEC_CFG.FORCE raises a decoder hit as an event condition. -/
  | decForce (dec : Nat) (format : Nat) (host : Bool)
  /-- POST_CYCLES_END (R595): POST_CYCLES samples after the trigger the buffer closes. -/
  | postCyclesEnd (unit : Nat)
  /-- HOLDOFF_END (R595): After the holdoff the unit re-arms in the next buffer. -/
  | holdoffEnd (unit : Nat)
  /-- CAPTURE_WRITE_DONE (R594): A capture write to the ring completes; a full buffer closes. -/
  | captureWriteDone (unit : Nat)
  /-- CAPTURE_BUS_ERROR (R598): A capture write bus error stops the unit and closes the buffer with CLOSE 4. -/
  | captureBusError (unit : Nat)
  /-- TRIGOUT_WIDTH_END (R604): The trigger-out pulse width ends and the pin goes low. -/
  | trigoutWidthEnd
  /-- TR_FLUSH (R622): TR_CTRL FLUSH closes every core's open frame. -/
  | trFlush
  /-- TR_ROUTE (R627): TR_CTRL ROUTE returns trace to the ring after a bus error. -/
  | trRoute
  /-- CLEAR_FB (R628): TR_CTRL CLEAR_FB clears the fallback buffer. -/
  | clearFb
  /-- FRAME_FLUSH_TIMER (R622): FLUSH_US without a new packet closes a core's frame. -/
  | frameFlushTimer (core : Nat)
  /-- CAIRN_TIMER (R624): CAIRN_US since the last cairn emits a PERIODIC cairn. -/
  | cairnTimer (core : Nat)
  /-- TRACE_FRAME_WRITE (R626): A closed frame is written to the ring or the fallback buffer. -/
  | traceFrameWrite
  /-- TRACE_BUS_ERROR (R627): A trace write with a bus error switches frames to the fallback buffer and sets ERR. -/
  | traceBusError
  /-- FALLBACK_DRAIN_DONE (R628): The fallback buffer copy to the ring ends and DRAINING falls. -/
  | fallbackDrainDone
  /-- TOKEN_LOAD (R630): TR_TOKEN_CMD LOAD reads and verifies a trace token into a slot. -/
  | tokenLoad (slot : Nat)
  /-- TOKEN_LOAD_DONE (R629): A token read completes and is judged valid or given RESULT. -/
  | tokenLoadDone (ok : Bool) (bytes : List Byte)
  /-- TOKEN_REVOKE (R630): TR_TOKEN_CMD REVOKE clears a token slot. -/
  | tokenRevoke (slot : Nat)
  /-- POWER_ON (R655): The input qualifies at 9.0 V for 10 ms and the module leaves reset at phase 0. -/
  | powerOn (refin : Bool)
  /-- INPUT_BROWNOUT (R638): Input below 8.5 V for 100 µs switches off every domain but always-on. -/
  | inputBrownout
  /-- INPUT_OVERVOLTAGE (R638): Input above 62 V for 100 µs switches off every domain but always-on. -/
  | inputOvervoltage
  /-- THERMAL_SHUTDOWN (R647): A die at 115 °C shuts the module down. -/
  | thermalShutdown
  /-- POWER_CONTROL_INTERVAL (R646): At each 100 µs interval the controller compares power, current and temperature with limits. -/
  | powerControlInterval (o : PowerObs)
  /-- ROM_VERIFY_DONE (R651): The boot ROM verifies a firmware slot and enters FW, or neither and enters RECOVERY. -/
  | romVerifyDone
  /-- DRAM_PHASE_DONE (R651): Every channel is ACTIVE or left UNTRAINED, or one FAILED. -/
  | dramPhaseDone (delays : List Nat) (bounds : List Nat)
  /-- PINS_PHASE_DONE (R603): All 64 lantern pins are sensed and the module becomes READY. -/
  | pinsPhaseDone (times : List (Option Nat))
  /-- RECOVERY_STREAM_VERIFIED (R651): A firmware stream verifies in RECOVERY, is written to slot 0 and boot restarts. -/
  | recoveryStreamVerified
  /-- PW_RESET (R655): PW_CTRL RESET raises a module reset. -/
  | pwReset (f : PwFields)
  /-- FW_PROGRAM (R654): PW_CTRL FW_PROGRAM reads and verifies a firmware image for the other slot. -/
  | fwProgram (f : PwFields)
  /-- FW_PROGRAM_DONE (R654): The firmware write ends, the record is rewritten and RESULT is set. -/
  | fwProgramDone (ok : Bool) (bytes : List Byte) (flash : Bool)
  /-- REFIN_LOSS (R718): REFIN without edges for 100 ns switches the module to the on-board oscillator and sets LOST. -/
  | refinLoss
  /-- USE_IN (R718): PW_REFCLK USE_IN returns the reference to REFIN if present. -/
  | useIn (outEn : Bool)
  /-- USE_LOCAL (R719): PW_REFCLK USE_LOCAL selects the on-board oscillator. -/
  | useLocal (outEn : Bool)
  /-- SCRUB_READ (R667): A scrub engine reads a word, rewrites a corrected one or logs an uncorrectable one. -/
  | scrubRead (loc : ClusterSite) (kind : Nat) (unit : Nat) (addr : Nat) (err : Nat)
  /-- SCRUB_GO (R668): SC_CTRL.GO starts one host-scheduled scrub pass. -/
  | scrubGo (die : Nat) (kind : Nat) (slot : Nat)
  /-- SCRUB_PASS_DONE (R668): A scrub pass completes and BUSY falls. -/
  | scrubPassDone (die : Nat)
  /-- SUPERVISOR_CHECK (R670): Every 1 ms the supervisor compares each scrub engine's checksum and reloads on mismatch. -/
  | supervisorCheck (bad : List Nat)
  /-- SCRUB_RELOAD_DONE (R670): A scrub engine reload ends and its pass restarts. -/
  | scrubReloadDone (die : Nat)
  /-- BIST (R671): HS_CMD BIST tests a pitch, DRAM channel or Halnal port, or is refused. -/
  | bist (target : Nat) (index : Nat)
  /-- BIST_DONE (R672): A BIST ends, failing units are recorded and RESULT is set. -/
  | bistDone (fails : List UnitId) (rows : List (Nat × Nat × Nat))
  /-- FLUSH_WEAR (R674): HS_CMD FLUSH_WEAR writes the accumulated error sums to the wear record. -/
  | flushWear (target : Nat) (index : Nat)
  /-- WEAR_FLUSH_TIMER (R674): Every FLUSH_S seconds per-unit error sums are written and cleared. -/
  | wearFlushTimer
  /-- WEAR_COMPACT_DONE (R674): Compaction of the full wear record ends and queued entries are written. -/
  | wearCompactDone
  /-- HS_PITCH_MAP_WRITE (R35): A write of SPARE_COL takes effect at the pitch's next load and sets PENDING. -/
  | hsPitchMapWrite (pitch : Nat) (spareCol : Nat)
  /-- HS_BP_MAP_WRITE (R35): A write of a BP map entry takes effect at the pitch's next load. -/
  | hsBpMapWrite (loc : ClusterSite) (spare0 : Nat) (spare1 : Nat) (failed : Bool)
  /-- HS_COL_MAP_WRITE (R678): A write of a column map entry takes effect at the pitch's next load. -/
  | hsColMapWrite (loc : ClusterSite) (col0 : Nat) (col1 : Nat)
  /-- BAR2_READ (R691): A host read through a BAR2 aperture reaches deep memory under the aperture's key ID. -/
  | bar2Read (off : Nat) (len : Nat) (obs : DeepObs)
  /-- BAR2_WRITE (R691): A host posted write through a BAR2 aperture reaches deep memory or is dropped. -/
  | bar2Write (off : Nat) (bytes : List Byte) (obs : DeepObs)
  /-- BAR_BAD_ACCESS (R690): A misaligned or wrong-size BAR0 or BAR4 access is aborted or dropped and logged. -/
  | barBadAccess (off : Nat) (write : Bool)
  /-- MSIX_UNMASK (R698): Unmasking a vector with a pending PBA bit sends its message. -/
  | msixUnmask (vector : Nat)
  /-- PCIE_RESET (R693): A conventional reset or FLR resets host-interface state and discards pending fences. -/
  | pcieReset
  /-- HI_CH_VEC_WRITE (R698): A write of a channel's vector below 80 is ignored and logged. -/
  | hiChVecWrite (chan : Nat) (vec : Nat)
  /-- RC_READ (R19): A read of a read-clear field returns its value and clears it. -/
  | rcRead (place : RegSpace) (wide : Bool)
  /-- HOLDING_REGISTER_READ (R20): A 32-bit read at offset 0x4 returns and empties the slot's holding register. -/
  | holdingRegisterRead (slot : Nat)
  /-- RUN_CAMP_CYCLE_LO_READ (R53): A read of RUN_CAMP_CYCLE_LO latches the upper count bits into RUN_CAMP_CYCLE_HI. -/
  | runCampCycleLoRead (camp : Nat) (wide : Bool)
  /-- TS_LOG_POS_LO_READ (R469): A read of TS_LOG_POS_LO latches the upper bits of LOG_POS. -/
  | tsLogPosLoRead (camp : Nat) (wide : Bool)
  /-- TM_NOW_FRAC_READ (R578): A read of TM_NOW_FRAC latches fabric-time nanoseconds. -/
  | tmNowFracRead (wide : Bool)
  /-- TM_DT_FRAC_READ (R578): A read of TM_DT_FRAC latches the camp's design-time nanoseconds. -/
  | tmDtFracRead (camp : Nat) (wide : Bool)
  /-- TM_CAP_FRAC_READ (R573): A read of TM_CAP_FRAC removes the oldest stamp and latches its nanoseconds. -/
  | tmCapFracRead (input : Nat) (wide : Bool)
  /-- TR_FB_DATA_READ (R628): A read of TR_FB_DATA returns a fallback-frame word and advances WORD. -/
  | trFbDataRead (wide : Bool)
  /-- ID_KEY_DATA_READ (R705): A read of ID_KEY_DATA returns a key word and advances WORD. -/
  | idKeyDataRead (wide : Bool)
  /-- REGISTER_WRITE (R15): A host write to a register without a row of its own stores RW fields, clears W1C bits or sets W1S bits. -/
  | registerWrite (place : RegSpace) (wide : Bool) (value : Nat) (obs : WriteObs)
  /-- TEST_LOGIC_RESET (R699): Test-Logic-Reset selects IDCODE. -/
  | testLogicReset
  /-- EXTEST (R699): Test port EXTEST drives the boundary register, if every camp is UNLOADED. -/
  | extest (shift : List Bool)
  /-- SAMPLE_PRELOAD (R699): Test port SAMPLE/PRELOAD samples or preloads the boundary register. -/
  | samplePreload (pins : List Bool) (shift : List Bool)
  /-- IDCODE (R699): Test port IDCODE shifts out ID_JTAG.IDCODE. -/
  | idcode
  /-- CLAMP (R699): Test port CLAMP holds boundary outputs with bypass selected. -/
  | clamp
  /-- HIGHZ (R699): Test port HIGHZ places outputs at high impedance. -/
  | highz
  /-- REG_ACCESS (R700): A REG_ACCESS Update-DR performs one BAR0 read or write in the allowed blocks. -/
  | regAccess (dr : Nat) (obs : WriteObs)
  /-- LOAD_STREAM (R701): A LOAD_STREAM Update-DR delivers stream bytes to the loader or the recovery ROM. -/
  | loadStream (dr : Nat)
  /-- MODULE_RESET (R699): Test port MODULE_RESET raises a module reset. -/
  | moduleReset
  /-- BYPASS (R699): Test port BYPASS selects the one-bit bypass register. -/
  | bypass
  /-- SMB_PHASE (R702): SMBus read of the boot phase, READY and last reset. -/
  | smbPhase
  /-- SMB_VIN (R702): SMBus read of input voltage. -/
  | smbVin
  /-- SMB_IIN (R702): SMBus read of input current. -/
  | smbIin
  /-- SMB_PIN (R702): SMBus read of input power. -/
  | smbPin
  /-- SMB_TEMP (R702): SMBus block read of die temperatures. -/
  | smbTemp
  /-- SMB_IDENT (R702): SMBus block read of identity fields. -/
  | smbIdent
  /-- SMB_ALARM (R702): SMBus block read of the alarm log and count. -/
  | smbAlarm
  /-- SMB_DOMAINS (R702): SMBus block read of every domain's state. -/
  | smbDomains
  /-- SMB_RESET (R702): SMBus RESET with 0xA5 raises a module reset. -/
  | smbReset (value : Nat)
  /-- HOSTIF (R702): SMBus HOSTIF switches domain 76 on or off. -/
  | hostif (value : Nat)
  /-- INPUT_RECOVERY (R655): After a brown-out or overvoltage switch-off, the input recovers to 9.0 V before the always-on domain is lost and boot restarts at phase 1 as a module reset with LAST_RESET 2 or 3. -/
  | inputRecovery
  /-- THERMAL_COOLDOWN (R655): After a thermal shutdown, the die cools below TEMP_LIM and the module restarts as a module reset with LAST_RESET 4. -/
  | thermalCooldown
  /-- INPUT_POWER_REMOVED (R638): The input falls below 7.0 V, the always-on domain is lost, and keys, tokens, TR_CHALLENGE and the trace fallback buffer are lost and every pin goes unpowered. -/
  | inputPowerRemoved
  /-- REFIN_RETURN (R719): Edges reappear on REFIN and PW_REFCLK.PRESENT becomes 1, so a later USE_IN is accepted. -/
  | refinReturn
  /-- MR4_TEMPERATURE_CHANGE (R348): A DDR5 device reports through MR4 a temperature crossing 85 °C, so the refresh interval halves or returns, DM_STATUS.HOT changes and the row-disturbance window becomes 16 ms or 32 ms. -/
  | mr4TemperatureChange (chan : Nat) (hot : Bool)
  /-- INPUT_LEVEL_CHANGE (R605): The raw level of trigger-in or a time-capture input changes, so the conditioner filters short pulses, counts an edge that the 8 ns rate does not pass in OVERRATE, and starts the STUCK_MS timer. -/
  | inputLevelChange (input : Nat) (level : Bool) (short : Bool)
  /-- STUCK_MASK_RELEASE (R605): A stuck-masked input has been inactive for 4 ns and MASKED clears without passing an edge. -/
  | stuckMaskRelease (input : Nat)
  deriving DecidableEq, Repr

end Sys2Proof
end

