-- ==== Sys2Proof/Decode.lean ====
section
/-! DEFINITION. The host's question which command a word spells. No row of spec/opcode_table.json gives bits: the block has no instruction encoding of its own (the words of BPs, word units and channel cores lie in the block's memories and the commands that run them carry their fields), so no word spells a command. -/

namespace Sys2Proof

/-- The command that a word spells by the bits of spec/opcode_table.json: none, for no row has bits. DESIGN CHOICE (log 1), safe. -/
def decodeTableWord (_nbits _w : Nat) : Option Instr := none

end Sys2Proof
end

