-- ==== Sys2Proof/Config.lean ====
section
/-! DEFINITION. What an implementation fixes and the spec leaves open: free values, constants with no body. -/

namespace Sys2Proof

/-- What an implementation takes for the column of a data bit in the (48,40) code of R147, by bit number; the spec gives no code table. DESIGN CHOICE (log 9), safe. DESIGN CHOICE (log 9), safe. -/
opaque Config.eccColumn : Nat → BitVec 8

/-- A byte of deep memory whose contents the spec does not give (R375, and DRAM after power-on), by the number of the draw and the address. DEDUCED (log 7), safe. -/
opaque Config.sealedByte : Nat → Nat → Byte

/-- The module's private P-384 key (R378), made at manufacture. PRESUMED (log 10), unsafe. -/
opaque Config.deviceKey : Nat

/-- A byte drawn from the DRBG (R376, R629), by the number of the draw. DESIGN CHOICE (log 8), safe. PRESUMED (log 10), unsafe. -/
opaque Config.drbg : Nat → Nat → Byte

/-- The reason of the cairn that begins every SYNC_FRAMES-th frame (R622) where none of R624 is due; the spec gives none. DEDUCED (log 48), unsafe. -/
opaque Config.syncReason : Nat → BitVec 4

/-- The depth of an asynchronous FIFO other than an elastic buffer, as a power of two, by its identity (R204, R211): the spec gives none. DESIGN CHOICE (log 32), safe. -/
opaque Config.fifoBits : Nat → Nat

/-- The bytes of a fabric packet's data (R532) whose layout the spec does not give: placement entries, COMMIT, ABORT and reports of a load, and management. DESIGN CHOICE (log 34), safe. DESIGN CHOICE (log 34), safe. -/
opaque Config.packetBytes : PktData → List Byte

/-- A value that the spec leaves open where the machine goes on: by the number of the draw and the item. DESIGN CHOICE (log 8), safe. -/
opaque Config.openValue : Nat → Nat → Nat

end Sys2Proof
end

