-- ==== Sys2Proof/Machine/Sha.lean ====
section
/-! DEFINITION. Numbers as bytes, and SHA-384 and HMAC-SHA-384, which R278, R298 and R306 name: FIPS 180-4 and FIPS 198-1. -/

namespace Sys2Proof.Machine

/-- A number of `n` bytes, little-endian. -/
def leBytes (x n : Nat) : List Byte := (List.range n).map fun i => BitVec.ofNat 8 (x / 256 ^ i)

/-- The number that bytes hold, little-endian. -/
def leNat (bs : List Byte) : Nat := bs.foldr (fun b x => b.toNat + 256 * x) 0

/-- A number of `n` bytes, big-endian. -/
def beBytes (x n : Nat) : List Byte := (leBytes x n).reverse

/-- The number that bytes hold, big-endian. -/
def beNat (bs : List Byte) : Nat := leNat bs.reverse

/-- Bytes cut into blocks of `k`, at most `n` of them. -/
def blocksOf (k : Nat) : Nat → List Byte → List (List Byte)
  | 0, _ => []
  | n + 1, b => if b.isEmpty then [] else b.take k :: blocksOf k n (b.drop k)

/-- Two strings of bytes added bit by bit; the result is as long as the shorter one. -/
def xorBytes (a b : List Byte) : List Byte := List.zipWith (· ^^^ ·) a b

/-- A word of SHA-384. -/
abbrev ShaWord := BitVec 64

/-- The largest number whose power `k` is at most `x`, below 2^72. -/
def rootOf (k x : Nat) : Nat := (List.range 72).foldr (fun i r => if (r + 2 ^ i) ^ k ≤ x then r + 2 ^ i else r) 0

/-- The first prime numbers, below 410: 80 of them. -/
def shaPrimes : List Nat := (List.range 410).filter fun n => decide (2 ≤ n) && (List.range n).all fun d => decide (d < 2) || n % d != 0

/-- The 80 round constants: the first 64 bits of the fractions of the primes' cube roots. -/
def shaRound : List ShaWord := shaPrimes.map fun p => BitVec.ofNat 64 (rootOf 3 (p * 2 ^ 192))

/-- The first hash value of SHA-384: the same of the square roots of the ninth to sixteenth primes. -/
def shaFirst : List ShaWord := ((shaPrimes.drop 8).take 8).map fun p => BitVec.ofNat 64 (rootOf 2 (p * 2 ^ 128))

/-- A message padded to blocks of 128 bytes. -/
def shaPad (m : List Byte) : List Byte := m ++ [0x80] ++ List.replicate ((239 - m.length % 128) % 128) 0 ++ beBytes (8 * m.length) 16

/-- The message schedule of a block: 80 words. -/
def shaSchedule (b : List Byte) : List ShaWord :=
  let first := (List.range 16).map fun i => BitVec.ofNat 64 (beNat ((b.drop (8 * i)).take 8))
  (List.range 64).foldl (fun w i =>
    let x := w.getD (i + 1) 0
    let y := w.getD (i + 14) 0
    let s0 := x.rotateRight 1 ^^^ x.rotateRight 8 ^^^ (x >>> 7)
    let s1 := y.rotateRight 19 ^^^ y.rotateRight 61 ^^^ (y >>> 6)
    w ++ [s1 + w.getD (i + 9) 0 + s0 + w.getD i 0]) first

/-- One round on the eight working words, with the sum of its constant and its schedule word. -/
def shaStep (v : List ShaWord) (kw : ShaWord) : List ShaWord :=
  match v with
  | [a, b, c, d, e, f, g, h] =>
    let t1 := h + (e.rotateRight 14 ^^^ e.rotateRight 18 ^^^ e.rotateRight 41) + ((e &&& f) ^^^ (~~~e &&& g)) + kw
    let t2 := (a.rotateRight 28 ^^^ a.rotateRight 34 ^^^ a.rotateRight 39) + ((a &&& b) ^^^ (a &&& c) ^^^ (b &&& c))
    [t1 + t2, a, b, c, d + t1, e, f, g]
  | _ => v

/-- A block taken into the hash value. -/
def shaBlock (h : List ShaWord) (b : List Byte) : List ShaWord :=
  List.zipWith (· + ·) h ((List.zipWith (· + ·) shaRound (shaSchedule b)).foldl shaStep h)

/-- SHA-384. PRESUMED (log 10), unsafe. -/
@[irreducible] def sha384 (m : List Byte) : List Byte :=
  let p := shaPad m
  (((blocksOf 128 (p.length / 128) p).foldl shaBlock shaFirst).take 6).flatMap fun x => beBytes x.toNat 8

/-- HMAC-SHA-384 of a key and a message. PRESUMED (log 10), unsafe. -/
@[irreducible] def hmacSha384 (key m : List Byte) : List Byte :=
  let k0 := if 128 < key.length then sha384 key else key
  let k := k0 ++ List.replicate (128 - k0.length) 0
  sha384 (k.map (· ^^^ 0x5C) ++ sha384 (k.map (· ^^^ 0x36) ++ m))

end Sys2Proof.Machine
end

