-- ==== Sys2Proof/Machine/Aes.lean ====
section
/-! DEFINITION. AES-256 (FIPS 197) and what the spec uses of it: CMAC (R381, R384; SP 800-38B), XTS (R380; IEEE 1619), GCM (R297, R397; SP 800-38D) and key unwrap (R377; SP 800-38F). -/

namespace Sys2Proof.Machine

/-- A product by x in GF(2^8). -/
def gfDouble (a : Byte) : Byte := if a.getLsbD 7 then (a <<< 1) ^^^ 0x1B else a <<< 1

/-- A product in GF(2^8). -/
def gfMul (a b : Byte) : Byte := ((List.range 8).foldl (fun (r : Byte × Byte) i => (if b.getLsbD i then r.1 ^^^ r.2 else r.1, gfDouble r.2)) (0, a)).1

/-- The inverse in GF(2^8), and zero of zero: the power 254. -/
def gfInv (a : Byte) : Byte := (List.range 7).foldl (fun (r : Byte) _ => gfMul (gfMul r r) (gfMul a a)) 1

/-- The substitution of a byte. -/
def subByte (a : Byte) : Byte :=
  let x := gfInv a
  x ^^^ x.rotateLeft 1 ^^^ x.rotateLeft 2 ^^^ x.rotateLeft 3 ^^^ x.rotateLeft 4 ^^^ 0x63

/-- The inverse substitution. -/
def invSubByte (a : Byte) : Byte := gfInv (a.rotateLeft 1 ^^^ a.rotateLeft 3 ^^^ a.rotateLeft 6 ^^^ 0x05)

/-- The key schedule of a key of 32 bytes: 60 words of 4 bytes, joined. -/
def aesKeys (key : List Byte) : List Byte :=
  ((List.range 52).foldl (fun (w : List (List Byte)) n =>
    let i := n + 8
    let t := w.getLast?.getD []
    let t1 := if i % 8 = 0 then xorBytes ((t.drop 1 ++ t.take 1).map subByte) [1#8 <<< (i / 8 - 1), 0, 0, 0]
      else if i % 8 = 4 then t.map subByte else t
    w ++ [xorBytes (w.getD n []) t1]) (blocksOf 4 8 key)).flatten

/-- The key of a round. -/
def roundKey (ks : List Byte) (r : Nat) : List Byte := (ks.drop (16 * r)).take 16

/-- Row `r` of the state rotated by `r`. -/
def shiftRows (b : List Byte) : List Byte := (List.range 16).map fun i => b.getD ((i + 4 * (i % 4)) % 16) 0

/-- The inverse shift. -/
def invShiftRows (b : List Byte) : List Byte := (List.range 16).map fun i => b.getD ((i + 12 * (i % 4)) % 16) 0

/-- Each column is multiplied by the circulant of four bytes. -/
def mixWith (c : List Byte) (b : List Byte) : List Byte :=
  (List.range 16).map fun i => (List.range 4).foldl (fun x j => x ^^^ gfMul (c.getD ((j + 4 - i % 4) % 4) 0) (b.getD (i / 4 * 4 + j) 0)) 0

/-- A block enciphered under a key schedule. -/
def aesBlock (ks b : List Byte) : List Byte :=
  let x := (List.range 13).foldl (fun b r => xorBytes (mixWith [2, 3, 1, 1] (shiftRows (b.map subByte))) (roundKey ks (r + 1))) (xorBytes b (roundKey ks 0))
  xorBytes (shiftRows (x.map subByte)) (roundKey ks 14)

/-- A block deciphered under a key schedule. -/
def aesUnblock (ks b : List Byte) : List Byte :=
  let x := (List.range 13).foldl (fun b r => mixWith [0x0E, 0x0B, 0x0D, 0x09] (xorBytes ((invShiftRows b).map invSubByte) (roundKey ks (13 - r)))) (xorBytes b (roundKey ks 14))
  xorBytes ((invShiftRows x).map invSubByte) (roundKey ks 0)

/-- AES-256. -/
@[irreducible] def aes256 (key b : List Byte) : List Byte := aesBlock (aesKeys key) b

/-- A product by x in GF(2^128), the lowest bit being the coefficient of the lowest power: XTS. -/
def xtsDouble (x : Nat) : Nat := if x.testBit 127 then (2 * x % 2 ^ 128) ^^^ 0x87 else 2 * x

/-- A product by x in GF(2^128) of a block read as a big-endian number: CMAC. -/
def cmacDouble (x : Nat) : Nat := xtsDouble x

/-- AES-CMAC with a key of 32 bytes. PRESUMED (log 10), unsafe. -/
@[irreducible] def cmac (key m : List Byte) : List Byte :=
  let ks := aesKeys key
  let k1 := cmacDouble (beNat (aesBlock ks (List.replicate 16 0)))
  let whole := m.length != 0 && m.length % 16 == 0
  let n := if whole then m.length / 16 - 1 else m.length / 16
  let tail := m.drop (16 * n)
  let last := if whole then xorBytes tail (beBytes k1 16)
    else xorBytes (tail ++ [0x80] ++ List.replicate (15 - tail.length) 0) (beBytes (cmacDouble k1) 16)
  aesBlock ks (xorBytes last ((blocksOf 16 n (m.take (16 * n))).foldl (fun c b => aesBlock ks (xorBytes c b)) (List.replicate 16 0)))

/-- XTS-AES-256 of whole blocks: the two keys joined, the data unit's number, and the plaintext. PRESUMED (log 10), unsafe. -/
@[irreducible] def xtsSeal (keys : List Byte) (unit : Nat) (plain : List Byte) : List Byte :=
  let k1 := aesKeys (keys.take 32)
  let t := leNat (aesBlock (aesKeys (keys.drop 32)) (leBytes unit 16))
  ((blocksOf 16 (plain.length / 16) plain).foldl (fun (r : List Byte × Nat) b =>
    let m := leBytes r.2 16
    (r.1 ++ xorBytes (aesBlock k1 (xorBytes b m)) m, xtsDouble r.2)) ([], t)).1

/-- A product in the field of GHASH: blocks as big-endian numbers, the highest bit first. -/
def ghashMul (x y : Nat) : Nat :=
  ((List.range 128).foldl (fun (r : Nat × Nat) i =>
    (if x.testBit (127 - i) then r.1 ^^^ r.2 else r.1, if r.2.testBit 0 then (r.2 / 2) ^^^ (0xE1 * 2 ^ 120) else r.2 / 2)) (0, y)).1

/-- Bytes filled with zeros to whole blocks. -/
def padBlock (b : List Byte) : List Byte := b ++ List.replicate ((16 - b.length % 16) % 16) 0

/-- The keystream of GCM on data: blocks from counter 2 on. -/
def gcmStream (ks iv data : List Byte) : List Byte :=
  xorBytes data ((List.range ((data.length + 15) / 16)).flatMap fun i => aesBlock ks (iv ++ beBytes (i + 2) 4))

/-- The tag of GCM over additional data and ciphertext, for an IV of 12 bytes. -/
def gcmTag (ks iv aad ct : List Byte) : List Byte :=
  let h := beNat (aesBlock ks (List.replicate 16 0))
  let m := padBlock aad ++ padBlock ct ++ beBytes (8 * aad.length) 8 ++ beBytes (8 * ct.length) 8
  let s := (blocksOf 16 (m.length / 16) m).foldl (fun y b => ghashMul (y ^^^ beNat b) h) 0
  xorBytes (beBytes s 16) (aesBlock ks (iv ++ beBytes 1 4))

/-- AES-256-GCM: ciphertext and tag. PRESUMED (log 10), unsafe. -/
@[irreducible] def gcmSeal (key iv aad plain : List Byte) : List Byte × List Byte :=
  let ks := aesKeys key
  let ct := gcmStream ks iv plain
  (ct, gcmTag ks iv aad ct)

/-- AES-256-GCM opened: none where the tag fails. PRESUMED (log 10), unsafe. -/
@[irreducible] def gcmOpen (key iv aad ct tag : List Byte) : Option (List Byte) :=
  let ks := aesKeys key
  if gcmTag ks iv aad ct = tag then some (gcmStream ks iv ct) else none

/-- One step `t` of the unwrapping of `n` blocks of 8 bytes: the check block and the others. -/
def unwrapStep (ks : List Byte) (n : Nat) (r : List Byte × List (List Byte)) (t : Nat) : List Byte × List (List Byte) :=
  let i := (t - 1) % n
  let b := aesUnblock ks (xorBytes r.1 (beBytes t 8) ++ r.2.getD i [])
  (b.take 8, r.2.set i (b.drop 8))

/-- AES key unwrap (KW): none where the integrity check fails. PRESUMED (log 10), unsafe. -/
@[irreducible] def keyUnwrap (kek c : List Byte) : Option (List Byte) :=
  let bs := blocksOf 8 (c.length / 8) c
  let n := bs.length - 1
  let r := (List.range (6 * n)).foldl (fun r k => unwrapStep (aesKeys kek) n r (6 * n - k)) (bs.headD [], bs.drop 1)
  if r.1 = List.replicate 8 0xA6 then some r.2.flatten else none

end Sys2Proof.Machine
end

