-- ==== Sys2Proof/Machine/P384.lean ====
section
/-! DEFINITION. Curve P-384: ECDSA verification (R306, R629; FIPS 186-5) and the ECC CDH secret (R378; SP 800-56A). -/

namespace Sys2Proof.Machine

/-- The prime of the field. -/
def p384Prime : Nat := 2 ^ 384 - 2 ^ 128 - 2 ^ 96 + 2 ^ 32 - 1

/-- The coefficient b of y² = x³ - 3x + b. -/
def p384B : Nat := 0xb3312fa7e23ee7e4988e056be3f82d19181d9c6efe8141120314088f5013875ac656398d8a2ed19d2a85c8edd3ec2aef

/-- The order of the base point. -/
def p384Order : Nat := 0xffffffffffffffffffffffffffffffffffffffffffffffffc7634d81f4372ddf581a0db248b0a77aecec196accc52973

/-- The base point. -/
def p384Base : Nat × Nat :=
  (0xaa87ca22be8b05378eb1c71ef320ad746e1d3b628ba79b9859f741e082542a385502f25dbf55296c3a545e3872760ab7,
   0x3617de4a96262c6f5d9e98bf9292dc29f8f41dbd289a147ce9da3113b5f0b8c00a60b1ce1d7e819d7a431d7c90ea0e5f)

/-- A power modulo `m`, for an exponent below 2^384. -/
def powMod (m a e : Nat) : Nat := (List.range 384).foldr (fun i r => if e.testBit i then r * r % m * a % m else r * r % m) (1 % m)

/-- The inverse modulo a prime. -/
def invMod (m a : Nat) : Nat := powMod m a (m - 2)

/-- A point of the curve; none is the point at infinity. -/
abbrev EcPoint := Option (Nat × Nat)

/-- A point on the curve, its coordinates below the prime. -/
def onCurve (q : Nat × Nat) : Bool :=
  let p := p384Prime
  decide (q.1 < p) && decide (q.2 < p) && (q.2 * q.2 + 3 * q.1) % p == (q.1 * q.1 * q.1 + p384B) % p

/-- The third point on a line of slope `l` through two points, mirrored. -/
def chord (l : Nat) (a b : Nat × Nat) : Nat × Nat :=
  let p := p384Prime
  let x := (l * l + 2 * p - a.1 - b.1) % p
  (x, (l * (a.1 + p - x) + p - a.2) % p)

/-- The sum of two points. -/
def ecAdd (a b : EcPoint) : EcPoint :=
  let p := p384Prime
  match a, b with
  | none, _ => b
  | _, none => a
  | some u, some v =>
    if u.1 = v.1 then
      if (u.2 + v.2) % p = 0 then none
      else some (chord ((3 * u.1 * u.1 + p - 3) * invMod p (2 * u.2) % p) u v)
    else some (chord ((v.2 + p - u.2) * invMod p (v.1 + p - u.1) % p) u v)

/-- A multiple of a point. -/
def ecMul (k : Nat) (q : EcPoint) : EcPoint := (List.range 384).foldr (fun i r => let d := ecAdd r r; if k.testBit i then ecAdd d q else d) none

/-- A public key as an uncompressed point of 97 bytes (SEC 1): none where it is no point of the curve. -/
def ecPublic (b : List Byte) : Option (Nat × Nat) :=
  let q := (beNat ((b.drop 1).take 48), beNat ((b.drop 49).take 48))
  if b.length = 97 ∧ b.head? = some 0x04 ∧ onCurve q = true then some q else none

/-- ECDSA verification: public key, hash of 48 bytes, r, s. PRESUMED (log 10), unsafe. -/
@[irreducible] def ecdsaVerify (key hash : List Byte) (r s : Nat) : Bool :=
  let n := p384Order
  match ecPublic key with
  | none => false
  | some q =>
    if r = 0 ∨ n ≤ r ∨ s = 0 ∨ n ≤ s then false
    else
      let w := invMod n s
      match ecAdd (ecMul (beNat hash * w % n) (some p384Base)) (ecMul (r * w % n) (some q)) with
      | none => false
      | some v => v.1 % n == r

/-- The ECC CDH secret of a public key and a private one; none where there is none. PRESUMED (log 10), unsafe. -/
@[irreducible] def ecdh (priv : Nat) (key : List Byte) : Option (List Byte) :=
  match ecPublic key with
  | none => none
  | some q => (ecMul priv (some q)).map fun v => beBytes v.1 48

end Sys2Proof.Machine
end

