-- ==== Sys2Proof/Machine/Assoc.lean ====
section
/-! DEFINITION. Sparse tables as lists of key and value pairs: reading with a default, writing, changing one entry, and memories held in one canonical form. -/

namespace Sys2Proof.Machine

/-- The value the table gives a key; `d` where the key is not listed. -/
def tget {κ ν : Type} [DecidableEq κ] (d : ν) : List (κ × ν) → κ → ν
  | [], _ => d
  | (k', v) :: l, k => if k' = k then v else tget d l k

/-- The table with the key's value set. -/
def tset {κ ν : Type} [DecidableEq κ] : List (κ × ν) → κ → ν → List (κ × ν)
  | [], k, v => [(k, v)]
  | (k', v') :: l, k, v => if k' = k then (k, v) :: l else (k', v') :: tset l k v

/-- The table with the key's value changed by `f`. -/
def tmod {κ ν : Type} [DecidableEq κ] (d : ν) (l : List (κ × ν)) (k : κ) (f : ν → ν) : List (κ × ν) :=
  tset l k (f (tget d l k))

/-- The table without the key. -/
def tdel {κ ν : Type} [DecidableEq κ] : List (κ × ν) → κ → List (κ × ν)
  | [], _ => []
  | (k', v) :: l, k => if k' = k then tdel l k else (k', v) :: tdel l k

/-- A memory: address and content pairs, addresses strictly rising, no entry equal to what an unlisted address reads as. -/
def mread {ν : Type} (d : ν) : List (Nat × ν) → Nat → ν
  | [], _ => d
  | (a', v) :: l, a => if a' = a then v else mread d l a

/-- Put a pair into a memory whose addresses rise, replacing an entry of that address. -/
def minsert {ν : Type} : List (Nat × ν) → Nat → ν → List (Nat × ν)
  | [], a, v => [(a, v)]
  | (a', v') :: l, a, v =>
    if a < a' then (a, v) :: (a', v') :: l
    else if a = a' then (a, v) :: l
    else (a', v') :: minsert l a v

/-- Remove an address from a memory. -/
def merase {ν : Type} : List (Nat × ν) → Nat → List (Nat × ν)
  | [], _ => []
  | (a', v') :: l, a => if a = a' then l else (a', v') :: merase l a

/-- A memory with one cell written; writing what an unlisted address reads as removes the entry, so equal memories are equal lists. -/
def mwrite {ν : Type} [DecidableEq ν] (d : ν) (m : List (Nat × ν)) (a : Nat) (v : ν) : List (Nat × ν) :=
  if v = d then merase m a else minsert m a v

/-- Every address of the memory is above `a`. -/
def mabove {ν : Type} (a : Nat) (m : List (Nat × ν)) : Bool := m.all fun c => a < c.1

/-- The canonical form of a memory: addresses strictly rising, no entry equal to the default. -/
def mcanon {ν : Type} [DecidableEq ν] (d : ν) : List (Nat × ν) → Bool
  | [] => true
  | (a, v) :: l => mabove a l && decide (v ≠ d) && mcanon d l

end Sys2Proof.Machine
end

