-- ==== Sys2Proof/Machine/RegTable.lean ====
section
/-! DEFINITION. The register tables of the spec: of every register its place in BAR0 (R703, R704 and each chapter) and its fields with bit range, access code (R15) and value after power-on reset (R14). Reserved fields are not listed: they read zero and ignore writes (R16). -/

namespace Sys2Proof.Machine

/-- One field of a register: its name, lowest bit, width, access code and reset value. -/
structure FieldSpec where
  name : FName
  lo : Nat
  width : Nat
  acc : Acc
  reset : Nat
  deriving DecidableEq, Repr

/-- One dimension of a register group: the first index used, the number of indices from 0, and the distance in bytes. -/
structure Dim where
  first : Nat
  count : Nat
  stride : Nat
  deriving DecidableEq, Repr

/-- The place of a register in BAR0: base offset and dimensions, outermost first. -/
structure Place where
  base : Nat
  dims : List Dim
  deriving DecidableEq, Repr

/-- The fields of each register (the register tables of the spec). -/
def fieldsOf : RegName → List FieldSpec
  | .HS_PITCH_MAP => [⟨.SPARE_COL, 0, 4, .rw, 8⟩, ⟨.UNUSABLE, 4, 1, .ro, 0⟩, ⟨.PENDING, 5, 1, .ro, 0⟩, ⟨.ACTIVE_COL, 6, 4, .ro, 8⟩]
  | .HS_BP_MAP => [⟨.SPARE0, 0, 7, .rw, 0x40⟩, ⟨.SPARE1, 8, 7, .rw, 0x41⟩, ⟨.FAILED, 15, 1, .rw, 0⟩]
  | .RUN_CAMP_CTRL => [⟨.CMD, 0, 4, .wo, 0⟩, ⟨.HALT_ON_FAULT, 4, 1, .rw, 0⟩, ⟨.START_SRC, 5, 1, .rw, 0⟩, ⟨.STEP_COUNT, 8, 24, .rw, 0⟩]
  | .RUN_CAMP_STATUS => [⟨.STATE, 0, 3, .ro, 0⟩, ⟨.STALLED, 3, 1, .ro, 0⟩, ⟨.CMD_PENDING, 4, 1, .ro, 0⟩, ⟨.CMD_ERR, 5, 1, .w1c, 0⟩, ⟨.HALT_MIDCYCLE, 6, 1, .ro, 0⟩, ⟨.RAMPING, 7, 1, .ro, 0⟩, ⟨.HALT_CAUSE, 8, 4, .ro, 0⟩, ⟨.PITCH_COUNT, 12, 7, .ro, 0⟩, ⟨.SCHED_STEPS, 19, 13, .ro, 0⟩, ⟨.KEY_ID, 32, 8, .ro, 0⟩]
  | .RUN_CAMP_CYCLE_LO => [⟨.CYCLE, 0, 40, .ro, 0⟩]
  | .RUN_CAMP_CYCLE_HI => [⟨.CYCLE, 0, 24, .ro, 0⟩]
  | .RUN_CAMP_PITCH_LO => [⟨.PITCHES, 0, 40, .ro, 0⟩]
  | .RUN_CAMP_PITCH_HI => [⟨.PITCHES, 0, 24, .ro, 0⟩]
  | .CL_BOUNDS => [⟨.BIT_LIMIT, 0, 11, .ro, 0⟩, ⟨.STATE_LIMIT, 11, 11, .ro, 0⟩, ⟨.RECV_LIMIT, 22, 11, .ro, 0⟩]
  | .CL_FAULT_LOG => [⟨.CODE, 0, 6, .ro, 0⟩, ⟨.BP, 6, 6, .ro, 0⟩, ⟨.STEP, 12, 12, .ro, 0⟩, ⟨.OPND, 24, 2, .ro, 0⟩, ⟨.MORE, 26, 1, .ro, 0⟩, ⟨.VALID, 39, 1, .w1c, 0⟩]
  | .CL_FAULT_CYCLE => [⟨.CYCLE, 0, 40, .ro, 0⟩]
  | .CL_FAULT_COUNT => [⟨.COUNT, 0, 32, .rc, 0⟩]
  | .WU_CFG => [⟨.MODE, 0, 1, .ro, 0⟩, ⟨.SR_BASE, 1, 16, .ro, 0⟩, ⟨.SR_LEN, 17, 17, .ro, 0⟩]
  | .WU_BOUNDS => [⟨.MEM_LIMIT, 0, 17, .ro, 0⟩]
  | .WU_SR_PTR => [⟨.PTR, 0, 16, .ro, 0⟩]
  | .CM_MGMT_ADDR => [⟨.WADDR, 0, 16, .rw, 0⟩, ⟨.SLOT, 16, 7, .rw, 0⟩, ⟨.KIND, 23, 2, .rw, 0⟩, ⟨.RAW, 25, 1, .rw, 0⟩]
  | .CM_MGMT_DATA => [⟨.DATA, 0, 40, .rw, 0⟩]
  | .CM_MGMT_CHECK => [⟨.CHECK, 0, 8, .rw, 0⟩]
  | .CM_MGMT_CTRL => [⟨.GO, 0, 1, .wo, 0⟩, ⟨.BUSY, 1, 1, .ro, 0⟩, ⟨.RESULT, 2, 2, .ro, 0⟩]
  | .CM_ECC_LOG => [⟨.ADDR, 0, 16, .ro, 0⟩, ⟨.SRC, 16, 3, .ro, 0⟩, ⟨.UE, 19, 1, .ro, 0⟩, ⟨.MORE, 20, 1, .ro, 0⟩, ⟨.VALID, 39, 1, .w1c, 0⟩]
  | .CM_ECC_CE_COUNT => [⟨.COUNT, 0, 32, .rc, 0⟩]
  | .CM_ECC_UE_COUNT => [⟨.COUNT, 0, 16, .rc, 0⟩]
  | .CM_STATUS => [⟨.CLEARING, 0, 1, .ro, 0⟩]
  | .DN_CONFLICT_LOG => [⟨.STEP, 0, 12, .ro, 0⟩, ⟨.SLOT, 12, 7, .ro, 0⟩, ⟨.WIRE, 19, 3, .ro, 0⟩, ⟨.INDEX, 22, 10, .ro, 0⟩, ⟨.MORE, 32, 1, .ro, 0⟩, ⟨.VALID, 39, 1, .w1c, 0⟩]
  | .DN_CONFLICT_CYCLE => [⟨.CYCLE, 0, 40, .ro, 0⟩]
  | .DN_CONFLICT_COUNT => [⟨.COUNT, 0, 32, .rc, 0⟩]
  | .RUN_XING_LOG => [⟨.DST, 0, 13, .ro, 0⟩, ⟨.STEP, 13, 12, .ro, 0⟩, ⟨.CAMP, 25, 6, .ro, 0⟩, ⟨.MORE, 31, 1, .ro, 0⟩, ⟨.VALID, 39, 1, .w1c, 0⟩]
  | .RUN_XING_CYCLE => [⟨.CYCLE, 0, 40, .ro, 0⟩]
  | .RUN_XING_COUNT => [⟨.COUNT, 0, 32, .rc, 0⟩]
  | .RUN_XING_USED => [⟨.ENTRIES, 0, 17, .ro, 0⟩]
  | .GL_STALL_CAUSE => [⟨.ACTIVE, 0, 16, .ro, 0⟩]
  | .GL_STALL_LAST => [⟨.CAUSE, 0, 4, .ro, 0⟩, ⟨.ISLAND, 4, 8, .ro, 0⟩, ⟨.STEP, 12, 12, .ro, 0⟩, ⟨.MODULE, 24, 8, .ro, 0⟩, ⟨.BND, 32, 1, .ro, 0⟩]
  | .GL_STALL_TIME => [⟨.TIME, 0, 40, .rc, 0⟩]
  | .GL_STALL_EVENTS => [⟨.COUNT, 0, 32, .rc, 0⟩]
  | .GL_CAMP_SPAN => [⟨.REACH, 0, 16, .ro, 0⟩, ⟨.NEED, 16, 16, .ro, 0⟩, ⟨.HOPS, 32, 8, .ro, 0⟩]
  | .GL_FIFO_LOG => [⟨.FIFO_ID, 0, 16, .ro, 0⟩, ⟨.CAMP, 16, 6, .ro, 0⟩, ⟨.SIDE, 22, 1, .ro, 0⟩, ⟨.DATA_LOST, 23, 1, .ro, 0⟩, ⟨.MORE, 24, 1, .ro, 0⟩, ⟨.NO_CAMP, 25, 1, .ro, 0⟩, ⟨.VALID, 39, 1, .w1c, 0⟩]
  | .GL_FIFO_CYCLE => [⟨.CYCLE, 0, 40, .ro, 0⟩]
  | .GL_FIFO_COUNT => [⟨.COUNT, 0, 32, .rc, 0⟩]
  | .GL_OVERRUN_LOG => [⟨.FIFO_ID, 0, 16, .ro, 0⟩, ⟨.MORE, 16, 1, .ro, 0⟩, ⟨.VALID, 39, 1, .w1c, 0⟩]
  | .GL_OVERRUN_COUNT => [⟨.COUNT, 0, 32, .rc, 0⟩]
  | .DC_CTRL => [⟨.LEAD, 0, 4, .ro, 0⟩, ⟨.HOME, 4, 1, .ro, 0⟩, ⟨.WR_ERR, 5, 1, .w1c, 0⟩]
  | .DC_TAG => [⟨.NUM, 0, 16, .rw, 0⟩, ⟨.DEN, 16, 16, .rw, 0⟩, ⟨.EN, 32, 1, .rw, 0⟩]
  | .DC_ACC => [⟨.ACC, 0, 16, .rw, 0⟩]
  | .DC_VECTOR => [⟨.CUR, 0, 16, .ro, 0⟩, ⟨.PREV, 16, 16, .ro, 0⟩]
  | .DC_SNAP_BASE => [⟨.BASE, 0, 26, .rw, 0⟩]
  | .DC_SNAP_TARGET => [⟨.CYCLE, 0, 40, .rw, 0⟩]
  | .DC_SNAP_CTRL => [⟨.ARM, 0, 1, .wo, 0⟩, ⟨.ABORT, 1, 1, .wo, 0⟩, ⟨.NEXT, 2, 1, .rw, 0⟩, ⟨.DEEP, 3, 1, .rw, 0⟩]
  | .DC_SNAP_STATUS => [⟨.STATE, 0, 3, .ro, 0⟩, ⟨.ERR, 3, 4, .ro, 0⟩, ⟨.SAVE_PEAK, 8, 13, .ro, 0⟩]
  | .DC_SNAP_CYCLE => [⟨.CYCLE, 0, 40, .ro, 0⟩]
  | .DC_SNAP_SIZE => [⟨.SIZE, 0, 26, .ro, 0⟩]
  | .DC_SNAP_SEL => [⟨.BASE, 0, 26, .rw, 0⟩, ⟨.VALID, 26, 1, .ro, 0⟩, ⟨.SEL_ERR, 27, 3, .ro, 0⟩]
  | .DC_REPLAY_CTRL => [⟨.REPLAY, 0, 1, .rw, 0⟩, ⟨.COMPARE, 1, 1, .rw, 0⟩, ⟨.PAUSE_ON_DIVERGE, 2, 1, .rw, 0⟩, ⟨.DIVERGED, 3, 1, .w1c, 0⟩, ⟨.LOG_END, 4, 1, .ro, 0⟩]
  | .DC_REPLAY_DIVERGE => [⟨.CYCLE, 0, 40, .ro, 0⟩]
  | .RUN_CONTRACT_LOG => [⟨.CODE, 0, 2, .ro, 0⟩, ⟨.ISLAND, 2, 8, .ro, 0⟩, ⟨.STEP, 10, 12, .ro, 0⟩, ⟨.MORE, 22, 1, .ro, 0⟩, ⟨.VALID, 39, 1, .w1c, 0⟩]
  | .RUN_CONTRACT_CYCLE => [⟨.CYCLE, 0, 40, .ro, 0⟩]
  | .RUN_CONTRACT_COUNT => [⟨.COUNT, 0, 32, .rc, 0⟩]
  | .RUN_CONTRACT_STEPS => [⟨.OWN, 0, 13, .ro, 0⟩, ⟨.OTHER, 13, 13, .ro, 0⟩, ⟨.MODULE, 26, 8, .ro, 0⟩]
  | .RUN_CAMP_TARGET => [⟨.MHZ, 0, 11, .ro, 0⟩, ⟨.CHK_ALL, 11, 1, .ro, 0⟩]
  | .RUN_CAMP_DRAM => [⟨.BUDGET, 0, 16, .ro, 0⟩, ⟨.NEED, 16, 16, .ro, 0⟩]
  | .RUN_CAMP_HOP => [⟨.HOP, 0, 10, .ro, 0⟩, ⟨.BUDGET, 10, 14, .ro, 0⟩, ⟨.MEASURED, 24, 14, .ro, 0⟩]
  | .LD_CTRL => [⟨.CMD, 0, 2, .wo, 0⟩, ⟨.SRC, 2, 2, .rw, 0⟩, ⟨.MODULES, 4, 8, .rw, 0⟩]
  | .LD_STATUS => [⟨.STATE, 0, 3, .ro, 0⟩, ⟨.ERR, 3, 4, .ro, 0⟩, ⟨.CMD_ERR, 7, 1, .w1c, 0⟩, ⟨.MODULE, 8, 8, .ro, 0⟩, ⟨.LMOD, 16, 7, .ro, 0⟩, ⟨.CAMP, 23, 6, .ro, 0⟩]
  | .LD_ERR_DETAIL => [⟨.SEGMENT, 0, 24, .ro, 0⟩, ⟨.LCLUSTER, 24, 9, .ro, 0⟩]
  | .LD_TIMEOUT => [⟨.MS, 0, 16, .rw, 0x3e8⟩]
  | .LD_DMA_ADDR_LO => [⟨.ADDR, 0, 40, .rw, 0⟩]
  | .LD_DMA_ADDR_HI => [⟨.ADDR, 0, 24, .rw, 0⟩]
  | .LD_DMA_PUSH => [⟨.LEN, 0, 21, .wo, 0⟩, ⟨.DEPTH, 21, 4, .ro, 0⟩]
  | .LD_PROGRESS => [⟨.SEGMENTS, 0, 24, .ro, 0⟩]
  | .LD_SERIAL => [⟨.SERIAL, 0, 40, .ro, 0⟩]
  | .LD_PLACE_MOD => [⟨.ADDR, 0, 8, .rw, 0⟩, ⟨.CAMP, 8, 6, .rw, 0⟩]
  | .LD_PLACE_PITCH_LO => [⟨.PITCHES, 0, 40, .rw, 0⟩]
  | .LD_PLACE_PITCH_HI => [⟨.PITCHES, 0, 24, .rw, 0⟩]
  | .LD_PLACE_DEEP_BASE => [⟨.BASE, 0, 26, .rw, 0⟩]
  | .LD_PLACE_DEEP_SIZE => [⟨.PAGES, 0, 26, .rw, 0⟩]
  | .DM_CTRL => [⟨.CMD, 0, 3, .wo, 0⟩, ⟨.TRAIN_HOST, 3, 1, .rw, 0⟩]
  | .DM_STATUS => [⟨.STATE, 0, 3, .ro, 0⟩, ⟨.CMD_ERR, 3, 1, .w1c, 0⟩, ⟨.HOT, 4, 1, .ro, 0⟩, ⟨.PPR_FAIL, 5, 1, .w1c, 0⟩, ⟨.OUTSTANDING, 6, 3, .ro, 0⟩]
  | .DM_BOUND => [⟨.NS, 0, 12, .rw, 0⟩]
  | .DM_REF => [⟨.TREFI, 0, 16, .rw, 0xf3c⟩, ⟨.TRFC, 16, 12, .rw, 0x19a⟩, ⟨.FGR, 28, 1, .rw, 0⟩, ⟨.REFSB, 29, 1, .rw, 0⟩, ⟨.POSTPONE, 30, 3, .rw, 4⟩]
  | .DM_TRAIN_SEL => [⟨.PARAM, 0, 3, .rw, 0⟩, ⟨.SUB, 3, 1, .rw, 0⟩, ⟨.LANE, 4, 3, .rw, 0⟩]
  | .DM_TRAIN_VAL => [⟨.VALUE, 0, 12, .rw, 0⟩]
  | .DM_TRAIN_CMD => [⟨.OP, 0, 2, .wo, 0⟩, ⟨.SUB, 2, 1, .rw, 0⟩, ⟨.MR, 3, 8, .rw, 0⟩, ⟨.DATA, 11, 8, .rw, 0⟩, ⟨.BUSY, 19, 1, .ro, 0⟩]
  | .DM_RH_CFG => [⟨.THRESH, 0, 16, .rw, 0x1000⟩, ⟨.THROTTLE_NS, 16, 12, .rw, 0xc8⟩, ⟨.RFM_EN, 28, 1, .rw, 1⟩]
  | .DM_RH_LOG => [⟨.BANK, 0, 5, .ro, 0⟩, ⟨.SUB, 5, 1, .ro, 0⟩, ⟨.ROW, 6, 17, .ro, 0⟩, ⟨.SOURCE, 23, 7, .ro, 0⟩, ⟨.MORE, 30, 1, .ro, 0⟩, ⟨.VALID, 39, 1, .w1c, 0⟩]
  | .DM_RH_COUNT => [⟨.COUNT, 0, 32, .rc, 0⟩]
  | .DM_ECC_CE => [⟨.COUNT, 0, 32, .rc, 0⟩]
  | .DM_ECC_UE => [⟨.COUNT, 0, 16, .rc, 0⟩]
  | .DM_PPR => [⟨.SUB, 0, 1, .rw, 0⟩, ⟨.BANK, 1, 5, .rw, 0⟩, ⟨.ROW, 6, 17, .rw, 0⟩, ⟨.SOFT, 23, 1, .rw, 0⟩]
  | .DM_LATE => [⟨.COUNT, 0, 32, .rc, 0⟩]
  | .DM_DROP => [⟨.COUNT, 0, 32, .rc, 0⟩]
  | .DM_MAP => [⟨.MASK, 0, 32, .rw, 0⟩]
  | .MP_KEY_CMD => [⟨.CMD, 0, 2, .wo, 0⟩, ⟨.TARGET, 2, 8, .rw, 0⟩, ⟨.BUSY, 10, 1, .ro, 0⟩, ⟨.RESULT, 11, 3, .ro, 0⟩]
  | .MP_KEY_ADDR_LO => [⟨.ADDR, 0, 40, .rw, 0⟩]
  | .MP_KEY_ADDR_HI => [⟨.ADDR, 0, 24, .rw, 0⟩]
  | .MP_ALARM_LOG => [⟨.CLASS, 0, 2, .ro, 0⟩, ⟨.KEY_ID, 2, 8, .ro, 0⟩, ⟨.CAUSE, 10, 4, .ro, 0⟩, ⟨.LEVEL, 14, 3, .ro, 0⟩, ⟨.MORE, 17, 1, .ro, 0⟩, ⟨.VALID, 39, 1, .w1c, 0⟩]
  | .MP_ALARM_ADDR => [⟨.ADDR, 0, 38, .ro, 0⟩]
  | .MP_ALARM_COUNT => [⟨.COUNT, 0, 32, .rc, 0⟩]
  | .MP_TREE_CE => [⟨.COUNT, 0, 32, .rc, 0⟩]
  | .MP_REENC_COUNT => [⟨.COUNT, 0, 32, .rc, 0⟩]
  | .MP_POISON => [⟨.USED, 0, 7, .ro, 0⟩, ⟨.OVERFLOW, 7, 1, .ro, 0⟩]
  | .MP_KEYSTATE => [⟨.INSTALLED, 0, 1, .ro, 0⟩, ⟨.ROLLING, 1, 1, .ro, 0⟩, ⟨.FROZEN, 2, 1, .ro, 0⟩, ⟨.POISONED, 3, 1, .ro, 0⟩, ⟨.ALARM, 4, 1, .w1c, 0⟩]
  | .MP_RANGE_BASE => [⟨.BASE, 0, 26, .rw, 0⟩, ⟨.KEY_ID, 26, 8, .rw, 0⟩, ⟨.VALID, 39, 1, .rw, 0⟩]
  | .MP_RANGE_SIZE => [⟨.PAGES, 0, 26, .rw, 0⟩]
  | .MP_LINK_STATUS => [⟨.ENC, 0, 1, .ro, 0⟩, ⟨.EPOCH_TX, 1, 16, .ro, 0⟩, ⟨.EPOCH_RX, 17, 16, .ro, 0⟩]
  | .MP_LINK_AUTH => [⟨.COUNT, 0, 32, .rc, 0⟩]
  | .CC_CTRL => [⟨.ENABLE, 0, 1, .rw, 0⟩, ⟨.SLEEP_EN, 1, 1, .rw, 1⟩, ⟨.SLEEP_AFTER, 2, 16, .rw, 0x400⟩, ⟨.WAKE, 18, 1, .wo, 0⟩]
  | .CC_STATUS => [⟨.PSTATE, 0, 2, .ro, 1⟩, ⟨.TASK, 2, 12, .ro, 0⟩, ⟨.PL, 14, 2, .ro, 0⟩, ⟨.DOMAIN, 16, 6, .ro, 0⟩]
  | .CC_PC => [⟨.PC, 0, 40, .ro, 0⟩]
  | .CC_TRAP_LOG => [⟨.CAUSE, 0, 4, .ro, 0⟩, ⟨.BUSCAUSE, 4, 4, .ro, 0⟩, ⟨.TASK, 8, 12, .ro, 0⟩, ⟨.PL, 20, 2, .ro, 0⟩, ⟨.MORE, 22, 1, .ro, 0⟩, ⟨.VALID, 39, 1, .w1c, 0⟩]
  | .CC_TRAP_ADDR => [⟨.ADDR, 0, 40, .ro, 0⟩]
  | .CC_TRAP_COUNT => [⟨.COUNT, 0, 32, .rc, 0⟩]
  | .CC_RETIRED => [⟨.COUNT, 0, 40, .rc, 0⟩]
  | .CC_SLEEPS => [⟨.COUNT, 0, 32, .rc, 0⟩]
  | .CC_DOM_CFG => [⟨.PL, 0, 2, .rw, 0⟩, ⟨.KEY_ID, 2, 8, .rw, 0⟩, ⟨.SLICE, 10, 16, .rw, 0⟩, ⟨.VALID, 26, 1, .rw, 0⟩, ⟨.LOCKED, 27, 1, .ro, 0⟩, ⟨.WR_ERR, 28, 1, .w1c, 0⟩]
  | .CC_DOM_WBASE => [⟨.BASE, 0, 26, .rw, 0⟩, ⟨.RD, 26, 1, .rw, 0⟩, ⟨.WR, 27, 1, .rw, 0⟩, ⟨.EX, 28, 1, .rw, 0⟩]
  | .CC_DOM_WSIZE => [⟨.PAGES, 0, 26, .rw, 0⟩]
  | .CH_CFG => [⟨.MODE, 0, 1, .rw, 0⟩, ⟨.AKIND, 1, 2, .rw, 0⟩, ⟨.BKIND, 3, 1, .rw, 0⟩, ⟨.CAMP, 4, 6, .rw, 0⟩, ⟨.PORT, 10, 8, .rw, 0⟩, ⟨.DOMAIN, 18, 6, .rw, 0⟩, ⟨.TASK, 24, 12, .rw, 0⟩, ⟨.ORDERED, 36, 1, .rw, 0⟩, ⟨.POLICY, 37, 2, .rw, 0⟩]
  | .CH_CTRL => [⟨.CMD, 0, 2, .wo, 0⟩, ⟨.STATE, 2, 2, .ro, 0⟩, ⟨.CMD_ERR, 4, 1, .w1c, 0⟩, ⟨.EV_RX, 5, 6, .rw, 0⟩, ⟨.EV_TX, 11, 6, .rw, 0⟩, ⟨.GRANT, 17, 4, .rw, 0⟩]
  | .CH_PEER => [⟨.MODULE, 0, 8, .rw, 0⟩, ⟨.RCH, 8, 8, .rw, 0⟩]
  | .CH_HRING_LO => [⟨.ADDR, 0, 40, .rw, 0⟩]
  | .CH_HRING_HI => [⟨.ADDR, 0, 24, .rw, 0⟩]
  | .CH_RING => [⟨.LOG2, 0, 5, .rw, 4⟩, ⟨.MIRROR, 5, 26, .rw, 0⟩]
  | .CH_TIMEOUT => [⟨.CYCLES, 0, 24, .rw, 0⟩, ⟨.MS, 24, 16, .rw, 0x3e8⟩]
  | .CH_SEQ_IN => [⟨.EXPECT, 0, 32, .rw, 0⟩, ⟨.HELD, 32, 5, .ro, 0⟩]
  | .CH_SEQ_OUT => [⟨.NEXT, 0, 32, .rw, 0⟩]
  | .CH_IN_IDX => [⟨.PROD, 0, 16, .ro, 0⟩, ⟨.CONS, 16, 16, .ro, 0⟩]
  | .CH_OUT_IDX => [⟨.PROD, 0, 16, .ro, 0⟩, ⟨.CONS, 16, 16, .ro, 0⟩]
  | .CH_ERR_LOG => [⟨.CODE, 0, 3, .ro, 0⟩, ⟨.OFFSET, 3, 8, .ro, 0⟩, ⟨.MORE, 11, 1, .ro, 0⟩, ⟨.VALID, 39, 1, .w1c, 0⟩]
  | .CH_ERR_SEQ => [⟨.SEQ, 0, 32, .ro, 0⟩]
  | .CH_ERR_CYCLE => [⟨.CYCLE, 0, 40, .ro, 0⟩]
  | .CH_DUP_COUNT => [⟨.COUNT, 0, 32, .rc, 0⟩]
  | .CH_REJECT_COUNT => [⟨.COUNT, 0, 32, .rc, 0⟩]
  | .CH_TIMEOUT_COUNT => [⟨.COUNT, 0, 32, .rc, 0⟩]
  | .CH_LIMIT => [⟨.LIMIT, 0, 32, .ro, 0⟩]
  | .TS_TASK_SEL => [⟨.INDEX, 0, 12, .rw, 0⟩]
  | .TS_TASK_FLAGS => [⟨.FLAGS, 0, 40, .w1s, 0⟩]
  | .TS_TASK_MASK => [⟨.MASK, 0, 40, .rw, 0⟩]
  | .TS_TASK_CFG => [⟨.DOMAIN, 0, 6, .rw, 0⟩, ⟨.FLOW, 6, 8, .rw, 0⟩, ⟨.AFFINITY, 14, 16, .rw, 0⟩, ⟨.STATE, 30, 3, .ro, 0⟩, ⟨.PEND_CANCEL, 33, 1, .ro, 0⟩, ⟨.CORE, 34, 4, .ro, 0⟩]
  | .TS_TASK_CTX => [⟨.ADDR, 0, 32, .rw, 0⟩]
  | .TS_TASK_CMD => [⟨.CMD, 0, 2, .wo, 0⟩, ⟨.CMD_ERR, 2, 1, .w1c, 0⟩]
  | .TS_TASK_END => [⟨.CAUSE, 0, 4, .ro, 0⟩, ⟨.TICKET, 4, 32, .ro, 0⟩]
  | .TS_REORDER => [⟨.HELD, 0, 11, .ro, 0⟩, ⟨.PEAK, 11, 11, .rc, 0⟩]
  | .TS_LOG_BASE => [⟨.PAGE, 0, 26, .rw, 0⟩]
  | .TS_LOG_SIZE => [⟨.PAGES, 0, 26, .rw, 0⟩]
  | .TS_LOG_POS_LO => [⟨.POS, 0, 40, .ro, 0⟩]
  | .TS_LOG_POS_HI => [⟨.POS, 0, 24, .ro, 0⟩]
  | .TS_LOG_KEEP_LO => [⟨.KEEP, 0, 40, .rw, 0⟩]
  | .TS_LOG_KEEP_HI => [⟨.KEEP, 0, 24, .rw, 0⟩]
  | .TS_LOG_STATUS => [⟨.FULL, 0, 1, .ro, 0⟩, ⟨.ERR, 1, 1, .w1c, 0⟩, ⟨.RD_ERR, 2, 1, .w1c, 0⟩]
  | .NOC_AGE => [⟨.BULK, 0, 12, .rw, 0x100⟩, ⟨.NORMAL, 12, 12, .rw, 0x80⟩, ⟨.HIGH, 24, 12, .rw, 0x40⟩]
  | .NOC_CRIT_STATUS => [⟨.OVER, 0, 16, .w1c, 0⟩]
  | .NOC_CRIT_LATE => [⟨.COUNT, 0, 32, .rc, 0⟩]
  | .NOC_CRIT_HELD => [⟨.COUNT, 0, 32, .rc, 0⟩]
  | .NOC_FENCE_ADDR_LO => [⟨.ADDR, 0, 40, .rw, 0⟩]
  | .NOC_FENCE_ADDR_HI => [⟨.ADDR, 0, 24, .rw, 0⟩]
  | .NOC_FENCE_STATUS => [⟨.TOKEN, 0, 32, .ro, 0⟩, ⟨.PENDING, 32, 3, .ro, 0⟩, ⟨.DROPPED, 35, 1, .w1c, 0⟩]
  | .NOC_RESEND => [⟨.COUNT, 0, 32, .rc, 0⟩]
  | .NOC_PD_LOG => [⟨.NODE, 0, 6, .ro, 0⟩, ⟨.SRC, 6, 6, .ro, 0⟩, ⟨.FORCED, 12, 1, .ro, 0⟩, ⟨.MORE, 13, 1, .ro, 0⟩, ⟨.VALID, 39, 1, .w1c, 0⟩]
  | .NOC_PD_DROPS => [⟨.COUNT, 0, 32, .rc, 0⟩]
  | .NOC_PD_DISCARD => [⟨.COUNT, 0, 32, .rc, 0⟩]
  | .NOC_PD_TIMEOUT => [⟨.US, 0, 16, .rw, 0x64⟩]
  | .NOC_PROBE_CFG => [⟨.EN, 0, 1, .rw, 0⟩, ⟨.MODE, 1, 2, .rw, 0⟩, ⟨.NET, 3, 2, .rw, 0⟩, ⟨.CLASS, 5, 4, .rw, 0xf⟩]
  | .NOC_PROBE_FILTER => [⟨.SRC, 0, 6, .rw, 0⟩, ⟨.SRC_MASK, 6, 6, .rw, 0⟩, ⟨.DST, 12, 6, .rw, 0⟩, ⟨.DST_MASK, 18, 6, .rw, 0⟩, ⟨.SID, 24, 7, .rw, 0⟩, ⟨.SID_EN, 31, 1, .rw, 0⟩]
  | .NOC_PROBE_COUNT => [⟨.COUNT, 0, 40, .rc, 0⟩]
  | .NOC_PROBE_AGE => [⟨.MAX, 0, 16, .rc, 0⟩]
  | .NOC_PROBE_TR_HDR => [⟨.SRC, 0, 6, .ro, 0⟩, ⟨.DST, 6, 6, .ro, 0⟩, ⟨.CLASS, 12, 2, .ro, 0⟩, ⟨.EFF, 14, 2, .ro, 0⟩, ⟨.SID, 16, 7, .ro, 0⟩, ⟨.KEY_ID, 23, 8, .ro, 0⟩, ⟨.VALID, 39, 1, .ro, 0⟩]
  | .NOC_PROBE_TR_ADDR => [⟨.ADDR, 0, 38, .ro, 0⟩]
  | .NOC_PROBE_TR_CTRL => [⟨.POP, 0, 1, .wo, 0⟩, ⟨.LEVEL, 1, 7, .ro, 0⟩, ⟨.LOST, 8, 1, .w1c, 0⟩]
  | .HN_CTRL => [⟨.EN, 0, 1, .rw, 1⟩, ⟨.RATE_MAX, 1, 2, .rw, 2⟩, ⟨.EQ_HOST, 3, 1, .rw, 0⟩, ⟨.PRESET, 4, 3, .rw, 0⟩, ⟨.IDLE_EN, 7, 1, .rw, 1⟩, ⟨.IDLE_AFTER, 8, 8, .rw, 0xa⟩, ⟨.CMD, 16, 2, .wo, 0⟩]
  | .HN_STATUS => [⟨.STATE, 0, 4, .ro, 0⟩, ⟨.RATE, 4, 2, .ro, 0⟩, ⟨.REPLAY, 6, 1, .ro, 0⟩, ⟨.SPARE_TX, 7, 1, .ro, 0⟩, ⟨.SPARE_RX, 8, 1, .ro, 0⟩, ⟨.SPARED_TX, 9, 3, .ro, 0⟩, ⟨.SPARED_RX, 12, 3, .ro, 0⟩, ⟨.CMD_ERR, 15, 1, .w1c, 0⟩, ⟨.FAIL, 16, 3, .ro, 0⟩]
  | .HN_PEER => [⟨.SERIAL, 0, 40, .ro, 0⟩]
  | .HN_LAT => [⟨.ONEWAY_PS, 0, 24, .ro, 0⟩]
  | .HN_FEC_CE => [⟨.COUNT, 0, 32, .rc, 0⟩]
  | .HN_FEC_UE => [⟨.COUNT, 0, 32, .rc, 0⟩]
  | .HN_CRC_ERR => [⟨.COUNT, 0, 32, .rc, 0⟩]
  | .HN_REPLAY_COUNT => [⟨.COUNT, 0, 32, .rc, 0⟩]
  | .HN_TRAIN_COUNT => [⟨.COUNT, 0, 16, .rc, 0⟩]
  | .HN_LANE_SEL => [⟨.LANE, 0, 4, .rw, 0⟩]
  | .HN_LANE_TAP => [⟨.PRE2, 0, 4, .ro, 0⟩, ⟨.PRE1, 4, 5, .ro, 0⟩, ⟨.POST1, 9, 5, .ro, 0⟩, ⟨.MAIN, 14, 6, .ro, 0x3f⟩]
  | .HN_LANE_ERR => [⟨.SYM, 0, 32, .rc, 0⟩]
  | .HN_EQ_REQ => [⟨.TAP, 0, 2, .rw, 0⟩, ⟨.OP, 2, 2, .rw, 0⟩, ⟨.PRESET, 4, 3, .rw, 0⟩, ⟨.GO, 7, 1, .wo, 0⟩, ⟨.BUSY, 8, 1, .ro, 0⟩, ⟨.RESP, 9, 2, .ro, 0⟩]
  | .HN_EQ_EYE => [⟨.HEIGHT, 0, 16, .ro, 0⟩, ⟨.WIDTH, 16, 16, .ro, 0⟩]
  | .HN_SPARE_CFG => [⟨.THRESH, 0, 16, .rw, 0x400⟩, ⟨.WINDOW_MS, 16, 16, .rw, 0x64⟩]
  | .HN_LINK_ID => [⟨.PEER_PORT, 0, 3, .ro, 0⟩, ⟨.PEER_SPARE_OK, 3, 1, .ro, 0⟩, ⟨.PEER_RATES, 4, 3, .ro, 0⟩]
  | .FB_ID => [⟨.ADDR, 0, 8, .rw, 0⟩, ⟨.ADDR_VALID, 8, 1, .rw, 0⟩]
  | .FB_CTRL => [⟨.ROUTE_HOST, 0, 1, .rw, 0⟩, ⟨.ACTIVE, 1, 1, .rw, 0⟩, ⟨.LOSS_MS, 2, 16, .rw, 0x64⟩]
  | .FB_STATUS => [⟨.TOPO_CHANGED, 0, 1, .w1c, 0⟩, ⟨.ADDR_CONFLICT, 1, 1, .w1c, 0⟩, ⟨.CMD_ERR, 2, 1, .w1c, 0⟩, ⟨.MODULES, 3, 8, .ro, 0⟩, ⟨.ROOT, 11, 8, .ro, 0⟩]
  | .FB_DROP => [⟨.COUNT, 0, 32, .rc, 0⟩]
  | .FB_LOST_LOG => [⟨.PORT, 0, 3, .ro, 0⟩, ⟨.PEER, 3, 8, .ro, 0⟩, ⟨.CAMP, 11, 6, .ro, 0⟩, ⟨.REASON, 17, 2, .ro, 0⟩, ⟨.MORE, 19, 1, .ro, 0⟩, ⟨.VALID, 39, 1, .w1c, 0⟩]
  | .FB_LOST_COUNT => [⟨.COUNT, 0, 32, .rc, 0⟩]
  | .FB_RT_SEL => [⟨.TABLE, 0, 3, .rw, 0⟩, ⟨.DEST, 3, 8, .rw, 0⟩, ⟨.BANK, 11, 1, .rw, 0⟩]
  | .FB_RT_ENTRY => [⟨.OUT, 0, 3, .rw, 7⟩, ⟨.MASK, 3, 7, .rw, 0⟩]
  | .FB_NBR => [⟨.ADDR, 0, 8, .ro, 0⟩, ⟨.ADDR_VALID, 8, 1, .ro, 0⟩, ⟨.PORT, 9, 3, .ro, 0⟩, ⟨.STATE, 12, 2, .ro, 0⟩, ⟨.TREE, 14, 1, .ro, 0⟩]
  | .TM_CTRL => [⟨.SERVO_HOST, 0, 1, .rw, 0⟩, ⟨.AUTO_ROOT, 1, 1, .rw, 1⟩, ⟨.CMD, 2, 2, .wo, 0⟩]
  | .TM_STATUS => [⟨.STATE, 0, 3, .ro, 0⟩, ⟨.PARENT, 3, 3, .ro, 7⟩, ⟨.ROOT, 6, 7, .ro, 0⟩, ⟨.HOPS, 13, 7, .ro, 0⟩, ⟨.ROOT_CONFLICT, 20, 1, .w1c, 0⟩, ⟨.OUT_OF_TOL, 21, 1, .ro, 0⟩, ⟨.CMD_ERR, 22, 1, .w1c, 0⟩]
  | .TM_NOW_FRAC => [⟨.FRAC, 0, 32, .rw, 0⟩]
  | .TM_NOW_NS_LO => [⟨.NS, 0, 40, .rw, 0⟩]
  | .TM_NOW_NS_HI => [⟨.NS, 0, 24, .rw, 0⟩]
  | .TM_RATE => [⟨.INC, 0, 36, .rw, 0x200000000⟩]
  | .TM_OFFSET => [⟨.E, 0, 40, .ro, 0⟩]
  | .TM_SERVO => [⟨.KP, 0, 5, .rw, 0x12⟩, ⟨.KI, 5, 5, .rw, 0x16⟩, ⟨.MAX_PPM, 10, 10, .rw, 0xc8⟩, ⟨.LOCK_NS, 20, 10, .rw, 0x14⟩, ⟨.TOL_NS, 30, 10, .rw, 0x3e8⟩]
  | .TM_SYNC_COUNT => [⟨.COUNT, 0, 32, .rc, 0⟩]
  | .TM_CMP_CFG => [⟨.EN, 0, 1, .rw, 0⟩, ⟨.MODE, 1, 1, .rw, 0⟩, ⟨.DESIGN, 2, 1, .rw, 0⟩, ⟨.CAMP, 3, 6, .rw, 0⟩, ⟨.ACQ, 9, 1, .rw, 0⟩, ⟨.IRQ, 10, 1, .rw, 0⟩, ⟨.FIRED, 11, 1, .w1c, 0⟩]
  | .TM_CMP_T_LO => [⟨.NS, 0, 40, .rw, 0⟩]
  | .TM_CMP_T_HI => [⟨.NS, 0, 24, .rw, 0⟩]
  | .TM_CMP_PERIOD => [⟨.NS, 0, 40, .rw, 0⟩]
  | .TM_PULSE => [⟨.COMP, 0, 4, .rw, 0⟩, ⟨.EN, 4, 1, .rw, 0⟩, ⟨.WIDTH_NS, 5, 16, .rw, 0x64⟩, ⟨.OWNER_EN, 21, 1, .rw, 0⟩, ⟨.CAMP, 22, 6, .rw, 0⟩]
  | .TM_CAP_CFG => [⟨.EN, 0, 1, .rw, 0⟩, ⟨.EDGE, 1, 2, .rw, 1⟩, ⟨.LEVEL, 3, 5, .ro, 0⟩, ⟨.OVF, 8, 1, .w1c, 0⟩]
  | .TM_CAP_FRAC => [⟨.FRAC, 0, 32, .rc, 0⟩]
  | .TM_CAP_NS_LO => [⟨.NS, 0, 40, .ro, 0⟩]
  | .TM_CAP_NS_HI => [⟨.NS, 0, 24, .ro, 0⟩]
  | .TM_DT_INC_LO => [⟨.INC, 0, 40, .rw, 0⟩]
  | .TM_DT_INC_HI => [⟨.INC, 0, 24, .rw, 0⟩]
  | .TM_DT_CTRL => [⟨.BUSY, 0, 1, .ro, 0⟩, ⟨.WR_ERR, 1, 1, .w1c, 0⟩]
  | .TM_DT_FRAC => [⟨.FRAC, 0, 32, .ro, 0⟩]
  | .TM_DT_NS_LO => [⟨.NS, 0, 40, .ro, 0⟩]
  | .TM_DT_NS_HI => [⟨.NS, 0, 24, .ro, 0⟩]
  | .ACQ_CTRL => [⟨.CMD, 0, 2, .wo, 0⟩, ⟨.REARM, 2, 1, .rw, 0⟩, ⟨.WRAP, 3, 1, .rw, 0⟩, ⟨.BUFS, 4, 4, .rw, 0⟩, ⟨.PRE, 8, 4, .rw, 0⟩, ⟨.CAMP, 12, 6, .ro, 0⟩, ⟨.OWNED, 18, 1, .ro, 0⟩, ⟨.STATE, 19, 3, .ro, 0⟩, ⟨.ERR, 22, 1, .w1c, 0⟩]
  | .ACQ_TIMING => [⟨.HOLDOFF, 0, 16, .rw, 0x40⟩, ⟨.POST_CYCLES, 16, 24, .rw, 0⟩]
  | .ACQ_RING => [⟨.BASE, 0, 26, .ro, 0⟩]
  | .ACQ_RING_SIZE => [⟨.PAGES, 0, 26, .ro, 0⟩]
  | .ACQ_HITMASK => [⟨.HITS, 0, 32, .ro, 0⟩]
  | .ACQ_MISSED => [⟨.COUNT, 0, 32, .rc, 0⟩]
  | .ACQ_MISS_LOG => [⟨.CYCLE, 0, 39, .ro, 0⟩, ⟨.VALID, 39, 1, .w1c, 0⟩]
  | .ACQ_TRIG_CYCLE => [⟨.CYCLE, 0, 40, .ro, 0⟩]
  | .ACQ_PRE_COUNT => [⟨.COUNT, 0, 32, .ro, 0⟩]
  | .ACQ_SEQ => [⟨.STATE, 0, 3, .ro, 0⟩, ⟨.BUF, 3, 4, .ro, 0⟩, ⟨.K_MAX, 7, 4, .ro, 0⟩]
  | .ACQ_LOST => [⟨.COUNT, 0, 32, .rc, 0⟩]
  | .ACQ_COND => [⟨.SRC, 0, 3, .rw, 0⟩, ⟨.INDEX, 3, 7, .rw, 0⟩]
  | .ACQ_RULE => [⟨.VALID, 0, 1, .rw, 0⟩, ⟨.COND, 1, 5, .rw, 0⟩, ⟨.NEXT, 6, 3, .rw, 0⟩, ⟨.TRIG, 9, 1, .rw, 0⟩, ⟨.COUNT, 10, 12, .rw, 1⟩, ⟨.PROGRESS, 22, 12, .ro, 0⟩]
  | .ACQ_DEC_CFG => [⟨.FORMAT, 0, 2, .rw, 0⟩, ⟨.HOST, 2, 1, .rw, 0⟩, ⟨.FORCE, 3, 1, .wo, 0⟩, ⟨.CAMP, 4, 6, .ro, 0⟩, ⟨.OWNED, 10, 1, .ro, 0⟩]
  | .ACQ_DEC_PARAM => [⟨.PARAM, 0, 32, .rw, 0⟩]
  | .ACQ_DEC_SRC01 => [⟨.SRC0, 0, 14, .rw, 0⟩, ⟨.SRC1, 14, 14, .rw, 0⟩]
  | .ACQ_DEC_SRC2 => [⟨.SRC2, 0, 14, .rw, 0⟩]
  | .ACQ_DEC_MATCH => [⟨.MATCH, 0, 40, .rw, 0⟩]
  | .ACQ_DEC_MASK => [⟨.MASK, 0, 40, .rw, 0⟩]
  | .ACQ_DEC_LAST => [⟨.FIELD, 0, 40, .ro, 0⟩]
  | .ACQ_LP => [⟨.NET, 0, 10, .rw, 0⟩, ⟨.CAMP, 10, 6, .ro, 0⟩, ⟨.OWNED, 16, 1, .ro, 0⟩, ⟨.EN, 17, 1, .rw, 0⟩, ⟨.DRIVE, 18, 2, .rw, 0⟩, ⟨.LOAD, 20, 2, .ro, 0⟩, ⟨.OVERRIDE, 22, 1, .rw, 0⟩, ⟨.SHORT, 23, 1, .ro, 0⟩]
  | .ACQ_GLOBAL => [⟨.WR_ERR, 0, 1, .w1c, 0⟩]
  | .ACQ_TRIGOUT => [⟨.UNIT, 0, 2, .rw, 0⟩, ⟨.EN, 2, 1, .rw, 0⟩, ⟨.WIDTH_NS, 3, 16, .rw, 0x64⟩]
  | .ACQ_IN_CFG => [⟨.POL, 0, 1, .rw, 1⟩, ⟨.STUCK_MS, 1, 16, .rw, 0x3e8⟩, ⟨.STUCK, 17, 1, .w1c, 0⟩, ⟨.MASKED, 18, 1, .ro, 0⟩]
  | .ACQ_IN_OVERRATE => [⟨.COUNT, 0, 32, .rc, 0⟩]
  | .ACQ_CMP_CFG => [⟨.EN, 0, 1, .rw, 0⟩, ⟨.MODE, 1, 1, .rw, 0⟩, ⟨.WORD, 2, 1, .rw, 0⟩, ⟨.SRC, 3, 11, .rw, 0⟩, ⟨.CAMP, 14, 6, .ro, 0⟩, ⟨.OWNED, 20, 1, .ro, 0⟩]
  | .ACQ_CMP_VAL => [⟨.VALUE, 0, 40, .rw, 0⟩]
  | .ACQ_CMP_MASK => [⟨.MASK, 0, 40, .rw, 0⟩]
  | .TR_CTRL => [⟨.EN, 0, 1, .rw, 0⟩, ⟨.IEN, 1, 1, .rw, 1⟩, ⟨.DEN, 2, 1, .rw, 0⟩, ⟨.DVAL, 3, 1, .rw, 0⟩, ⟨.STALL, 4, 1, .rw, 0⟩, ⟨.CMD, 5, 2, .wo, 0⟩, ⟨.CAIRN_US, 7, 16, .rw, 0x3e8⟩, ⟨.SYNC_FRAMES, 23, 8, .rw, 0x10⟩, ⟨.FLUSH_US, 31, 8, .rw, 0x64⟩, ⟨.DRAIN, 39, 1, .rw, 1⟩]
  | .TR_STATUS => [⟨.STATE, 0, 2, .ro, 0⟩, ⟨.FULL, 2, 1, .ro, 0⟩, ⟨.ERR, 3, 1, .w1c, 0⟩, ⟨.CAUSE, 4, 3, .ro, 1⟩, ⟨.DRAINING, 7, 1, .ro, 0⟩]
  | .TR_RING => [⟨.BASE, 0, 26, .rw, 0⟩, ⟨.KEY_ID, 26, 8, .rw, 0⟩, ⟨.WRAP, 34, 1, .rw, 1⟩]
  | .TR_RING_SIZE => [⟨.PAGES, 0, 26, .rw, 0⟩]
  | .TR_WPTR => [⟨.LINE, 0, 32, .ro, 0⟩, ⟨.WRAPPED, 32, 1, .w1c, 0⟩]
  | .TR_CORES => [⟨.MASK, 0, 16, .rw, 0⟩]
  | .TR_DOMS_LO => [⟨.MASK, 0, 40, .rw, 0⟩]
  | .TR_DOMS_HI => [⟨.MASK, 0, 24, .rw, 0⟩]
  | .TR_LOST => [⟨.COUNT, 0, 32, .rc, 0⟩]
  | .TR_EXCL => [⟨.COUNT, 0, 32, .rc, 0⟩]
  | .TR_FB_STATUS => [⟨.LEVEL, 0, 13, .ro, 0⟩, ⟨.HEAD, 13, 12, .ro, 0⟩]
  | .TR_FB_OVERWRITE => [⟨.COUNT, 0, 32, .rc, 0⟩]
  | .TR_FB_SEL => [⟨.FRAME, 0, 12, .rw, 0⟩, ⟨.WORD, 12, 4, .rw, 0⟩]
  | .TR_FB_DATA => [⟨.DATA, 0, 32, .ro, 0⟩]
  | .TR_CHAL_LO => [⟨.CHAL, 0, 40, .ro, 0⟩]
  | .TR_CHAL_HI => [⟨.CHAL, 0, 24, .ro, 0⟩]
  | .TR_TOKEN_ADDR_LO => [⟨.ADDR, 0, 40, .rw, 0⟩]
  | .TR_TOKEN_ADDR_HI => [⟨.ADDR, 0, 24, .rw, 0⟩]
  | .TR_TOKEN_CMD => [⟨.CMD, 0, 2, .wo, 0⟩, ⟨.SLOT, 2, 3, .rw, 0⟩, ⟨.BUSY, 5, 1, .ro, 0⟩, ⟨.RESULT, 6, 3, .ro, 0⟩]
  | .TR_TOKEN => [⟨.VALID, 0, 1, .ro, 0⟩, ⟨.KEY_ID, 1, 8, .ro, 0⟩, ⟨.SCOPE, 9, 2, .ro, 0⟩]
  | .PW_CTRL => [⟨.CMD, 0, 2, .wo, 0⟩, ⟨.CAP_W, 2, 14, .rw, 0⟩, ⟨.HYST_W, 16, 10, .rw, 0x32⟩, ⟨.TEMP_LIM, 26, 7, .rw, 0x64⟩]
  | .PW_STATUS => [⟨.PHASE, 0, 3, .ro, 0⟩, ⟨.READY, 3, 1, .ro, 0⟩, ⟨.LAST_RESET, 4, 3, .ro, 0⟩, ⟨.ILIM, 7, 1, .ro, 0⟩, ⟨.LIMITING, 8, 1, .ro, 0⟩, ⟨.HI_ENV, 9, 1, .ro, 0⟩, ⟨.ERR, 10, 1, .w1c, 0⟩, ⟨.L_W, 11, 14, .ro, 0⟩]
  | .PW_IN => [⟨.VIN, 0, 13, .ro, 0⟩, ⟨.IIN, 13, 13, .ro, 0⟩, ⟨.PIN, 26, 14, .ro, 0⟩]
  | .PW_STAGGER => [⟨.US, 0, 10, .rw, 0x32⟩]
  | .PW_TEMP => [⟨.HOT, 0, 8, .ro, 0⟩, ⟨.DIE, 8, 4, .ro, 0⟩]
  | .PW_LIMIT_COUNT => [⟨.COUNT, 0, 32, .rc, 0⟩]
  | .PW_FW_ADDR_LO => [⟨.ADDR, 0, 40, .rw, 0⟩]
  | .PW_FW_ADDR_HI => [⟨.ADDR, 0, 24, .rw, 0⟩]
  | .PW_FW_LEN => [⟨.BYTES, 0, 25, .rw, 0⟩]
  | .PW_FW_STATUS => [⟨.BUSY, 0, 1, .ro, 0⟩, ⟨.RESULT, 1, 3, .ro, 0⟩, ⟨.SLOT, 4, 1, .ro, 0⟩, ⟨.REV, 5, 32, .ro, 0⟩]
  | .PW_DOM => [⟨.CMD, 0, 2, .wo, 0⟩, ⟨.STATE, 2, 3, .ro, 0⟩, ⟨.MV, 5, 14, .ro, 0⟩, ⟨.CURR, 19, 19, .ro, 0⟩]
  | .PW_CAMP => [⟨.LEVEL, 0, 5, .ro, 0⟩, ⟨.MHZ, 5, 11, .ro, 0⟩]
  | .HS_COL_MAP => [⟨.COL0, 0, 6, .rw, 0x3f⟩, ⟨.COL1, 6, 6, .rw, 0x3f⟩, ⟨.PENDING, 12, 1, .ro, 0⟩, ⟨.ACTIVE0, 13, 6, .ro, 0x3f⟩, ⟨.ACTIVE1, 19, 6, .ro, 0x3f⟩]
  | .HS_CTRL => [⟨.SCRUB_HOST, 0, 1, .rw, 0⟩, ⟨.SPARE_HOST, 1, 1, .rw, 0⟩, ⟨.PASS_MS, 2, 14, .rw, 0x64⟩, ⟨.CE_THRESH, 16, 16, .rw, 0x10⟩]
  | .HS_CMD => [⟨.CMD, 0, 3, .wo, 0⟩, ⟨.TARGET, 3, 2, .rw, 0⟩, ⟨.INDEX, 5, 6, .rw, 0⟩, ⟨.BUSY, 11, 1, .ro, 0⟩, ⟨.RESULT, 12, 2, .ro, 0⟩]
  | .HS_STATUS => [⟨.CMD_ERR, 0, 1, .w1c, 0⟩]
  | .HS_SUP_LOG => [⟨.DIE, 0, 4, .ro, 0⟩, ⟨.MORE, 4, 1, .ro, 0⟩, ⟨.VALID, 39, 1, .w1c, 0⟩]
  | .HS_SUP_COUNT => [⟨.COUNT, 0, 32, .rc, 0⟩]
  | .HS_WEAR => [⟨.FLUSH_S, 0, 16, .rw, 0xe10⟩, ⟨.USED, 16, 16, .ro, 0⟩, ⟨.FULL, 32, 1, .ro, 0⟩]
  | .SC_CTRL => [⟨.KIND, 0, 3, .rw, 0⟩, ⟨.SLOT, 3, 7, .rw, 0⟩, ⟨.GO, 10, 1, .wo, 0⟩]
  | .SC_STATUS => [⟨.PASSES, 0, 24, .ro, 0⟩, ⟨.RELOADING, 24, 1, .ro, 0⟩, ⟨.BUSY, 25, 1, .ro, 0⟩]
  | .SC_UE_LOG => [⟨.KIND, 0, 3, .ro, 0⟩, ⟨.SLOT, 3, 7, .ro, 0⟩, ⟨.UNIT, 10, 7, .ro, 0⟩, ⟨.ADDR, 17, 16, .ro, 0⟩, ⟨.SRC, 33, 1, .ro, 0⟩, ⟨.MORE, 34, 1, .ro, 0⟩, ⟨.VALID, 39, 1, .w1c, 0⟩]
  | .SC_CE_COUNT => [⟨.COUNT, 0, 32, .rc, 0⟩]
  | .SC_UE_COUNT => [⟨.COUNT, 0, 16, .rc, 0⟩]
  | .SC_VOTE_COUNT => [⟨.COUNT, 0, 32, .rc, 0⟩]
  | .SC_CHECKSUM => [⟨.CRC, 0, 32, .ro, 0⟩]
  | .ID_DEVICE => [⟨.FAMILY, 0, 16, .ro, 0x51⟩, ⟨.CLASS, 16, 16, .ro, 8⟩, ⟨.GRADE, 32, 8, .ro, 0⟩]
  | .ID_REV => [⟨.STEPPING, 0, 8, .ro, 0⟩]
  | .ID_PCI => [⟨.VENDOR, 0, 16, .ro, 0⟩, ⟨.DEVICE, 16, 16, .ro, 0x5108⟩]
  | .ID_JTAG => [⟨.IDCODE, 0, 32, .ro, 0⟩]
  | .ID_KEY_SEL => [⟨.KEY, 0, 1, .rw, 0⟩, ⟨.WORD, 1, 5, .rw, 0⟩]
  | .ID_KEY_DATA => [⟨.DATA, 0, 32, .ro, 0⟩]
  | .ID_ROLLBACK => [⟨.MIN_REV, 0, 32, .ro, 0⟩]
  | .ID_ERR_SUMMARY => [⟨.LOGS, 0, 16, .ro, 0⟩, ⟨.DIES, 16, 8, .ro, 0⟩]
  | .ID_ERR_LOG => [⟨.OFFSET, 0, 26, .ro, 0⟩, ⟨.KIND, 26, 3, .ro, 0⟩, ⟨.BAR, 29, 1, .ro, 0⟩, ⟨.CAUSE, 30, 4, .ro, 0⟩, ⟨.MORE, 34, 1, .ro, 0⟩, ⟨.VALID, 39, 1, .w1c, 0⟩]
  | .ID_ERR_COUNT => [⟨.COUNT, 0, 32, .rc, 0⟩]
  | .ID_ERR_OFFSET => [⟨.OFFSET, 0, 34, .ro, 0⟩]
  | .HI_BAR2_AP => [⟨.BASE, 0, 6, .rw, 0⟩, ⟨.KEY_ID, 6, 8, .rw, 0⟩, ⟨.EN, 14, 1, .rw, 0⟩]
  | .HI_IRQ_CAUSE => [⟨.CAUSE, 0, 16, .w1c, 0⟩]
  | .HI_IRQ_EN => [⟨.EN, 0, 16, .rw, 0⟩]
  | .HI_CAMP_IRQ => [⟨.CAUSE, 0, 5, .w1c, 0⟩, ⟨.EN, 8, 5, .rw, 0⟩]
  | .HI_CH_VEC => [⟨.VEC, 0, 8, .rw, 0⟩]
  | .PW_REFCLK => [⟨.SRC, 0, 1, .ro, 0⟩, ⟨.PRESENT, 1, 1, .ro, 0⟩, ⟨.LOST, 2, 1, .w1c, 0⟩, ⟨.CMD, 3, 2, .wo, 0⟩, ⟨.OUT_EN, 5, 1, .rw, 1⟩, ⟨.REFSEL, 6, 1, .ro, 0⟩, ⟨.CMD_ERR, 7, 1, .w1c, 0⟩, ⟨.ADDR_STRAP, 8, 2, .ro, 0⟩]

/-- The place of each register in BAR0. `DM_MAP` is one set seen through every channel (R340). -/
def placeOf : RegName → Place
  | .HS_PITCH_MAP => ⟨0x101000, [⟨0, 64, 0x8⟩]⟩
  | .HS_BP_MAP => ⟨0x102000, [⟨0, 576, 0x8⟩]⟩
  | .RUN_CAMP_CTRL => ⟨0x31000, [⟨0, 64, 0x40⟩]⟩
  | .RUN_CAMP_STATUS => ⟨0x31008, [⟨0, 64, 0x40⟩]⟩
  | .RUN_CAMP_CYCLE_LO => ⟨0x31010, [⟨0, 64, 0x40⟩]⟩
  | .RUN_CAMP_CYCLE_HI => ⟨0x31018, [⟨0, 64, 0x40⟩]⟩
  | .RUN_CAMP_PITCH_LO => ⟨0x31020, [⟨0, 64, 0x40⟩]⟩
  | .RUN_CAMP_PITCH_HI => ⟨0x31028, [⟨0, 64, 0x40⟩]⟩
  | .CL_BOUNDS => ⟨0x1000000, [⟨0, 8, 0x400000⟩, ⟨0, 72, 0x1000⟩]⟩
  | .CL_FAULT_LOG => ⟨0x1000008, [⟨0, 8, 0x400000⟩, ⟨0, 72, 0x1000⟩]⟩
  | .CL_FAULT_CYCLE => ⟨0x1000010, [⟨0, 8, 0x400000⟩, ⟨0, 72, 0x1000⟩]⟩
  | .CL_FAULT_COUNT => ⟨0x1000018, [⟨0, 8, 0x400000⟩, ⟨0, 72, 0x1000⟩]⟩
  | .WU_CFG => ⟨0x1080000, [⟨0, 8, 0x400000⟩, ⟨0, 72, 0x40⟩]⟩
  | .WU_BOUNDS => ⟨0x1080008, [⟨0, 8, 0x400000⟩, ⟨0, 72, 0x40⟩]⟩
  | .WU_SR_PTR => ⟨0x1080010, [⟨0, 8, 0x400000⟩, ⟨0, 72, 0x40⟩]⟩
  | .CM_MGMT_ADDR => ⟨0x10a0000, [⟨0, 8, 0x400000⟩]⟩
  | .CM_MGMT_DATA => ⟨0x10a0008, [⟨0, 8, 0x400000⟩]⟩
  | .CM_MGMT_CHECK => ⟨0x10a0010, [⟨0, 8, 0x400000⟩]⟩
  | .CM_MGMT_CTRL => ⟨0x10a0018, [⟨0, 8, 0x400000⟩]⟩
  | .CM_ECC_LOG => ⟨0x1090000, [⟨0, 8, 0x400000⟩, ⟨0, 72, 0x40⟩]⟩
  | .CM_ECC_CE_COUNT => ⟨0x1090008, [⟨0, 8, 0x400000⟩, ⟨0, 72, 0x40⟩]⟩
  | .CM_ECC_UE_COUNT => ⟨0x1090010, [⟨0, 8, 0x400000⟩, ⟨0, 72, 0x40⟩]⟩
  | .CM_STATUS => ⟨0x1090018, [⟨0, 8, 0x400000⟩, ⟨0, 72, 0x40⟩]⟩
  | .DN_CONFLICT_LOG => ⟨0x10b0000, [⟨0, 8, 0x400000⟩]⟩
  | .DN_CONFLICT_CYCLE => ⟨0x10b0008, [⟨0, 8, 0x400000⟩]⟩
  | .DN_CONFLICT_COUNT => ⟨0x10b0010, [⟨0, 8, 0x400000⟩]⟩
  | .RUN_XING_LOG => ⟨0x38000, []⟩
  | .RUN_XING_CYCLE => ⟨0x38008, []⟩
  | .RUN_XING_COUNT => ⟨0x38010, []⟩
  | .RUN_XING_USED => ⟨0x38018, []⟩
  | .GL_STALL_CAUSE => ⟨0x32000, [⟨0, 64, 0x100⟩]⟩
  | .GL_STALL_LAST => ⟨0x32008, [⟨0, 64, 0x100⟩]⟩
  | .GL_STALL_TIME => ⟨0x32000, [⟨0, 64, 0x100⟩, ⟨1, 14, 0x10⟩]⟩
  | .GL_STALL_EVENTS => ⟨0x32008, [⟨0, 64, 0x100⟩, ⟨1, 14, 0x10⟩]⟩
  | .GL_CAMP_SPAN => ⟨0x320e0, [⟨0, 64, 0x100⟩]⟩
  | .GL_FIFO_LOG => ⟨0x36000, []⟩
  | .GL_FIFO_CYCLE => ⟨0x36008, []⟩
  | .GL_FIFO_COUNT => ⟨0x36010, []⟩
  | .GL_OVERRUN_LOG => ⟨0x36018, []⟩
  | .GL_OVERRUN_COUNT => ⟨0x36020, []⟩
  | .DC_CTRL => ⟨0x40000, [⟨0, 64, 0x200⟩]⟩
  | .DC_TAG => ⟨0x40000, [⟨0, 64, 0x200⟩, ⟨1, 16, 0x8⟩]⟩
  | .DC_ACC => ⟨0x40080, [⟨0, 64, 0x200⟩, ⟨1, 16, 0x8⟩]⟩
  | .DC_VECTOR => ⟨0x40100, [⟨0, 64, 0x200⟩]⟩
  | .DC_SNAP_BASE => ⟨0x40108, [⟨0, 64, 0x200⟩]⟩
  | .DC_SNAP_TARGET => ⟨0x40110, [⟨0, 64, 0x200⟩]⟩
  | .DC_SNAP_CTRL => ⟨0x40118, [⟨0, 64, 0x200⟩]⟩
  | .DC_SNAP_STATUS => ⟨0x40120, [⟨0, 64, 0x200⟩]⟩
  | .DC_SNAP_CYCLE => ⟨0x40128, [⟨0, 64, 0x200⟩]⟩
  | .DC_SNAP_SIZE => ⟨0x40130, [⟨0, 64, 0x200⟩]⟩
  | .DC_SNAP_SEL => ⟨0x40138, [⟨0, 64, 0x200⟩]⟩
  | .DC_REPLAY_CTRL => ⟨0x40140, [⟨0, 64, 0x200⟩]⟩
  | .DC_REPLAY_DIVERGE => ⟨0x40148, [⟨0, 64, 0x200⟩]⟩
  | .RUN_CONTRACT_LOG => ⟨0x39000, [⟨0, 64, 0x40⟩]⟩
  | .RUN_CONTRACT_CYCLE => ⟨0x39008, [⟨0, 64, 0x40⟩]⟩
  | .RUN_CONTRACT_COUNT => ⟨0x39010, [⟨0, 64, 0x40⟩]⟩
  | .RUN_CONTRACT_STEPS => ⟨0x39018, [⟨0, 64, 0x40⟩]⟩
  | .RUN_CAMP_TARGET => ⟨0x39020, [⟨0, 64, 0x40⟩]⟩
  | .RUN_CAMP_DRAM => ⟨0x39028, [⟨0, 64, 0x40⟩]⟩
  | .RUN_CAMP_HOP => ⟨0x39030, [⟨0, 64, 0x40⟩]⟩
  | .LD_CTRL => ⟨0x20000, []⟩
  | .LD_STATUS => ⟨0x20008, []⟩
  | .LD_ERR_DETAIL => ⟨0x20010, []⟩
  | .LD_TIMEOUT => ⟨0x20018, []⟩
  | .LD_DMA_ADDR_LO => ⟨0x20020, []⟩
  | .LD_DMA_ADDR_HI => ⟨0x20028, []⟩
  | .LD_DMA_PUSH => ⟨0x20030, []⟩
  | .LD_PROGRESS => ⟨0x20038, []⟩
  | .LD_SERIAL => ⟨0x20040, []⟩
  | .LD_PLACE_MOD => ⟨0x21000, [⟨0, 128, 0x40⟩]⟩
  | .LD_PLACE_PITCH_LO => ⟨0x21008, [⟨0, 128, 0x40⟩]⟩
  | .LD_PLACE_PITCH_HI => ⟨0x21010, [⟨0, 128, 0x40⟩]⟩
  | .LD_PLACE_DEEP_BASE => ⟨0x21018, [⟨0, 128, 0x40⟩]⟩
  | .LD_PLACE_DEEP_SIZE => ⟨0x21020, [⟨0, 128, 0x40⟩]⟩
  | .DM_CTRL => ⟨0xc0000, [⟨0, 8, 0x2000⟩]⟩
  | .DM_STATUS => ⟨0xc0008, [⟨0, 8, 0x2000⟩]⟩
  | .DM_BOUND => ⟨0xc0010, [⟨0, 8, 0x2000⟩]⟩
  | .DM_REF => ⟨0xc0018, [⟨0, 8, 0x2000⟩]⟩
  | .DM_TRAIN_SEL => ⟨0xc0020, [⟨0, 8, 0x2000⟩]⟩
  | .DM_TRAIN_VAL => ⟨0xc0028, [⟨0, 8, 0x2000⟩]⟩
  | .DM_TRAIN_CMD => ⟨0xc0030, [⟨0, 8, 0x2000⟩]⟩
  | .DM_RH_CFG => ⟨0xc0038, [⟨0, 8, 0x2000⟩]⟩
  | .DM_RH_LOG => ⟨0xc0040, [⟨0, 8, 0x2000⟩]⟩
  | .DM_RH_COUNT => ⟨0xc0048, [⟨0, 8, 0x2000⟩]⟩
  | .DM_ECC_CE => ⟨0xc0050, [⟨0, 8, 0x2000⟩]⟩
  | .DM_ECC_UE => ⟨0xc0058, [⟨0, 8, 0x2000⟩]⟩
  | .DM_PPR => ⟨0xc0060, [⟨0, 8, 0x2000⟩]⟩
  | .DM_LATE => ⟨0xc0068, [⟨0, 8, 0x2000⟩]⟩
  | .DM_DROP => ⟨0xc0070, [⟨0, 8, 0x2000⟩]⟩
  | .DM_MAP => ⟨0xc0100, [⟨0, 9, 0x8⟩]⟩
  | .MP_KEY_CMD => ⟨0xb0000, []⟩
  | .MP_KEY_ADDR_LO => ⟨0xb0008, []⟩
  | .MP_KEY_ADDR_HI => ⟨0xb0010, []⟩
  | .MP_ALARM_LOG => ⟨0xb0018, []⟩
  | .MP_ALARM_ADDR => ⟨0xb0020, []⟩
  | .MP_ALARM_COUNT => ⟨0xb0028, []⟩
  | .MP_TREE_CE => ⟨0xb0030, []⟩
  | .MP_REENC_COUNT => ⟨0xb0038, []⟩
  | .MP_POISON => ⟨0xb0040, []⟩
  | .MP_KEYSTATE => ⟨0xb1000, [⟨0, 256, 0x8⟩]⟩
  | .MP_RANGE_BASE => ⟨0xb2000, [⟨0, 64, 0x10⟩]⟩
  | .MP_RANGE_SIZE => ⟨0xb2008, [⟨0, 64, 0x10⟩]⟩
  | .MP_LINK_STATUS => ⟨0xb3000, [⟨0, 6, 0x40⟩]⟩
  | .MP_LINK_AUTH => ⟨0xb3008, [⟨0, 6, 0x40⟩]⟩
  | .CC_CTRL => ⟨0x88000, [⟨0, 16, 0x100⟩]⟩
  | .CC_STATUS => ⟨0x88008, [⟨0, 16, 0x100⟩]⟩
  | .CC_PC => ⟨0x88010, [⟨0, 16, 0x100⟩]⟩
  | .CC_TRAP_LOG => ⟨0x88018, [⟨0, 16, 0x100⟩]⟩
  | .CC_TRAP_ADDR => ⟨0x88020, [⟨0, 16, 0x100⟩]⟩
  | .CC_TRAP_COUNT => ⟨0x88028, [⟨0, 16, 0x100⟩]⟩
  | .CC_RETIRED => ⟨0x88030, [⟨0, 16, 0x100⟩]⟩
  | .CC_SLEEPS => ⟨0x88038, [⟨0, 16, 0x100⟩]⟩
  | .CC_DOM_CFG => ⟨0x8c000, [⟨0, 64, 0x80⟩]⟩
  | .CC_DOM_WBASE => ⟨0x8c010, [⟨0, 64, 0x80⟩, ⟨0, 4, 0x10⟩]⟩
  | .CC_DOM_WSIZE => ⟨0x8c018, [⟨0, 64, 0x80⟩, ⟨0, 4, 0x10⟩]⟩
  | .CH_CFG => ⟨0x90000, [⟨0, 256, 0x100⟩]⟩
  | .CH_CTRL => ⟨0x90008, [⟨0, 256, 0x100⟩]⟩
  | .CH_PEER => ⟨0x90010, [⟨0, 256, 0x100⟩]⟩
  | .CH_HRING_LO => ⟨0x90018, [⟨0, 256, 0x100⟩]⟩
  | .CH_HRING_HI => ⟨0x90020, [⟨0, 256, 0x100⟩]⟩
  | .CH_RING => ⟨0x90028, [⟨0, 256, 0x100⟩]⟩
  | .CH_TIMEOUT => ⟨0x90030, [⟨0, 256, 0x100⟩]⟩
  | .CH_SEQ_IN => ⟨0x90038, [⟨0, 256, 0x100⟩]⟩
  | .CH_SEQ_OUT => ⟨0x90040, [⟨0, 256, 0x100⟩]⟩
  | .CH_IN_IDX => ⟨0x90048, [⟨0, 256, 0x100⟩]⟩
  | .CH_OUT_IDX => ⟨0x90050, [⟨0, 256, 0x100⟩]⟩
  | .CH_ERR_LOG => ⟨0x90058, [⟨0, 256, 0x100⟩]⟩
  | .CH_ERR_SEQ => ⟨0x90060, [⟨0, 256, 0x100⟩]⟩
  | .CH_ERR_CYCLE => ⟨0x90068, [⟨0, 256, 0x100⟩]⟩
  | .CH_DUP_COUNT => ⟨0x90070, [⟨0, 256, 0x100⟩]⟩
  | .CH_REJECT_COUNT => ⟨0x90078, [⟨0, 256, 0x100⟩]⟩
  | .CH_TIMEOUT_COUNT => ⟨0x90080, [⟨0, 256, 0x100⟩]⟩
  | .CH_LIMIT => ⟨0x90088, [⟨0, 256, 0x100⟩]⟩
  | .TS_TASK_SEL => ⟨0x80000, []⟩
  | .TS_TASK_FLAGS => ⟨0x80008, []⟩
  | .TS_TASK_MASK => ⟨0x80010, []⟩
  | .TS_TASK_CFG => ⟨0x80018, []⟩
  | .TS_TASK_CTX => ⟨0x80020, []⟩
  | .TS_TASK_CMD => ⟨0x80028, []⟩
  | .TS_TASK_END => ⟨0x80030, []⟩
  | .TS_REORDER => ⟨0x80100, []⟩
  | .TS_LOG_BASE => ⟨0x8e000, [⟨0, 64, 0x40⟩]⟩
  | .TS_LOG_SIZE => ⟨0x8e008, [⟨0, 64, 0x40⟩]⟩
  | .TS_LOG_POS_LO => ⟨0x8e010, [⟨0, 64, 0x40⟩]⟩
  | .TS_LOG_POS_HI => ⟨0x8e018, [⟨0, 64, 0x40⟩]⟩
  | .TS_LOG_KEEP_LO => ⟨0x8e020, [⟨0, 64, 0x40⟩]⟩
  | .TS_LOG_KEEP_HI => ⟨0x8e028, [⟨0, 64, 0x40⟩]⟩
  | .TS_LOG_STATUS => ⟨0x8e030, [⟨0, 64, 0x40⟩]⟩
  | .NOC_AGE => ⟨0xa0000, []⟩
  | .NOC_CRIT_STATUS => ⟨0xa0008, []⟩
  | .NOC_CRIT_LATE => ⟨0xa0010, []⟩
  | .NOC_CRIT_HELD => ⟨0xa0018, []⟩
  | .NOC_FENCE_ADDR_LO => ⟨0xa0020, []⟩
  | .NOC_FENCE_ADDR_HI => ⟨0xa0028, []⟩
  | .NOC_FENCE_STATUS => ⟨0xa0030, []⟩
  | .NOC_RESEND => ⟨0xa0038, []⟩
  | .NOC_PD_LOG => ⟨0xa0040, []⟩
  | .NOC_PD_DROPS => ⟨0xa0048, []⟩
  | .NOC_PD_DISCARD => ⟨0xa0050, []⟩
  | .NOC_PD_TIMEOUT => ⟨0xa0058, []⟩
  | .NOC_PROBE_CFG => ⟨0xa1000, [⟨0, 16, 0x100⟩]⟩
  | .NOC_PROBE_FILTER => ⟨0xa1008, [⟨0, 16, 0x100⟩]⟩
  | .NOC_PROBE_COUNT => ⟨0xa1010, [⟨0, 16, 0x100⟩]⟩
  | .NOC_PROBE_AGE => ⟨0xa1018, [⟨0, 16, 0x100⟩]⟩
  | .NOC_PROBE_TR_HDR => ⟨0xa1020, [⟨0, 16, 0x100⟩]⟩
  | .NOC_PROBE_TR_ADDR => ⟨0xa1028, [⟨0, 16, 0x100⟩]⟩
  | .NOC_PROBE_TR_CTRL => ⟨0xa1030, [⟨0, 16, 0x100⟩]⟩
  | .HN_CTRL => ⟨0xe0000, [⟨0, 6, 0x2000⟩]⟩
  | .HN_STATUS => ⟨0xe0008, [⟨0, 6, 0x2000⟩]⟩
  | .HN_PEER => ⟨0xe0010, [⟨0, 6, 0x2000⟩]⟩
  | .HN_LAT => ⟨0xe0018, [⟨0, 6, 0x2000⟩]⟩
  | .HN_FEC_CE => ⟨0xe0020, [⟨0, 6, 0x2000⟩]⟩
  | .HN_FEC_UE => ⟨0xe0028, [⟨0, 6, 0x2000⟩]⟩
  | .HN_CRC_ERR => ⟨0xe0030, [⟨0, 6, 0x2000⟩]⟩
  | .HN_REPLAY_COUNT => ⟨0xe0038, [⟨0, 6, 0x2000⟩]⟩
  | .HN_TRAIN_COUNT => ⟨0xe0040, [⟨0, 6, 0x2000⟩]⟩
  | .HN_LANE_SEL => ⟨0xe0048, [⟨0, 6, 0x2000⟩]⟩
  | .HN_LANE_TAP => ⟨0xe0050, [⟨0, 6, 0x2000⟩]⟩
  | .HN_LANE_ERR => ⟨0xe0058, [⟨0, 6, 0x2000⟩]⟩
  | .HN_EQ_REQ => ⟨0xe0060, [⟨0, 6, 0x2000⟩]⟩
  | .HN_EQ_EYE => ⟨0xe0068, [⟨0, 6, 0x2000⟩]⟩
  | .HN_SPARE_CFG => ⟨0xe0070, [⟨0, 6, 0x2000⟩]⟩
  | .HN_LINK_ID => ⟨0xe0078, [⟨0, 6, 0x2000⟩]⟩
  | .FB_ID => ⟨0xf0000, []⟩
  | .FB_CTRL => ⟨0xf0008, []⟩
  | .FB_STATUS => ⟨0xf0010, []⟩
  | .FB_DROP => ⟨0xf0018, []⟩
  | .FB_LOST_LOG => ⟨0xf0020, []⟩
  | .FB_LOST_COUNT => ⟨0xf0028, []⟩
  | .FB_RT_SEL => ⟨0xf0040, []⟩
  | .FB_RT_ENTRY => ⟨0xf0048, []⟩
  | .FB_NBR => ⟨0xf0100, [⟨0, 6, 0x8⟩]⟩
  | .TM_CTRL => ⟨0x50000, []⟩
  | .TM_STATUS => ⟨0x50008, []⟩
  | .TM_NOW_FRAC => ⟨0x50010, []⟩
  | .TM_NOW_NS_LO => ⟨0x50018, []⟩
  | .TM_NOW_NS_HI => ⟨0x50020, []⟩
  | .TM_RATE => ⟨0x50028, []⟩
  | .TM_OFFSET => ⟨0x50030, []⟩
  | .TM_SERVO => ⟨0x50038, []⟩
  | .TM_SYNC_COUNT => ⟨0x50040, []⟩
  | .TM_CMP_CFG => ⟨0x50100, [⟨0, 16, 0x20⟩]⟩
  | .TM_CMP_T_LO => ⟨0x50108, [⟨0, 16, 0x20⟩]⟩
  | .TM_CMP_T_HI => ⟨0x50110, [⟨0, 16, 0x20⟩]⟩
  | .TM_CMP_PERIOD => ⟨0x50118, [⟨0, 16, 0x20⟩]⟩
  | .TM_PULSE => ⟨0x50300, [⟨0, 4, 0x10⟩]⟩
  | .TM_CAP_CFG => ⟨0x50380, [⟨0, 2, 0x20⟩]⟩
  | .TM_CAP_FRAC => ⟨0x50388, [⟨0, 2, 0x20⟩]⟩
  | .TM_CAP_NS_LO => ⟨0x50390, [⟨0, 2, 0x20⟩]⟩
  | .TM_CAP_NS_HI => ⟨0x50398, [⟨0, 2, 0x20⟩]⟩
  | .TM_DT_INC_LO => ⟨0x50800, [⟨0, 64, 0x40⟩]⟩
  | .TM_DT_INC_HI => ⟨0x50808, [⟨0, 64, 0x40⟩]⟩
  | .TM_DT_CTRL => ⟨0x50810, [⟨0, 64, 0x40⟩]⟩
  | .TM_DT_FRAC => ⟨0x50818, [⟨0, 64, 0x40⟩]⟩
  | .TM_DT_NS_LO => ⟨0x50820, [⟨0, 64, 0x40⟩]⟩
  | .TM_DT_NS_HI => ⟨0x50828, [⟨0, 64, 0x40⟩]⟩
  | .ACQ_CTRL => ⟨0x60000, [⟨0, 4, 0x400⟩]⟩
  | .ACQ_TIMING => ⟨0x60008, [⟨0, 4, 0x400⟩]⟩
  | .ACQ_RING => ⟨0x60010, [⟨0, 4, 0x400⟩]⟩
  | .ACQ_RING_SIZE => ⟨0x60018, [⟨0, 4, 0x400⟩]⟩
  | .ACQ_HITMASK => ⟨0x60020, [⟨0, 4, 0x400⟩]⟩
  | .ACQ_MISSED => ⟨0x60028, [⟨0, 4, 0x400⟩]⟩
  | .ACQ_MISS_LOG => ⟨0x60030, [⟨0, 4, 0x400⟩]⟩
  | .ACQ_TRIG_CYCLE => ⟨0x60038, [⟨0, 4, 0x400⟩]⟩
  | .ACQ_PRE_COUNT => ⟨0x60040, [⟨0, 4, 0x400⟩]⟩
  | .ACQ_SEQ => ⟨0x60048, [⟨0, 4, 0x400⟩]⟩
  | .ACQ_LOST => ⟨0x60050, [⟨0, 4, 0x400⟩]⟩
  | .ACQ_COND => ⟨0x60100, [⟨0, 4, 0x400⟩, ⟨0, 32, 0x8⟩]⟩
  | .ACQ_RULE => ⟨0x60200, [⟨0, 4, 0x400⟩, ⟨0, 32, 0x8⟩]⟩
  | .ACQ_DEC_CFG => ⟨0x62000, [⟨0, 8, 0x40⟩]⟩
  | .ACQ_DEC_PARAM => ⟨0x62008, [⟨0, 8, 0x40⟩]⟩
  | .ACQ_DEC_SRC01 => ⟨0x62010, [⟨0, 8, 0x40⟩]⟩
  | .ACQ_DEC_SRC2 => ⟨0x62018, [⟨0, 8, 0x40⟩]⟩
  | .ACQ_DEC_MATCH => ⟨0x62020, [⟨0, 8, 0x40⟩]⟩
  | .ACQ_DEC_MASK => ⟨0x62028, [⟨0, 8, 0x40⟩]⟩
  | .ACQ_DEC_LAST => ⟨0x62030, [⟨0, 8, 0x40⟩]⟩
  | .ACQ_LP => ⟨0x63000, [⟨0, 64, 0x8⟩]⟩
  | .ACQ_GLOBAL => ⟨0x63400, []⟩
  | .ACQ_TRIGOUT => ⟨0x63408, []⟩
  | .ACQ_IN_CFG => ⟨0x63440, [⟨0, 4, 0x10⟩]⟩
  | .ACQ_IN_OVERRATE => ⟨0x63448, [⟨0, 4, 0x10⟩]⟩
  | .ACQ_CMP_CFG => ⟨0x10c0000, [⟨0, 8, 0x400000⟩, ⟨0, 16, 0x20⟩]⟩
  | .ACQ_CMP_VAL => ⟨0x10c0008, [⟨0, 8, 0x400000⟩, ⟨0, 16, 0x20⟩]⟩
  | .ACQ_CMP_MASK => ⟨0x10c0010, [⟨0, 8, 0x400000⟩, ⟨0, 16, 0x20⟩]⟩
  | .TR_CTRL => ⟨0x70000, []⟩
  | .TR_STATUS => ⟨0x70008, []⟩
  | .TR_RING => ⟨0x70010, []⟩
  | .TR_RING_SIZE => ⟨0x70018, []⟩
  | .TR_WPTR => ⟨0x70020, []⟩
  | .TR_CORES => ⟨0x70028, []⟩
  | .TR_DOMS_LO => ⟨0x70030, []⟩
  | .TR_DOMS_HI => ⟨0x70038, []⟩
  | .TR_LOST => ⟨0x70040, []⟩
  | .TR_EXCL => ⟨0x70048, []⟩
  | .TR_FB_STATUS => ⟨0x70050, []⟩
  | .TR_FB_OVERWRITE => ⟨0x70058, []⟩
  | .TR_FB_SEL => ⟨0x70060, []⟩
  | .TR_FB_DATA => ⟨0x70068, []⟩
  | .TR_CHAL_LO => ⟨0x70070, []⟩
  | .TR_CHAL_HI => ⟨0x70078, []⟩
  | .TR_TOKEN_ADDR_LO => ⟨0x70080, []⟩
  | .TR_TOKEN_ADDR_HI => ⟨0x70088, []⟩
  | .TR_TOKEN_CMD => ⟨0x70090, []⟩
  | .TR_TOKEN => ⟨0x70098, [⟨0, 8, 0x8⟩]⟩
  | .PW_CTRL => ⟨0x10000, []⟩
  | .PW_STATUS => ⟨0x10008, []⟩
  | .PW_IN => ⟨0x10010, []⟩
  | .PW_STAGGER => ⟨0x10018, []⟩
  | .PW_TEMP => ⟨0x10020, []⟩
  | .PW_LIMIT_COUNT => ⟨0x10028, []⟩
  | .PW_FW_ADDR_LO => ⟨0x10030, []⟩
  | .PW_FW_ADDR_HI => ⟨0x10038, []⟩
  | .PW_FW_LEN => ⟨0x10040, []⟩
  | .PW_FW_STATUS => ⟨0x10048, []⟩
  | .PW_DOM => ⟨0x10100, [⟨0, 80, 0x8⟩]⟩
  | .PW_CAMP => ⟨0x10400, [⟨0, 64, 0x8⟩]⟩
  | .HS_COL_MAP => ⟨0x104000, [⟨0, 576, 0x8⟩]⟩
  | .HS_CTRL => ⟨0x100000, []⟩
  | .HS_CMD => ⟨0x100008, []⟩
  | .HS_STATUS => ⟨0x100010, []⟩
  | .HS_SUP_LOG => ⟨0x100018, []⟩
  | .HS_SUP_COUNT => ⟨0x100020, []⟩
  | .HS_WEAR => ⟨0x100028, []⟩
  | .SC_CTRL => ⟨0x10d0000, [⟨0, 8, 0x400000⟩]⟩
  | .SC_STATUS => ⟨0x10d0008, [⟨0, 8, 0x400000⟩]⟩
  | .SC_UE_LOG => ⟨0x10d0010, [⟨0, 8, 0x400000⟩]⟩
  | .SC_CE_COUNT => ⟨0x10d0018, [⟨0, 8, 0x400000⟩]⟩
  | .SC_UE_COUNT => ⟨0x10d0020, [⟨0, 8, 0x400000⟩]⟩
  | .SC_VOTE_COUNT => ⟨0x10d0028, [⟨0, 8, 0x400000⟩]⟩
  | .SC_CHECKSUM => ⟨0x10d0030, [⟨0, 8, 0x400000⟩]⟩
  | .ID_DEVICE => ⟨0x0, []⟩
  | .ID_REV => ⟨0x8, []⟩
  | .ID_PCI => ⟨0x10, []⟩
  | .ID_JTAG => ⟨0x18, []⟩
  | .ID_KEY_SEL => ⟨0x20, []⟩
  | .ID_KEY_DATA => ⟨0x28, []⟩
  | .ID_ROLLBACK => ⟨0x30, []⟩
  | .ID_ERR_SUMMARY => ⟨0x38, []⟩
  | .ID_ERR_LOG => ⟨0x40, []⟩
  | .ID_ERR_COUNT => ⟨0x48, []⟩
  | .ID_ERR_OFFSET => ⟨0x50, []⟩
  | .HI_BAR2_AP => ⟨0x100, [⟨0, 4, 0x8⟩]⟩
  | .HI_IRQ_CAUSE => ⟨0x120, []⟩
  | .HI_IRQ_EN => ⟨0x128, []⟩
  | .HI_CAMP_IRQ => ⟨0x200, [⟨0, 64, 0x8⟩]⟩
  | .HI_CH_VEC => ⟨0x400, [⟨0, 256, 0x8⟩]⟩
  | .PW_REFCLK => ⟨0x10050, []⟩

/-- Every register, in the order of the chapters. -/
def regNames0 : List RegName :=
  [.HS_PITCH_MAP, .HS_BP_MAP, .RUN_CAMP_CTRL, .RUN_CAMP_STATUS, .RUN_CAMP_CYCLE_LO, .RUN_CAMP_CYCLE_HI, 
   .RUN_CAMP_PITCH_LO, .RUN_CAMP_PITCH_HI, .CL_BOUNDS, .CL_FAULT_LOG, .CL_FAULT_CYCLE, .CL_FAULT_COUNT, .WU_CFG, 
   .WU_BOUNDS, .WU_SR_PTR, .CM_MGMT_ADDR, .CM_MGMT_DATA, .CM_MGMT_CHECK, .CM_MGMT_CTRL, .CM_ECC_LOG, 
   .CM_ECC_CE_COUNT, .CM_ECC_UE_COUNT, .CM_STATUS, .DN_CONFLICT_LOG, .DN_CONFLICT_CYCLE, .DN_CONFLICT_COUNT, 
   .RUN_XING_LOG, .RUN_XING_CYCLE, .RUN_XING_COUNT, .RUN_XING_USED, .GL_STALL_CAUSE, .GL_STALL_LAST, .GL_STALL_TIME, 
   .GL_STALL_EVENTS, .GL_CAMP_SPAN, .GL_FIFO_LOG, .GL_FIFO_CYCLE, .GL_FIFO_COUNT, .GL_OVERRUN_LOG, .GL_OVERRUN_COUNT, 
   .DC_CTRL, .DC_TAG, .DC_ACC, .DC_VECTOR, .DC_SNAP_BASE, .DC_SNAP_TARGET, .DC_SNAP_CTRL, .DC_SNAP_STATUS, 
   .DC_SNAP_CYCLE, .DC_SNAP_SIZE, .DC_SNAP_SEL, .DC_REPLAY_CTRL, .DC_REPLAY_DIVERGE, .RUN_CONTRACT_LOG, 
   .RUN_CONTRACT_CYCLE, .RUN_CONTRACT_COUNT, .RUN_CONTRACT_STEPS, .RUN_CAMP_TARGET, .RUN_CAMP_DRAM, .RUN_CAMP_HOP]

def regNames1 : List RegName :=
  [.LD_CTRL, .LD_STATUS, .LD_ERR_DETAIL, .LD_TIMEOUT, .LD_DMA_ADDR_LO, .LD_DMA_ADDR_HI, .LD_DMA_PUSH, .LD_PROGRESS, 
   .LD_SERIAL, .LD_PLACE_MOD, .LD_PLACE_PITCH_LO, .LD_PLACE_PITCH_HI, .LD_PLACE_DEEP_BASE, .LD_PLACE_DEEP_SIZE, 
   .DM_CTRL, .DM_STATUS, .DM_BOUND, .DM_REF, .DM_TRAIN_SEL, .DM_TRAIN_VAL, .DM_TRAIN_CMD, .DM_RH_CFG, .DM_RH_LOG, 
   .DM_RH_COUNT, .DM_ECC_CE, .DM_ECC_UE, .DM_PPR, .DM_LATE, .DM_DROP, .DM_MAP, .MP_KEY_CMD, .MP_KEY_ADDR_LO, 
   .MP_KEY_ADDR_HI, .MP_ALARM_LOG, .MP_ALARM_ADDR, .MP_ALARM_COUNT, .MP_TREE_CE, .MP_REENC_COUNT, .MP_POISON, 
   .MP_KEYSTATE, .MP_RANGE_BASE, .MP_RANGE_SIZE, .MP_LINK_STATUS, .MP_LINK_AUTH, .CC_CTRL, .CC_STATUS, .CC_PC, 
   .CC_TRAP_LOG, .CC_TRAP_ADDR, .CC_TRAP_COUNT, .CC_RETIRED, .CC_SLEEPS, .CC_DOM_CFG, .CC_DOM_WBASE, .CC_DOM_WSIZE, 
   .CH_CFG, .CH_CTRL, .CH_PEER, .CH_HRING_LO, .CH_HRING_HI]

def regNames2 : List RegName :=
  [.CH_RING, .CH_TIMEOUT, .CH_SEQ_IN, .CH_SEQ_OUT, .CH_IN_IDX, .CH_OUT_IDX, .CH_ERR_LOG, .CH_ERR_SEQ, .CH_ERR_CYCLE, 
   .CH_DUP_COUNT, .CH_REJECT_COUNT, .CH_TIMEOUT_COUNT, .CH_LIMIT, .TS_TASK_SEL, .TS_TASK_FLAGS, .TS_TASK_MASK, 
   .TS_TASK_CFG, .TS_TASK_CTX, .TS_TASK_CMD, .TS_TASK_END, .TS_REORDER, .TS_LOG_BASE, .TS_LOG_SIZE, .TS_LOG_POS_LO, 
   .TS_LOG_POS_HI, .TS_LOG_KEEP_LO, .TS_LOG_KEEP_HI, .TS_LOG_STATUS, .NOC_AGE, .NOC_CRIT_STATUS, .NOC_CRIT_LATE, 
   .NOC_CRIT_HELD, .NOC_FENCE_ADDR_LO, .NOC_FENCE_ADDR_HI, .NOC_FENCE_STATUS, .NOC_RESEND, .NOC_PD_LOG, 
   .NOC_PD_DROPS, .NOC_PD_DISCARD, .NOC_PD_TIMEOUT, .NOC_PROBE_CFG, .NOC_PROBE_FILTER, .NOC_PROBE_COUNT, 
   .NOC_PROBE_AGE, .NOC_PROBE_TR_HDR, .NOC_PROBE_TR_ADDR, .NOC_PROBE_TR_CTRL, .HN_CTRL, .HN_STATUS, .HN_PEER, 
   .HN_LAT, .HN_FEC_CE, .HN_FEC_UE, .HN_CRC_ERR, .HN_REPLAY_COUNT, .HN_TRAIN_COUNT, .HN_LANE_SEL, .HN_LANE_TAP, 
   .HN_LANE_ERR, .HN_EQ_REQ]

def regNames3 : List RegName :=
  [.HN_EQ_EYE, .HN_SPARE_CFG, .HN_LINK_ID, .FB_ID, .FB_CTRL, .FB_STATUS, .FB_DROP, .FB_LOST_LOG, .FB_LOST_COUNT, 
   .FB_RT_SEL, .FB_RT_ENTRY, .FB_NBR, .TM_CTRL, .TM_STATUS, .TM_NOW_FRAC, .TM_NOW_NS_LO, .TM_NOW_NS_HI, .TM_RATE, 
   .TM_OFFSET, .TM_SERVO, .TM_SYNC_COUNT, .TM_CMP_CFG, .TM_CMP_T_LO, .TM_CMP_T_HI, .TM_CMP_PERIOD, .TM_PULSE, 
   .TM_CAP_CFG, .TM_CAP_FRAC, .TM_CAP_NS_LO, .TM_CAP_NS_HI, .TM_DT_INC_LO, .TM_DT_INC_HI, .TM_DT_CTRL, .TM_DT_FRAC, 
   .TM_DT_NS_LO, .TM_DT_NS_HI, .ACQ_CTRL, .ACQ_TIMING, .ACQ_RING, .ACQ_RING_SIZE, .ACQ_HITMASK, .ACQ_MISSED, 
   .ACQ_MISS_LOG, .ACQ_TRIG_CYCLE, .ACQ_PRE_COUNT, .ACQ_SEQ, .ACQ_LOST, .ACQ_COND, .ACQ_RULE, .ACQ_DEC_CFG, 
   .ACQ_DEC_PARAM, .ACQ_DEC_SRC01, .ACQ_DEC_SRC2, .ACQ_DEC_MATCH, .ACQ_DEC_MASK, .ACQ_DEC_LAST, .ACQ_LP, .ACQ_GLOBAL, 
   .ACQ_TRIGOUT, .ACQ_IN_CFG]

def regNames4 : List RegName :=
  [.ACQ_IN_OVERRATE, .ACQ_CMP_CFG, .ACQ_CMP_VAL, .ACQ_CMP_MASK, .TR_CTRL, .TR_STATUS, .TR_RING, .TR_RING_SIZE, 
   .TR_WPTR, .TR_CORES, .TR_DOMS_LO, .TR_DOMS_HI, .TR_LOST, .TR_EXCL, .TR_FB_STATUS, .TR_FB_OVERWRITE, .TR_FB_SEL, 
   .TR_FB_DATA, .TR_CHAL_LO, .TR_CHAL_HI, .TR_TOKEN_ADDR_LO, .TR_TOKEN_ADDR_HI, .TR_TOKEN_CMD, .TR_TOKEN, .PW_CTRL, 
   .PW_STATUS, .PW_IN, .PW_STAGGER, .PW_TEMP, .PW_LIMIT_COUNT, .PW_FW_ADDR_LO, .PW_FW_ADDR_HI, .PW_FW_LEN, 
   .PW_FW_STATUS, .PW_DOM, .PW_CAMP, .HS_COL_MAP, .HS_CTRL, .HS_CMD, .HS_STATUS, .HS_SUP_LOG, .HS_SUP_COUNT, 
   .HS_WEAR, .SC_CTRL, .SC_STATUS, .SC_UE_LOG, .SC_CE_COUNT, .SC_UE_COUNT, .SC_VOTE_COUNT, .SC_CHECKSUM, .ID_DEVICE, 
   .ID_REV, .ID_PCI, .ID_JTAG, .ID_KEY_SEL, .ID_KEY_DATA, .ID_ROLLBACK, .ID_ERR_SUMMARY, .ID_ERR_LOG, .ID_ERR_COUNT]

def regNames5 : List RegName :=
  [.ID_ERR_OFFSET, .HI_BAR2_AP, .HI_IRQ_CAUSE, .HI_IRQ_EN, .HI_CAMP_IRQ, .HI_CH_VEC, .PW_REFCLK]

/-- Every register of BAR0. -/
def allRegs : List RegName := regNames0 ++ regNames1 ++ regNames2 ++ regNames3 ++ regNames4 ++ regNames5

end Sys2Proof.Machine
end

