-- ==== Sys2Proof/Machine/State.lean ====
section
/-! DEFINITION. The state of the block as plain data, its faults and refusals, and the state after reset. -/

namespace Sys2Proof.Machine

/-- A register field: register, index and field name. DESIGN CHOICE (log 17), safe. -/
structure RegKey where
  reg : RegName
  i : Nat
  fld : FName
  deriving DecidableEq, Repr

/-- What a part is fitted and programmed with at the factory (R1, R705): grade code and the values the register tables call factory values, straps or drawn at power-on. -/
structure Part where
  /-- Grade code (R1, R705). -/
  grade : Nat
  /-- Serial number (R324, R705). -/
  serial : Nat
  /-- Stepping (R705). -/
  stepping : Nat
  /-- PCI vendor number (R688, R705). -/
  vendor : Nat
  /-- IDCODE of the test port (R699). -/
  idcode : Nat
  /-- Lowest firmware revision that boots (R650). -/
  minRev : Nat
  /-- Device public key and firmware signing key, 97 bytes each (R705). -/
  devKey : List Byte
  fwKey : List Byte
  /-- Firmware load key (R650). -/
  fwLoad : List Byte
  /-- The REFSEL strap (R715). -/
  refsel : Nat
  /-- The ADDR_S straps (R715). -/
  addrStrap : Nat
  deriving DecidableEq, Repr

/-- A STALL a die group holds; `high` marks a BUFFER_HIGH, and `past` says that the group was past the raiser's position when it received it (R218). -/
structure Held where
  stall : Stall
  high : Bool
  past : Bool
  deriving DecidableEq, Repr

/-- A segment of a schedule (R40, R246): first step and tag. -/
structure Seg where
  first : Nat
  tag : Nat
  deriving DecidableEq, Repr

/-- A die group: the pitches of one camp on one E-die (R202). -/
structure Group where
  /-- The position it executes next. -/
  pos : Pos
  /-- The edge vector of the cycle in progress has been applied (R44). -/
  applied : Bool
  /-- The edge vector in force, and that of the cycle before (R67, R241). -/
  cur : BitVec 16
  prev : BitVec 16
  /-- The queue of edge vectors, each with its design cycle (R242). -/
  queue : List (Nat × BitVec 16)
  /-- The STALLs it holds (R216). -/
  held : List Held
  /-- A fault has been raised in its part of the cycle in progress (R95). -/
  fault : Bool
  /-- Schedule steps executed in the cycle in progress (R286). -/
  ran : Nat
  deriving DecidableEq, Repr

/-- A command that waits for a boundary (R54), a START held under R261, or an UNLOAD whose isolation and clear are under way (R321). -/
inductive Pend where
  | pause
  | step (n : Nat)
  | halt
  | start
  | unload
  deriving DecidableEq, Repr

/-- A fault summary, this module's or one received (R213, R286, R541): module, design cycle, fault, steps, and whether a difference of step counts was logged with it. -/
structure Summary where
  module : Nat
  cycle : Nat
  fault : Bool
  steps : Nat
  bad : Bool
  deriving DecidableEq, Repr

/-- A word of cluster memory: the 40 data bits, and the XOR of the stored check byte with the correct one (R137, R147). -/
structure MemWord where
  data : Word
  syn : BitVec 8
  deriving DecidableEq, Repr

/-- The state of a snapshot-latch drain of a BP (R88 to R90): none; loaded and waiting to begin; waiting for the path in the order given; in progress with the pieces moved. -/
inductive Drain where
  | idle
  | armed
  | queued (order : Nat)
  | active (pieces : Nat)
  deriving DecidableEq, Repr

/-- A Boolean processor (R60, R71, R75, R87): instruction memory (unlisted entries are zero), bit store, state store, shadow and its marks, snapshot latch and drain, what it drove on its crossbar line at the last executed step (R69), and what it drives at the step in progress (R175). -/
structure Bp where
  imem : List (Nat × Inst80)
  bits : Bits1024
  state : Bits1024
  shadow : Bits1024
  marks : Bits1024
  latch : Bits1024
  drain : Drain
  line : Option Bool
  drive : Option Bool
  deriving DecidableEq, Repr

/-- A multiply in flight (R114): executed steps left, destination register and result. -/
structure MulOp where
  left : Nat
  dst : Nat
  val : Word
  deriving DecidableEq, Repr

/-- A request of requesters 1 to 4 that waits for a bank (R140, R142). -/
inductive BankOp where
  | read
  | write (x : Word)
  | bitSet (x : Word)
  | bitClear (x : Word)
  | rawWrite (x : Word) (check : BitVec 8)
  | scrub
  | copyLine
  deriving DecidableEq, Repr

/-- A waiting request: requester number, word address and access. -/
structure BankReq where
  /-- The requester, 1 to 4 (R140). -/
  who : Nat
  /-- The word (R137). -/
  addr : Nat
  /-- The access (R140). -/
  op : BankOp
  deriving DecidableEq, Repr

/-- A bit in flight on a mesh lane toward a router (R176): the step it arrives for, the port it enters (R174), lane, value and valid bit. -/
structure LaneBit where
  due : Nat
  port : Nat
  lane : Nat
  val : Bool
  valid : Bool
  deriving DecidableEq, Repr

/-- A bit that a record exchange wrote into a bit store (R253, R729): address, logical BP, value. -/
structure BoundaryRec where
  addr : Nat
  bp : Nat
  val : Bool
  deriving DecidableEq, Repr

/-- A bit-store write of the step in progress that may yet be taken back (R94, R124, R189): logical BP whose instruction wrote it, or 64 for the word unit; BP, address and the value replaced. -/
structure BitOld where
  who : Nat
  bp : Nat
  addr : Nat
  old : Bool
  deriving DecidableEq, Repr

/-- A physical cluster: its BPs by physical slot, word unit (R105), cluster memory (R137) and requesters, router (R174), receive slots (R167), and its part of a snapshot (R253 to R255). -/
structure Cluster where
  bps : List (Nat × Bp)
  /-- The spare BP slots in force (R33, R35). -/
  spare0 : Nat
  spare1 : Nat
  /-- The word unit's instruction memory (R105). -/
  wimem : List (Nat × Inst80)
  /-- Microinstruction entries (R116). -/
  micro : List (Nat × Inst80)
  /-- W0 to W15 (R105). -/
  w : List (Nat × Word)
  /-- Multiplies in progress (R114). -/
  mul : List MulOp
  /-- Cluster memory (R137); canonical. -/
  mem : List (Nat × MemWord)
  /-- Rotation pointer of each bank (R142); 4 where unlisted. -/
  bankPtr : List (Nat × Nat)
  /-- Requests that wait for a bank (R140, R142). -/
  reqs : List BankReq
  /-- Banks the word unit occupies in the step last executed (R139, R141). -/
  busy : List Nat
  /-- Transfer memory of the router (R174). -/
  router : List (Nat × Word)
  /-- Receive slots (R167). -/
  recv : Bits1024
  /-- Fresh flags of the receive slots (R167). -/
  fresh : Bits1024
  /-- Bits on their way on mesh lanes (R175, R176). -/
  lanes : List LaneBit
  /-- Outgoing slots that ROUTEs drive in the present step: slot, logical BP, value (R84, R165). -/
  slots : List (Nat × Nat × Bool)
  /-- MODEL'S OWN: the logical BPs (64 for the word unit) that have executed their instruction of the step in progress; the bit-store writes of the step; word registers and multiplies as they stood before the multiplier's step ended. Every instruction of a step reads what stood at its start (R60, R107). -/
  done : List Nat
  wrote : List BitOld
  ticked : Option (List (Nat × Word) × List MulOp)
  /-- Bit-store writes of the last record exchange. -/
  exch : List BoundaryRec
  /-- First cluster-memory line the snapshot engine has not copied; 8192 with no copy in progress. -/
  snapLine : Nat
  /-- Banks of that line already granted. -/
  snapBanks : List Nat
  /-- Copied words of the snapshot that differ from a clean zero. -/
  snapMem : List (Nat × MemWord)
  /-- Save buffer (R255): old values of words of pending lines. -/
  saveBuf : List (Nat × MemWord)
  /-- Word-unit latch: W0 to W15 and the pointer (R253), and words not yet drained. -/
  wuLatch : List Word
  wuLeft : Nat
  /-- Boundary records latched at the snapshot point. -/
  snapExch : List BoundaryRec
  deriving DecidableEq, Repr

/-- A deep-access table entry of a pitch (R355), held as its 80 bits. -/
abbrev DeepEntry := Inst80

/-- A scheduled deep read that has issued (R357, R358): entry index, deep address, due step, position and first receive slot, the data once the controller has served it and once it has reached the pitch, and the causes that held it back; the STALL raised for its lateness. -/
structure DeepRead where
  pitch : Nat
  entry : Nat
  addr : Nat
  due : Nat
  pos : Nat
  slot : Nat
  fetched : Option Word
  data : Option Word
  causes : List Nat
  stall : Option Stall
  deriving DecidableEq, Repr

/-- A scheduled access on its way to deep memory, with the keys of the merge order of R360, its pitch, deep address and write data (none: a read). -/
structure DeepIssue where
  cycle : Nat
  step : Nat
  lpitch : Nat
  pos : Nat
  entry : Nat
  pitch : Nat
  addr : Nat
  data : Option Word
  deriving DecidableEq, Repr

/-- A bit of a crossing on its way (R182 to R186): camp, destination endpoint, edge of the destination die (0 hub, 1 from the die below in the ring, 2 from the die above, R211), arrival step, value, valid bit. -/
structure Item where
  camp : Nat
  dst : Nat
  edge : Nat
  arr : Nat
  val : Bool
  valid : Bool
  deriving DecidableEq, Repr

/-- A share of an elastic buffer pool (R219, R220): pitch, edge, size and margin M, its first entry in the pool (R272), and the BUFFER_HIGH STALL raised for it (R221). -/
structure Share where
  pitch : Nat
  edge : Nat
  size : Nat
  margin : Nat
  base : Nat
  high : Option Stall
  deriving DecidableEq, Repr

/-- A hop of a spanning camp (R276, R280): the port of this module that carries it, the module beyond, budget and measured latency in steps. -/
structure Hop where
  /-- Its index among the hop records of the image. -/
  idx : Nat
  port : Nat
  peer : Nat
  budget : Nat
  measured : Nat
  /-- Base and size of the camp's slots on the port (R181). -/
  base : Nat
  slots : Nat
  /-- The link is withdrawn from the camp (R293, R517). -/
  withdrawn : Bool
  deriving DecidableEq, Repr

/-- An entry of a replay log (R456): TYPE, INDEX, CODE, CYCLE and payload slots. -/
structure LogEntry where
  type : Nat
  index : Nat
  code : Nat
  cycle : Nat
  payload : List Nat
  deriving DecidableEq, Repr

/-- How far the record exchange of a port has come in the present cycle (R449): OUT and REQ not yet settled, the status word, the words sent and received, the STALL raised for its wait (R450), and whether it is complete. -/
structure PortTurn where
  port : Nat
  out : Bool
  req : Bool
  status : Nat
  outWords : List Word
  inWords : List Word
  stall : Option Stall
  done : Bool
  deriving DecidableEq, Repr

/-- The settings of a design-clock tag (R253): NUM, DEN, EN and ACC. -/
structure TagSet where
  num : Nat
  den : Nat
  en : Nat
  acc : Nat
  deriving DecidableEq, Repr

/-- The snapshot in progress of a camp (R251 to R257). -/
structure Snap where
  /-- DEEP and the region as they stood at the arm (R259). -/
  deep : Bool
  base : Nat
  /-- Target cycle; none for NEXT = 1. -/
  target : Option Nat
  /-- Boundary count recorded, log position, vectors, accumulators, design time and increment latched at B11. -/
  count : Nat
  logPos : Nat
  vecNext : BitVec 16
  vecCur : BitVec 16
  tags : List TagSet
  dtime : Nat
  dtInc : Nat
  /-- The DATA_LOST flag (R209). -/
  dataLost : Bool
  /-- Deep pages still to copy, and the pages copied with their bytes. -/
  pages : List Nat
  copied : List (Nat × List Byte)
  /-- Modules of a spanning camp that have reported DONE, this one among them once its part is written (R252). -/
  reported : List Nat
  deriving DecidableEq, Repr

/-- What a camp is beyond its registers. -/
structure Camp where
  /-- Completed design cycles (R51), and the count at which the run began (R50). -/
  cycle : BitVec 64
  began : Nat
  /-- The accepted command that waits for a boundary (R54). -/
  pend : Option Pend
  /-- A halt condition decided for the end of the cycle, with its HALT_CAUSE (R48, R55). -/
  haltAt : Option Nat
  /-- Design cycles left of a STEP in effect (R727). -/
  stepLeft : Option Nat
  /-- STALLs the camp holds on this module, oldest first (R227). -/
  stalls : List Stall
  /-- Its die groups, by E-die (R202). -/
  groups : List (Nat × Group)
  /-- Fault summaries and step counts heard (R44, R286). -/
  summaries : List Summary
  /-- Segments of its schedule (R40, R246). -/
  segs : List Seg
  /-- Module pitch of each logical pitch (R31). -/
  place : List Nat
  /-- Fabric camp tag, the modules the camp spans (own address first among its local data), and its hops (R29, R276). -/
  tag : Nat
  modules : List Nat
  /-- The other modules of the camp (R243). -/
  peers : List Nat
  /-- Guyline messages already applied (R542): 1 STALL, 2 RELEASE, 3 BOUNDARY; origin; identity or cycle. -/
  seen : List (Nat × Nat × Nat)
  /-- Its hops (R276). -/
  hops : List Hop
  /-- Its elastic shares (R219). -/
  shares : List Share
  /-- First index and size of its crossing-table range (R273). -/
  xbase : Nat
  xsize : Nat
  /-- Deep region: first page and pages (R325). -/
  deepBase : Nat
  deepPages : Nat
  /-- Deep-access and port tables of its pitches (R354, R446), by module pitch. -/
  deepTab : List (Nat × List DeepEntry)
  portTab : List (Nat × List Inst80)
  /-- Pages of its design memory (R256). -/
  design : List Nat
  /-- First bytes of the image's hash (R259), and the image's identity. -/
  digest : Nat
  /-- The isolation values of net groups 0 to 3 (R301, R322). -/
  iso : Nat
  /-- Its logical clusters (R259). -/
  lclusters : Nat
  /-- Scheduled accesses on their way, and reads issued (R357, R358). -/
  issues : List DeepIssue
  reads : List DeepRead
  /-- Crossing items under way, and items in the elastic buffers (R203, R219). -/
  flight : List Item
  items : List Item
  /-- Edges of this camp reset under R209: die, edge, whether re-primed, and the first position written since (cycle, step). -/
  lost : List ((Nat × Nat) × (Bool × Option (Nat × Nat)))
  /-- Port-slot bits that wait for a data flit (R184, R514): port, destination module, slot, step, value, valid. -/
  toPort : List (Nat × Nat × Nat × Nat × Bool × Bool)
  /-- DATA flits of the next design cycle, by port (R514). -/
  early : List (Nat × DataPay)
  /-- The settings of tags 1 to 15 after each vector sent, by design cycle (R253). -/
  accs : List (Nat × List TagSet)
  /-- Its snapshot (R251, R253). -/
  snap : Snap
  /-- R209 delivered items with valid 0 in the cycle in progress. -/
  dataLost : Bool
  /-- LOG_POS (R455), and whether a bus error has stopped logging. -/
  logPos : Nat
  logStopped : Bool
  /-- Read position of a replay (R457). -/
  readPos : Nat
  /-- PARTNER and TIMEOUT entries that wait for the exchange of their cycle, and a CLOCK entry not yet logged (R245, R456). -/
  logWait : List LogEntry
  /-- Entries that wait for room in the log (R455). -/
  logQueue : List LogEntry
  /-- CLOCK entries met in a replay (R457). -/
  clocks : List LogEntry
  /-- Tag settings accepted and not yet entered in the replay log (R245). -/
  clockNew : Option (List Nat)
  /-- The record exchange of the cycle in progress (R449); none before it begins. -/
  turns : Option (List PortTurn)
  /-- Design time, the increment in force, one accepted and not yet logged, and one logged that takes effect at B15 (R566, R567), each in units of 2^-32 ns. -/
  dtime : Nat
  dtInc : Nat
  dtNew : Option Nat
  dtNext : Option Nat
  /-- Modules whose acknowledgement of an increment is awaited (R568). -/
  dtAcks : List Nat
  /-- Step of the START ramp (R644): none before it begins. -/
  ramp : Option Nat
  /-- The restore of R261 has still to be done. -/
  restoring : Bool
  /-- The part of a target step period, as a fraction, that steps below the target have added and that is not yet charged (R224). -/
  drag : Nat × Nat
  deriving DecidableEq, Repr
/-- An entry of a row-activation table (R351): row, count, and up to four pairs of source and count. -/
structure RowEntry where
  row : Nat
  count : Nat
  pairs : List (Nat × Nat)
  deriving DecidableEq, Repr

/-- A bank of a controller (R338): channel, subchannel, 4 × bank group + bank. -/
structure BankId where
  chan : Nat
  sub : Nat
  bank : Nat
  deriving DecidableEq, Repr

/-- A stored training value's place (R346). -/
structure TrainKey where
  chan : Nat
  param : Nat
  sub : Nat
  lane : Nat
  deriving DecidableEq, Repr

/-- A refresh in progress (R348): channel, subchannel, and the bank of a REFsb or none for REFab. -/
structure Refresh where
  chan : Nat
  sub : Nat
  bank : Option Nat
  deriving DecidableEq, Repr

/-- A region that is being initialised (R375): first page, pages, key ID, and whether a key roll does it (R393). -/
structure RegionInit where
  base : Nat
  pages : Nat
  key : Nat
  roll : Bool
  deriving DecidableEq, Repr

/-- An interval [lo, hi) of bytes whose contents the spec does not give, with the number of its free value; only those whose address has the parities `code` (one bit per mask, the first lowest) under the select masks listed (R338). -/
structure Sealed where
  lo : Nat
  hi : Nat
  draw : Nat
  masks : List Nat
  code : Nat
  deriving DecidableEq, Repr

/-- Pages that have left ownership and keep their ciphertext (R321, R375): the interval [lo, hi) still in that form, the draw of the data keys, plaintext and counters as they stood, the bytes of it without a given value, and the number of the free value of their ciphertext. -/
structure Cipher where
  lo : Nat
  hi : Nat
  key : Nat
  bytes : List Host.Cell
  majors : List (Nat × Nat)
  minors : List (Nat × Nat)
  free : List Sealed
  draw : Nat
  deriving DecidableEq, Repr

/-- A throttle in force (R352): bank, row whose count reached the threshold, offender, and the tick of the offender's last activation there. -/
structure Throttle where
  bank : BankId
  row : Nat
  src : Nat
  last : Nat
  deriving DecidableEq, Repr

/-- A request that waits, with what the devices answer to it. -/
structure HeldReq where
  /-- A request that waits (R336). -/
  req : DeepReq
  /-- What the devices answer to it (R361, R385). -/
  obs : DeepObs
  deriving DecidableEq, Repr

/-- Deep memory, its controllers and the memory-protection engine's structures. -/
structure Deep where
  /-- The bytes of the data area (R333, R372), as their owner reads them; canonical, unlisted bytes read 0. -/
  bytes : List Host.Cell
  /-- Bytes without a given value (DRAM after power-on), and pages left as ciphertext (R375). -/
  sealed : List Sealed
  ciphers : List Cipher
  /-- Major counters by page, minor counters by line, and each node's counter in its parent (R384). -/
  majors : List (Nat × Nat)
  minors : List (Nat × Nat)
  nodeCtr : List (Node × Nat)
  /-- Verified nodes held (R385), frozen nodes (R387), the poison list with its causes (R389). -/
  cache : List Node
  frozen : List Node
  poison : List (Node × Nat)
  /-- Keys that have completed a roll begun after the damage, by damaged node (R394), and after an overflow of the list (R389). -/
  rolled : List (Node × List Nat)
  overRolled : List Nat
  /-- Lines that fail with MAC_FAIL or DATA_UE until they are replaced (R389). -/
  badLines : List (Nat × Nat)
  /-- Pages under re-encryption (R386) with the STALLs raised for them (page, camp, STALL), regions under initialisation (R375), and requests that wait in their controllers in order of arrival. -/
  reenc : List Nat
  reencStalls : List (Nat × Nat × Stall)
  inits : List RegionInit
  held : List HeldReq
  /-- Values written through DM_TRAIN_VAL, those in force since the last INIT (R345, R346), and mode registers by channel, subchannel and number. -/
  train : List (TrainKey × Nat)
  applied : List (TrainKey × Nat)
  modeRegs : List ((Nat × Nat × Nat) × Nat)
  /-- Refreshes in progress (R349). -/
  refreshing : List Refresh
  /-- MODEL'S OWN: the tick at which a refresh of a subchannel, or of one of its banks, last fell due (R348). -/
  dueAt : List ((Nat × Nat × Option Nat) × Nat)
  /-- Row-activation tables (R351). -/
  rows : List (BankId × List RowEntry)
  /-- Throttles (R352). -/
  throttled : List Throttle
  /-- MODEL'S OWN: the row last activated in each bank, which tells whether an engine's access activates one. -/
  openRows : List (BankId × Nat)
  /-- RFMs in progress (R352): bank, row and offender. -/
  rfm : List (BankId × Nat × Nat)
  /-- Refreshes pulled in ahead, by channel (R349), and the training operation in progress, by channel (1 MRW, 2 MRR, 3 MPC). -/
  pulled : List (Nat × Nat)
  trainOp : List (Nat × Nat)
  /-- Channels whose INIT (R342) or PPR (R362) is in progress, or that complete what they hold before QUIESCED (R343). -/
  initing : List Nat
  repairing : List Nat
  quiescing : List Nat
  /-- Rows with an sPPR in force (R362). -/
  soft : List (BankId × Nat)
  deriving DecidableEq, Repr

/-- The keys of a key ID (R376): load key and signing key as bytes, data and MAC keys by the number of their draw. -/
structure Keys where
  load : List Byte
  sign : List Byte
  data : Nat
  mac : Nat
  deriving DecidableEq, Repr

/-- The key store (R376): per key ID, the fabric key, the tree key's draw, the command in progress (1 INSTALL, 2 ROLL, 3 REMOVE; target) and rolls in progress with the damage that stood when they began (R394). -/
structure KeyStore where
  keys : List (Nat × Keys)
  fabric : Option (List Byte)
  tree : Nat
  cmd : Option (Nat × Nat)
  rolls : List (Nat × List Node)
  deriving DecidableEq, Repr

/-- The header of an image (R301). -/
structure LoadHdr where
  modules : Nat
  chkAll : Nat
  target : Nat
  budget : Nat
  hops : List (Nat × Nat × Nat)
  sig : List Byte
  steps : Nat
  iso : Nat
  lclusters : List Nat
  tags : List Nat
  deepPages : List Nat
  deriving DecidableEq, Repr

/-- A held failure (R314): its R284 order, segment and logical cluster. -/
structure HeldFail where
  order : Nat
  seg : Nat
  lcl : Nat
  deriving DecidableEq, Repr

/-- A load failure as LD_STATUS and LD_ERR_DETAIL report it (R319, R324). -/
structure LoadFailure where
  err : Nat
  seg : Nat
  lcl : Nat
  module : Nat
  lmod : Nat
  deriving DecidableEq, Repr

/-- The XING entries of one record (R303): segment in which the record begins, MASK, entries. -/
structure XingRec where
  seg : Nat
  mask : Nat
  entries : List Inst80
  deriving DecidableEq, Repr

/-- A PITCH record of this module (R304): the segment in which it begins, PART, LPITCH, body. -/
structure PitchRec where
  seg : Nat
  part : Nat
  lpitch : Nat
  body : List Byte
  deriving DecidableEq, Repr

/-- An entry of the acquisition setup (R606): KIND, INDEX, VALUE, and the segment in which its record begins. -/
structure AcqEntry where
  kind : Nat
  index : Nat
  value : Nat
  seg : Nat
  deriving DecidableEq, Repr

/-- The loader (R307 to R320). -/
structure Load where
  active : Bool
  /-- This module is the entry module; the entry module's address. -/
  entry : Bool
  origin : Nat
  /-- LD_CTRL.SRC (R324). -/
  src : Nat
  /-- The placement entries (R325). -/
  places : List PlaceEntry
  /-- The logical module placed here, if any, and its camp number. -/
  lmod : Option Nat
  camp : Nat
  /-- The camp has entered LOADING here (R315). -/
  began : Bool
  /-- Spare-map entries latched (R316). -/
  latch : List (RegKey × Nat)
  /-- Queued segments: host address and length (R324); bytes delivered by the test port (R701). -/
  queue : List (Nat × Nat)
  stream : List Byte
  /-- The segment awaited, and the number of segments. -/
  next : Nat
  segCount : Nat
  /-- The camp's key ID (R315). -/
  keyId : Nat
  /-- Fabric camp tag (R29). -/
  tag : Nat
  /-- K(i) of the segment awaited, NONCE and LABEL (R297, R298). -/
  key : List Byte
  nonce : List Byte
  label : List Byte
  /-- The stream header (R301). -/
  hdr : Option LoadHdr
  /-- Record bytes not yet taken, those taken so far, and what the signature covers (R299, R306). -/
  buf : List Byte
  taken : Nat
  hashed : List Byte
  /-- Type of the last record (R303). -/
  lastType : Nat
  /-- END has been taken (R303). -/
  ended : Bool
  /-- Logical modules for which a PLACE record has come. -/
  seen : Nat
  /-- Held failures (R314). -/
  held : List HeldFail
  /-- PLACE: logical E-die and upper pitch by logical pitch (R303), and the module pitch given to each (R31). -/
  dies : List (Nat × Nat)
  assign : List Nat
  /-- Cluster configuration words (R304, PART 4), schedule length and segment words (R278), by logical cluster. -/
  cfgs : List (Nat × List Word)
  tables : List (Nat × (Nat × List Word))
  /-- Shares by logical pitch and edge (R304). -/
  shares : List (Nat × List Nat)
  /-- Crossing records (R303). -/
  xings : List XingRec
  /-- Acquisition records (R304). -/
  acq : List AcqEntry
  /-- The PITCH records as they came; ports that the camp's crossings name and that stay in electrical idle (R323). -/
  recs : List PitchRec
  idle : List Nat
  /-- Listed modules that have received the segment last sent, and reports after END (R309, R311). -/
  got : List Nat
  reports : List (Nat × Option LoadFailure)
  /-- This module's checks have passed (R311). -/
  passed : Bool
  /-- The failure that stands (R314). -/
  failing : Option LoadFailure
  deriving DecidableEq, Repr



/-- An asynchronous FIFO (R204 to R210): items not yet read and the item last read; write and read pointer, one bit wider than the depth requires; the Gray codes of the write pointer as the read side sees it and of the read pointer as the write side sees it; the sticky OVERRUN bit, whether it is reset and not yet re-primed, what its write side sends after that and how many of these it sends again, and the FIFO_RESET STALLs raised for it, by camp. -/
structure Fifo where
  items : List Nat
  taken : Option Nat
  wptr : Nat
  rptr : Nat
  wseen : Nat
  rseen : Nat
  overrun : Bool
  reset : Bool
  resend : List Nat
  again : Nat
  held : List (Nat × Stall)
  deriving DecidableEq, Repr

/-- The host interface beyond its registers (R688, R693, R694, R696): MSI-X enable and function mask of the configuration space; mask bit and pending bit of each vector; address and data words of the MSI-X table, by 4 × vector + word. -/
structure HostIf where
  msixEnable : Bool
  maskAll : Bool
  masked : List (Nat × Bool)
  pba : List Nat
  table : List (Nat × Nat)
  deriving DecidableEq, Repr

/-- What a guyline message says (R213, R541). -/
inductive Guy where
  | stall (st : Stall)
  | release (module id : Nat)
  | boundary (m : BoundaryMsg)
  | halt (origin cause : Nat)
  deriving DecidableEq, Repr

/-- What leaves the block. -/
inductive Out where
  /-- An MSI-X message (R696 to R698): vector, address and data. -/
  | msix (v addr data : Nat)
  /-- A flit on a Halnal port: its fields, and its 128 bytes as they are sent (R397, R513). -/
  | flit (port : Nat) (f : Flit) (wire : List Byte)
  /-- A training burst or a capability word on a Halnal port (R507, R519), and a host equalization request to the far transmitter: lane, tap, operation, preset (R510). -/
  | burst (port : Nat)
  | capability (port : Nat) (w : Nat)
  | eqRequest (port lane tap op preset : Nat)
  /-- The own transmitter's answer to a request for a lane's taps (R510). -/
  | eqAnswer (port lane answer : Nat)
  /-- A packet that this module originates to itself. -/
  | loop (p : Packet)
  /-- The outcome of a deep-memory request: source, cause of its bus error, bytes read. -/
  | deepReply (src : Nat) (cause : Option Nat) (bytes : List Byte)
  /-- A read of host memory: address and length (R307, R379). -/
  | hostRead (addr len : Nat)
  /-- A write into host memory (R443, R491). -/
  | hostWrite (addr : Nat) (bytes : List Byte)
  /-- A packet that the NoC delivers to its destination node (R477). -/
  | noc (p : NocPkt)
  /-- What a read or a shift hands to the host, the test port or the SMBus: the value, whether the access is aborted (R690, R692, R700 to R702). -/
  | answer (v : Nat) (abort : Bool)
  /-- The same for bytes: a BAR2 read, an SMBus block. -/
  | answerBytes (b : List Byte)
  deriving DecidableEq, Repr

/-- An entry of the wear record (R673). -/
structure WearEntry where
  kind : Nat
  die : Nat
  slot : Nat
  unit : Nat
  count : Nat
  time : Nat
  deriving DecidableEq, Repr

/-- The health controller (R673 to R677): error sums of the period, the set of failed units, the wear record and the entries that wait for a compaction, queued row repairs, a BIST in progress, and the host's scrub passes in progress by E-die (kind and cluster slot, R668). -/
structure Health where
  ce : List (UnitId × Nat)
  ue : List (UnitId × Nat)
  failed : List UnitId
  wear : List WearEntry
  waiting : List WearEntry
  repairs : List (Nat × Nat × Nat × Nat)
  bist : Option (Nat × Nat)
  scrubs : List (Nat × (Nat × Nat))
  deriving DecidableEq, Repr
/-- A message of a channel (R441): TYPE, SEQ, CHANNEL, CREDIT and payload words; `err` marks the record that R453 gives a waiting direction. -/
structure Msg where
  type : Nat
  seq : Nat
  chan : Nat
  credit : Nat
  payload : List Word
  err : Bool
  deriving DecidableEq, Repr

/-- A channel beyond its registers (R438 to R454). -/
structure Chan where
  /-- Messages in order toward the B end and not yet taken; later ones held behind a gap; messages toward the A end that wait. -/
  inq : List Msg
  held : List Msg
  outq : List Msg
  /-- Messages in the outbound mirror ring that are being copied to the host ring (R443). -/
  copying : List Msg
  /-- A CREDIT message falls due and could not go yet (R445). -/
  creditDue : Bool
  /-- An error record stands in the queue, and held messages wait until it is taken (R453, R457). -/
  errWait : Bool
  /-- The wait in progress has already reached its timeout (R453, POLICY 0). -/
  fired : Bool
  /-- A mirror access has met a bus error and the channel moves nothing until it is enabled again (R730). -/
  stuck : Bool
  /-- A task was refused for want of credit or space, and its EV_TX is due (R464, R467). -/
  refused : Bool
  deriving DecidableEq, Repr

/-- A task entry (R458, R459). -/
structure Task where
  flags : Word
  mask : Word
  dom : Nat
  flow : Nat
  aff : Nat
  ctx : Nat
  state : Nat
  pendCancel : Bool
  core : Nat
  ticket : Nat
  cause : Nat
  deriving DecidableEq, Repr

/-- An ordered flow (R463): the next ticket, and the tickets taken and not released. -/
structure Flow where
  next : Nat
  unreleased : List Nat
  deriving DecidableEq, Repr

/-- A record in the reorder stage (R463): flow, ticket, channel and message. -/
structure Staged where
  flow : Nat
  ticket : Nat
  chan : Nat
  msg : Msg
  deriving DecidableEq, Repr

/-- A window of a domain descriptor (R430). -/
structure Win where
  base : Nat
  pages : Nat
  rd : Bool
  wr : Bool
  ex : Bool
  deriving DecidableEq, Repr

/-- What a core runs: the task and its domain descriptor as read at dispatch (R421). -/
structure Run where
  task : Nat
  dom : Nat
  pl : Nat
  key : Nat
  slice : Nat
  wins : List Win
  deriving DecidableEq, Repr

/-- A trap taken (R425, R426): cause, bus cause, gate number, effective address and PC. -/
structure Trap where
  cause : Nat
  bus : Nat
  gate : Nat
  addr : Nat
  pc : Nat
  deriving DecidableEq, Repr

/-- A memory access of a core that waits for the NoC (R410): 0 load, 1 store, 2 ASWAP, 3 AADD; address, bytes, destination register, operand, PC of the instruction and key ID. -/
structure MemOp where
  kind : Nat
  ea : Nat
  size : Nat
  rd : Nat
  data : Word
  pc : Nat
  key : Nat
  deriving DecidableEq, Repr

/-- A line of a data cache (R409, R416): line address, the key ID it was filled under, and, where it is dirty, the bytes that deep memory held before. -/
structure DLine where
  line : Nat
  key : Nat
  old : Option (List Byte)
  deriving DecidableEq, Repr

/-- The task in a bivouac slot (R462): loaded or not, PC and C1 to C31 as loaded, and the bus cause where the load failed (R420). -/
structure Slot where
  task : Nat
  loaded : Bool
  ctx : List Word
  failed : Option Nat
  deriving DecidableEq, Repr

/-- A core's part of the trace unit (R621 to R625): packet bytes of the open frame, its SYNC bit and number of packets; frame count, not-taken count, IREF, DREF, packets dropped, excluded code, and the cairns due by reason. -/
structure TraceCore where
  frame : List Byte
  sync : Bool
  count : Nat
  fseq : Nat
  ntaken : Nat
  iref : Nat
  dref : Nat
  dropped : Nat
  excluded : Bool
  due : List Nat
  deriving DecidableEq, Repr

/-- A channel core (R409, R424, R428, R462). -/
structure Core where
  /-- C1 to C31; C0 is not listed. -/
  c : List (Nat × Word)
  /-- Program counter (R409). -/
  pc : Nat
  /-- The task that runs (R409). -/
  run : Option Run
  /-- The task that trapped and whose handler runs, with its trap, and whether BACK may return to it (R436). -/
  trapped : Option (Run × Trap × Bool)
  trapCode : Nat
  trapPc : Nat
  trapAddr : Nat
  handler : Nat
  keep : Word
  priorPl : Nat
  /-- Memory accesses under way (R427). -/
  mem : List MemOp
  /-- A bus error that waits for the other accesses before its trap is taken (R427). -/
  trapDue : Option Trap
  /-- Lines of the data cache (R409). -/
  dcache : List DLine
  /-- Lines of the instruction cache (R409). -/
  icache : List (Nat × Nat)
  /-- READY tasks of the core, in order (R461). -/
  ready : List Nat
  /-- The bivouac slot (R462). -/
  slot : Option Slot
  /-- A wake from SLEEP is in progress; ENABLE has been 0 since the core stopped. -/
  waking : Bool
  enLow : Bool
  /-- Its trace state (R621). -/
  tr : TraceCore
  deriving DecidableEq, Repr

/-- A closed trace frame (R622): core, its 64 bytes and the packets it holds. -/
structure Frame where
  core : Nat
  bytes : List Byte
  packets : Nat
  deriving DecidableEq, Repr

/-- The trace unit (R626 to R630): closed frames that wait, fallback buffer oldest first with the number of its oldest frame, the bus error that holds the route, controller-pair power-downs begun, the route last used, a drain in progress, whether the ring has been filled, DOMAINS of the token slots, the token being read, and the number of the draw of TR_CHALLENGE. -/
structure TraceUnit where
  closed : List Frame
  fb : List Frame
  head : Nat
  busErr : Bool
  pairsDown : List Nat
  onRing : Bool
  draining : Bool
  filled : Bool
  domains : List (Nat × Nat)
  loading : Option Nat
  chal : Nat
  deriving DecidableEq, Repr


/-- What a channel of an acquisition front end samples (R579, R606): camp, logical cluster, BP (of a bit channel), whether the source is the state store or cluster memory rather than the bit store or a word register, and its address. -/
structure AcqSrc where
  camp : Nat
  lcl : Nat
  bp : Nat
  mem : Bool
  addr : Nat
  deriving DecidableEq, Repr

/-- A camp's blocks of channels on an E-die (R581): camp, die group, E-die, base and size of its bit channels and of its word channels. -/
structure AcqBlock where
  camp : Nat
  g : Nat
  die : Nat
  bitBase : Nat
  bits : Nat
  wordBase : Nat
  words : Nat
  deriving DecidableEq, Repr

/-- A capture record on its way to the ring (R583, R594): die group whose share holds it, data page and slot of the buffer, and its slots. -/
structure AcqRec where
  g : Nat
  page : Nat
  slot : Nat
  slots : List Nat
  deriving DecidableEq, Repr

/-- A camp's share of a front end's output buffer (R583): bytes, exponent K, samples since K changed, samples dropped and not yet recorded. -/
structure AcqShare where
  size : Nat
  k : Nat
  since : Nat
  dropped : Nat
  deriving DecidableEq, Repr

/-- An event condition that waits for the next evaluated sample (R591). -/
inductive AcqEvent where
  | trigIn
  | cmp (i : Nat)
  | dec (j : Nat)
  | force
  deriving DecidableEq, Repr

/-- A capture unit beyond its registers (R582, R583, R592 to R599). -/
structure AcqUnit where
  shares : List (Nat × AcqShare)
  /-- Storage modes of bit groups and of word channels (MODE, INTERVAL, SIGNED), by die group and index. -/
  groupModes : List ((Nat × Nat) × Nat)
  wordModes : List ((Nat × Nat) × (Nat × Nat × Bool))
  /-- Values last stored of the CHANGE groups in the page being filled, and the intervals of the MINMAX channels: samples, minimum, maximum. -/
  stored : List ((Nat × Nat) × Nat)
  spans : List ((Nat × Nat) × (Nat × Nat × Nat))
  /-- Events latched until the next sample (R591). -/
  events : List AcqEvent
  /-- Data pages in use, oldest first, each with the first cycle in it; the page being filled and its next slot. -/
  pages : List (Nat × Nat)
  page : Nat
  /-- Next slot of the page being filled (R599). -/
  slot : Nat
  /-- Records that wait to be written (R599). -/
  recs : List AcqRec
  /-- The buffer has no data page left. -/
  full : Bool
  /-- Cycle and HITMASK of the trigger of the buffer. -/
  trig : Option (Nat × Nat)
  /-- Largest decimation of the buffer (R583). -/
  kMax : Nat
  /-- Samples of the buffer that were dropped (R583). -/
  lost : Nat
  /-- Samples since the trigger, or since HOLDOFF began. -/
  since : Nat
  deriving DecidableEq, Repr

/-- A serial-field decoder beyond its registers (R586): the sources of the last sample, whether there was one, whether a field is under way, cycles since its start, bits to skip, bits taken oldest first, and the first byte after a START. -/
structure AcqDec where
  prev : List Bool
  busy : Bool
  run : Nat
  skip : Nat
  got : List Bool
  first : Bool
  deriving DecidableEq, Repr

/-- An input of the conditioner (R605): raw level, level last passed, an 8 ns window is open. -/
structure AcqIn where
  raw : Bool
  passed : Bool
  window : Bool
  deriving DecidableEq, Repr

/-- The acquisition hub and the front ends of the E-dies. -/
structure Acq where
  /-- Sources of the bit channels (R579), by 2,048 × die + channel. -/
  bits : List (Nat × AcqSrc)
  /-- Sources of the word channels (R579), by 32 × die + channel. -/
  words : List (Nat × AcqSrc)
  /-- Blocks of channels (R581). -/
  blocks : List AcqBlock
  /-- Comparators that matched the previous sample (R585). -/
  matched : List Nat
  /-- Decoders (R586). -/
  decs : List (Nat × AcqDec)
  /-- Capture units (R589). -/
  units : List (Nat × AcqUnit)
  /-- Probe nets: the last valid delivery of the cycle in progress, and the value presented (R601). -/
  nets : List (Nat × (Option Bool × Bool))
  /-- Levels that driven lantern pins present (R602). -/
  pins : List (Nat × Bool)
  /-- Level of the trigger output (R604). -/
  trigOut : Bool
  /-- Conditioned inputs (R605). -/
  ins : List (Nat × AcqIn)
  deriving DecidableEq, Repr

/-- A SYNC that waits for its HIGH (R560): OFFER, ROOT, HOPS, bits [31:0] of the nanoseconds, fraction, and T_rx. -/
structure SyncWait where
  offer : Bool
  root : Nat
  hops : Nat
  ns : Nat
  frac : Nat
  trx : Nat
  deriving DecidableEq, Repr

/-- The time unit beyond its registers (R558 to R564, R572, R573): the servo's integrator, consecutive SYNCs within LOCK_NS, SYNCs that wait for their HIGH, the offers that stand by port (ROOT, HOPS, address), the ports whose offer HOLDOVER has refused, the staged time, pulse outputs that are high, and the stamps of the capture inputs, oldest first. -/
structure TimeUnit where
  acc : Int
  good : Nat
  sync : List (Nat × SyncWait)
  offers : List (Nat × (Nat × Nat × Nat))
  refused : List Nat
  staged : Nat
  pulses : List Nat
  stamps : List (Nat × List Nat)
  deriving DecidableEq, Repr


/-- A flit that waits to be sent, or has been sent and is not acknowledged (R515, R516). -/
structure OutFlit where
  type : Nat
  ctrl : Nat
  body : FlitBody
  deriving DecidableEq, Repr

/-- An unacknowledged flit (R516): its sequence number within its epoch, and the key of that epoch (R397). -/
structure TxFlit where
  seq : Nat
  key : List Byte
  flit : OutFlit
  deriving DecidableEq, Repr

/-- A Halnal port beyond its registers (R506 to R520). -/
structure HnPort where
  /-- Next flit's sequence number within the epoch (R397); unacknowledged flits; flits that wait. -/
  seq : Nat
  tx : List TxFlit
  wait : List OutFlit
  /-- Next sequence number expected; failures in succession; the flit whose tag failed last and how often in succession (R398); times of tag failures. -/
  expect : Nat
  fails : Nat
  tagSeq : Nat
  tagRun : Nat
  tagTimes : List Nat
  /-- The fabric key of this training (R395), epochs in full, and the keys of both directions (R396). -/
  fabric : List Byte
  epochTx : Nat
  epochRx : Nat
  keyTx : List Byte
  keyRx : List Byte
  /-- Nonces of this training, own and peer's. -/
  nonce : List Byte
  peerNonce : List Byte
  /-- A good capability word has been received; lanes that passed detection; the rate left out of RATES (R508); the lane excluded (R520). -/
  capOk : Bool
  lanes : Nat
  leave : Option Nat
  /-- RATES of this training, and EQ_HOST as it took effect. -/
  rates : Nat
  eqHost : Bool
  /-- The peer's serial held before a retraining (R544), and a retraining of a link that was up (R517). -/
  peer : Option Nat
  again : Bool
  /-- Own transmit taps by lane: pre2, pre1, post1; lanes whose host equalization is DONE; the host request in flight. -/
  taps : List (Nat × (Nat × Nat × Nat))
  eqDone : List Nat
  eqLane : Nat
  /-- One-way samples in ps (R512). -/
  echoes : List Nat
  /-- Sparing handshakes: receive lane being replaced, transmit lane mirrored (R520). -/
  sparing : Option Nat
  mirror : Option Nat
  /-- Symbol errors by receive lane, and those of the window with its beginning (R520). -/
  errs : List (Nat × Nat)
  win : List (Nat × (Nat × Nat))
  /-- Leaving IDLE has begun (R519). -/
  exiting : Bool
  deriving DecidableEq, Repr

/-- The fabric unit (R534 to R539): route entries by bank, table and destination (OUT, MASK); topology records by address; own VERSION; ports chosen for a packet under way (arrival table, source, destination, kind); fragments received. -/
structure FabUnit where
  routes : List ((Nat × Nat × Nat) × (Nat × Nat))
  topo : List (Nat × Topo)
  version : Nat
  flows : List ((Nat × Nat × Nat × Nat) × List Nat)
  parts : List ((Nat × Nat × Nat) × List Byte)
  deriving DecidableEq, Repr


/-- A packet in a buffer of the NoC, with the NoC cycle of its injection (R483, R484). -/
structure NocHeld where
  pkt : NocPkt
  born : Nat
  deriving DecidableEq, Repr

/-- A trace record of a probe (R501, R503): source and destination node, class, effective class, source ID, key ID, address. -/
structure ProbeRec where
  src : Nat
  dst : Nat
  cls : Nat
  eff : Nat
  sid : Nat
  key : Nat
  addr : Nat
  deriving DecidableEq, Repr

/-- A pending fence doorbell (R491): its token, the host writes received before it that have not landed, and the doorbells held behind it with what the conditioner merged into them. -/
structure Fence where
  token : Nat
  before : List DeepReq
  bells : List (Nat × BitVec 32 × Bool)
  deriving DecidableEq, Repr

/-- The NoC (R477 to R503). Routers are numbered 0 to 7, and 8 + d for the bridge of E-die d. -/
structure Noc where
  /-- Buffers by router, network, input and class, oldest packet first (R483). -/
  bufs : List ((Nat × Nat × Nat × Nat) × List NocHeld)
  /-- Critical packets held at their injection ports (R486), oldest first. -/
  held : List NocPkt
  /-- Cycle of the last critical injection of an injection port: node and port (R486). -/
  lastCrit : List ((Nat × Nat) × Nat)
  /-- Critical flits of the window, by router, output and network (R487). -/
  load : List ((Nat × Nat × Nat) × Nat)
  /-- Cycle at which the port of a node was closed (R492). -/
  closedAt : List (Nat × Nat)
  /-- Probe rings, oldest first (R501). -/
  rings : List (Nat × List ProbeRec)
  /-- Pending fences, oldest first, at most four (R491). -/
  fences : List Fence
  deriving DecidableEq, Repr

/-- The power controller beyond its registers (R636 to R656). -/
structure Power where
  /-- Domains whose ON is accepted and has not begun, in order; those whose transition is under way (R641). -/
  queue : List Nat
  rising : List Nat
  /-- Domains with an ON that waits for their drain (R656). -/
  again : List Nat
  /-- Consecutive intervals at or below L − HYST_W (R646). -/
  quiet : Nat
  /-- Temperatures of E-dies 0 to 7 and of the H-die, °C (R702). -/
  temps : List Nat
  /-- The module has switched off every domain but always-on (R638, R647), with the LAST_RESET of the restart. -/
  shut : Option Nat
  /-- FW_PROGRAM in progress: host address and length (R654). -/
  prog : Option (Nat × Nat)
  deriving DecidableEq, Repr

/-- The boot flash (R648): firmware slots 0 and 1, and the configuration record. The wear record is the health controller's. -/
structure Flash where
  slot0 : List Byte
  slot1 : List Byte
  conf : List Byte
  deriving DecidableEq, Repr

/-- The test port (R699 to R701): the instruction in force, whether the last was refused, the boundary register, its update stage, and what the next Capture-DR of REG_ACCESS loads. -/
structure TestPort where
  ir : Nat
  refused : Bool
  bsr : List Bool
  driven : List Bool
  result : Nat × Bool
  deriving DecidableEq, Repr

/-- The state of the block. -/
structure State where
  /-- MODEL'S OWN: commands that wait, first in, first out. -/
  pending : List Instr
  /-- The part (R1). -/
  part : Part
  /-- Register fields written since reset (R13); every other field reads its reset value. -/
  regs : List (RegKey × Nat)
  /-- Holding registers of 32-bit reads, by register (R20). -/
  hold : List ((RegName × Nat) × Nat)
  /-- MODEL'S OWN: for a log that chooses among the events of one step or cycle (R100, R161, R196, R270, R291), the moment of the event it records: camp, design cycle, place in the cycle. -/
  logAt : List ((RegName × Nat) × List Nat)
  /-- Camps by number (R25). -/
  camps : List (Nat × Camp)
  /-- Clusters (R22) by 72 × die + slot. -/
  clusters : List (Nat × Cluster)
  /-- The crossing table of the H-die (R182). -/
  xing : List (Nat × Inst80)
  /-- Asynchronous FIFOs (R204). -/
  fifos : List (FifoId × Fifo)
  /-- Host interface (R688). -/
  host : HostIf
  /-- Reliability unit (R666). -/
  health : Health
  /-- Deep memory (R333). -/
  deep : Deep
  /-- Key store (R376). -/
  keys : KeyStore
  /-- The loader (R313). -/
  load : Load
  /-- Channel cores (R409). -/
  cores : List (Nat × Core)
  /-- Task table (R461). -/
  tasks : List (Nat × Task)
  /-- Flows (R463). -/
  flows : List (Nat × Flow)
  /-- The reorder stage (R464). -/
  stage : List Staged
  /-- READY tasks without an enabled core, in order (R461). -/
  unlisted : List Nat
  /-- Channels (R438). -/
  chans : List (Nat × Chan)
  /-- Trace unit (R626). -/
  trace : TraceUnit
  /-- Acquisition (R579). -/
  acq : Acq
  /-- Time unit (R555). -/
  time : TimeUnit
  /-- Halnal ports (R506). -/
  links : List (Nat × HnPort)
  /-- Fabric unit (R534). -/
  fab : FabUnit
  /-- NoC (R477). -/
  noc : Noc
  /-- Power controller (R637). -/
  power : Power
  /-- Boot flash (R648). -/
  flash : Flash
  /-- Test port (R699). -/
  test : TestPort
  /-- Fabric time: 64 bits of nanoseconds and 32 of fraction (R555). -/
  now : Nat
  /-- MODEL'S OWN: ticks of 2 ns since reset. -/
  ticks : Nat
  /-- MODEL'S OWN: everything that has left the block, newest first. -/
  out : List Out
  /-- MODEL'S OWN: identities given to the STALLs raised here (R213 says a STALL carries one). -/
  nextId : Nat
  /-- MODEL'S OWN: how many free values have been drawn. -/
  draws : Nat
  deriving DecidableEq, Repr

/-- Nothing faults in this model: the spec gives every command an effect. DEDUCED (log 16), safe. -/
inductive Fault where
  /-- No command raises it; it is kept so that the type has a member. Safe. -/
  | none
  deriving DecidableEq, Repr

/-- Why a command is not run. -/
inductive Refusal where
  /-- The dispatch's own arm for a command that has no meaning yet. Safe. -/
  | notModelled (mnemonic : String)
  deriving DecidableEq, Repr

/-- A BP after reset: every store clear. -/
def Bp.reset : Bp := ⟨[], 0, 0, 0, 0, 0, .idle, none, none⟩

/-- A cluster after reset: memories clear, spares 64 and 65 (R37). -/
def Cluster.reset : Cluster :=
  { bps := [], spare0 := 64, spare1 := 65, wimem := [], micro := [], w := [], mul := [], mem := [], bankPtr := [],
    reqs := [], busy := [], router := [], recv := 0, fresh := 0, lanes := [], slots := [], done := [], wrote := [], ticked := none, exch := [], snapLine := 8192, snapBanks := [],
    snapMem := [], saveBuf := [], wuLatch := [], wuLeft := 0, snapExch := [] }

/-- A die group before its camp has started. -/
def Group.reset : Group := ⟨.step 0, false, 1, 1, [], [], false, 0⟩

/-- No snapshot in progress. -/
def Snap.reset : Snap := ⟨false, 0, none, 0, 0, 1, 1, [], 0, 0, false, [], [], []⟩

/-- A camp with no image. -/
def Camp.reset : Camp :=
  { cycle := 0, began := 0, pend := none, haltAt := none, stepLeft := none, stalls := [], groups := [], summaries := [], segs := [],
    place := [], tag := 0, modules := [], peers := [], seen := [], hops := [], shares := [], xbase := 0, xsize := 0, deepBase := 0, deepPages := 0,
    deepTab := [], portTab := [], design := [], digest := 0, iso := 0, lclusters := 0, issues := [], reads := [], flight := [],
    items := [], lost := [], toPort := [], early := [], accs := [], snap := Snap.reset, dataLost := false, logPos := 0, logStopped := false, readPos := 0, logWait := [], logQueue := [], clocks := [], clockNew := none, turns := none,
    dtime := 0, dtInc := 0, dtNew := none, dtNext := none, dtAcks := [], ramp := none, restoring := false, drag := (0, 1) }

/-- Deep memory after power-on: the spec gives its contents no value, so the whole data area is a free value. -/
def Deep.reset : Deep :=
  { bytes := [], sealed := [⟨0, 0x3700000000, 0, [], 0⟩], ciphers := [], majors := [], minors := [], nodeCtr := [], cache := [], frozen := [], poison := [],
    rolled := [], overRolled := [], badLines := [], reenc := [], reencStalls := [], inits := [], held := [], train := [], applied := [], modeRegs := [],
    refreshing := [], dueAt := [], rows := [], throttled := [], openRows := [], rfm := [], pulled := [], trainOp := [], initing := [], repairing := [], quiescing := [], soft := [] }

/-- The idle loader. -/
def Load.reset : Load :=
  { active := false, entry := false, origin := 0, src := 0, places := [], lmod := none, camp := 0, began := false, latch := [],
    queue := [], stream := [], next := 0, segCount := 0, keyId := 0, tag := 0, key := [], nonce := [], label := [], hdr := none, buf := [],
    taken := 0, hashed := [], lastType := 0, ended := false, seen := 0, held := [], dies := [], assign := [], cfgs := [], tables := [],
    shares := [], xings := [], acq := [], recs := [], idle := [], got := [], reports := [], passed := false, failing := none }

/-- No keys. -/
def KeyStore.reset : KeyStore := ⟨[], none, 0, none, []⟩

/-- A core's part of the trace unit after reset. -/
def TraceCore.reset : TraceCore := ⟨[], false, 0, 0, 0, 0, 0, 0, false, []⟩

/-- A channel core after reset (R428, R429). -/
def Core.reset : Core :=
  { c := [], pc := 0, run := none, trapped := none, trapCode := 0, trapPc := 0, trapAddr := 0, handler := 0, keep := 0, priorPl := 0,
    mem := [], trapDue := none, dcache := [], icache := [], ready := [], slot := none, waking := false, enLow := false, tr := TraceCore.reset }

/-- A FREE task entry. -/
def Task.reset : Task := ⟨0, 0, 0, 0, 0, 0, 0, false, 0, 0, 0⟩

/-- A flow with no ticket taken. -/
def Flow.reset : Flow := ⟨0, []⟩

/-- A channel with nothing held. -/
def Chan.reset : Chan := ⟨[], [], [], [], false, false, false, false, false⟩

/-- The trace unit after power-on: off the ring, fallback buffer empty, the challenge drawn (R629). -/
def TraceUnit.reset : TraceUnit := ⟨[], [], 0, false, [], false, false, false, [], none, 0⟩

/-- A capture unit that holds nothing. -/
def AcqUnit.reset : AcqUnit := ⟨[], [], [], [], [], [], [], 0, 0, [], false, none, 0, 0, 0⟩

/-- A decoder before its first sample. -/
def AcqDec.reset : AcqDec := ⟨[], false, 0, 0, [], false⟩

/-- An input that is low and has passed no edge. -/
def AcqIn.reset : AcqIn := ⟨false, false, false⟩

/-- Acquisition after reset. -/
def Acq.reset : Acq := ⟨[], [], [], [], [], [], [], [], false, []⟩

/-- The time unit after reset. -/
def TimeUnit.reset : TimeUnit := ⟨0, 0, [], [], [], 0, [], []⟩

/-- A Halnal port that has not trained. -/
def HnPort.reset : HnPort :=
  { seq := 0, tx := [], wait := [], expect := 0, fails := 0, tagSeq := 0, tagRun := 0, tagTimes := [], fabric := [], epochTx := 0, epochRx := 0, keyTx := [], keyRx := [],
    nonce := [], peerNonce := [], capOk := false, lanes := 0, leave := none, rates := 0, eqHost := false, peer := none, again := false, taps := [], eqDone := [],
    eqLane := 0, echoes := [], sparing := none, mirror := none, errs := [], win := [], exiting := false }

/-- The fabric unit after reset: every route entry OUT = 7 (R553). -/
def FabUnit.reset : FabUnit := ⟨[], [], 0, [], []⟩

/-- An empty NoC. -/
def Noc.reset : Noc := ⟨[], [], [], [], [], [], []⟩

/-- The power controller after power-on: no transition waits. -/
def Power.reset : Power := ⟨[], [], [], 0, [], none, none⟩

/-- A flash whose contents the spec does not give: empty (DESIGN CHOICE); no slot verifies. DESIGN CHOICE (log 6), unsafe. -/
def Flash.reset : Flash := ⟨[], [], []⟩

/-- The test port after Test-Logic-Reset: IDCODE (R699). -/
def TestPort.reset : TestPort := ⟨2, false, [], [], (0, false)⟩

/-- An empty FIFO. -/
def Fifo.empty0 : Fifo := ⟨[], none, 0, 0, 0, 0, false, false, [], 0, []⟩

/-- The host interface after reset: MSI-X disabled, every vector masked, table and PBA zero. -/
def HostIf.reset : HostIf := ⟨false, false, [], [], []⟩

/-- The health controller with an empty wear record. -/
def Health.reset : Health := ⟨[], [], [], [], [], [], none, []⟩

/-- The part the model is reset as: a QSR-M8-20 with zero factory values and straps (DESIGN CHOICE). DESIGN CHOICE (log 3), unsafe. -/
def Part.reset : Part := ⟨0x03, 0, 0, 0, 0, 0, [], [], [], 0, 0⟩

/-- The machine right after reset. DESIGN CHOICE (log 5), unsafe. -/
def State.reset : State :=
  { pending := [], part := Part.reset, regs := [], hold := [], logAt := [], camps := [], clusters := [], xing := [], fifos := [],
    host := HostIf.reset, health := Health.reset, deep := Deep.reset, keys := KeyStore.reset, load := Load.reset, cores := [], tasks := [], flows := [], stage := [], unlisted := [], chans := [], trace := TraceUnit.reset, acq := Acq.reset, time := TimeUnit.reset, links := [], fab := FabUnit.reset, noc := Noc.reset, power := Power.reset, flash := Flash.reset, test := TestPort.reset, now := 0, ticks := 0, out := [], nextId := 0, draws := 1 }

end Sys2Proof.Machine
end

