-- ==== Sys2Proof/Machine/Regs.lean ====
section
/-! DEFINITION. Reading and writing register fields, counters, logs and interrupts. -/

namespace Sys2Proof.Machine

/-- The table's row of a register field; a field the register does not have is zero bits wide. -/
def fieldSpec (r : RegName) (f : FName) : FieldSpec :=
  match (fieldsOf r).find? (fun x => x.name == f) with
  | some x => x
  | none => ⟨f, 0, 0, .ro, 0⟩

/-- The grade codes of R1: a QSR-M4-16 has E-dies 0 to 3 only (R4). -/
def Part.isM4 (p : Part) : Bool := p.grade == 0x01

/-- The E-dies fitted (R1). -/
def Part.dies (p : Part) : Nat := if p.isM4 then 4 else 8

/-- The reset value of a register field: the table's, or the value a rule gives for the index (R36, R364, R430, R662, R705). DESIGN CHOICE (log 4), unsafe. -/
def resetOf (p : Part) (r : RegName) (i : Nat) (f : FName) : Nat :=
  if r = .HI_CH_VEC then 80 + i % 176
  else if r = .HS_PITCH_MAP ∧ f = .UNUSABLE then bit (p.isM4 && decide (32 ≤ i))
  else if r = .DM_MAP then
    [0x00248040, 0x00490080, 0x00920100, 0x01000200, 0x02000400, 0x04000800, 0x08001000, 0x10002000, 0x20004000].getD i 0
  else if r = .CC_DOM_CFG ∧ f = .VALID ∧ i = 0 then 1
  else if r = .PW_DOM ∧ f = .STATE then
    (if i = 79 then 2 else if p.isM4 ∧ ((32 ≤ i ∧ i < 64) ∨ (68 ≤ i ∧ i < 72)) then 4 else 0)
  else if r = .LD_SERIAL then p.serial % 2 ^ 40
  else if r = .ID_DEVICE ∧ f = .GRADE then p.grade % 256
  else if r = .ID_REV then p.stepping % 256
  else if r = .ID_PCI ∧ f = .VENDOR then p.vendor % 65536
  else if r = .ID_JTAG then p.idcode % 2 ^ 32
  else if r = .ID_ROLLBACK then p.minRev % 2 ^ 32
  else if r = .PW_REFCLK ∧ f = .REFSEL then p.refsel % 2
  else if r = .PW_REFCLK ∧ f = .ADDR_STRAP then p.addrStrap % 4
  else (fieldSpec r f).reset

/-- The value of a register field. -/
def State.rd (s : State) (r : RegName) (i : Nat) (f : FName) : Nat :=
  tget (resetOf s.part r i f) s.regs ⟨r, i, f⟩

/-- The state with a register field set; bits above the field's width are dropped. -/
def State.wr (s : State) (r : RegName) (i : Nat) (f : FName) (v : Nat) : State :=
  { s with regs := tset s.regs ⟨r, i, f⟩ (v % 2 ^ (fieldSpec r f).width) }

/-- Several fields of one register set. -/
def State.wrs (s : State) (r : RegName) (i : Nat) : List (FName × Nat) → State
  | [] => s
  | (f, v) :: l => (s.wr r i f v).wrs r i l

/-- A saturating counter field counted up. -/
def State.bump (s : State) (r : RegName) (i : Nat) (f : FName) (n : Nat) : State :=
  s.wr r i f (satAdd (fieldSpec r f).width (s.rd r i f) n)

/-- Every field of a register that satisfies `f` takes its bits of a 40-bit value (R15). -/
def State.putFields (s : State) (r : RegName) (i v : Nat) (f : FieldSpec → Bool) : State :=
  ((fieldsOf r).filter f).foldl (fun t x => t.wr r i x.name (bitsOf v x.lo x.width)) s

/-- Something leaves the block. DESIGN CHOICE (log 36), safe. -/
def State.emit (s : State) (o : Out) : State := { s with out := o :: s.out }

/-- The message of an MSI-X vector: a write of its table entry's data to its address (R688). -/
def State.sendMsix (s : State) (v : Nat) : State :=
  let w := fun k => tget 0 s.host.table (4 * v + k)
  s.emit (.msix v (w 0 + 2 ^ 32 * w 1) (w 2))

/-- A message for an MSI-X vector falls due (R696, R698): nothing while MSI-X is not enabled; held in the PBA while the vector, or the function, is masked; sent otherwise. -/
def State.msix (s : State) (v : Nat) : State :=
  if s.host.msixEnable then
    if s.host.maskAll || tget true s.host.masked v then
      { s with host := { s.host with pba := if s.host.pba.contains v then s.host.pba else v :: s.host.pba } }
    else s.sendMsix v
  else s

/-- A module cause bit is set (R696): a rise is signalled while the vector's enable is 1. -/
def State.irq (s : State) (v : Nat) : State :=
  let c := s.rd .HI_IRQ_CAUSE 0 .CAUSE
  if c.testBit v then s
  else
    let s1 := s.wr .HI_IRQ_CAUSE 0 .CAUSE (c + 2 ^ v)
    if (s.rd .HI_IRQ_EN 0 .EN).testBit v then s1.msix v else s1

/-- The bits of HI_CAMP_IRQ (R697). -/
inductive CampBit where
  | state | snap | acq | log | fault
  deriving DecidableEq, Repr

/-- The bit's place in HI_CAMP_IRQ.CAUSE, in the order of R705. -/
def CampBit.place : CampBit → Nat
  | .state => 0
  | .snap => 1
  | .acq => 2
  | .log => 3
  | .fault => 4

/-- A camp cause bit is set (R697): a rise is signalled on vector 16 + c while its enable is 1. -/
def State.campIrq (s : State) (c : Nat) (b : CampBit) : State :=
  let v := s.rd .HI_CAMP_IRQ c .CAUSE
  if v.testBit b.place then s
  else
    let s1 := s.wr .HI_CAMP_IRQ c .CAUSE (v + 2 ^ b.place)
    if (s.rd .HI_CAMP_IRQ c .EN).testBit b.place then s1.msix (16 + c) else s1

/-- The bit of ID_ERR_SUMMARY.LOGS that a log feeds (R706); 16 for none. -/
def logKind (r : RegName) : Nat :=
  match [RegName.CL_FAULT_LOG, .CM_ECC_LOG, .DN_CONFLICT_LOG, .RUN_XING_LOG, .GL_FIFO_LOG, .RUN_CONTRACT_LOG, .DM_RH_LOG,
    .MP_ALARM_LOG, .CC_TRAP_LOG, .CH_ERR_LOG, .NOC_PD_LOG, .FB_LOST_LOG, .ACQ_MISS_LOG, .SC_UE_LOG, .HS_SUP_LOG,
    .ID_ERR_LOG].findIdx? (fun x => x == r) with
  | some k => k
  | none => if r = .GL_OVERRUN_LOG then 4 else 16

/-- Bit `k` of ID_ERR_SUMMARY.LOGS: some log of kind `k` has VALID = 1 (R706). -/
def State.logsBit (s : State) (k : Nat) : Bool :=
  s.regs.any fun e => e.1.fld == .VALID && logKind e.1.reg == k && e.2 == 1

/-- The E-die whose bit of ID_ERR_SUMMARY.DIES a log feeds (R705): logs of bit 0, 1, 2 or 13. -/
def logDie (r : RegName) (i : Nat) : Option Nat :=
  if r = .CL_FAULT_LOG ∨ r = .CM_ECC_LOG then some (i / 72)
  else if r = .DN_CONFLICT_LOG ∨ r = .SC_UE_LOG then some i
  else none

/-- A bit of ID_ERR_SUMMARY.DIES (R705): E-die `d` holds a VALID log of bit 0, 1, 2 or 13. -/
def State.dieLogs (s : State) (d : Nat) : Bool := s.regs.any fun e => e.1.fld == .VALID && e.2 == 1 && logDie e.1.reg e.1.i == some d

/-- An event of a log would raise no bit of ID_ERR_SUMMARY (R696, R706). -/
def State.summed (s : State) (r : RegName) (i : Nat) : Bool := s.logsBit (logKind r) && (logDie r i).all s.dieLogs

/-- A log with VALID and MORE records an event while VALID is 0, and sets MORE otherwise (R98 and the logs like it); `more` are the registers written with it. A rise of its bit of ID_ERR_SUMMARY sets cause 8 (R696). -/
def State.logEvent (s : State) (r : RegName) (i : Nat) (fs : List (FName × Nat)) (more : State → State) : State :=
  if s.rd r i .VALID = 0 then
    let s1 := more ((s.wrs r i fs).wr r i .VALID 1)
    if s.summed r i then s1 else s1.irq 8
  else s.wr r i .MORE 1

/-- The moments at which the logs were written, changed. -/
def State.modLogAt (s : State) (f : List ((RegName × Nat) × List Nat) → List ((RegName × Nat) × List Nat)) : State := { s with logAt := f s.logAt }

/-- A log's record is of the moment `now`. -/
def State.logsNow (s : State) (r : RegName) (i : Nat) (now : List Nat) : Bool :=
  s.rd r i .VALID == 1 && !now.isEmpty && tget [] s.logAt (r, i) == now

/-- A log that chooses among the events of one moment, a step or a cycle: where the record is of the moment `now`, a further event of the `same` kind changes nothing, one that stands `before` it takes its place, and both but the first set MORE; otherwise as any log. -/
def State.logIn (s : State) (r : RegName) (i : Nat) (now : List Nat) (fs : List (FName × Nat)) (same before : Bool) (more : State → State) : State :=
  if s.logsNow r i now then
    if same then s
    else if before then (more (s.wrs r i fs)).wr r i .MORE 1
    else s.wr r i .MORE 1
  else
    let t := s.logEvent r i fs more
    if s.rd r i .VALID = 0 then t.modLogAt fun l => tset l (r, i) now else t

/-- A host access error is logged and counted (R705, R706): kind, BAR, offset and bus cause; of several at once the log takes the lowest kind, then the lowest offset (R710). -/
def State.idError (s : State) (kind bar off cause : Nat) : State :=
  let k := s.rd .ID_ERR_LOG 0 .KIND
  (s.bump .ID_ERR_COUNT 0 .COUNT 1).logIn .ID_ERR_LOG 0 [s.ticks] [(.OFFSET, off), (.KIND, kind), (.BAR, bar), (.CAUSE, cause)] false
    (decide (kind < k) || (kind == k && decide (off < s.rd .ID_ERR_OFFSET 0 .OFFSET))) fun t => t.wr .ID_ERR_OFFSET 0 .OFFSET off

/-- The state of a power domain (R661). -/
def State.domState (s : State) (d : Nat) : Nat := s.rd .PW_DOM d .STATE

/-- The index that an offset beyond a group's base names, outermost dimension first; none where it meets no slot. -/
def dimIndex : List Dim → Nat → Option Nat
  | [], o => if o = 0 then some 0 else none
  | d :: l, o =>
    let j := o / d.stride
    if d.first ≤ j ∧ j < d.count then
      (dimIndex l (o % d.stride)).map fun x => j * (l.map Dim.count).prod + x
    else none

/-- The registers at a slot offset, with their indices; the DM_MAP slots of every channel are one set (R363). -/
def regAt (off : Nat) : Option (RegName × Nat) :=
  let o := if 0xc0000 ≤ off ∧ off < 0xd0000 ∧ 0x100 ≤ off % 0x2000 ∧ off % 0x2000 < 0x148 then 0xc0000 + off % 0x2000 else off
  allRegs.findSome? fun r =>
    let p := placeOf r
    if p.base ≤ o then (dimIndex p.dims (o - p.base)).map fun i => (r, i) else none

/-- The power domain that an offset's registers lie in (R639, R690, R703, R704); 79 for those that no domain but always-on carries. -/
def domainOf (off : Nat) : Nat :=
  if off < 0x20000 then 79
  else if off < 0xc0000 then 78
  else if off < 0xd0000 then 72 + (off - 0xc0000) / 0x4000
  else if 0xe0000 ≤ off ∧ off < 0xf0000 then 77
  else if off < 0x1000000 then 78
  else
    let d := (off - 0x1000000) / 0x400000
    let w := (off - 0x1000000) % 0x400000
    if w < 0x48000 then 8 * d + w / 0x1000 / 9
    else if 0x80000 ≤ w ∧ w < 0x81200 then 8 * d + (w - 0x80000) / 0x40 / 9
    else if 0x90000 ≤ w ∧ w < 0x91200 then 8 * d + (w - 0x90000) / 0x40 / 9
    else 64 + d

/-- How a BAR0 access of an offset fares (R4, R642, R652, R690): it reaches the register; it is muted, with no log entry, as the domain is ABSENT; or its domain, or domain 78, is off. -/
inductive Reach where
  | here
  | muted
  | off
  deriving DecidableEq, Repr

/-- The domain has its rail: ON, or being switched off (R492). -/
def State.railed (s : State) (d : Nat) : Bool := s.domState d == 2 || s.domState d == 3

/-- What an offset reaches. DEDUCED (log 37), unsafe. -/
def State.reach (s : State) (off : Nat) : Reach :=
  if off < 0x20000 then .here
  else
    let d := domainOf off
    if s.domState d = 4 then .muted else if s.railed 78 && s.railed d then .here else .off

/-- The distance of index `i` of a register group from its base: the inverse of `dimIndex`. -/
def dimOffset : List Dim → Nat → Nat
  | [], _ => 0
  | d :: l, i =>
    let n := (l.map Dim.count).prod
    i / n * d.stride + dimOffset l (i % n)

/-- The offset in BAR0 of a register (R13). -/
def offsetOf (r : RegName) (i : Nat) : Nat := (placeOf r).base + dimOffset (placeOf r).dims i

/-- A register's holding register is emptied, as any write of its slot does (R20). -/
def State.unhold (s : State) (r : RegName) (i : Nat) : State := { s with hold := tdel s.hold (r, i) }

/-- A host write of register `r` at an offset, with the effect `f` of its value (R4, R20, R642, R690): it reaches the register and empties its holding register; it is ignored; or its block is off and it is ignored and logged. -/
def State.asWriteAt (s : State) (off : Nat) (r : RegName) (i : Nat) (f : State → Host.Outcome State Fault Refusal) :
    Host.Outcome State Fault Refusal :=
  match s.reach off with
  | .here => f (s.unhold r i)
  | .muted => .next s
  | .off => .next (s.idError 2 0 off 0)

/-- A command that is a host write of register `r`: at the register's own offset. -/
def State.asWrite (s : State) (r : RegName) (i : Nat) (f : State → Host.Outcome State Fault Refusal) :
    Host.Outcome State Fault Refusal := s.asWriteAt (offsetOf r i) r i f

/-- A host access of the register reaches it. -/
def State.reaches (s : State) (r : RegName) (i : Nat) : Bool := s.reach (offsetOf r i) == .here

/-- The camp of a number. -/
def State.camp (s : State) (c : Nat) : Camp := tget Camp.reset s.camps c

/-- A camp changed. -/
def State.modCamp (s : State) (c : Nat) (f : Camp → Camp) : State := { s with camps := tmod Camp.reset s.camps c f }

/-- The cluster at 72 × die + slot. -/
def State.cluster (s : State) (k : Nat) : Cluster := tget Cluster.reset s.clusters k

/-- A cluster changed. -/
def State.modCluster (s : State) (k : Nat) (f : Cluster → Cluster) : State :=
  { s with clusters := tmod Cluster.reset s.clusters k f }

/-- A change applied for every element of a list, in order. -/
def State.forEach {α : Type} (s : State) (l : List α) (f : State → α → State) : State := l.foldl f s

end Sys2Proof.Machine
end

