-- ==== Sys2Proof/Machine/Crypto.lean ====
section
/-! DEFINITION. Key derivation (R298, R396), draws of the DRBG (R376), and the CRC of a capability word (R507). -/

namespace Sys2Proof.Machine

/-- The KDF of R298: counter mode of SP 800-108 with one iteration, its first 256 bits kept. PRESUMED (log 10), unsafe. -/
def kdf (key label ctx : List Byte) : List Byte :=
  (hmacSha384 key ([0, 0, 0, 1] ++ label ++ [0] ++ ctx ++ [0, 0, 1, 0])).take 32

/-- The bytes of an ASCII string. -/
def ascii (l : String) : List Byte := l.toList.map fun c => BitVec.ofNat 8 c.toNat

/-- A number drawn from the DRBG: `n` bytes. -/
def State.drawn (s : State) (n : Nat) : List Byte := (List.range n).map (Config.drbg s.draws)

/-- The next draw. DESIGN CHOICE (log 8), safe. -/
def State.draw (s : State) : State := { s with draws := s.draws + 1 }

/-- An open value of the present draw (the spec leaves it and the machine goes on). -/
def State.openAt (s : State) (i : Nat) : Nat := Config.openValue s.draws i

/-- One bit of a CRC-16 with polynomial 0x1021. -/
def crc16Bit (c : BitVec 16) (b : Bool) : BitVec 16 :=
  if c.getLsbD 15 != b then (c <<< 1) ^^^ 0x1021#16 else c <<< 1

/-- One byte of the CRC-32 of IEEE 802.3. -/
def crcByte (c : BitVec 32) (b : Byte) : BitVec 32 :=
  (List.range 8).foldl (fun x _ => if x.getLsbD 0 then (x >>> 1) ^^^ 0xEDB88320#32 else x >>> 1) (c ^^^ b.zeroExtend 32)

/-- The CRC-32 of IEEE 802.3 (R441, R513, R649). -/
def crc32 (bs : List Byte) : Nat := (~~~ (bs.foldl crcByte 0xFFFFFFFF#32)).toNat

/-- CRC-16 of R507 over `n` bits of a number, most significant bit first. -/
def crc16 (x n : Nat) : Nat := ((List.range n).foldl (fun c i => crc16Bit c (x.testBit (n - 1 - i))) 0xFFFF#16).toNat

end Sys2Proof.Machine
end

