-- ==== Sys2Proof/Machine/Place.lean ====
section
/-! DEFINITION. Where things are: pitches, die groups, physical clusters and BPs of a camp (R22, R30 to R33, R202). -/

namespace Sys2Proof.Machine

/-- The numbers below `n` whose bit is set in `x`, rising. -/
def bitList (x n : Nat) : List Nat := (List.range n).filter fun i => x.testBit i

/-- The module pitches of a camp (R51), rising. -/
def State.campPitches (s : State) (c : Nat) : List Nat :=
  bitList (s.rd .RUN_CAMP_PITCH_LO c .PITCHES + 2 ^ 40 * s.rd .RUN_CAMP_PITCH_HI c .PITCHES) 64

/-- A power domain is ON (R640). -/
def State.powered (s : State) (d : Nat) : Bool := s.rd .PW_DOM d .STATE == 2

/-- The state code of a camp (R46). -/
def State.campState (s : State) (c : Nat) : Nat := s.rd .RUN_CAMP_STATUS c .STATE

/-- The camp that a pitch belongs to: one that is not UNLOADED (R8). -/
def State.pitchCamp (s : State) (p : Nat) : Option Nat :=
  (List.range 64).find? fun c => s.campState c != 0 && (s.campPitches c).contains p

/-- The E-dies on which a camp has pitches, rising: its die groups (R202). -/
def State.campDies (s : State) (c : Nat) : List Nat :=
  (List.range 8).filter fun d => (s.campPitches c).any fun p => p / 8 == d

/-- The pitches of a camp on one E-die, rising. -/
def State.groupPitches (s : State) (c d : Nat) : List Nat := (s.campPitches c).filter fun p => p / 8 == d

/-- The column of position `j` when the spare column is `spare` (R32). -/
def physCol (spare j : Nat) : Nat := if j < spare then j else j + 1

/-- The cluster index, 72 × die + slot, of position `j` of a module pitch (R22, R32), with the spare column in force (R35). -/
def State.clusterAt (s : State) (p j : Nat) : Nat := 9 * p + physCol (s.rd .HS_PITCH_MAP p .ACTIVE_COL) j

/-- The cluster index of a camp's logical cluster (R30 to R32). -/
def State.physCluster (s : State) (c l : Nat) : Nat := s.clusterAt ((s.camp c).place.getD (l / 8) 0) (l % 8)

/-- The clusters of a pitch that are in use, by position (R32). -/
def State.pitchClusters (s : State) (p : Nat) : List Nat := (List.range 8).map (s.clusterAt p)

/-- The clusters of a camp's die group (R202), in pitch and position order. -/
def State.groupClusters (s : State) (c d : Nat) : List Nat := (s.groupPitches c d).flatMap s.pitchClusters

/-- The clusters of a camp. -/
def State.campClusters (s : State) (c : Nat) : List Nat := (s.campPitches c).flatMap s.pitchClusters

/-- The module pitch of a cluster index. -/
def pitchOf (k : Nat) : Nat := k / 9

/-- The position of a cluster in its pitch (R32); 8 for the spare column. -/
def State.posOf (s : State) (k : Nat) : Nat :=
  let spare := s.rd .HS_PITCH_MAP (pitchOf k) .ACTIVE_COL
  let col := k % 9
  if col = spare then 8 else if col < spare then col else col - 1

/-- The physical BP slot of a logical BP (R33). -/
def Cluster.physBp (cl : Cluster) (b : Nat) : Nat :=
  let lo := min cl.spare0 cl.spare1
  let hi := max cl.spare0 cl.spare1
  if b < lo then b else if b + 1 < hi then b + 1 else b + 2

/-- The BP at a logical index. -/
def Cluster.bp (cl : Cluster) (b : Nat) : Bp := tget Bp.reset cl.bps (cl.physBp b)

/-- A BP of the cluster changed, by logical index. -/
def Cluster.modBp (cl : Cluster) (b : Nat) (f : Bp → Bp) : Cluster :=
  { cl with bps := tmod Bp.reset cl.bps (cl.physBp b) f }

/-- Every BP of the cluster changed by a function that leaves a BP at reset as it is. -/
def Cluster.modAllBps (cl : Cluster) (f : Bp → Bp) : Cluster :=
  { cl with bps := cl.bps.map fun e => (e.1, f e.2) }

/-- Every logical BP of the cluster changed. -/
def Cluster.modEachBp (cl : Cluster) (f : Bp → Bp) : Cluster :=
  (List.range 64).foldl (fun x b => x.modBp b f) cl

/-- The drains in progress in a cluster. -/
def Cluster.activeDrains (cl : Cluster) : Nat :=
  ((List.range 64).filter fun i => match (cl.bp i).drain with | .active _ => true | _ => false).length

/-- Some drain waits for the path. -/
def Cluster.hasQueued (cl : Cluster) : Bool :=
  (List.range 64).any fun i => match (cl.bp i).drain with | .queued _ => true | _ => false

/-- The waiting drain that starts next: the lowest order number, which puts the earliest CKPT step first, the B12 fallback last, and the lowest BP first among equals (R89). -/
def Cluster.nextDrain (cl : Cluster) : Option (Nat × Nat) :=
  (List.range 64).foldl (fun best i =>
    match (cl.bp i).drain, best with
    | .queued o, none => some (o, i)
    | .queued o, some (o', i') => if o < o' then some (o, i) else some (o', i')
    | _, b => b) none

/-- A waiting drain begins once fewer than four run (R89). -/
def Cluster.startDrain (cl : Cluster) : Cluster :=
  if cl.activeDrains < 4 then
    match cl.nextDrain with
    | some (_, i) => cl.modBp i fun b => { b with drain := .active 0 }
    | none => cl
  else cl

/-- The drains that no CKPT has begun begin (R88, R89): at B12, and where the camp pauses or halts before it (R103, R258). -/
def Cluster.fallback (cl : Cluster) : Cluster :=
  let c2 := (List.range 64).foldl (fun x i => x.modBp i fun b => if b.drain = .armed then { b with drain := .queued (2 ^ 20 + i) } else b) cl
  (List.range 4).foldl (fun x _ => x.startDrain) c2

/-- A cluster's stores as they stood at the start of the step in progress. -/
def Cluster.before (cl : Cluster) : Cluster :=
  let c1 := cl.wrote.foldr (fun e x => x.modBp e.bp fun b => { b with bits := b.bits.put e.addr e.old }) cl
  match cl.ticked with
  | some t => { c1 with w := t.1, mul := t.2 }
  | none => c1

/-- An instruction of the step in progress is taken back: its bit-store writes and its outgoing slot (R94, R124, R189). -/
def Cluster.takeBack (cl : Cluster) (who : Nat) : Cluster :=
  let c1 := (cl.wrote.filter fun e => e.who == who).foldr (fun e x => x.modBp e.bp fun b => { b with bits := b.bits.put e.addr e.old }) cl
  { c1 with wrote := cl.wrote.filter (fun e => e.who != who), slots := cl.slots.filter fun t => t.2.1 != who }

/-- A bit-store write of the step in progress. -/
def Cluster.putBit (cl : Cluster) (who bp addr : Nat) (v : Bool) : Cluster :=
  { cl.modBp bp (fun b => { b with bits := b.bits.put addr v }) with wrote := cl.wrote ++ [⟨who, bp, addr, (cl.bp bp).bits.at addr⟩] }

/-- The step has ended in a cluster: what the BPs drove stands on the crossbar lines (R69), and nothing of the step is left. -/
def Cluster.endStep (cl : Cluster) : Cluster :=
  { cl.modAllBps (fun b => { b with line := b.drive, drive := none }) with slots := [], done := [], wrote := [], ticked := none }

/-- A die group of a camp. -/
def State.group (s : State) (c d : Nat) : Group := tget Group.reset (s.camp c).groups d

/-- A die group changed. -/
def State.modGroup (s : State) (c d : Nat) (f : Group → Group) : State :=
  s.modCamp c fun x => { x with groups := tmod Group.reset x.groups d f }

/-- A cluster as a wake clear or a release leaves it (R142, R153, R320): every memory and store zero, every bank's rotation pointer 4. The spare BPs in force and the requests that wait stay, but for those of the acquisition front end. -/
def Cluster.clear (cl : Cluster) : Cluster :=
  { Cluster.reset with spare0 := cl.spare0, spare1 := cl.spare1, reqs := cl.reqs.filter fun r => r.who != 1 }

/-- The nine cluster slots of a pitch (R6). -/
def pitchSlots (p : Nat) : List Nat := (List.range 9).map fun j => 9 * p + j

/-- The clear of a pitch begins (R153, R320). -/
def State.clearPitch (s : State) (p : Nat) : State :=
  s.forEach (pitchSlots p) fun t k => (t.modCluster k Cluster.clear).wr .CM_STATUS k .CLEARING 1

/-- The clear of a pitch ends. -/
def State.clearEnd (s : State) (p : Nat) : State := s.forEach (pitchSlots p) fun t k => t.wr .CM_STATUS k .CLEARING 0

/-- The place of a position within its design cycle (R212): schedule steps, then B0 to B15. -/
def posCode : Pos → Nat
  | .step n => n
  | .bnd b => 4096 + b

/-- The moment at which a camp's die group stands (R100, R196): camp, design cycle, place in the cycle. -/
def State.momentOf (s : State) (c d : Nat) : List Nat := [c, (s.camp c).cycle.toNat, posCode (s.group c d).pos]

/-- The address this module reports (R309). -/
def State.ownAddr (s : State) : Nat := s.rd .FB_ID 0 .ADDR

/-- Whether the camp spans other modules. -/
def State.spans (s : State) (c : Nat) : Bool := decide (1 < (s.camp c).modules.length)

end Sys2Proof.Machine
end

