-- ==== Sys2Proof/Machine/Links.lean ====
section
/-! DEFINITION. What leaves the module on its Halnal ports: flits and their replay buffers (R513 to R516), control slots (R515, R530, R541), fabric packets and their routes (R529 to R539). -/

namespace Sys2Proof.Machine

/-- A Halnal port. -/
def State.hn (s : State) (p : Nat) : HnPort := tget HnPort.reset s.links p

/-- A Halnal port changed. -/
def State.modHn (s : State) (p : Nat) (f : HnPort → HnPort) : State := { s with links := tmod HnPort.reset s.links p f }

/-- The fabric unit changed. -/
def State.modFab (s : State) (f : FabUnit → FabUnit) : State := { s with fab := f s.fab }

/-- The training state of a port (R506). -/
def State.hnState (s : State) (p : Nat) : Nat := s.rd .HN_STATUS p .STATE

/-- A port's neighbour is ACTIVE (R531). -/
def State.nbrActive (s : State) (p : Nat) : Bool := s.rd .FB_NBR p .STATE == 2

/-- The flit number that ACK names: the last received in order. -/
def HnPort.ackField (h : HnPort) : Nat := (h.expect + 4095) % 4096

/-- The payload of crossing items (R514). -/
def dataBytes (d : DataPay) : List Byte :=
  let n := d.bits.length
  let row := fun (f : Bool × Bool → Bool) => (d.bits.zipIdx.map fun e => bit (f e.1) * 2 ^ e.2).sum
  leBytes (d.tag % 2 ^ 16 + 2 ^ 16 * (d.step % 2 ^ 12) + 2 ^ 28 * (d.cyc % 16) + 2 ^ 32 * (d.base % 256) + 2 ^ 40 * (n % 512)
    + 2 ^ 49 * row (·.1) + 2 ^ (49 + n) * row (·.2)) 100

/-- The payload of a packet flit (R532); a layout that the spec does not give is free. -/
def packetBytes (k : Packet) : List Byte :=
  let head := 0xFFFF + 2 ^ 16 * (k.dst % 256) + 2 ^ 24 * (k.src % 256) + 2 ^ 32 * (k.kind % 16) + 2 ^ 36 * bit k.last + 2 ^ 40 * (k.ttl % 256) + 2 ^ 48 * (k.frag % 2 ^ 16)
  let data := match k.data with
    | .bytes b => b
    | d => Config.packetBytes d
  (leBytes head 8 ++ data ++ List.replicate 92 0).take 100

/-- The payload of a flit in plaintext (R513). -/
def bodyBytes (b : FlitBody) : List Byte :=
  match b with
  | .empty => List.replicate 100 0
  | .data d => dataBytes d
  | .packet k => packetBytes k

/-- A flit as it is sent (R397, R513): header and control slot are authenticated, the payload of a DATA flit is encrypted, under the key and number of its epoch; AUTH is zero without a key. DEDUCED (log 108), safe. -/
def flitWire (f : Flit) (key : List Byte) (num : Nat) : List Byte :=
  let head := leBytes (f.type % 16 + 2 ^ 4 * (f.seq % 2 ^ 12) + 2 ^ 16 * (f.ack % 2 ^ 12) + 2 ^ 28 * bit f.nak + 2 ^ 32 * (f.ctrl % 2 ^ 64)) 12
  let iv := List.replicate 4 0 ++ beBytes num 8
  let zeros := List.replicate 100 0
  let sent := if key.isEmpty then ((bodyBytes f.body), []) else if f.type = 1 then gcmSeal key iv head (bodyBytes f.body) else (zeros, (gcmSeal key iv head []).2)
  let b := head ++ sent.1 ++ (sent.2 ++ List.replicate 8 0).take 8
  b ++ leBytes (crc32 b) 4 ++ List.replicate 4 0

/-- An unacknowledged flit goes out, for the first time or again with its own number and key (R397, R516). -/
def State.sendTx (s : State) (p : Nat) (nak : Bool) (e : TxFlit) : State :=
  let f : Flit := ⟨e.flit.type, e.seq % 4096, (s.hn p).ackField, nak, e.flit.ctrl, e.flit.body⟩
  s.emit (.flit p f (flitWire f e.key e.seq))

/-- The link carries crossings and guyline messages (R395): its link key is established. -/
def State.keyed (s : State) (p : Nat) : Bool := s.rd .MP_LINK_STATUS p .ENC == 1

/-- The serial of a module as a KDF context carries it (R396). -/
def serialBytes (n : Nat) : List Byte := leBytes n 5

/-- The key of one direction (R396): sender's and receiver's serial, their nonces, the epoch. -/
def linkKey (fabric : List Byte) (sSer rSer : Nat) (sNonce rNonce : List Byte) (epoch : Nat) : List Byte :=
  kdf fabric (ascii "QSRLINK1") (serialBytes sSer ++ serialBytes rSer ++ sNonce ++ rNonce ++ leBytes epoch 4)

/-- The link keys of a port for its epochs, of the fabric key that both ends held at the training (R395, R396). -/
def State.setKeys (s : State) (p : Nat) : State :=
  let own := s.rd .LD_SERIAL 0 .SERIAL
  let peer := s.rd .HN_PEER p .SERIAL
  s.modHn p fun h => { h with keyTx := linkKey h.fabric own peer h.nonce h.peerNonce h.epochTx, keyRx := linkKey h.fabric peer own h.peerNonce h.nonce h.epochRx }

/-- A flit is sent with the next sequence number and kept until it is acknowledged (R397, R513, R516); behind an EPOCH slot the next epoch begins, and its numbers with it (R396). -/
def State.launch (s : State) (p : Nat) (nak : Bool) (f : OutFlit) : State :=
  let h := s.hn p
  let e : TxFlit := ⟨h.seq, if s.keyed p then h.keyTx else [], f⟩
  let s1 := (s.modHn p fun x => { x with seq := x.seq + 1, tx := x.tx ++ [e] }).sendTx p nak e
  if f.ctrl % 16 = 2 then
    ((s1.modHn p fun x => { x with epochTx := h.epochTx + 1, seq := 0 }).wr .MP_LINK_STATUS p .EPOCH_TX ((h.epochTx + 1) % 65536)).setKeys p
  else s1

/-- Flits flow on a port: UP, or the control slots of LATENCY and KEY. -/
def State.flowing (s : State) (p : Nat) : Bool := s.hnState p == 6 || s.hnState p == 7 || s.hnState p == 8

/-- The control slot is a guyline message (R515). -/
def OutFlit.isGuy (f : OutFlit) : Bool := f.ctrl % 16 == 1

/-- The flit carries a fabric packet (R532). -/
def OutFlit.isPacket (f : OutFlit) : Bool := match f.body with | .packet _ => true | _ => false

/-- The flit carries crossing items (R514). -/
def OutFlit.isData (f : OutFlit) : Bool := match f.body with | .data _ => true | _ => false

/-- A flit may go out now: crossings and guyline messages on a link with a key (R395), packets on a port that is UP. -/
def State.passes (s : State) (p : Nat) (f : OutFlit) : Bool := (s.keyed p || !(f.isData || f.isGuy)) && (s.hnState p == 8 || !f.isPacket)

/-- The next flit of those that wait and may go out, and what waits after it (R515): the next DATA flit takes the next control slot along; without one due, a slot goes out in a CONTROL flit. -/
def nextFlit (ok : OutFlit → Bool) (w : List OutFlit) : Option (OutFlit × List OutFlit) :=
  match w.find? ok with
  | none => none
  | some f =>
    let rest := w.eraseP ok
    match rest.find? fun g => ok g && g.type != f.type with
    | some g =>
      if f.type = 1 ∧ f.ctrl = 0 then some ({ f with ctrl := g.ctrl }, rest.erase g)
      else if f.type = 2 ∧ g.type = 1 ∧ g.ctrl = 0 then some ({ g with ctrl := f.ctrl }, rest.erase g)
      else some (f, rest)
    | none => some (f, rest)

/-- A flit without its EPOCH slot (R408). DEDUCED (log 104), unsafe. -/
def OutFlit.noEpoch (f : OutFlit) : Option OutFlit :=
  if f.ctrl % 16 = 2 then (if f.type = 1 then some { f with ctrl := 0 } else none) else some f

/-- A flit without the fabric packet that it carries; a control slot that went along goes out by itself. -/
def OutFlit.noPacket (f : OutFlit) : Option OutFlit :=
  if f.isPacket then (if f.ctrl = 0 then none else some ⟨2, f.ctrl, .empty⟩) else some f

/-- Flits that wait and may go out are sent in order while fewer than 512 are unacknowledged, at most `n`. DEDUCED (log 86), unsafe. -/
def State.pumpPort (s : State) (p : Nat) : Nat → State
  | 0 => s
  | n + 1 =>
    match nextFlit (s.passes p) (s.hn p).wait with
    | none => s
    | some (f, rest) =>
      if s.flowing p = true ∧ (s.hn p).tx.length < 512 then ((s.modHn p fun x => { x with wait := rest }).launch p false f).pumpPort p n
      else s

/-- A flit takes its place among those that wait (R515, R533): a guyline message before everything else, packets behind all that is no packet. -/
def joinWait (w : List OutFlit) (f : OutFlit) : List OutFlit :=
  if f.isGuy then w.takeWhile OutFlit.isGuy ++ [f] ++ w.dropWhile OutFlit.isGuy
  else if f.isPacket then w ++ [f]
  else w.takeWhile (fun x => !x.isPacket) ++ [f] ++ w.dropWhile (fun x => !x.isPacket)

/-- Leaving electrical idle begins with a burst (R519); a port that a loading camp's crossings name stays in it (R323). -/
def State.exitIdle (s : State) (p : Nat) : State :=
  if s.hnState p = 9 ∧ (s.hn p).exiting = false ∧ s.load.idle.contains p = false then (s.modHn p fun h => { h with exiting := true }).emit (.burst p) else s

/-- A flit is due on a port (R515, R519, R533): it joins what waits, and an idle port begins its exit. -/
def State.sendFlit (s : State) (p : Nat) (f : OutFlit) : State :=
  let s1 := s.modHn p fun x => { x with wait := joinWait x.wait f }
  if s.hnState p = 9 then s1.exitIdle p
  else s1.pumpPort p ((s1.hn p).wait.length)

/-- A control slot goes out in a CONTROL flit. -/
def State.sendSlot (s : State) (p : Nat) (slot : Nat) : State := s.sendFlit p ⟨2, slot, .empty⟩

/-- STEP and BND of a position in a guyline slot (R541). -/
def guyPos (p : Option (Nat × Pos)) : Nat :=
  match p with
  | none => 0
  | some (c, .step n) => 2 ^ 35 * (c % 16) + 2 ^ 39 * (n % 4096)
  | some (c, .bnd b) => 2 ^ 35 * (c % 16) + 2 ^ 39 * b + 2 ^ 59

/-- A guyline control slot (R541). -/
def guySlot (tag : Nat) (m : Guy) : Nat :=
  let head := fun (msg origin : Nat) => 1 + 2 ^ 4 * msg + 2 ^ 7 * (tag % 2 ^ 16) + 2 ^ 23 * (origin % 256)
  match m with
  | .halt o c => head 0 o + 2 ^ 31 * (c % 16)
  | .stall st => head 1 st.module + 2 ^ 31 * (st.cause % 16) + guyPos st.pos + 2 ^ 51 * (st.id % 256)
  | .release o i => head 2 o + 2 ^ 51 * (i % 256)
  | .boundary b => head 3 b.module + 2 ^ 31 * bit b.fault + 2 ^ 32 * (b.steps % 2 ^ 13) + 2 ^ 45 * (b.cycle % 16)
      + 2 ^ 49 * (match b.vec with | some v => v.2.toNat / 2 | none => 0)

/-- A HELLO (R530). -/
def State.helloSlot (s : State) (p : Nat) : Nat :=
  8 + 2 ^ 8 * s.rd .FB_ID 0 .ADDR + 2 ^ 16 * s.rd .FB_ID 0 .ADDR_VALID + 2 ^ 17 * p

/-- A route entry (R534): OUT and MASK. -/
def State.routeAt (s : State) (bank table dest : Nat) : Nat × Nat := tget (7, 0) s.fab.routes (bank, table, dest)

/-- A dropped packet is counted (R534). -/
def State.fbDrop (s : State) (n : Nat) : State := s.bump .FB_DROP 0 .COUNT n

/-- The outputs that the tables give a packet (R534, R537): ports 0 to 5, 6 for local delivery; empty for a drop. -/
def State.routeOuts (s : State) (arrival : Option Nat) (dst : Nat) : List Nat :=
  let e := s.routeAt (s.rd .FB_CTRL 0 .ACTIVE) (arrival.getD 6) dst
  if dst = 255 then (List.range 7).filter fun o => e.2.testBit o && arrival != some o
  else if 128 ≤ dst ∨ e.1 = 7 then [] else [e.1]

/-- The outputs of a fragment: those chosen for FRAG 0 (R534, R539). -/
def State.fragOuts (s : State) (arrival : Option Nat) (pk : Packet) : List Nat :=
  if pk.frag = 0 then s.routeOuts arrival pk.dst
  else tget [] s.fab.flows (arrival.getD 6, pk.src, pk.dst, pk.kind)

/-- The ports chosen for a packet are kept until its last fragment has passed. -/
def State.keepFlow (s : State) (arrival : Option Nat) (pk : Packet) (outs : List Nat) : State :=
  let k := (arrival.getD 6, pk.src, pk.dst, pk.kind)
  s.modFab fun f => { f with flows := if pk.last then tdel f.flows k else tset f.flows k outs }

/-- A packet is routed (R529, R532, R534): whether it is delivered here, and the state with it sent on. A forwarded packet loses one of its TTL. -/
def State.routePacket (s : State) (arrival : Option Nat) (pk : Packet) : Bool × State :=
  if s.rd .FB_ID 0 .ADDR_VALID = 0 ∨ 5 ≤ pk.kind then (false, s.fbDrop 1)
  else
    let outs := s.fragOuts arrival pk
    let s1 := s.keepFlow arrival pk outs
    let ttl := if arrival.isSome then pk.ttl - 1 else pk.ttl
    let bad := fun o => decide (o < 6) && (!s.nbrActive o || ttl == 0)
    let s2 := s1.fbDrop (if outs.isEmpty then 1 else (outs.filter bad).length)
    (outs.contains 6, s2.forEach (outs.filter fun o => decide (o < 6) && !bad o) fun t o => t.sendFlit o ⟨1, 0, .packet { pk with ttl := ttl }⟩)

/-- A packet that this module originates (R534): by the local table; one to itself comes back. DEDUCED (log 62), unsafe. -/
def State.sendOne (s : State) (pk : Packet) : State :=
  let r := s.routePacket none pk
  if r.1 then r.2.emit (.loop pk) else r.2

/-- Bytes cut into pieces of 92 (R532), at most `n`. -/
def pieces (b : List Byte) : Nat → List (List Byte)
  | 0 => []
  | n + 1 => if b.length ≤ 92 then [b] else b.take 92 :: pieces (b.drop 92) n

/-- A packet is originated, cut into fragments where it holds more than 92 bytes (R532). DESIGN CHOICE (log 35), safe. -/
def State.originate (s : State) (dst kind : Nat) (d : PktData) : State :=
  let pk : Packet := ⟨dst, s.ownAddr, kind, 255, 0, true, d⟩
  match d with
  | .bytes b =>
    let l := pieces b (b.length / 92 + 1)
    s.forEach l.zipIdx fun t e => t.sendOne { pk with frag := e.2, last := e.2 + 1 == l.length, data := .bytes e.1 }
  | _ => s.sendOne pk

/-- The packets of this module that have not left it for good (R538). -/
def State.ownInFlight (s : State) : Bool :=
  s.links.any fun e => (e.2.wait ++ e.2.tx.map (·.flit)).any fun f => match f.body with
    | .packet pk => pk.src == s.ownAddr
    | _ => false

end Sys2Proof.Machine
end

