-- ==== Sys2Proof/Machine/Stalls.lean ====
section
/-! DEFINITION. Freezing, releasing and halting: the guyline's STALL and RELEASE (R213 to R218, R224 to R228) and the ways a camp halts (R47, R48, R55, R56, R59). -/

namespace Sys2Proof.Machine

/-- Position (cycle, pos) comes at or after (cycle', pos') (R212). -/
def posAtOrAfter (cyc : Nat) (p : Pos) (cyc' : Nat) (p' : Pos) : Bool :=
  decide (cyc' < cyc) || (cyc' == cyc && decide (posCode p' ≤ posCode p))

/-- A STALL that a group at (cycle, pos) holds freezes it there: at or after P (R215), at once where it carries no position, and for BUFFER_HIGH where the group was past P on receipt (R218). -/
def Held.freezes (h : Held) (cyc : Nat) (p : Pos) : Bool :=
  if h.high then h.past
  else match h.stall.pos with
    | none => true
    | some (cyc', p') => posAtOrAfter cyc p cyc' p'

/-- A die group is frozen (R215, R216). -/
def State.frozen (s : State) (c d : Nat) : Bool :=
  let g := s.group c d
  g.held.any fun h => h.freezes (s.camp c).cycle.toNat g.pos

/-- Some die group of the camp is frozen: RUN_CAMP_STATUS.STALLED (R51). -/
def State.campFrozen (s : State) (c : Nat) : Bool := (s.campDies c).any (s.frozen c)

/-- A camp enters a state; entry to PAUSED or HALTED sets the camp's STATE cause (R697). -/
def State.enter (s : State) (c code : Nat) : State :=
  let s1 := s.wr .RUN_CAMP_STATUS c .STATE code
  if code = 4 ∨ code = 5 then s1.campIrq c .state else s1

/-- The commands and decisions that wait for a boundary are gone. A restore under way goes on (R59, R261). -/
def Camp.drop (x : Camp) : Camp := { x with pend := none, haltAt := none, stepLeft := none, ramp := none }

/-- What a halt inside a design cycle discards in a cluster: shadow values and marks (R56), multiply results (R134), bits in flight (R200). -/
def Cluster.discard (cl : Cluster) : Cluster :=
  { cl.modAllBps (fun b => { b with shadow := 0, marks := 0, line := none, drive := none }) with mul := [], lanes := [], slots := [], done := [], wrote := [], ticked := none }

/-- The ports that carry hops of a camp (R276). -/
def State.hopPorts (s : State) (c : Nat) : List Nat := (((s.camp c).hops.filter fun h => !h.withdrawn).map (·.port)).eraseDups

/-- A guyline message of a spanning camp goes out on its hop ports but the one it arrived on (R541, R542). -/
def State.guylineOut (s : State) (c : Nat) (arrival : Option Nat) (m : Guy) : State :=
  if s.spans c then s.forEach ((s.hopPorts c).filter fun p => arrival != some p && s.keyed p) fun t p => t.sendSlot p (guySlot (s.camp c).tag m)
  else s

/-- The drains of a snapshot whose point has been taken go on without steps, those that no CKPT has begun among them (R103, R258). -/
def State.restDrains (s : State) (c : Nat) : State :=
  if s.rd .DC_SNAP_STATUS c .STATE = 2 then s.forEach (s.campClusters c) fun t k => t.modCluster k Cluster.fallback else s

/-- The camp halts now, with a cause; `mid` says inside a design cycle (R56). A spanning camp's halt goes out on the guyline (R543). -/
def State.haltNow (s : State) (c cause : Nat) (mid : Bool) : State :=
  let s1 := (s.modCamp c Camp.drop).wrs .RUN_CAMP_STATUS c
    [(.HALT_CAUSE, cause), (.HALT_MIDCYCLE, bit mid), (.RAMPING, 0), (.CMD_PENDING, 0)]
  let s2 := if mid then
      ((s1.wr .TS_LOG_STATUS c .FULL 0).forEach (s.campClusters c) fun t k => t.modCluster k Cluster.discard).modCamp c
        fun x =>
          { x with flight := [], items := [], reads := [], issues := x.issues.filter (fun i => i.data.isSome), toPort := [], early := [], turns := none, dtNext := none,
                   dtNew := x.dtNew.or x.dtNext, logWait := x.logWait.filter (fun e => e.cycle != x.cycle.toNat), logQueue := [] }
    else s1
  ((s2.restDrains c).enter c 5).guylineOut c none (.halt s.ownAddr cause)

/-- A die group stands at a schedule step, or at B0 before its commit: a fault raised there belongs to the cycle in progress (R43). -/
def Group.inCycle (g : Group) : Bool :=
  match g.pos with
  | .step _ => true
  | .bnd b => b == 0

/-- Under HALT_ON_FAULT, a fault of the cycle in progress has decided a halt (R95). -/
def State.faultHalt (s : State) (c : Nat) : Bool :=
  s.rd .RUN_CAMP_CTRL c .HALT_ON_FAULT == 1 && (s.campDies c).any fun d => (s.group c d).fault && (s.group c d).inCycle

/-- The cause of a halt decided for the end of the cycle, where `fault` says that a fault has decided one (R55). Which of several halt conditions names the cause, and which of a HALT command and one that is no fault, the spec leaves open: the first condition that is no fault, then a HALT command, then a fault. DESIGN CHOICE (log 88), unsafe. -/
def State.decidedBy (s : State) (c : Nat) (fault : Bool) : Option Nat :=
  let x := s.camp c
  match x.haltAt.filter fun k => k != 2 with
  | some k => some k
  | none => if x.pend = some .halt then some 1 else if x.haltAt = some 2 ∨ fault = true then some 2 else none

/-- The cause of a halt already decided for the end of the cycle in progress (R55, R56). DESIGN CHOICE (log 88), unsafe. -/
def State.decided (s : State) (c : Nat) : Option Nat := s.decidedBy c (s.faultHalt c)

/-- A halt decided for the end of the cycle takes effect at once where the camp freezes before (R56). -/
def State.haltIfFrozen (s : State) (c : Nat) : State :=
  if s.campState c = 3 ∧ s.campFrozen c = true then
    match s.decided c with
    | some k => s.haltNow c k true
    | none => s
  else s

/-- A halt condition meets a camp (R48): at once while ramping (R59) or frozen (R56), otherwise at the boundary (R47). A camp that is not RUNNING is not touched: R47 has no such transition. DESIGN CHOICE (log 88), unsafe. -/
def State.haltCond (s : State) (c cause : Nat) : State :=
  if s.campState c = 3 then
    if s.rd .RUN_CAMP_STATUS c .RAMPING = 1 then s.haltNow c cause false
    else if s.campFrozen c then s.haltNow c cause true
    else s.modCamp c fun x => { x with haltAt := some (match x.haltAt with | some 2 => cause | some k => k | none => cause) }
  else s

/-- A HALT of another module (R543): every camp that runs or is PAUSED halts, as by the halt condition it names. -/
def State.haltHeard (s : State) (c cause : Nat) : State := if s.campState c = 4 then s.haltNow c cause false else s.haltCond c cause

/-- The bits of GL_STALL_CAUSE: causes that hold the camp (R228). -/
def activeBits (l : List Stall) : Nat :=
  (List.range 16).foldl (fun a k => if l.any (fun t => t.cause == k) && k != 0 then a + 2 ^ k else a) 0

/-- A STALL as this module records it: one of another module has cause REMOTE and island 255 (R225, R226, R541). -/
def State.recorded (s : State) (st : Stall) : Stall :=
  if st.module = s.ownAddr then st else { st with cause := 0xD, island := 255 }

/-- The step and boundary fields of GL_STALL_LAST for a position (R228). -/
def posFields (p : Option (Nat × Pos)) : List (FName × Nat) :=
  match p with
  | none => [(.STEP, 0), (.BND, 0)]
  | some (_, .step n) => [(.STEP, n), (.BND, 0)]
  | some (_, .bnd b) => [(.STEP, b), (.BND, 1)]

/-- What a die group at (cyc, pos) holds of a STALL on receipt (R215, R218). -/
def holdOf (st rec : Stall) (cyc : Nat) (pos : Pos) : Held :=
  ⟨rec, st.cause == 0xB, match st.pos with
    | none => false
    | some (cyc', p') => posAtOrAfter cyc pos cyc' p' && !(cyc == cyc' && pos == p')⟩

/-- A STALL enters the records of R228, and freezes a RUNNING camp (R215); a PAUSED or LOADED camp counts it and does not freeze (R235). -/
def State.applyStall (s : State) (c : Nat) (st : Stall) : State :=
  let rec_ := s.recorded st
  let s1 := (s.bump .GL_STALL_EVENTS (14 * c + rec_.cause) .COUNT 1).wrs .GL_STALL_LAST c
    ([(.CAUSE, rec_.cause), (.ISLAND, rec_.island), (.MODULE, rec_.module)] ++ posFields rec_.pos)
  if s.campState c = 3 then
    let cyc := (s.camp c).cycle.toNat
    let s2 := s1.modCamp c fun x => { x with stalls := x.stalls ++ [rec_] }
    let s3 := s2.forEach (s.campDies c) fun t d => t.modGroup c d fun g => { g with held := g.held ++ [holdOf st rec_ cyc g.pos] }
    let s4 := s3.wr .GL_STALL_CAUSE c .ACTIVE (activeBits (s3.camp c).stalls)
    s4.haltIfFrozen c
  else s1

/-- A STALL is raised on this module (R217): it gets an identity, is applied to every die group of the camp here, and goes out on the guyline of a spanning camp. DEDUCED (log 21), unsafe. DESIGN CHOICE (log 22), safe. -/
def State.raiseStall (s : State) (c cause island : Nat) (pos : Option (Nat × Pos)) : State :=
  let st : Stall := ⟨s.nextId, cause, island, pos, s.ownAddr⟩
  let s1 := { s with nextId := s.nextId + 1 }.applyStall c st
  s1.guylineOut c none (.stall st)

/-- A RELEASE ends its STALL (R216). The frozen time since the last change is charged to the oldest STALL's cause (R227). DEDUCED (log 23), safe. -/
def State.applyRelease (s : State) (c module id frozen : Nat) : State :=
  match (s.camp c).stalls with
  | [] => s
  | old :: _ =>
    if (s.camp c).stalls.any (fun t => t.module == module && t.id == id) then
      let keep := fun (t : Stall) => !(t.module == module && t.id == id)
      let s1 := s.bump .GL_STALL_TIME (14 * c + old.cause) .TIME frozen
      let s2 := s1.modCamp c fun x => { x with stalls := x.stalls.filter keep,
                                               groups := x.groups.map fun e => (e.1, { e.2 with held := e.2.held.filter (fun h => keep h.stall) }) }
      s2.wr .GL_STALL_CAUSE c .ACTIVE (activeBits (s2.camp c).stalls)
    else s

/-- A raiser on this module releases the STALL it raised (R217). -/
def State.releaseStall (s : State) (c : Nat) (st : Stall) (frozen : Nat) : State :=
  (s.applyRelease c st.module st.id frozen).guylineOut c none (.release st.module st.id)

/-- The oldest STALL of a cause (and island, where one is named) that this module raised and the camp still holds. -/
def State.findStall (s : State) (c cause : Nat) (island : Option Nat) : Option Stall :=
  (s.camp c).stalls.find? fun t => t.cause == cause && (island.isNone || island == some t.island)

/-- STALLs of a camp released together: the frozen time since the last change is charged once (R227). -/
def State.releaseStalls (s : State) (c : Nat) (l : List Stall) (frozen : Nat) : State :=
  l.zipIdx.foldl (fun t e => t.releaseStall c e.1 (if e.2 = 0 then frozen else 0)) s

/-- Every STALL of a cause (and island, where one is named) that this module raised and the camp holds is released. -/
def State.releaseCause (s : State) (c cause : Nat) (island : Option Nat) (frozen : Nat) : State :=
  s.releaseStalls c ((s.camp c).stalls.filter fun t => t.cause == cause && (island.isNone || island == some t.island)) frozen

/-- The step clock of a camp at a level (R645), MHz. -/
def levelMhz (target j : Nat) : Nat := target * (32 - j) / 32

/-- Steps run below the target charge POWER_LIMIT with the difference of the step periods (R224), in target step periods; the fraction left over is kept. DEDUCED (log 24), unsafe. -/
def State.chargeSteps (s : State) (c n : Nat) : State :=
  let t := s.rd .RUN_CAMP_TARGET c .MHZ
  let a := levelMhz t (s.rd .PW_CAMP c .LEVEL)
  if a = 0 ∨ t ≤ a then s
  else
    let x := (s.camp c).drag
    let den := Nat.lcm x.2 a
    let num := x.1 * (den / x.2) + n * (t - a) * (den / a)
    (s.bump .GL_STALL_TIME (14 * c + 8) .TIME (num / den)).modCamp c fun y => { y with drag := (num % den, den) }

/-- A fault enters the fault summary of a die group for the cycle in progress (R95). -/
def State.campFault (s : State) (c d : Nat) : State := s.modGroup c d fun g => { g with fault := true }

/-- A fault raised outside the steps of the die groups: under HALT_ON_FAULT it halts a frozen camp at once, also where it belongs to the next cycle (R43, R56). -/
def State.faultArrives (s : State) (c d : Nat) : State :=
  let t := s.campFault c d
  if t.rd .RUN_CAMP_CTRL c .HALT_ON_FAULT = 1 ∧ t.campState c = 3 ∧ t.campFrozen c = true then t.haltNow c ((t.decided c).getD 2) true else t

end Sys2Proof.Machine
end

