-- ==== Sys2Proof/Machine/Operands.lean ====
section
/-! DEFINITION. Operand forms: what a step sees (R41, R67, R81), the BP's operand selects (R63, R66, R67), the word unit's operand B and field layout (R109 to R112, R116). -/

namespace Sys2Proof.Machine

/-- What the instructions of one step see beside their stores: step, tag of its segment (R81), edge vectors (R67), completed cycles, and the cluster's bounds (R93, R121). -/
structure StepCtx where
  step : Nat
  tag : Nat
  cur : BitVec 16
  prev : BitVec 16
  cycle : Nat
  bitLimit : Nat
  stateLimit : Nat
  recvLimit : Nat
  memLimit : Nat
  deriving DecidableEq, Repr

/-- The tag of a step's segment: that of the last segment beginning at or before it (R40, R246). -/
def tagOf (segs : List Seg) (n : Nat) : Nat :=
  segs.foldl (fun t g => if g.first ≤ n then g.tag else t) 0

/-- A tag's segments run under an edge vector (R41): tag 0 always. -/
def tagRuns (vec : BitVec 16) (t : Nat) : Bool := t == 0 || vec.getLsbD t

/-- The first schedule step from `n` on, below `len`, that runs (R41); none where no step is left. -/
def nextStep (segs : List Seg) (vec : BitVec 16) (len n : Nat) : Option Nat :=
  ((List.range len).drop n).find? fun x => tagRuns vec (tagOf segs x)

/-- Schedule length of a camp (R51). -/
def State.schedLen (s : State) (c : Nat) : Nat := s.rd .RUN_CAMP_STATUS c .SCHED_STEPS

/-- What cluster `k` of the camp's die group sees at step `n`. -/
def State.ctxAt (s : State) (c d k n : Nat) : StepCtx :=
  { step := n, tag := tagOf (s.camp c).segs n, cur := (s.group c d).cur, prev := (s.group c d).prev,
    cycle := (s.camp c).cycle.toNat, bitLimit := s.rd .CL_BOUNDS k .BIT_LIMIT, stateLimit := s.rd .CL_BOUNDS k .STATE_LIMIT,
    recvLimit := s.rd .CL_BOUNDS k .RECV_LIMIT, memLimit := s.rd .WU_BOUNDS k .MEM_LIMIT }

/-- Space of an operand select (R63). -/
def selSpace (x : Nat) : Nat := x / 1024 % 4

/-- Index of an operand select (R63). -/
def selIndex (x : Nat) : Nat := x % 1024

/-- A special index that R67 reserves. -/
def specialReserved (i : Nat) : Bool :=
  (decide (2 ≤ i) && decide (i ≤ 15)) || (decide (35 ≤ i) && decide (i ≤ 47)) || decide (64 ≤ i)

/-- The special-operand table (R67). -/
def special (x : StepCtx) (i : Nat) : Bool :=
  if i = 0 then false
  else if i = 1 then true
  else if i = 16 then true
  else if 17 ≤ i ∧ i ≤ 31 then x.cur.getLsbD (i - 16)
  else if i = 32 then x.cycle == 0
  else if i = 33 then x.cycle.testBit 0
  else if i = 34 then (x.cur >>> 1) != 0
  else if i = 48 then true
  else if 49 ≤ i ∧ i ≤ 63 then x.prev.getLsbD (i - 48) && x.cycle != 0
  else false

/-- The value a select reads (R66): bit store, committed state, crossbar line (0 where nothing was driven, R69) or receive slot, special table. -/
def readSel (x : StepCtx) (cl : Cluster) (b : Bp) (sel : Nat) : Bool :=
  let i := selIndex sel
  match selSpace sel with
  | 0 => b.bits.at i
  | 1 => b.state.at i
  | 2 => if i < 64 then (cl.bp i).line.getD false else cl.recv.at i
  | _ => special x i

/-- Sign extension of IMM16 (R110). -/
def immB (i : BitVec 16) : Word := i.signExtend 40

/-- A word register of the cluster. -/
def Cluster.wreg (cl : Cluster) (r : Nat) : Word := tget 0 cl.w (r % 16)

/-- A word register written. -/
def Cluster.setW (cl : Cluster) (r : Nat) (v : Word) : Cluster := { cl with w := tset cl.w (r % 16) v }

/-- Operand B of a word-unit instruction (R109). -/
def operandB (cl : Cluster) (f : WuFields) : Word := if f.immb then immB f.imm16 else cl.wreg f.sb

/-- The address of LDM and STM (R118): bits [15:0] of W[SA] plus IMM16, modulo 65,536. -/
def wuAddr (cl : Cluster) (f : WuFields) : Nat := ((cl.wreg f.sa).toNat % 65536 + f.imm16.toNat) % 65536

end Sys2Proof.Machine
end

