-- ==== Sys2Proof/Machine/Bp.lean ====
section
/-! DEFINITION. The Boolean processor's instructions (R60 to R104, R190) and the drains of the snapshot latches. -/

namespace Sys2Proof.Machine

/-- The opcodes of R79. -/
inductive BpOp where
  | nop | lut4 | lut4e | route | hold | ckpt
  deriving DecidableEq, Repr

/-- The opcode of bits [79:76] (R79); none for a reserved one. -/
def bpOpOf (n : Nat) : Option BpOp :=
  match n with
  | 0 => some .nop
  | 1 => some .lut4
  | 2 => some .lut4e
  | 3 => some .route
  | 4 => some .hold
  | 5 => some .ckpt
  | _ => none

/-- The fields of an 80-bit BP instruction (R62). -/
def bpFieldsOf (w : Inst80) : BpFields :=
  let n := w.toNat
  { dest := bitsOf n 74 2, xout := bitsOf n 73 1 == 1, pred := bitsOf n 69 4, chk := bitsOf n 68 1 == 1, res := bitsOf n 64 4,
    tt := BitVec.ofNat 16 (bitsOf n 48 16), a := bitsOf n 36 12, b := bitsOf n 24 12, c := bitsOf n 12 12, d := bitsOf n 0 12 }

/-- The instruction writes the state shadow (R65). -/
def writesShadow (op : BpOp) (f : BpFields) : Bool :=
  op == .lut4e || (op == .lut4 && (f.dest == 1 || f.dest == 2))

/-- The selects an instruction reads, with their numbers in the log: 0 A, 1 B, 2 C, 3 D (R79, R97). -/
def selectsRead (op : BpOp) (f : BpFields) : List (Nat × Nat) :=
  match op with
  | .lut4 => if writesShadow op f then [(0, f.a), (1, f.b), (2, f.c)] else [(0, f.a), (1, f.b), (2, f.c), (3, f.d)]
  | .lut4e => [(0, f.a), (1, f.b), (2, f.c)]
  | .route => [(0, f.a)]
  | _ => []

/-- DEST is allowed for the opcode (R79). -/
def destOk (op : BpOp) (dest : Nat) : Bool :=
  match op with
  | .lut4e => dest == 2
  | .route => dest == 0 || dest == 3
  | .hold => dest == 0
  | _ => true

/-- RESERVED_ENCODING (R80). -/
def bpReserved (op : BpOp) (f : BpFields) : Bool :=
  f.res != 0 || !destOk op f.dest
    || (selectsRead op f).any (fun e => selSpace e.2 == 3 && specialReserved (selIndex e.2))
    || (writesShadow op f && selSpace f.d != 1)
    || (op == .route && (selSpace f.d != 2 || decide (selIndex f.d < 64)))

/-- An index at or above its space's limit (R93). -/
def outOfRange (x : StepCtx) (sel : Nat) : Bool :=
  match selSpace sel with
  | 0 => decide (x.bitLimit ≤ selIndex sel)
  | 1 => decide (x.stateLimit ≤ selIndex sel)
  | 2 => decide (64 ≤ selIndex sel) && decide (x.recvLimit ≤ selIndex sel)
  | _ => false

/-- The selects that OPERAND_RANGE judges: those read, and a state address in D (R93). -/
def rangeSelects (op : BpOp) (f : BpFields) : List (Nat × Nat) :=
  selectsRead op f ++ (if writesShadow op f then [(3, f.d)] else [])

/-- The faults an instruction raises, lowest code first, each with the number of the first select at fault (R92, R93, R99, R190). -/
def bpFaults (x : StepCtx) (cl : Cluster) (b : Bp) (op : BpOp) (f : BpFields) : List (Nat × Nat) :=
  (if bpReserved op f then [(0x02, 0)] else [])
    ++ (if f.pred != x.tag then [(0x03, 0)] else [])
    ++ (if writesShadow op f && b.marks.at (selIndex f.d) then [(0x04, 0)] else [])
    ++ (if f.chk then
          (((rangeSelects op f).find? fun e => outOfRange x e.2).map fun e => (0x05, e.1)).toList
            ++ (((selectsRead op f).find? fun e => selSpace e.2 == 2 && decide (selIndex e.2 < 64) && (cl.bp (selIndex e.2)).line.isNone).map
                fun e => (0x06, e.1)).toList
            ++ (((selectsRead op f).find? fun e => selSpace e.2 == 2 && decide (64 ≤ selIndex e.2) && !cl.fresh.at (selIndex e.2)).map
                fun e => (0x21, e.1)).toList
        else [])

/-- What an instruction that raises no fault does to its BP (R94): the bit-store write, the state address and value for the shadow, the value driven on the crossbar line, the outgoing slot driven, and whether it is a CKPT. -/
structure BpEffect where
  bit : Option Bool
  shadow : Option (Nat × Bool)
  line : Option Bool
  slot : Option (Nat × Bool)
  ckpt : Bool
  deriving DecidableEq, Repr

/-- No effect but a line left undriven: NOP (R86), and every suppressed instruction (R94). -/
def BpEffect.none : BpEffect := ⟨Option.none, Option.none, Option.none, Option.none, false⟩

/-- The truth-table index (R64, R65). -/
def ttIndex (x : StepCtx) (cl : Cluster) (b : Bp) (op : BpOp) (f : BpFields) : Nat :=
  bit (readSel x cl b f.a) + 2 * bit (readSel x cl b f.b) + 4 * bit (readSel x cl b f.c)
    + (if writesShadow op f then 0 else 8 * bit (readSel x cl b f.d))

/-- The effect of an instruction that raises no fault (R64, R65, R82, R84 to R86). -/
def bpEffect (x : StepCtx) (cl : Cluster) (b : Bp) (op : BpOp) (f : BpFields) : BpEffect :=
  match op with
  | .nop => BpEffect.none
  | .ckpt => { BpEffect.none with ckpt := true }
  | .hold => { BpEffect.none with line := if f.xout then some (b.bits.at (x.step % 1024)) else none }
  | .route =>
    let v := readSel x cl b f.a
    { BpEffect.none with bit := if f.dest = 0 then some v else none, slot := some (selIndex f.d, v) }
  | .lut4 =>
    let v := f.tt.getLsbD (ttIndex x cl b op f)
    { BpEffect.none with
        bit := if f.dest = 0 ∨ f.dest = 2 then some v else none
        shadow := if f.dest = 1 ∨ f.dest = 2 then some (selIndex f.d, v) else none
        line := if f.xout then some v else none }
  | .lut4e =>
    let v := f.tt.getLsbD (ttIndex x cl b op f)
    let e := v && !b.state.at (selIndex f.d)
    { BpEffect.none with bit := some e, shadow := some (selIndex f.d, v), line := if f.xout then some e else none }

/-- An instruction at a step: its fault (code and select), or none, and its effect. -/
def bpRun (x : StepCtx) (cl : Cluster) (b : Bp) (op : BpOp) (f : BpFields) : Option (Nat × Nat) × BpEffect :=
  match bpFaults x cl b op f with
  | e :: _ => (some e, BpEffect.none)
  | [] => (none, bpEffect x cl b op f)

/-- CKPT (R88 to R90): an armed drain begins, or waits for the path in the order of its step. -/
def Cluster.ckpt (cl : Cluster) (step i : Nat) : Cluster :=
  match (cl.bp i).drain with
  | .armed =>
    if cl.activeDrains < 4 ∧ cl.hasQueued = false then cl.modBp i fun b => { b with drain := .active 0 }
    else cl.modBp i fun b => { b with drain := .queued (64 * step + i) }
  | _ => cl

/-- A BP after an instruction's effect but for its bit store (R76, R175). -/
def Bp.apply (b : Bp) (e : BpEffect) : Bp :=
  { b with
      shadow := match e.shadow with | some (a, v) => b.shadow.put a v | none => b.shadow
      marks := match e.shadow with | some (a, _) => b.marks.put a true | none => b.marks
      drive := e.line }

/-- A cluster after one BP's effect (R71). -/
def Cluster.applyBp (cl : Cluster) (step i : Nat) (e : BpEffect) : Cluster :=
  let c1 := { cl.modBp i (fun b => b.apply e) with done := i :: cl.done }
  let c2 := match e.bit with
    | some v => c1.putBit i i (step % 1024) v
    | none => c1
  let c3 := match e.slot with
    | some (a, v) => { c2 with slots := c2.slots ++ [(a, i, v)] }
    | none => c2
  if e.ckpt then c3.ckpt step i else c3

/-- The rank of a fault among those of one step of a cluster: BPs by number, then the word unit, whose codes are 0x10 to 0x1F (R100, R132). -/
def faultRank (code bp : Nat) : Nat := if code / 16 = 1 then 64 else bp

/-- A faulting instruction of cluster `k` is counted and logged (R97, R98), the lowest of a step recorded (R100, R132), and enters the fault summary of its die group (R95). -/
def State.logFault (s : State) (c k code bp step opnd : Nat) : State :=
  let s1 := s.bump .CL_FAULT_COUNT k .COUNT 1
  let s2 := s1.logIn .CL_FAULT_LOG k (s.momentOf c (k / 72)) [(.CODE, code), (.BP, bp), (.STEP, step), (.OPND, opnd)] false
    (decide (faultRank code bp < faultRank (s.rd .CL_FAULT_LOG k .CODE) (s.rd .CL_FAULT_LOG k .BP)))
    fun t => t.wr .CL_FAULT_CYCLE k .CYCLE (s.camp c).cycle.toNat
  s2.campFault c (k / 72)

/-- The order of the conflict log (R196): the lowest slot, then the lowest wire, then the lowest index. -/
def conflictBefore (slot wire index slot' wire' index' : Nat) : Bool :=
  decide (slot < slot') || (slot == slot' && (decide (wire < wire') || (wire == wire' && decide (index < index'))))

/-- A conflict's loser in the logs of R192: counted, and logged with step, slot, wire and index. Of several wires of one step the lowest is recorded (R196), and a further loser of the wire recorded is no other conflict (R195). It enters the fault summary (R189). DEDUCED (log 25), unsafe. -/
def State.logConflict (s : State) (c k step wire index : Nat) : State :=
  let d := k / 72
  let s1 := s.bump .DN_CONFLICT_COUNT d .COUNT 1
  let slot := s.rd .DN_CONFLICT_LOG d .SLOT
  let w := s.rd .DN_CONFLICT_LOG d .WIRE
  let i := s.rd .DN_CONFLICT_LOG d .INDEX
  let s2 := s1.logIn .DN_CONFLICT_LOG d (s.momentOf c d) [(.STEP, step), (.SLOT, k % 72), (.WIRE, wire), (.INDEX, index)]
    (slot == k % 72 && w == wire && i == index) (conflictBefore (k % 72) wire index slot w i)
    fun t => t.wr .DN_CONFLICT_CYCLE d .CYCLE (s.camp c).cycle.toNat
  s2.campFault c d

/-- The step at which an instruction executes on cluster `k`: its camp is RUNNING past its ramp, the die group is not frozen, stands at a schedule step with its edge vector applied, and the cluster is not the spare. Gives camp and step. -/
def State.stepOf (s : State) (k : Nat) : Option (Nat × Nat) :=
  match s.pitchCamp (pitchOf k) with
  | none => none
  | some c =>
    match (s.group c (k / 72)).pos with
    | .bnd _ => none
    | .step n =>
      if s.campState c = 3 ∧ s.rd .RUN_CAMP_STATUS c .RAMPING = 0 ∧ s.frozen c (k / 72) = false
        ∧ (s.group c (k / 72)).applied = true ∧ s.posOf k < 8 then some (c, n) else none

/-- The instruction of BP `b` is suppressed with a fault (R94, R98). -/
def State.bpFaulted (s : State) (c k n b code opnd : Nat) : State :=
  (s.modCluster k fun x => { x.modBp b (fun y => { y with drive := none }) with done := b :: x.done }).logFault c k code b n opnd

/-- The ROUTEs of higher BPs that have driven slot `a` in the step lose it: they are taken back, and are faulting instructions (R188, R189). -/
def State.beatRoutes (s : State) (c k n b a : Nat) : State :=
  s.forEach ((s.cluster k).slots.filter fun t => t.1 == a && decide (b < t.2.1)) fun t e =>
    ((t.modCluster k fun x => x.takeBack e.2.1).logFault c k 0x20 e.2.1 n 0).logConflict c k n 0 a

/-- An UNPACK of the step that has written the bit this BP writes is taken back (R124). -/
def State.beatUnpack (s : State) (c k n b : Nat) : State :=
  if (s.cluster k).wrote.any fun e => e.who == 64 && e.bp == b && e.addr == n % 1024 then
    (s.modCluster k fun x => x.takeBack 64).logFault c k 0x15 0 n 0
  else s

/-- BP `b` of cluster `k` executes an instruction at step `n` (R60, R92 to R98); `op` is none for a reserved opcode. It reads the stores as they stood at the start of the step. A ROUTE whose slot a lower BP drives in the step loses (R188, R189). -/
def State.bpTurn (s : State) (c k n b : Nat) (op : Option BpOp) (f : BpFields) : State :=
  let cl := (s.cluster k).before
  match op with
  | none => s.bpFaulted c k n b 0x01 0
  | some o =>
    match bpRun (s.ctxAt c (k / 72) k n) cl (cl.bp b) o f with
    | (some (code, opnd), _) => s.bpFaulted c k n b code opnd
    | (none, e) =>
      let s1 := if e.bit.isSome then s.beatUnpack c k n b else s
      match e.slot with
      | some (a, _) =>
        if cl.slots.any (fun t => t.1 == a && decide (t.2.1 < b)) then (s.bpFaulted c k n b 0x20 0).logConflict c k n 0 a
        else (s1.beatRoutes c k n b a).modCluster k fun x => x.applyBp n b e
      | none => s1.modCluster k fun x => x.applyBp n b e

/-- One BP instruction executes at the step its die group stands at. Where no step executes, nothing happens. DESIGN CHOICE (log 14), safe. -/
def State.runBp (s : State) (loc : BpSite) (op : BpOp) (f : BpFields) : State :=
  let k := 72 * loc.die + loc.slot
  match s.stepOf k with
  | none => s
  | some (c, n) => (s.bpTurn c k n loc.bp (some op) f).haltIfFrozen c

/-- BP NOP (R86). -/
def execBpNop (loc : BpSite) (f : BpFields) (s : State) : Host.Outcome State Fault Refusal := .next (s.runBp loc .nop f)

/-- LUT4 (R64, R65). -/
def execLut4 (loc : BpSite) (f : BpFields) (s : State) : Host.Outcome State Fault Refusal := .next (s.runBp loc .lut4 f)

/-- LUT4E (R82). -/
def execLut4e (loc : BpSite) (f : BpFields) (s : State) : Host.Outcome State Fault Refusal := .next (s.runBp loc .lut4e f)

/-- ROUTE (R84). -/
def execRoute (loc : BpSite) (f : BpFields) (s : State) : Host.Outcome State Fault Refusal := .next (s.runBp loc .route f)

/-- HOLD (R85). -/
def execHold (loc : BpSite) (f : BpFields) (s : State) : Host.Outcome State Fault Refusal := .next (s.runBp loc .hold f)

/-- CKPT (R87 to R90). -/
def execCkpt (loc : BpSite) (f : BpFields) (s : State) : Host.Outcome State Fault Refusal := .next (s.runBp loc .ckpt f)

/-- The drains of a cluster may move: its die group is not frozen in a stall (R216). -/
def State.drainsMove (s : State) (k : Nat) : Bool :=
  match s.pitchCamp (pitchOf k) with
  | some c => s.campState c != 3 || !s.frozen c (k / 72)
  | none => true

/-- DRAIN_START (R89). -/
def execDrainStart (loc : ClusterSite) (s : State) : Host.Outcome State Fault Refusal :=
  let k := 72 * loc.die + loc.slot
  .next (if s.drainsMove k then s.modCluster k Cluster.startDrain else s)

/-- DRAIN_END (R88): a drain that has moved its 64 pieces ends and frees its latch; in a PAUSED or HALTED camp it advances without steps and ends here (R103, R258). -/
def execDrainEnd (loc : BpSite) (s : State) : Host.Outcome State Fault Refusal :=
  let k := 72 * loc.die + loc.slot
  let still := match s.pitchCamp (pitchOf k) with
    | some c => s.campState c == 4 || s.campState c == 5
    | none => false
  match ((s.cluster k).bp loc.bp).drain with
  | .active n =>
    if s.drainsMove k = true ∧ (n ≥ 64 ∨ still = true) then .next (s.modCluster k fun x => x.modBp loc.bp fun b => { b with drain := .idle })
    else .next s
  | _ => .next s

/-- One executed step of every drain in progress, boundary steps included (R88), and of the word-unit latch (R253). -/
def Cluster.advanceDrains (cl : Cluster) (n : Nat) : Cluster :=
  { cl.modAllBps (fun b => match b.drain with | .active p => { b with drain := .active (min 64 (p + n)) } | _ => b)
    with wuLeft := cl.wuLeft - n }

end Sys2Proof.Machine
end

