-- ==== Sys2Proof/Machine/Wear.lean ====
section
/-! DEFINITION. Unit errors, failed units, the wear record and spare selection (R34, R38, R160, R663 to R665, R673 to R675, R687). -/

namespace Sys2Proof.Machine

/-- Fabric time in whole nanoseconds (R555). -/
def State.nowNs (s : State) : Nat := s.now / 2 ^ 32 % 2 ^ 64

/-- The entries the wear record holds at most (R673). -/
def wearMax : Nat := 65280

/-- An entry goes into the wear record (R673, R674): kept waiting while a compaction runs; a record that becomes full starts one. -/
def State.wearPut (s : State) (e : WearEntry) : State :=
  if s.rd .HS_WEAR 0 .FULL = 1 then { s with health := { s.health with waiting := s.health.waiting ++ [e] } }
  else
    let s1 := { s with health := { s.health with wear := s.health.wear ++ [e] } }
    let n := s1.health.wear.length
    let s2 := s1.wr .HS_WEAR 0 .USED (min n 0xFFFF)
    if wearMax ≤ n then s2.wr .HS_WEAR 0 .FULL 1 else s2

/-- An entry of the wear record is made now. DEDUCED (log 84), unsafe. -/
def State.wearAdd (s : State) (kind : Nat) (u : UnitId) (count : Nat) : State :=
  s.wearPut ⟨kind, u.die, u.slot, u.unit, count, s.nowNs⟩

/-- Whether a unit comes before another: by DIE, SLOT and UNIT (R675). -/
def unitBefore (a b : UnitId) : Bool :=
  decide (a.die < b.die) || (a.die == b.die && (decide (a.slot < b.slot) || (a.slot == b.slot && decide (a.unit < b.unit))))

/-- A unit put into an ascending list; one that is there already is not put twice. -/
def insertUnit (u : UnitId) : List UnitId → List UnitId
  | [] => [u]
  | x :: l => if u = x then x :: l else if unitBefore u x then u :: x :: l else x :: insertUnit u l

/-- A unit is in the set of failed units. -/
def State.isFailed (s : State) (u : UnitId) : Bool := s.health.failed.contains u

/-- A BP or column map entry of a cluster slot is invalid (R38, R678). -/
def State.mapInvalid (s : State) (k : Nat) : Bool :=
  let a := s.rd .HS_BP_MAP k .SPARE0
  let b := s.rd .HS_BP_MAP k .SPARE1
  let bad := fun c => decide (48 ≤ c) && c != 63
  a == b || decide (65 < a) || decide (65 < b) || bad (s.rd .HS_COL_MAP k .COL0) || bad (s.rd .HS_COL_MAP k .COL1)

/-- A cluster slot counts as failed (R34). -/
def State.slotFailed (s : State) (k : Nat) : Bool :=
  let d := k / 72
  let slot := k % 72
  s.rd .HS_BP_MAP k .FAILED == 1 || s.mapInvalid k
    || s.isFailed ⟨d, slot, 66⟩ || s.isFailed ⟨d, slot, 67⟩ || s.isFailed ⟨d, slot, 68⟩
    || decide (2 < (s.health.failed.filter fun u => u.die == d && u.slot == slot && decide (u.unit < 66)).length)

/-- A pitch is unusable (R24, R34). -/
def State.pitchUnusable (s : State) (p : Nat) : Bool :=
  let spare := s.rd .HS_PITCH_MAP p .SPARE_COL
  let bad := (List.range 9).filter fun c => s.slotFailed (9 * p + c)
  (s.part.isM4 && decide (32 ≤ p)) || decide (9 ≤ spare) || decide (1 < bad.length) || bad.any (fun c => c != spare)

/-- UNUSABLE of a pitch map entry follows R34. -/
def State.refreshPitch (s : State) (p : Nat) : State := s.wr .HS_PITCH_MAP p .UNUSABLE (bit (s.pitchUnusable p))

/-- A spare-map entry has been written (R35, R316, R329): PENDING is set, and noted where a load has latched the entry. -/
def State.pendMap (s : State) (r : RegName) (i : Nat) : State :=
  let k : RegKey := ⟨r, i, .PENDING⟩
  let s1 := s.wr r i .PENDING 1
  if s.load.active && s.load.latch.any (fun e => e.1.reg == r && e.1.i == i) then { s1 with load := { s1.load with latch := tset s1.load.latch k 1 } } else s1

/-- Spare selection for a cluster slot that has failed (R675, last rows of the table): the pitch's spare column. -/
def State.selectColumn (s : State) (u : UnitId) (k : Nat) : State :=
  let p := pitchOf k
  let spare := s.rd .HS_PITCH_MAP p .SPARE_COL
  let next := if k % 9 = spare then spare else if spare ≤ 8 ∧ s.slotFailed (9 * p + spare) = false then k % 9 else 15
  if next = spare then s
  else ((s.wr .HS_PITCH_MAP p .SPARE_COL next).pendMap .HS_PITCH_MAP p).wearAdd 5 u 0

/-- A whole cluster slot is marked failed (R37, R675). -/
def State.failSlot (s : State) (u : UnitId) (k : Nat) : State :=
  (if s.rd .HS_BP_MAP k .FAILED = 1 then s else (s.wr .HS_BP_MAP k .FAILED 1).wearAdd 5 u 0).selectColumn u k

/-- Spare selection in hardware mode for a failed unit of an E-die (R675). -/
def State.selectSpare (s : State) (u : UnitId) : State :=
  let k := 72 * u.die + u.slot
  let healthy := fun b => !s.isFailed ⟨u.die, u.slot, b⟩
  let s1 :=
    if u.die ≥ 8 then s
    else if u.unit < 66 then
      let a := s.rd .HS_BP_MAP k .SPARE0
      let b := s.rd .HS_BP_MAP k .SPARE1
      if u.unit = a ∨ u.unit = b then s
      else if healthy a then (s.wr .HS_BP_MAP k .SPARE0 u.unit).wearAdd 5 u 0
      else if healthy b then (s.wr .HS_BP_MAP k .SPARE1 u.unit).wearAdd 5 u 0
      else s.failSlot u k
    else if 69 ≤ u.unit then
      let col := u.unit - 69
      let a := s.rd .HS_COL_MAP k .COL0
      let b := s.rd .HS_COL_MAP k .COL1
      if col = a ∨ col = b then s
      else if a = 63 then ((s.wr .HS_COL_MAP k .COL0 col).pendMap .HS_COL_MAP k).wearAdd 5 u 0
      else if b = 63 then ((s.wr .HS_COL_MAP k .COL1 col).pendMap .HS_COL_MAP k).wearAdd 5 u 0
      else s.failSlot u k
    else s.failSlot u k
  if u.die < 8 then s1.refreshPitch (pitchOf k) else s1

/-- A unit is marked failed (R674): recorded with KIND 4, signalled (R696), and in hardware mode answered by spare selection. -/
def State.markFailed (s : State) (u : UnitId) : State :=
  if s.isFailed u then s
  else
    let s1 := { s with health := { s.health with failed := u :: s.health.failed } }
    let s2 := (s1.wearAdd 4 u 0).irq 4
    if s.rd .HS_CTRL 0 .SPARE_HOST = 0 then s2.selectSpare u
    else if u.die < 8 then s2.refreshPitch (pitchOf (72 * u.die + u.slot)) else s2

/-- A corrected or uncorrectable error of a unit is summed (R674); two uncorrectable ones in a period, or CE_THRESH corrected ones, mark it failed. -/
def State.countUnit (s : State) (u : UnitId) (ue : Bool) : State :=
  let h := s.health
  let s1 := { s with health :=
    if ue then { h with ue := tmod 0 h.ue u (· + 1) } else { h with ce := tmod 0 h.ce u (· + 1) } }
  if 2 ≤ tget 0 s1.health.ue u ∨ max 1 (s.rd .HS_CTRL 0 .CE_THRESH) ≤ tget 0 s1.health.ce u then s1.markFailed u else s1

/-- A word of a checked memory found in error, by a fetch (`src` 1) or a scrub read (`src` 0): counted, and logged when uncorrectable (R664, R667, R687). Of several at once the log takes the one that stands first by KIND, SLOT, UNIT and ADDR (R682); a word that both find is logged once, as a fetch's (R681). -/
def State.scError (s : State) (k kind unit addr src : Nat) (ue : Bool) : State :=
  let d := k / 72
  if ue then
    let s1 := s.bump .SC_UE_COUNT d .COUNT 1
    let old := [FName.KIND, .SLOT, .UNIT, .ADDR].map (s.rd .SC_UE_LOG d)
    let new := [kind, k % 72, unit, addr]
    if s.logsNow .SC_UE_LOG d [s.ticks] && old == new then (if src = 1 then s1.wr .SC_UE_LOG d .SRC 1 else s1)
    else s1.logIn .SC_UE_LOG d [s.ticks] [(.KIND, kind), (.SLOT, k % 72), (.UNIT, unit), (.ADDR, addr), (.SRC, src)] false (decide (new < old)) id
  else s.bump .SC_CE_COUNT d .COUNT 1

/-- The unit of the wear record that a configuration memory of a cluster belongs to (R673, R686). -/
def unitOfKind (kind unit : Nat) : Nat :=
  match kind with
  | 1 => unit
  | 4 => 68
  | 0 => 67
  | _ => 66

/-- An upset met by a fetch of a step (R664): counted and summed; an uncorrectable one enters the camp's fault summary. -/
def State.fetchUpset (s : State) (c : Nat) (u : Upset) : State :=
  let s1 := (s.scError u.cluster u.kind u.unit u.addr 1 u.ue).countUnit
    ⟨u.cluster / 72, u.cluster % 72, unitOfKind u.kind u.unit⟩ u.ue
  if u.ue then s1.campFault c (u.cluster / 72) else s1

/-- The order in which units that err in one step are handled (R675): DIE, SLOT and UNIT. -/
def upsetBefore (u v : Upset) : Bool :=
  decide (u.cluster < v.cluster) || (u.cluster == v.cluster && decide (unitOfKind u.kind u.unit ≤ unitOfKind v.kind v.unit))

/-- An upset put into its place. -/
def putUpset (u : Upset) : List Upset → List Upset
  | [] => [u]
  | v :: l => if upsetBefore u v then u :: v :: l else v :: putUpset u l

/-- The upsets of a step in the order in which they are handled. -/
def sortUpsets (l : List Upset) : List Upset := l.foldr putUpset []

/-- A disagreement of the copies of a cluster's configuration (R665). DEDUCED (log 26), unsafe. -/
def State.voteEvent (s : State) (c : Nat) (v : VoteEvent) : State :=
  if v.all then (s.scError v.cluster 5 0 0 1 true).campFault c (v.cluster / 72)
  else s.bump .SC_VOTE_COUNT (v.cluster / 72) .COUNT 1

end Sys2Proof.Machine
end

