-- ==== Sys2Proof/Machine/ClusterMem.lean ====
section
/-! DEFINITION. Cluster memory: words with their check bytes (R147 to R152), copy-on-write (R144, R254, R255), the bank rotation of requesters 1 to 4 (R138 to R143), management accesses (R156 to R158) and the wake clear (R153). -/

namespace Sys2Proof.Machine

/-- What an unlisted word of cluster memory holds: zero with its correct check byte (R153). -/
def MemWord.clear : MemWord := ⟨0, 0⟩

/-- The outcome of a decode (R148). -/
inductive Ecc where
  | ok
  | ce
  | ue
  deriving DecidableEq, Repr

/-- The set bits of a check-byte difference. -/
def synWeight (x : BitVec 8) : Nat := ((List.range 8).filter fun i => x.getLsbD i).length

/-- The columns of a code with the 8 check bits' own. -/
def eccColumns (f : Nat → BitVec 8) : List (BitVec 8) := (List.range 40).map f ++ (List.range 8).map fun i => 1#8 <<< i

/-- Columns make a SEC-DED code (R147): they are distinct and not zero, and no two of them add up to a third. -/
def eccValid (f : Nat → BitVec 8) : Bool :=
  let l := eccColumns f
  decide l.Nodup && !l.contains 0 && l.all fun x => l.all fun y => x == y || !l.contains (x ^^^ y)

/-- A code that is SEC-DED: the 40 lowest bytes of odd weight above 1. -/
def eccOdd (i : Nat) : BitVec 8 :=
  ((List.range 256).filter fun n => synWeight (BitVec.ofNat 8 n) % 2 == 1 && synWeight (BitVec.ofNat 8 n) != 1).map (BitVec.ofNat 8) |>.getD i 0

/-- The column of a data bit: the implementation's, which the spec leaves open as long as the code is SEC-DED. -/
def eccColumn (i : Nat) : BitVec 8 := if eccValid Config.eccColumn then Config.eccColumn i else eccOdd i

/-- The check byte of a word (R147): the sum of the columns of its set bits. -/
def checkByte (x : Word) : BitVec 8 := (List.range 40).foldl (fun c i => if x.getLsbD i then c ^^^ eccColumn i else c) 0

/-- The check byte that is stored with a word. -/
def MemWord.check (m : MemWord) : BitVec 8 := m.syn ^^^ checkByte m.data

/-- The data bit whose inversion accounts for the stored check byte: a single-bit error in the data (R147). -/
def MemWord.badBit (m : MemWord) : Option Nat := (List.range 40).find? fun i => eccColumn i == m.syn

/-- The decode of a stored word (R148): the data delivered and the outcome. One wrong check bit or one wrong data bit is corrected; what no single-bit error accounts for, two wrong bits among it (R147, R152), is uncorrectable. DESIGN CHOICE (log 9), safe. -/
def MemWord.decode (m : MemWord) : Word × Ecc :=
  if m.syn = 0 then (m.data, .ok)
  else if synWeight m.syn = 1 then (m.data, .ce)
  else match m.badBit with
    | some i => (m.data ^^^ (1#40 <<< i), .ce)
    | none => (m.data, .ue)

/-- A word of cluster memory. -/
def Cluster.word (cl : Cluster) (a : Nat) : MemWord := mread MemWord.clear cl.mem a

/-- A word stored as given. -/
def Cluster.store (cl : Cluster) (a : Nat) (m : MemWord) : Cluster := { cl with mem := mwrite MemWord.clear cl.mem a m }

/-- A word written whole, with a fresh check byte (R147). -/
def Cluster.write (cl : Cluster) (a : Nat) (x : Word) : Cluster := cl.store a ⟨x, 0⟩

/-- What a snapshot records of a word: its corrected value, or poisoned (R152, R254). -/
def MemWord.recorded (m : MemWord) : MemWord :=
  match m.decode with
  | (d, .ue) => ⟨d, 0x03⟩
  | (d, _) => ⟨d, 0⟩

/-- The unit of the wear record that an error of a word counts against (R674): the column whose bit the syndrome names (data bits are columns 0 to 39, check bits 40 to 47), or the cluster memory. -/
def MemWord.errUnit (m : MemWord) : Nat :=
  if synWeight m.syn = 1 then 69 + 40 + ((List.range 8).find? fun i => m.syn.getLsbD i).getD 0
  else
    let diff := m.decode.1 ^^^ m.data
    match (List.range 40).filter fun i => diff.getLsbD i with
    | [i] => 69 + i
    | _ => 67

/-- Where an error of a cluster memory is met in a step of its camp, that step (R161). -/
def State.eccMoment (s : State) (k : Nat) : List Nat :=
  match s.pitchCamp (pitchOf k) with
  | some c => if s.campState c = 3 ∧ s.frozen c (k / 72) = false then s.momentOf c (k / 72) else []
  | none => []

/-- The order of the errors of one step in CM_ECC_LOG (R161): a UE before a CE, the lowest requester, the lowest word address. -/
def eccBefore (ue src a ue' src' a' : Nat) : Bool :=
  decide (ue' < ue) || (ue == ue' && (decide (src < src') || (src == src' && decide (a < a'))))

/-- An error in CM_ECC_LOG (R160, R161). -/
def State.logEccAt (s : State) (k src a ue : Nat) : State :=
  s.logIn .CM_ECC_LOG k (s.eccMoment k) [(.ADDR, a), (.SRC, src), (.UE, ue)] false
    (eccBefore ue src a (s.rd .CM_ECC_LOG k .UE) (s.rd .CM_ECC_LOG k .SRC) (s.rd .CM_ECC_LOG k .ADDR)) id

/-- A decode of a word that found an error is counted and logged (R148, R160) and feeds the wear record; one that the word unit meets uncorrectable is a fault of the camp (R151). -/
def State.logEcc (s : State) (k src a : Nat) (e : Ecc) : State :=
  let u : UnitId := ⟨k / 72, k % 72, ((s.cluster k).word a).errUnit⟩
  match e with
  | .ok => s
  | .ce => ((s.bump .CM_ECC_CE_COUNT k .COUNT 1).logEccAt k src a 0).countUnit u false
  | .ue =>
    let s1 := ((s.bump .CM_ECC_UE_COUNT k .COUNT 1).logEccAt k src a 1).countUnit u true
    if src = 0 then
      match s.pitchCamp (pitchOf k) with
      | some c => s1.campFault c (k / 72)
      | none => s1
    else s1

/-- A snapshot is abandoned with an error (R91, R255, R257): every drain stops and the word-unit latch is freed. Where a bus error abandons it, a full save buffer stays for the overflow of the same cycle (R270). -/
def State.abandonSnap (s : State) (c err : Nat) : State :=
  let s1 := s.wrs .DC_SNAP_STATUS c [(.STATE, 4), (.ERR, err)]
  let s2 := s1.forEach (s.campClusters c) fun t k => t.modCluster k fun x =>
    let y := { x.modAllBps (fun b => { b with drain := .idle }) with wuLeft := 0, snapBanks := [], snapMem := [] }
    if 6 ≤ err ∧ err ≠ 7 ∧ 4096 ≤ x.saveBuf.length then y else { y with snapLine := 8192, saveBuf := [] }
  (s2.modCamp c fun x => { x with snap := { x.snap with pages := [], copied := [] } }).campIrq c .snap

/-- This module is the camp's home module (R265). -/
def State.isHome (s : State) (c : Nat) : Bool := s.rd .DC_CTRL c .HOME == 1

/-- The home module of a camp: the lowest address among those it spans. -/
def State.homeAddr (s : State) (c : Nat) : Nat := (s.camp c).peers.foldl min s.ownAddr

/-- A snapshot ends abandoned (R252, R257): its error shows, and a part of a spanning camp's snapshot reports it to the home module. -/
def State.abandon (s : State) (c err : Nat) : State :=
  let s1 := s.abandonSnap c err
  if s.spans c && !s.isHome c then s1.originate (s.homeAddr c) 4 (.mgmt (.snapReport (s.camp c).tag err)) else s1

/-- The moment of a snapshot's end: where the camp stands, and the tick. -/
def State.snapMoment (s : State) (c : Nat) : List Nat := s.momentOf c ((s.campDies c).headD 0) ++ [s.ticks]

/-- A save-buffer overflow, a write error or a read error abandons a copying snapshot; of those of one cycle ERR records the first in this order (R270). -/
def State.abandonErr (s : State) (c err : Nat) : State :=
  let at_ := (RegName.DC_SNAP_STATUS, c)
  if s.rd .DC_SNAP_STATUS c .STATE = 2 then
    (s.abandon c err).modLogAt fun l => tset l at_ (s.snapMoment c)
  else if s.rd .DC_SNAP_STATUS c .STATE = 4 ∧ tget [] s.logAt at_ = s.snapMoment c ∧ err < s.rd .DC_SNAP_STATUS c .ERR then s.wr .DC_SNAP_STATUS c .ERR err
  else s

/-- Before the word unit writes a word of a pending line, the old value goes into the save buffer, once (R144, R254); a full buffer abandons the snapshot (R255). DEDUCED (log 101), unsafe. -/
def State.saveWord (s : State) (k a : Nat) : State :=
  let cl := s.cluster k
  if cl.snapLine ≤ a / 8 ∧ cl.saveBuf.all (fun e => e.1 != a) then
    match s.pitchCamp (pitchOf k) with
    | none => s
    | some c =>
      if 4096 ≤ cl.saveBuf.length then s.abandonErr c 4
      else
        let s1 := s.modCluster k fun x => { x with saveBuf := (a, (x.word a).recorded) :: x.saveBuf }
        s1.wr .DC_SNAP_STATUS c .SAVE_PEAK (max (s.rd .DC_SNAP_STATUS c .SAVE_PEAK) (cl.saveBuf.length + 1))
  else s

/-- A word-unit read (R118, R148, R151): the data delivered, and the state with any error logged. -/
def State.wuRead (s : State) (k a : Nat) : Word × State :=
  let r := ((s.cluster k).word a).decode
  (r.1, s.logEcc k 0 a r.2)

/-- A word-unit plain write (R118, R144, R150). -/
def State.wuWrite (s : State) (k a : Nat) (x : Word) : State :=
  (s.saveWord k a).modCluster k fun cl => cl.write a x

/-- A bit-set (`set`) or bit-clear write (R145, R150): read, correct, apply, write; refused on an uncorrectable word. -/
def aliasValue (set : Bool) (old x : Word) : Word := if set then old ||| x else old &&& ~~~x

/-- The word unit's alias write (R120, R145, R150). -/
def State.wuAlias (s : State) (k a : Nat) (set : Bool) (x : Word) : State :=
  let r := ((s.cluster k).word a).decode
  let s1 := s.logEcc k 0 a r.2
  if r.2 = .ue then s1
  else (s1.saveWord k a).modCluster k fun cl => cl.write a (aliasValue set r.1 x)

/-- The word unit leaves a bank free in the present step (R141, R143): it uses none outside a running step. DEDUCED (log 20), unsafe. -/
def State.bankFree (s : State) (k bank : Nat) : Bool :=
  match s.stepOf k with
  | some _ => !(s.cluster k).busy.contains bank
  | none => true

/-- The order of the rotation that follows a pointer (R142). -/
def rotation (ptr : Nat) : List Nat := (List.range 4).map fun i => (ptr + i) % 4 + 1

/-- The snapshot engine's copy of one word of the line it stands at: taken from the save buffer where it was saved (R254); with the eighth bank the line is copied, and its saved words leave the buffer. -/
def Cluster.copyWord (cl : Cluster) (bank : Nat) : Cluster :=
  let a := 8 * cl.snapLine + bank
  let w := match cl.saveBuf.find? (fun e => e.1 == a) with
    | some e => e.2
    | none => (cl.word a).recorded
  let c1 := { cl with snapMem := mwrite MemWord.clear cl.snapMem a w, snapBanks := bank :: cl.snapBanks }
  if (List.range 8).all (fun b => c1.snapBanks.contains b) then
    { c1 with snapLine := c1.snapLine + 1, snapBanks := [], saveBuf := c1.saveBuf.filter fun e => e.1 / 8 != c1.snapLine }
  else c1

/-- The decode of a word that the snapshot engine reads from its bank (R148, R160); a word in the save buffer is not read. -/
def State.snapRead (s : State) (k bank : Nat) : State :=
  let cl := s.cluster k
  let a := 8 * cl.snapLine + bank
  if cl.saveBuf.any (fun e => e.1 == a) then s else s.logEcc k 3 a (cl.word a).decode.2

/-- The snapshot engine wants a bank: it has lines to copy and has not had this bank for the present line (R254). -/
def Cluster.snapWants (cl : Cluster) (bank : Nat) : Bool := decide (cl.snapLine < 8192) && !cl.snapBanks.contains bank

/-- The snapshot engine wants a bank of a cluster whose snapshot is being copied. -/
def State.snapWants (s : State) (k bank : Nat) : Bool :=
  (s.cluster k).snapWants bank && ((s.pitchCamp (pitchOf k)).any fun c => s.rd .DC_SNAP_STATUS c .STATE == 2)

/-- One granted access (R145, R148 to R150, R158). -/
def State.bankAccess (s : State) (k : Nat) (r : BankReq) : State :=
  let m := (s.cluster k).word r.addr
  let e := m.decode
  match r.op with
  | .read => s.logEcc k r.who r.addr e.2
  | .copyLine => s
  | .write x => s.modCluster k fun cl => cl.write r.addr x
  | .rawWrite x ch => s.modCluster k fun cl => cl.store r.addr ⟨x, ch ^^^ checkByte x⟩
  | .scrub =>
    let s1 := s.logEcc k r.who r.addr e.2
    match e.2 with
    | .ok => s1
    | .ce => (s1.modCluster k fun cl => cl.write r.addr e.1).scError k 0 0 r.addr 0 false
    | .ue => s1.scError k 0 0 r.addr 0 true
  | .bitSet x =>
    let s1 := s.logEcc k r.who r.addr e.2
    if e.2 = .ue then s1 else s1.modCluster k fun cl => cl.write r.addr (aliasValue true e.1 x)
  | .bitClear x =>
    let s1 := s.logEcc k r.who r.addr e.2
    if e.2 = .ue then s1 else s1.modCluster k fun cl => cl.write r.addr (aliasValue false e.1 x)

/-- What a management access reports when its bank has served it (R157, R158). DESIGN CHOICE (log 31), unsafe. -/
def State.mgmtFinish (s : State) (k : Nat) (r : BankReq) : State :=
  let d := k / 72
  let m := (s.cluster k).word r.addr
  let e := m.decode
  let raw := s.rd .CM_MGMT_ADDR d .RAW = 1
  let code := match e.2 with | .ok => 0 | .ce => 1 | .ue => 2
  match r.op with
  | .read =>
    ((s.wr .CM_MGMT_DATA d .DATA (if raw then m.data else e.1).toNat).wr .CM_MGMT_CHECK d .CHECK
      m.check.toNat).wr .CM_MGMT_CTRL d .RESULT code
  | .bitSet _ => s.wr .CM_MGMT_CTRL d .RESULT code
  | .bitClear _ => s.wr .CM_MGMT_CTRL d .RESULT code
  | _ => s.wr .CM_MGMT_CTRL d .RESULT 0

/-- A bank goes to the first waiting requester in the rotation, and the pointer follows (R142). The snapshot engine is requester 3. -/
def State.grantBank (s : State) (k bank : Nat) : State :=
  let cl := s.cluster k
  let want := (rotation (tget 4 cl.bankPtr bank)).find? fun w =>
    cl.reqs.any (fun r => r.who == w && r.addr % 8 == bank) || (w == 3 && s.snapWants k bank)
  match want with
  | none => s
  | some w =>
    let s1 := s.modCluster k fun x => { x with bankPtr := tset x.bankPtr bank w }
    if w = 3 ∧ s.snapWants k bank = true then (s1.snapRead k bank).modCluster k fun x => x.copyWord bank
    else
      match cl.reqs.find? fun r => r.who == w && r.addr % 8 == bank with
      | none => s1
      | some r =>
        let s2 := if w = 4 then s1.mgmtFinish k r else s1
        let s3 := s2.bankAccess k r
        s3.modCluster k fun x => { x with reqs := x.reqs.erase r }

/-- BANK_GRANT (R142): a free bank is granted. Nothing is granted during a wake clear (R155). DESIGN CHOICE (log 31), unsafe. -/
def execBankGrant (loc : ClusterSite) (bank : Nat) (s : State) : Host.Outcome State Fault Refusal :=
  let k := 72 * loc.die + loc.slot
  if bank < 8 ∧ s.bankFree k bank = true ∧ s.rd .CM_STATUS k .CLEARING = 0 then .next (s.grantBank k bank)
  else .next s

/-- The bank is granted until a request has been served, at most `n` times. -/
def State.serveReq (s : State) (k : Nat) (r : BankReq) : Nat → State
  | 0 => s
  | n + 1 => if (s.cluster k).reqs.contains r then (s.grantBank k (r.addr % 8)).serveReq k r n else s

/-- The loader writes a word as requester 2 (R140, R315): it waits its turn in the bank's rotation, in which each requester is served once. -/
def State.loadWord (s : State) (k a : Nat) (x : Word) : State :=
  let r : BankReq := ⟨2, a, .write x⟩
  let s1 := s.modCluster k fun c => { c with reqs := c.reqs ++ [r] }
  s1.serveReq k r (4 * (s1.cluster k).reqs.length)

/-- A management access is refused (R156). -/
def State.mgmtRefused (s : State) (die : Nat) : Bool :=
  let slot := s.rd .CM_MGMT_ADDR die .SLOT
  let kind := s.rd .CM_MGMT_ADDR die .KIND
  decide (71 < slot) || (s.rd .CM_MGMT_ADDR die .RAW == 1 && (kind == 1 || kind == 2))
    || (s.pitchCamp (pitchOf (72 * die + slot))).isSome

/-- The access that the management registers describe (R158). -/
def State.mgmtOp (s : State) (die : Nat) : BankOp :=
  let x := BitVec.ofNat 40 (s.rd .CM_MGMT_DATA die .DATA)
  match s.rd .CM_MGMT_ADDR die .KIND with
  | 0 => .read
  | 1 => .bitSet x
  | 2 => .bitClear x
  | _ => if s.rd .CM_MGMT_ADDR die .RAW = 1 then .rawWrite x (BitVec.ofNat 8 (s.rd .CM_MGMT_CHECK die .CHECK)) else .write x

/-- MGMT_ACCESS_GO (R156 to R158): refused with RESULT = 3, or a request of requester 4; ignored while BUSY. -/
def execMgmtAccessGo (die : Nat) (s : State) : Host.Outcome State Fault Refusal :=
  s.asWrite .CM_MGMT_CTRL die fun s =>
  if s.rd .CM_MGMT_CTRL die .BUSY = 1 then .next s
  else if s.mgmtRefused die then .next (s.wr .CM_MGMT_CTRL die .RESULT 3)
  else
    let k := 72 * die + s.rd .CM_MGMT_ADDR die .SLOT
    let r : BankReq := ⟨4, s.rd .CM_MGMT_ADDR die .WADDR, s.mgmtOp die⟩
    .next ((s.wr .CM_MGMT_CTRL die .BUSY 1).modCluster k fun x => { x with reqs := x.reqs ++ [r] })

/-- MGMT_ACCESS_DONE (R157): with no request of requester 4 left on the die, the access has been served and BUSY falls. -/
def execMgmtAccessDone (die : Nat) (s : State) : Host.Outcome State Fault Refusal :=
  if (List.range 72).any (fun slot => (s.cluster (72 * die + slot)).reqs.any fun r => r.who == 4) then .next s
  else .next (s.wr .CM_MGMT_CTRL die .BUSY 0)

end Sys2Proof.Machine
end

