-- ==== Sys2Proof/Machine/Deep.lean ====
section
/-! DEFINITION. Deep memory as its requesters see it: address mapping (R338), ownership (R373), counters and their ends (R380 to R389), alarms (R390, R391), the row-disturbance tables (R351, R352), and a request served (R336, R382). -/

namespace Sys2Proof.Machine

/-- First byte beyond the data area (R372). -/
def dataEnd : Nat := 0x3700000000

/-- The parity of the low 32 bits. -/
def parity32 (n : Nat) : Bool := (List.range 32).foldl (fun b i => xor b (n.testBit i)) false

/-- Select `k` of an address (R338). -/
def State.select (s : State) (k addr : Nat) : Bool := parity32 ((addr / 64) &&& s.rd .DM_MAP k .MASK)

/-- A channel's deep-memory structures changed. -/
def State.modDeep (s : State) (f : Deep → Deep) : State := { s with deep := f s.deep }

/-- The channel of an address (R338). -/
def State.chanOf (s : State) (addr : Nat) : Nat := bit (s.select 0 addr) + 2 * bit (s.select 1 addr) + 4 * bit (s.select 2 addr)

/-- The bank of an address (R338, R363: 4 × bank group + bank). -/
def State.bankOf (s : State) (addr : Nat) : BankId :=
  { chan := s.chanOf addr, sub := bit (s.select 3 addr),
    bank := 4 * (bit (s.select 4 addr) + 2 * bit (s.select 5 addr) + 4 * bit (s.select 6 addr))
      + bit (s.select 7 addr) + 2 * bit (s.select 8 addr) }

/-- The row of an address (R338). -/
def rowOf (addr : Nat) : Nat := addr / 2 ^ 21 % 2 ^ 17

/-- The camps that hold a deep region: not UNLOADED, with pages (R373). -/
def State.regionCamps (s : State) : List Nat :=
  (List.range 64).filter fun c => s.campState c != 0 && (s.camp c).deepPages != 0

/-- A page lies in the deep region of a camp. -/
def State.inRegion (s : State) (c p : Nat) : Bool :=
  decide ((s.camp c).deepBase ≤ p) && decide (p < (s.camp c).deepBase + (s.camp c).deepPages)

/-- The valid MP_RANGE entries (R399). -/
def State.validRanges (s : State) : List Nat := (List.range 64).filter fun r => s.rd .MP_RANGE_BASE r .VALID == 1

/-- A page lies in an MP_RANGE entry. -/
def State.inRange (s : State) (r p : Nat) : Bool :=
  decide (s.rd .MP_RANGE_BASE r .BASE ≤ p) && decide (p < s.rd .MP_RANGE_BASE r .BASE + s.rd .MP_RANGE_SIZE r .PAGES)

/-- The owner of a page (R373). -/
def State.pageOwner (s : State) (p : Nat) : Nat :=
  match s.regionCamps.find? fun c => s.inRegion c p with
  | some c => s.rd .RUN_CAMP_STATUS c .KEY_ID
  | none => match s.validRanges.find? fun r => s.inRange r p with
    | some r => s.rd .MP_RANGE_BASE r .KEY_ID
    | none => 0

/-- The key IDs that own a page of an interval (R391). -/
def State.ownersIn (s : State) (lo n : Nat) : List Nat :=
  let meets := fun b k => decide (b < lo + n) && decide (lo < b + k)
  (((s.regionCamps.filter fun c => meets (s.camp c).deepBase (s.camp c).deepPages).map fun c => s.rd .RUN_CAMP_STATUS c .KEY_ID)
    ++ ((s.validRanges.filter fun r => meets (s.rd .MP_RANGE_BASE r .BASE) (s.rd .MP_RANGE_SIZE r .PAGES)).map
        fun r => s.rd .MP_RANGE_BASE r .KEY_ID)).eraseDups

/-- The nodes above a page (R383): its leaf and one node of each level. -/
def nodesAbove (p : Nat) : List Node := (List.range 7).map fun l => ⟨l, p / 8 ^ l⟩

/-- The key IDs that own a page beneath a node (R391). -/
def State.nodeOwners (s : State) (n : Node) : List Nat := s.ownersIn (n.idx * 8 ^ n.level) (8 ^ n.level)

/-- A node is frozen, or poisoned, above some page of key ID `k` (R399). -/
def State.keyUnder (s : State) (k : Nat) (ns : List Node) : Bool := ns.any fun n => (s.nodeOwners n).contains k

/-- The intervals without a given value, with [lo, hi) taken out. -/
def openRange (l : List Sealed) (lo hi : Nat) : List Sealed :=
  l.flatMap fun e =>
    (if e.lo < min e.hi lo then [{ e with hi := min e.hi lo }] else []) ++ (if max e.lo hi < e.hi then [{ e with lo := max e.lo hi }] else [])

/-- A byte lies in a sealed interval. -/
def Sealed.covers (e : Sealed) (a : Nat) : Bool :=
  decide (e.lo ≤ a) && decide (a < e.hi) && e.masks.zipIdx.all fun m => parity32 ((a / 64) &&& m.1) == e.code.testBit m.2

/-- The intervals of ciphertext, with [lo, hi) taken out. -/
def openCipher (l : List Cipher) (lo hi : Nat) : List Cipher :=
  l.flatMap fun e =>
    (if e.lo < min e.hi lo then [{ e with hi := min e.hi lo }] else []) ++ (if max e.lo hi < e.hi then [{ e with lo := max e.lo hi }] else [])

/-- The tweak of a line (R380): line index, minor counter, major counter. -/
def lineTweak (line minor major : Nat) : Nat := line % 2 ^ 32 + 2 ^ 32 * (minor % 2 ^ 7) + 2 ^ 39 * (major % 2 ^ 64)

/-- The two data keys of a draw (R376). -/
def dataKeys (draw : Nat) : List Byte := (List.range 64).map (Config.drbg draw)

/-- A line under encryption (R380). -/
def sealLine (draw line minor major : Nat) (plain : List Byte) : List Byte := xtsSeal (dataKeys draw) (lineTweak line minor major) plain

/-- A line of pages left as ciphertext. -/
def Cipher.line (c : Cipher) (l : Nat) : List Byte :=
  sealLine c.key l (tget 0 c.minors l) (tget 0 c.majors (l / 64)) ((List.range 64).map fun i => mread 0 c.bytes (64 * l + i))

/-- A byte of pages left as ciphertext; free where the plaintext of its line was. -/
def Cipher.byte (c : Cipher) (a : Nat) : Byte :=
  if (List.range 64).any fun i => c.free.any fun e => e.covers (64 * (a / 64) + i) then Config.sealedByte c.draw a
  else (c.line (a / 64)).getD (a % 64) 0

/-- A byte of deep memory. DEDUCED (log 7), safe. -/
def Deep.byte (m : Deep) (a : Nat) : Byte :=
  match m.sealed.find? fun e => e.covers a with
  | some e => Config.sealedByte e.draw a
  | none => match m.ciphers.find? fun c => decide (c.lo ≤ a) && decide (a < c.hi) with
    | some c => c.byte a
    | none => mread 0 m.bytes a

/-- Bytes of deep memory. -/
def Deep.readBytes (m : Deep) (a n : Nat) : List Byte := (List.range n).map fun i => m.byte (a + i)

/-- Bytes stored. -/
def Deep.putBytes (m : Deep) (a : Nat) (bs : List Byte) : Deep :=
  { m with sealed := openRange m.sealed a (a + bs.length), ciphers := openCipher m.ciphers a (a + bs.length), bytes := bs.zipIdx.foldl (fun l e => mwrite 0 l (a + e.2) e.1) m.bytes }

/-- An interval of bytes cleared to zero (R375). -/
def Deep.clear (m : Deep) (lo hi : Nat) : Deep :=
  { m with sealed := openRange m.sealed lo hi, ciphers := openCipher m.ciphers lo hi, bytes := m.bytes.filter fun c => !(decide (lo ≤ c.1) && decide (c.1 < hi)) }

/-- An interval of bytes loses its contents: free values from now on. -/
def State.sealBytes (s : State) (lo hi : Nat) : State :=
  let m := s.deep.clear lo hi
  { s with deep := { m with sealed := ⟨lo, hi, s.draws, [], 0⟩ :: m.sealed }, draws := s.draws + 1 }

/-- Pages of a key ID leave ownership with their ciphertext (R321, R375). -/
def State.leaveCipher (s : State) (lo hi key : Nat) : State :=
  let d := s.deep
  let c : Cipher :=
    { lo := lo, hi := hi, key := (tget ⟨[], [], 0, 0⟩ s.keys.keys key).data, bytes := d.bytes.filter (fun e => decide (lo ≤ e.1) && decide (e.1 < hi)),
      majors := d.majors.filter (fun e => decide (lo ≤ 4096 * e.1) && decide (4096 * e.1 < hi)),
      minors := d.minors.filter (fun e => decide (lo ≤ 64 * e.1) && decide (64 * e.1 < hi)),
      free := d.sealed.filter (fun e => decide (e.lo < hi) && decide (lo < e.hi)), draw := s.draws }
  let m := d.clear lo hi
  { s with deep := { m with ciphers := c :: m.ciphers }, draws := s.draws + 1 }

/-- The lines whose address has the parities `code` under the select masks `ks` lose their contents. -/
def State.sealLines (s : State) (ks : List Nat) (code : Nat) : State :=
  let e : Sealed := ⟨0, dataEnd, s.draws, ks.map fun k => s.rd .DM_MAP k .MASK, code⟩
  { s with deep := { s.deep with sealed := e :: s.deep.sealed, bytes := s.deep.bytes.filter fun c => !e.covers c.1 }, draws := s.draws + 1 }

/-- The lines of a channel pair lose their contents. DEDUCED (log 59), safe. -/
def State.sealPair (s : State) (k : Nat) : State := s.sealLines [1, 2] k

/-- The lines of a channel lose their contents. -/
def State.sealChan (s : State) (c : Nat) : State := s.sealLines [0, 1, 2] c

/-- The pitches of a placement entry that the load writes (R320): those that exist and belong to no camp but an UNLOADED one, or to the load's own camp. -/
def State.loadPitches (s : State) : List Nat :=
  match s.load.lmod with
  | none => []
  | some m =>
    match s.load.places[m]? with
    | none => []
    | some e => (bitList e.pitches 64).filter fun p => s.rd .PW_DOM p .STATE != 4
        && match s.pitchCamp p with
          | none => true
          | some c => s.load.began && c == s.load.camp

/-- The registers that a load sets for a camp. -/
def campRegs : List RegName :=
  [.RUN_CAMP_PITCH_LO, .RUN_CAMP_PITCH_HI, .RUN_CAMP_TARGET, .RUN_CAMP_DRAM, .RUN_CAMP_HOP, .GL_CAMP_SPAN, .GL_STALL_CAUSE, .DC_SNAP_SIZE]

/-- A register field goes back when its camp is released: those of `campRegs`, the lead and home bits, and the status but for CMD_ERR. -/
def releasedField (c : Nat) (k : RegKey) : Bool :=
  k.i == c && (campRegs.contains k.reg || (k.reg == .DC_CTRL && k.fld != .WR_ERR) || (k.reg == .RUN_CAMP_STATUS && k.fld != .CMD_ERR))

/-- The pages of a camp's deep region leave ownership with their ciphertext (R321, R375). -/
def State.leaveRegion (s : State) (c : Nat) : State :=
  let x := s.camp c
  if s.rd .RUN_CAMP_STATUS c .KEY_ID = 0 ∨ x.deepPages = 0 then s else s.leaveCipher (4096 * x.deepBase) (4096 * (x.deepBase + x.deepPages)) (s.rd .RUN_CAMP_STATUS c .KEY_ID)

/-- RUN_XING_USED counts the valid entries of the crossing table (the register table of R194). -/
def State.showXing (s : State) : State := s.wr .RUN_XING_USED 0 .ENTRIES (s.xing.filter fun e => e.2.getLsbD 79).length

/-- A camp is released (R320, R321): crossing table, pitches, registers; the camp number is free again (R25). LOG_POS stays (R455). DEDUCED (log 106), unsafe. -/
def State.releaseCamp (s : State) (c : Nat) : State :=
  let x := s.camp c
  let s1 := (s.leaveRegion c).forEach (s.campPitches c) fun t p =>
    t.forEach (pitchSlots p) fun u k => { u with regs := u.regs.filter fun e => !(e.1.i == k && (e.1.reg == .CL_BOUNDS || e.1.reg == .WU_BOUNDS || e.1.reg == .WU_CFG || e.1.reg == .WU_SR_PTR)) }
  ({ s1 with
      xing := s1.xing.filter fun e => !(decide (x.xbase ≤ e.1) && decide (e.1 < x.xbase + x.xsize))
      regs := s1.regs.filter fun e => !releasedField c e.1
      camps := tset s1.camps c { Camp.reset with logPos := x.logPos } } : State).showXing

/-- The placement entry of this module. -/
def Load.own (l : Load) : PlaceEntry := l.places.getD (l.lmod.getD 0) ⟨0, 0, 0, 0, 0, 0⟩

/-- The camp of a failed load is UNLOADED at once (R47, R320), and its region leaves with what has been written. -/
def State.loadRelease (s : State) : State :=
  let l := s.load
  if l.began then (s.releaseCamp l.camp).modDeep fun d => { d with inits := d.inits.filter fun r => r.roll || r.base != l.own.base } else s

/-- The logical modules other than this one, with their entries. -/
def Load.others (l : Load) : List (Nat × PlaceEntry) := (l.places.zipIdx.map fun e => (e.2, e.1)).filter fun e => l.lmod != some e.1

/-- A load fails (R47, R314, R320, R323, R326, R330): the failure stands, queued segments are dropped, the clear of the load's powered pitches begins, its camp is UNLOADED, and ports held idle leave it where flits wait; other modules are told, but where ABORT came from the entry module or no placement entry has been sent (R308). The first failure stands. -/
def State.loadFail (s : State) (f : LoadFailure) (tell : Bool) : State :=
  let l := s.load
  if l.active && l.failing.isNone then
    let s1 := ((({ s with load := { l with failing := some f, queue := [], stream := [] } }.wr .LD_DMA_PUSH 0 .DEPTH 0).wrs .LD_STATUS 0
      [(.ERR, f.err), (.MODULE, f.module), (.LMOD, f.lmod)]).wrs .LD_ERR_DETAIL 0 [(.SEGMENT, f.seg), (.LCLUSTER, f.lcl)])
    let s2 := s1.forEach (s.loadPitches.filter s.powered) State.clearPitch
    let s3 := s2.loadRelease
    let s4 := ({ s3 with load := { s3.load with idle := [] } } : State).forEach (l.idle.filter fun p => !(s.hn p).wait.isEmpty) State.exitIdle
    if l.entry then (if l.src = 2 then s4 else s4.forEach l.others fun t e => t.originate e.2.addr 0 .abort)
    else if tell then s4.originate l.origin 1 (.ack f.lmod (.fail f.err f.seg f.lcl))
    else s4
  else s

/-- A failure of this module in the segment awaited. -/
def State.loadFailHere (s : State) (err : Nat) : State :=
  s.loadFail ⟨err, s.load.next, 0, s.ownAddr, s.load.lmod.getD 0⟩ true

/-- A key roll or an alarm on the key ID of a load fails it with LOAD_KEY (R330). -/
def State.loadKeyEvent (s : State) (keys : List Nat) : State :=
  if s.load.keyId ≠ 0 ∧ keys.contains s.load.keyId = true then s.loadFailHere 14 else s

/-- An alarm is counted, logged and signalled, and set for each key ID it names (R390, R391, R400); of those of one cycle the log keeps the lowest class, then the lowest key ID (R404). -/
def State.alarmLog (s : State) (cls cause level addr : Nat) (keys : List Nat) : State :=
  let key := keys.foldl min 255
  let c := s.rd .MP_ALARM_LOG 0 .CLASS
  let s1 := (s.bump .MP_ALARM_COUNT 0 .COUNT 1).logIn .MP_ALARM_LOG 0 [s.ticks]
    [(.CLASS, cls), (.KEY_ID, key), (.CAUSE, cause), (.LEVEL, level)] false
    (decide (cls < c) || (cls == c && decide (key < s.rd .MP_ALARM_LOG 0 .KEY_ID)))
    fun t => (t.wr .MP_ALARM_ADDR 0 .ADDR addr).irq 1
  s1.forEach (keys.filter fun k => k != 0) fun t k => t.wr .MP_KEYSTATE k .ALARM 1

/-- An alarm (R388, R390): logged, and a halt condition for the camps of its key IDs. -/
def State.alarm (s : State) (cls cause level addr : Nat) (keys : List Nat) : State :=
  let s2 := s.alarmLog cls cause level addr keys
  (s2.forEach ((List.range 64).filter fun c => s.campState c != 0 && keys.contains (s.rd .RUN_CAMP_STATUS c .KEY_ID))
    fun t c => t.haltCond c 4).loadKeyEvent keys

/-- The deep address of a node (R383). -/
def nodeAddr (n : Node) : Nat :=
  0x3700000000 + [0x6E0000000, 0x7D7800000, 0x7F3000000, 0x7F6700000, 0x7F6DE0000, 0x7F6EBC000, 0x7F6ED7800].getD n.level 0 + 64 * n.idx

/-- The alarm class of a cause (R388); 0 for none. -/
def alarmClass (cause : Nat) : Nat :=
  match cause with
  | 1 => 1
  | 2 => 1
  | 3 => 3
  | 4 => 3
  | 5 => 2
  | _ => 0

/-- Damage met while a roll runs is none that this roll mends (R394). -/
def State.newDamage (s : State) (n : Node) : State :=
  { s with keys := { s.keys with rolls := s.keys.rolls.map fun e => (e.1, e.2.filter fun m => m != n) } }

/-- A node freezes (R387): it stays in the cache and raises the counter-exhausted alarm once. -/
def State.freezeNode (s : State) (n : Node) : State :=
  if s.deep.frozen.contains n then s
  else
    ({ s with deep := { s.deep with frozen := n :: s.deep.frozen, rolled := tset s.deep.rolled n [] } }.newDamage n).alarm 2 5 (n.level + 1)
      (nodeAddr n) (s.nodeOwners n)

/-- A node fails with NODE_FAIL or TREE_UE (R389): it enters the poison list, or overflows it, and raises its alarm. -/
def State.poisonNode (s : State) (n : Node) (cause : Nat) : State :=
  let d := s.deep
  let s1 :=
    if d.poison.any (fun e => e.1 == n) then s
    else if 64 ≤ d.poison.length then ({ s with deep := { d with overRolled := [] } }.newDamage ⟨7, 0⟩).wr .MP_POISON 0 .OVERFLOW 1
    else ({ s with deep := { d with poison := d.poison ++ [(n, cause)], rolled := tset d.rolled n [] } }.newDamage n).wr .MP_POISON 0 .USED (d.poison.length + 1)
  s1.alarm (alarmClass cause) cause (n.level + 1) (nodeAddr n) (s.nodeOwners n)

/-- A node is written back from the cache (R385, R387): the counter in its parent increments, or the node freezes. -/
def State.backNode (s : State) (n : Node) : State :=
  let v := tget 0 s.deep.nodeCtr n
  if s.deep.frozen.contains n then s
  else if v = 2 ^ 56 - 1 then s.freezeNode n
  else { s with deep := { s.deep with nodeCtr := tset s.deep.nodeCtr n (v + 1), cache := s.deep.cache.erase n } }

/-- The key check of a request (R372, R374, R379, R389, R393): the cause of the bus error, or none. -/
def State.keyFault (s : State) (key addr : Nat) : Option Nat :=
  let p := addr / 4096
  if dataEnd ≤ addr then some 6
  else if s.pageOwner p ≠ key then some 6
  else if key = 0 then none
  else if s.rd .MP_KEYSTATE key .INSTALLED = 0 then some 7
  else if s.rd .MP_KEYSTATE key .ROLLING = 1 then some 8
  else if s.rd .MP_POISON 0 .OVERFLOW = 1 then some 3
  else (s.deep.poison.find? fun e => (nodesAbove p).contains e.1).map (·.2)

/-- The cause with which a channel that does not serve requests answers (R343). -/
def State.chanFault (s : State) (ch : Nat) : Option Nat :=
  match s.rd .DM_STATUS ch .STATE with
  | 3 => none
  | 0 => some 0xA
  | _ => some 9

/-- The reason, if any, for which the part's state refuses an access of a key ID (R343, R374, R387). DEDUCED (log 57), unsafe. -/
def State.deepFault (s : State) (key addr : Nat) (write : Bool) : Option Nat :=
  match s.keyFault key addr with
  | some c => some c
  | none => match s.chanFault (s.chanOf addr) with
    | some c => some c
    | none => if key ≠ 0 ∧ write = true ∧ (nodesAbove (addr / 4096)).any (fun n => s.deep.frozen.contains n) = true then some 5 else none

/-- A request to the page waits: it is under re-encryption, or under initialisation (R375, R386). -/
def State.pageWaits (s : State) (p : Nat) : Bool :=
  s.deep.reenc.contains p || s.deep.inits.any fun r => !r.roll && decide (r.base ≤ p) && decide (p < r.base + r.pages)

/-- The RUNNING camps that own a page (R386). -/
def State.pageCamps (s : State) (p : Nat) : List Nat :=
  (List.range 64).filter fun c => s.campState c == 3 && s.pageOwner p != 0 && s.rd .RUN_CAMP_STATUS c .KEY_ID == s.pageOwner p

/-- The STALLs of a page's re-encryption are raised, one against each RUNNING camp that owns it (R386). -/
def State.raiseReenc (s : State) (p : Nat) : State :=
  s.forEach (s.pageCamps p) fun t c =>
    let isl := 72 + s.chanOf (nodeAddr ⟨0, p⟩)
    let st : Stall := ⟨t.nextId, 7, isl, none, t.ownAddr⟩
    let u := t.raiseStall c 7 isl none
    { u with deep := { u.deep with reencStalls := u.deep.reencStalls ++ [(p, c, st)] } }

/-- The STALLs of a page's re-encryption end. -/
def State.endReenc (s : State) (p frozen : Nat) : State :=
  let t := s.forEach (s.deep.reencStalls.filter fun e => e.1 == p) fun t e => t.releaseStall e.2.1 e.2.2 frozen
  { t with deep := { t.deep with reenc := t.deep.reenc.erase p, reencStalls := t.deep.reencStalls.filter fun e => e.1 != p } }

/-- Re-encryption of a page starts with a write to line `l` (R386): counted, the major counter raised and the minors cleared, every line read and checked, and the STALLs raised. A line that fails its check stays as it is and raises its alarm. -/
def State.startReenc (s : State) (p l : Nat) : State :=
  let d := s.deep
  let s1 := { s with deep :=
    { d with majors := tset d.majors p (tget 0 d.majors p + 1), minors := d.minors.filter (fun e => e.1 / 64 != p), reenc := p :: d.reenc } }
  let s2 := (s1.bump .MP_REENC_COUNT 0 .COUNT 1).raiseReenc p
  s2.forEach (d.badLines.filter fun e => e.1 / 64 == p && e.1 != l) fun t e => t.alarm (alarmClass e.2) e.2 0 (64 * e.1) [t.pageOwner p]

/-- The bytes of one line of a page are written under its protection (R380, R386, R387, R402): the counter first; a cause where the write is refused with FROZEN. -/
def State.putLine (s : State) (a : Nat) (bs : List Byte) : Option Nat × State :=
  let p := a / 4096
  let l := a / 64
  let put := fun (t : State) => { t with deep := { t.deep.putBytes a bs with badLines := tdel t.deep.badLines l } }
  if s.pageOwner p = 0 then (none, put s)
  else if (nodesAbove p).any (fun n => s.deep.frozen.contains n) then (some 5, s)
  else
    let m := tget 0 s.deep.minors l
    if m = 127 then
      if tget 0 s.deep.majors p = 2 ^ 64 - 1 then (some 5, ((s.raiseReenc p).freezeNode ⟨0, p⟩).endReenc p 0)
      else (none, put (s.startReenc p l))
    else (none, put { s with deep := { s.deep with minors := tset s.deep.minors l (m + 1) } })

/-- An interval of bytes cut at line borders: address and length of each part. -/
def linesOf (a n : Nat) : List (Nat × Nat) :=
  (List.range (n / 64 + 2)).filterMap fun i =>
    let l := a / 64 + i
    let lo := max a (64 * l)
    let hi := min (a + n) (64 * l + 64)
    if lo < hi then some (lo, hi - lo) else none

/-- A bus error whose cause carries an alarm raises it (R388, R390); FROZEN only at the freeze. -/
def State.faultAlarm (s : State) (cause addr : Nat) : State :=
  if cause = 1 ∨ cause = 2 ∨ cause = 3 ∨ cause = 4 then s.alarm (alarmClass cause) cause 0 (addr / 64 * 64) [s.pageOwner (addr / 4096)] else s

/-- The bytes an engine reads. -/
def State.deepRead (s : State) (a n : Nat) : List Byte := s.deep.readBytes a n

/-- The entry of a row-activation table with the lowest count, lowest index first (R351). -/
def lowestEntry (l : List RowEntry) : Nat :=
  (l.zipIdx.foldl (fun b e => if e.1.count < b.1 then (e.1.count, e.2) else b) (2 ^ 64, 0)).2

/-- An activation counted in an entry (R351). -/
def RowEntry.count1 (e : RowEntry) (src : Nat) : RowEntry :=
  { e with count := e.count + 1, pairs :=
      if e.pairs.any (fun q => q.1 == src) then e.pairs.map fun q => if q.1 = src then (q.1, q.2 + 1) else q
      else if e.pairs.length < 4 then e.pairs ++ [(src, 1)] else e.pairs }

/-- The row table after an activation (R351); an empty entry has count 0 and no pairs. -/
def activate (l : List RowEntry) (row src : Nat) : List RowEntry :=
  let t := l ++ List.replicate (16 - l.length) ⟨2 ^ 17, 0, []⟩
  match t.findIdx? fun e => e.row == row with
  | some i => t.modify i fun e => e.count1 src
  | none =>
    let i := lowestEntry t
    t.set i ⟨row, (t.getD i ⟨0, 0, []⟩).count + 1, [(src, 1)]⟩

/-- The offender of an entry: the source with the highest pair count, lowest ID first (R352). -/
def offender (e : RowEntry) : Nat :=
  (e.pairs.foldl (fun b q => if b.2 < q.2 ∨ (b.2 = q.2 ∧ q.1 < b.1) then q else b) (127, 0)).1

/-- The count of a row in a table; 0 without an entry. -/
def rowCount (l : List RowEntry) (row : Nat) : Nat :=
  match l.find? fun e => e.row == row with
  | some e => e.count
  | none => 0

/-- A throttle holds an activation of a source in a bank (R352, R353): THROTTLE_NS has not passed since its last one there. -/
def State.throttleHolds (s : State) (b : BankId) (src : Nat) : Bool :=
  s.deep.throttled.any fun t => t.bank == b && t.src == src && decide (2 * (s.ticks - t.last) < s.rd .DM_RH_CFG b.chan .THROTTLE_NS)

/-- A refresh holds a bank (R349). -/
def State.refreshHolds (s : State) (b : BankId) : Bool :=
  s.deep.refreshing.any fun f => f.chan == b.chan && f.sub == b.sub && (f.bank.isNone || f.bank == some b.bank)

/-- A row is activated by a source (R351, R352): counted; at the threshold logged, the offender throttled, and an RFM issued where enabled. Of the rows of one bank that reach it in one cycle the log keeps the lowest (R366). -/
def State.activateRow (s : State) (b : BankId) (row src : Nat) : State :=
  let t := activate (tget [] s.deep.rows b) row src
  let limit := max 1 (s.rd .DM_RH_CFG b.chan .THRESH)
  let s1 := { s with deep := { s.deep with
    rows := tset s.deep.rows b t, openRows := tset s.deep.openRows b row,
    throttled := s.deep.throttled.map fun e => if e.bank = b ∧ e.src = src then { e with last := s.ticks } else e } }
  match t.find? fun e => e.row == row with
  | none => s1
  | some e =>
    if rowCount (tget [] s.deep.rows b) row < limit ∧ limit ≤ e.count then
      let s2 := (s1.bump .DM_RH_COUNT b.chan .COUNT 1).logIn .DM_RH_LOG b.chan [b.sub, b.bank, s.ticks]
        [(.BANK, b.bank), (.SUB, b.sub), (.ROW, row), (.SOURCE, offender e)] false (decide (row < s.rd .DM_RH_LOG b.chan .ROW)) id
      let d := s2.deep
      { s2 with deep := { d with throttled := ⟨b, row, offender e, s.ticks⟩ :: d.throttled,
                                 rfm := if s.rd .DM_RH_CFG b.chan .RFM_EN = 1 then (b, row, offender e) :: d.rfm else d.rfm } }
    else s1

/-- How a request ended: the cause of its bus error, and the bytes read. -/
structure Served where
  cause : Option Nat
  bytes : List Byte
  deriving DecidableEq, Repr

/-- A posted write that its channel's state drops is counted, and meets no bus error (R343). -/
def State.dropPosted (s : State) (r : DeepReq) (cause : Nat) : State :=
  if r.posted && r.data.isSome then
    if cause = 9 then s.bump .DM_DROP (s.chanOf r.addr) .COUNT 1
    else if cause = 0xA then s.bump .NOC_PD_DROPS 0 .COUNT 1 else s
  else s

/-- The node cache holds 16,384 nodes (R385): frozen nodes stay, and of the others those read last. DESIGN CHOICE (log 93), safe. -/
def trimCache (cache frozen : List Node) : List Node :=
  if cache.length ≤ 16384 then cache
  else (cache.filter fun n => frozen.contains n) ++ (cache.filter fun n => !frozen.contains n).take (16384 - (cache.filter fun n => frozen.contains n).length)

/-- The counter tree's part of a request to an owned page (R385, R389): corrected bursts counted, nodes that the cache writes back or drops, nodes not yet held read and checked. Gives the cause of the first that fails. -/
def State.checkNodes (s : State) (p : Nat) (o : DeepObs) : Option Nat × State :=
  let s0 := s.bump .MP_TREE_CE 0 .COUNT o.treeCe
  let need := (nodesAbove p).filter fun n => !s0.deep.cache.contains n
  match o.nodes.find? fun e => need.contains e.1 && (e.2 == 2 || e.2 == 3) with
  | some e => (some e.2, (if e.2 = 3 then s0.bump .DM_ECC_UE (s0.chanOf (nodeAddr e.1)) .COUNT 1 else s0).poisonNode e.1 e.2)
  | none =>
    let s1 := { s0 with deep := { s0.deep with cache := trimCache (need ++ s0.deep.cache) s0.deep.frozen } }
    let s2 := s1.forEach (o.backs.filter fun n => s1.deep.cache.contains n) State.backNode
    (none, s2.forEach (o.drops.filter fun n => !s2.deep.frozen.contains n) fun t n => { t with deep := { t.deep with cache := t.deep.cache.erase n } })

/-- The check of a line that is read, or written in part (R361, R381, R382, R388): the cause it fails with. -/
def State.checkLine (s : State) (a owner : Nat) (o : DeepObs) : Option Nat × State :=
  let ch := s.chanOf a
  let l := a / 64
  match s.deep.badLines.find? fun e => e.1 == l with
  | some e => (some e.2, (if e.2 = 4 then s.bump .DM_ECC_UE ch .COUNT 1 else s).alarm (alarmClass e.2) e.2 0 (64 * l) [owner])
  | none =>
    let bad := fun (t : State) (cause : Nat) =>
      { t with deep := { t.deep with badLines := (l, cause) :: t.deep.badLines } }.alarm (alarmClass cause) cause 0 (64 * l) [owner]
    if o.line = 1 then (none, s.bump .DM_ECC_CE ch .COUNT 1)
    else if o.line = 2 then (some 4, bad (s.bump .DM_ECC_UE ch .COUNT 1) 4)
    else if o.line = 3 ∧ owner ≠ 0 then (some 1, bad s 1)
    else (none, s)

/-- One line of a request is served (R336, R343, R361, R374, R382, R385): the key check, the channel, the tree, the line, and the write. -/
def State.serveLine (s : State) (r : DeepReq) (o : DeepObs) (a n : Nat) (bs : Option (List Byte)) : Served × State :=
  match s.keyFault r.key a with
  | some c => (⟨some c, []⟩, s.faultAlarm c a)
  | none =>
    match s.chanFault (s.chanOf a) with
    | some c => (⟨if r.posted && r.data.isSome then none else some c, []⟩, s.dropPosted r c)
    | none =>
      let s0 := if o.activates then s.activateRow (s.bankOf a) (rowOf a) r.src else s
      let t := if r.key = 0 then (none, s0) else s0.checkNodes (a / 4096) o
      match t.1 with
      | some c => (⟨some c, []⟩, t.2)
      | none =>
        let full := bs.isSome && n == 64
        let u := if full then (none, t.2) else t.2.checkLine a r.key o
        match u.1 with
        | some c => (⟨some c, []⟩, u.2)
        | none => match bs with
          | none => (⟨none, u.2.deepRead a n⟩, u.2)
          | some x => let w := u.2.putLine a x; (⟨w.1, []⟩, w.2)

/-- A request is served line by line, with what the devices answer to each; it ends at the first line that fails. -/
def State.serveWith (s : State) (r : DeepReq) (obs : State → Nat → DeepObs) : Served × State :=
  let n := match r.data with | some bs => bs.length | none => r.len
  (linesOf r.addr n).foldl (fun acc e =>
    match acc.1.cause with
    | some _ => acc
    | none =>
      let w := acc.2.serveLine r (obs acc.2 e.1) e.1 e.2 (r.data.map fun bs => (bs.drop (e.1 - r.addr)).take e.2)
      (⟨w.1.cause, acc.1.bytes ++ w.1.bytes⟩, w.2)) (⟨none, []⟩, s)

/-- A request is served (R336). -/
def State.serve (s : State) (r : DeepReq) (o : DeepObs) : Served × State := s.serveWith r fun _ _ => o

/-- Nothing went wrong and nothing was held back. -/
def DeepObs.clean : DeepObs := ⟨0, [], 0, [], [], false, []⟩

/-- What the devices answer to an access of an engine, which no command describes: nothing goes wrong that has not gone wrong before, and the access activates its row unless that row was the last activated in its bank. -/
def State.quietObs (s : State) (a : Nat) : DeepObs :=
  { DeepObs.clean with activates := tget (2 ^ 17) s.deep.openRows (s.bankOf a) != rowOf a }

/-- An access that an engine makes as a part of its command, under its source ID (R335). DEDUCED (log 91), unsafe. -/
def State.engine (s : State) (r : DeepReq) : Served × State := s.serveWith r State.quietObs

/-- A bank serves nothing: a refresh or an RFM is in progress on it (R337, R349). -/
def State.bankHolds (s : State) (b : BankId) : Bool := s.refreshHolds b || s.deep.rfm.any fun e => e.1 == b

/-- An access by a source to a line has to wait: its page is under re-encryption or initialisation (R375, R386), its bank serves nothing, or a throttle holds its activation (R352). One that the key check or the channel refuses waits for nothing. -/
def State.lineWaits (s : State) (src key a : Nat) (activates : Bool) : Bool :=
  (s.keyFault key a).isNone && (s.chanFault (s.chanOf a)).isNone
    && (s.pageWaits (a / 4096) || s.bankHolds (s.bankOf a) || (activates && s.throttleHolds (s.bankOf a) src))

/-- One access comes before another in the merge order (R360). -/
def DeepIssue.before (a b : DeepIssue) : Bool :=
  decide (a.cycle < b.cycle) || (a.cycle == b.cycle && (decide (a.step < b.step) || (a.step == b.step && (decide (a.lpitch < b.lpitch)
    || (a.lpitch == b.lpitch && (decide (a.pos < b.pos) || (a.pos == b.pos && decide (a.entry < b.entry))))))))

/-- The first access in the merge order. -/
def firstIssue (l : List DeepIssue) : Option DeepIssue :=
  l.foldl (fun b i => match b with | none => some i | some x => some (if i.before x then i else x)) none

/-- Every die group of the camp has executed the step at which the access issued, so that nothing that precedes it in the merge order is still to come (R360); a halted camp executes none (R368). -/
def State.merged (s : State) (c : Nat) (i : DeepIssue) : Bool :=
  s.campState c != 3 || (s.campDies c).all fun d => decide (i.cycle < (s.camp c).cycle.toNat) || decide (i.step < posCode (s.group c d).pos)

/-- The first scheduled access of a camp that waits at a channel (R360). -/
def State.schedNext (s : State) (c ch : Nat) : Option DeepIssue := firstIssue ((s.camp c).issues.filter fun i => s.chanOf i.addr == ch)

/-- A scheduled access of the camp that the channel can serve now. -/
def State.schedReady (s : State) (c ch : Nat) (activates : State → Nat → Bool) : Option DeepIssue :=
  (s.schedNext c ch).filter fun i => s.merged c i && !s.lineWaits c (s.rd .RUN_CAMP_STATUS c .KEY_ID) i.addr (activates s i.addr)

/-- The channel has a scheduled access to serve ahead of every request from sources 64 to 86 (R337). -/
def State.schedFirst (s : State) (ch : Nat) : Bool :=
  (List.range 64).any fun c => (s.schedReady c ch fun t a => (t.quietObs a).activates).isSome

/-- The lines of a request. -/
def reqLines (r : DeepReq) : List Nat := (linesOf r.addr (match r.data with | some bs => bs.length | none => r.len)).map (·.1)

/-- Two requests of one source meet at a channel, which completes them in order (R336). -/
def State.ordered (s : State) (a b : DeepReq) : Bool := a.src == b.src && (reqLines a).any fun x => (reqLines b).any fun y => s.chanOf x == s.chanOf y

/-- A request of sources 64 to 86 has to wait (R336, R337): for its lines, for a scheduled access, or for one of `earlier`. -/
def State.reqWaits (s : State) (r : DeepReq) (o : DeepObs) (earlier : List DeepReq) : Bool :=
  (reqLines r).any (fun a => s.lineWaits r.src r.key a o.activates || s.schedFirst (s.chanOf a)) || earlier.any (s.ordered r)

/-- A request arrives at its controller (R336): served, or held behind what it waits for. -/
def State.submit (s : State) (r : DeepReq) (o : DeepObs) : Option Served × State :=
  if s.reqWaits r o (s.deep.held.map (·.req)) then (none, s.modDeep fun d => { d with held := d.held ++ [⟨r, o⟩] })
  else
    let w := s.serve r o
    (some w.1, w.2)

/-- Bytes written by an engine: the cause of the bus error at which the write ended, or none. -/
def State.deepWrite (s : State) (src key a : Nat) (bs : List Byte) : Option Nat × State :=
  let w := s.engine ⟨src, key, a, bs.length, some bs, src == 81 || src == 82⟩
  (w.1.cause, w.2)

/-- Bytes read by an engine: the cause of the bus error at which the read ended, or none. -/
def State.deepFetch (s : State) (src key a n : Nat) : Option Nat × State :=
  let w := s.engine ⟨src, key, a, n, none, false⟩
  (w.1.cause, w.2)

end Sys2Proof.Machine
end

