-- ==== Sys2Proof/Machine/Acq.lean ====
section
/-! DEFINITION. Acquisition (R579 to R618, R728): channels, comparators, decoders, the trigger sequencer, captures, lantern pins, trigger-out and input conditioning. -/

namespace Sys2Proof.Machine

/-- Acquisition changed. -/
def State.modAcq (s : State) (f : Acq → Acq) : State := { s with acq := f s.acq }

/-- A capture unit. -/
def State.unit (s : State) (u : Nat) : AcqUnit := tget AcqUnit.reset s.acq.units u

/-- A capture unit changed. -/
def State.modUnit (s : State) (u : Nat) (f : AcqUnit → AcqUnit) : State :=
  s.modAcq fun a => { a with units := tmod AcqUnit.reset a.units u f }

/-- The state of a capture unit (R595). -/
def State.unitState (s : State) (u : Nat) : Nat := s.rd .ACQ_CTRL u .STATE

/-- The camp that holds a capture unit. -/
def State.unitCamp (s : State) (u : Nat) : Option Nat :=
  if s.rd .ACQ_CTRL u .OWNED = 1 then some (s.rd .ACQ_CTRL u .CAMP) else none

/-- The camp's block of channels on an E-die (R581). -/
def State.acqBlock (s : State) (c d : Nat) : Option AcqBlock := s.acq.blocks.find? fun b => b.camp == c && b.die == d

/-- The value a bit channel samples (R579). -/
def State.srcBit (s : State) (x : AcqSrc) : Bool :=
  let b := (s.cluster (s.physCluster x.camp x.lcl)).bp x.bp
  if x.mem then b.state.at x.addr else b.bits.at x.addr

/-- The value a word channel samples (R579, R580): a cluster-memory word as it stands at B2. -/
def State.srcWord (s : State) (x : AcqSrc) : Word :=
  let cl := s.cluster (s.physCluster x.camp x.lcl)
  if x.mem then (cl.word x.addr).decode.1 else cl.wreg x.addr

/-- Bit channel `n` of an E-die for a camp; 0 outside the camp's block (R585). -/
def State.bitChan (s : State) (c d n : Nat) : Bool :=
  match s.acqBlock c d with
  | none => false
  | some b =>
    if b.bitBase ≤ n ∧ n < b.bitBase + b.bits then
      match s.acq.bits.find? fun e => e.1 == 2048 * d + n with
      | some e => e.2.camp == c && s.srcBit e.2
      | none => false
    else false

/-- Word channel `n` of an E-die for a camp; 0 outside the camp's block. -/
def State.wordChan (s : State) (c d n : Nat) : Word :=
  match s.acqBlock c d with
  | none => 0
  | some b =>
    if b.wordBase ≤ n ∧ n < b.wordBase + b.words then
      match s.acq.words.find? fun e => e.1 == 32 * d + n with
      | some e => if e.2.camp = c then s.srcWord e.2 else 0
      | none => 0
    else 0

/-- Bits read as a number, bit 0 first. -/
def bitsNat (l : List Bool) : Nat := l.foldr (fun b n => bit b + 2 * n) 0

/-- The value S of a comparator (R585), for comparator 16 × d + k. -/
def State.cmpValue (s : State) (i : Nat) : Nat :=
  let c := s.rd .ACQ_CMP_CFG i .CAMP
  let src := s.rd .ACQ_CMP_CFG i .SRC
  if s.rd .ACQ_CMP_CFG i .WORD = 1 then (s.wordChan c (i / 16) src).toNat
  else bitsNat ((List.range 40).map fun j => s.bitChan c (i / 16) (src + j))

/-- A comparator matches the sample (R585). -/
def State.cmpMatches (s : State) (i : Nat) : Bool :=
  (s.cmpValue i ^^^ s.rd .ACQ_CMP_VAL i .VALUE) &&& s.rd .ACQ_CMP_MASK i .MASK == 0

/-- The comparators of a camp that run. -/
def State.campCmps (s : State) (c : Nat) : List Nat :=
  (List.range 128).filter fun i => s.rd .ACQ_CMP_CFG i .OWNED == 1 && s.rd .ACQ_CMP_CFG i .CAMP == c && s.rd .ACQ_CMP_CFG i .EN == 1

/-- The comparators of a camp that hit in the sample (R585), and the state with the matches kept for ENTER. -/
def State.cmpHits (s : State) (c : Nat) : List Nat × State :=
  let own := s.campCmps c
  let m := own.filter s.cmpMatches
  (m.filter fun i => s.rd .ACQ_CMP_CFG i .MODE == 0 || !s.acq.matched.contains i,
    s.modAcq fun a => { a with matched := (a.matched.filter fun i => !own.contains i) ++ m })

/-- A decoder's parameters (R586): PARAM bits. -/
def State.decParam (s : State) (j lo w : Nat) : Nat := bitsOf (s.rd .ACQ_DEC_PARAM j .PARAM) lo w

/-- MSB-first bits as a number. -/
def msbNat (l : List Bool) : Nat := l.foldl (fun n b => 2 * n + bit b) 0

/-- A UART decoder's sample (R586): the state after it, and a completed field. Bit k of the frame is sampled DIV × k + DIV div 2 cycles after the falling edge. DEDUCED (log 46), unsafe. -/
def uartStep (div dbits parity : Nat) (x : AcqDec) (line : Bool) : AcqDec × Option Nat :=
  let start := !x.busy && (x.prev.headD true) && !line
  if x.busy || start then
    let run := if start then 0 else x.run + 1
    let p := if parity = 1 ∨ parity = 2 then 1 else 0
    let total := dbits + p + 2
    let now := (List.range total).filter fun k => div * k + div / 2 == run
    let got := (if start then [] else x.got) ++ now.map fun _ => line
    if total ≤ got.length then
      let data := (got.drop 1).take dbits
      let ones := (data ++ (got.drop (1 + dbits)).take p).countP id
      let bad := p == 1 && (ones % 2 != (if parity = 1 then 0 else 1))
      (⟨[line], false, 0, 0, [], false⟩, some (bitsNat data % 512 + 512 * bit bad + 1024 * bit (!(got.getD (total - 1) true))))
    else (⟨[line], true, run, 0, got, false⟩, none)
  else (⟨[line], false, 0, 0, [], false⟩, none)

/-- An SPI decoder's sample (R586): data is taken at the leading edge with CPHA = 0, at the trailing edge with CPHA = 1. -/
def spiStep (width : Nat) (cpol cpha : Bool) (x : AcqDec) (clk dat cs : Bool) : AcqDec × Option Nat :=
  let old := x.prev.headD clk
  let edge := old != clk && (clk == (cpol == cpha))
  let keep : List Bool := if cs then [] else x.got
  if !cs && edge && width != 0 then
    let got := keep ++ [dat]
    if width ≤ got.length then (⟨[clk], false, 0, 0, [], false⟩, some (msbNat got % 2 ^ 40))
    else (⟨[clk], true, 0, 0, got, false⟩, none)
  else (⟨[clk], x.busy, 0, 0, keep, false⟩, none)

/-- An I2C decoder's sample (R586): START and STOP are changes of SDA while SCL is high, and bits are taken at rising SCL. -/
def i2cStep (x : AcqDec) (scl sda : Bool) : AcqDec × Option Nat :=
  let pc := x.prev.getD 0 scl
  let pd := x.prev.getD 1 sda
  if pc && scl && pd && !sda then (⟨[scl, sda], true, 0, 0, [], true⟩, none)
  else if pc && scl && !pd && sda then (⟨[scl, sda], false, 0, 0, [], false⟩, none)
  else if x.busy && !pc && scl then
    if x.got.length = 8 then
      (⟨[scl, sda], true, 0, 0, [], false⟩, some (msbNat x.got + 256 * bit sda + 512 * bit x.first))
    else (⟨[scl, sda], true, 0, 0, x.got ++ [sda], x.first⟩, none)
  else (⟨[scl, sda], x.busy, 0, 0, x.got, x.first⟩, none)

/-- A FRAMED decoder's sample (R586): hunting with the bits seen, then skipping, then collecting. -/
def framedStep (sync slen offset width : Nat) (x : AcqDec) (dat strobe : Bool) : AcqDec × Option Nat :=
  if !strobe then (x, none)
  else if !x.busy then
    let seen := (x.got ++ [dat]).reverse.take slen |>.reverse
    if seen.length = slen ∧ msbNat seen = sync % 2 ^ slen then (⟨[], true, 0, offset, [], false⟩, none)
    else (⟨[], false, 0, 0, seen, false⟩, none)
  else if x.skip ≠ 0 then ({ x with skip := x.skip - 1 }, none)
  else
    let got := x.got ++ [dat]
    if width ≤ got.length then (⟨[], false, 0, 0, [], false⟩, some (msbNat got % 2 ^ 40))
    else ({ x with got := got }, none)

/-- One bit channel named module-wide (R615). -/
def State.namedBit (s : State) (c n : Nat) : Bool := s.bitChan c (n / 2048) (n % 2048)

/-- A decoder's sample by its format (R586). -/
def State.decStep (s : State) (c j : Nat) : AcqDec × Option Nat :=
  let x := tget AcqDec.reset s.acq.decs j
  let b0 := s.namedBit c (s.rd .ACQ_DEC_SRC01 j .SRC0)
  let b1 := s.namedBit c (s.rd .ACQ_DEC_SRC01 j .SRC1)
  let b2 := s.namedBit c (s.rd .ACQ_DEC_SRC2 j .SRC2)
  match s.rd .ACQ_DEC_CFG j .FORMAT with
  | 0 => uartStep (s.decParam j 0 12) (s.decParam j 12 4) (s.decParam j 16 2) x b0
  | 1 => spiStep (s.decParam j 0 6) (s.decParam j 6 1 == 1) (s.decParam j 7 1 == 1) x b0 b1 b2
  | 2 => i2cStep x b0 b1
  | _ => framedStep (s.decParam j 0 16) (s.decParam j 16 4 + 1) (s.decParam j 20 6) (s.decParam j 26 6) x b0 b1

/-- One decoder takes the sample (R586 to R588): whether it hits, and the state after. -/
def State.runDec (s : State) (c j : Nat) : Bool × State :=
  let r := s.decStep c j
  let s1 := s.modAcq fun a => { a with decs := tset a.decs j r.1 }
  match r.2 with
  | none => (false, s1)
  | some f => ((f ^^^ s.rd .ACQ_DEC_MATCH j .MATCH) &&& s.rd .ACQ_DEC_MASK j .MASK == 0, s1.wr .ACQ_DEC_LAST j .FIELD f)

/-- The decoders of a camp that run, with HOST = 0 (R588). -/
def State.campDecs (s : State) (c : Nat) : List Nat :=
  (List.range 8).filter fun j => s.rd .ACQ_DEC_CFG j .OWNED == 1 && s.rd .ACQ_DEC_CFG j .CAMP == c && s.rd .ACQ_DEC_CFG j .HOST == 0

/-- The decoders of a camp that hit in the sample. -/
def State.decHits (s : State) (c : Nat) : List Nat × State :=
  (s.campDecs c).foldl (fun acc j =>
    let r := acc.2.runDec c j
    (if r.1 then acc.1 ++ [j] else acc.1, r.2)) ([], s)

/-- A condition slot hits (R590, R591). -/
def State.slotHits (s : State) (u c : Nat) (cmps decs : List Nat) (i : Nat) : Bool :=
  let idx := s.rd .ACQ_COND (32 * u + i) .INDEX
  let ev := (s.unit u).events
  match s.rd .ACQ_COND (32 * u + i) .SRC with
  | 1 => cmps.contains idx
  | 2 => decs.contains idx || (ev.contains (.dec idx) && s.rd .ACQ_DEC_CFG idx .OWNED == 1 && s.rd .ACQ_DEC_CFG idx .CAMP == c)
  | 3 => ev.contains .trigIn
  | 4 => ev.contains (.cmp idx)
  | 5 => true
  | _ => false

/-- HITMASK of a sample (R592). -/
def State.hitMask (s : State) (u c : Nat) (cmps decs : List Nat) : Nat :=
  (List.range 32).foldl (fun m i => if s.slotHits u c cmps decs i then m + 2 ^ i else m) 0

/-- The index of rule r of state st of unit u. -/
def ruleIx (u st r : Nat) : Nat := 32 * u + 4 * st + r

/-- A sequencer enters a state: the counts of its rules are zero (R592). -/
def State.enterSeq (s : State) (u st : Nat) : State :=
  (s.forEach (List.range 4) fun t r => t.wr .ACQ_RULE (ruleIx u st r) .PROGRESS 0).wr .ACQ_SEQ u .STATE st

/-- The rule that acts on a HITMASK (R592): the lowest slot that hits and is enabled, and its lowest rule. -/
def State.actingRule (s : State) (u m : Nat) : Option Nat :=
  let st := s.rd .ACQ_SEQ u .STATE
  let rules := (List.range 4).filter fun r => s.rd .ACQ_RULE (ruleIx u st r) .VALID == 1
  ((List.range 32).find? fun i => m.testBit i && rules.any fun r => s.rd .ACQ_RULE (ruleIx u st r) .COND == i).bind
    fun i => (rules.find? fun r => s.rd .ACQ_RULE (ruleIx u st r) .COND == i).map (ruleIx u st)

/-- The sequencer's step on a HITMASK (R592): whether a rule triggers, and the state after. -/
def State.seqStep (s : State) (u m : Nat) : Bool × State :=
  match s.actingRule u m with
  | none => (false, s)
  | some i =>
    let want := s.rd .ACQ_RULE i .COUNT
    let n := s.rd .ACQ_RULE i .PROGRESS + 1
    if (if want = 0 then 4096 else want) ≤ n then (s.rd .ACQ_RULE i .TRIG == 1, s.enterSeq u (s.rd .ACQ_RULE i .NEXT))
    else (false, s.wr .ACQ_RULE i .PROGRESS n)

/-- Pages of one buffer of the ring, its descriptor page among them (R594). -/
def State.bufPages (s : State) (u : Nat) : Nat := s.rd .ACQ_RING_SIZE u .PAGES / (s.rd .ACQ_CTRL u .BUFS + 1)

/-- Byte address of the current buffer. -/
def State.bufAddr (s : State) (u : Nat) : Nat :=
  4096 * (s.rd .ACQ_RING u .BASE + s.rd .ACQ_SEQ u .BUF * s.bufPages u)

/-- A record header (R599). -/
def recHead (type g hi cyc : Nat) : Nat := type + 16 * g + 128 * (hi % 2 ^ 25) + 2 ^ 32 * (cyc % 2 ^ 32)

/-- The bytes that a share holds. -/
def AcqUnit.backlog (x : AcqUnit) (g : Nat) : Nat := ((x.recs.filter fun r => r.g == g).map fun r => 8 * r.slots.length).sum

/-- A record as it takes its place on the page being filled. -/
def AcqUnit.place (x : AcqUnit) (g : Nat) (ws : List Nat) : AcqUnit :=
  { x with recs := x.recs ++ [⟨g, x.page, x.slot, ws⟩], slot := x.slot + ws.length }

/-- A new data page begins, with its SYNC (R595, R599): the next circularly of `n`, the oldest given up while ARMED; after the trigger a buffer with no page left is full. A PAD closes the page before. DEDUCED (log 45), unsafe. -/
def AcqUnit.newPage (x : AcqUnit) (n : Nat) (armed : Bool) (g cyc : Nat) : AcqUnit :=
  if n = 0 ∨ (!armed && decide (n ≤ x.pages.length)) = true then { x with full := !armed }
  else
    let p := if x.pages.isEmpty && x.slot == 0 then 0 else (x.page + 1) % n
    let y := if x.slot ≠ 0 ∧ x.slot < 512 then x.place g [recHead 0 g 0 cyc] else x
    let kept := if y.pages.length < n then y.pages else y.pages.drop 1
    { y with pages := kept ++ [(p, cyc)], page := p, slot := 0, stored := [] }.place g [recHead 1 g 0 cyc, cyc]

/-- A record goes to the ring (R599). -/
def AcqUnit.put (x : AcqUnit) (n : Nat) (armed : Bool) (g cyc : Nat) (ws : List Nat) : AcqUnit :=
  if x.full then x
  else if x.pages.isEmpty || decide (512 < x.slot + ws.length) then
    let y := x.newPage n armed g cyc
    if y.full || y.pages.isEmpty then y else y.place g ws
  else x.place g ws

/-- A share's exponent changes by its backlog (R583), with a DECIM record. -/
def AcqUnit.decimate (x : AcqUnit) (n : Nat) (armed : Bool) (cyc g : Nat) : AcqUnit :=
  match x.shares.find? fun e => e.1 == g with
  | none => x
  | some (_, sh) =>
    let b := x.backlog g
    let k := if 3 * sh.size < 4 * b ∧ sh.k < 15 then sh.k + 1
      else if 4 * b < sh.size ∧ 256 ≤ sh.since ∧ sh.k ≠ 0 then sh.k - 1 else sh.k
    if k = sh.k then x
    else { x with shares := tset x.shares g { sh with k := k, since := 0 }, kMax := max x.kMax k }.put n armed g cyc [recHead 5 g k cyc]

/-- Once a share has space again, one LOST record gives the samples dropped (R583). -/
def AcqUnit.tellLost (x : AcqUnit) (n : Nat) (armed : Bool) (cyc g : Nat) : AcqUnit :=
  match x.shares.find? fun e => e.1 == g with
  | none => x
  | some (_, sh) =>
    if sh.dropped ≠ 0 ∧ x.backlog g + 8 ≤ sh.size then
      { x with shares := tset x.shares g { sh with dropped := 0 } }.put n armed g cyc [recHead 6 g sh.dropped cyc]
    else x

/-- A word read as signed or unsigned, as a MINMAX channel compares it (R582). -/
def asInt (signed : Bool) (w : Nat) : Int := if signed then (BitVec.ofNat 40 w).toInt else w

/-- The number of groups and words of a die group that store, with their values. -/
structure AcqSample where
  g : Nat
  groups : List (Nat × Nat)
  words : List (Nat × Nat)
  deriving DecidableEq, Repr

/-- What a camp's front ends sample (R579), by die group: the 64 values of every group and the value of every word channel. -/
def State.acqSamples (s : State) (c : Nat) : List AcqSample :=
  (s.acq.blocks.filter fun b => b.camp == c).map fun b =>
    ⟨b.g, (List.range (b.bits / 64)).map fun k => (k, bitsNat ((List.range 64).map fun i => s.bitChan c b.die (b.bitBase + 64 * k + i))),
      (List.range b.words).map fun w => (w, (s.wordChan c b.die (b.wordBase + w)).toNat)⟩

/-- The records of a sample's bit groups (R582 to R584): `all` stores every group not OFF. -/
def AcqUnit.groupRecs (x : AcqUnit) (m : AcqSample) (k cyc : Nat) (all : Bool) : List (Nat × Nat) :=
  m.groups.filter fun e =>
    let mode := tget 0 x.groupModes (m.g, e.1)
    let due := cyc % 2 ^ k == 0
    if mode = 1 then all || due
    else if mode = 2 then all || (due && (x.stored.find? fun t => t.1 == (m.g, e.1)).all fun t => t.2 != e.2)
    else all && mode != 0

/-- A MINMAX channel takes a sample (R582, R583): its interval, and the record where it ends. -/
def minmaxStep (old : Option (Nat × Nat × Nat)) (interval k : Nat) (signed : Bool) (v : Nat) : Option (Nat × Nat × Nat) × Option (Nat × Nat) :=
  let (n, lo, hi) := match old with
    | none => (1, v, v)
    | some (n, lo, hi) => (n + 1, if asInt signed v < asInt signed lo then v else lo, if asInt signed hi < asInt signed v then v else hi)
  if interval * 2 ^ k ≤ n then (none, some (lo, hi)) else (some (n, lo, hi), none)

/-- What the sample of a die group stores: the intervals after it, and the records of its word channels. -/
def AcqUnit.sampleRecs (x : AcqUnit) (m : AcqSample) (k cyc : Nat) (all : Bool) : AcqUnit × List (List Nat) :=
  m.words.foldl (fun acc e =>
    match tget (0, 0, false) acc.1.wordModes (m.g, e.1) with
    | (1, _, _) => if all || cyc % 2 ^ k == 0 then (acc.1, acc.2 ++ [[recHead 3 m.g e.1 cyc, e.2]]) else acc
    | (3, iv, sg) =>
      let old := (acc.1.spans.find? fun t => t.1 == (m.g, e.1)).map (·.2)
      let r := minmaxStep old iv k sg e.2
      let y := { acc.1 with spans := match r.1 with
                                     | none => tdel acc.1.spans (m.g, e.1)
                                     | some t => tset acc.1.spans (m.g, e.1) t }
      let rec1 := if all then [[recHead 3 m.g e.1 cyc, e.2]] else []
      (y, acc.2 ++ rec1 ++ match r.2 with
        | none => []
        | some (lo, hi) => [[recHead 4 m.g e.1 cyc, lo, hi]])
    | _ => acc) (x, [])

/-- The sample of a die group is stored, groups first, or dropped where its share is full (R583); the values stored for CHANGE are those on the page being filled (R582). -/
def AcqUnit.storeSample (x : AcqUnit) (n : Nat) (armed : Bool) (cyc : Nat) (all : Bool) (m : AcqSample) : AcqUnit × Nat :=
  match x.shares.find? fun e => e.1 == m.g with
  | none => (x, 0)
  | some (_, sh) =>
    let x1 := { x with shares := tset x.shares m.g { sh with since := sh.since + 1 } }
    let keep := x1.groupRecs m sh.k cyc all
    let r := x1.sampleRecs m sh.k cyc all
    if sh.size < r.1.backlog m.g + 16 * keep.length + 8 * (r.2.map List.length).sum then
      ({ r.1 with shares := tset r.1.shares m.g { sh with since := sh.since + 1, dropped := sh.dropped + 1 }, lost := r.1.lost + 1 }, 1)
    else
      let y := keep.foldl (fun t e =>
        let z := t.put n armed m.g cyc [recHead 2 m.g e.1 cyc, e.2]
        { z with stored := tset z.stored (m.g, e.1) e.2 }) r.1
      (r.2.foldl (fun t ws => t.put n armed m.g cyc ws) y, 0)

/-- The descriptor page of a buffer that closes (R600), COMPLETE left to the end. -/
def State.descriptor (s : State) (u code : Nat) : List Byte :=
  let x := s.unit u
  let first := (x.pages.head?.map (·.2)).getD 0
  leBytes 0x51414351 4 ++ leBytes u 1 ++ leBytes code 1 ++ leBytes x.kMax 1 ++ leBytes 0 1
    ++ leBytes ((x.trig.map (·.1)).getD (2 ^ 64 - 1)) 8 ++ leBytes first 8 ++ leBytes (if x.trig.isSome then s.rd .ACQ_PRE_COUNT u .COUNT else 0) 4
    ++ leBytes ((x.trig.map (·.2)).getD 0) 4 ++ leBytes ((x.pages.head?.map (·.1)).getD 0) 4 ++ leBytes x.pages.length 4
    ++ leBytes x.lost 4 ++ List.replicate (4096 - 0x2C) 0

/-- The key ID that a unit's capture writes carry (R594). -/
def State.unitKey (s : State) (u : Nat) : Nat :=
  match s.unitCamp u with
  | some c => s.rd .RUN_CAMP_STATUS c .KEY_ID
  | none => 0

/-- Where a record lies in the ring (R594). -/
def State.recAddr (s : State) (u : Nat) (r : AcqRec) : Nat := s.bufAddr u + 4096 * (r.page + 1) + 8 * r.slot

/-- One record is written into the ring: the bus error it meets. -/
def State.writeRec (s : State) (u : Nat) (r : AcqRec) : Option Nat × State :=
  s.deepWrite 81 (s.unitKey u) (s.recAddr u r) (r.slots.flatMap fun w => leBytes w 8)

/-- Every record that waits is written into the ring, the first bus error ending it: whether there was one. -/
def State.flushRecs (s : State) (u : Nat) : Bool × State :=
  let w := (s.unit u).recs.foldl (fun (a : Bool × State) r =>
    if a.1 then a
    else
      let w := a.2.writeRec u r
      match w.1 with
      | some _ => (true, w.2)
      | none => (false, w.2)) (false, s)
  (w.1, w.2.modUnit u fun x => { x with recs := [] })

/-- A buffer closes (R595, R598, R600): its records and descriptor are written, COMPLETE last, and the camp's ACQ cause is set (R697). A bus error on the way sets ERR and closes with CLOSE = 4. Nothing is written for a unit without a camp or a ring. -/
def State.closeWith (s : State) (u code : Nat) : Bool × State :=
  match s.unitCamp u with
  | none => (false, s.modUnit u fun x => { x with recs := [] })
  | some c =>
    if s.bufPages u = 0 then (false, (s.modUnit u fun x => { x with recs := [] }).campIrq c .acq)
    else
      let f := s.flushRecs u
      let key := s.unitKey u
      let a := s.bufAddr u
      let d := f.2.deepWrite 81 key a (f.2.descriptor u (if f.1 then 4 else code))
      let s1 := if d.1.isSome then d.2 else (d.2.deepWrite 81 key (a + 0x38) (leBytes 1 8)).2
      let bad := f.1 || d.1.isSome
      (bad, (if bad then s1.wr .ACQ_CTRL u .ERR 1 else s1).campIrq c .acq)

/-- A buffer closes. -/
def State.closeBuf (s : State) (u code : Nat) : State := (s.closeWith u code).2

/-- A capture begins in a buffer (R595): ARMED, sequencer in state 0, K of every share 0 (R583). -/
def State.armUnit (s : State) (u buf : Nat) : State :=
  let s1 := ((s.wr .ACQ_CTRL u .STATE 1).wrs .ACQ_SEQ u [(.BUF, buf), (.K_MAX, 0)]).enterSeq u 0
  s1.modUnit u fun x =>
    { x with shares := x.shares.map fun e => (e.1, { e.2 with k := 0, since := 0, dropped := 0 }), stored := [], spans := [], pages := [], page := 0,
             slot := 0, recs := [], full := false, trig := none, kMax := 0, lost := 0, since := 0 }

/-- After a buffer of a triggered capture has closed (R595): HOLDOFF where REARM asks for it and a next buffer exists, STOPPED otherwise. -/
def State.afterClose (s : State) (u : Nat) : State :=
  let last := s.rd .ACQ_SEQ u .BUF == s.rd .ACQ_CTRL u .BUFS
  if s.rd .ACQ_CTRL u .REARM = 1 ∧ (!last || s.rd .ACQ_CTRL u .WRAP == 1) = true then
    (s.wr .ACQ_CTRL u .STATE 3).modUnit u fun x => { x with since := 0 }
  else s.wr .ACQ_CTRL u .STATE 4

/-- A triggered capture's buffer closes, and what follows (R595, R598). -/
def State.closeNext (s : State) (u code : Nat) : State :=
  let r := s.closeWith u code
  if r.1 then r.2.wr .ACQ_CTRL u .STATE 4 else r.2.afterClose u

/-- The trigger-out pin goes high for a trigger of the unit it follows (R604). -/
def State.trigOutHigh (s : State) (u : Nat) : State :=
  if s.rd .ACQ_TRIGOUT 0 .EN = 1 ∧ s.rd .ACQ_TRIGOUT 0 .UNIT = u then s.modAcq fun a => { a with trigOut := true } else s

/-- A missed trigger is counted and logged (R597, R618). -/
def State.missTrigger (s : State) (u cyc : Nat) : State :=
  let s1 := s.bump .ACQ_MISSED u .COUNT 1
  if s1.rd .ACQ_MISS_LOG u .VALID = 0 then s1.logEvent .ACQ_MISS_LOG u [(.CYCLE, cyc)] id else s1

/-- The largest K over the camp's shares (R614). -/
def State.showK (s : State) (u : Nat) : State :=
  s.wr .ACQ_SEQ u .K_MAX ((s.unit u).shares.foldl (fun m e => max m e.2.k) 0)

/-- The pages that a trigger keeps (R596): the newest PRE sixteenths of the data pages. -/
def State.keepPre (s : State) (u : Nat) : State :=
  let pre := s.rd .ACQ_CTRL u .PRE * (s.bufPages u - 1) / 16
  s.modUnit u fun x => { x with pages := x.pages.drop (x.pages.length - pre) }

/-- The trigger takes effect (R595, R596, R604, R607). -/
def State.takeTrigger (s : State) (u cyc m : Nat) : State :=
  let s1 := ((s.wr .ACQ_CTRL u .STATE 2).wr .ACQ_TRIG_CYCLE u .CYCLE cyc).keepPre u
  (s1.modUnit u fun x => { x with trig := some (cyc, m), since := 0 }).trigOutHigh u

/-- Samples after the trigger are stored until POST_CYCLES (R595). -/
def State.postOpen (s : State) (u : Nat) : Bool :=
  s.rd .ACQ_TIMING u .POST_CYCLES == 0 || decide ((s.unit u).since ≤ s.rd .ACQ_TIMING u .POST_CYCLES)

/-- The storing side of a sample (R582 to R584, R599): SYNC at a multiple of 2^32, changes of K, the samples of every die group, and the TRIGGER record last. -/
def State.storeAll (s : State) (u c cyc : Nat) (trig : Option (Nat × Nat × Bool)) : State :=
  let n := s.bufPages u - 1
  let armed := s.unitState u == 1
  let ms := s.acqSamples c
  let x0 := s.unit u
  let x1 := if cyc % 2 ^ 32 = 0 ∧ x0.pages.isEmpty = false then x0.put n armed 0 cyc [recHead 1 0 0 cyc, cyc] else x0
  let x2 := if x1.pages.isEmpty then x1.newPage n armed 0 cyc else x1
  let x3 := ms.foldl (fun x m => x.decimate n armed cyc m.g) x2
  let r := ms.foldl (fun (a : AcqUnit × Nat) m => let w := a.1.storeSample n armed cyc trig.isSome m; (w.1, a.2 + w.2)) (x3, 0)
  let x4 := match trig with
    | none => r.1
    | some (m, st, f) => r.1.put n armed 0 cyc [recHead 7 0 (st + 8 * bit f) cyc, m]
  ((s.modUnit u fun _ => x4).bump .ACQ_LOST u .COUNT r.2).showK u

/-- A unit evaluates a sample (R591 to R597, R607). -/
def State.unitSample (s : State) (u c cyc : Nat) (cmps decs : List Nat) : State :=
  let st := s.unitState u
  if st = 1 ∨ st = 2 ∨ st = 3 then
    let m := s.hitMask u c cmps decs
    let forced := (s.unit u).events.contains .force
    let seq := s.rd .ACQ_SEQ u .STATE
    let s1 := if m = 0 then s else s.wr .ACQ_HITMASK u .HITS m
    let r := s1.seqStep u m
    let s2 := r.2.modUnit u fun x => { x with events := [], since := x.since + 1 }
    let trig := r.1 || forced
    if st = 3 then (if trig then s2.missTrigger u cyc else s2)
    else if st = 1 ∧ trig = true then
      let s3 := (s2.takeTrigger u cyc m).storeAll u c cyc (some (m, seq, forced))
      s3.wr .ACQ_PRE_COUNT u .COUNT (cyc - ((s3.unit u).pages.head?.map (·.2)).getD cyc)
    else if st = 1 ∨ s2.postOpen u = true then s2.storeAll u c cyc none
    else s2
  else s

/-- The front ends raise their reads of cluster-memory words as requester 1 (R580). -/
def State.raiseReads (s : State) (c : Nat) : State :=
  s.forEach (s.acq.words.filter fun e => e.2.camp == c && e.2.mem) fun t e =>
    let r : BankReq := ⟨1, e.2.addr, .read⟩
    t.modCluster (t.physCluster c e.2.lcl) fun cl => if cl.reqs.contains r then cl else { cl with reqs := cl.reqs ++ [r] }

/-- The sample of a design cycle (R579 to R597). -/
def State.acqSample (s : State) (c : Nat) : State :=
  let cyc := (s.camp c).cycle.toNat
  let h := s.cmpHits c
  let d := h.2.decHits c
  let s1 := d.2.forEach ((List.range 4).filter fun u => s.unitCamp u == some c) fun t u => t.unitSample u c cyc h.1 d.1
  s1.raiseReads c

/-- The first sample after START counts as entering (R585). -/
def State.acqStart (s : State) (c : Nat) : State :=
  s.modAcq fun a => { a with matched := a.matched.filter fun i => !(s.campCmps c).contains i }

/-- An event condition is latched in every unit (R591). DEDUCED (log 80), unsafe. -/
def State.latchEvent (s : State) (e : AcqEvent) : State :=
  s.forEach (List.range 4) fun t u => t.modUnit u fun x => if x.events.contains e then x else { x with events := x.events ++ [e] }

/-- The RW fields of ACQ_CTRL that come with a command (R613): written where the unit is not owned or its camp is LOADED or PAUSED; otherwise a difference sets WR_ERR. -/
def State.acqWritable (s : State) (owner : Option Nat) : Bool :=
  match owner with
  | none => true
  | some c => s.campState c == 2 || s.campState c == 4

/-- The write-error bit (R613). -/
def State.acqErr (s : State) : State := s.wr .ACQ_GLOBAL 0 .WR_ERR 1

/-- RW fields of ACQ_CTRL written along with a command. -/
def State.acqCtrl (s : State) (u : Nat) (f : AcqFields) : State :=
  let fs := [(FName.REARM, bit f.rearm), (.WRAP, bit f.wrap), (.BUFS, f.bufs), (.PRE, f.pre)]
  if s.acqWritable (s.unitCamp u) then s.wrs .ACQ_CTRL u fs
  else if fs.all fun e => s.rd .ACQ_CTRL u e.1 == e.2 % 16 then s
  else s.acqErr

/-- ACQ_ARM (R595): from IDLE and STOPPED. -/
def execAcqArm (unit : Nat) (f : AcqFields) (s : State) : Host.Outcome State Fault Refusal :=
  s.asWrite .ACQ_CTRL unit fun s =>
  let s1 := s.acqCtrl unit f
  if s.unitState unit = 0 ∨ s.unitState unit = 4 then .next (s1.armUnit unit 0) else .next s1

/-- The unit stops (R595, R608): an open buffer closes with a code. -/
def State.stopUnit (s : State) (u code : Nat) : State :=
  let st := s.unitState u
  if st = 1 ∨ st = 2 then (s.closeBuf u code).wr .ACQ_CTRL u .STATE 4
  else if st = 3 then s.wr .ACQ_CTRL u .STATE 4
  else s

/-- ACQ_STOP (R595, R608). -/
def execAcqStop (unit : Nat) (f : AcqFields) (s : State) : Host.Outcome State Fault Refusal :=
  s.asWrite .ACQ_CTRL unit fun s => .next ((s.acqCtrl unit f).stopUnit unit 3)

/-- ACQ_FORCE (R591, R595): a trigger in the next sample the unit evaluates. -/
def execAcqForce (unit : Nat) (f : AcqFields) (s : State) : Host.Outcome State Fault Refusal :=
  s.asWrite .ACQ_CTRL unit fun s =>
  .next ((s.acqCtrl unit f).modUnit unit fun x => if x.events.contains .force then x else { x with events := x.events ++ [.force] })

/-- RW fields of ACQ_DEC_CFG that come with FORCE (R613). -/
def State.decCtrl (s : State) (j format : Nat) (host : Bool) : State :=
  let fs := [(FName.FORMAT, format), (.HOST, bit host)]
  if s.acqWritable (if s.rd .ACQ_DEC_CFG j .OWNED = 1 then some (s.rd .ACQ_DEC_CFG j .CAMP) else none) then s.wrs .ACQ_DEC_CFG j fs
  else s.acqErr

/-- DEC_FORCE (R588, R591, R613): raises a hit as an event condition while the decoder is in host mode; FORCE of a decoder whose camp runs is ignored with WR_ERR. -/
def execDecForce (dec format : Nat) (host : Bool) (s : State) : Host.Outcome State Fault Refusal :=
  s.asWrite .ACQ_DEC_CFG dec fun s =>
  let owner := if s.rd .ACQ_DEC_CFG dec .OWNED = 1 then some (s.rd .ACQ_DEC_CFG dec .CAMP) else none
  let s1 := s.decCtrl dec format host
  if s.acqWritable owner = true then .next (if host then s1.latchEvent (.dec dec) else s1)
  else .next s1

/-- POST_CYCLES_END (R595): POST_CYCLES samples after the trigger the buffer closes. -/
def execPostCyclesEnd (unit : Nat) (s : State) : Host.Outcome State Fault Refusal :=
  let p := s.rd .ACQ_TIMING unit .POST_CYCLES
  if s.unitState unit = 2 ∧ p ≠ 0 ∧ p ≤ (s.unit unit).since then .next (s.closeNext unit 2) else .next s

/-- HOLDOFF_END (R595): after the larger of 64 and HOLDOFF design cycles the unit is ARMED in the next buffer. -/
def execHoldoffEnd (unit : Nat) (s : State) : Host.Outcome State Fault Refusal :=
  if s.unitState unit = 3 ∧ max 64 (s.rd .ACQ_TIMING unit .HOLDOFF) ≤ (s.unit unit).since then
    let b := s.rd .ACQ_SEQ unit .BUF
    .next (s.armUnit unit (if b = s.rd .ACQ_CTRL unit .BUFS then 0 else b + 1))
  else .next s

/-- A capture write has met a bus error (R598). -/
def State.captureError (s : State) (u : Nat) : State :=
  let s1 := s.wr .ACQ_CTRL u .ERR 1
  let st := s.unitState u
  if st = 1 ∨ st = 2 then
    ((s1.modUnit u fun x => { x with recs := [] }).closeBuf u 4).wr .ACQ_CTRL u .STATE 4
  else s1.wr .ACQ_CTRL u .STATE 4

/-- CAPTURE_WRITE_DONE (R583, R594, R595): the oldest record of the unit is in the ring; its share's backlog falls, and a full buffer with no record left to write closes. -/
def execCaptureWriteDone (unit : Nat) (s : State) : Host.Outcome State Fault Refusal :=
  match (s.unit unit).recs with
  | [] => .next (if s.unitState unit = 2 ∧ (s.unit unit).full = true then s.closeNext unit 1 else s)
  | r :: _ =>
    let w := s.writeRec unit r
    match w.1 with
    | some _ => .next (w.2.captureError unit)
    | none =>
      let n := s.bufPages unit - 1
      let armed := s.unitState unit == 1
      let cyc := match s.unitCamp unit with
        | some c => (s.camp c).cycle.toNat
        | none => 0
      let s1 := w.2.modUnit unit fun x =>
        ({ x with recs := x.recs.drop 1 }).tellLost n armed cyc r.g
      let s2 := s1.showK unit
      if s2.unitState unit = 2 ∧ (s2.unit unit).full = true ∧ (s2.unit unit).recs.isEmpty = true then
        .next (s2.closeNext unit 1)
      else .next s2

/-- CAPTURE_BUS_ERROR (R598). -/
def execCaptureBusError (unit : Nat) (s : State) : Host.Outcome State Fault Refusal :=
  if (s.unit unit).recs.isEmpty then .next s else .next (s.captureError unit)

/-- TRIGOUT_WIDTH_END (R604). -/
def execTrigoutWidthEnd (s : State) : Host.Outcome State Fault Refusal := .next (s.modAcq fun a => { a with trigOut := false })

/-- The module is past the phases in which no output pin follows its function (R720). -/
def State.pinsLive (s : State) : Bool := decide (5 ≤ s.rd .PW_STATUS 0 .PHASE)

/-- The level of the trigger-out pin (R604, R720): low while disabled, and while the unit's camp is UNLOADED or LOADING. -/
def State.trigOutPin (s : State) : Bool :=
  s.pinsLive && s.acq.trigOut && s.rd .ACQ_TRIGOUT 0 .EN == 1 && (s.unitCamp (s.rd .ACQ_TRIGOUT 0 .UNIT)).any fun c => decide (2 ≤ s.campState c)

/-- What probe net `n` of a pitch carries toward the hub in a step (R601): value and valid. The nets of a pitch without a camp, or of a camp that is LOADING, are isolated: valid 0 and the value of net group 3 (R322). -/
def State.probeNet (s : State) (p n : Nat) : Bool × Bool :=
  match s.pitchCamp p with
  | none => (false, false)
  | some c =>
    if s.campState c = 1 then ((s.camp c).iso.testBit 3, false)
    else match (s.cluster (s.clusterAt p 0)).slots.find? fun e => e.1 == 1008 + n with
      | some e => (e.2.2, true)
      | none => (false, false)

/-- The hub keeps the valid deliveries of a step's probe nets (R601). -/
def State.probeStep (s : State) (c d : Nat) : State :=
  s.forEach (s.groupPitches c d) fun t p =>
    let hits := (List.range 16).filter fun n => (t.probeNet p n).2
    t.modAcq fun a => { a with nets := hits.foldl (fun l n => tmod (none, false) l (16 * p + n) fun v => (some (t.probeNet p n).1, v.2)) a.nets }

/-- A lantern pin is driven by a camp. -/
def State.pinDriven (s : State) (c i : Nat) : Bool :=
  s.rd .ACQ_LP i .OWNED == 1 && s.rd .ACQ_LP i .CAMP == c && s.rd .ACQ_LP i .EN == 1

/-- From B15 the hub presents the nets of the camp's pitches, and its pins their nets' values (R601, R602). -/
def State.lanternDrive (s : State) (c : Nat) : State :=
  let mine := fun n => (s.campPitches c).contains (n / 16)
  let s1 := s.modAcq fun a => { a with nets := a.nets.map fun e => if mine e.1 then (e.1, (none, e.2.1.getD e.2.2)) else e }
  s1.modAcq fun a => { a with pins := ((List.range 64).filter (s1.pinDriven c)).foldl (fun l i =>
    tset l i (tget (none, false) a.nets (s1.rd .ACQ_LP i .NET)).2) a.pins }

/-- What a lantern pin drives (R602, R603, R720); none at high impedance. DEDUCED (log 44), unsafe. -/
def State.lanternPin (s : State) (i : Nat) : Option Bool :=
  if s.pinsLive = true ∧ s.rd .ACQ_LP i .OWNED = 1 ∧ s.rd .ACQ_LP i .EN = 1 ∧ (s.rd .ACQ_LP i .SHORT = 0 ∨ s.rd .ACQ_LP i .OVERRIDE = 1) ∧ s.campState (s.rd .ACQ_LP i .CAMP) ≠ 1 then
    some (tget false s.acq.pins i)
  else none

/-- A camp's acquisition resources are freed (R598, R728, R604). -/
def State.acqFree (s : State) (c : Nat) : State :=
  let units := (List.range 4).filter fun u => s.unitCamp u == some c
  let s1 := s.forEach units fun t u =>
    let t1 := if t.unitState u = 1 ∨ t.unitState u = 2 then t.closeBuf u 5 else t
    let t2 := if t1.rd .ACQ_TRIGOUT 0 .UNIT = u then t1.modAcq fun a => { a with trigOut := false } else t1
    (t2.wrs .ACQ_CTRL u [(.CAMP, 0), (.OWNED, 0), (.STATE, 0)]).modUnit u fun _ => AcqUnit.reset
  let owns := fun (r : RegName) i => s.rd r i .OWNED == 1 && s.rd r i .CAMP == c
  let s2 := s1.forEach ((List.range 128).filter (owns .ACQ_CMP_CFG)) fun t i => t.wrs .ACQ_CMP_CFG i [(.CAMP, 0), (.OWNED, 0), (.EN, 0)]
  let s3 := s2.forEach ((List.range 8).filter (owns .ACQ_DEC_CFG)) fun t i => t.wrs .ACQ_DEC_CFG i [(.CAMP, 0), (.OWNED, 0)]
  let s4 := s3.forEach ((List.range 64).filter (owns .ACQ_LP)) fun t i => t.wrs .ACQ_LP i [(.CAMP, 0), (.OWNED, 0), (.EN, 0)]
  s4.modAcq fun a =>
    { a with bits := a.bits.filter fun e => e.2.camp != c, words := a.words.filter fun e => e.2.camp != c,
             blocks := a.blocks.filter fun b => b.camp != c,
             matched := a.matched.filter fun i => !owns .ACQ_CMP_CFG i,
             decs := a.decs.filter fun e => !owns .ACQ_DEC_CFG e.1,
             pins := a.pins.filter fun e => !owns .ACQ_LP e.1,
             nets := a.nets.filter fun e => !(s.campPitches c).contains (e.1 / 16) }

/-- An input of the conditioner. -/
def State.inp (s : State) (i : Nat) : AcqIn := tget AcqIn.reset s.acq.ins i

/-- An input changed. -/
def State.modIn (s : State) (i : Nat) (f : AcqIn → AcqIn) : State := s.modAcq fun a => { a with ins := tmod AcqIn.reset a.ins i f }

/-- The active level of an input (R616). -/
def State.activeLevel (s : State) (i : Nat) : Bool := s.rd .ACQ_IN_CFG i .POL == 1

/-- A capture input stamps an edge to `level` (R573). -/
def State.stampEdge (s : State) (i : Nat) (level : Bool) : State :=
  let e := s.rd .TM_CAP_CFG i .EDGE
  let sel := if level then e != 2 else e == 2 || e == 3
  if s.rd .TM_CAP_CFG i .EN = 1 ∧ sel = true then
    let l := tget [] s.time.stamps i
    if 16 ≤ l.length then s.wr .TM_CAP_CFG i .OVF 1
    else { s with time := { s.time with stamps := tset s.time.stamps i (l ++ [s.now]) } }
  else s

/-- The input's level is passed as one edge (R605), and its 8 ns window opens: trigger-in latches an event condition (R591), a time-capture input a stamp (R573). DEDUCED (log 47), safe. -/
def State.passEdge (s : State) (i : Nat) : State :=
  let v := (s.inp i).raw
  let s1 := s.modIn i fun x => { x with passed := v, window := true }
  if i = 0 then s1.latchEvent .trigIn else s1.stampEdge (i - 1) v

/-- An edge stands to be passed: the level differs from that last passed, no window is open, and the input is not masked. -/
def State.edgeDue (s : State) (i : Nat) : Bool :=
  (s.inp i).raw != (s.inp i).passed && !(s.inp i).window && s.rd .ACQ_IN_CFG i .MASKED == 0

/-- TRIGGER_IN_EDGE (R591, R605): the level has been held for 4 ns. -/
def execTriggerInEdge (s : State) : Host.Outcome State Fault Refusal := .next (if s.edgeDue 0 then s.passEdge 0 else s)

/-- CAPTURE_INPUT_EDGE (R573, R605). -/
def execCaptureInputEdge (input : Nat) (s : State) : Host.Outcome State Fault Refusal :=
  if input < 2 ∧ s.edgeDue (input + 1) = true then .next (s.passEdge (input + 1)) else .next s

/-- INPUT_LEVEL_CHANGE (R605): a level not held for 4 ns (`short`) is ignored; another within the window is an edge not passed. -/
def execInputLevelChange (input : Nat) (level short : Bool) (s : State) : Host.Outcome State Fault Refusal :=
  if 3 ≤ input ∨ short = true then .next s
  else
    let x := s.inp input
    let s1 := s.modIn input fun y => { y with raw := level }
    if x.raw ≠ level ∧ x.window = true ∧ s.rd .ACQ_IN_CFG input .MASKED = 0 then .next (s1.bump .ACQ_IN_OVERRATE input .COUNT 1)
    else .next s1

/-- CONDITIONER_WINDOW_END (R605): the level is passed as one edge if it differs from the last level passed. -/
def execConditionerWindowEnd (input : Nat) (s : State) : Host.Outcome State Fault Refusal :=
  let s1 := s.modIn input fun y => { y with window := false }
  .next (if input < 3 ∧ s1.edgeDue input = true then s1.passEdge input else s1)

/-- INPUT_STUCK (R605): held active longer than STUCK_MS, the input is masked as inactive. -/
def execInputStuck (input : Nat) (s : State) : Host.Outcome State Fault Refusal :=
  if input < 3 ∧ s.rd .ACQ_IN_CFG input .STUCK_MS ≠ 0 ∧ (s.inp input).raw = s.activeLevel input then
    .next ((s.wrs .ACQ_IN_CFG input [(.STUCK, 1), (.MASKED, 1)]).modIn input fun y => { y with passed := !s.activeLevel input })
  else .next s

/-- STUCK_MASK_RELEASE (R605): the release passes no edge. -/
def execStuckMaskRelease (input : Nat) (s : State) : Host.Outcome State Fault Refusal :=
  if input < 3 ∧ s.rd .ACQ_IN_CFG input .MASKED = 1 ∧ (s.inp input).raw ≠ s.activeLevel input then
    .next ((s.wr .ACQ_IN_CFG input .MASKED 0).modIn input fun y => { y with passed := y.raw })
  else .next s

end Sys2Proof.Machine
end

