-- ==== Sys2Proof/Machine/LoadBase.lean ====
section
/-! DEFINITION. The framing of a stream, its prologue, header and key roll, and section records (R296 to R306), for camp images and for firmware images (R650). -/

namespace Sys2Proof.Machine

/-- A little-endian field of `n` bytes at an offset. -/
def fldAt (b : List Byte) (o n : Nat) : Nat := leNat ((b.drop o).take n)

/-- `n` bytes at an offset are zero. -/
def zeroAt (b : List Byte) (o n : Nat) : Bool := ((b.drop o).take n).all fun x => x == 0

/-- The payload bytes of a full segment (R296). -/
def fullPayload : Nat := 1048512

/-- The framing of segment `i` of `n` is right (R296, check 8 of R314). -/
def frameOk (b : List Byte) (i n : Nat) : Bool :=
  let len := fldAt b 8 4
  let last := (fldAt b 0xC 4).testBit 0
  fldAt b 0 4 == 0x51535347 && fldAt b 4 4 == i && decide (1 ≤ len) && decide (len ≤ fullPayload) && fldAt b 0xC 4 == bit last
    && last == (i + 1 == n) && zeroAt b 0x10 16 && (last || len == fullPayload) && b.length == 0x40 + len && zeroAt b (0x30 + len) 16

/-- The number of segments that the prologue in segment 0 gives (R300). -/
def segCountOf (b : List Byte) : Nat := fldAt b 0x2C 4

/-- A segment opened (R297): the decrypted payload, with the plaintext prologue in segment 0; none where the tag fails. -/
def openSegment (key nonce : List Byte) (i : Nat) (b : List Byte) : Option (List Byte) :=
  let len := fldAt b 8 4
  let payload := (b.drop 0x20).take len
  let clear := if i = 0 then payload.take 256 else []
  (gcmOpen key (nonce ++ leBytes i 4) (b.take 0x20 ++ clear) (payload.drop clear.length) ((b.drop (0x20 + len)).take 16)).map fun x => clear ++ x

/-- K(i + 1) (R298). -/
def nextKey (key label : List Byte) (i : Nat) (payload : List Byte) : List Byte :=
  kdf key label (leBytes i 4 ++ sha384 payload)

/-- Check 1 on a prologue (R300, R314): MAGIC, FAMILY, CLASS, VERSION, and the module's serial where serials are named. -/
def prologueOk (p : List Byte) (serial : Nat) : Bool :=
  let n := min 24 (fldAt p 0x19 1)
  fldAt p 0 4 == 0x5153494D && fldAt p 4 2 == 0x51 && fldAt p 6 2 == 8 && fldAt p 0xB 1 == 1
    && (n == 0 || (List.range n).any fun j => fldAt p (0x30 + 8 * j) 5 == serial)

/-- NONCE and LABEL of a prologue (R300). -/
def nonceOf (p : List Byte) : List Byte := (p.drop 0x10).take 8

/-- LABEL of a prologue (R300). -/
def labelOf (p : List Byte) : List Byte := (p.drop 0x20).take 8

/-- The prologue fields that have a range, and its reserved bytes (R300; check 5 of R314). A FABRIC_TAG of 0xFFFF is refused (R532). -/
def prologueRanges (p : List Byte) : Bool :=
  decide (1 ≤ fldAt p 9 1) && decide (fldAt p 9 1 ≤ 3) && fldAt p 0x18 1 == 1 && decide (fldAt p 0x19 1 ≤ 24) && fldAt p 0x1A 2 != 0xFFFF
    && zeroAt p 0x1C 4 && zeroAt p 0x28 8 && (List.range 24).all (fun j => zeroAt p (0x35 + 8 * j) 3) && zeroAt p 0xF0 16

/-- The header of a payload (R301). -/
def headerOf (p : List Byte) : LoadHdr :=
  { modules := fldAt p 0x100 1, chkAll := fldAt p 0x101 1, target := fldAt p 0x102 2, budget := fldAt p 0x104 2,
    hops := (List.range (fldAt p 0x106 2)).map fun i => (fldAt p (0x220 + 8 * i) 1, fldAt p (0x221 + 8 * i) 1, fldAt p (0x222 + 8 * i) 2),
    sig := (p.drop 0x108).take 8, steps := fldAt p 0x110 2, iso := fldAt p 0x114 4,
    lclusters := (List.range 128).map fun m => fldAt p (0x120 + 2 * m) 2,
    tags := (List.range 15).map fun i => fldAt p (0x2220 + 8 * i) 8,
    deepPages := (List.range 128).map fun m => fldAt p (0x22A0 + 4 * m) 4 }

/-- A tag is valid (R240), with its unused bits zero (R259). -/
def tagWordOk (t : Nat) : Bool :=
  let num := bitsOf t 0 16
  let den := bitsOf t 16 16
  bitsOf t 33 15 == 0 && (bitsOf t 32 1 == 0 || (decide (1 ≤ num) && decide (num ≤ den) && decide (bitsOf t 48 16 < den)))

/-- Check 5 of R314 on the header (R276, R301), for a load of `m` logical modules. DEDUCED (log 65), unsafe. -/
def headerOk (p : List Byte) (m : Nat) : Bool :=
  let h := headerOf p
  let n := fldAt p 0x106 2
  prologueRanges p && decide (1 ≤ h.modules) && decide (h.modules ≤ 128) && h.modules == m && decide (h.chkAll ≤ 1)
    && decide (250 ≤ h.target) && decide (h.target ≤ 2000) && decide (n ≤ 1024)
    && h.hops.all (fun e => decide (e.1 < h.modules) && decide (e.2.1 < h.modules) && decide (1 ≤ e.2.2) && decide (e.2.2 ≤ 16383))
    && (List.range n).all (fun i => zeroAt p (0x224 + 8 * i) 4) && zeroAt p (0x220 + 8 * n) (8 * (1024 - n))
    && decide (32 ≤ h.steps) && decide (h.steps ≤ 4096) && zeroAt p 0x112 2 && decide (h.iso < 16) && zeroAt p 0x118 8
    && h.lclusters.zipIdx.all (fun e => if e.2 < h.modules then decide (8 ≤ e.1) && decide (e.1 ≤ 512) && e.1 % 8 == 0 else e.1 == 0)
    && h.tags.all tagWordOk && zeroAt p 0x2298 8 && (p.drop 0x24A0).all (fun x => x == 0)

/-- The fields of a record header (R302). -/
structure SecHead where
  type : Nat
  len : Nat
  mask : Nat
  lpitch : Nat
  part : Nat
  deriving DecidableEq, Repr

/-- A record header's fields. -/
def secHead (b : List Byte) : SecHead := ⟨fldAt b 0 2, fldAt b 4 4, fldAt b 8 16, fldAt b 0x18 2, fldAt b 0x1A 2⟩

/-- The form of a record header (R302). -/
def recFormOk (b : List Byte) : Bool :=
  let h := secHead b
  zeroAt b 2 2 && zeroAt b 0x1C 4 && h.len % 8 == 0 && decide (h.len ≤ 0x4000000) && (h.type == 2 || (h.lpitch == 0 && h.part == 0))

/-- The body of an END record (R303): two 48-byte numbers, then zero padding. -/
def endBodyOk (b : List Byte) : Bool := decide (96 ≤ b.length) && zeroAt b 96 (b.length - 96)

/-- The signature of a stream (R306). -/
def signatureOk (key hashed endBody : List Byte) : Bool :=
  ecdsaVerify key (sha384 hashed) (leNat (endBody.take 48)) (leNat ((endBody.drop 48).take 48))

/-- The segments of a firmware image opened in order (R296 to R298): their payloads, or the RESULT code of R661. -/
def fwSegments (count : Nat) (nonce label : List Byte) : Nat → Nat → List Byte → List Byte → Nat ⊕ List (List Byte)
  | 0, _, _, _ => .inl 1
  | fuel + 1, i, key, b =>
    let seg := b.take (0x40 + fldAt b 8 4)
    if !frameOk seg i count then .inl 1
    else
      match openSegment key nonce i seg with
      | none => .inl 2
      | some p =>
        if i + 1 = count then .inr [p]
        else
          match fwSegments count nonce label fuel (i + 1) (nextKey key label i p) (b.drop seg.length) with
          | .inl e => .inl e
          | .inr l => .inr (p :: l)

/-- The records of a firmware image (R650): bytes before END, END's body, and the REV of each FW_CODE record. -/
def fwRecords : Nat → List Byte → List Byte → List Nat → Option (List Byte × List Byte × List Nat)
  | 0, _, _, _ => none
  | fuel + 1, done, b, revs =>
    let h := secHead b
    let body := (b.drop 32).take h.len
    if b.length < 32 + h.len ∨ recFormOk b = false then none
    else if h.type = 0x7FFF then (if endBodyOk body && b.length == 32 + h.len then some (done, body, revs) else none)
    else if h.type = 0x0100 ∧ 8 ≤ h.len ∧ zeroAt body 4 4 = true then
      fwRecords fuel (done ++ b.take (32 + h.len)) (b.drop (32 + h.len)) (revs ++ [fldAt body 0 4])
    else none

/-- A firmware image verified in full (R650): its REV, or the RESULT code of R661: 1 format, 2 authentication, 3 REV too low. -/
def verifyFw (part : Part) (b : List Byte) : Nat ⊕ Nat :=
  let p := b.drop 0x20
  if !frameOk (b.take (0x40 + fldAt b 8 4)) 0 (segCountOf b) || !prologueOk p part.serial || fldAt p 8 1 != 1 || fldAt p 0xA 1 == 0
    || !prologueRanges p then .inl 1
  else
    match fwSegments (segCountOf b) (nonceOf p) (labelOf p) (b.length / 64 + 1) 0 (kdf part.fwLoad (labelOf p) (nonceOf p)) b with
    | .inl e => .inl e
    | .inr [] => .inl 1
    | .inr (p0 :: l) =>
      if !zeroAt p0 256 (p0.length - 256) then .inl 1
      else
        match fwRecords (b.length / 32 + 1) [] l.flatten [] with
        | none => .inl 1
        | some (_, _, []) => .inl 1
        | some (recs, tail, rev :: more) =>
          if !signatureOk part.fwKey (p0 ++ recs) tail then .inl 2
          else if !more.all (fun x => x == rev) then .inl 1
          else if rev < part.minRev then .inl 3
          else .inr rev

end Sys2Proof.Machine
end

