-- ==== Sys2Proof/Machine/Trace.lean ====
section
/-! DEFINITION. Channel-core trace: what is traced (R619, R620), packets, cairns and frames (R621 to R625), the routes (R626 to R628) and authorization tokens (R629, R630). -/

namespace Sys2Proof.Machine

/-- A channel core. -/
def State.core (s : State) (k : Nat) : Core := tget Core.reset s.cores k

/-- A channel core changed. -/
def State.modCore (s : State) (k : Nat) (f : Core → Core) : State := { s with cores := tmod Core.reset s.cores k f }

/-- A core's part of the trace unit changed. -/
def State.modTr (s : State) (k : Nat) (f : TraceCore → TraceCore) : State := s.modCore k fun x => { x with tr := f x.tr }

/-- The trace unit changed. -/
def State.modTrace (s : State) (f : TraceUnit → TraceUnit) : State := { s with trace := f s.trace }

/-- A valid token for a key ID names a domain, with bit `b` of its SCOPE set where one is asked for (R619, R629). -/
def State.tokenNames (s : State) (key dom : Nat) (b : Option Nat) : Bool :=
  (List.range 8).any fun t => s.rd .TR_TOKEN t .VALID == 1 && s.rd .TR_TOKEN t .KEY_ID == key && (tget 0 s.trace.domains t).testBit dom
    && match b with
      | none => true
      | some i => (s.rd .TR_TOKEN t .SCOPE).testBit i

/-- The condition of R619 for the privilege level, narrowed by SCOPE bit `b` where one is asked for. -/
def State.levelTraced (s : State) (r : Run) (b : Option Nat) : Bool :=
  if r.pl = 1 then r.key == s.rd .TR_RING 0 .KEY_ID
  else if r.pl = 2 then r.key == s.rd .TR_RING 0 .KEY_ID && s.tokenNames r.key r.dom b
  else s.tokenNames 0 r.dom b

/-- The trace unit watches core `k` at all. -/
def State.traceOn (s : State) (k : Nat) : Bool := s.rd .TR_CTRL 0 .EN == 1 && (s.rd .TR_CORES 0 .MASK).testBit k

/-- Core `k` traces while it runs `r` (R619). -/
def State.traced (s : State) (k : Nat) (r : Run) : Bool :=
  s.traceOn k && (s.rd .TR_DOMS_LO 0 .MASK + 2 ^ 40 * s.rd .TR_DOMS_HI 0 .MASK).testBit r.dom && s.levelTraced r none

/-- The cause for which the route to the ring is unavailable (R627), the lowest first; 0 for none. -/
def State.traceCause (s : State) : Nat :=
  if s.rd .TR_RING_SIZE 0 .PAGES = 0 then 1
  else if (List.range 8).any (fun ch => s.rd .DM_STATUS ch .STATE != 3) then 2
  else if s.trace.pairsDown ≠ [] then 3
  else if s.trace.busErr then 4
  else 0

/-- The trace unit follows the route (R627, R628, R632): a switch makes a cairn due on every core, and a return with DRAIN = 1 begins the copy of the fallback buffer. -/
def State.traceRoute (s : State) : State :=
  let ring := s.traceCause == 0
  if ring = s.trace.onRing then s
  else
    let s1 := s.modTrace fun t => { t with onRing := ring, draining := ring && s.rd .TR_CTRL 0 .DRAIN == 1 && !t.fb.isEmpty }
    s1.forEach (List.range 16) fun u k => u.modTr k fun t => { t with due := (if ring then 9 else 7) :: t.due }

/-- A signed LEB128 number of at most `n` bytes (R623). -/
def sleb : Nat → Int → List Byte
  | 0, _ => []
  | n + 1, x =>
    let b := (x % 128).toNat
    let r := x / 128
    if (r = 0 ∧ b < 64) ∨ (r = -1 ∧ 64 ≤ b) then [BitVec.ofNat 8 b] else BitVec.ofNat 8 (b + 128) :: sleb n r

/-- Packet bytes of a core that wait to leave it: its closed frames and its open one (R621). -/
def State.traceLoad (s : State) (k : Nat) : Nat :=
  ((s.trace.closed.filter fun f => f.core == k).foldl (fun n f => n + (f.bytes.getD 3 0).toNat) 0) + (s.core k).tr.frame.length

/-- A core closes its open frame (R622); one without packets stays. -/
def State.closeFrame (s : State) (k : Nat) : State :=
  let t := (s.core k).tr
  if t.frame = [] then s
  else
    let bytes := leBytes 0x5154 2 ++ [BitVec.ofNat 8 (k + 16 * bit t.sync), BitVec.ofNat 8 t.frame.length] ++ leBytes t.fseq 4
      ++ t.frame ++ List.replicate (56 - t.frame.length) 0
    (s.modTrace fun u => { u with closed := u.closed ++ [⟨k, bytes, t.count⟩] }).modTr k fun t =>
      { t with frame := [], sync := false, count := 0, fseq := (t.fseq + 1) % 2 ^ 32 }

/-- A packet enters the queue of its core (R621): dropped and counted where the queue is full, or an earlier drop has not been reported. -/
def State.traceAppend (s : State) (k : Nat) (p : List Byte) (cairn : Bool) (f : TraceCore → TraceCore) : State :=
  let t := (s.core k).tr
  if t.dropped ≠ 0 ∨ 256 < s.traceLoad k + p.length then
    (s.modTr k fun t => { t with dropped := t.dropped + 1 }).bump .TR_LOST 0 .COUNT 1
  else
    s.modTr k fun t =>
      let u := f t
      { u with frame := t.frame ++ p, sync := t.sync || (cairn && t.frame.isEmpty), count := t.count + 1 }

/-- A cairn (R624): reason, PC, DADDR, task, level and domain. -/
def State.cairn (s : State) (k reason pc daddr task pl dom : Nat) : State :=
  let s1 := if 56 < (s.core k).tr.frame.length + 22 then s.closeFrame k else s
  s1.traceAppend k (BitVec.ofNat 8 (7 + 16 * reason) :: (leBytes s.nowNs 8 ++ leBytes pc 5 ++ leBytes daddr 5 ++ leBytes (task % 4096 + 4096 * pl) 2 ++ leBytes dom 1))
    true fun t => { t with iref := pc, dref := daddr }

/-- A cairn with the core's present task. -/
def State.cairnNow (s : State) (k reason daddr : Nat) : State :=
  match (s.core k).run with
  | none => s.cairn k reason (s.core k).pc daddr 0 0 0
  | some r => s.cairn k reason (s.core k).pc daddr r.task r.pl r.dom

/-- A packet whose bytes depend on IREF and DREF (R623): the frame closes where it does not fit, and every SYNC_FRAMES-th frame begins with a cairn. -/
def State.packetRaw (s : State) (k : Nat) (p : TraceCore → List Byte) (f : TraceCore → TraceCore) : State :=
  let s1 := if 56 < (s.core k).tr.frame.length + (p (s.core k).tr).length then s.closeFrame k else s
  let t := (s1.core k).tr
  let s2 := if t.frame = [] ∧ t.fseq % max 1 (s.rd .TR_CTRL 0 .SYNC_FRAMES) = 0 then
      ({ s1 with draws := s1.draws + 1 }).cairnNow k (Config.syncReason s1.draws).toNat t.dref
    else s1
  s2.traceAppend k (p (s2.core k).tr) false f

/-- The not-taken branches counted so far are reported (R623). -/
def State.flushTaken (s : State) (k : Nat) : State :=
  let n := (s.core k).tr.ntaken
  if n = 0 then s else (s.modTr k fun t => { t with ntaken := 0 }).packetRaw k (fun _ => [BitVec.ofNat 8 (2 + 16 * n)]) id

/-- A packet, after the not-taken count. -/
def State.packet (s : State) (k : Nat) (p : TraceCore → List Byte) (f : TraceCore → TraceCore) : State := (s.flushTaken k).packetRaw k p f

/-- The instruction boundary of a core (R624, R625, R630, R631): cairns that are due merge into one with the lowest reason other than PERIODIC; entry to excluded code emits EXCLUDED once, and of the cairns due there only those of a route switch stay due; dropped packets are reported once space has returned. -/
def State.traceBoundary (s0 : State) (k : Nat) : State :=
  let s := s0.traceRoute
  match (s.core k).run with
  | none => s
  | some r =>
    if s.traceOn k then
      let t := (s.core k).tr
      if s.traced k r then
        let s1 := if t.dropped ≠ 0 ∧ s.traceLoad k + 64 ≤ 256 then
            ((s.modTr k fun t => { t with dropped := 0, due := 6 :: t.due }).packetRaw k (fun _ => 8 :: sleb 6 t.dropped) id)
          else s
        let s2 := s1.modTr k fun u => { u with due := if u.excluded then 5 :: u.due else u.due, excluded := false }
        let due := (s2.core k).tr.due
        if due = [] then s2
        else
          let reason := if due.all (fun x => x == 0) then 0 else (due.filter fun x => x != 0).foldl min 15
          (((s2.flushTaken k).modTr k fun u => { u with due := [] }).cairnNow k reason (if reason = 1 ∨ reason = 3 then 0 else (s2.core k).tr.dref))
      else if t.excluded then s.modTr k fun u => { u with due := u.due.filter fun x => x == 7 || x == 9 }
      else
        let s1 := (s.flushTaken k).cairn k 4 0 0 0 0 0
        (s1.modTr k fun u => { u with excluded := true, due := u.due.filter fun x => x == 7 || x == 9 }).bump .TR_EXCL 0 .COUNT 1
    else s

/-- Instruction trace is recorded for what core `k` runs (R620, R629). -/
def State.traceI (s : State) (k : Nat) : Bool :=
  match (s.core k).run with
  | none => false
  | some r => s.traced k r && s.rd .TR_CTRL 0 .IEN == 1 && s.levelTraced r (some 0)

/-- Data trace is recorded for what core `k` runs (R620, R629). -/
def State.traceD (s : State) (k : Nat) : Bool :=
  match (s.core k).run with
  | none => false
  | some r => s.traced k r && s.rd .TR_CTRL 0 .DEN == 1 && s.levelTraced r (some 1)

/-- BRANCH (R623): 0 conditional, 1 CALL, 2 CALLR, 3 BACK. -/
def State.traceBranch (s : State) (k arg target : Nat) : State :=
  if s.traceI k then
    s.packet k (fun t => BitVec.ofNat 8 (1 + 16 * arg) :: sleb 6 (((target : Int) - t.iref) / 8)) fun t => { t with iref := target }
  else s

/-- A conditional branch not taken (R623). -/
def State.traceNotTaken (s : State) (k : Nat) : State :=
  if s.traceI k then
    let s1 := s.modTr k fun t => { t with ntaken := t.ntaken + 1 }
    if (s1.core k).tr.ntaken = 15 then s1.flushTaken k else s1
  else s

/-- The size code of a data packet (R623). -/
def sizeCode (n : Nat) : Nat := if n = 1 then 0 else if n = 2 then 1 else if n = 4 then 2 else 3

/-- DLOAD or DSTORE (R620, R623). -/
def State.traceData (s : State) (k : Nat) (store atomic : Bool) (ea size : Nat) (v : Word) : State :=
  if s.traceD k then
    let val := store && s.rd .TR_CTRL 0 .DVAL == 1
    s.packet k
      (fun t => BitVec.ofNat 8 ((if store then 4 else 3) + 16 * (sizeCode size + 4 * bit atomic + 8 * bit val))
        :: (sleb 6 ((ea : Int) - t.dref) ++ if val then leBytes v.toNat 5 else []))
      fun t => { t with dref := ea }
  else s

/-- TRAP (R623). -/
def State.traceTrap (s : State) (k cause : Nat) : State :=
  if s.traceI k then s.packet k (fun _ => [BitVec.ofNat 8 (5 + 16 * cause)]) id else s

/-- TASKEND (R623): 0 YIELD, 1 DONE, 2 CANCELLED, 3 yielding CWAIT. -/
def State.traceEnd (s : State) (k arg : Nat) : State :=
  if s.traceI k then s.packet k (fun _ => [BitVec.ofNat 8 (6 + 16 * arg)]) id else s

/-- Entry to SLEEP (R622, R624, R633): a SLEEP cairn, and the frame closes. -/
def State.traceSleep (s : State) (k : Nat) : State :=
  let s1 := if s.traceOn k && !(s.core k).tr.excluded then (s.flushTaken k).cairn k 2 0 0 0 0 0 else s
  (s1.closeFrame k).modTr k fun t => { t with due := 3 :: t.due }

/-- A frame goes to the fallback buffer (R627). -/
def State.toFallback (s : State) (f : Frame) : State :=
  if s.trace.fb.length < 4096 then s.modTrace fun t => { t with fb := t.fb ++ [f] }
  else (s.modTrace fun t => { t with fb := t.fb.drop 1 ++ [f], head := (t.head + 1) % 4096 }).bump .TR_FB_OVERWRITE 0 .COUNT 1

/-- A trace write has completed with a bus error (R627, R632). -/
def State.traceBusErr (s : State) : State :=
  ((s.wr .TR_STATUS 0 .ERR 1).modTrace fun t => { t with busErr := true, draining := false }).traceRoute

/-- The ring is full and may not wrap (R626). -/
def State.traceFull (s : State) : Bool := s.trace.filled && s.rd .TR_RING 0 .WRAP == 0

/-- A frame is written to the ring (R626); the answer says whether a bus error ended it. -/
def State.toRing (s : State) (f : Frame) : Bool × State :=
  let n := 64 * s.rd .TR_RING_SIZE 0 .PAGES
  let line := s.rd .TR_WPTR 0 .LINE
  let a := 4096 * s.rd .TR_RING 0 .BASE + 64 * line
  if s.traceFull then (false, s.bump .TR_LOST 0 .COUNT f.packets)
  else
    let w := s.deepWrite 82 (s.rd .TR_RING 0 .KEY_ID) a f.bytes
    match w.1 with
    | some _ => (true, w.2.traceBusErr)
    | none =>
      let s1 := if s.trace.filled then w.2.wr .TR_WPTR 0 .WRAPPED 1 else w.2
      (false, if line + 1 < n then s1.wr .TR_WPTR 0 .LINE (line + 1)
        else (s1.wr .TR_WPTR 0 .LINE 0).modTrace fun t => { t with filled := true })

/-- TR_FLUSH (R622). -/
def execTrFlush (s : State) : Host.Outcome State Fault Refusal :=
  s.asWrite .TR_CTRL 0 fun s => .next (s.forEach (List.range 16) State.closeFrame)

/-- TR_ROUTE (R627). -/
def execTrRoute (s : State) : Host.Outcome State Fault Refusal :=
  s.asWrite .TR_CTRL 0 fun s =>
  .next ((s.modTrace fun t => { t with busErr := false }).traceRoute)

/-- CLEAR_FB (R628). -/
def execClearFb (s : State) : Host.Outcome State Fault Refusal :=
  s.asWrite .TR_CTRL 0 fun s =>
  .next (s.modTrace fun t => { t with fb := [], head := 0 })

/-- FRAME_FLUSH_TIMER (R622). -/
def execFrameFlushTimer (core : Nat) (s : State) : Host.Outcome State Fault Refusal := .next (s.closeFrame core)

/-- CAIRN_TIMER (R624, R625): PERIODIC falls due at the next instruction boundary. -/
def execCairnTimer (core : Nat) (s : State) : Host.Outcome State Fault Refusal :=
  if s.rd .TR_CTRL 0 .CAIRN_US ≠ 0 ∧ s.traceOn core = true then .next (s.modTr core fun t => { t with due := 0 :: t.due })
  else .next s

/-- TRACE_FRAME_WRITE (R626 to R628): the frame that closed first goes to the ring, or to the fallback buffer; it waits behind a drain. -/
def execTraceFrameWrite (s0 : State) : Host.Outcome State Fault Refusal :=
  let s := s0.traceRoute
  match s.trace.closed with
  | [] => .next s
  | f :: rest =>
    if s.trace.draining then .next s
    else
      let s1 := s.modTrace fun t => { t with closed := rest }
      if s.trace.onRing then .next (s1.toRing f).2 else .next (s1.toFallback f)

/-- TRACE_BUS_ERROR (R627): the write of the frame that closed first completes with a bus error. -/
def execTraceBusError (s : State) : Host.Outcome State Fault Refusal :=
  .next (s.modTrace fun t => { t with closed := if t.draining || !t.onRing then t.closed else t.closed.drop 1 }).traceBusErr

/-- Frames of the fallback buffer are copied to the ring, oldest first, until a bus error (R628, R632). -/
def State.drainFrames (s : State) : List Frame → State
  | [] => s
  | f :: rest =>
    let w := s.toRing f
    if w.1 then w.2
    else (w.2.modTrace fun t => { t with fb := t.fb.drop 1, head := (t.head + 1) % 4096 }).drainFrames rest

/-- FALLBACK_DRAIN_DONE (R628). -/
def execFallbackDrainDone (s0 : State) : Host.Outcome State Fault Refusal :=
  let s := s0.traceRoute
  if s.trace.draining then .next ((s.drainFrames s.trace.fb).modTrace fun t => { t with draining := false })
  else .next s

/-- A slot's token is gone (R630). -/
def State.dropToken (s : State) (t : Nat) : State :=
  (s.wrs .TR_TOKEN t [(.VALID, 0), (.KEY_ID, 0), (.SCOPE, 0)]).modTrace fun u => { u with domains := tset u.domains t 0 }

/-- The tokens of a key ID lapse (R630). -/
def State.lapseTokens (s : State) (key : Nat) : State :=
  s.forEach ((List.range 8).filter fun t => s.rd .TR_TOKEN t .VALID == 1 && s.rd .TR_TOKEN t .KEY_ID == key) State.dropToken

/-- TR_CHALLENGE, drawn from the DRBG at power-on (R629). -/
def State.challenge (s : State) : Nat := leNat ((List.range 8).map (Config.drbg s.trace.chal))

/-- The result of a token's checks (R629, R634, R635): form, signing key, roll, signature, serial and challenge. -/
def State.tokenResult (s : State) (b : List Byte) : Nat :=
  let num := fun lo n => leNat ((b.drop lo).take n)
  let key := num 5 1
  if b.length ≠ 144 ∨ num 0 4 ≠ 0x51544B4E ∨ num 4 1 ≠ 1 ∨ num 6 2 > 3 ∨ num 8 8 ≥ 2 ^ 40 ∨ num 0x20 16 ≠ 0 then 1
  else if key ≠ 0 ∧ s.rd .MP_KEYSTATE key .INSTALLED = 0 then 5
  else if key ≠ 0 ∧ s.rd .MP_KEYSTATE key .ROLLING = 1 then 6
  else
    let pub := if key = 0 then s.part.fwKey else (tget ⟨[], [], 0, 0⟩ s.keys.keys key).sign
    if ecdsaVerify pub (sha384 (b.take 0x30)) (num 0x30 48) (num 0x60 48) = false then 2
    else if num 8 8 ≠ s.rd .LD_SERIAL 0 .SERIAL ∨ num 0x10 8 ≠ s.challenge then 3
    else 0

/-- TOKEN_LOAD (R630, R635). -/
def execTokenLoad (slot : Nat) (s : State) : Host.Outcome State Fault Refusal :=
  s.asWrite .TR_TOKEN_CMD 0 fun s =>
  if s.rd .TR_TOKEN_CMD 0 .BUSY = 1 then .next s
  else .next (((s.wrs .TR_TOKEN_CMD 0 [(.SLOT, slot), (.BUSY, 1)]).modTrace fun t => { t with loading := some (slot % 8) }).emit
    (.hostRead (s.rd .TR_TOKEN_ADDR_LO 0 .ADDR + 2 ^ 40 * s.rd .TR_TOKEN_ADDR_HI 0 .ADDR) 144))

/-- TOKEN_LOAD_DONE (R629, R635): the 144 bytes have been read, or the read failed. -/
def execTokenLoadDone (ok : Bool) (bytes : List Byte) (s : State) : Host.Outcome State Fault Refusal :=
  match s.trace.loading with
  | none => .next s
  | some t =>
    let res := if ok then s.tokenResult bytes else 4
    let s1 := (s.wrs .TR_TOKEN_CMD 0 [(.BUSY, 0), (.RESULT, res)]).modTrace fun u => { u with loading := none }
    if res = 0 then
      let num := fun lo n => leNat ((bytes.drop lo).take n)
      .next ((s1.wrs .TR_TOKEN t [(.VALID, 1), (.KEY_ID, num 5 1), (.SCOPE, num 6 2)]).modTrace fun u => { u with domains := tset u.domains t (num 0x18 8) })
    else .next s1

/-- TOKEN_REVOKE (R630). -/
def execTokenRevoke (slot : Nat) (s : State) : Host.Outcome State Fault Refusal :=
  s.asWrite .TR_TOKEN_CMD 0 fun s =>
  if s.rd .TR_TOKEN_CMD 0 .BUSY = 1 then .next s
  else .next ((s.wrs .TR_TOKEN_CMD 0 [(.SLOT, slot), (.RESULT, 0)]).dropToken (slot % 8))

end Sys2Proof.Machine
end

