-- ==== Sys2Proof/Machine/Sched.lean ====
section
/-! DEFINITION. The task scheduler: flag events and readiness (R460, R465, R466), ready lists and bivouac slots (R461, R462), tickets (R463). -/

namespace Sys2Proof.Machine

/-- A task entry. -/
def State.task (s : State) (i : Nat) : Task := tget Task.reset s.tasks i

/-- A task entry changed. -/
def State.modTask (s : State) (i : Nat) (f : Task → Task) : State := { s with tasks := tmod Task.reset s.tasks i f }

/-- An ordered flow changed. -/
def State.modFlow (s : State) (f : Nat) (g : Flow → Flow) : State := { s with flows := tmod Flow.reset s.flows f g }

/-- The power state of a core (R428). -/
def State.pstate (s : State) (k : Nat) : Nat := s.rd .CC_STATUS k .PSTATE

/-- The core takes tasks: ENABLE = 1 and not STOPPED (R426, R429). -/
def State.coreTakes (s : State) (k : Nat) : Bool := s.rd .CC_CTRL k .ENABLE == 1 && s.pstate k != 3

/-- The tasks in a core's ready list, in its bivouac slot and running (R461). -/
def Core.load (c : Core) : Nat := c.ready.length + bit c.slot.isSome + bit c.run.isSome

/-- The core that a READY task joins (R461): of the enabled ones in its AFFINITY the one with the fewest tasks, the lowest number on a tie. -/
def State.chooseCore (s : State) (aff : Nat) : Option Nat :=
  ((List.range 16).filter fun k => aff.testBit k && s.coreTakes k).foldl
    (fun b k => match b with
      | none => some k
      | some j => if (s.core k).load < (s.core j).load then some k else some j) none

/-- An empty bivouac slot takes the head of the ready list (R459, R462). -/
def State.fillSlot (s : State) (k : Nat) : State :=
  match (s.core k).slot, (s.core k).ready with
  | none, i :: rest =>
    (s.modCore k fun c => { c with slot := some ⟨i, false, [], none⟩, ready := rest }).modTask i fun t => { t with state := 3 }
  | _, _ => s

/-- A READY task joins the tail of a ready list, or waits unlisted (R461). -/
def State.listTask (s : State) (i : Nat) : State :=
  match s.chooseCore (s.task i).aff with
  | none => { s with unlisted := s.unlisted ++ [i] }
  | some k => ((s.modCore k fun c => { c with ready := c.ready ++ [i] }).modTask i fun t => { t with core := k }).fillSlot k

/-- A task becomes READY (R459). -/
def State.makeReady (s : State) (i : Nat) : State := (s.modTask i fun t => { t with state := 2 }).listTask i

/-- A task in WAIT whose condition is met becomes READY (R459, R460). -/
def State.judge (s : State) (i : Nat) : State :=
  let t := s.task i
  if t.state = 1 ∧ t.flags &&& t.mask = t.mask then s.makeReady i else s

/-- A flag-set event (R465, R466). -/
def State.setFlags (s : State) (i : Nat) (x : Word) : State := (s.modTask i fun t => { t with flags := t.flags ||| x }).judge i

/-- READY tasks that waited for an enabled core are listed, in order (R461). -/
def State.relist (s : State) : State := s.unlisted.foldl State.listTask { s with unlisted := [] }

/-- The tasks of a core's bivouac slot and ready list return to READY and are listed again (R679, R461); a core left with none is IDLE (R428). -/
def State.unlist (s : State) (k : Nat) : State :=
  let s1 := (((s.core k).slot.map Slot.task).toList ++ (s.core k).ready).foldl State.makeReady (s.modCore k fun x => { x with slot := none, ready := [] })
  if s1.pstate k == 0 && (s1.core k).run.isNone then s1.wr .CC_STATUS k .PSTATE 1 else s1

/-- No lower ticket of the flow is unreleased (R463). -/
def State.oldest (s : State) (f t : Nat) : Bool := (tget Flow.reset s.flows f).unreleased.all fun x => decide (t ≤ x)

/-- The task shown by the window (R468). -/
def State.selTask (s : State) : Nat := s.rd .TS_TASK_SEL 0 .INDEX

/-- A refused command of the task window. -/
def State.taskErr (s : State) : State := s.wr .TS_TASK_CMD 0 .CMD_ERR 1

/-- TASK_ARM (R459, R463): a FREE task takes the next ticket of its flow and waits; its ticket is shown (R468). -/
def execTaskArm (s : State) : Host.Outcome State Fault Refusal :=
  s.asWrite .TS_TASK_CMD 0 fun s =>
  let i := s.selTask
  let t := s.task i
  if t.state = 0 then
    let n := (tget Flow.reset s.flows t.flow).next
    let s1 := if t.flow = 0 then s
      else s.modFlow t.flow fun x => { next := n + 1, unreleased := x.unreleased ++ [n] }
    .next ((s1.modTask i fun x => { x with state := 1, ticket := if t.flow = 0 then 0 else n, cause := 0, pendCancel := false }).judge i)
  else .next s.taskErr

/-- TASK_FREE (R459): a DONE or CANCELLED task whose flow has released it, every lower ticket being released. -/
def execTaskFree (s : State) : Host.Outcome State Fault Refusal :=
  s.asWrite .TS_TASK_CMD 0 fun s =>
  let i := s.selTask
  let t := s.task i
  if (t.state = 5 ∨ t.state = 6) ∧ (t.flow = 0 ∨ s.oldest t.flow t.ticket = true) then .next (s.modTask i fun x => { x with state := 0 })
  else .next s.taskErr

/-- TS_TASK_FLAGS_WRITE (R465): each 1 written is a flag-set event. -/
def execTsTaskFlagsWrite (x : Word) (s : State) : Host.Outcome State Fault Refusal :=
  s.asWrite .TS_TASK_FLAGS 0 fun s => .next (s.setFlags s.selTask x)

/-- The words of a context block (R420). -/
def ctxWords (bs : List Byte) : List Word := (List.range 32).map fun i => BitVec.ofNat 40 (leNat ((bs.drop (8 * i)).take 8))

/-- The bytes of a context block (R420): PC, then C1 to C31. -/
def Core.ctxBytes (c : Core) (pc : Nat) : List Byte :=
  leBytes pc 8 ++ (List.range 31).flatMap fun i => leBytes (tget 0 c.c (i + 1)).toNat 8

/-- BIVOUAC_LOAD_DONE (R462, R420): the context of the task in the slot has been read under its domain's key ID. -/
def execBivouacLoadDone (core : Nat) (s : State) : Host.Outcome State Fault Refusal :=
  match (s.core core).slot with
  | some ⟨i, false, _, _⟩ =>
    let key := s.rd .CC_DOM_CFG (s.task i).dom .KEY_ID
    let a := 64 * (s.task i).ctx
    let w := s.deepFetch (64 + core) key a 256
    .next (w.2.modCore core fun x =>
      { x with slot := some (if w.1.isSome then ⟨i, true, [], w.1⟩ else ⟨i, true, ctxWords (s.deepRead a 256), none⟩) })
  | _ => .next s

end Sys2Proof.Machine
end

