-- ==== Sys2Proof/Machine/ChanBase.lean ====
section
/-! DEFINITION. Channels: message form (R441, R442), sequence numbers and credits (R444, R445), rings and mirrors (R443, R454, R730), partner errors (R451). -/

namespace Sys2Proof.Machine

/-- A channel. -/
def State.chan (s : State) (h : Nat) : Chan := tget Chan.reset s.chans h

/-- A channel changed. -/
def State.modChan (s : State) (h : Nat) (f : Chan → Chan) : State := { s with chans := tmod Chan.reset s.chans h f }

/-- The state of a channel (R467): 0 DISABLED, 1 QUIESCING, 2 QUIESCED, 3 ACTIVE. -/
def State.chState (s : State) (h : Nat) : Nat := s.rd .CH_CTRL h .STATE

/-- The kind of the A end (R467): 0 HOST, 1 PEER, 2 TASK. -/
def State.akind (s : State) (h : Nat) : Nat := s.rd .CH_CFG h .AKIND

/-- The B end is a TASK. -/
def State.btask (s : State) (h : Nat) : Bool := s.rd .CH_CFG h .BKIND == 1

/-- Host-assisted mode (R454). -/
def State.assisted (s : State) (h : Nat) : Bool := s.rd .CH_CFG h .MODE == 1

/-- The camp that owns a channel (R438). -/
def State.chCamp (s : State) (h : Nat) : Nat := s.rd .CH_CFG h .CAMP

/-- GRANT, 1 to 16 (R444, R467). -/
def State.grant (s : State) (h : Nat) : Nat := let g := s.rd .CH_CTRL h .GRANT; if g = 0 then 16 else g

/-- The difference of two sequence numbers as a signed 32-bit number (R444). -/
def seqDiff (a b : Nat) : Int := (BitVec.ofNat 32 a - BitVec.ofNat 32 b).toInt

/-- The bytes of a message (R441), with its CRC. -/
def Msg.bytes (m : Msg) : List Byte :=
  let h1 := leBytes 0x5143 2 ++ leBytes m.type 1 ++ [0] ++ leBytes m.seq 4 ++ leBytes m.payload.length 1 ++ leBytes m.chan 1 ++ [0, 0] ++ leBytes m.credit 4
  let h2 := List.replicate 12 0
  let body := m.payload.flatMap fun w => leBytes w.toNat 8
  h1 ++ leBytes (crc32 (h1 ++ [0, 0, 0, 0] ++ h2 ++ body)) 4 ++ h2 ++ body

/-- Payload words of a message's bytes. -/
def payloadOf (b : List Byte) (len : Nat) : List Word := (List.range len).map fun i => BitVec.ofNat 40 (leNat ((b.drop (0x20 + 8 * i)).take 8))

/-- The first non-zero byte at one of the offsets. -/
def firstSet (b : List Byte) (offs : List Nat) : Option Nat := offs.find? fun i => b.getD i 0 != 0

/-- The offset for which a message from a partner is malformed (R442), the checks in offset order; none where it is well formed. -/
def malformed (b : List Byte) (h : Nat) : Option Nat :=
  let len := (b.getD 8 0).toNat
  if leNat (b.take 2) ≠ 0x5143 then some 0
  else if 1 < (b.getD 2 0).toNat then some 2
  else if b.getD 3 0 ≠ 0 then some 3
  else if 16 < len then some 8
  else if (b.getD 9 0).toNat ≠ h then some 9
  else match firstSet b [0xA, 0xB] with
    | some i => some i
    | none =>
      if leNat ((b.drop 0x10).take 4) ≠ crc32 (b.take 0x10 ++ [0, 0, 0, 0] ++ (b.drop 0x14).take (0xC + 8 * len)) then some 0x10
      else firstSet b ((List.range 12).map (· + 0x14) ++ (List.range len).flatMap fun i => [0x25 + 8 * i, 0x26 + 8 * i, 0x27 + 8 * i])

/-- A message read from its bytes. -/
def msgOf (b : List Byte) : Msg :=
  { type := (b.getD 2 0).toNat, seq := leNat ((b.drop 4).take 4), chan := (b.getD 9 0).toNat, credit := leNat ((b.drop 12).take 4),
    payload := payloadOf b (min 16 (b.getD 8 0).toNat), err := false }

/-- The exchange of the cycle in progress is over, or not yet begun and the camp not RUNNING: an event now belongs to the next exchange (R456, R471). -/
def State.eventCycle (s : State) (c : Nat) : Nat :=
  let cyc := (s.camp c).cycle.toNat
  if s.campState c == 3 && (s.camp c).turns.isNone && (s.campDies c).any (fun d => decide (4096 + 11 ≤ posCode (s.group c d).pos)) then cyc + 1 else cyc

/-- The camp takes its inputs from the replay log (R262). -/
def State.replays (s : State) (c : Nat) : Bool := s.rd .DC_REPLAY_CTRL c .REPLAY == 1

/-- A partner error is recorded (R451, R475): counted, and logged, of several at once the lowest code. -/
def State.chError (s : State) (h code off seq cyc : Nat) : State :=
  let s1 := match code with
    | 1 => s.bump .CH_DUP_COUNT h .COUNT 1
    | 3 => s.bump .CH_REJECT_COUNT h .COUNT 1
    | 4 => s.bump .CH_REJECT_COUNT h .COUNT 1
    | 5 => s.bump .CH_TIMEOUT_COUNT h .COUNT 1
    | _ => s
  s1.logIn .CH_ERR_LOG h [s.ticks] [(.CODE, code), (.OFFSET, off)] false (decide (code < s.rd .CH_ERR_LOG h .CODE)) fun t => (t.wr .CH_ERR_SEQ h .SEQ seq).wr .CH_ERR_CYCLE h .CYCLE cyc

/-- A partner error met live, with its PARTNER entry (R456). -/
def State.partnerError (s : State) (h code off seq : Nat) : State :=
  let c := s.chCamp h
  let cyc := s.eventCycle c
  let s1 := s.chError h code off seq cyc
  if s.replays c then s1
  else s1.modCamp c fun x => { x with logWait := x.logWait ++ [⟨3, h, code, cyc, [seq % 2 ^ 32 + 2 ^ 32 * off]⟩] }

/-- Slots of a ring (R443). -/
def State.ringSize (s : State) (h : Nat) : Nat := 2 ^ s.rd .CH_RING h .LOG2

/-- The deep address of a slot of the mirror: inbound or outbound ring (R443). -/
def State.mirrorAddr (s : State) (h : Nat) (out : Bool) (i : Nat) : Nat :=
  4096 * s.rd .CH_RING h .MIRROR + 256 * ((if out then s.ringSize h else 0) + i % s.ringSize h)

/-- The host address of a byte of the ring area (R443). -/
def State.hostRing (s : State) (h off : Nat) : Nat := s.rd .CH_HRING_LO h .ADDR + 2 ^ 40 * s.rd .CH_HRING_HI h .ADDR + off

/-- The outbound ring is full: its producer index is 2^LOG2 − 1 ahead of the host's consumer index (R443, R454). -/
def State.ringFull (s : State) (h : Nat) : Bool :=
  decide (s.ringSize h - 1 ≤ (s.rd .CH_OUT_IDX h .PROD + (s.chan h).copying.length + 65536 - s.rd .CH_OUT_IDX h .CONS) % 65536)

/-- A message toward the partner may go as far as credit and room are concerned (R439, R445, R454). -/
def State.creditOk (s : State) (h : Nat) : Bool :=
  let seqOk := decide (seqDiff (s.rd .CH_SEQ_OUT h .NEXT) (s.rd .CH_LIMIT h .LIMIT) ≤ 0)
  if s.akind h = 2 then decide ((s.chan h).outq.length < 16)
  else if s.assisted h then !s.ringFull h
  else if s.akind h = 0 then seqOk && !s.ringFull h
  else seqOk

/-- A further DATA message toward the A end may be sent now, nothing waiting before it. -/
def State.maySend (s : State) (h : Nat) : Bool :=
  s.chState h == 3 && s.creditOk h && (s.akind h == 2 || (s.chan h).outq.isEmpty)

/-- CREDIT as every message carries it (R445). -/
def State.creditField (s : State) (h : Nat) : Nat := (s.rd .CH_SEQ_IN h .EXPECT + s.grant h + 2 ^ 32 - 1) % 2 ^ 32

/-- A flag bit of the channel's task is set (R467); bits above 39 name none. -/
def State.chEvent (s : State) (h bitNo : Nat) : State := s.setFlags (s.rd .CH_CFG h .TASK) (BitVec.ofNat 40 (2 ^ bitNo))

/-- A mirror ring access has met a bus error (R730): logged, and the channel quiesced. -/
def State.mirrorError (s : State) (h seq : Nat) : State :=
  let s1 := s.chError h 6 0 (if s.assisted h then 0 else seq) (s.eventCycle (s.chCamp h))
  (s1.wr .CH_CTRL h .STATE 1).modChan h fun x => { x with stuck := true }

/-- A message goes to the partner (R443, R445, R454); the answer says whether it went. A HOST end takes it into the outbound mirror first. -/
def State.toPartner (s : State) (h : Nat) (m : Msg) : Bool × State :=
  if s.akind h = 1 ∧ s.assisted h = false then
    (true, s.originate (s.rd .CH_PEER h .MODULE) 2 (.bytes { m with chan := s.rd .CH_PEER h .RCH }.bytes))
  else
    let i := s.rd .CH_OUT_IDX h .PROD + (s.chan h).copying.length
    let a := s.mirrorAddr h true i
    let w := s.deepWrite 86 (s.rd .RUN_CAMP_STATUS (s.chCamp h) .KEY_ID) a m.bytes
    match w.1 with
    | some _ => (false, w.2.mirrorError h m.seq)
    | none =>
      if s.assisted h then (true, (w.2.wr .CH_OUT_IDX h .PROD (s.rd .CH_OUT_IDX h .PROD + 1)).msix (s.rd .HI_CH_VEC h .VEC))
      else (true, w.2.modChan h fun x => { x with copying := x.copying ++ [m] })

/-- A DATA message is sent with the next sequence number (R444, R445); in host-assisted mode sequence numbers are ignored. -/
def State.sendData (s : State) (h : Nat) (type : Nat) (payload : List Word) : Bool × State :=
  let n := s.rd .CH_SEQ_OUT h .NEXT
  if s.assisted h then s.toPartner h ⟨type, 0, h, 0, payload, false⟩
  else
    let w := s.toPartner h ⟨type, n, h, s.creditField h, payload, false⟩
    if w.1 then (true, (w.2.wr .CH_SEQ_OUT h .NEXT (n + 1)).modChan h fun x => { x with creditDue := false, fired := false }) else w

/-- Messages that wait go out in order while they may (R445, R464), at most `n`. -/
def State.pumpData (s : State) (h : Nat) : Nat → State
  | 0 => s
  | n + 1 =>
    match (s.chan h).outq with
    | [] => s
    | m :: rest =>
      if s.akind h ≠ 2 ∧ s.chState h = 3 ∧ s.creditOk h = true then
        let w := s.sendData h m.type m.payload
        if w.1 then (w.2.modChan h fun x => { x with outq := rest }).pumpData h n else w.2
      else s

/-- A CREDIT message that is due goes once no DATA waits and there is room (R445). -/
def State.pumpCredit (s : State) (h : Nat) : State :=
  if (s.chan h).creditDue = true ∧ (s.chan h).outq = [] ∧ s.chState h ≠ 0 ∧ s.chState h ≠ 2 ∧ (s.akind h = 0 → s.ringFull h = false) then
    (s.toPartner h ⟨1, 0, h, s.creditField h, [], false⟩).2.modChan h fun x => { x with creditDue := false }
  else s

/-- Everything that waits to leave a channel goes as far as it may. -/
def State.pump (s : State) (h : Nat) : State := (s.pumpData h (s.chan h).outq.length).pumpCredit h

/-- After a change of credit or room on a channel: what waits goes out, and EV_TX is set where sending has become possible (R467). -/
def State.afterRoom (s : State) (h : Nat) (before : Bool) : State :=
  let s1 := s.pump h
  if before = false ∧ s1.maySend h = true ∧ (s.btask h || s.akind h == 2) = true then s1.chEvent h (s.rd .CH_CTRL h .EV_TX) else s1

/-- EXPECT advances (R444, R445): a CREDIT message falls due and goes where no DATA waits, except in host-assisted mode and at TASK ends. -/
def State.advanceExpect (s : State) (h : Nat) : State :=
  ((s.wr .CH_SEQ_IN h .EXPECT (s.rd .CH_SEQ_IN h .EXPECT + 1)).modChan h fun x =>
    { x with creditDue := s.akind h != 2 && !s.assisted h, fired := false }).pumpCredit h

/-- A message joins those ready for the B end (R439, R467). -/
def State.enqueueIn (s : State) (h : Nat) (m : Msg) : State :=
  let s1 := s.modChan h fun x => { x with inq := x.inq ++ [m] }
  if s.btask h then s1.chEvent h (s.rd .CH_CTRL h .EV_RX) else s1

/-- Held messages that continue the sequence follow (R444), at most `n`. -/
def State.followHeld (s : State) (h : Nat) : Nat → State
  | 0 => s
  | n + 1 =>
    match (s.chan h).held.find? fun m => m.seq == s.rd .CH_SEQ_IN h .EXPECT with
    | none => s
    | some m => (((s.modChan h fun x => { x with held := x.held.erase m }).enqueueIn h m).advanceExpect h).followHeld h n

/-- HELD shows the held messages (R467). -/
def State.showHeld (s : State) (h : Nat) : State := s.wr .CH_SEQ_IN h .HELD (s.chan h).held.length

/-- The credit that a message carries raises LIMIT if newer (R445). -/
def State.takeCredit (s : State) (h credit : Nat) : State :=
  if 0 < seqDiff credit (s.rd .CH_LIMIT h .LIMIT) then s.wr .CH_LIMIT h .LIMIT credit else s

/-- A DATA message by its difference from EXPECT (R444, R451, R473). -/
def State.takeData (s : State) (h : Nat) (m : Msg) : State :=
  let d := seqDiff m.seq (s.rd .CH_SEQ_IN h .EXPECT)
  if d < 0 ∨ (s.chan h).held.any (fun x => x.seq == m.seq) = true then s.partnerError h 1 0 m.seq
  else if d = 0 then ((((s.enqueueIn h m).advanceExpect h).followHeld h 16).showHeld h)
  else if d < s.grant h then
    let s1 := if (s.chan h).held = [] then s.partnerError h 2 0 (s.rd .CH_SEQ_IN h .EXPECT) else s
    (s1.modChan h fun x => { x with held := x.held ++ [m] }).showHeld h
  else s.partnerError h 4 0 m.seq

/-- A message from the partner is checked and taken (R442, R444, R445). DEDUCED (log 55), unsafe. -/
def State.receive (s : State) (h : Nat) (b : List Byte) : State :=
  match malformed b h with
  | some off => s.partnerError h 3 off (leNat ((b.drop 4).take 4))
  | none =>
    let before := s.maySend h
    let m := msgOf b
    let s1 := s.takeCredit h m.credit
    let s2 := if m.type = 0 then s1.takeData h m else s1
    s2.afterRoom h before

/-- The B end, or a TASK A end, takes the next message; held messages behind an error record then follow (R444, R453, R457). -/
def State.dropIn (s : State) (h : Nat) : State :=
  let s1 := s.modChan h fun x => { x with inq := x.inq.drop 1, fired := false }
  let s2 := if (s.chan h).errWait && ((s.chan h).inq.headD ⟨0, 0, 0, 0, [], false⟩).err then
      ((s1.modChan h fun x => { x with errWait := false }).followHeld h 16).showHeld h
    else s1
  if s.akind h = 2 ∧ 16 ≤ (s.chan h).inq.length ∧ (s2.chan h).inq.length < 16 then s2.chEvent h (s.rd .CH_CTRL h .EV_TX) else s2.pump h

end Sys2Proof.Machine
end

