-- ==== Sys2Proof/Machine/Exchange.lean ====
section
/-! DEFINITION. The record exchange of ports in B3 to B10 (R446 to R450), the replay log written and read (R455 to R457), and replay with comparison (R262, R263). -/

namespace Sys2Proof.Machine

/-- A port-table entry (R447) with its module pitch. -/
structure Port where
  pitch : Nat
  port : Nat
  j : Nat
  base : Nat
  nin : Nat
  nout : Nat
  blockIn : Bool
  blockOut : Bool
  unpk : Bool
  baddr : Nat
  deriving DecidableEq, Repr

/-- The valid ports of a pitch's table (R447). -/
def portsOf (p : Nat) (tab : List Inst80) : List Port :=
  tab.filterMap fun w =>
    let n := w.toNat
    if n.testBit 79 then
      some ⟨p, bitsOf n 0 8, bitsOf n 8 3, bitsOf n 11 16, bitsOf n 27 5, bitsOf n 32 5, n.testBit 37, n.testBit 38, n.testBit 39, bitsOf n 40 10⟩
    else none

/-- The ports of a camp on this module (R446). -/
def State.ports (s : State) (c : Nat) : List Port := (s.camp c).portTab.flatMap fun e => portsOf e.1 e.2

/-- The ACTIVE channel of a port; the lowest where several name it. -/
def State.portChan (s : State) (c p : Nat) : Option Nat :=
  (List.range 256).find? fun h =>
    s.chState h == 3 && s.chCamp h == c && s.rd .CH_CFG h .PORT == p && !s.btask h

/-- The channel whose next message a port takes: the ACTIVE one, or one being quiesced or QUIESCED whose next message is the error record of a wait that has timed out (R453, R472). -/
def State.portFrom (s : State) (c p : Nat) : Option Nat :=
  (s.portChan c p).or ((List.range 256).find? fun h =>
    (s.chState h == 1 || s.chState h == 2) && s.chCamp h == c && s.rd .CH_CFG h .PORT == p && !s.btask h
      && ((s.chan h).inq.head?.map (·.err)) == some true)

/-- The cluster that holds a port's words. -/
def State.portCluster (s : State) (p : Port) : Nat := s.clusterAt p.pitch p.j

/-- Words of cluster memory read by the exchange (R148, R449). -/
def State.readWords (s : State) (k : Nat) : List Nat → List Word × State
  | [] => ([], s)
  | a :: l =>
    let r := s.wuRead k a
    let q := r.2.readWords k l
    (r.1 :: q.1, q.2)

/-- Words of cluster memory written by the exchange. -/
def State.writeWords (s : State) (k a : Nat) (ws : List Word) : State := s.forEach ws.zipIdx fun t e => t.wuWrite k (a + e.2) e.1

/-- The outbound words of a port (R447). -/
def State.outWords (s : State) (p : Port) : List Word × State :=
  s.readWords (s.portCluster p) ((List.range p.nout).map fun i => p.base + 2 + p.nin + i)

/-- A port's record goes to its channel (R449): to the partner, or into the queue of the TASK end; the answer says whether it was taken. -/
def State.portSend (s : State) (h : Nat) (ws : List Word) : Bool × State :=
  if s.akind h = 2 then
    (true, (s.modChan h fun x => { x with outq := x.outq ++ [⟨0, 0, h, 0, ws, false⟩] }).chEvent h (s.rd .CH_CTRL h .EV_RX))
  else s.sendData h 0 ws

/-- The first IN words of a payload, zero beyond its length (R449). -/
def padWords (n : Nat) (ws : List Word) : List Word := (List.range n).map fun i => ws.getD i 0

/-- The end of a port's exchange (R448, R449): inbound words, status word, and its bits unpacked, which the boundary-record list remembers (R253). -/
def State.closeTurn (s : State) (p : Port) (t : PortTurn) : State :=
  let k := s.portCluster p
  let s1 := if t.status.testBit 0 then s.writeWords k (p.base + 2) t.inWords else s
  let s2 := s1.wuWrite k (p.base + 1) (BitVec.ofNat 40 t.status)
  if p.unpk then
    s2.modCluster k fun cl => (List.range 40).foldl (fun x b =>
      let v := t.status.testBit b
      { x.modBp b (fun y => { y with bits := y.bits.put p.baddr v }) with exch := x.exch ++ [⟨p.baddr, b, v⟩] }) cl
  else s2

/-- A port's turn taken as far as its channel allows (R449): OUT, then REQ; an unmet side waits where it blocks. -/
def State.tryTurn (s : State) (c : Nat) (p : Port) (t : PortTurn) : PortTurn × State :=
  let ch := s.portChan c p.port
  let o : PortTurn × State :=
    if t.out then
      match ch.filter s.maySend with
      | some h =>
        let r := s.outWords p
        let w := r.2.portSend h r.1
        if w.1 then ({ t with out := false, status := t.status + 2, outWords := r.1 }, w.2)
        else ({ t with out := p.blockOut }, w.2)
      | none => ({ t with out := p.blockOut }, s)
    else (t, s)
  if o.1.req && !o.1.out then
    match (s.portFrom c p.port).bind fun h => (o.2.chan h).inq.head?.map fun m => (h, m) with
    | some (h, m) =>
      ({ o.1 with req := false, status := o.1.status + 1 + 4 * bit m.err, inWords := padWords p.nin m.payload }, o.2.dropIn h)
    | none => ({ o.1 with req := p.blockIn }, o.2)
  else o

/-- No side of the turn waits any more. -/
def PortTurn.ready (t : PortTurn) : Bool := !t.out && !t.req

/-- A turn of the exchange stored. -/
def State.setTurn (s : State) (c : Nat) (t : PortTurn) : State :=
  s.modCamp c fun x => { x with turns := x.turns.map fun l => l.map fun u => if u.port = t.port then t else u }

/-- Pages of the replay log of a camp. -/
def State.logBytes (s : State) (c : Nat) : Nat := 4096 * s.rd .TS_LOG_SIZE c .PAGES

/-- TS_LOG_KEEP (R469). -/
def State.logKeep (s : State) (c : Nat) : Nat := s.rd .TS_LOG_KEEP_LO c .KEEP + 2 ^ 40 * s.rd .TS_LOG_KEEP_HI c .KEEP

/-- The slots of a log entry (R456). -/
def LogEntry.slots (e : LogEntry) : List Nat :=
  (e.type + 16 * e.index + 4096 * e.payload.length + 2 ^ 17 * e.code) :: e.cycle :: e.payload

/-- The deep address of a byte offset of the log (R455). -/
def State.logAddr (s : State) (c pos : Nat) : Nat := 4096 * s.rd .TS_LOG_BASE c .PAGE + pos % s.logBytes c

/-- Slots written to the log one after the other from an offset; the first bus error ends it. -/
def State.writeSlots (s : State) (c pos : Nat) : List Nat → Option Nat × State
  | [] => (none, s)
  | x :: l =>
    let w := s.deepWrite 86 (s.rd .RUN_CAMP_STATUS c .KEY_ID) (s.logAddr c pos) (leBytes x 8)
    match w.1 with
    | some k => (some k, w.2)
    | none => w.2.writeSlots c (pos + 8) l

/-- Entries are written to the log (R455): a full log keeps the rest waiting, a bus error stops logging. -/
def State.writeLog (s : State) (c : Nat) : List LogEntry → State
  | [] => s.modCamp c fun x => { x with logQueue := [] }
  | e :: l =>
    let n := 8 * e.slots.length
    let pos := (s.camp c).logPos
    if (s.camp c).logStopped = true ∨ s.logBytes c = 0 then s.modCamp c fun x => { x with logQueue := [] }
    else if s.logKeep c + s.logBytes c < pos + n then s.modCamp c fun x => { x with logQueue := e :: l }
    else
      let w := s.writeSlots c pos e.slots
      match w.1 with
      | some _ => ((w.2.wr .TS_LOG_STATUS c .ERR 1).modCamp c fun x => { x with logStopped := true, logQueue := [] }).campIrq c .log
      | none => (w.2.modCamp c fun x => { x with logPos := (pos + n) % 2 ^ 64 }).writeLog c l

/-- Entries of one type in rising order of INDEX (R456). -/
def byIndex (l : List LogEntry) : List LogEntry := (List.range 256).flatMap fun i => l.filter fun e => e.index == i

/-- The settings of tags 1 to 15 as R259 encodes them. -/
def State.tagSlots (s : State) (c : Nat) : List Nat :=
  (List.range 15).map fun i =>
    let k := 16 * c + i + 1
    s.rd .DC_TAG k .NUM + 2 ^ 16 * s.rd .DC_TAG k .DEN + 2 ^ 32 * s.rd .DC_TAG k .EN + 2 ^ 48 * s.rd .DC_ACC k .ACC

/-- The entries of cycle n in log order (R456): IN, OUT, PARTNER, TIMEOUT, CLOCK, DTIME. -/
def State.cycleEntries (s : State) (c : Nat) : List LogEntry :=
  let x := s.camp c
  let n := x.cycle.toNat
  let ts := x.turns.getD []
  let ins := (ts.filter fun t => t.status.testBit 0).map fun t => (⟨1, t.port, t.status % 16, n, t.inWords.map (·.toNat)⟩ : LogEntry)
  let outs := (ts.filter fun t => t.status.testBit 1 || t.status.testBit 3).map fun t =>
    (⟨2, t.port, t.status % 16, n, if t.status.testBit 1 then t.outWords.map (·.toNat) else []⟩ : LogEntry)
  let due := x.logWait.filter fun e => decide (e.cycle ≤ n)
  byIndex ins ++ byIndex outs ++ byIndex (due.filter fun e => e.type == 3) ++ byIndex (due.filter fun e => e.type == 4)
    ++ (match x.clockNew with
      | some l => [⟨5, 0, 0, n + 1 + s.rd .DC_CTRL c .LEAD, l⟩]
      | none => [])
    ++ match x.dtNext with
      | some v => [⟨6, 0, 0, n, [v]⟩]
      | none => []

/-- A full log stalls the camp at (n, B10) until KEEP is raised (R455). -/
def State.logStall (s : State) (c : Nat) : State :=
  if (s.camp c).logQueue = [] ∨ s.rd .TS_LOG_STATUS c .FULL = 1 then s
  else
    (((s.wr .TS_LOG_STATUS c .FULL 1).campIrq c .log).raiseStall c 9 87 (some ((s.camp c).cycle.toNat, .bnd 10)))

/-- Boundary steps are executed: the camp's drains advance (R88, R253), and steps below the target are charged (R224). -/
def State.advance (s : State) (c n : Nat) : State :=
  (s.forEach (s.campClusters c) fun t k => t.modCluster k fun cl => cl.advanceDrains n).chargeSteps c n

/-- Every die group of the camp moves on to boundary step `n`; a halt already decided takes effect where it freezes there (R56). -/
def State.toBnd (s : State) (c n : Nat) : State :=
  (s.forEach (s.campDies c) fun t d => t.modGroup c d fun g => { g with pos := .bnd n }).haltIfFrozen c

/-- B10 is executed once the exchange is complete and nothing freezes the camp there (R215, R450, R455). -/
def State.leaveB10 (s : State) (c : Nat) : State :=
  if (s.camp c).turns = none ∧ (s.camp c).logQueue = [] ∧ s.campFrozen c = false ∧ s.campState c = 3 then (s.advance c 1).toBnd c 11 else s

/-- The end of the exchange once no port waits (R456): the entries are written. -/
def State.finishExchange (s : State) (c : Nat) : State :=
  let x := s.camp c
  let es := if s.replays c then [] else s.cycleEntries c
  let s1 := s.modCamp c fun y =>
    { y with logWait := y.logWait.filter (fun e => decide (x.cycle.toNat < e.cycle)), clockNew := none, turns := none }
  ((s1.writeLog c es).logStall c).leaveB10 c

/-- The turns of a camp taken as far as their channels allow, and the STALLs of those whose wait has ended (R450). -/
def State.tryTurns (s : State) (c : Nat) : List Stall × State :=
  ((s.camp c).turns.getD []).foldl (fun a u =>
    if u.ready then a
    else match (a.2.ports c).find? fun p => p.port == u.port with
      | none => a
      | some p =>
        let r := a.2.tryTurn c p u
        if r.1.ready then (a.1 ++ u.stall.toList, r.2.setTurn c { r.1 with stall := none }) else (a.1, r.2.setTurn c r.1)) ([], s)

/-- The turns that no longer wait are completed, unless the camp is frozen (R216, R450). -/
def State.closeTurns (s : State) (c : Nat) : State :=
  if s.campFrozen c then s
  else ((s.camp c).turns.getD []).foldl (fun t u =>
    if u.done || !u.ready then t
    else match (t.ports c).find? fun p => p.port == u.port with
      | none => t
      | some p => (t.closeTurn p u).setTurn c { u with done := true }) s

/-- The ports that wait are tried again (R450): a wait that has ended releases its STALL, and the last one ends the exchange. -/
def State.settle (s : State) (c frozen : Nat) : State :=
  match (s.camp c).turns with
  | none => s
  | some _ =>
    let r := s.tryTurns c
    let s1 := (r.2.releaseStalls c r.1 frozen).closeTurns c
    if ((s1.camp c).turns.getD []).all (fun u => u.done) then s1.finishExchange c else s1

/-- A port that waits raises a STALL at (n, B10) (R450). -/
def State.stallTurns (s : State) (c : Nat) : State :=
  ((s.camp c).turns.getD []).foldl (fun t u =>
    if u.ready || u.stall.isSome then t
    else
      let st : Stall := ⟨t.nextId, 9, 87, some ((s.camp c).cycle.toNat, .bnd 10), t.ownAddr⟩
      (t.setTurn c { u with stall := some st }).raiseStall c 9 87 st.pos) s

/-- The boundary-record lists of a camp's clusters begin anew (R253). -/
def State.clearExch (s : State) (c : Nat) : State := s.forEach (s.campClusters c) fun t k => t.modCluster k fun cl => { cl with exch := [] }

/-- The control word of each port begins its turn (R449). -/
def State.openTurns (s : State) (c : Nat) : List Port → List PortTurn × State
  | [] => ([], s)
  | p :: l =>
    let r := s.wuRead (s.portCluster p) p.base
    let q := r.2.openTurns c l
    (⟨p.port, r.1.getLsbD 1, r.1.getLsbD 0, 0, [], [], none, false⟩ :: q.1, q.2)

/-- The answer of a read of the log. -/
inductive LogRead where
  | stop (err : Bool)
  | entry (e : LogEntry) (next : Nat)
  deriving DecidableEq, Repr

/-- A slot of the log read, or a bus error. -/
def State.logSlot (s : State) (c pos : Nat) : Option Nat :=
  if (s.deepFetch 86 (s.rd .RUN_CAMP_STATUS c .KEY_ID) (s.logAddr c pos) 8).1.isSome then none else some (leNat (s.deepRead (s.logAddr c pos) 8))

/-- Slots of the log read one after the other. -/
def State.logSlots (s : State) (c : Nat) : Nat → Nat → Option (List Nat)
  | _, 0 => some []
  | pos, n + 1 => match s.logSlot c pos, s.logSlots c (pos + 8) n with
    | some x, some l => some (x :: l)
    | _, _ => none

/-- The entry at a position of the log (R456, R457): the log's end, a bus error or a malformed header stops. -/
def State.readLog (s : State) (c pos : Nat) : LogRead :=
  if (s.camp c).logPos ≤ pos ∨ pos < s.logKeep c ∨ s.logBytes c = 0 then .stop false
  else match s.logSlot c pos with
    | none => .stop true
    | some hd =>
      let type := bitsOf hd 0 4
      let len := bitsOf hd 12 5
      if type = 0 ∨ 6 < type ∨ 16 < len ∨ 2 ^ 25 ≤ hd then .stop true
      else match s.logSlots c (pos + 8) (len + 1) with
        | none => .stop true
        | some l => .entry ⟨type, bitsOf hd 4 8, bitsOf hd 17 8, l.headD 0, l.drop 1⟩ (pos + 8 * (len + 2))

/-- An entry's inputs belong to cycles up to `n`. -/
def LogEntry.upTo (e : LogEntry) (n : Nat) : Bool := e.type == 5 || decide (e.cycle ≤ n)

/-- The entries of cycles up to `n` from a position, at most `fuel`: the entries, the position after them, and whether an error cut them off. -/
def State.logBatch (s : State) (c n : Nat) : Nat → Nat → List LogEntry × Nat × Bool
  | 0, pos => ([], pos, false)
  | fuel + 1, pos => match s.readLog c pos with
    | .stop err => ([], pos, err)
    | .entry e next =>
      if e.upTo n then
        let r := s.logBatch c n fuel next
        (e :: r.1, r.2.1, r.2.2)
      else ([], pos, false)

/-- The entries that the rest of the log can hold at most. -/
def State.logFuel (s : State) (c : Nat) : Nat := ((s.camp c).logPos - (s.camp c).readPos) / 16 + 1

/-- The log holds no complete inputs of cycle `m` (R262, R457): it has ended, or an error cuts them off. -/
def State.logEnds (s : State) (c m : Nat) : Option Bool :=
  match s.readLog c (s.camp c).readPos with
  | .stop err => some err
  | .entry _ _ =>
    let r := s.logBatch c m (s.logFuel c) (s.camp c).readPos
    if r.2.2 then some true else none

/-- A replay ends at the present boundary (R262, R457): LOG_END, and RD_ERR where an error ended it. -/
def State.endReplay (s : State) (c : Nat) (err : Bool) : State :=
  let s1 := s.wr .DC_REPLAY_CTRL c .LOG_END 1
  if err then s1.wr .TS_LOG_STATUS c .RD_ERR 1 else s1

/-- Outbound words differ from the log (R263): the first mismatch is latched. -/
def State.diverge (s : State) (c : Nat) : State :=
  if s.rd .DC_REPLAY_CTRL c .DIVERGED = 1 then s
  else (s.wr .DC_REPLAY_CTRL c .DIVERGED 1).wr .DC_REPLAY_DIVERGE c .CYCLE (s.camp c).cycle.toNat

/-- A port's turn taken from the log (R457, R263). -/
def State.replayTurn (s : State) (c : Nat) (es : List LogEntry) (p : Port) (t : PortTurn) : State :=
  let i := es.find? fun e => e.type == 1 && e.index == p.port
  let o := es.find? fun e => e.type == 2 && e.index == p.port
  let r := s.outWords p
  let taken := match o with
    | some e => e.code.testBit 1
    | none => false
  let bad := s.rd .DC_REPLAY_CTRL c .COMPARE == 1 && taken
    && (!t.out || (r.1.map (·.toNat)) != (o.map (·.payload)).getD [])
  let status := (match i with | some e => e.code % 16 - e.code % 16 / 8 * 8 - e.code / 2 % 2 * 2 | none => 0)
    + (match o with | some e => e.code / 2 % 2 * 2 + e.code / 8 % 2 * 8 | none => 0)
  let ins := match i with
    | some e => padWords p.nin (e.payload.map (BitVec.ofNat 40))
    | none => []
  let s1 := (if taken then r.2 else s).closeTurn p { t with status := status, inWords := ins }
  if bad then s1.diverge c else s1

/-- The other entries of a cycle in replay (R457, R567): partner errors and timeouts repeat their logs and counts, and a DTIME entry its increment. -/
def State.replayEntry (s : State) (c : Nat) (e : LogEntry) : State :=
  let v := e.payload.headD 0
  match e.type with
  | 3 => s.chError e.index e.code (v / 2 ^ 32 % 256) (v % 2 ^ 32) e.cycle
  | 4 =>
    let s1 := s.chError e.index 5 0 (v % 2 ^ 32) e.cycle
    if 2 ≤ e.code then s1.haltCond c 3 else s1
  | 6 => s.modCamp c fun x => { x with dtNext := some (v % 2 ^ 64) }
  | 5 => s.modCamp c fun x => { x with clocks := x.clocks ++ [e] }
  | _ => s

/-- The slots of the log between two positions are read (R335, R351, R390). -/
def State.logTouch (s : State) (c pos n : Nat) : State :=
  s.forEach (List.range n) fun t i => (t.deepFetch 86 (t.rd .RUN_CAMP_STATUS c .KEY_ID) (t.logAddr c (pos + 8 * i)) 8).2

/-- The exchange of a cycle in replay (R457): no port waits, nothing is logged. -/
def State.replayExchange (s : State) (c : Nat) : State :=
  let n := (s.camp c).cycle.toNat
  let b := s.logBatch c n (s.logFuel c) (s.camp c).readPos
  let w := s.openTurns c (s.ports c)
  let s1 := ((s.ports c).zip w.1).foldl (fun t e => t.replayTurn c b.1 e.1 e.2) (w.2.clearExch c)
  let s2 := b.1.foldl (fun t e => t.replayEntry c e) s1
  let s3 := (s2.logTouch c (s.camp c).readPos ((b.2.1 - (s.camp c).readPos) / 8 + bit b.2.2)).modCamp c fun x =>
    { x with readPos := b.2.1, clockNew := none, dtNext := x.dtNext.or x.dtNew, dtNew := none }
  let s4 := match s3.logEnds c (n + 1) with
    | some err => s3.endReplay c err
    | none => s3
  (s4.toBnd c 10).leaveB10 c

/-- The exchange of a cycle (R449, R450, R455); an increment accepted before it begins takes effect at this cycle's B15 (R567, R575). -/
def State.liveExchange (s : State) (c : Nat) : State :=
  let w := s.openTurns c (s.ports c)
  let s1 := (w.2.modCamp c fun x => { x with turns := some w.1, dtNext := x.dtNew.or x.dtNext, dtNew := none }).toBnd c 10
  if s1.campState c = 3 then ((s1.clearExch c).settle c 0).stallTurns c else s1

/-- A write of KEEP lets waiting entries into the log, and its STALL ends once all are in (R455). -/
def State.keepWritten (s : State) (c frozen : Nat) : State :=
  if (s.camp c).logQueue = [] then s
  else
    let s1 := s.writeLog c (s.camp c).logQueue
    if (s1.camp c).logQueue = [] then ((s1.wr .TS_LOG_STATUS c .FULL 0).releaseCause c 9 (some 87) frozen).leaveB10 c else s1

/-- A channel change reaches the port that waits on it. -/
def State.settleChan (s : State) (h frozen : Nat) : State := if s.btask h then s else s.settle (s.chCamp h) frozen

end Sys2Proof.Machine
end

