-- ==== Sys2Proof/Machine/Channels.lean ====
section
/-! DEFINITION. The commands of channels: enable, quiesce, disable (R440), doorbells and rings (R443, R454, R695), messages (R444, R445), mirror errors (R730), timeouts (R452, R453), and the log's KEEP (R455). -/

namespace Sys2Proof.Machine

/-- A refused channel command or write (R440). -/
def State.chErr (s : State) (h : Nat) : State := s.wr .CH_CTRL h .CMD_ERR 1

/-- The configuration that ENABLE accepts (R438, R440, R467). -/
def State.chOk (s : State) (h : Nat) : Bool :=
  let c := s.chCamp h
  let st := s.campState c
  (st == 2 || st == 3 || st == 4) && s.akind h != 3 && !(s.akind h == 2 && s.btask h)
    && decide (4 ≤ s.rd .CH_RING h .LOG2) && decide (s.rd .CH_RING h .LOG2 ≤ 16)
    && (s.btask h || (s.ports c).any fun p => p.port == s.rd .CH_CFG h .PORT)

/-- CH_ENABLE (R440, R730). -/
def execChEnable (chan frozen : Nat) (s : State) : Host.Outcome State Fault Refusal :=
  s.asWrite .CH_CTRL chan fun s =>
  if (s.chState chan = 0 ∨ s.chState chan = 2) ∧ s.chOk chan = true then
    .next ((((s.wr .CH_CTRL chan .STATE 3).modChan chan fun x => { x with stuck := false }).pump chan).settleChan chan frozen)
  else .next (s.chErr chan)

/-- CH_QUIESCE (R440). -/
def execChQuiesce (chan : Nat) (s : State) : Host.Outcome State Fault Refusal :=
  s.asWrite .CH_CTRL chan fun s =>
  if s.chState chan = 3 then .next (s.wr .CH_CTRL chan .STATE 1) else .next (s.chErr chan)

/-- CHANNEL_QUIESCED (R440): nothing is moving any more. -/
def execChannelQuiesced (chan : Nat) (s : State) : Host.Outcome State Fault Refusal :=
  if s.chState chan = 1 ∧ ((s.chan chan).copying = [] ∨ (s.chan chan).stuck = true) then .next (s.wr .CH_CTRL chan .STATE 2) else .next s

/-- A channel becomes DISABLED, and what it held is discarded (R440). -/
def State.chDisable (s : State) (h : Nat) : State :=
  ((s.wr .CH_CTRL h .STATE 0).wr .CH_SEQ_IN h .HELD 0).modChan h fun _ => Chan.reset

/-- CH_DISABLE (R440). -/
def execChDisable (chan : Nat) (s : State) : Host.Outcome State Fault Refusal :=
  s.asWrite .CH_CTRL chan fun s =>
  if s.chState chan = 2 then .next (s.chDisable chan) else .next (s.chErr chan)

/-- A doorbell acts (R443, R605, R695): the indices are taken, unless the channel takes no doorbell or the producer index runs too far ahead. -/
def State.doorbell (s0 : State) (chan : Nat) (value : BitVec 32) (merged : Bool) (frozen : Nat) : State :=
  let s := if merged then s0.bump .ACQ_IN_OVERRATE 3 .COUNT 1 else s0
  let prod := value.toNat % 65536
  let ok := (s.chState chan == 3 || s.chState chan == 1) && s.akind chan == 0
    && decide ((prod + 65536 - s.rd .CH_IN_IDX chan .CONS) % 65536 ≤ s.ringSize chan - 1)
  if ok then
    let before := s.maySend chan
    (((s.wr .CH_IN_IDX chan .PROD prod).wr .CH_OUT_IDX chan .CONS (value.toNat / 65536)).afterRoom chan before).settleChan chan frozen
  else s.idError 5 0 (0x1000 * chan) 0

/-- A doorbell written behind a pending fence is held with it (R491). -/
def holdBell (b : Nat × BitVec 32 × Bool) : List Fence → List Fence
  | [] => []
  | [f] => [{ f with bells := f.bells ++ [b] }]
  | f :: l => f :: holdBell b l

/-- CHANNEL_DOORBELL (R443, R491, R605, R695): it acts, or is held while a fence is pending. -/
def execChannelDoorbell (chan : Nat) (value : BitVec 32) (merged : Bool) (frozen : Nat) (s : State) : Host.Outcome State Fault Refusal :=
  if s.noc.fences = [] then .next (s.doorbell chan value merged frozen)
  else .next { s with noc := { s.noc with fences := holdBell (chan, value, merged) s.noc.fences } }

/-- The inbound consumer index advances and, in hardware mode, is written to its slot in host memory (R443, R454). -/
def State.consume (s : State) (h : Nat) : State :=
  let s1 := s.wr .CH_IN_IDX h .CONS (s.rd .CH_IN_IDX h .CONS + 1)
  if s.assisted h then s1 else s1.emit (.hostWrite (s.hostRing h (512 * s.ringSize h + 8)) (leBytes (s1.rd .CH_IN_IDX h .CONS) 8))

/-- An inbound slot of a channel in hardware mode goes into the mirror and is checked (R443, R730). -/
def State.slotFetched (s : State) (h : Nat) (b : List Byte) : State :=
  let a := s.mirrorAddr h false (s.rd .CH_IN_IDX h .CONS)
  let key := s.rd .RUN_CAMP_STATUS (s.chCamp h) .KEY_ID
  let w := s.deepWrite 86 key a (b.take 256)
  match w.1 with
  | some _ => w.2.mirrorError h (leNat ((b.drop 4).take 4))
  | none => (w.2.consume h).receive h b

/-- An inbound slot of a channel in host-assisted mode is taken from the mirror; only LEN is checked (R454, R730). -/
def State.slotAssisted (s : State) (h : Nat) : State :=
  let a := s.mirrorAddr h false (s.rd .CH_IN_IDX h .CONS)
  let w := s.deepFetch 86 (s.rd .RUN_CAMP_STATUS (s.chCamp h) .KEY_ID) a 256
  match w.1 with
  | some _ => w.2.mirrorError h 0
  | none =>
    let b := s.deepRead a 256
    let s1 := w.2.consume h
    if 16 < (b.getD 8 0).toNat then s1.partnerError h 3 8 (leNat ((b.drop 4).take 4)) else s1.enqueueIn h (msgOf b)

/-- INBOUND_SLOT_FETCHED (R443, R454). -/
def execInboundSlotFetched (chan : Nat) (bytes : List Byte) (frozen : Nat) (s : State) : Host.Outcome State Fault Refusal :=
  if s.chState chan = 3 ∧ s.akind chan = 0 ∧ s.rd .CH_IN_IDX chan .PROD ≠ s.rd .CH_IN_IDX chan .CONS then
    .next ((if s.assisted chan then s.slotAssisted chan else s.slotFetched chan bytes).settleChan chan frozen)
  else .next s

/-- A channel takes messages that a PEER partner sends: ACTIVE, or QUIESCING with the message in flight (R440). -/
def State.hears (s : State) (h : Nat) : Bool := s.chState h == 3 || s.chState h == 1

/-- A message that a PEER partner has sent reaches its channel. -/
def State.peerMessage (s : State) (h : Nat) (b : List Byte) (frozen : Nat) : State :=
  if s.hears h = true ∧ s.akind h = 1 then (s.receive h b).settleChan h frozen else s

/-- DATA_MESSAGE (R444). -/
def execDataMessage (chan : Nat) (bytes : List Byte) (frozen : Nat) (s : State) : Host.Outcome State Fault Refusal :=
  .next (s.peerMessage chan bytes frozen)

/-- CREDIT_MESSAGE (R445). -/
def execCreditMessage (chan : Nat) (bytes : List Byte) (frozen : Nat) (s : State) : Host.Outcome State Fault Refusal :=
  .next (s.peerMessage chan bytes frozen)

/-- OUTBOUND_COPY_DONE (R443, R698): the slot and the producer index slot are in host memory, and the channel's vector is signalled. -/
def execOutboundCopyDone (chan : Nat) (s : State) : Host.Outcome State Fault Refusal :=
  match (s.chan chan).copying with
  | [] => .next s
  | m :: rest =>
    if s.hears chan = true ∧ (s.chan chan).stuck = false then
      let n := s.ringSize chan
      let i := s.rd .CH_OUT_IDX chan .PROD
      let s1 := s.emit (.hostWrite (s.hostRing chan (256 * (n + i % n))) m.bytes)
      let s2 := (s1.wr .CH_OUT_IDX chan .PROD (i + 1)).modChan chan fun x => { x with copying := rest }
      .next ((s2.emit (.hostWrite (s.hostRing chan (512 * n)) (leBytes (s2.rd .CH_OUT_IDX chan .PROD) 8))).msix (s.rd .HI_CH_VEC chan .VEC))
    else .next s

/-- MIRROR_BUS_ERROR (R730): the slot of the mirror that moves next, in the direction given, meets a bus error in the memory. -/
def execMirrorBusError (chan : Nat) (out : Bool) (cause seq : Nat) (s : State) : Host.Outcome State Fault Refusal :=
  if s.hears chan then
    let i := if out then s.rd .CH_OUT_IDX chan .PROD else s.rd .CH_IN_IDX chan .CONS
    .next ((s.faultAlarm cause (s.mirrorAddr chan out i)).mirrorError chan seq)
  else .next s

/-- The turn of the port of a channel, where it waits. -/
def State.waitingTurn (s : State) (h : Nat) : Option PortTurn :=
  if s.btask h then none
  else ((s.camp (s.chCamp h)).turns.getD []).find? fun t => t.port == s.rd .CH_CFG h .PORT && !t.ready

/-- The inbound direction waits (R452): a gap is open, or a blocking REQ waits. -/
def State.waitsIn (s : State) (h : Nat) : Bool :=
  !(s.chan h).held.isEmpty || match s.waitingTurn h with
    | some t => !t.out && t.req
    | none => false

/-- The outbound direction waits (R452): a blocking OUT, or a message for credit or ring space. -/
def State.waitsOut (s : State) (h : Nat) : Bool :=
  (s.akind h != 2 && !(s.chan h).outq.isEmpty) || match s.waitingTurn h with
    | some t => t.out
    | none => false

/-- An error record takes EXPECT's place (R453). -/
def State.errorRecord (s : State) (h : Nat) : State :=
  let n := s.rd .CH_SEQ_IN h .EXPECT
  let m : Msg := if s.btask h then ⟨2, n, h, 0, [], true⟩ else ⟨2, n, h, 0, [BitVec.ofNat 40 (1 + 16 * n)], true⟩
  let s1 := (s.modChan h fun x => { x with errWait := !x.held.isEmpty }).enqueueIn h m
  s1.advanceExpect h

/-- The waiting outbound message is given up (R453): OUT_ERR at a port, EV_TX at a TASK end. -/
def State.giveUpOut (s : State) (h : Nat) : State :=
  match s.waitingTurn h with
  | some t => if t.out then s.setTurn (s.chCamp h) { t with out := false, status := t.status + 8 } else s
  | none => ((s.modChan h fun x => { x with outq := x.outq.drop 1, fired := false }).chEvent h (s.rd .CH_CTRL h .EV_TX)).pump h

/-- CHANNEL_TIMEOUT (R452, R453, R456): the wait of a channel reaches CYCLES, or MS. -/
def execChannelTimeout (chan : Nat) (byMs : Bool) (frozen : Nat) (s : State) : Host.Outcome State Fault Refusal :=
  let c := s.chCamp chan
  let allowed := if byMs then s.rd .CH_TIMEOUT chan .MS != 0 else s.rd .CH_TIMEOUT chan .CYCLES != 0 && !s.campFrozen c
  let wi := s.waitsIn chan
  let wo := s.waitsOut chan
  let pol := s.rd .CH_CFG chan .POLICY
  if allowed && (wi || wo) && !s.replays c && !(s.chan chan).fired && s.chState chan != 0 then
    let seq := if wi then s.rd .CH_SEQ_IN chan .EXPECT else s.rd .CH_SEQ_OUT chan .NEXT
    let cyc := s.eventCycle c
    let s1 := (s.chError chan 5 0 seq cyc).modCamp c fun x => { x with logWait := x.logWait ++ [⟨4, chan, pol, cyc, [seq]⟩] }
    let s2 := s1.modChan chan fun x => { x with fired := true }
    match pol with
    | 0 => .next s2
    | 1 =>
      let s3 := if wi then s2.errorRecord chan else s2
      let s4 := if wo then s3.giveUpOut chan else s3
      .next ((s4.modChan chan fun x => { x with fired := false }).settleChan chan frozen)
    | _ => .next (s2.haltCond c 3)
  else .next s

/-- The keep position of a replay log becomes `keep`. -/
def State.setKeep (s : State) (camp keep frozen : Nat) : State :=
  ((s.wr .TS_LOG_KEEP_LO camp .KEEP keep).wr .TS_LOG_KEEP_HI camp .KEEP (keep / 2 ^ 40)).keepWritten camp frozen

/-- TS_LOG_KEEP_WRITE (R455, R469): both words of the position. -/
def execTsLogKeepWrite (camp keep frozen : Nat) (s : State) : Host.Outcome State Fault Refusal :=
  s.asWrite .TS_LOG_KEEP_LO camp fun s => .next ((s.unhold .TS_LOG_KEEP_HI camp).setKeep camp keep frozen)

end Sys2Proof.Machine
end

