-- ==== Sys2Proof/Machine/Flags.lean ====
section
/-! DEFINITION. The word unit's comparison, carry and arithmetic results (R110, R113, R114): exact integers first, narrowed at the end. -/

namespace Sys2Proof.Machine

/-- A comparison result: 1 or 0 in bit 0 (R113). -/
def flagWord (b : Bool) : Word := if b then 1 else 0

/-- CARRY: A + B reaches 2^40 as unsigned values. -/
def carryOf (a b : Word) : Bool := decide (2 ^ 40 ≤ a.toNat + b.toNat)

/-- BORROW and CMPLTU: A is below B as unsigned values. -/
def belowU (a b : Word) : Bool := decide (a.toNat < b.toNat)

/-- CMPLTS: A is below B as signed values. -/
def belowS (a b : Word) : Bool := decide (a.toInt < b.toInt)

/-- SHL by B mod 64, 0 from 40 on. -/
def shlOf (a b : Word) : Word := a <<< (b.toNat % 64)

/-- SHR by B mod 64, 0 from 40 on. -/
def shrOf (a b : Word) : Word := a >>> (b.toNat % 64)

/-- SAR by B mod 64, filling with bit 39. -/
def sarOf (a b : Word) : Word := a.sshiftRight (b.toNat % 64)

/-- ROL by B mod 40. -/
def rolOf (a b : Word) : Word := a.rotateLeft (b.toNat % 40)

/-- ROR by B mod 40. -/
def rorOf (a b : Word) : Word := a.rotateRight (b.toNat % 40)

/-- A word with its low `wid` bits set. -/
def maskOf (wid : Nat) : Word := BitVec.ofNat 40 (2 ^ wid - 1)

/-- EXT: bits [POS + WID − 1 : POS] of A, zero above. -/
def extOf (a : Word) (pos wid : Nat) : Word := (a >>> pos) &&& maskOf wid

/-- DEP: A with bits [POS + WID − 1 : POS] replaced by the low bits of B. -/
def depOf (a b : Word) (pos wid : Nat) : Word :=
  (a &&& ~~~(maskOf wid <<< pos)) ||| ((b &&& maskOf wid) <<< pos)

/-- MULLO: bits [39:0] of the product. -/
def mulLo (a b : Word) : Word := BitVec.ofNat 40 (a.toNat * b.toNat)

/-- MULHIU: bits [79:40] of the unsigned product. -/
def mulHiU (a b : Word) : Word := BitVec.ofNat 40 (a.toNat * b.toNat / 2 ^ 40)

/-- MULHIS: bits [79:40] of the signed product. -/
def mulHiS (a b : Word) : Word := BitVec.ofInt 40 ((a.toInt * b.toInt) / 2 ^ 40)

end Sys2Proof.Machine
end

