-- ==== Sys2Proof/Machine/Cores.lean ====
section
/-! DEFINITION. Channel cores: instruction issue (R410 to R415), domains and windows (R421, R422), traps (R425, R426), tasks ending and yielding (R418, R419), flows (R463, R464), and the instructions that touch no data memory. -/

namespace Sys2Proof.Machine

/-- A register of a core; C0 reads zero (R409). -/
def Core.reg (x : Core) (r : Nat) : Word := if r = 0 then 0 else tget 0 x.c r

/-- A register written; C0 ignores writes (R409). -/
def Core.setReg (x : Core) (r : Nat) (v : Word) : Core := if r = 0 then x else { x with c := tset x.c r v }

/-- A register of core `k` written. -/
def State.setReg (s : State) (k r : Nat) (v : Word) : State := s.modCore k fun x => x.setReg r v

/-- CC_STATUS shows what the core runs (R429). -/
def State.showRun (s : State) (k : Nat) : State :=
  match (s.core k).run with
  | none => s.wrs .CC_STATUS k [(.TASK, 0), (.PL, 0), (.DOMAIN, 0)]
  | some r => s.wrs .CC_STATUS k [(.TASK, r.task), (.PL, r.pl), (.DOMAIN, r.dom)]

/-- A task with its domain descriptor as it stands (R421). -/
def State.runOf (s : State) (i : Nat) : Run :=
  let d := (s.task i).dom
  { task := i, dom := d, pl := s.rd .CC_DOM_CFG d .PL, key := s.rd .CC_DOM_CFG d .KEY_ID, slice := s.rd .CC_DOM_CFG d .SLICE,
    wins := (List.range 4).map fun w =>
      ⟨s.rd .CC_DOM_WBASE (4 * d + w) .BASE, s.rd .CC_DOM_WSIZE (4 * d + w) .PAGES, s.rd .CC_DOM_WBASE (4 * d + w) .RD == 1,
        s.rd .CC_DOM_WBASE (4 * d + w) .WR == 1, s.rd .CC_DOM_WBASE (4 * d + w) .EX == 1⟩ }

/-- What a handler runs under: domain 0, for the trapped task (R426). -/
def handlerRun (i : Nat) : Run := ⟨i, 0, 0, 0, 0, []⟩

/-- A window with the permission covers every byte of an access; level 0 needs none (R422). -/
def Run.allows (r : Run) (perm : Win → Bool) (a n : Nat) : Bool :=
  r.pl == 0 || r.wins.any fun w => perm w && decide (4096 * w.base ≤ a) && decide (a + n ≤ 4096 * (w.base + w.pages))

/-- A core runs no task any more (R428): IDLE where neither its slot nor its ready list holds one. -/
def State.freeCore (s : State) (k : Nat) : State :=
  let s1 := (s.modCore k fun x => { x with run := none, trapped := none, mem := [], trapDue := none }).showRun k
  if (s1.core k).slot.isNone && (s1.core k).ready.isEmpty then s1.wr .CC_STATUS k .PSTATE 1 else s1

/-- A context saved under the task's domain (R420): the cause of the bus error, or none. -/
def State.saveCtx (s : State) (k : Nat) (r : Run) (pc : Nat) : Option Nat × State :=
  s.deepWrite (64 + k) r.key (64 * (s.task r.task).ctx) ((s.core k).ctxBytes pc)

/-- A trap is counted, logged and signalled (R429, R431, R437, R696). -/
def State.logTrap (s : State) (k : Nat) (r : Run) (t : Trap) : State :=
  ((s.bump .CC_TRAP_COUNT k .COUNT 1).logEvent .CC_TRAP_LOG k [(.CAUSE, t.cause), (.BUSCAUSE, t.bus), (.TASK, r.task), (.PL, r.pl)]
    fun u => u.wr .CC_TRAP_ADDR k .ADDR (if r.pl = 2 then 0 else t.addr)).irq 6

/-- The registers that a level-2 trap leaves (R426): C1 to C7 for a GATE, none otherwise. -/
def Core.clearTrapped (x : Core) (cause : Nat) : Core :=
  { x with c := if cause = 7 then x.c.filter fun e => decide (e.1 ≤ 7) else [] }

/-- TRAPCODE (R424). -/
def Trap.code (t : Trap) : Nat := t.cause + 16 * t.bus + 256 * t.gate

/-- TAKING A TRAP (R426, R436): at level 0 the core stops; at level 1 the handler sees the registers; at level 2 the context is saved and the registers are cleared first. -/
def State.takeTrap (s0 : State) (k : Nat) (t0 : Trap) : State :=
  match (s0.core k).run with
  | none => s0
  | some r =>
    let sv : Option Nat × State := if r.pl = 2 then s0.saveCtx k r t0.pc else (none, s0)
    let t : Trap := match sv.1 with
      | some c => ⟨9, c, 0, 0, t0.pc⟩
      | none => t0
    let s := (sv.2.logTrap k r t).traceTrap k t.cause
    if r.pl = 0 then (s.wr .CC_STATUS k .PSTATE 3).modCore k fun x => { x with enLow := false, mem := [], trapDue := none }
    else
      let s1 := s.modCore k fun x =>
        let y := if r.pl = 2 then x.clearTrapped t.cause else x
        { y with trapCode := t.code, trapPc := if r.pl = 2 then 0 else t.pc, trapAddr := if r.pl = 2 then 0 else t.addr, priorPl := r.pl,
                 trapped := some (r, t, sv.1.isNone), run := some (handlerRun r.task), pc := x.handler, mem := [], trapDue := none }
      (s1.showRun k).traceBoundary k

/-- A record joins the stage behind those of its flow with its ticket or a lower one (R463). -/
def insertStaged : List Staged → Staged → List Staged
  | [], r => [r]
  | x :: l, r => if x.flow = r.flow ∧ r.ticket < x.ticket then r :: x :: l else x :: insertStaged l r

/-- TS_REORDER shows the stage (R464, R468). -/
def State.showStage (s : State) : State :=
  let n := s.stage.length
  s.wrs .TS_REORDER 0 [(.HELD, n), (.PEAK, max n (s.rd .TS_REORDER 0 .PEAK))]

/-- A released record goes to its channel, where it waits for credit in order (R464). -/
def State.sendStaged (s : State) (r : Staged) (frozen : Nat) : State :=
  if s.akind r.chan = 2 then (s.enqueueIn r.chan r.msg).settleChan r.chan frozen
  else (s.modChan r.chan fun x => { x with outq := x.outq ++ [r.msg] }).pump r.chan

/-- The records of a flow whose lower tickets are all released leave the stage (R463), at most `n`. -/
def State.flushFlow (s : State) (f frozen : Nat) : Nat → State
  | 0 => s
  | n + 1 =>
    match s.stage.find? fun r => r.flow == f && s.oldest f r.ticket with
    | none => s
    | some r => (({ s with stage := s.stage.erase r } : State).sendStaged r frozen).flushFlow f frozen n

/-- Space in the stage reaches the tasks that it refused (R464). -/
def State.stageOpens (s : State) : State :=
  s.forEach ((List.range 256).filter fun h => (s.chan h).refused) fun t h =>
    (t.modChan h fun x => { x with refused := false }).chEvent h (s.rd .CH_CTRL h .EV_TX)

/-- The stage after a release. -/
def State.flush (s : State) (f frozen : Nat) : State :=
  let s1 := (s.flushFlow f frozen s.stage.length).showStage
  if 1024 ≤ s.stage.length ∧ s1.stage.length < 1024 then s1.stageOpens else s1

/-- A task ends (R459, R463): its ticket is released, and its held records are sent in turn or, where it is cancelled, discarded. -/
def State.endTask (s : State) (i : Nat) (cancelled : Bool) (cause frozen : Nat) : State :=
  let t := s.task i
  let s1 := s.modTask i fun x => { x with state := if cancelled then 6 else 5, cause := cause, pendCancel := false }
  if t.flow = 0 then s1
  else
    let s2 := s1.modFlow t.flow fun x => { x with unreleased := x.unreleased.erase t.ticket }
    let s3 : State := if cancelled then { s2 with stage := s2.stage.filter fun r => !(r.flow == t.flow && r.ticket == t.ticket) } else s2
    s3.flush t.flow frozen

/-- TASK_CANCEL (R459, R466): a waiting or ready task is cancelled, a running one has its pending-cancel flag set. -/
def execTaskCancel (frozen : Nat) (s : State) : Host.Outcome State Fault Refusal :=
  s.asWrite .TS_TASK_CMD 0 fun s =>
  let i := s.selTask
  let k := (s.task i).core
  match (s.task i).state with
  | 1 => .next (s.endTask i true 0xF frozen)
  | 2 => .next ((({ s with unlisted := s.unlisted.erase i } : State).modCore k fun x => { x with ready := x.ready.erase i }).endTask i true 0xF frozen)
  | 3 => .next (((s.modCore k fun x => { x with slot := none }).endTask i true 0xF frozen).fillSlot k)
  | 4 => .next (s.modTask i fun x => { x with pendCancel := true })
  | _ => .next s.taskErr

/-- What issuing an instruction comes to: it completes and the core goes on at a PC, it traps, it must wait, or its task leaves the core. -/
inductive Issue where
  | go (s : State) (pc : Nat)
  | trap (t : Trap)
  | wait
  | left (s : State)

/-- A fetch (R411, R422, R425): the trap it meets, if any; none at all while its page takes no requests. -/
def State.fetch (s : State) (k : Nat) (r : Run) : Option (Option Trap × State) :=
  let pc := (s.core k).pc
  let line := pc / 64
  if 2 ^ 38 ≤ pc ∨ r.allows (fun w => w.ex) pc 8 = false then some (some ⟨6, 0, 0, pc, pc⟩, s)
  else if (s.core k).icache.contains (line, r.key) then some (none, s)
  else if s.lineWaits (64 + k) r.key pc false then none
  else
    let w := s.deepFetch (64 + k) r.key pc 8
    match w.1 with
    | some c => some (some ⟨6, c, 0, pc, pc⟩, w.2)
    | none => some (none, w.2.modCore k fun x => { x with icache := (line, r.key) :: x.icache.take 255 })

/-- The core can issue an instruction now: it runs a task, and no trap waits. -/
def State.issuing (s : State) (k : Nat) : Option Run :=
  if s.pstate k = 0 ∧ (s.core k).trapDue = none then (s.core k).run else none

/-- A register that a pending access will write (R410). -/
def Core.pendingReg (x : Core) (r : Nat) : Bool := r != 0 && x.mem.any fun m => m.kind != 1 && m.rd == r

/-- ONE INSTRUCTION IS ISSUED (R410, R415, R427): fetch, form, interlocks, trace, then its effect. A trap waits for every earlier access. An instruction that must wait changes nothing; with TR_CTRL.STALL = 1 so does one whose packets find no room (R621). -/
def State.issue (s : State) (k : Nat) (formOk : Bool) (uses : List Nat) (body : State → Run → Issue) : State :=
  match s.issuing k with
  | none => s
  | some r =>
    let idle := (s.core k).mem.isEmpty
    match s.fetch k r with
    | none => s
    | some (some t, s1) => if idle then s1.takeTrap k t else s
    | some (none, s1) =>
      if uses.any (s.core k).pendingReg then s
      else
        let s2 := s1.traceBoundary k
        let res := if formOk then body s2 r else .trap ⟨1, 0, 0, 0, (s.core k).pc⟩
        let out := match res with
          | .wait => s
          | .trap t => if idle then s2.takeTrap k t else s
          | .go t pc => (t.modCore k fun x => { x with pc := pc % 2 ^ 40 }).bump .CC_RETIRED k .COUNT 1
          | .left t => t.bump .CC_RETIRED k .COUNT 1
        if s.rd .TR_CTRL 0 .STALL = 1 ∧ (s.core k).tr.dropped < (out.core k).tr.dropped then s else out

/-- The bits that T format marks zero are zero (R412). -/
def formT (f : FmtT) : Bool := f.zero == 0 && f.cond == 0

/-- A register-to-register instruction (R414). -/
def State.issueT (s : State) (k : Nat) (f : FmtT) (op : Word → Word → Word) : State :=
  s.issue k (formT f) [f.rd, f.ra, f.rb] fun t _ =>
    .go (t.setReg k f.rd (op ((t.core k).reg f.ra) ((t.core k).reg f.rb))) ((t.core k).pc + 8)

/-- A register and constant instruction (R413, R414): the constant sign-extended or zero-extended. -/
def State.issueK (s : State) (k : Nat) (f : FmtK) (op : Word → BitVec 24 → Word) : State :=
  s.issue k true [f.rd, f.ra] fun t _ => .go (t.setReg k f.rd (op ((t.core k).reg f.ra) f.imm)) ((t.core k).pc + 8)

/-- ADD. -/
def execAdd (core : Nat) (f : FmtT) (s : State) : Host.Outcome State Fault Refusal := .next (s.issueT core f (· + ·))

/-- SUB. -/
def execSub (core : Nat) (f : FmtT) (s : State) : Host.Outcome State Fault Refusal := .next (s.issueT core f (· - ·))

/-- AND. -/
def execAnd (core : Nat) (f : FmtT) (s : State) : Host.Outcome State Fault Refusal := .next (s.issueT core f (· &&& ·))

/-- OR. -/
def execOr (core : Nat) (f : FmtT) (s : State) : Host.Outcome State Fault Refusal := .next (s.issueT core f (· ||| ·))

/-- XOR. -/
def execXor (core : Nat) (f : FmtT) (s : State) : Host.Outcome State Fault Refusal := .next (s.issueT core f (· ^^^ ·))

/-- SHL. -/
def execShl (core : Nat) (f : FmtT) (s : State) : Host.Outcome State Fault Refusal := .next (s.issueT core f shlOf)

/-- SHR. -/
def execShr (core : Nat) (f : FmtT) (s : State) : Host.Outcome State Fault Refusal := .next (s.issueT core f shrOf)

/-- SAR. -/
def execSar (core : Nat) (f : FmtT) (s : State) : Host.Outcome State Fault Refusal := .next (s.issueT core f sarOf)

/-- The conditions of R413. -/
def condHolds (cond : Nat) (a b : Word) : Bool :=
  match cond with
  | 0 => a == b
  | 1 => a != b
  | 2 => belowS a b
  | 3 => !belowS a b
  | 4 => belowU a b
  | 5 => !belowU a b
  | 6 => a &&& b != 0
  | _ => a &&& b == 0

/-- CMP. -/
def execCmp (core : Nat) (f : FmtT) (s : State) : Host.Outcome State Fault Refusal :=
  .next (s.issue core (f.zero == 0) [f.rd, f.ra, f.rb] fun t _ =>
    .go (t.setReg core f.rd (flagWord (condHolds f.cond ((t.core core).reg f.ra) ((t.core core).reg f.rb)))) ((t.core core).pc + 8))

/-- MULLO. -/
def execMullo (core : Nat) (f : FmtT) (s : State) : Host.Outcome State Fault Refusal := .next (s.issueT core f mulLo)

/-- MULHIU. -/
def execMulhiu (core : Nat) (f : FmtT) (s : State) : Host.Outcome State Fault Refusal := .next (s.issueT core f mulHiU)

/-- ADDI. -/
def execAddi (core : Nat) (f : FmtK) (s : State) : Host.Outcome State Fault Refusal := .next (s.issueK core f fun a i => a + i.signExtend 40)

/-- ANDI. -/
def execAndi (core : Nat) (f : FmtK) (s : State) : Host.Outcome State Fault Refusal := .next (s.issueK core f fun a i => a &&& i.zeroExtend 40)

/-- ORI. -/
def execOri (core : Nat) (f : FmtK) (s : State) : Host.Outcome State Fault Refusal := .next (s.issueK core f fun a i => a ||| i.zeroExtend 40)

/-- XORI. -/
def execXori (core : Nat) (f : FmtK) (s : State) : Host.Outcome State Fault Refusal := .next (s.issueK core f fun a i => a ^^^ i.zeroExtend 40)

/-- SHLI. -/
def execShli (core : Nat) (f : FmtK) (s : State) : Host.Outcome State Fault Refusal := .next (s.issueK core f fun a i => shlOf a (i.zeroExtend 40))

/-- SHRI. -/
def execShri (core : Nat) (f : FmtK) (s : State) : Host.Outcome State Fault Refusal := .next (s.issueK core f fun a i => shrOf a (i.zeroExtend 40))

/-- SARI. -/
def execSari (core : Nat) (f : FmtK) (s : State) : Host.Outcome State Fault Refusal := .next (s.issueK core f fun a i => sarOf a (i.zeroExtend 40))

/-- CMPI_LT. -/
def execCmpiLt (core : Nat) (f : FmtK) (s : State) : Host.Outcome State Fault Refusal :=
  .next (s.issueK core f fun a i => flagWord (belowS a (i.signExtend 40)))

/-- CMPI_LO. -/
def execCmpiLo (core : Nat) (f : FmtK) (s : State) : Host.Outcome State Fault Refusal :=
  .next (s.issueK core f fun a i => flagWord (belowU a (i.signExtend 40)))

/-- ORH. -/
def execOrh (core : Nat) (f : FmtK) (s : State) : Host.Outcome State Fault Refusal :=
  .next (s.issueK core f fun a i => a ||| (i.zeroExtend 40 <<< 16))

/-- The transfer target of P format (R413). -/
def targetOf (pc : Nat) (ofs : BitVec 24) : Nat := (BitVec.ofNat 40 pc + (ofs.signExtend 40 <<< 3)).toNat

/-- CALL (R414): the link register is in bits [33:29]. -/
def execCall (core : Nat) (f : FmtP) (s : State) : Host.Outcome State Fault Refusal :=
  .next (s.issue core (f.rb == 0) [f.ra] fun t _ =>
    let pc := (t.core core).pc
    .go ((t.traceBranch core 1 (targetOf pc f.ofs)).setReg core f.ra (BitVec.ofNat 40 (pc + 8))) (targetOf pc f.ofs))

/-- CALLR (R414): the target is EA with bits [2:0] cleared, formed before RD is written. -/
def execCallr (core : Nat) (f : FmtK) (s : State) : Host.Outcome State Fault Refusal :=
  .next (s.issue core true [f.rd, f.ra] fun t _ =>
    let pc := (t.core core).pc
    let ea := ((t.core core).reg f.ra + f.imm.signExtend 40).toNat / 8 * 8
    .go ((t.traceBranch core 2 ea).setReg core f.rd (BitVec.ofNat 40 (pc + 8))) ea)

/-- GATE (R414, R426): a trap with the gate number; the PC saved is that of the instruction after it. -/
def execGate (core : Nat) (f : FmtK) (s : State) : Host.Outcome State Fault Refusal :=
  .next (s.issue core (f.rd == 0 && f.ra == 0 && f.imm.toNat / 256 == 0) [] fun t _ =>
    .trap ⟨7, 0, f.imm.toNat % 256, 0, (t.core core).pc + 8⟩)

/-- CODESYNC (R427): waits for every earlier access, then empties the instruction cache. -/
def execCodesync (core : Nat) (f : FmtT) (s : State) : Host.Outcome State Fault Refusal :=
  .next (s.issue core (formT f && f.rd == 0 && f.ra == 0 && f.rb == 0) [] fun t _ =>
    if (t.core core).mem.isEmpty then .go (t.modCore core fun x => { x with icache := [] }) ((t.core core).pc + 8) else .wait)

/-- A conditional branch (R413, R414). -/
def State.issueBr (s : State) (k cond : Nat) (f : FmtP) : State :=
  s.issue k true [f.ra, f.rb] fun t _ =>
    let pc := (t.core k).pc
    if condHolds cond ((t.core k).reg f.ra) ((t.core k).reg f.rb) then .go (t.traceBranch k 0 (targetOf pc f.ofs)) (targetOf pc f.ofs)
    else .go (t.traceNotTaken k) (pc + 8)

/-- BR_EQ. -/
def execBrEq (core : Nat) (f : FmtP) (s : State) : Host.Outcome State Fault Refusal := .next (s.issueBr core 0 f)

/-- BR_NE. -/
def execBrNe (core : Nat) (f : FmtP) (s : State) : Host.Outcome State Fault Refusal := .next (s.issueBr core 1 f)

/-- BR_LT. -/
def execBrLt (core : Nat) (f : FmtP) (s : State) : Host.Outcome State Fault Refusal := .next (s.issueBr core 2 f)

/-- BR_GE. -/
def execBrGe (core : Nat) (f : FmtP) (s : State) : Host.Outcome State Fault Refusal := .next (s.issueBr core 3 f)

/-- BR_LO. -/
def execBrLo (core : Nat) (f : FmtP) (s : State) : Host.Outcome State Fault Refusal := .next (s.issueBr core 4 f)

/-- BR_HS. -/
def execBrHs (core : Nat) (f : FmtP) (s : State) : Host.Outcome State Fault Refusal := .next (s.issueBr core 5 f)

/-- BR_BS. -/
def execBrBs (core : Nat) (f : FmtP) (s : State) : Host.Outcome State Fault Refusal := .next (s.issueBr core 6 f)

/-- BR_BC. -/
def execBrBc (core : Nat) (f : FmtP) (s : State) : Host.Outcome State Fault Refusal := .next (s.issueBr core 7 f)

/-- A channel bound to a domain through its TASK end (R417). -/
def State.bound (s : State) (h dom : Nat) : Bool := (s.btask h || s.akind h == 2) && s.rd .CH_CFG h .DOMAIN == dom

/-- The status with which CSEND and CRECV are refused before any memory is touched (R417). -/
def State.chanStatus (s : State) (h dom : Nat) : Nat :=
  if s.bound h dom = false then 2 else if s.assisted h = true ∨ s.chState h ≠ 3 then 3 else 0

/-- A pending access of the core touches one of the bytes (R417, R427). -/
def Core.touches (x : Core) (a n : Nat) : Bool := x.mem.any fun m => decide (m.ea < a + n) && decide (a < m.ea + m.size)

/-- The trap of an access that lies outside the deep space or the windows (R416, R422). -/
def Run.spaceTrap (r : Run) (perm : Win → Bool) (a n pc : Nat) : Option Trap :=
  if 2 ^ 38 ≤ a ∨ r.allows perm a n = false then some ⟨4, 0, 0, a, pc⟩ else none

/-- Room for a record from the TASK end (R439, R445). -/
def State.taskRoom (s : State) (h : Nat) : Bool :=
  if s.akind h = 2 then decide ((s.chan h).inq.length < 16) else s.maySend h

/-- A record read for CSEND is sent or staged (R417, R463, R464); the answer is the status. -/
def State.sendRecord (s : State) (h task type : Nat) (ws : List Word) (frozen : Nat) : Nat × State :=
  let t := s.task task
  let m : Msg := ⟨type, 0, h, 0, ws, type == 2⟩
  if s.rd .CH_CFG h .ORDERED = 1 ∧ t.flow ≠ 0 ∧ s.oldest t.flow t.ticket = false then
    if 1024 ≤ s.stage.length then (1, s.modChan h fun x => { x with refused := true })
    else (0, ({ s with stage := insertStaged s.stage ⟨t.flow, t.ticket, h, m⟩ } : State).showStage)
  else if s.taskRoom h = false then (1, s)
  else if s.akind h = 2 then (0, (s.enqueueIn h m).settleChan h frozen)
  else
    let w := s.sendData h type ws
    (if w.1 then 0 else 3, w.2)

/-- CSEND (R417): RD = status of sending the record at RB on channel RA. DEDUCED (log 56), unsafe. -/
def execCsend (core : Nat) (f : FmtT) (frozen : Nat) (s : State) : Host.Outcome State Fault Refusal :=
  .next (s.issue core (formT f) [f.rd, f.ra, f.rb] fun t r =>
    let pc := (t.core core).pc
    let h := ((t.core core).reg f.ra).toNat % 256
    let a := ((t.core core).reg f.rb).toNat
    let done := fun (e : Nat × State) => Issue.go (e.2.setReg core f.rd (BitVec.ofNat 40 e.1)) (pc + 8)
    let n := 0x20 + 8 * min 16 (leNat (t.deepRead (a + 8) 1))
    if t.chanStatus h r.dom ≠ 0 then done (t.chanStatus h r.dom, t)
    else match r.spaceTrap (fun w => w.rd) a n pc with
      | some e => .trap e
      | none =>
        if (t.core core).touches a n ∨ t.lineWaits (64 + core) r.key a false = true then .wait
        else
          let w := t.deepFetch (64 + core) r.key a n
          if w.1.isSome then done (4, w.2)
          else
            let b := t.deepRead a n
            done (w.2.sendRecord h r.task ((b.getD 2 0).toNat) (payloadOf b ((n - 0x20) / 8)) frozen))

/-- The next message for the TASK end of a channel (R439). -/
def State.taskHead (s : State) (h : Nat) : Option Msg := if s.akind h = 2 then (s.chan h).outq.head? else (s.chan h).inq.head?

/-- The message that CRECV has taken leaves the channel; room in its queue reaches a port that waits (R439). -/
def State.taskTaken (s : State) (h frozen : Nat) : State :=
  if s.akind h = 2 then (s.modChan h fun x => { x with outq := x.outq.drop 1 }).settleChan h frozen else s.dropIn h

/-- CRECV (R417): RD = status of taking the next record of channel RA into memory at RB. -/
def execCrecv (core : Nat) (f : FmtT) (frozen : Nat) (s : State) : Host.Outcome State Fault Refusal :=
  .next (s.issue core (formT f) [f.rd, f.ra, f.rb] fun t r =>
    let pc := (t.core core).pc
    let h := ((t.core core).reg f.ra).toNat % 256
    let a := ((t.core core).reg f.rb).toNat
    let done := fun (e : Nat × State) => Issue.go (e.2.setReg core f.rd (BitVec.ofNat 40 e.1)) (pc + 8)
    if t.chanStatus h r.dom ≠ 0 then done (t.chanStatus h r.dom, t)
    else match t.taskHead h with
      | none => done (1, t)
      | some m =>
        let b := m.bytes
        match r.spaceTrap (fun w => w.wr) a b.length pc with
        | some e => .trap e
        | none =>
          if (t.core core).touches a b.length ∨ t.lineWaits (64 + core) r.key a false = true then .wait
          else
            let w := t.deepWrite (64 + core) r.key a b
            if w.1.isSome then done (4, w.2) else done (0, w.2.taskTaken h frozen))

/-- EVSET (R418). -/
def execEvset (core : Nat) (f : FmtT) (s : State) : Host.Outcome State Fault Refusal :=
  .next (s.issue core (formT f) [f.rd, f.ra, f.rb] fun t r =>
    let i := ((t.core core).reg f.ra).toNat % 4096
    let pc := (t.core core).pc
    if r.pl ≠ 0 ∧ (t.task i).dom ≠ r.dom then .go (t.setReg core f.rd 2) (pc + 8)
    else .go ((t.setFlags i ((t.core core).reg f.rb)).setReg core f.rd 0) (pc + 8))

/-- The running task leaves its core without ending (R419): its context is saved, or CONTEXT is met. In a handler it is the trapped task that yields, with the context that BACK would return to. -/
def State.yieldCtx (s : State) (k : Nat) (r : Run) (pc : Nat) : Option Nat × State :=
  match (s.core k).trapped with
  | none => s.saveCtx k r pc
  | some (q, _, _) => if q.pl = 2 then (none, s) else s.saveCtx k q ((s.core k).trapPc)

/-- YIELD, or a CWAIT that yields with a mask (R418, R419, R432). -/
def State.leave (s : State) (k : Nat) (r : Run) (mask : Option Word) (frozen : Nat) : Issue :=
  let pc := (s.core k).pc
  let i := r.task
  if (s.core k).mem.isEmpty then
    if (s.task i).pendCancel then .left (((s.traceEnd k 2).freeCore k).endTask i true 0xF frozen)
    else
      let w := s.yieldCtx k r (pc + 8)
      match w.1 with
      | some c => .trap ⟨9, c, 0, 0, pc⟩
      | none =>
        match mask with
        | none => .left (((w.2.traceEnd k 0).freeCore k).makeReady i)
        | some m => .left ((((w.2.traceEnd k 3).freeCore k).modTask i fun x => { x with state := 1, mask := m }).judge i)
  else .wait

/-- CWAIT (R418, R460): with its flags met it clears them and goes on; otherwise it sets the readiness mask and yields. -/
def execCwait (core : Nat) (f : FmtT) (frozen : Nat) (s : State) : Host.Outcome State Fault Refusal :=
  .next (s.issue core (formT f && f.rd == 0 && f.rb == 0) [f.ra] fun t r =>
    let m := (t.core core).reg f.ra
    if (t.task r.task).flags &&& m = m then .go (t.modTask r.task fun x => { x with flags := x.flags &&& ~~~m }) ((t.core core).pc + 8)
    else t.leave core r (some m) frozen)

/-- YIELD (R419). -/
def execYield (core : Nat) (f : FmtT) (frozen : Nat) (s : State) : Host.Outcome State Fault Refusal :=
  .next (s.issue core (formT f && f.rd == 0 && f.ra == 0 && f.rb == 0) [] fun t r => t.leave core r none frozen)

/-- DONE (R419, R426): the task ends, as cancelled where its flag is set; in a handler it ends the trapped task with the trap's cause. -/
def execDone (core : Nat) (f : FmtT) (frozen : Nat) (s : State) : Host.Outcome State Fault Refusal :=
  .next (s.issue core (formT f && f.rd == 0 && f.ra == 0 && f.rb == 0) [] fun t r =>
    if (t.core core).mem.isEmpty then
      let i := r.task
      let cause := match (t.core core).trapped with
        | some (_, e, _) => e.cause
        | none => 0
      if (t.task i).pendCancel then .left (((t.traceEnd core 2).freeCore core).endTask i true 0xF frozen)
      else .left (((t.traceEnd core 1).freeCore core).endTask i false cause frozen)
    else .wait)

/-- ORDER (R427): waits until every earlier access of a selected class is complete; a channel operation completes with its instruction. -/
def execOrder (core : Nat) (f : FmtK) (s : State) : Host.Outcome State Fault Refusal :=
  .next (s.issue core (f.rd == 0 && f.ra == 0 && f.imm.toNat / 8 == 0) [] fun t _ =>
    if (t.core core).mem.any fun m => (m.kind == 0 && f.imm.getLsbD 0) || (m.kind != 0 && f.imm.getLsbD 1) then .wait
    else .go t ((t.core core).pc + 8))

/-- The form of a CTL instruction (R412, R415): bits [19:12] zero, and a CW number that R424 lists, whatever its FN. -/
def formQ (f : FmtQ) : Bool := f.zero == 0 && decide (f.cw < 8)

/-- A CTL instruction traps with PRIV outside level 0 (R422). -/
def privOr (r : Run) (pc : Nat) (i : Issue) : Issue := if r.pl = 0 then i else .trap ⟨2, 0, 0, 0, pc⟩

/-- Core cycles since reset (R424): three of 1.5 GHz to each tick of 2 ns. -/
def State.coreCycles (s : State) : Nat := 3 * s.ticks

/-- The control words (R424). -/
def State.ctlWord (s : State) (k cw : Nat) (r : Run) : Word :=
  let x := s.core k
  match cw with
  | 0 => BitVec.ofNat 40 x.trapCode
  | 1 => BitVec.ofNat 40 x.trapPc
  | 2 => BitVec.ofNat 40 x.trapAddr
  | 3 => BitVec.ofNat 40 r.task
  | 4 => BitVec.ofNat 40 x.handler
  | 5 => BitVec.ofNat 40 s.coreCycles
  | 6 => x.keep
  | _ => BitVec.ofNat 40 x.priorPl

/-- RDCW (R414, R424). -/
def execRdcw (core : Nat) (f : FmtQ) (s : State) : Host.Outcome State Fault Refusal :=
  .next (s.issue core (formQ f) [f.rd] fun t r =>
    privOr r (t.core core).pc (.go (t.setReg core f.rd (t.ctlWord core f.cw r)) ((t.core core).pc + 8)))

/-- WRCW (R414, R424): a read-only control word keeps its value; a PC is a multiple of 8 (R409). -/
def execWrcw (core : Nat) (f : FmtQ) (s : State) : Host.Outcome State Fault Refusal :=
  .next (s.issue core (formQ f) [f.ra] fun t r =>
    let v := (t.core core).reg f.ra
    let pc := v.toNat / 8 * 8
    privOr r (t.core core).pc (.go (t.modCore core fun x => match f.cw with
      | 1 => { x with trapPc := pc }
      | 4 => { x with handler := pc }
      | 6 => { x with keep := v }
      | _ => x) ((t.core core).pc + 8)))

/-- The registers with which a level-2 task goes on (R426): those of its context, but for C1 to C7 after a GATE. -/
def Core.restore (x : Core) (ws : List Word) (cause : Nat) : Core :=
  { x with c := (List.range 31).map fun i => (i + 1, if cause = 7 ∧ i < 7 then x.reg (i + 1) else ws.getD (i + 1) 0) }

/-- Return from a trap (R426): at level 1 execution resumes at TRAPPC, at level 2 the context is restored. DEDUCED (log 74), unsafe. -/
def State.back (s : State) (k : Nat) : Issue :=
  match (s.core k).trapped with
  | some (q, t, true) =>
    if q.pl = 2 then
      let a := 64 * (s.task q.task).ctx
      let w := s.deepFetch (64 + k) q.key a 256
      match w.1 with
      | some c =>
        let s1 := (w.2.logTrap k q ⟨9, c, 0, 0, t.pc⟩).modCore k fun x =>
          { x with trapCode := 9 + 16 * c, trapPc := 0, trapAddr := 0, trapped := some (q, ⟨9, c, 0, 0, t.pc⟩, false), c := [] }
        .go s1 (s.core k).handler
      | none =>
        let ws := ctxWords (s.deepRead a 256)
        let pc := (ws.getD 0 0).toNat / 8 * 8
        .go (((w.2.traceBranch k 3 pc).modCore k fun x => { x.restore ws t.cause with run := some q, trapped := none }).showRun k) pc
    else
      .go (((s.traceBranch k 3 (s.core k).trapPc).modCore k fun x => { x with run := some q, trapped := none }).showRun k) (s.core k).trapPc
  | _ => .go s ((s.core k).pc + 8)

/-- BACK (R414, R426, R427). -/
def execBack (core : Nat) (f : FmtQ) (s : State) : Host.Outcome State Fault Refusal :=
  .next (s.issue core (formQ f) [] fun t r =>
    privOr r (t.core core).pc (if (t.core core).mem.isEmpty then t.back core else .wait))

/-- A core enters SLEEP (R428, R633). -/
def State.enterSleep (s : State) (k : Nat) : State :=
  (((s.traceSleep k).wr .CC_STATUS k .PSTATE 2).bump .CC_SLEEPS k .COUNT 1).modCore k fun x => { x with waking := false }

/-- DOZE (R414, R428). -/
def execDoze (core : Nat) (f : FmtQ) (s : State) : Host.Outcome State Fault Refusal :=
  .next (s.issue core (formQ f) [] fun t r => privOr r (t.core core).pc (.go (t.enterSleep core) ((t.core core).pc + 8)))

/-- SLICE_EXPIRE (R425, R433): a task at level 1 or 2 has used its slice; time in a handler does not count. -/
def execSliceExpire (core : Nat) (s : State) : Host.Outcome State Fault Refusal :=
  match s.issuing core with
  | some r =>
    let t : Trap := ⟨8, 0, 0, 0, (s.core core).pc⟩
    if r.pl ≠ 0 ∧ r.slice ≠ 0 then
      if (s.core core).mem.isEmpty then .next ((s.traceBoundary core).takeTrap core t) else .next (s.modCore core fun x => { x with trapDue := some t })
    else .next s
  | none => .next s

/-- SLEEP_ENTRY (R428, R435): an IDLE core with SLEEP_EN for which no task has become ready. -/
def execSleepEntry (core : Nat) (s : State) : Host.Outcome State Fault Refusal :=
  if s.pstate core = 1 ∧ s.rd .CC_CTRL core .SLEEP_EN = 1 ∧ (s.core core).ready = [] ∧ (s.core core).slot = none then .next (s.enterSleep core)
  else .next s

/-- CORE_WAKE_DONE (R428): 64 cycles after a task became ready for the core, or after WAKE. -/
def execCoreWakeDone (core : Nat) (s : State) : Host.Outcome State Fault Refusal :=
  let x := s.core core
  if s.pstate core = 2 ∧ (x.waking = true ∨ x.ready ≠ [] ∨ x.slot.isSome = true) then
    .next ((s.wr .CC_STATUS core .PSTATE (if x.run.isSome then 0 else 1)).modCore core fun y => { y with waking := false })
  else .next s

/-- CC_CTRL_WAKE (R428, R429). -/
def execCcCtrlWake (core : Nat) (s : State) : Host.Outcome State Fault Refusal :=
  s.asWrite .CC_CTRL core fun s =>
  if s.pstate core = 2 then .next (s.modCore core fun x => { x with waking := true }) else .next s

/-- CC_ENABLE_WRITE (R426, R429, R461, R679): ENABLE written; 0 lists the core's waiting tasks again elsewhere; 0 and then 1 restarts a STOPPED core, whose task is gone from it. -/
def execCcEnableWrite (core : Nat) (enable : Bool) (s : State) : Host.Outcome State Fault Refusal :=
  s.asWrite .CC_CTRL core fun s =>
  let s1 := s.wr .CC_CTRL core .ENABLE (bit enable)
  if enable then
    let s2 := if s.pstate core = 3 ∧ (s.core core).enLow = true then (s1.wr .CC_STATUS core .PSTATE 0).freeCore core else s1
    .next (if s2.coreTakes core then s2.relist else s2)
  else .next ((s1.modCore core fun x => { x with enLow := true }).unlist core)

/-- A camp with the domain's key ID is not UNLOADED and the domain is at level 2: LOCKED (R423). -/
def State.domLocked (s : State) (d : Nat) : Bool :=
  s.rd .CC_DOM_CFG d .PL == 2 && (List.range 64).any fun c => s.campState c != 0 && s.rd .RUN_CAMP_STATUS c .KEY_ID == s.rd .CC_DOM_CFG d .KEY_ID

/-- A write to a domain descriptor that R423 forbids. -/
def State.domErr (s : State) (d : Nat) : State := s.wr .CC_DOM_CFG d .WR_ERR 1

/-- The register of a domain descriptor that a write reaches, with its index (R430). -/
def domReg (dom : Nat) : DomWrite → RegName × Nat
  | .cfg .. => (.CC_DOM_CFG, dom)
  | .base i .. => (.CC_DOM_WBASE, 4 * dom + i)
  | .size i _ => (.CC_DOM_WSIZE, 4 * dom + i)

/-- CC_DOM_WRITE (R423, R430): the configuration, or the base or size of a window. -/
def execCcDomWrite (dom : Nat) (w : DomWrite) (s : State) : Host.Outcome State Fault Refusal :=
  s.asWrite (domReg dom w).1 (domReg dom w).2 fun s =>
  if dom = 0 ∨ s.domLocked dom = true then .next (s.domErr dom)
  else match w with
    | .cfg pl key slice valid =>
      if 2 < pl ∨ (pl = 0 ∧ key ≠ 0) ∨ (pl ≠ 0 ∧ key = 0) then .next (s.domErr dom)
      else .next (s.wrs .CC_DOM_CFG dom [(.PL, pl), (.KEY_ID, key), (.SLICE, slice), (.VALID, bit valid)])
    | .base i page rd wr ex => .next (s.wrs .CC_DOM_WBASE (4 * dom + i) [(.BASE, page), (.RD, bit rd), (.WR, bit wr), (.EX, bit ex)])
    | .size i pages => .next (s.wr .CC_DOM_WSIZE (4 * dom + i) .PAGES pages)

/-- TASK_DISPATCH (R421, R428, R460, R462): the loaded task of the bivouac slot runs, under its domain's descriptor as it stands, and the slot is refilled. -/
def execTaskDispatch (core : Nat) (s : State) : Host.Outcome State Fault Refusal :=
  let x := s.core core
  match x.slot, x.run with
  | some ⟨i, true, ws, failed⟩, none =>
    let r := s.runOf i
    if s.coreTakes core && decide (s.pstate core < 2) && s.rd .CC_DOM_CFG r.dom .VALID == 1 then
      let s1 := s.modCore core fun y =>
        { y with slot := none, run := some r, trapped := none, mem := [], trapDue := none, pc := (ws.getD 0 0).toNat / 8 * 8,
                 c := (List.range 31).map fun j => (j + 1, ws.getD (j + 1) 0), tr := { y.tr with due := 1 :: y.tr.due } }
      let s2 := s1.modTask i fun t => { t with state := 4, flags := t.flags &&& ~~~t.mask, core := core }
      let s3 := ((s2.wr .CC_STATUS core .PSTATE 0).showRun core).fillSlot core
      match failed with
      | some c => .next (s3.takeTrap core ⟨9, c, 0, 0, 0⟩)
      | none => .next s3
    else .next s
  | _, _ => .next s

end Sys2Proof.Machine
end

