-- ==== Sys2Proof/Machine/Wu.lean ====
section
/-! DEFINITION. The word unit's operations (R105 to R136). -/

namespace Sys2Proof.Machine

/-- The operations of R113. -/
inductive WuOp where
  | nop | add | sub | carry | borrow | and | or | xor | andn | shl | shr | sar | rol | ror
  | cmpeq | cmpltu | cmplts | sel | bsel | ext | dep | mullo | mulhiu | mulhis
  | ldm | stm | pack | unpack | xec | shift
  deriving DecidableEq, Repr

/-- The operation of a WOP (R113); none for a reserved one. -/
def wuOpOf (n : Nat) : Option WuOp :=
  if n < 0x15 then
    [WuOp.nop, .add, .sub, .carry, .borrow, .and, .or, .xor, .andn, .shl, .shr, .sar, .rol, .ror, .cmpeq, .cmpltu, .cmplts,
      .sel, .bsel, .ext, .dep][n]?
  else match n with
    | 0x18 => some .mullo
    | 0x19 => some .mulhiu
    | 0x1A => some .mulhis
    | 0x20 => some .ldm
    | 0x21 => some .stm
    | 0x28 => some .pack
    | 0x29 => some .unpack
    | 0x30 => some .xec
    | 0x31 => some .shift
    | _ => none

/-- The fields of an 80-bit word-unit instruction (R109). -/
def wuFieldsOf (w : Inst80) : WuFields :=
  let n := w.toNat
  { pred := bitsOf n 70 4, chk := bitsOf n 69 1 == 1, dst := bitsOf n 65 4, sa := bitsOf n 61 4, sb := bitsOf n 57 4,
    immb := bitsOf n 56 1 == 1, imm16 := BitVec.ofNat 16 (bitsOf n 40 16), mode := BitVec.ofNat 40 (bitsOf n 0 40) }

/-- An operation's own part of MODE, or of a microinstruction entry: bits of the MODE field (R111). -/
def modeBits (f : WuFields) (lo w : Nat) : Nat := bitsOf f.mode.toNat lo w

/-- The two-operand operations of the ALU and multiply group: they read A and B (R113). -/
def WuOp.readsB : WuOp → Bool
  | .add | .sub | .carry | .borrow | .and | .or | .xor | .andn | .shl | .shr | .sar | .rol | .ror | .cmpeq | .cmpltu | .cmplts
  | .sel | .bsel | .dep | .mullo | .mulhiu | .mulhis => true
  | _ => false

/-- The operations of the ALU and multiply group that take C (R113). -/
def WuOp.readsC : WuOp → Bool
  | .sel | .bsel => true
  | _ => false

/-- The operations that take POS and WID (R113). -/
def WuOp.readsField : WuOp → Bool
  | .ext | .dep => true
  | _ => false

/-- A multiply (R114). -/
def WuOp.isMul : WuOp → Bool
  | .mullo | .mulhiu | .mulhis => true
  | _ => false

/-- An operation of the ALU and multiply group. -/
def WuOp.isAlu (op : WuOp) : Bool := op.readsB || op == .ext

/-- POS and WID are in range (R111). -/
def fieldOk (pos wid : Nat) : Bool := decide (pos ≤ 39) && decide (1 ≤ wid) && decide (pos + wid ≤ 40)

/-- WU_RESERVED_ENCODING (R112): a reserved MODE bit, a field that the operation does not read, or a value out of range. -/
def wuReserved (op : WuOp) (f : WuFields) : Bool :=
  let z := f.dst == 0 && f.sa == 0 && f.sb == 0 && !f.immb && f.imm16 == 0
  let ok :=
    if op.isAlu then
      (if op.readsB then (if f.immb then f.sb == 0 else f.imm16 == 0) else f.sb == 0 && !f.immb && f.imm16 == 0)
        && modeBits f 0 24 == 0
        && (op.readsC || modeBits f 36 4 == 0)
        && (if op.readsField then fieldOk (modeBits f 30 6) (modeBits f 24 6) else modeBits f 24 12 == 0)
    else match op with
      | .ldm => f.sb == 0 && !f.immb && decide (modeBits f 36 4 ≤ 8) && modeBits f 0 36 == 0
      | .stm =>
        f.dst == 0 && !f.immb && decide (modeBits f 36 4 ≤ 8) && modeBits f 34 2 != 3
          && (modeBits f 33 1 == 1 || modeBits f 29 4 == 0) && modeBits f 0 29 == 0
      | .pack =>
        f.sa == 0 && f.sb == 0 && !f.immb && f.imm16 == 0 && modeBits f 0 18 == 0
          && decide (1 ≤ modeBits f 18 6) && decide (modeBits f 18 6 ≤ 40) && decide (modeBits f 24 6 + modeBits f 18 6 ≤ 64)
      | .unpack =>
        f.dst == 0 && f.sb == 0 && !f.immb && f.imm16 == 0 && modeBits f 0 18 == 0
          && decide (1 ≤ modeBits f 18 6) && decide (modeBits f 18 6 ≤ 40) && decide (modeBits f 24 6 + modeBits f 18 6 ≤ 64)
      | .xec => z && modeBits f 0 32 == 0
      | .shift => f.sb == 0 && !f.immb && f.imm16 == 0 && f.mode == 0
      | _ => z && f.mode == 0
  !ok

/-- An ALU or multiply result (R113, R114). -/
def wuAlu (op : WuOp) (a b c : Word) (pos wid : Nat) : Word :=
  match op with
  | .add => a + b
  | .sub => a - b
  | .carry => flagWord (carryOf a b)
  | .borrow => flagWord (belowU a b)
  | .and => a &&& b
  | .or => a ||| b
  | .xor => a ^^^ b
  | .andn => a &&& ~~~b
  | .shl => shlOf a b
  | .shr => shrOf a b
  | .sar => sarOf a b
  | .rol => rolOf a b
  | .ror => rorOf a b
  | .cmpeq => flagWord (a == b)
  | .cmpltu => flagWord (belowU a b)
  | .cmplts => flagWord (belowS a b)
  | .sel => if c ≠ 0 then a else b
  | .bsel => (a &&& c) ||| (b &&& ~~~c)
  | .ext => extOf a pos wid
  | .dep => depOf a b pos wid
  | .mullo => mulLo a b
  | .mulhiu => mulHiU a b
  | .mulhis => mulHiS a b
  | _ => 0

/-- An ALU or multiply operation resolved: operation, destination, result. -/
structure AluOp where
  op : WuOp
  dst : Nat
  val : Word
  deriving DecidableEq, Repr

/-- An instruction of the ALU group as it stands (R109). -/
def aluOf (cl : Cluster) (op : WuOp) (f : WuFields) : AluOp :=
  ⟨op, f.dst % 16, wuAlu op (cl.wreg f.sa) (operandB cl f) (cl.wreg (modeBits f 36 4)) (modeBits f 30 6) (modeBits f 24 6)⟩

/-- A microinstruction entry run by XEC (R116, R117): the fault code of the entry, or its operation with OFS added to its selects; a NOP entry does nothing. -/
def xecEntry (cl : Cluster) (f : WuFields) : Nat ⊕ Option AluOp :=
  let e := (tget 0 cl.micro (modeBits f 36 4)).toNat
  let ofs := modeBits f 32 4
  let op := bitsOf e 74 6
  let sb := bitsOf e 62 4
  let imm := bitsOf e 57 1 == 1
  let pos := bitsOf e 51 6
  let wid := bitsOf e 45 6
  let r := fun x => cl.wreg ((x + ofs) % 16)
  match (if op < 0x1B then wuOpOf op else none) with
  | none => .inl 0x10
  | some .nop => if e = 0 then .inr none else .inl 0x11
  | some o =>
    let ok := bitsOf e 40 5 == 0
      && (if o.readsB then (if imm then sb == 0 else bitsOf e 0 40 == 0) else sb == 0 && !imm && bitsOf e 0 40 == 0)
      && (o.readsC || bitsOf e 58 4 == 0)
      && (if o.readsField then fieldOk pos wid else pos == 0 && wid == 0)
    if ok then
      .inr (some ⟨o, (bitsOf e 70 4 + ofs) % 16,
        wuAlu o (r (bitsOf e 66 4)) (if imm then BitVec.ofNat 40 (bitsOf e 0 40) else r sb) (r (bitsOf e 58 4)) pos wid⟩)
    else .inl 0x11

/-- The register an instruction writes at the end of its own step, if any (R107, R115). -/
def wuDst (cl : Cluster) (op : WuOp) (f : WuFields) : Option Nat :=
  match op with
  | .xec => match xecEntry cl f with
    | .inr (some o) => if o.op.isMul then none else some o.dst
    | _ => none
  | .ldm | .pack | .shift => some (f.dst % 16)
  | o => if o.isAlu && !o.isMul then some (f.dst % 16) else none

/-- A multiply result is written at the end of this step (R114). -/
def Cluster.arriving (cl : Cluster) (dst : Nat) : Bool := cl.mul.any fun m => m.left == 1 && m.dst == dst

/-- The BPs of PACK and UNPACK, BASE to BASE + WID − 1 (R122, R123). -/
def packRange (f : WuFields) : List Nat := (List.range (modeBits f 18 6)).map fun j => modeBits f 24 6 + j

/-- The fault codes an instruction raises, lowest first (R112, R117, R119, R121, R124, R125, R128, R129); `wrote` are the BPs whose bit-store write of this step takes place (R124), and `mode` is WU_CFG.MODE. -/
def wuFaults (x : StepCtx) (cl : Cluster) (mode : Nat) (wrote : List Nat) (op : WuOp) (f : WuFields) : List Nat :=
  let entry := if op = .xec then (match xecEntry cl f with | .inl c => [c] | _ => []) else []
  let addr := wuAddr cl f
  let mem := op == .ldm || op == .stm
  (if entry.contains 0x10 then [0x10] else [])
    ++ (if wuReserved op f || entry.contains 0x11 then [0x11] else [])
    ++ (if f.pred != x.tag then [0x12] else [])
    ++ (if mem && modeBits f 36 4 != 8 && addr % 8 != modeBits f 36 4 then [0x13] else [])
    ++ (match wuDst cl op f with | some d => if cl.arriving d then [0x14] else [] | none => [])
    ++ (if op == .unpack && modeBits f 30 10 == x.step % 1024 && (packRange f).any (fun b => wrote.contains b) then [0x15] else [])
    ++ (if (op == .shift && mode == 0) || (mem && mode == 1) then [0x16] else [])
    ++ (if mem && f.chk && decide (x.memLimit ≤ addr) then [0x17] else [])
    ++ (if (op == .pack || op == .unpack) && f.chk && decide (x.bitLimit ≤ modeBits f 30 10) then [0x18] else [])

/-- The banks an access that takes place occupies (R119, R139). -/
def wuBanks (op : WuOp) (f : WuFields) : List Nat :=
  match op with
  | .ldm | .stm => if modeBits f 36 4 = 8 then List.range 8 else [modeBits f 36 4]
  | .shift => List.range 8
  | _ => []

/-- The word PACK gathers (R122). -/
def packWord (cl : Cluster) (f : WuFields) : Word :=
  (packRange f).zipIdx.foldl (fun w e => if (cl.bp e.1).bits.at (modeBits f 30 10) then w ||| (1#40 <<< e.2) else w) 0

/-- UNPACK's bit-store writes (R123). -/
def Cluster.unpack (cl : Cluster) (a base wid : Nat) (x : Word) : Cluster :=
  (List.range wid).foldl (fun c j => c.putBit 64 (base + j) a (x.getLsbD j)) cl

/-- An ALU result is written at once, a multiply is issued (R107, R114); where the multiplier's step has ended already, its first executed step is counted. -/
def Cluster.aluWrite (cl : Cluster) (o : AluOp) : Cluster :=
  if o.op.isMul then { cl with mul := cl.mul ++ [⟨if cl.ticked.isSome then 2 else 3, o.dst, o.val⟩] } else cl.setW o.dst o.val

/-- What an instruction that raises no fault does on cluster `k` (R113, R118, R120, R122, R123, R127); operands are those of `pre`, the cluster at the start of the step. -/
def State.wuEffect (s : State) (k : Nat) (pre : Cluster) (op : WuOp) (f : WuFields) : State :=
  let s0 := s.modCluster k fun cl => { cl with busy := wuBanks op f }
  match op with
  | .nop => s0
  | .ldm =>
    let r := s0.wuRead k (wuAddr pre f)
    r.2.modCluster k fun cl => cl.setW f.dst r.1
  | .stm =>
    if modeBits f 33 1 = 1 ∧ (pre.wreg (modeBits f 29 4)).getLsbD 0 = false then s0
    else
      let a := wuAddr pre f
      let x := pre.wreg f.sb
      match modeBits f 34 2 with
      | 0 => s0.wuWrite k a x
      | 1 => s0.wuAlias k a true x
      | _ => s0.wuAlias k a false x
  | .pack => s0.modCluster k fun cl => cl.setW f.dst (packWord pre f)
  | .unpack => s0.modCluster k fun cl => cl.unpack (modeBits f 30 10) (modeBits f 24 6) (modeBits f 18 6) (pre.wreg f.sa)
  | .xec => match xecEntry pre f with
    | .inr (some o) => s0.modCluster k fun cl => cl.aluWrite o
    | _ => s0
  | .shift =>
    let ptr := s0.rd .WU_SR_PTR k .PTR
    let a := (s0.rd .WU_CFG k .SR_BASE + ptr) % 65536
    let r := s0.wuRead k a
    let s1 := (r.2.wuWrite k a (pre.wreg f.sa)).modCluster k fun cl => cl.setW f.dst r.1
    s1.wr .WU_SR_PTR k .PTR ((ptr + 1) % s0.rd .WU_CFG k .SR_LEN)
  | o => s0.modCluster k fun cl => cl.aluWrite (aluOf pre o f)

/-- The BPs whose bit-store write of step `n` has taken place (R124). -/
def Cluster.wroteBits (cl : Cluster) (n : Nat) : List Nat :=
  (cl.wrote.filter fun e => decide (e.who < 64) && e.addr == n % 1024).map (·.bp)

/-- The word unit has executed its instruction of the step, without an access. -/
def Cluster.wuIdle (cl : Cluster) : Cluster := { cl with busy := [], done := 64 :: cl.done }

/-- One word-unit instruction on cluster `k` at step `n` of camp `c`; `op` is none for a reserved opcode. It reads the stores as they stood at the start of the step (R107); it is suppressed and logged with BP 0 on a fault (R130), and has its effect otherwise. -/
def State.wuTurn (s : State) (c k n : Nat) (op : Option WuOp) (f : WuFields) : State :=
  let pre := (s.cluster k).before
  let idle := s.modCluster k Cluster.wuIdle
  match op with
  | none => idle.logFault c k 0x10 0 n 0
  | some o =>
    match wuFaults (s.ctxAt c (k / 72) k n) pre (s.rd .WU_CFG k .MODE) ((s.cluster k).wroteBits n) o f with
    | code :: _ => idle.logFault c k code 0 n 0
    | [] => idle.wuEffect k pre o f

/-- One word-unit instruction executes at the step its die group stands at; where no step executes, nothing happens. -/
def State.runWu (s : State) (loc : ClusterSite) (op : WuOp) (f : WuFields) : State :=
  let k := 72 * loc.die + loc.slot
  match s.stepOf k with
  | none => s
  | some (c, n) => (s.wuTurn c k n (some op) f).haltIfFrozen c

/-- The end of an executed step in the multiplier (R114), once a step: every count falls, and a result whose count ends is written. -/
def Cluster.mulTick (cl : Cluster) : Cluster :=
  if cl.ticked.isSome then cl
  else
    let ms := cl.mul.map fun m => { m with left := m.left - 1 }
    let ended := ms.filter fun m => m.left == 0
    { ended.foldl (fun x m => x.setW m.dst m.val) cl with mul := ms.filter (fun m => m.left != 0), ticked := some (cl.w, cl.mul) }

/-- The flush at B0 (R114, R133): results in flight are written in issue order. -/
def Cluster.mulFlush (cl : Cluster) : Cluster :=
  { cl.mul.foldl (fun x m => x.setW m.dst m.val) cl with mul := [] }

/-- MUL_RESULT_WRITE (R114): the end of the step in progress in one cluster's multiplier; nothing where no step executes (R136, R216). -/
def execMulResultWrite (loc : ClusterSite) (s : State) : Host.Outcome State Fault Refusal :=
  let k := 72 * loc.die + loc.slot
  match s.stepOf k with
  | none => .next s
  | some _ => .next (s.modCluster k Cluster.mulTick)

/-- NOP: nothing (R113). -/
def execWuNop (loc : ClusterSite) (f : WuFields) (s : State) : Host.Outcome State Fault Refusal :=
  .next (s.runWu loc .nop f)

/-- ADD (R113). -/
def execWuAdd (loc : ClusterSite) (f : WuFields) (s : State) : Host.Outcome State Fault Refusal :=
  .next (s.runWu loc .add f)

/-- SUB (R113). -/
def execWuSub (loc : ClusterSite) (f : WuFields) (s : State) : Host.Outcome State Fault Refusal :=
  .next (s.runWu loc .sub f)

/-- CARRY (R113). -/
def execWuCarry (loc : ClusterSite) (f : WuFields) (s : State) : Host.Outcome State Fault Refusal :=
  .next (s.runWu loc .carry f)

/-- BORROW (R113). -/
def execWuBorrow (loc : ClusterSite) (f : WuFields) (s : State) : Host.Outcome State Fault Refusal :=
  .next (s.runWu loc .borrow f)

/-- AND (R113). -/
def execWuAnd (loc : ClusterSite) (f : WuFields) (s : State) : Host.Outcome State Fault Refusal :=
  .next (s.runWu loc .and f)

/-- OR (R113). -/
def execWuOr (loc : ClusterSite) (f : WuFields) (s : State) : Host.Outcome State Fault Refusal :=
  .next (s.runWu loc .or f)

/-- XOR (R113). -/
def execWuXor (loc : ClusterSite) (f : WuFields) (s : State) : Host.Outcome State Fault Refusal :=
  .next (s.runWu loc .xor f)

/-- ANDN (R113). -/
def execWuAndn (loc : ClusterSite) (f : WuFields) (s : State) : Host.Outcome State Fault Refusal :=
  .next (s.runWu loc .andn f)

/-- SHL (R113). -/
def execWuShl (loc : ClusterSite) (f : WuFields) (s : State) : Host.Outcome State Fault Refusal :=
  .next (s.runWu loc .shl f)

/-- SHR (R113). -/
def execWuShr (loc : ClusterSite) (f : WuFields) (s : State) : Host.Outcome State Fault Refusal :=
  .next (s.runWu loc .shr f)

/-- SAR (R113). -/
def execWuSar (loc : ClusterSite) (f : WuFields) (s : State) : Host.Outcome State Fault Refusal :=
  .next (s.runWu loc .sar f)

/-- ROL (R113). -/
def execWuRol (loc : ClusterSite) (f : WuFields) (s : State) : Host.Outcome State Fault Refusal :=
  .next (s.runWu loc .rol f)

/-- ROR (R113). -/
def execWuRor (loc : ClusterSite) (f : WuFields) (s : State) : Host.Outcome State Fault Refusal :=
  .next (s.runWu loc .ror f)

/-- CMPEQ (R113). -/
def execWuCmpeq (loc : ClusterSite) (f : WuFields) (s : State) : Host.Outcome State Fault Refusal :=
  .next (s.runWu loc .cmpeq f)

/-- CMPLTU (R113). -/
def execWuCmpltu (loc : ClusterSite) (f : WuFields) (s : State) : Host.Outcome State Fault Refusal :=
  .next (s.runWu loc .cmpltu f)

/-- CMPLTS (R113). -/
def execWuCmplts (loc : ClusterSite) (f : WuFields) (s : State) : Host.Outcome State Fault Refusal :=
  .next (s.runWu loc .cmplts f)

/-- SEL (R113). -/
def execWuSel (loc : ClusterSite) (f : WuFields) (s : State) : Host.Outcome State Fault Refusal :=
  .next (s.runWu loc .sel f)

/-- BSEL (R113). -/
def execWuBsel (loc : ClusterSite) (f : WuFields) (s : State) : Host.Outcome State Fault Refusal :=
  .next (s.runWu loc .bsel f)

/-- EXT (R113). -/
def execWuExt (loc : ClusterSite) (f : WuFields) (s : State) : Host.Outcome State Fault Refusal :=
  .next (s.runWu loc .ext f)

/-- DEP (R113). -/
def execWuDep (loc : ClusterSite) (f : WuFields) (s : State) : Host.Outcome State Fault Refusal :=
  .next (s.runWu loc .dep f)

/-- MULLO (R114). -/
def execWuMullo (loc : ClusterSite) (f : WuFields) (s : State) : Host.Outcome State Fault Refusal :=
  .next (s.runWu loc .mullo f)

/-- MULHIU (R114). -/
def execWuMulhiu (loc : ClusterSite) (f : WuFields) (s : State) : Host.Outcome State Fault Refusal :=
  .next (s.runWu loc .mulhiu f)

/-- MULHIS (R114). -/
def execWuMulhis (loc : ClusterSite) (f : WuFields) (s : State) : Host.Outcome State Fault Refusal :=
  .next (s.runWu loc .mulhis f)

/-- LDM (R118 to R121). -/
def execWuLdm (loc : ClusterSite) (f : WuFields) (s : State) : Host.Outcome State Fault Refusal :=
  .next (s.runWu loc .ldm f)

/-- STM (R118 to R121, R144). -/
def execWuStm (loc : ClusterSite) (f : WuFields) (s : State) : Host.Outcome State Fault Refusal :=
  .next (s.runWu loc .stm f)

/-- PACK (R122). -/
def execWuPack (loc : ClusterSite) (f : WuFields) (s : State) : Host.Outcome State Fault Refusal :=
  .next (s.runWu loc .pack f)

/-- UNPACK (R123, R124). -/
def execWuUnpack (loc : ClusterSite) (f : WuFields) (s : State) : Host.Outcome State Fault Refusal :=
  .next (s.runWu loc .unpack f)

/-- XEC (R116, R117). -/
def execWuXec (loc : ClusterSite) (f : WuFields) (s : State) : Host.Outcome State Fault Refusal :=
  .next (s.runWu loc .xec f)

/-- SHIFT (R127, R135). -/
def execWuShift (loc : ClusterSite) (f : WuFields) (s : State) : Host.Outcome State Fault Refusal :=
  .next (s.runWu loc .shift f)

end Sys2Proof.Machine
end

