-- ==== Sys2Proof/Machine/Schedule.lean ====
section
/-! DEFINITION. One schedule step of a die group (R41, R44, R60): the start of the cycle, lateness, every BP and word unit from the stores at the start of the step, drive conflicts, router entries, crossings and deep accesses. -/

namespace Sys2Proof.Machine

/-- A crossing-table entry's fields (R182). -/
structure Xing where
  dep : Nat
  arr : Nat
  src : Nat
  dst : Nat
  dmod : Nat
  camp : Nat
  kind : Nat
  valid : Bool
  deriving DecidableEq, Repr

/-- The fields of an 80-bit crossing entry (R182). -/
def xingOf (w : Inst80) : Xing :=
  let n := w.toNat
  { dep := bitsOf n 0 12, arr := bitsOf n 12 12, src := bitsOf n 24 13, dst := bitsOf n 37 13, dmod := bitsOf n 50 8,
    camp := bitsOf n 58 6, kind := bitsOf n 76 3, valid := bitsOf n 79 1 == 1 }

/-- PLACE of an endpoint (R182). -/
def epPlace (e : Nat) : Nat := e / 512

/-- LANE of an endpoint (R182). -/
def epLane (e : Nat) : Nat := e % 512

/-- The valid crossing entries of a camp, by rising table index (R182, R273). -/
def State.campXings (s : State) (c : Nat) : List (Nat × Xing) :=
  (List.range (s.camp c).xsize).filterMap fun i =>
    let x := xingOf (tget 0 s.xing ((s.camp c).xbase + i))
    if x.valid && x.camp == c then some ((s.camp c).xbase + i, x) else none

/-- The edge of E-die `d` that faces the other end of a crossing (R179, R211): 0 the hub, 1 the ring edge of (d − 1) mod 8, 2 that of (d + 1) mod 8. -/
def edgeToward (d other kind : Nat) : Nat :=
  if kind = 0 then (if other = (d + 1) % 8 then 2 else 1) else 0

/-- The edge port lane 0 to 191 of the router at position 7 for an edge and a lane 0 to 63 of its row (R174). -/
def edgeDidx (edge lane : Nat) : Nat := 64 * edge + lane % 64

/-- The edge at which an entry arrives (R183). -/
def Xing.dstEdge (x : Xing) : Nat := edgeToward (epPlace x.dst) (epPlace x.src) x.kind

/-- An entry's departure step runs in a cycle with the edge vector `v` (R248). -/
def State.depRuns (s : State) (c : Nat) (v : BitVec 16) (x : Xing) : Bool := tagRuns v (tagOf (s.camp c).segs x.dep)

/-- The edge vector of the camp's cycle in progress, where it is here: that of a die group that has begun the cycle, or the one that waits in the queues. -/
def State.vecNow (s : State) (c : Nat) : Option (BitVec 16) :=
  match (s.campDies c).find? fun d => (s.group c d).applied with
  | some d => some (s.group c d).cur
  | none => ((s.group c ((s.campDies c).headD 0)).queue.find? fun e => e.1 == (s.camp c).cycle.toNat).map (·.2)

/-- An entry is beaten by a lower one with its DST and ARR_STEP (R188, last row). -/
def losesXing (es : List (Nat × Xing)) (e : Nat × Xing) : Bool :=
  es.any fun q => decide (q.1 < e.1) && q.2.dst == e.2.dst && q.2.arr == e.2.arr

/-- The entry is beaten in a cycle with the edge vector `v`: by one whose departure runs too (R188, R189). -/
def State.losesIn (s : State) (c : Nat) (v : BitVec 16) (e : Nat × Xing) : Bool :=
  s.depRuns c v e.2 && losesXing ((s.campXings c).filter fun q => s.depRuns c v q.2) e

/-- Entries due at E-die `d` for step `n` (R185). -/
def State.dueXings (s : State) (c d n : Nat) : List (Nat × Xing) :=
  (s.campXings c).filter fun e => epPlace e.2.dst == d && e.2.arr == n

/-- An item has reached its elastic buffer (R219). -/
def State.itemHere (s : State) (c : Nat) (x : Xing) : Option Item :=
  (s.camp c).items.find? fun t => t.dst == x.dst && t.edge == x.dstEdge && t.arr == x.arr

/-- After a reset of the edge's buffer, an absent item due before the first position written since is delivered with valid 0 (R209). -/
def State.lostBefore (s : State) (c d edge n : Nat) : Bool :=
  match (s.camp c).lost.find? fun e => e.1 == (d, edge) with
  | some (_, (true, some (cyc, st))) =>
    decide ((s.camp c).cycle.toNat < cyc) || ((s.camp c).cycle.toNat == cyc && decide (n < st))
  | _ => false

/-- The cause charged for a late item (R217, R221, R225). -/
def State.lateCause (s : State) (x : Xing) : Nat :=
  if x.kind = 0 ∨ x.kind = 1 then 0x1
  else if s.rd .HN_STATUS (epPlace x.src - 8) .REPLAY = 1 then 0x3 else 0x2

/-- What makes a die group late at a step: the cause charged, the pitch that waits (R226), and the deep read where it is one. -/
structure Late where
  cause : Nat
  pitch : Nat
  read : Option DeepRead
  deriving DecidableEq, Repr

/-- The crossing items of the step that are late (R186, R248), by cause and the pitch that takes them. -/
def State.lateXings (s : State) (c d n : Nat) : List Late :=
  let v := (s.group c d).cur
  (((s.dueXings c d n).filter fun e =>
    s.depRuns c v e.2 && !s.losesIn c v e && (s.itemHere c e.2).isNone && !s.lostBefore c d e.2.dstEdge n).map
    fun e => (⟨s.lateCause e.2, 8 * d + epLane e.2.dst / 64, none⟩ : Late)).eraseDups

/-- The causes that hold a read back at present (R350, R353, R358): 5 while its bank is refreshed, 6 while a throttle holds its camp there and no other source, 7 while its page is under re-encryption. DEDUCED (log 95), unsafe. -/
def State.heldCauses (s : State) (c : Nat) (r : DeepRead) : List Nat :=
  let b := s.bankOf r.addr
  if r.fetched.isSome then []
  else (if s.refreshHolds b then [5] else []) ++ (if (s.quietObs r.addr).activates && s.throttleHolds b c then [6] else [])
    ++ (if s.deep.reenc.contains (r.addr / 4096) then [7] else [])

/-- A hold is about to end: the reads it holds back remember it (R358). -/
def State.noteHolds (s : State) : State :=
  { s with camps := s.camps.map fun e => (e.1, { e.2 with reads := e.2.reads.map fun r => { r with causes := (r.causes ++ s.heldCauses e.1 r).eraseDups } }) }

/-- The scheduled deep reads of the group that are late at the step they are due (R358, R363): each is charged to the lowest of the causes that have held it back, or to DRAM_LATE. -/
def State.lateDeeps (s : State) (c d n : Nat) : List Late :=
  ((s.camp c).reads.filter fun r => r.due == n && r.pitch / 8 == d && r.data.isNone).map fun r =>
    let k := (r.causes ++ s.heldCauses c r).foldl min 16
    ⟨if k = 16 then 4 else k, r.pitch, some r⟩

/-- Everything that makes the group late at a step, lower cause codes first (R234). -/
def State.lates (s : State) (c d n : Nat) : List Late :=
  (List.range 16).flatMap fun k => (s.lateXings c d n ++ s.lateDeeps c d n).filter fun e => e.cause == k

/-- The lowest module pitch of a die group (R226). -/
def State.groupIsland (s : State) (c d : Nat) : Nat := (s.groupPitches c d).headD 0

/-- A position of a camp in its present cycle. -/
def State.posNow (s : State) (c n : Nat) : Option (Nat × Pos) := some ((s.camp c).cycle.toNat, .step n)

/-- The fault decision of R44 for the cycle before is held (R243): always with HALT_ON_FAULT = 0, and before the first cycle of the run; otherwise once every other module has sent its summary. That the first cycle after a restore waits for none either is the model's choice: the spec says nothing of the summaries of the cycle before it. DESIGN CHOICE (log 87), unsafe. -/
def State.decisionHeld (s : State) (c : Nat) : Bool :=
  s.rd .RUN_CAMP_CTRL c .HALT_ON_FAULT == 0 || (s.camp c).cycle.toNat == (s.camp c).began
    || (s.camp c).peers.all fun p => (s.camp c).summaries.any fun m =>
        m.module == p && m.cycle + 1 == (s.camp c).cycle.toNat

/-- The position of the next step that runs, or B0 where none is left. -/
def posAfter (n : Option Nat) : Pos :=
  match n with
  | some m => .step m
  | none => .bnd 0

/-- Step 0 of a cycle on a die group (R44): the queued vector is applied and the group moves to the first step that runs, or to B0 where none does; a group that lacks the vector or the fault decision raises BOUNDARY_SYNC. -/
def State.beginCycle (s : State) (c d : Nat) : State :=
  let g := s.group c d
  let cyc := (s.camp c).cycle.toNat
  match g.queue.find? fun e => e.1 == cyc with
  | some (_, v) =>
    if s.decisionHeld c then
      let p := posAfter (nextStep (s.camp c).segs v (s.schedLen c) 0)
      let s1 := s.modGroup c d fun g => { g with applied := true, prev := g.cur, cur := v, pos := p, queue := g.queue.filter fun e => cyc < e.1 }
      s1.wrs .DC_VECTOR c [(.CUR, v.toNat), (.PREV, g.cur.toNat)]
    else s.raiseStall c 0xA (s.groupIsland c d) (s.posNow c 0)
  | none => s.raiseStall c 0xA (s.groupIsland c d) (s.posNow c 0)

/-- An instruction word of a cluster has an uncorrectable error in this step's fetch (R664). -/
def upsetAt (obs : StepObs) (k kind unit : Nat) : Bool :=
  obs.upsets.any fun u => u.cluster == k && u.kind == kind && u.unit == unit && u.ue

/-- A BP whose instruction word is uncorrectable does nothing in the step (R664). -/
def Cluster.bpIdle (cl : Cluster) (b : Nat) : Cluster := { cl.modBp b (fun y => { y with drive := none }) with done := b :: cl.done }

/-- The instruction of BP `b` for step `n` out of its instruction memory (R60, R92, R664). -/
def State.fetchBp (s : State) (c n : Nat) (obs : StepObs) (k b : Nat) : State :=
  let w := tget 0 ((s.cluster k).bp b).imem n
  if upsetAt obs k 1 ((s.cluster k).physBp b) then s.modCluster k fun cl => cl.bpIdle b
  else s.bpTurn c k n b (bpOpOf (bitsOf w.toNat 76 4)) (bpFieldsOf w)

/-- The word unit's instruction for step `n` (R107, R664). -/
def State.fetchWu (s : State) (c n : Nat) (obs : StepObs) (k : Nat) : State :=
  let w := tget 0 (s.cluster k).wimem n
  let op := wuOpOf (bitsOf w.toNat 74 6)
  if upsetAt obs k 2 0 || (op == some .xec && upsetAt obs k 3 0) then s.modCluster k Cluster.wuIdle
  else s.wuTurn c k n op (wuFieldsOf w)

/-- One cluster's BPs and word unit at a step (R45, R99, R100, R132), but for those that a command has already given their instruction of the step; then the multiplier's tick and one piece of every drain. -/
def State.stepCluster (s : State) (c n : Nat) (obs : StepObs) (k : Nat) : State :=
  let did := (s.cluster k).done
  let s1 := s.forEach ((List.range 64).filter fun b => !did.contains b) fun t b => t.fetchBp c n obs k b
  let s2 := if did.contains 64 then s1 else s1.fetchWu c n obs k
  s2.modCluster k fun cl => cl.mulTick.advanceDrains 1

/-- A router entry's fields (R174), with its address in the transfer memory. -/
structure REntry where
  addr : Nat
  step : Nat
  src : Nat
  sidx : Nat
  out : Nat
  didx : Nat
  reg : Bool
  valid : Bool
  deriving DecidableEq, Repr

/-- The fields of a router entry (R174). -/
def rentryOf (a : Nat) (w : Word) : REntry :=
  let n := w.toNat
  { addr := a, step := bitsOf n 0 12, src := bitsOf n 12 3, sidx := bitsOf n 15 10, out := bitsOf n 25 3, didx := bitsOf n 28 10,
    reg := bitsOf n 38 1 == 1, valid := bitsOf n 39 1 == 1 }

/-- A cluster's router entries that run at a step (R175), by rising address; one whose word is uncorrectable drives nothing (R664). -/
def runEntries (obs : StepObs) (k : Nat) (cl : Cluster) (n : Nat) : List REntry :=
  (cl.router.map fun e => rentryOf e.1 e.2).filter fun r =>
    r.valid && r.step == n && !obs.upsets.any fun u => u.cluster == k && u.kind == 4 && u.addr == r.addr && u.ue

/-- The pitch of the same row beyond a ring edge of pitch `q` (R179, R211); none beyond the hub edge. -/
def ringPitch (q edge : Nat) : Option Nat :=
  match edge with
  | 1 => some (8 * ((q / 8 + 7) % 8) + q % 8)
  | 2 => some (8 * ((q / 8 + 1) % 8) + q % 8)
  | _ => none

/-- The bit a router entry reads in the step (R165, R175): value and valid. A lane from a pitch outside the camp is isolated and carries the value of its net group (R322). Of two bits that arrive on one mesh lane for the step, which are no conflict under R188, the lane carries the one driven first: the model's choice. DEDUCED (log 25), unsafe. -/
def State.entrySource (s : State) (c k n : Nat) (r : REntry) : Bool × Bool :=
  let cl := s.cluster k
  match r.src with
  | 0 => match (cl.bp r.sidx).drive with
    | some v => (v, true)
    | none => (false, false)
  | 1 => match (cl.slots.filter fun t => t.1 == r.sidx).head? with
    | some t => (t.2.2, true)
    | none => (false, false)
  | 6 =>
    match (s.camp c).items.find? fun t =>
      t.dst == 512 * (k / 72) + 64 * (pitchOf k % 8) + r.sidx % 64 && t.edge == r.sidx / 64 && t.arr == n with
    | some t => (t.val, t.valid)
    | none => ((ringPitch (pitchOf k) (r.sidx / 64)).any (fun q => !(s.campPitches c).contains q) && (s.camp c).iso.testBit 2, false)
  | p => match cl.lanes.find? fun t => t.due == n && t.port == p && t.lane == r.sidx with
    | some t => (t.val, t.valid)
    | none =>
      let q := pitchOf k
      let inCamp := fun x => (s.campPitches c).contains x
      (if p = 2 then decide (0 < q % 8) && !inCamp (q - 1) && (s.camp c).iso.testBit 0
        else p == 3 && decide (q % 8 < 7) && !inCamp (q + 1) && (s.camp c).iso.testBit 1, false)

/-- What a router drives in a step: cluster, entry, value, valid. -/
structure Drive where
  k : Nat
  entry : REntry
  val : Bool
  valid : Bool
  deriving DecidableEq, Repr

/-- An entry loses its destination wire to an entry of lower address in the same router (R188). -/
def losesWire (es : List REntry) (r : REntry) : Bool :=
  es.any fun q => decide (q.addr < r.addr) && q.out == r.out && q.didx == r.didx

/-- The wire code of the conflict log (R192). -/
def wireOf (out : Nat) : Nat := if out = 0 then 6 else out

/-- The cluster and port that a mesh lane leads to (R172): the row above or below at the same position, or the neighbour in the row; only within the camp's pitches. -/
def State.meshNext (s : State) (c k out : Nat) : Option (Nat × Nat) :=
  let p := pitchOf k
  let j := s.posOf k
  let inCamp := fun q => (s.campPitches c).contains q && q / 8 == p / 8
  match out with
  | 1 => if 0 < p % 8 ∧ inCamp (p - 1) = true then some (s.clusterAt (p - 1) j, 3) else none
  | 2 => if p % 8 < 7 ∧ inCamp (p + 1) = true then some (s.clusterAt (p + 1) j, 2) else none
  | 3 => if j < 7 then some (s.clusterAt p (j + 1), 5) else none
  | 4 => if 0 < j then some (s.clusterAt p (j - 1), 4) else none
  | _ => none

/-- A winning drive takes effect (R167, R175, R176): a valid delivery writes its receive slot and marks it fresh; a mesh lane carries the bit to the next router. -/
def State.applyDrive (s : State) (c n : Nat) (e : Drive) : State :=
  match e.entry.out with
  | 0 => if e.valid then s.modCluster e.k fun cl =>
      { cl with recv := cl.recv.put e.entry.didx e.val, fresh := cl.fresh.put e.entry.didx true } else s
  | 5 => s
  | o => match s.meshNext c e.k o with
    | none => s
    | some (k', port) => s.modCluster k' fun cl =>
      { cl with lanes := cl.lanes ++ [⟨n + (if e.entry.reg then 2 else 1), port, e.entry.didx, e.val, e.valid⟩] }

/-- The routers of the die group at a step (R175, R188, R189): the winning drives, and the losers logged. -/
def State.routerDrives (s : State) (c d n : Nat) (obs : StepObs) : List Drive × State :=
  (s.groupClusters c d).foldl (fun acc k =>
    let es := runEntries obs k (s.cluster k) n
    let wins := (es.filter fun r => !losesWire es r).map fun r => let b := s.entrySource c k n r; (⟨k, r, b.1, b.2⟩ : Drive)
    let t := acc.2.forEach (es.filter fun r => losesWire es r) fun t r => t.logConflict c k n (wireOf r.out) r.didx
    (acc.1 ++ wins, t)) ([], s)

/-- The bit that leaves the source endpoint of a crossing (R186): what the router at position 7 of its row drives onto the edge lane, or valid 0. -/
def State.edgeBit (s : State) (drives : List Drive) (d : Nat) (x : Xing) : Bool × Bool :=
  let k := s.clusterAt (8 * d + epLane x.src / 64) 7
  let edge := edgeToward d (epPlace x.dst) x.kind
  match drives.find? fun e => e.k == k && e.entry.out == 5 && e.entry.didx == edgeDidx edge (epLane x.src) with
  | some e => (e.val, e.valid)
  | none => (false, false)

/-- The lowest crossing index among the losers of the wire that RUN_XING_LOG names (R196). -/
def State.loggedXing (s : State) (c : Nat) (v : BitVec 16) : Nat :=
  (((s.campXings c).find? fun q => q.2.dst == s.rd .RUN_XING_LOG 0 .DST && q.2.arr == s.rd .RUN_XING_LOG 0 .STEP && s.losesIn c v q).map (·.1)).getD 0

/-- An entry that loses at step `n` is counted, logged (R193, R194) and enters the fault summary (R189). Of the losers of one step the log keeps the lowest index (R196); a further loser of the wire logged is no other conflict (R195). -/
def State.logXing (s : State) (c d n : Nat) (e : Nat × Xing) : State :=
  let v := (s.group c d).cur
  let s1 := s.bump .RUN_XING_COUNT 0 .COUNT 1
  let s2 := s1.logIn .RUN_XING_LOG 0 [c, (s.camp c).cycle.toNat, n] [(.DST, e.2.dst), (.STEP, e.2.arr), (.CAMP, c)]
    (s.rd .RUN_XING_LOG 0 .DST == e.2.dst && s.rd .RUN_XING_LOG 0 .STEP == e.2.arr) (decide (e.1 < s.loggedXing c v))
    fun t => t.wr .RUN_XING_CYCLE 0 .CYCLE (s.camp c).cycle.toNat
  s2.campFault c d

/-- The crossing entries that lose at a step on an E-die (R188, R189), by rising index: those that leave it for port slots, those due at it, and on the camp's first E-die those that pass from port to port. -/
def State.xingLosers (s : State) (c d n : Nat) : List (Nat × Xing) :=
  (s.campXings c).filter fun e =>
    ((epPlace e.2.src == d && e.2.dep == n && e.2.kind == 2) || (epPlace e.2.dst == d && e.2.arr == n)
      || (e.2.kind == 4 && e.2.dep == n && (s.campDies c).head? == some d)) && s.losesIn c (s.group c d).cur e

/-- The crossings that leave an E-die at a step (R183, R184): items toward another edge, and port slots. A losing entry drives nothing (R189). -/
def State.departXings (s : State) (c d n : Nat) (drives : List Drive) : State :=
  s.forEach ((s.campXings c).filter fun e => epPlace e.2.src == d && e.2.dep == n && !s.losesIn c (s.group c d).cur e) fun t e =>
    let b := s.edgeBit drives d e.2
    t.modCamp c fun y =>
      if e.2.kind = 2 then { y with toPort := y.toPort ++ [(epPlace e.2.dst - 8, e.2.dmod, epLane e.2.dst, e.2.arr, b.1, b.2)] }
      else { y with flight := y.flight ++ [⟨c, e.2.dst, e.2.dstEdge, e.2.arr, b.1, b.2⟩] }

/-- The entries that put an item into slots of a port for a step position in this cycle (R188, R248, R514). -/
def State.portEntries (s : State) (c p arr : Nat) : List (Nat × Xing) :=
  let v := (s.vecNow c).getD 1
  (s.campXings c).filter fun e => epPlace e.2.dst == 8 + p && e.2.arr == arr && s.depRuns c v e.2 && !s.losesIn c v e

/-- The DATA flit of a step position (R514): its step is the DEP_STEP of the next module's entries (R184). -/
def State.dataFlit (s : State) (c p arr : Nat) (bs : List (Nat × Nat × Nat × Nat × Bool × Bool)) : OutFlit :=
  let slots := bs.map fun b => b.2.2.1
  let base := slots.foldl min 255
  let top := slots.foldl max 0
  let budget := (((s.camp c).hops.find? fun h => h.port == p).map (·.budget)).getD 0
  ⟨1, 0, .data ⟨(s.camp c).tag, arr + budget, (s.camp c).cycle.toNat % 16, base, (List.range (top + 1 - base)).map fun i =>
    match bs.find? fun b => b.2.2.1 == base + i with
    | some b => (b.2.2.2.2.1, b.2.2.2.2.2)
    | none => (false, false)⟩⟩

/-- The DATA flits of a camp whose items are complete leave in step-position order (R514). -/
def State.sendReady (s : State) (c : Nat) : Nat → State
  | 0 => s
  | n + 1 =>
    match (List.range 6).findSome? fun p =>
      let bs := (s.camp c).toPort.filter fun b => b.1 == p
      match bs with
      | [] => none
      | b :: l =>
        let arr := l.foldl (fun m x => min m x.2.2.2.1) b.2.2.2.1
        let mine := bs.filter fun x => x.2.2.2.1 == arr
        if (s.portEntries c p arr).length ≤ mine.length then some (p, arr, mine) else none with
    | none => s
    | some (p, arr, mine) =>
      let s1 := s.modCamp c fun y => { y with toPort := y.toPort.filter fun b => !(b.1 == p && b.2.2.2.1 == arr) }
      (if s.keyed p && (s.camp c).hops.any (fun h => h.port == p && !h.withdrawn) then s1.sendFlit p (s.dataFlit c p arr mine) else s1).sendReady c n

/-- The entries that put the bits of a DATA payload of port `p` somewhere (R183, R184). -/
def dataEntries (es : List (Nat × Xing)) (p : Nat) (d : DataPay) : List ((Nat × Xing) × Bool × Bool) :=
  d.bits.zipIdx.flatMap fun b =>
    (es.filter fun e => (e.2.kind == 3 || e.2.kind == 4) && e.2.src == 512 * (8 + p) + d.base + b.2 && e.2.dep == d.step).map fun e => (e, b.1)

/-- The items of a DATA payload reach the hub switch (R183, R184, R203, R514): toward the edge of an E-die, or onward to another port. An entry that loses in the cycle drives nothing (R189). -/
def State.portItems (s : State) (c p : Nat) (d : DataPay) (v : BitVec 16) : State :=
  let s1 := s.forEach ((dataEntries (s.campXings c) p d).filter fun e => !s.losesIn c v e.1) fun u e =>
    u.modCamp c fun y =>
      if e.1.2.kind = 3 then { y with flight := y.flight ++ [⟨c, e.1.2.dst, 0, e.1.2.arr, e.2.1, e.2.2⟩] }
      else { y with toPort := y.toPort ++ [(epPlace e.1.2.dst - 8, e.1.2.dmod, epLane e.1.2.dst, e.1.2.arr, e.2.1, e.2.2)] }
  s1.sendReady c (s1.camp c).toPort.length

/-- The DATA flits kept for the cycle that now begins (R514), once its vector is here. -/
def State.takeEarly (s : State) (c : Nat) : State :=
  match s.vecNow c with
  | none => s
  | some v =>
    let l := (s.camp c).early
    let now := fun (e : Nat × DataPay) => e.2.cyc == (s.camp c).cycle.toNat % 16
    (s.modCamp c fun x => { x with early := l.filter fun e => !now e }).forEach (l.filter now) fun t e => t.portItems c e.1 e.2 v

/-- The items of a step are consumed at the E-die (R219). -/
def State.arriveXings (s : State) (c d n : Nat) : State :=
  s.modCamp c fun y => { y with items := y.items.filter fun t => !(epPlace t.dst == d && t.arr == n) }

/-- A deep-access entry's fields (R355). -/
structure DeepFields where
  issue : Nat
  due : Nat
  pos : Nat
  write : Bool
  aw : Nat
  aslot : Nat
  dslot : Nat
  page : Nat
  valid : Bool
  deriving DecidableEq, Repr

/-- The fields of a deep-access entry (R355). -/
def deepOf (w : Inst80) : DeepFields :=
  let n := w.toNat
  { issue := bitsOf n 0 12, due := bitsOf n 12 12, pos := bitsOf n 24 3, write := bitsOf n 27 1 == 1, aw := bitsOf n 28 5,
    aslot := bitsOf n 33 10, dslot := bitsOf n 43 10, page := bitsOf n 53 26, valid := bitsOf n 79 1 == 1 }

/-- A contract event of cycle `cyc` is counted and logged (R286, R287, R290): of one cycle's the log keeps the lowest code, then the lowest island, then the lowest step (R291). -/
def State.contractEvent (s : State) (c cyc code island step : Nat) (more : State → State) : State :=
  let x := fun f => s.rd .RUN_CONTRACT_LOG c f
  (s.bump .RUN_CONTRACT_COUNT c .COUNT 1).logIn .RUN_CONTRACT_LOG c [c, cyc] [(.CODE, code), (.ISLAND, island), (.STEP, step)] false
    (decide (code < x .CODE) || (code == x .CODE && (decide (island < x .ISLAND) || (island == x .ISLAND && decide (step < x .STEP)))))
    fun t => more (t.wr .RUN_CONTRACT_CYCLE c .CYCLE cyc)

/-- The number that outgoing slots `a` to `a + w - 1` of a cluster carry; an undriven slot gives 0 (R357). -/
def slotsValue (cl : Cluster) (a w : Nat) : Nat :=
  (List.range w).foldl (fun x i => if (cl.slots.filter fun t => t.1 == a + i).head?.any (fun t => t.2.2) then x + 2 ^ i else x) 0

/-- One deep-access entry issues (R357, R287): an access outside the camp's region is suppressed and logged, a suppressed read delivering zero. -/
def State.issueDeep (s : State) (c p idx n : Nat) (f : DeepFields) : State :=
  let cl := s.cluster (s.clusterAt p f.pos)
  let off := f.page * 4096 + 8 * slotsValue cl f.aslot f.aw
  let cyc := (s.camp c).cycle.toNat
  if (s.camp c).deepPages * 4096 ≤ off then
    let s1 := (s.contractEvent c cyc 2 p n id).campFault c (p / 8)
    if f.write then s1 else s1.modCamp c fun y => { y with reads := y.reads ++ [⟨p, idx, 0, f.due, f.pos, f.dslot, some 0, some 0, [], none⟩] }
  else
    let data := if f.write then some (BitVec.ofNat 40 (slotsValue cl f.dslot 40)) else none
    let i : DeepIssue := ⟨cyc, n, (s.camp c).place.findIdx (fun q => q == p), f.pos, idx, p, (s.camp c).deepBase * 4096 + off, data⟩
    let s1 := s.modCamp c fun y => { y with issues := y.issues ++ [i] }
    if f.write then s1 else s1.modCamp c fun y => { y with reads := y.reads ++ [⟨p, idx, i.addr, f.due, f.pos, f.dslot, none, none, [], none⟩] }

/-- The deep accesses that issue at a step on a die group (R357, R359). -/
def State.issueDeeps (s : State) (c d n : Nat) : State :=
  s.forEach (s.groupPitches c d) fun t p =>
    t.forEach ((tget [] (s.camp c).deepTab p).zipIdx) fun u e =>
      let f := deepOf e.1
      if f.valid && f.issue == n then u.issueDeep c p e.2 n f else u

/-- A scheduled read is delivered at its due step (R358): slots that a router entry drives in the step, or that a lower entry has delivered to, keep their value and the loss is logged (R365). -/
def State.deliverDeep (s : State) (c n : Nat) (drives : List Drive) (before : List DeepRead) (r : DeepRead) : State :=
  let k := s.clusterAt r.pitch r.pos
  let x := r.data.getD 0
  s.forEach (List.range 40) fun t i =>
    let slot := r.slot + i
    let taken := drives.any (fun e => e.k == k && e.entry.out == 0 && e.entry.didx == slot)
      || before.any fun q => q.pitch == r.pitch && q.pos == r.pos && decide (q.slot ≤ slot) && decide (slot < q.slot + 40)
    if taken then t.logConflict c k n 6 slot
    else t.modCluster k fun cl => { cl with recv := cl.recv.put slot (x.getLsbD i), fresh := cl.fresh.put slot true }

/-- The reads due at a step on a die group, lower entries first (R358, R365). -/
def State.deliverDeeps (s : State) (c d n : Nat) (drives : List Drive) : State :=
  let due := (s.camp c).reads.filter fun r => r.due == n && r.pitch / 8 == d
  let s1 := s.forEach (due.zipIdx) fun t e =>
    t.deliverDeep c n drives (due.filter fun q => decide (q.entry < e.1.entry)) e.1
  s1.modCamp c fun y => { y with reads := y.reads.filter fun r => !(r.due == n && r.pitch / 8 == d) }

/-- An endpoint's items stand in a share. -/
def Share.takes (sh : Share) (dst edge : Nat) : Bool := epPlace dst == sh.pitch / 8 && epLane dst / 64 == sh.pitch % 8 && edge == sh.edge

/-- The occupancy of a share (R221): the step positions its items wait for, those of the next design cycle among them. DEDUCED (log 105), unsafe. -/
def State.occupancy (s : State) (c : Nat) (sh : Share) : Nat :=
  let x := s.camp c
  ((x.items.filter fun t => sh.takes t.dst t.edge).map (·.arr)).eraseDups.length
    + (((x.early.flatMap fun e => dataEntries (s.campXings c) e.1 e.2).filter fun e => e.1.2.kind == 3 && sh.takes e.1.2.dst 0).map (·.1.2.arr)).eraseDups.length

/-- The STALL that a share has raised noted, or gone. -/
def State.setHigh (s : State) (c : Nat) (sh : Share) (h : Option Stall) : State :=
  s.modCamp c fun x => { x with shares := x.shares.map fun t => if t.pitch = sh.pitch ∧ t.edge = sh.edge then { t with high := h } else t }

/-- BUFFER_HIGH is raised for a share whose occupancy exceeds SHARE − M (R221). -/
def State.raiseHigh (s : State) (c d edge : Nat) : State :=
  s.forEach ((s.camp c).shares.filter fun sh => sh.pitch / 8 == d && sh.edge == edge) fun t sh =>
    if sh.size - sh.margin < t.occupancy c sh ∧ sh.high.isNone = true then
      let st : Stall := ⟨t.nextId, 0xB, sh.pitch, some ((t.camp c).cycle.toNat, (t.group c d).pos), t.ownAddr⟩
      (t.setHigh c sh (some st)).raiseStall c 0xB sh.pitch st.pos
    else t

/-- BUFFER_HIGH of a share ends when its occupancy has fallen to SHARE − 2M or below (R221). -/
def State.releaseHigh (s : State) (c d frozen : Nat) : State :=
  let low := (s.camp c).shares.filter fun sh => sh.pitch / 8 == d && sh.high.isSome && decide (s.occupancy c sh ≤ sh.size - 2 * sh.margin)
  (low.foldl (fun t sh => t.setHigh c sh none) s).releaseStalls c (low.filterMap (·.high)) frozen

/-- The step itself, once no item is late. -/
def State.doStep (s : State) (c d n : Nat) (obs : StepObs) : State :=
  let ks := s.groupClusters c d
  let s1 := s.forEach (sortUpsets obs.upsets) fun t u => if ks.contains u.cluster then t.fetchUpset c u else t
  let s2 := s1.forEach ks fun t k => t.forEach (obs.votes.filter fun v => v.cluster == k) fun u v => u.voteEvent c v
  let s3 := s2.forEach ks fun t k => t.stepCluster c n obs k
  let rd := s3.routerDrives c d n obs
  let s4 := rd.2.forEach rd.1 fun t e => t.applyDrive c n e
  let s5 := ((s4.departXings c d n rd.1).arriveXings c d n).forEach (s4.xingLosers c d n) fun t e => t.logXing c d n e
  let s6 := (s5.issueDeeps c d n).deliverDeeps c d n rd.1
  let s7 := (((s6.sendReady c (s6.camp c).toPort.length).probeStep c d)).forEach ks fun t k => t.modCluster k fun cl => { cl.endStep with lanes := cl.lanes.filter fun b => decide (n < b.due) }
  let s8 := s7.modGroup c d fun g => { g with ran := g.ran + 1, pos := posAfter (nextStep (s.camp c).segs g.cur (s.schedLen c) (n + 1)) }
  let s9 := if (s.campDies c).head? = some d then s8.chargeSteps c 1 else s8
  (s9.releaseHigh c d obs.frozen).haltIfFrozen c

/-- A die group's STALL for what makes it late, raised unless it stands (R217, R234); a late read is counted (R363). -/
def State.raiseLate (s : State) (c n : Nat) (e : Late) : State :=
  let st : Stall := ⟨s.nextId, e.cause, e.pitch, s.posNow c n, s.ownAddr⟩
  match e.read with
  | none =>
    if (s.camp c).stalls.any fun t => t.module == s.ownAddr && t.cause == e.cause && t.island == e.pitch && t.pos == st.pos then s
    else s.raiseStall c e.cause e.pitch st.pos
  | some r =>
    if r.stall.any fun t => (s.camp c).stalls.contains t then s
    else ((s.bump .DM_LATE (s.chanOf r.addr) .COUNT 1).modCamp c fun x =>
      { x with reads := x.reads.map fun q => if q = r then { q with stall := some st } else q }).raiseStall c e.cause e.pitch st.pos

/-- A frozen die group that is itself late at the position where it stands raises its own STALLs (R234). -/
def State.lateFrozen (s : State) (c d : Nat) : State :=
  let g := s.group c d
  match g.pos with
  | .bnd _ => s
  | .step n =>
    if g.applied then s.forEach (s.lates c d n) fun t e => t.raiseLate c n e
    else if s.decisionHeld c && g.queue.any (fun e => e.1 == (s.camp c).cycle.toNat) then s
    else s.raiseLate c 0 ⟨0xA, s.groupIsland c d, none⟩

/-- SCHEDULE_STEP (R41): a die group of a RUNNING camp that is not frozen begins its cycle where it stands before step 0, and executes the step it stands at unless an item of the step is late, which raises a STALL at that step. DEDUCED (log 96), unsafe. -/
def State.scheduleStep (s : State) (c d : Nat) (obs : StepObs) : State :=
  if s.campState c = 3 ∧ s.rd .RUN_CAMP_STATUS c .RAMPING = 0 ∧ (s.campDies c).contains d = true then
    if s.frozen c d then s.lateFrozen c d
    else
      let s1 := match (s.group c d).pos with
        | .step _ => if (s.group c d).applied then s else (s.beginCycle c d).takeEarly c
        | .bnd _ => s
      match (s1.group c d).pos with
      | .bnd _ => s1
      | .step n =>
        if (s1.group c d).applied = true ∧ s1.frozen c d = false then
          match s1.lates c d n with
          | [] => s1.doStep c d n obs
          | l => s1.forEach l fun t e => t.raiseLate c n e
        else s1
  else s

/-- SCHEDULE_STEP. -/
def execScheduleStep (camp die : Nat) (obs : StepObs) (s : State) : Host.Outcome State Fault Refusal :=
  .next (s.scheduleStep camp die obs)

end Sys2Proof.Machine
end

