-- ==== Sys2Proof/Machine/Snapshot.lean ====
section
/-! DEFINITION. Snapshots: arm, point, copy and layout (R251 to R259, R729), selection and restore (R260, R261). -/

namespace Sys2Proof.Machine

/-- The state of the camp's snapshot (R265): 0 IDLE, 1 ARMED, 2 COPYING, 3 DONE, 4 ABANDONED. -/
def State.snapState (s : State) (c : Nat) : Nat := s.rd .DC_SNAP_STATUS c .STATE

/-- A page of design memory is copied for the snapshot (R256, R257): a read that meets a bus error abandons it. -/
def State.copyPage (s : State) (c p : Nat) : State :=
  if (s.camp c).snap.pages.contains p then
    let w := s.deepFetch 80 (s.rd .RUN_CAMP_STATUS c .KEY_ID) (4096 * p) 4096
    if w.1.isSome then w.2.abandonErr c 8
    else w.2.modCamp c fun x => { x with snap := { x.snap with pages := x.snap.pages.erase p, copied := x.snap.copied ++ [(p, s.deepRead (4096 * p) 4096)] } }
  else s

/-- What a cluster freezes at the point (R87, R253, R254): the latches of its BPs, the word-unit latch, and every line pending. In a PAUSED camp the drains begin at once in their order (R258). -/
def Cluster.freeze (cl : Cluster) (ptr : Nat) (paused : Bool) : Cluster :=
  let c1 := (List.range 64).foldl (fun x i => x.modBp i fun b => { b with latch := b.state, drain := if paused then .queued i else .armed }) cl
  let c2 := { c1 with snapLine := 0, snapBanks := [], snapMem := [], saveBuf := [], snapExch := cl.exch,
                      wuLatch := (List.range 16).map (fun r => cl.wreg r) ++ [BitVec.ofNat 40 ptr], wuLeft := 17 }
  if paused then (List.range 4).foldl (fun x _ => x.startDrain) c2 else c2

/-- The clusters of a camp by logical number (R30). -/
def State.logClusters (s : State) (c : Nat) : List Nat := (List.range (s.camp c).lclusters).map (s.physCluster c)

/-- The settings of tags 1 to 15 as they stand. -/
def State.tagSets (s : State) (c : Nat) : List TagSet :=
  (List.range 15).map fun i =>
    let k := 16 * c + (i + 1)
    ⟨s.rd .DC_TAG k .NUM, s.rd .DC_TAG k .DEN, s.rd .DC_TAG k .EN, s.rd .DC_ACC k .ACC⟩

/-- The generator after the vector of cycle `m` (R253): a setting written since belongs to later vectors (R245). DEDUCED (log 29), safe. DEDUCED (log 100), unsafe. -/
def State.tagsAt (s : State) (c m : Nat) : List TagSet := ((s.camp c).accs.find? fun e => e.1 == m).elim (s.tagSets c) (·.2)

/-- THE SNAPSHOT POINT (R253, R258): at B11 of the cycle in progress, or at once for the boundary at which a PAUSED camp stands. -/
def State.takePoint (s : State) (c : Nat) (paused : Bool) : State :=
  let x := s.camp c
  let count := x.cycle.toNat + bit (!paused)
  let d := (s.campDies c).headD 0
  let g := s.group c d
  let next := (g.queue.find? fun e => e.1 == count).elim 1 (·.2)
  let inc := if paused then x.dtInc else x.dtNext.getD x.dtInc
  let t := if paused then x.dtime else (x.dtime + inc) % 2 ^ 96
  let s1 := (s.wr .DC_SNAP_STATUS c .STATE 2).wr .DC_SNAP_CYCLE c .CYCLE count
  let s2 := s1.modCamp c fun y =>
    { y with snap := { y.snap with count := count, logPos := if s.replays c then y.readPos else y.logPos, vecNext := next, vecCur := g.cur,
                                   tags := s.tagsAt c count, dtime := t, dtInc := inc, dataLost := y.dataLost,
                                   pages := if y.snap.deep then y.design else [], copied := [], reported := [] } }
  s2.forEach (s.logClusters c) fun t k => t.modCluster k fun cl => cl.freeze (s.rd .WU_SR_PTR k .PTR) paused

/-- B11 of the target cycle has passed (R251). -/
def State.pastPoint (s : State) (c target : Nat) : Bool :=
  let cyc := (s.camp c).cycle.toNat
  decide (target < cyc) || (target == cyc && s.campState c == 3 && (s.campDies c).any fun d => decide (4096 + 11 < posCode (s.group c d).pos))

/-- The first reason of R251 for which an arm is refused; 0 for none. -/
def State.armErr (s : State) (c : Nat) (next : Bool) (target : Nat) : Nat :=
  let st := s.campState c
  if s.snapState c = 1 ∨ s.snapState c = 2 then 1
  else if st = 0 ∨ st = 1 ∨ st = 5 then 3
  else if next = false ∧ s.pastPoint c target = true then 2
  else if s.spans c = true ∧ (next = true ∨ target < (s.camp c).cycle.toNat + 2 + s.rd .DC_CTRL c .LEAD) then 2
  else 0

/-- An abort of an armed or copying snapshot (R265). -/
def State.snapAbort (s : State) (c : Nat) : State :=
  if s.snapState c = 1 ∨ s.snapState c = 2 then s.abandon c 7 else s

/-- An accepted arm (R251, R252, R258): DEEP and the region as they stand; on a PAUSED camp with NEXT the point is taken at once, and the home module of a spanning camp carries the arm to the others. DEDUCED (log 28), unsafe. -/
def State.takeArm (s : State) (c target : Nat) (next deep : Bool) : State :=
  let s1 := (s.wrs .DC_SNAP_CTRL c [(.NEXT, bit next), (.DEEP, bit deep)]).wrs .DC_SNAP_STATUS c [(.STATE, 1), (.ERR, 0), (.SAVE_PEAK, 0)]
  let s2 := s1.modCamp c fun x =>
    { x with snap := { Snap.reset with deep := deep, base := s.rd .DC_SNAP_BASE c .BASE, target := if next then none else some target } }
  let s3 := if s.spans c && s.isHome c then s2.forEach (s.camp c).peers fun t p => t.originate p 4 (.mgmt (.snapArm (s.camp c).tag target deep)) else s2
  if next = true ∧ s.campState c = 4 then s3.takePoint c true else s3

/-- An arm (R251): refused with ERR, or accepted. -/
def State.snapArm (s : State) (c : Nat) (next deep : Bool) : State :=
  let target := s.rd .DC_SNAP_TARGET c .CYCLE
  let e := s.armErr c next target
  if e ≠ 0 then s.wr .DC_SNAP_STATUS c .ERR e else s.takeArm c target next deep

/-- An arm that the home module has carried here (R252): the module takes its part unless a snapshot is under way, the camp cannot give one, or the point has passed; ERR of the refusal, or 0. -/
def State.partErr (s : State) (c target : Nat) : Nat :=
  let st := s.campState c
  if s.snapState c = 1 ∨ s.snapState c = 2 then 1
  else if st = 0 ∨ st = 1 ∨ st = 5 then 3
  else if s.pastPoint c target then 2 else 0

/-- SNAP_ARM (R251, R265): ARM written, with ABORT as well where it is set. -/
def execSnapArm (camp : Nat) (next deep abort : Bool) (s : State) : Host.Outcome State Fault Refusal :=
  s.asWrite .DC_SNAP_CTRL camp fun s =>
  .next ((if abort then s.snapAbort camp else s).snapArm camp next deep)

/-- SNAP_ABORT (R265). -/
def execSnapAbort (camp : Nat) (next deep : Bool) (s : State) : Host.Outcome State Fault Refusal :=
  s.asWrite .DC_SNAP_CTRL camp fun s =>
  .next ((s.wrs .DC_SNAP_CTRL camp [(.NEXT, bit next), (.DEEP, bit deep)]).snapAbort camp)

/-- The bytes of a 1,024-bit store. -/
def storeBytes (b : Bits1024) : List Byte := leBytes b.toNat 128

/-- The record area of a cluster (R729). -/
def recordSlots (q : List BoundaryRec) : List Nat :=
  (List.range 494).map fun i =>
    (List.range 3).foldl (fun n j => match q[3 * i + j]? with
      | some r => n + 2 ^ (17 * j) * (r.addr + 2 ^ 10 * r.bp + 2 ^ 16 * bit r.val)
      | none => n) 0

/-- A logical cluster in a snapshot (R259): state stores, word registers with pointer and boundary records, cluster memory, poison bitmap. -/
def Cluster.image (cl : Cluster) : List Byte :=
  (List.range 64).flatMap (fun i => storeBytes (cl.bp i).latch)
    ++ ((cl.wuLatch.map (·.toNat)) ++ [cl.snapExch.length] ++ recordSlots cl.snapExch).flatMap (fun n => leBytes n 8)
    ++ (List.range 65536).flatMap (fun a => leBytes (mread MemWord.clear cl.snapMem a).data.toNat 5)
    ++ (List.range 8192).map fun i => BitVec.ofNat 8 ((List.range 8).foldl (fun n j =>
        if (mread MemWord.clear cl.snapMem (8 * i + j)).syn = 0 then n else n + 2 ^ j) 0)

/-- Bytes of a logical cluster in a snapshot. -/
def clusterSize : Nat := 348160

/-- The header of a snapshot (R259); COMPLETE is written last. -/
def State.snapHeader (s : State) (c : Nat) (complete : Bool) : List Byte :=
  let x := s.camp c
  let n := x.snap
  leBytes 0x51534E50 4 ++ leBytes 1 4 ++ leBytes x.digest 8 ++ leBytes x.lclusters 4 ++ leBytes (bit n.deep + 2 * bit n.dataLost) 4
    ++ leBytes n.count 8 ++ leBytes n.logPos 8 ++ leBytes (n.vecNext.toNat + 65536 * n.vecCur.toNat) 4 ++ leBytes 0 4
    ++ n.tags.flatMap (fun t => leBytes (t.num + 2 ^ 16 * t.den + 2 ^ 32 * t.en + 2 ^ 48 * t.acc) 8)
    ++ leBytes n.dtime 12 ++ leBytes n.dtInc 8 ++ List.replicate 3900 0 ++ leBytes (bit complete) 8

/-- A copied page of a snapshot. -/
def Snap.page (n : Snap) (p : Nat) : List Byte := (n.copied.find? fun e => e.1 == p).elim [] (·.2)

/-- Every part of the snapshot here has left its latches and buffers (R257): only what is still pending in memory has to be copied out. -/
def State.snapDrained (s : State) (c : Nat) : Bool :=
  (s.camp c).snap.pages.isEmpty && (s.logClusters c).all fun k =>
    let cl := s.cluster k
    cl.snapLine == 8192 && cl.wuLeft == 0 && (List.range 64).all fun i => (cl.bp i).drain == .idle

/-- Parts written to deep memory one after the other; the first bus error ends it (R257). -/
def State.writeParts (s : State) (key : Nat) : List (Nat × List Byte) → Option Nat × State
  | [] => (none, s)
  | (a, b) :: l =>
    let w := s.deepWrite 80 key a b
    if w.1.isSome then w else w.2.writeParts key l

/-- The parts of a snapshot with their addresses, COMPLETE last (R257, R259). -/
def State.snapParts (s : State) (c : Nat) : List (Nat × List Byte) :=
  let x := s.camp c
  let base := 4096 * x.snap.base
  let pages := base + 4096 + clusterSize * x.lclusters
  [(base, s.snapHeader c false)]
    ++ (s.logClusters c).zipIdx.map (fun e => (base + 4096 + clusterSize * e.2, (s.cluster e.1).image))
    ++ (if x.snap.deep then x.design.zipIdx.map fun e => (pages + 4096 * e.2, x.snap.page e.1) else [])
    ++ [(base + 0xFF8, leBytes 1 8)]

/-- The home module of a spanning camp reports DONE once every module has (R252). -/
def State.snapClose (s : State) (c : Nat) : State :=
  let all := (s.ownAddr :: (s.camp c).peers).all fun m => (s.camp c).snap.reported.contains m
  if s.spans c = false then (s.wr .DC_SNAP_STATUS c .STATE 3).campIrq c .snap
  else if s.isHome c then (if all then (s.wr .DC_SNAP_STATUS c .STATE 3).campIrq c .snap else s)
  else ((s.wr .DC_SNAP_STATUS c .STATE 3).campIrq c .snap).originate (s.homeAddr c) 4 (.mgmt (.snapReport (s.camp c).tag 0))

/-- In a PAUSED or HALTED camp the word-unit latch drains without steps (R103, R253, R258). -/
def State.drainWords (s : State) (c : Nat) : State :=
  if s.campState c = 4 ∨ s.campState c = 5 then s.forEach (s.logClusters c) fun t k => t.modCluster k fun cl => { cl with wuLeft := 0 } else s

/-- The marking of pages at B11 follows every write issued in the cycle (R360): none of those still waits. -/
def State.pagesReady (s : State) (c : Nat) : Bool :=
  (s.camp c).issues.all fun i => i.data.isNone || decide ((s.camp c).snap.count ≤ i.cycle)

/-- SNAPSHOT_DONE (R257, R252): pending pages are copied in ascending order, and the snapshot is written with COMPLETE last. -/
def execSnapshotDone (camp : Nat) (s : State) : Host.Outcome State Fault Refusal :=
  let s0 := if s.snapState camp = 2 ∧ s.pagesReady camp = true then (s.camp camp).snap.pages.foldl (fun t p => t.copyPage camp p) (s.drainWords camp) else s
  if s0.snapState camp = 2 ∧ s0.snapDrained camp = true then
    let w := s0.writeParts (s.rd .RUN_CAMP_STATUS camp .KEY_ID) (s0.snapParts camp)
    match w.1 with
    | some _ => .next (w.2.abandonErr camp 6)
    | none => .next ((w.2.modCamp camp fun x => { x with snap := { x.snap with reported := s.ownAddr :: x.snap.reported } }).snapClose camp)
  else .next s0

/-- SNAPSHOT_BUS_ERROR (R257, R270). -/
def execSnapshotBusError (camp : Nat) (onRead : Bool) (s : State) : Host.Outcome State Fault Refusal :=
  .next (s.abandonErr camp (if onRead then 8 else 6))

/-- DC_SNAP_SEL_WRITE (R260): the check begins. -/
def execDcSnapSelWrite (camp page : Nat) (s : State) : Host.Outcome State Fault Refusal :=
  s.asWrite .DC_SNAP_SEL camp fun s =>
  .next (s.wrs .DC_SNAP_SEL camp [(.BASE, page), (.VALID, 0), (.SEL_ERR, 0)])

/-- The first check of R260 that a header which could be read fails; 0 for none. -/
def State.selErr (s : State) (c base : Nat) : Nat :=
  let num := fun o n => leNat (s.deepRead (base + o) n)
  if num 0 4 ≠ 0x51534E50 ∨ num 4 4 ≠ 1 then 2
  else if num 0xFF8 8 ≠ 1 then 3
  else if num 8 8 ≠ (s.camp c).digest then 4
  else if num 0x10 4 ≠ (s.camp c).lclusters then 5
  else 0

/-- SNAP_SEL_CHECK_DONE (R260). -/
def execSnapSelCheckDone (camp : Nat) (busErr : Bool) (s : State) : Host.Outcome State Fault Refusal :=
  let base := 4096 * s.rd .DC_SNAP_SEL camp .BASE
  let w := if busErr then (some 0, s) else s.deepFetch 80 (s.rd .RUN_CAMP_STATUS camp .KEY_ID) base 4096
  let e := if w.1.isSome then 1 else w.2.selErr camp base
  .next (w.2.wrs .DC_SNAP_SEL camp [(.VALID, bit (e == 0)), (.SEL_ERR, e)])

/-- The boundary records that a snapshot holds of a cluster at an address (R729). -/
def State.readRecords (s : State) (a : Nat) : List BoundaryRec :=
  (List.range (leNat (s.deepRead (a + 136) 2))).map fun r =>
    let v := leNat (s.deepRead (a + 8 * (18 + r / 3)) 8) / 2 ^ (17 * (r % 3))
    ⟨v % 1024, v / 1024 % 64, v.testBit 16⟩

/-- A cluster as a snapshot gives it back (R261). -/
def State.restoredCluster (s : State) (a : Nat) (cl : Cluster) : Cluster :=
  let recs := s.readRecords (a + 8192)
  let c1 := (List.range 64).foldl (fun x i => x.modBp i fun b =>
    { b with state := BitVec.ofNat 1024 (leNat (s.deepRead (a + 128 * i) 128)), bits := 0, shadow := 0, marks := 0, line := none, drive := none }) cl
  let c2 := recs.foldl (fun x r => x.modBp r.bp fun b => { b with bits := b.bits.put r.addr r.val }) c1
  { c2 with
      w := (List.range 16).map fun r => (r, BitVec.ofNat 40 (leNat (s.deepRead (a + 8192 + 8 * r) 8)))
      mem := (List.range 65536).foldl (fun m i => mwrite MemWord.clear m i
        ⟨BitVec.ofNat 40 (leNat (s.deepRead (a + 12288 + 5 * i) 5)),
          if (s.deep.byte (a + 339968 + i / 8)).getLsbD (i % 8) then 0x03 else 0⟩) []
      exch := recs, mul := [], lanes := [], slots := [], done := [], wrote := [], ticked := none, recv := 0, fresh := 0 }

/-- A logical cluster written back, its shift-register pointer with it. -/
def State.restoreCluster (s : State) (c base l : Nat) : State :=
  let k := s.physCluster c l
  let a := base + 4096 + clusterSize * l
  (s.modCluster k (s.restoredCluster a)).wr .WU_SR_PTR k .PTR (leNat (s.deepRead (a + 8192 + 128) 2))

/-- The parts of a restore (R261): the logical clusters, then the deep pages where the snapshot holds them. -/
def State.restoreParts (s : State) (c base : Nat) : Nat :=
  (s.camp c).lclusters + (if (s.deep.byte (base + 0x14)).getLsbD 0 then (s.camp c).design.length else 0)

/-- One part read from the snapshot and written back (R261): the cause of a bus error it met, or none. -/
def State.restoreStep (s : State) (c base i : Nat) : Option Nat × State :=
  let key := s.rd .RUN_CAMP_STATUS c .KEY_ID
  let n := (s.camp c).lclusters
  if i < n then
    let w := s.deepFetch 80 key (base + 4096 + clusterSize * i) clusterSize
    if w.1.isSome then w else (none, w.2.restoreCluster c base i)
  else
    let a := base + 4096 + clusterSize * n + 4096 * (i - n)
    let w := s.deepFetch 80 key a 4096
    if w.1.isSome then w else w.2.deepWrite 80 key (4096 * (s.camp c).design.getD (i - n) 0) (s.deepRead a 4096)

/-- The first `n` parts in order; a bus error stops the restore there (R261). -/
def State.restoreRun (s : State) (c base n : Nat) : Option Nat × State :=
  (List.range n).foldl (fun a i => if a.1.isSome then a else a.2.restoreStep c base i) (none, s)

/-- The generator's settings of a tag written back (R261). -/
def State.restoreTag (s : State) (c base k : Nat) : State :=
  let v := leNat (s.deepRead (base + 0x30 + 8 * (k - 1)) 8)
  (s.wrs .DC_TAG (16 * c + k) [(.NUM, v), (.DEN, v / 2 ^ 16), (.EN, v / 2 ^ 32)]).wr .DC_ACC (16 * c + k) .ACC (v / 2 ^ 48)

/-- One step of the generator for a tag (R239): the edge and the accumulator after it. -/
def tagStep (num den acc : Nat) (en : Bool) : Bool × Nat :=
  let sum := acc + num
  if en then (if den ≤ sum then (true, sum - den) else (false, sum)) else (false, acc)

/-- The generator's next vector (R239, R241), the accumulators moved on. -/
def State.nextVector (s : State) (c : Nat) : BitVec 16 × State :=
  (List.range 15).foldl (fun a i =>
    let k := 16 * c + (i + 1)
    let r := tagStep (s.rd .DC_TAG k .NUM) (s.rd .DC_TAG k .DEN) (s.rd .DC_ACC k .ACC) (s.rd .DC_TAG k .EN == 1)
    (if r.1 then a.1 ||| (1#16 <<< (i + 1)) else a.1, a.2.wr .DC_ACC k .ACC r.2)) (1#16, s)

/-- A CLOCK entry of the replay log takes effect before the vector of its cycle (R245, R457). -/
def State.applyClock (s : State) (c : Nat) (e : LogEntry) : State :=
  s.forEach e.payload.zipIdx fun t v =>
    let k := 16 * c + (v.2 + 1)
    (t.wrs .DC_TAG k [(.NUM, v.1), (.DEN, v.1 / 2 ^ 16), (.EN, v.1 / 2 ^ 32)]).wr .DC_ACC k .ACC (v.1 / 2 ^ 48)

/-- In a replay the CLOCK entries of a cycle, those met and those still ahead in the log (R457). -/
def State.clocksFor (s : State) (c m : Nat) : List LogEntry :=
  if s.replays c then
    ((s.camp c).clocks ++ (s.logBatch c m (s.logFuel c) (s.camp c).readPos).1).filter fun e => e.type == 5 && e.cycle == m
  else []

/-- The vector of a cycle is computed (R239, R242) and remembered with the settings after it. -/
def State.makeVector (s : State) (c m : Nat) : BitVec 16 × State :=
  let s1 := (s.clocksFor c m).foldl (fun t e => t.applyClock c e) s
  let r := s1.nextVector c
  (r.1, r.2.modCamp c fun x =>
    { x with accs := x.accs ++ [(m, r.2.tagSets c)], clocks := x.clocks.filter fun e => e.cycle != m })

/-- A vector reaches the queues of the die groups here (R242). -/
def State.queueVector (s : State) (c m : Nat) (v : BitVec 16) : State :=
  s.forEach (s.campDies c) fun t d => t.modGroup c d fun g =>
    if g.queue.any (fun e => e.1 == m) then g else { g with queue := g.queue ++ [(m, v)] }

/-- The vectors of cycles `from` to `from + n − 1` computed on the home module and queued. DEDUCED (log 27), unsafe. -/
def State.makeVectors (s : State) (c first : Nat) : Nat → State
  | 0 => s
  | n + 1 =>
    let r := s.makeVector c first
    (r.2.queueVector c first r.1).makeVectors c (first + 1) n

/-- The restore's end (R261, R68, R74, R168): generator, design time and cycle count as the selected snapshot holds them. The vectors of the first LEAD cycles after the recorded one are computed ahead (R242). -/
def State.restoreEnd (s : State) (c base : Nat) : State :=
  let num := fun o n => leNat (s.deepRead (base + o) n)
  let n := num 0x18 8
  let s3 := (List.range 15).foldl (fun t i => t.restoreTag c base (i + 1)) s
  let vn := BitVec.ofNat 16 (num 0x28 2)
  let vc := BitVec.ofNat 16 (num 0x2A 2)
  let s4 := s3.modCamp c fun x =>
    { x with cycle := BitVec.ofNat 64 n, began := n, dtime := num 0xA8 12, dtInc := num 0xB4 8, dtNew := none, dtNext := none, readPos := num 0x20 8, clocks := [],
             accs := [(n, s3.tagSets c)],
             groups := x.groups.map fun e => (e.1, { e.2 with pos := .step 0, applied := false, cur := vc, queue := [(n, vn)], held := [], fault := false, ran := 0 }) }
  s4.makeVectors c (n + 1) (s.rd .DC_CTRL c .LEAD)

/-- THE RESTORE (R261): the header is read, then each part is read and written back, in order; a bus error stops it, with what it has written. DEDUCED (log 99), unsafe. -/
def State.restore (s : State) (c : Nat) : Option Nat × State :=
  let base := 4096 * s.rd .DC_SNAP_SEL c .BASE
  let h := s.deepFetch 80 (s.rd .RUN_CAMP_STATUS c .KEY_ID) base 4096
  if h.1.isSome then h
  else
    let w := h.2.restoreRun c base (h.2.restoreParts c base)
    if w.1.isSome then w else (none, w.2.restoreEnd c base)

/-- A restore that a bus error cuts off has written its first `written` parts (R261). -/
def State.restorePart (s : State) (c written : Nat) : State :=
  let base := 4096 * s.rd .DC_SNAP_SEL c .BASE
  (s.restoreRun c base (min written (s.restoreParts c base))).2

/-- The bits of a design-clock tag that R240 calls valid. -/
def tagValid (num den acc : Nat) (en : Bool) : Bool :=
  !en || (decide (1 ≤ num) && decide (num ≤ den) && decide (den ≤ 65535) && decide (acc < den))

/-- A write of a tag register that R244 ignores. -/
def State.dcErr (s : State) (c : Nat) : State := s.wr .DC_CTRL c .WR_ERR 1

/-- Tag writes are accepted: LOADED or PAUSED (R244). DEDUCED (log 30), unsafe. -/
def State.clockOpen (s : State) (c : Nat) : Bool := s.campState c == 2 || s.campState c == 4

/-- A tag write is not taken in the camp's state (R244), whichever module is its home: UNLOADED and LOADING have none yet. -/
def State.clockShut (s : State) (c : Nat) : Bool := s.campState c == 0 || s.campState c == 1

/-- An accepted tag setting waits for its CLOCK record (R245), which holds it as it was set. -/
def State.clockSet (s : State) (c : Nat) : State := s.modCamp c fun x => { x with clockNew := some (s.tagSlots c) }

/-- DC_TAG_WRITE (R240, R244, R245, R265). -/
def execDcTagWrite (camp k num den : Nat) (en : Bool) (s : State) : Host.Outcome State Fault Refusal :=
  s.asWrite .DC_TAG (16 * camp + k) fun s =>
  if s.clockShut camp then .next (s.dcErr camp)
  else if s.isHome camp = false then .next s
  else if s.clockOpen camp = true ∧ tagValid num den (s.rd .DC_ACC (16 * camp + k) .ACC) en = true then
    .next ((s.wrs .DC_TAG (16 * camp + k) [(.NUM, num), (.DEN, den), (.EN, bit en)]).clockSet camp)
  else .next (s.dcErr camp)

/-- DC_ACC_WRITE (R240, R244, R245, R265). -/
def execDcAccWrite (camp k acc : Nat) (s : State) : Host.Outcome State Fault Refusal :=
  s.asWrite .DC_ACC (16 * camp + k) fun s =>
  let i := 16 * camp + k
  if s.clockShut camp then .next (s.dcErr camp)
  else if s.isHome camp = false then .next s
  else if s.clockOpen camp = true ∧ tagValid (s.rd .DC_TAG i .NUM) (s.rd .DC_TAG i .DEN) acc (s.rd .DC_TAG i .EN == 1) = true then
    .next ((s.wr .DC_ACC i .ACC acc).clockSet camp)
  else .next (s.dcErr camp)

end Sys2Proof.Machine
end

