-- ==== Sys2Proof/Machine/DeepUnit.lean ====
section
/-! DEFINITION. The DDR5 controllers' commands (R340 to R352, R362) and the service of deep-memory requests (R336, R357 to R360, R386, R390). -/

namespace Sys2Proof.Machine

/-- State code of a channel (R341). -/
def State.dmState (s : State) (ch : Nat) : Nat := s.rd .DM_STATUS ch .STATE

/-- A command or write of the DRAM chapter is ignored (R363). -/
def State.dmErr (s : State) (ch : Nat) : State := s.wr .DM_STATUS ch .CMD_ERR 1

/-- An operation of the channel is under way. -/
def State.dmBusy (s : State) (ch : Nat) : Bool :=
  s.deep.initing.contains ch || s.deep.repairing.contains ch || s.deep.quiescing.contains ch

/-- TRAIN_HOST as written along with a command: it changes only in UNTRAINED and QUIESCED (R344); another change is ignored and sets CMD_ERR. -/
def State.trainHost (s : State) (ch : Nat) (host : Bool) : State :=
  if s.rd .DM_CTRL ch .TRAIN_HOST = bit host then s
  else if s.dmState ch = 1 ∨ s.dmState ch = 2 then s.wr .DM_CTRL ch .TRAIN_HOST (bit host)
  else s.dmErr ch

/-- The addresses of a row of a bank (R338): those whose row and bank are these. -/
def State.rowLines (s : State) (b : BankId) (row : Nat) : List Nat :=
  (List.range 32768).filterMap fun i =>
    let a := row * 2 ^ 21 + 64 * i
    if s.bankOf a == b then some a else none

/-- The contents of a row that is repaired, or that loses its repair, are undefined, and a protected line in it fails its MAC (R362, R677). -/
def State.loseRow (s : State) (b : BankId) (row : Nat) : State :=
  s.forEach (s.rowLines b row) fun t a =>
    let u := t.sealBytes a (a + 64)
    if t.pageOwner (a / 4096) = 0 then u else u.modDeep fun d => { d with badLines := tset d.badLines (a / 64) 1 }

/-- INIT begins (R342, R362): the devices are reset, which loses their soft repairs and mode registers, the delays applied, refresh and the row tables start afresh. DEDUCED (log 78), safe. -/
def State.startInit (s : State) (ch : Nat) : State :=
  (s.forEach (s.deep.soft.filter fun e => e.1.chan == ch) fun t e => t.loseRow e.1 e.2).modDeep fun d =>
    { d with soft := d.soft.filter (fun e => e.1.chan != ch), modeRegs := d.modeRegs.filter (fun e => e.1.1 != ch),
             initing := ch :: d.initing, applied := d.train.filter (fun e => e.1.chan == ch) ++ d.applied.filter (fun e => e.1.chan != ch),
             refreshing := d.refreshing.filter (fun r => r.chan != ch), rows := d.rows.filter (fun e => e.1.chan != ch),
             throttled := d.throttled.filter (fun e => e.bank.chan != ch), openRows := d.openRows.filter (fun e => e.1.chan != ch),
             rfm := d.rfm.filter (fun e => e.1.chan != ch),
             pulled := tdel d.pulled ch }

/-- DM_INIT (R341, R342). -/
def execDmInit (chan : Nat) (host : Bool) (s : State) : Host.Outcome State Fault Refusal :=
  s.asWrite .DM_CTRL chan fun s =>
  let s1 := s.trainHost chan host
  let st := s1.dmState chan
  if (st = 1 ∨ st = 2 ∨ st = 4) ∧ s1.dmBusy chan = false then .next ((s1.startInit chan).wr .DM_STATUS chan .OUTSTANDING 0)
  else .next (s1.dmErr chan)

/-- DM_INIT_DONE (R341, R342): QUIESCED, or FAILED with an unresponsive device. -/
def execDmInitDone (chan : Nat) (ok : Bool) (s : State) : Host.Outcome State Fault Refusal :=
  if s.deep.initing.contains chan then
    .next ((s.modDeep fun d => { d with initing := d.initing.erase chan }).wr .DM_STATUS chan .STATE (if ok then 2 else 4))
  else .next s

/-- DM_ACTIVATE (R341, R342): refused while DM_BOUND.NS is 0. -/
def execDmActivate (chan : Nat) (host : Bool) (s : State) : Host.Outcome State Fault Refusal :=
  s.asWrite .DM_CTRL chan fun s =>
  let s1 := s.trainHost chan host
  if s1.dmState chan = 2 ∧ s1.dmBusy chan = false ∧ s1.rd .DM_BOUND chan .NS ≠ 0 then .next (s1.wr .DM_STATUS chan .STATE 3)
  else .next (s1.dmErr chan)

/-- A camp with a deep region is RUNNING (R343). -/
def State.deepRunning (s : State) : Bool := s.regionCamps.any fun c => s.campState c == 3

/-- DM_QUIESCE (R341, R343). -/
def execDmQuiesce (chan : Nat) (host : Bool) (s : State) : Host.Outcome State Fault Refusal :=
  s.asWrite .DM_CTRL chan fun s =>
  let s1 := s.trainHost chan host
  if s1.dmState chan = 3 ∧ s1.dmBusy chan = false ∧ s1.deepRunning = false then
    .next (s1.modDeep fun d => { d with quiescing := chan :: d.quiescing })
  else .next (s1.dmErr chan)

/-- A channel holds no request any more (R343): neither one that waits nor a scheduled access. -/
def State.chanEmpty (s : State) (chan : Nat) : Bool :=
  s.deep.held.all (fun h => (reqLines h.req).all fun a => s.chanOf a != chan)
    && (List.range 64).all fun c => (s.camp c).issues.all fun i => s.chanOf i.addr != chan

/-- QUIESCE_DONE (R343): once no request the channel holds is left. -/
def execQuiesceDone (chan : Nat) (s : State) : Host.Outcome State Fault Refusal :=
  if s.deep.quiescing.contains chan ∧ s.chanEmpty chan = true then
    .next ((s.modDeep fun d => { d with quiescing := d.quiescing.erase chan }).wr .DM_STATUS chan .STATE 2)
  else .next s

/-- DM_PPR (R341, R362): the row of DM_PPR is repaired. -/
def execDmPpr (chan : Nat) (host : Bool) (s : State) : Host.Outcome State Fault Refusal :=
  s.asWrite .DM_CTRL chan fun s =>
  let s1 := s.trainHost chan host
  if s1.dmState chan = 2 ∧ s1.dmBusy chan = false then
    .next (s1.modDeep fun d => { d with repairing := chan :: d.repairing })
  else .next (s1.dmErr chan)

/-- PPR_DONE (R362, R677): the row is repaired, softly with SOFT = 1; a device that reports failure sets PPR_FAIL and moves the channel to FAILED. -/
def execPprDone (chan : Nat) (ok : Bool) (s : State) : Host.Outcome State Fault Refusal :=
  if s.deep.repairing.contains chan then
    let s1 := s.modDeep fun d => { d with repairing := d.repairing.erase chan }
    let b : BankId := ⟨chan, s.rd .DM_PPR chan .SUB, s.rd .DM_PPR chan .BANK⟩
    let row := s.rd .DM_PPR chan .ROW
    if ok then
      .next ((s1.modDeep fun d => { d with soft := if s.rd .DM_PPR chan .SOFT = 1 then (b, row) :: d.soft else d.soft }).loseRow b row)
    else .next ((s1.wr .DM_STATUS chan .PPR_FAIL 1).wr .DM_STATUS chan .STATE 4)
  else .next s

/-- A training operation is issued (R344, R345): only with TRAIN_HOST = 1, in UNTRAINED or QUIESCED, with none in progress. -/
def State.trainOp (s : State) (ch op sub mr data : Nat) (fw : Bool) : State :=
  if (s.rd .DM_CTRL ch .TRAIN_HOST = 1 ∨ fw = true) ∧ (s.dmState ch = 1 ∨ s.dmState ch = 2) ∧ s.rd .DM_TRAIN_CMD ch .BUSY = 0 then
    (s.modDeep fun d => { d with trainOp := tset d.trainOp ch op }).wrs .DM_TRAIN_CMD ch
      [(.SUB, sub), (.MR, mr), (.DATA, data), (.BUSY, 1)]
  else s.dmErr ch

/-- MRW (R345). -/
def execMrw (chan sub mr data : Nat) (s : State) : Host.Outcome State Fault Refusal :=
  s.asWrite .DM_TRAIN_CMD chan fun s => .next (s.trainOp chan 1 sub mr data false)

/-- MRR (R345). -/
def execMrr (chan sub mr data : Nat) (s : State) : Host.Outcome State Fault Refusal :=
  s.asWrite .DM_TRAIN_CMD chan fun s => .next (s.trainOp chan 2 sub mr data false)

/-- MPC (R345). -/
def execMpc (chan sub mr data : Nat) (s : State) : Host.Outcome State Fault Refusal :=
  s.asWrite .DM_TRAIN_CMD chan fun s => .next (s.trainOp chan 3 sub mr data false)

/-- TRAIN_OP_DONE (R345, R363): BUSY falls; a mode-register write has taken its value, and a read has its result, the value last written where one was and otherwise what the device answers. -/
def execTrainOpDone (chan data : Nat) (s : State) : Host.Outcome State Fault Refusal :=
  if s.rd .DM_TRAIN_CMD chan .BUSY = 1 then
    let key := (chan, s.rd .DM_TRAIN_CMD chan .SUB, s.rd .DM_TRAIN_CMD chan .MR)
    let s1 := s.wr .DM_TRAIN_CMD chan .BUSY 0
    match tget 0 s.deep.trainOp chan with
    | 1 => .next (s1.modDeep fun d => { d with modeRegs := tset d.modeRegs key (s.rd .DM_TRAIN_CMD chan .DATA) })
    | 2 => .next (s1.wr .DM_TRAIN_CMD chan .DATA (tget data s.deep.modeRegs key))
    | _ => .next s1
  else .next s

/-- A mask includes its own home bit and no other select's (R339). -/
def maskOk (k mask : Nat) : Bool := (List.range 9).all fun j => mask.testBit (6 + j) == (j == k)

/-- DM_MAP_WRITE (R339, R340): a write through channel `chan`'s window. -/
def execDmMapWrite (chan k mask : Nat) (s : State) : Host.Outcome State Fault Refusal :=
  s.asWriteAt (offsetOf .DM_MAP k + 0x2000 * chan) .DM_MAP k fun s =>
  if k < 9 ∧ maskOk k (mask % 2 ^ 32) = false then .next (s.forEach (List.range 8) State.dmErr)
  else if k < 9 ∧ (List.range 8).all (fun c => s.dmState c == 0 || s.dmState c == 1) = true then .next (s.wr .DM_MAP k .MASK mask)
  else .next (s.dmErr chan)

/-- A scheduled access waits for the subchannel (R349). -/
def State.scheduledWaits (s : State) (ch sub : Nat) : Bool :=
  (List.range 64).any fun c => (s.camp c).issues.any fun i => s.chanOf i.addr == ch && (s.bankOf i.addr).sub == sub

/-- A refresh is issued. -/
def State.issueRefresh (s : State) (r : Refresh) : State := s.modDeep fun d => { d with refreshing := r :: d.refreshing }

/-- Refresh runs in QUIESCED and ACTIVE (R341). -/
def State.refreshRuns (s : State) (ch : Nat) : Bool := s.dmState ch == 2 || s.dmState ch == 3

/-- The interval of R348, ns: TREFI, half of it in fine-granularity mode, and half of that while HOT. -/
def State.refreshNs (s : State) (ch : Nat) : Nat := s.rd .DM_REF ch .TREFI / 2 ^ (s.rd .DM_REF ch .FGR + s.rd .DM_STATUS ch .HOT)

/-- The kind of refresh that DM_REF selects (R348): REFsb of the bank whose turn it is, or REFab. -/
def State.refreshKind (s : State) (ch : Nat) (bank : Option Nat) : Option Nat := if s.rd .DM_REF ch .REFSB = 1 then some (bank.getD 0) else none

/-- A refresh of the subchannel, or of the bank, falls due: the interval has passed since the last one fell due (R348). -/
def State.refreshFalls (s : State) (ch sub : Nat) (kind : Option Nat) : Bool :=
  decide (s.refreshNs ch ≤ 2 * (s.ticks - tget 0 s.deep.dueAt (ch, sub, kind)))

/-- REFRESH_DUE (R348, R349): one pulled in earlier stands for it; behind a waiting scheduled access it is postponed up to the limit; otherwise it is issued. DEDUCED (log 92), unsafe. -/
def execRefreshDue (chan sub : Nat) (bank : Option Nat) (s0 : State) : Host.Outcome State Fault Refusal :=
  let kind := s0.refreshKind chan bank
  if s0.refreshRuns chan && s0.refreshFalls chan sub kind then
    let s := s0.modDeep fun d => { d with dueAt := tset d.dueAt (chan, sub, kind) s0.ticks }
    let p := tget 0 s.deep.pulled chan
    let n := s.rd .DM_STATUS chan .OUTSTANDING
    if 0 < p then .next (s.modDeep fun d => { d with pulled := tset d.pulled chan (p - 1) })
    else if s.scheduledWaits chan sub = true ∧ n < min 4 (s.rd .DM_REF chan .POSTPONE) then
      .next (s.wr .DM_STATUS chan .OUTSTANDING (n + 1))
    else .next (s.issueRefresh ⟨chan, sub, kind⟩)
  else .next s0

/-- POSTPONED_REFRESH_ISSUE (R349): with no scheduled access waiting, a postponed refresh is issued, or one is pulled in, up to 4 ahead. -/
def execPostponedRefreshIssue (chan sub : Nat) (bank : Option Nat) (s : State) : Host.Outcome State Fault Refusal :=
  if s.refreshRuns chan = true ∧ s.scheduledWaits chan sub = false then
    let n := s.rd .DM_STATUS chan .OUTSTANDING
    let p := tget 0 s.deep.pulled chan
    let r : Refresh := ⟨chan, sub, s.refreshKind chan bank⟩
    if 0 < n then .next ((s.wr .DM_STATUS chan .OUTSTANDING (n - 1)).issueRefresh r)
    else if p < 4 then .next ((s.modDeep fun d => { d with pulled := tset d.pulled chan (p + 1) }).issueRefresh r)
    else .next s
  else .next s

/-- The BAR2 offset of a host access at a deep address (R691): that of the first aperture that carries it. -/
def State.bar2Off (s : State) (key addr : Nat) : Nat :=
  let ap := (List.range 4).find? fun a =>
    s.rd .HI_BAR2_AP a .EN == 1 && s.rd .HI_BAR2_AP a .KEY_ID == key && s.rd .HI_BAR2_AP a .BASE == addr / 2 ^ 32
  ap.getD 0 * 2 ^ 32 + addr % 2 ^ 32

/-- The outcome of a served request goes to its requester; one of the host that met a bus error is logged (R692). -/
def State.reply (s : State) (r : DeepReq) (v : Served) : State :=
  let s1 := match v.cause with
    | some c => if r.src = 83 then s.idError 4 1 (s.bar2Off r.key r.addr) c else s
    | none => s
  s1.emit (.deepReply r.src v.cause v.bytes)

/-- The requests that no longer wait are served in their order (R336, R337). -/
def State.serveHeld (s : State) : State :=
  s.deep.held.foldl (fun t h =>
    if t.reqWaits h.req h.obs ((t.deep.held.takeWhile fun g => g != h).map (·.req)) then t
    else
      let w := (t.modDeep fun d => { d with held := d.held.erase h }).serve h.req h.obs
      w.2.reply h.req w.1) s

/-- A cycle of the 500 MHz time clock (R554, R555): fabric time advances by TM_RATE. A throttle may end with it (R352), and what waited is served. DESIGN CHOICE (log 2), unsafe. -/
def State.tick (s : State) : State :=
  let s1 := if s.deep.throttled.isEmpty then s else s.noteHolds
  let s2 : State := { s1 with now := (s1.now + s1.rd .TM_RATE 0 .INC) % 2 ^ 96, ticks := s1.ticks + 1 }
  if s2.deep.held.isEmpty then s2 else s2.serveHeld

/-- REFRESH_DONE (R349). -/
def execRefreshDone (chan sub : Nat) (bank : Option Nat) (s : State) : Host.Outcome State Fault Refusal :=
  .next (s.noteHolds.modDeep fun d => { d with refreshing := d.refreshing.erase ⟨chan, sub, bank⟩ }).serveHeld

/-- RH_WINDOW_CLEAR (R351, R352): the channel's tables are cleared; a throttle lasts to the end of the window, or until its RFM completes. -/
def execRhWindowClear (chan : Nat) (s : State) : Host.Outcome State Fault Refusal :=
  .next (s.noteHolds.modDeep fun d =>
    { d with rows := d.rows.filter (fun e => e.1.chan != chan),
             throttled := d.throttled.filter fun e => e.bank.chan != chan || d.rfm.any fun r => r.1 == e.bank && r.2.1 == e.row }).serveHeld

/-- RFM_DONE (R352, R370): the entry's counts are zero and its row's throttle lifts; a refresh of the bank goes first. -/
def execRfmDone (chan sub bank row : Nat) (s : State) : Host.Outcome State Fault Refusal :=
  let b : BankId := ⟨chan, sub, bank⟩
  match s.deep.rfm.find? fun e => e.1 == b && e.2.1 == row with
  | none => .next s
  | some r =>
    if s.refreshHolds b then .next s
    else .next (s.noteHolds.modDeep fun d =>
      { d with rfm := d.rfm.erase r, throttled := d.throttled.filter (fun e => !(e.bank == b && e.row == row)),
               rows := tset d.rows b ((tget [] d.rows b).map fun e => if e.row = row then { e with count := 0, pairs := [] } else e) }).serveHeld

/-- A scheduled access ends with a bus error (R390): a read delivers zero; one with an alarm has already met the camp's halt condition, and one without is a DEEP_BUS event. -/
def State.deepBus (s : State) (c : Nat) (alarmed : Bool) (i : DeepIssue) : State :=
  if !alarmed then (s.contractEvent c i.cycle 3 i.pitch i.step id).faultArrives c (i.pitch / 8) else s

/-- The first access of a camp on a channel is served unless it has to wait (R336, R337, R349, R352, R360, R390), a write to a page that a snapshot still has to copy after that copy (R256); its read data is on its way to the pitch. -/
def State.serveScheduled (s : State) (c ch : Nat) (o : DeepObs) : State :=
  match s.schedReady c ch fun _ _ => o.activates with
  | none => s
  | some i =>
    let r : DeepReq := ⟨c, s.rd .RUN_CAMP_STATUS c .KEY_ID, i.addr, 8, i.data.map fun w => leBytes w.toNat 8, false⟩
    let w := (if i.data.isSome && decide ((s.camp c).snap.count ≤ i.cycle) then s.copyPage c (i.addr / 4096) else s).serve r o
    let s1 := w.2.modCamp c fun x => { x with issues := x.issues.erase i }
    let s2 := match w.1.cause with
      | none => s1
      | some k => s1.deepBus c (alarmClass k != 0 && (k != 5 || s1.deep.frozen != s.deep.frozen)) i
    let v : Word := match w.1.cause with
      | none => BitVec.ofNat 40 (leNat w.1.bytes)
      | some _ => 0
    s2.modCamp c fun x => { x with reads := x.reads.map fun q =>
      if i.data.isNone ∧ q.pitch = i.pitch ∧ q.entry = i.entry ∧ q.fetched.isNone then { q with fetched := some v, causes := q.causes ++ o.held } else q }

/-- DEEP_REQUEST (R336, R337): a scheduled access of a camp, or a request of another source, which waits for its line, for a scheduled access, or for an earlier request of its source. -/
def execDeepRequest (req : DeepReq) (obs : DeepObs) (s : State) : Host.Outcome State Fault Refusal :=
  if req.src < 64 then .next (s.serveScheduled req.src (s.chanOf req.addr) obs).serveHeld
  else
    let w := s.submit req obs
    match w.1 with
    | none => .next w.2
    | some v => .next (w.2.reply req v)

/-- DEEP_READ_DATA_ARRIVE (R358): the data is at the pitch, and the STALL raised for its lateness is released. -/
def execDeepReadDataArrive (camp pitch entry frozen : Nat) (s : State) : Host.Outcome State Fault Refusal :=
  match (s.camp camp).reads.find? fun q => q.pitch == pitch && q.entry == entry && q.fetched.isSome && q.data.isNone with
  | none => .next s
  | some q =>
    let s1 := s.modCamp camp fun x => { x with reads := x.reads.map fun r => if r = q then { r with data := r.fetched, stall := none } else r }
    .next (s1.releaseStalls camp q.stall.toList frozen)

/-- REENCRYPT_DONE (R386): the page's STALLs are released and waiting requests served. -/
def execReencryptDone (page frozen : Nat) (s : State) : Host.Outcome State Fault Refusal :=
  if s.deep.reenc.contains page then .next (s.noteHolds.endReenc page frozen).serveHeld else .next s

end Sys2Proof.Machine
end

