-- ==== Sys2Proof/Machine/TimeUnit.lean ====
section
/-! DEFINITION. Fabric time and design time (R555 to R578): SYNC and the servo, comparators, pulse outputs, increments. -/

namespace Sys2Proof.Machine

/-- The time unit changed. -/
def State.modTime (s : State) (f : TimeUnit → TimeUnit) : State := { s with time := f s.time }

/-- A − B as a signed number of `w` bits (R556, R562). DEDUCED (log 64), unsafe. -/
def sdiff (w a b : Nat) : Int := (BitVec.ofNat w (a + 2 ^ w - b % 2 ^ w)).toInt

/-- The time state (R557): 0 FREE, 1 LOCKING, 2 LOCKED, 3 HOLDOVER, 4 ROOT. -/
def State.tmState (s : State) : Nat := s.rd .TM_STATUS 0 .STATE

/-- Vector 9 rises with a bit of TM_STATUS (R696). DEDUCED (log 81), unsafe. -/
def State.tmFlag (s : State) (f : FName) : State := if s.rd .TM_STATUS 0 f = 1 then s else (s.wr .TM_STATUS 0 f 1).irq 9

/-- L of a port (R512, R558), in units of 2^-32 ns. -/
def State.latency (s : State) (p : Nat) : Nat := s.rd .HN_LAT p .ONEWAY_PS * 2 ^ 32 / 1000

/-- One offer comes before another (R561): fewer hops, then the lower address. -/
def offerBefore (a b : Nat × (Nat × Nat × Nat)) : Bool :=
  decide (a.2.2.1 < b.2.2.1) || (a.2.2.1 == b.2.2.1 && decide (a.2.2.2 < b.2.2.2))

/-- The best offer (R561), among those of a root where one is named. -/
def State.bestOffer (s : State) (root : Option Nat) : Option (Nat × (Nat × Nat × Nat)) :=
  (s.time.offers.filter fun o => root.isNone || root == some o.2.1).foldl (fun b o => match b with
    | none => some o
    | some x => some (if offerBefore o x then o else x)) none

/-- The module follows an offer: PARENT, ROOT and HOPS (R561). -/
def State.follow (s : State) (o : Nat × (Nat × Nat × Nat)) : State :=
  s.wrs .TM_STATUS 0 [(.PARENT, o.1), (.ROOT, o.2.1), (.HOPS, o.2.2.1 + 1)]

/-- A LOCKING or LOCKED module keeps the best parent of its root, or enters HOLDOVER (R561, R564). -/
def State.reparent (s : State) : State :=
  if s.tmState = 1 ∨ s.tmState = 2 then
    match s.bestOffer (some (s.rd .TM_STATUS 0 .ROOT)) with
    | some o => s.follow o
    | none => s.wrs .TM_STATUS 0 [(.STATE, 3), (.PARENT, 7), (.OUT_OF_TOL, 0)]
  else s

/-- A port's offer ends: its neighbour stops offering or its port leaves ACTIVE (R564). -/
def State.offerGone (s : State) (p : Nat) : State :=
  if s.time.offers.any fun o => o.1 == p then
    (s.modTime fun t => { t with offers := tdel t.offers p, sync := tdel t.sync p, refused := t.refused.erase p }).reparent
  else s

/-- A number held within ±m (R562). -/
def clampInt (m x : Int) : Int := if x < -m then -m else if m < x then m else x

/-- MAX of the servo (R562): MAX_PPM of the nominal increment. -/
def State.servoMax (s : State) : Int := (s.rd .TM_SERVO 0 .MAX_PPM * 2 ^ 33 / 1000000 : Nat)

/-- The servo's update of TM_RATE for an offset (R562). -/
def State.servo (s : State) (e : Int) : State :=
  let m := s.servoMax
  let acc := clampInt m (s.time.acc + e >>> s.rd .TM_SERVO 0 .KI)
  let adj := clampInt m (e >>> s.rd .TM_SERVO 0 .KP + acc)
  (s.modTime fun t => { t with acc := acc }).wr .TM_RATE 0 .INC (2 ^ 33 + adj).toNat

/-- An offset is posted (R562, R578): signed, in 1/256 ns. -/
def State.postOffset (s : State) (e : Int) : State :=
  (s.wr .TM_OFFSET 0 .E (BitVec.ofInt 40 (e >>> (24 : Nat))).toNat).bump .TM_SYNC_COUNT 0 .COUNT 1

/-- Locking and tolerance for an offset (R563). -/
def State.lockStep (s : State) (e : Int) : State :=
  let abs := e.natAbs
  if s.tmState = 1 then
    let g := if abs ≤ s.rd .TM_SERVO 0 .LOCK_NS * 2 ^ 32 then s.time.good + 1 else 0
    let s1 := s.modTime fun t => { t with good := g }
    if 16 ≤ g then s1.wr .TM_STATUS 0 .STATE 2 else s1
  else if s.tmState = 2 then
    if s.rd .TM_SERVO 0 .TOL_NS * 2 ^ 32 < abs then s.tmFlag .OUT_OF_TOL else s.wr .TM_STATUS 0 .OUT_OF_TOL 0
  else s

/-- The offset that a SYNC gives a module whose time is already close (R562): the difference of the low 64 bits. -/
def State.syncOffset (s : State) (p ns frac : Nat) : Int :=
  sdiff 64 (ns * 2 ^ 32 + frac * 2 ^ 24 + s.latency p) s.now

/-- The SYNC of an ACTIVE neighbour (R560 to R565): the offers are brought up to date, a LOCKING or LOCKED module corrects on its parent's, and another root is a conflict. -/
def State.sync (s : State) (p : Nat) (offer : Bool) (root hops ns frac : Nat) : State :=
  let s0 := s.modTime fun t => { t with sync := tset t.sync p ⟨offer, root, hops, ns, frac, s.now⟩ }
  if offer = false then s0.offerGone p
  else
    let st := s.tmState
    let other := root != s.rd .TM_STATUS 0 .ROOT
    if (st == 2 || st == 4) && other then ((s0.offerGone p).bump .TM_SYNC_COUNT 0 .COUNT 1).tmFlag .ROOT_CONFLICT
    else
      let s1 := (s0.modTime fun t => { t with offers := tset t.offers p (root, hops, s.rd .FB_NBR p .ADDR) }).reparent
      if (s1.tmState = 1 ∨ s1.tmState = 2) ∧ s1.rd .TM_STATUS 0 .PARENT = p then
        let e := s.syncOffset p ns frac
        let s2 := s1.postOffset e
        let s3 := if s.rd .TM_CTRL 0 .SERVO_HOST = 0 then s2.servo e else s2
        s3.lockStep e
      else s1

/-- SYNC. -/
def execSync (port : Nat) (offer : Bool) (root hops ns frac : Nat) (s : State) : Host.Outcome State Fault Refusal :=
  .next (if s.nbrActive port then s.sync port offer root hops ns frac else s)

/-- The SYNC pair is complete (R558, R564): a FREE module steps to its best offer, and a HOLDOVER module takes a parent again, one of another root only on the first pair of its offer. -/
def State.pair (s : State) (p nsHi : Nat) (w : SyncWait) : State :=
  let t := (nsHi * 2 ^ 32 + w.ns) * 2 ^ 32 + w.frac * 2 ^ 24
  if w.offer = false then s
  else if s.tmState = 0 ∧ (s.bestOffer none).map (·.1) = some p then
    let s1 := { s with now := (t + s.latency p + (s.now + 2 ^ 96 - w.trx)) % 2 ^ 96 }
    ((s1.wr .TM_STATUS 0 .STATE 1).follow (p, w.root, w.hops, 0)).modTime fun x => { x with good := 0 }
  else if s.tmState = 3 then
    let e := sdiff 96 (t + s.latency p) w.trx
    if w.root = s.rd .TM_STATUS 0 .ROOT ∨ (s.time.refused.contains p = false ∧ e.natAbs ≤ s.rd .TM_SERVO 0 .TOL_NS * 2 ^ 32) then
      ((s.wr .TM_STATUS 0 .STATE 1).follow (p, w.root, w.hops, 0)).modTime fun x => { x with good := 0, refused := [] }
    else (s.modTime fun x => { x with refused := if x.refused.contains p then x.refused else p :: x.refused }).tmFlag .ROOT_CONFLICT
  else s

/-- HIGH (R560). -/
def execHigh (port ns : Nat) (s : State) : Host.Outcome State Fault Refusal :=
  match s.time.sync.find? fun e => e.1 == port with
  | none => .next s
  | some (_, w) => .next ((s.modTime fun t => { t with sync := tdel t.sync port }).pair port ns w)

/-- A SYNC or HIGH slot of the present time (R560). -/
def State.timeSlot (s : State) (high : Bool) : Nat :=
  let ns := s.now / 2 ^ 32
  let head := 8 + 2 ^ 4 + 2 ^ 8 * bit high + 2 ^ 9 * bit (s.tmState == 2 || s.tmState == 4)
    + 2 ^ 10 * s.rd .TM_STATUS 0 .ROOT + 2 ^ 17 * s.rd .TM_STATUS 0 .HOPS
  if high then head + 2 ^ 24 * (ns / 2 ^ 32 % 2 ^ 32) else head + 2 ^ 24 * (ns % 2 ^ 32) + 2 ^ 56 * (s.now / 2 ^ 24 % 256)

/-- SYNC_TIMER (R560): a LOCKED or ROOT module sends SYNC and HIGH on each ACTIVE port. -/
def execSyncTimer (s : State) : Host.Outcome State Fault Refusal :=
  if s.tmState = 2 ∨ s.tmState = 4 then
    .next (s.forEach ((List.range 6).filter s.nbrActive) fun t p => (t.sendSlot p (s.timeSlot false)).sendSlot p (s.timeSlot true))
  else .next s

/-- The module becomes the time root (R558). -/
def State.becomeRoot (s : State) : State := s.wrs .TM_STATUS 0 [(.STATE, 4), (.PARENT, 7), (.ROOT, s.ownAddr), (.HOPS, 0)]

/-- AUTO_ROOT_TIMEOUT (R558): the module's address counts only while it is valid (R529). -/
def execAutoRootTimeout (s : State) : Host.Outcome State Fault Refusal :=
  if s.tmState = 0 ∧ s.rd .TM_CTRL 0 .AUTO_ROOT = 1 ∧ s.rd .FB_ID 0 .ADDR_VALID = 1 ∧ s.ownAddr = s.rd .FB_STATUS 0 .ROOT ∧ s.time.offers.isEmpty = true then .next s.becomeRoot
  else .next s

/-- The RW fields of TM_CTRL. -/
def State.tmCtrl (s : State) (f : TmFields) : State := s.wrs .TM_CTRL 0 [(.SERVO_HOST, bit f.servoHost), (.AUTO_ROOT, bit f.autoRoot)]

/-- A command refused outside FREE (R559, R578). -/
def State.tmErr (s : State) : State := s.wr .TM_STATUS 0 .CMD_ERR 1

/-- TM_ROOT (R558, R578). -/
def execTmRoot (f : TmFields) (s : State) : Host.Outcome State Fault Refusal :=
  s.asWrite .TM_CTRL 0 fun s =>
  let s1 := s.tmCtrl f
  .next (if s.tmState = 0 then s1.becomeRoot else s1.tmErr)

/-- TM_RESET (R559, R565): FREE, with no parent. -/
def execTmReset (f : TmFields) (s : State) : Host.Outcome State Fault Refusal :=
  s.asWrite .TM_CTRL 0 fun s =>
  .next (((s.tmCtrl f).wrs .TM_STATUS 0 [(.STATE, 0), (.PARENT, 7), (.ROOT, 0), (.HOPS, 0), (.OUT_OF_TOL, 0)]).modTime
    fun t => { t with good := 0, sync := [], refused := [] })

/-- TM_LOAD (R559, R578). -/
def execTmLoad (f : TmFields) (s : State) : Host.Outcome State Fault Refusal :=
  s.asWrite .TM_CTRL 0 fun s =>
  let s1 := s.tmCtrl f
  .next (if s.tmState = 0 then { s1 with now := s.time.staged % 2 ^ 96 } else s1.tmErr)

/-- TM_RATE_WRITE (R559, R562, R578): clamped within MAX in servo host mode, otherwise ignored with CMD_ERR. -/
def execTmRateWrite (value : Nat) (s : State) : Host.Outcome State Fault Refusal :=
  s.asWrite .TM_RATE 0 fun s =>
  if s.rd .TM_CTRL 0 .SERVO_HOST = 1 then
    let d := clampInt s.servoMax ((value % 2 ^ 36 : Nat) - (2 ^ 33 : Int))
    .next (s.wr .TM_RATE 0 .INC (2 ^ 33 + d).toNat)
  else .next s.tmErr

/-- This module is the home module of the camp, or its only one (R568). -/
def State.dtOpen (s : State) (c : Nat) : Bool :=
  !s.spans c || (s.rd .DC_CTRL c .HOME == 1 && (s.campState c == 2 || s.campState c == 4))

/-- TM_DT_INC_HI_WRITE (R567 to R569): submits the increment, and carries it to the camp's other modules. -/
def execTmDtIncHiWrite (camp hi : Nat) (s : State) : Host.Outcome State Fault Refusal :=
  s.asWrite .TM_DT_INC_HI camp fun s =>
  if s.rd .DC_REPLAY_CTRL camp .REPLAY = 1 ∨ s.dtOpen camp = false then .next (s.wr .TM_DT_CTRL camp .WR_ERR 1)
  else
    let inc := s.rd .TM_DT_INC_LO camp .INC + 2 ^ 40 * (hi % 2 ^ 24)
    let s1 := (s.wr .TM_DT_INC_HI camp .INC hi).modCamp camp fun x => { x with dtNew := some inc }
    if s.spans camp then
      let s2 := (s1.modCamp camp fun x => { x with dtAcks := x.peers }).wr .TM_DT_CTRL camp .BUSY 1
      .next (s2.forEach (s.camp camp).peers fun t p => t.originate p 4 (.mgmt (.dtInc (s.camp camp).tag inc)))
    else .next s1

/-- TARGET of a comparator (R570), in units of 2^-32 ns. -/
def State.cmpTarget (s : State) (k : Nat) : Nat := (s.rd .TM_CMP_T_LO k .NS + 2 ^ 40 * s.rd .TM_CMP_T_HI k .NS) * 2 ^ 32

/-- The source time of a comparator (R570). -/
def State.cmpSource (s : State) (k : Nat) : Nat :=
  if s.rd .TM_CMP_CFG k .DESIGN = 1 then (s.camp (s.rd .TM_CMP_CFG k .CAMP)).dtime else s.now

/-- The comparator fires now (R556, R570, R571). -/
def State.cmpFires (s : State) (k : Nat) : Bool :=
  let c := s.rd .TM_CMP_CFG k .CAMP
  s.rd .TM_CMP_CFG k .EN == 1 && decide (0 ≤ sdiff 96 (s.cmpSource k) (s.cmpTarget k))
    && (s.rd .TM_CMP_CFG k .DESIGN == 0 || decide (2 ≤ s.campState c))

/-- A periodic comparator's next TARGET in nanoseconds (R570): the first that lies after the source time. -/
def State.nextTarget (s : State) (k : Nat) : Nat :=
  let period := s.rd .TM_CMP_PERIOD k .NS
  let past := (sdiff 96 (s.cmpSource k) (s.cmpTarget k)).toNat
  (s.cmpTarget k / 2 ^ 32 + period * (past / (period * 2 ^ 32) + 1)) % 2 ^ 64

/-- A comparator fires (R570, R572, R591). -/
def State.fireCmp (s : State) (k : Nat) : State :=
  let s1 := s.wr .TM_CMP_CFG k .FIRED 1
  let pins := (List.range 4).filter fun q => s.rd .TM_PULSE q .EN == 1 && s.rd .TM_PULSE q .COMP == k
  let s2 := s1.modTime fun t => { t with pulses := (t.pulses.filter fun q => !pins.contains q) ++ pins }
  let s3 := if s.rd .TM_CMP_CFG k .ACQ = 1 then s2.latchEvent (.cmp k) else s2
  let s4 := if s.rd .TM_CMP_CFG k .IRQ = 1 then s3.irq 7 else s3
  if s.rd .TM_CMP_CFG k .MODE = 1 ∧ s.rd .TM_CMP_PERIOD k .NS ≠ 0 then
    let n := s.nextTarget k
    (s4.wr .TM_CMP_T_LO k .NS n).wr .TM_CMP_T_HI k .NS (n / 2 ^ 40)
  else s4.wr .TM_CMP_CFG k .EN 0

/-- COMPARATOR_FIRE. -/
def execComparatorFire (k : Nat) (s : State) : Host.Outcome State Fault Refusal := .next (if s.cmpFires k then s.fireCmp k else s)

/-- PULSE_WIDTH_END (R572). -/
def execPulseWidthEnd (pin : Nat) (s : State) : Host.Outcome State Fault Refusal :=
  .next (s.modTime fun t => { t with pulses := t.pulses.filter fun q => q != pin })

/-- The level of a time-pulse output (R572, R323, R720): low while disabled, during boot, and while its owning camp loads. -/
def State.pulsePin (s : State) (k : Nat) : Bool :=
  s.pinsLive && s.time.pulses.contains k && s.rd .TM_PULSE k .EN == 1 && !(s.rd .TM_PULSE k .OWNER_EN == 1 && s.campState (s.rd .TM_PULSE k .CAMP) == 1)

end Sys2Proof.Machine
end

