-- ==== Sys2Proof/Machine/FabBase.lean ====
section
/-! DEFINITION. Topology records and neighbour states (R531, R535, R538). -/

namespace Sys2Proof.Machine

/-- MODULES and ROOT of FB_STATUS follow the records held (R537, R553). -/
def State.showTopo (s : State) : State :=
  s.wrs .FB_STATUS 0 [(.MODULES, s.fab.topo.length), (.ROOT, match s.fab.topo with | [] => 0 | e :: l => l.foldl (fun m x => min m x.1) e.1)]

/-- A topology change (R538): in host mode it is flagged and signalled. -/
def State.topoChanged (s : State) : State :=
  if s.rd .FB_CTRL 0 .ROUTE_HOST = 1 then (s.wr .FB_STATUS 0 .TOPO_CHANGED 1).irq 3 else s

/-- The record of an address is replaced (R535). -/
def State.putTopo (s : State) (a : Nat) (t : Topo) : State :=
  let same := (s.fab.topo.find? fun e => e.1 == a).any fun e => e.2.serial == t.serial && e.2.ports == t.ports
  let s1 := (s.modFab fun f => { f with topo := tset f.topo a t }).showTopo
  if same then s1 else s1.topoChanged

/-- The record of an address is dropped (R535). -/
def State.dropTopo (s : State) (a : Nat) : State :=
  if s.fab.topo.any fun e => e.1 == a then ((s.modFab fun f => { f with topo := tdel f.topo a }).showTopo).topoChanged else s

/-- What this module says of its ports (R535). -/
def State.ownPorts (s : State) : List (Option TopoPort) :=
  (List.range 6).map fun p => if s.nbrActive p then some ⟨s.rd .FB_NBR p .ADDR, s.rd .FB_NBR p .PORT, s.rd .HN_LAT p .ONEWAY_PS⟩ else none

/-- A module with a valid address floods a TOPO packet (R535). -/
def State.flood (s : State) : State :=
  if s.rd .FB_ID 0 .ADDR_VALID = 1 then
    let t : Topo := ⟨(s.fab.version + 1) % 2 ^ 32, s.rd .LD_SERIAL 0 .SERIAL, s.ownPorts⟩
    let s1 := (s.modFab fun f => { f with version := t.version }).putTopo s.ownAddr t
    s1.forEach ((List.range 6).filter s1.nbrActive) fun u p => u.sendFlit p ⟨1, 0, .packet ⟨255, s.ownAddr, 3, 255, 0, true, .topo t⟩⟩
  else s

/-- A neighbour's state becomes `st` (R531): a change is flooded, entry into CONFLICT is flagged, and an ACTIVE neighbour that is gone offers no time (R564). -/
def State.setNbr (s : State) (p st : Nat) : State :=
  let old := s.rd .FB_NBR p .STATE
  if old = st then s
  else
    let s1 := s.wr .FB_NBR p .STATE st
    let s2 := if st = 3 then (s1.wr .FB_STATUS 0 .ADDR_CONFLICT 1).irq 3 else s1
    (if old = 2 then s2.offerGone p else s2).flood

/-- The state of a neighbour that has sent a HELLO (R531). -/
def State.judgeNbr (s : State) (p : Nat) : Nat :=
  if s.rd .FB_ID 0 .ADDR_VALID = 0 ∨ s.rd .FB_NBR p .ADDR_VALID = 0 then 1
  else if s.rd .FB_NBR p .ADDR = s.ownAddr then 3 else 2

/-- A port that is UP sends a HELLO (R530). -/
def State.sendHello (s : State) (p : Nat) : State :=
  if s.hnState p = 8 ∨ s.hnState p = 9 then s.sendSlot p (s.helloSlot p) else s

/-- FB_ID is written (R529 to R531, R535, R553): an address above 127 is not valid; neighbours are judged anew, every port that is UP sends a HELLO, and a change of the address is flooded. -/
def State.setFbId (s : State) (addr : Nat) (valid : Bool) : State :=
  let s1 := s.wrs .FB_ID 0 [(.ADDR, addr), (.ADDR_VALID, bit (valid && decide (addr ≤ 127)))]
  let s2 := s1.forEach ((List.range 6).filter fun p => s.rd .FB_NBR p .STATE != 0) fun t p => t.setNbr p (t.judgeNbr p)
  let s3 := s2.forEach (List.range 6) State.sendHello
  if s.ownAddr = s1.ownAddr ∧ s.rd .FB_ID 0 .ADDR_VALID = s1.rd .FB_ID 0 .ADDR_VALID then s3 else s3.flood

end Sys2Proof.Machine
end

