-- ==== Sys2Proof/Machine/Halnal.lean ====
section
/-! DEFINITION. Halnal ports (R504 to R528): training, link keys, flits and replay, electrical idle, lane sparing, latency, and the loss of a link (R293, R544 to R546). -/

namespace Sys2Proof.Machine

/-- A latency in ps as steps at a target in MHz (R279). -/
def stepsOf (ps mhz : Nat) : Nat := (ps * mhz + 999999) / 1000000

/-- Usable crossing slots at a rate code (R181). -/
def usableSlots (rate : Nat) : Nat := if rate = 2 then 256 else if rate = 1 then 128 else 64

/-- RUN_CAMP_HOP shows the hop with the least slack (R289). -/
def State.showHop (s : State) (c : Nat) : State :=
  match (s.camp c).hops with
  | [] => s
  | h :: l =>
    let b := l.foldl (fun (m x : Hop) => if (x.budget : Int) - x.measured < (m.budget : Int) - m.measured then x else m) h
    s.wrs .RUN_CAMP_HOP c [(.HOP, b.idx), (.BUDGET, b.budget), (.MEASURED, b.measured)]

/-- A camp has crossing entries that name a port (R182) whose link is not withdrawn from it (R293). -/
def State.xingOnPort (s : State) (c p : Nat) : Bool :=
  !((s.camp c).hops.any fun h => h.port == p && h.withdrawn) && (s.campXings c).any fun e => epPlace e.2.src == 8 + p || epPlace e.2.dst == 8 + p

/-- A camp has a hop on a port that is not withdrawn from it. -/
def State.hopOnPort (s : State) (c p : Nat) : Bool := (s.camp c).hops.any fun h => h.port == p && !h.withdrawn

/-- Camps of the module that are not UNLOADED and satisfy a test. -/
def State.liveCamps (s : State) (f : Nat → Bool) : List Nat := (List.range 64).filter fun c => s.campState c != 0 && f c

/-- A loss is logged and signalled (R545, R552, R554, R696), of several at once that of the lowest port. -/
def State.logLoss (s : State) (p peer reason : Nat) (camps : List Nat) : State :=
  ((s.bump .FB_LOST_COUNT 0 .COUNT 1).logIn .FB_LOST_LOG 0 [s.ticks] [(.PORT, p), (.PEER, peer), (.CAMP, camps.headD 0), (.REASON, reason)] false
    (decide (p < s.rd .FB_LOST_LOG 0 .PORT)) id).irq 3

/-- A link is lost to camps (R545): each meets the halt condition for loss of a module, and the loss is logged. -/
def State.loseHops (s : State) (p reason : Nat) (camps : List Nat) : State :=
  let peer := s.rd .FB_NBR p .ADDR
  (s.forEach camps fun t c => t.haltCond c 5).logLoss p peer reason camps

/-- A link is lost to the module (R331, R544 to R546): camps with a hop on it halt, a load through it fails, waiting packets are dropped, and the neighbour is gone. -/
def State.linkLost (s : State) (p reason : Nat) : State :=
  let peer := s.rd .FB_NBR p .ADDR
  let s1 := s.loseHops p reason (s.liveCamps fun c => s.hopOnPort c p)
  let s2 := if s.load.active && s.load.places.any (fun e => e.addr == peer) then
      s1.loadFail ⟨10, s.load.next, 0, peer, ((s.load.places.findIdx? fun e => e.addr == peer).getD 0)⟩ true
    else s1
  let s3 := s2.fbDrop (((s2.hn p).wait ++ (s2.hn p).tx.map (·.flit)).filter OutFlit.isPacket).length
  (s3.modHn p fun h => { h with wait := h.wait.filterMap OutFlit.noPacket,
                                tx := h.tx.filterMap fun e => e.flit.noPacket.map fun f => { e with flit := f } }).setNbr p 0

/-- The rate codes that a port offers (R507, R508). -/
def State.offeredRates (s : State) (p : Nat) : Nat :=
  let top := min 2 (s.rd .HN_CTRL p .RATE_MAX)
  (List.range 3).foldl (fun m c => if c ≤ top ∧ (s.hn p).leave ≠ some c then m + 2 ^ c else m) 0

/-- A training begins at DETECT (R506, R517): unacknowledged flits will be sent again as new ones, but for an epoch change, which ends here (R408); the link has no key, and the spares are free. -/
def State.startTraining (s : State) (p : Nat) (again : Bool) : State :=
  let s1 := (s.wrs .HN_STATUS p [(.STATE, 1), (.SPARE_TX, 0), (.SPARE_RX, 0), (.REPLAY, bit again)]).bump .HN_TRAIN_COUNT p .COUNT 1
  let s2 := s1.wrs .MP_LINK_STATUS p [(.ENC, 0), (.EPOCH_TX, 0), (.EPOCH_RX, 0)]
  let rates := s.offeredRates p
  let host := s.rd .HN_CTRL p .EQ_HOST == 1
  ((s2.modHn p fun h =>
    { h with seq := 0, expect := 0, fails := 0, tagSeq := 0, tagRun := 0, tagTimes := [], fabric := [], epochTx := 0, epochRx := 0, keyTx := [], keyRx := [],
             wait := ((h.tx.map (·.flit)).filter (fun f => f.type != 0) ++ h.wait).filterMap OutFlit.noEpoch, tx := [], nonce := s.drawn 8, peerNonce := [], capOk := false,
             lanes := 0, leave := none, rates := rates, eqHost := host, again := again, eqDone := [], echoes := [], sparing := none,
             mirror := none, win := [], exiting := false }).draw).setNbr p 0

/-- Training fails (R506, R508): DOWN with its cause, and after EQ or ALIGN the rate is left out of the next training. -/
def State.failTraining (s : State) (p code : Nat) : State :=
  let s1 := s.wrs .HN_STATUS p [(.STATE, 0), (.FAIL, code)]
  if code = 4 ∨ code = 5 then s1.modHn p fun h => { h with leave := some (s.rd .HN_STATUS p .RATE) } else s1

/-- The port retrains, through DOWN without waiting (R517, R527). -/
def State.retrain (s : State) (p : Nat) : State :=
  let st := s.hnState p
  if s.rd .HN_CTRL p .EN = 1 ∧ s.powered 77 = true then s.startTraining p (st == 8 || st == 9 || (s.hn p).again)
  else (s.wr .HN_STATUS p .STATE 0).setNbr p 0

/-- TRAINING_RETRY (R506). -/
def execTrainingRetry (port : Nat) (s : State) : Host.Outcome State Fault Refusal :=
  .next (if s.hnState port = 0 ∧ s.rd .HN_CTRL port .EN = 1 ∧ s.powered 77 = true then s.startTraining port (s.hn port).again else s)

/-- The capability word that a port sends (R507). -/
def State.capWord (s : State) (p : Nat) : Nat :=
  let h := s.hn p
  let x := 0x484E + 2 ^ 16 + 2 ^ 20 * h.rates + 2 ^ 23 * p + 2 ^ 26 * bit (h.lanes.testBit 8) + 2 ^ 32 * s.rd .LD_SERIAL 0 .SERIAL
    + 2 ^ 72 * leNat h.nonce
  x + 2 ^ 144 * crc16 x 144

/-- The highest rate code set in both masks (R508). -/
def commonRate (a b : Nat) : Option Nat := ([2, 1, 0] : List Nat).find? fun c => a.testBit c && b.testBit c

/-- CAPABILITY_WORD (R507, R508): one whose CRC fails is ignored. -/
def execCapabilityWord (port word : Nat) (s : State) : Host.Outcome State Fault Refusal :=
  if s.hnState port ≠ 2 ∨ bitsOf word 144 16 ≠ crc16 (word % 2 ^ 144) 144 then .next s
  else if bitsOf word 0 16 ≠ 0x484E ∨ bitsOf word 16 4 ≠ 1 then .next (s.failTraining port 2)
  else
    match commonRate (s.hn port).rates (bitsOf word 20 3) with
    | none => .next (s.failTraining port 2)
    | some r =>
      let s1 := (s.wr .HN_STATUS port .RATE r).wr .HN_PEER port .SERIAL (bitsOf word 32 40)
      let s2 := s1.wrs .HN_LINK_ID port [(.PEER_PORT, bitsOf word 23 3), (.PEER_SPARE_OK, bitsOf word 26 1), (.PEER_RATES, bitsOf word 20 3)]
      .next (s2.modHn port fun h => { h with capOk := true, peerNonce := leBytes (bitsOf word 72 64) 8 })

/-- Lanes that a training may use (R506, R520): all of 0 to 7, or seven of them and the spare. -/
def lanesOk (m : Nat) : Bool := (List.range 8).all (fun i => m.testBit i) || (m.testBit 8 && ((List.range 8).filter fun i => m.testBit i).length == 7)

/-- The taps of a preset (R509). -/
def presetTaps (n : Nat) : Nat × Nat × Nat :=
  match n with
  | 1 => (0, 4, 8)
  | 2 => (0, 6, 16)
  | 3 => (2, 8, 12)
  | 4 => (4, 12, 20)
  | _ => (0, 0, 0)

/-- A tap one up or down within its range (R509); none where the range would be left. -/
def stepTap (top : Nat) (up : Bool) (v : Nat) : Option Nat :=
  if up then (if v < top then some (v + 1) else none) else if 0 < v then some (v - 1) else none

/-- The taps that a request asks for, in steps or as a preset (R509, R510); none where a tap's range would be left. -/
def eqAsks (q : EqReq) (t : Nat × Nat × Nat) : Option (Nat × Nat × Nat) :=
  if q.op = 3 then some t
  else if q.op = 2 then some (presetTaps q.preset)
  else match q.tap with
    | 0 => (stepTap 8 (q.op == 1) t.1).map fun x => (x, t.2)
    | 1 => (stepTap 16 (q.op == 1) t.2.1).map fun x => (t.1, x, t.2.2)
    | 2 => (stepTap 24 (q.op == 1) t.2.2).map fun x => (t.1, t.2.1, x)
    | _ => none

/-- The transmitter's answer to a request, and its taps after it (R510): UPDATED, AT_LIMIT, or REFUSED where main would fall below 24. -/
def eqTaken (q : EqReq) (t : Nat × Nat × Nat) : Nat × (Nat × Nat × Nat) :=
  match eqAsks q t with
  | none => (1, t)
  | some u => if u.1 + u.2.1 + u.2.2 ≤ 39 then (0, u) else (2, t)

/-- A request of the far receiver is applied to its lane and answered (R510). -/
def State.eqApply (s : State) (p : Nat) (q : EqReq) : State :=
  let r := eqTaken q (tget (0, 0, 0) (s.hn p).taps q.lane)
  (s.modHn p fun h => { h with taps := tset h.taps q.lane r.2 }).emit (.eqAnswer p q.lane r.1)

/-- The lane among 0 to 7 that did not pass, where one did not. -/
def missingLane (m : Nat) : Option Nat := (List.range 8).find? fun i => !m.testBit i

/-- After UP, the hops of the loaded camps on the link are judged again (R293, R517): one over its budget, without its slots, or without a key is withdrawn from its camp. DEDUCED (log 98), unsafe. -/
def State.judgeHops (s : State) (p : Nat) : State :=
  let usable := usableSlots (s.rd .HN_STATUS p .RATE)
  s.forEach (s.liveCamps fun c => s.campState c != 1 && s.hopOnPort c p) fun t c =>
    let gone := fun (h : Hop) => if h.port = p then { h with withdrawn := true } else h
    let lm := stepsOf (s.rd .HN_LAT p .ONEWAY_PS) (s.rd .RUN_CAMP_TARGET c .MHZ)
    let t1 := (t.modCamp c fun x => { x with hops := x.hops.map fun h => if h.port = p then { h with measured := lm } else h }).showHop c
    if (t1.camp c).hops.any fun h => h.port == p && (decide (h.budget < lm) || decide (usable < h.base + h.slots) || !s.keyed p) then
      (t1.loseHops p 2 [c]).modCamp c fun x => { x with hops := x.hops.map gone }
    else t1

/-- A port enters UP (R506, R517, R530, R544): what waits goes out, a HELLO with it; a changed peer is a loss. -/
def State.enterUp (s : State) (p : Nat) : State :=
  let s1 := s.wrs .HN_STATUS p [(.STATE, 8), (.REPLAY, 0)]
  let h := s.hn p
  let ser := s.rd .HN_PEER p .SERIAL
  let s2 := (if h.again && h.peer.any (fun o => o != ser) then s1.linkLost p 1 else s1).modHn p fun x => { x with peer := some ser, again := false }
  let s3 := s2.judgeHops p
  let s4 := s3.sendSlot p (s3.helloSlot p)
  s4.pumpPort p (s4.hn p).wait.length

/-- A training state completes (R506 to R512, R395). -/
def State.trainStep (s : State) (p : Nat) (o : TrainObs) : State :=
  let h := s.hn p
  match s.hnState p with
  | 1 =>
    if lanesOk o.lanes then
      let s1 := (s.wr .HN_STATUS p .STATE 2).modHn p fun x => { x with lanes := o.lanes }
      s1.emit (.capability p (s1.capWord p))
    else s.failTraining p 1
  | 2 => if o.clock = false then s.failTraining p 3 else if h.capOk then s.wr .HN_STATUS p .STATE 3 else s
  | 3 =>
    let t := presetTaps (s.rd .HN_CTRL p .PRESET)
    (s.wr .HN_STATUS p .STATE 4).modHn p fun x => { x with taps := (List.range 9).map fun i => (i, t) }
  | 4 =>
    let lanes := h.lanes &&& o.lanes
    if h.eqHost && !(List.range 9).all (fun i => h.eqDone.contains i) then s
    else if lanesOk lanes then
      let s1 := (s.forEach (o.reqs.filter fun q => decide (q.lane ≤ 8)) fun t q => t.eqApply p q).wr .HN_STATUS p .STATE 5
      match missingLane lanes with
      | some i => s1.wrs .HN_STATUS p [(.SPARE_RX, 1), (.SPARED_RX, i)]
      | none => s1
    else s.failTraining p 4
  | 5 => s.forEach (List.range 16) (fun t _ => t.sendSlot p 6) |>.wr .HN_STATUS p .STATE 6
  | 6 => if 16 ≤ h.echoes.length then s.wr .HN_STATUS p .STATE 7 else s
  | 7 =>
    match s.keys.fabric with
    | some k => (((s.modHn p fun x => { x with fabric := k }).setKeys p).wr .MP_LINK_STATUS p .ENC 1).enterUp p
    | none => s
  | _ => s

/-- TRAINING_STATE_DONE. -/
def execTrainingStateDone (port : Nat) (obs : TrainObs) (s : State) : Host.Outcome State Fault Refusal :=
  let s1 := s.trainStep port obs
  .next (if s.hnState port = 5 ∧ s1.hnState port = 6 then s1.pumpPort port (s1.hn port).wait.length else s1)

/-- TRAINING_STATE_TIMEOUT (R506): KEY goes UP without encryption; for RATE and LATENCY the spec gives no failure code. -/
def execTrainingStateTimeout (port : Nat) (s : State) : Host.Outcome State Fault Refusal :=
  match s.hnState port with
  | 1 => .next (s.failTraining port 1)
  | 2 => .next (s.failTraining port 2)
  | 3 => .next (s.wrs .HN_STATUS port [(.STATE, 0), (.FAIL, s.openAt 0 % 6)]).draw
  | 4 => .next (s.failTraining port 4)
  | 5 => .next (s.failTraining port 5)
  | 6 => .next (s.wrs .HN_STATUS port [(.STATE, 0), (.FAIL, s.openAt 0 % 6)]).draw
  | 7 => .next (s.enterUp port)
  | _ => .next s

/-- The lane of HN_LANE_SEL (R528). -/
def State.laneSel (s : State) (p : Nat) : Nat := min 8 (s.rd .HN_LANE_SEL p .LANE)

/-- EQ_REQUEST (R510, R511, R528): ignored unless EQ_HOST = 1 and STATE = 4. -/
def execEqRequest (port tap op preset : Nat) (s : State) : Host.Outcome State Fault Refusal :=
  s.asWrite .HN_EQ_REQ port fun s =>
  let s1 := s.wrs .HN_EQ_REQ port [(.TAP, tap), (.OP, op), (.PRESET, preset)]
  if (s.hn port).eqHost = true ∧ s.hnState port = 4 ∧ s.rd .HN_EQ_REQ port .BUSY = 0 then
    .next (((s1.wr .HN_EQ_REQ port .BUSY 1).modHn port fun h => { h with eqLane := s.laneSel port }).emit
      (.eqRequest port (s.laneSel port) tap op preset))
  else .next s1

/-- EQ_RESPONSE (R510, R511, R528): the answer, and the eye that the receiver measures after it. -/
def execEqResponse (port resp height width : Nat) (s : State) : Host.Outcome State Fault Refusal :=
  if s.rd .HN_EQ_REQ port .BUSY = 1 then
    let s1 := (s.wrs .HN_EQ_REQ port [(.BUSY, 0), (.RESP, resp)]).wrs .HN_EQ_EYE port [(.HEIGHT, height), (.WIDTH, width)]
    .next (if s.rd .HN_EQ_REQ port .OP = 3 then s1.modHn port fun h => { h with eqDone := h.eqLane :: h.eqDone } else s1)
  else .next s

/-- Flits up to the one that an ACK names leave the replay buffer (R516). -/
def HnPort.acked (h : HnPort) (a : Nat) : HnPort :=
  if h.tx.any fun e => e.seq % 4096 == a then { h with tx := (h.tx.dropWhile fun e => e.seq % 4096 != a).drop 1 } else h

/-- Every unacknowledged flit is sent again with its own sequence number (R397, R516). -/
def State.resend (s : State) (p : Nat) : State := s.forEach (s.hn p).tx fun t e => t.sendTx p false e

/-- ACK and NAK of a good flit (R516). -/
def State.takeAck (s : State) (p : Nat) (f : Flit) : State :=
  let s1 := s.modHn p fun h => h.acked f.ack
  let s2 := if f.nak then s1.resend p else s1
  s2.pumpPort p (s2.hn p).wait.length

/-- A NAK goes out in an IDLE flit (R516). -/
def State.sendNak (s : State) (p : Nat) : State := (s.launch p true ⟨0, 0, .empty⟩).bump .HN_REPLAY_COUNT p .COUNT 1

/-- The tamper alarm of a port (R398): for every key ID with crossings on it; the camps with crossings halt. What the log shows of CAUSE, LEVEL and address the spec leaves open. -/
def State.linkTamper (s : State) (p : Nat) : State :=
  let camps := s.liveCamps fun c => s.xingOnPort c p
  let keys := (camps.map fun c => s.rd .RUN_CAMP_STATUS c .KEY_ID).eraseDups
  let s1 := if keys.isEmpty then s else (s.alarmLog 1 (s.openAt 0 % 16) (s.openAt 1 % 8) (s.openAt 2 % 2 ^ 38) keys).draw
  (s1.forEach camps fun t c => t.haltCond c 4).loadKeyEvent keys

/-- A flit has failed (R398, R516), by its tag where `tag` gives its SEQ: REPLAY, a NAK, and retraining after 8 failures in succession, or 4 of one flit's tag, or more than 16 tag failures within 1 ms. -/
def State.flitFails (s : State) (p : Nat) (tag : Option Nat) : State :=
  let times := (s.hn p).tagTimes.filter fun t => decide (s.ticks < t + 500000)
  let s1 := (s.wr .HN_STATUS p .REPLAY 1).modHn p fun h =>
    match tag with
    | some n => { h with fails := h.fails + 1, tagSeq := n, tagRun := if h.tagSeq = n then h.tagRun + 1 else 1, tagTimes := times ++ [s.ticks] }
    | none => { h with fails := h.fails + 1, tagRun := 0, tagTimes := times }
  let h := s1.hn p
  if tag.isSome && (decide (4 ≤ h.tagRun) || decide (16 < h.tagTimes.length)) then (s1.linkTamper p).retrain p
  else if 8 ≤ h.fails then s1.retrain p
  else s1.sendNak p

/-- A receive lane is to be replaced (R517, R520): SPARE_REQ, or retraining where the spare is in use. -/
def State.startSpare (s : State) (p lane : Nat) : State :=
  if s.rd .HN_STATUS p .SPARE_RX = 1 ∨ (s.hn p).sparing.isSome = true then s.retrain p
  else (s.modHn p fun h => { h with sparing := some lane }).sendSlot p (3 + 2 ^ 4 * lane)

/-- Symbol errors of a lane (R520, R676): counted, and a lane over THRESH within the window is spared in hardware mode. -/
def State.countSym (s : State) (p lane n : Nat) : State :=
  let h := s.hn p
  let ms := max 1 (s.rd .HN_SPARE_CFG p .WINDOW_MS)
  let (t0, k0) := tget (s.ticks, 0) h.win lane
  let (t1, k1) := if s.ticks < t0 + 500000 * ms then (t0, k0 + n) else (s.ticks, n)
  let thr := s.rd .HN_SPARE_CFG p .THRESH
  let s1 := s.modHn p fun x => { x with errs := tset x.errs lane (satAdd 32 (tget 0 x.errs lane) n), win := tset x.win lane (t1, k1) }
  if lane < 8 ∧ thr ≠ 0 ∧ thr < k1 ∧ s.rd .HS_CTRL 0 .SPARE_HOST = 0 ∧ s.hnState p = 8 ∧ h.sparing.isNone = true
      ∧ !(s.rd .HN_STATUS p .SPARE_RX == 1 && s.rd .HN_STATUS p .SPARED_RX == lane) then
    (s1.modHn p fun x => { x with win := tset x.win lane (s.ticks, 0) }).startSpare p lane
  else s1

/-- Lane 8 is locked and takes the place of the lane (R520), with a KIND 7 entry of the wear record (R673). -/
def State.takeSpare (s : State) (p : Nat) : State :=
  match (s.hn p).sparing with
  | none => s
  | some n =>
    (((s.wrs .HN_STATUS p [(.SPARE_RX, 1), (.SPARED_RX, n)]).modHn p fun h => { h with sparing := none }).sendSlot p (4 + 2 ^ 4 * n)).wearAdd 7 ⟨8, p, n⟩ 0

/-- The judgement of a flit (R513, R516, R398): FEC, then CRC (a reserved TYPE counts as failing it), then the tag, then SEQ. -/
def State.judgeFlit (s : State) (p : Nat) (f : Flit) (o : FlitObs) : State :=
  let replay := s.rd .HN_STATUS p .REPLAY = 1
  if o.fec = 2 then (s.bump .HN_FEC_UE p .COUNT 1).flitFails p none
  else
    let s1 := if o.fec = 1 then s.bump .HN_FEC_CE p .COUNT 1 else s
    if o.crc = false ∨ 3 ≤ f.type then (s1.bump .HN_CRC_ERR p .COUNT 1).flitFails p none
    else if s.keyed p = true ∧ o.tag = false then (s1.bump .MP_LINK_AUTH p .COUNT 1).flitFails p (some f.seq)
    else if f.seq ≠ (s.hn p).expect % 4096 then (if replay then s1 else s1.flitFails p none)
    else
      let s2 := (s1.wr .HN_STATUS p .REPLAY 0).modHn p fun h => { h with expect := h.expect + 1, fails := 0, tagRun := 0 }
      s2.takeAck p f

/-- FLIT_RECEIVE (R513, R516, R520). DEDUCED (log 63), unsafe. -/
def execFlitReceive (port : Nat) (f : Flit) (obs : FlitObs) (s : State) : Host.Outcome State Fault Refusal :=
  if s.flowing port then
    let s1 := s.forEach obs.sym fun t e => t.countSym port e.1 e.2
    let s2 := if obs.locked8 then s1.takeSpare port else s1
    .next (if s2.flowing port then s2.judgeFlit port f obs else s2)
  else .next s

/-- Some die group of the camp has begun the boundary steps of its cycle, in which no item of it is under way any more (R169). -/
def State.pastB0 (s : State) (c : Nat) : Bool :=
  (s.campDies c).any fun d => match (s.group c d).pos with
    | .bnd b => b != 0
    | .step _ => false

/-- A DATA flit's payload for its camp (R514): one of the next design cycle, or of one whose vector is not here yet, is kept until that cycle begins. -/
def State.dataArrives (s : State) (p : Nat) (d : DataPay) : State :=
  match (List.range 64).find? fun c => decide (2 ≤ s.campState c) && s.spans c && s.hopOnPort c p && (s.camp c).tag == d.tag with
  | none => s
  | some c =>
    let cyc := (s.camp c).cycle.toNat % 16
    let keep := s.modCamp c fun x => { x with early := x.early ++ [(p, d)] }
    if d.cyc = cyc then
      if s.pastB0 c then s
      else match s.vecNow c with
        | some v => s.portItems c p d v
        | none => keep
    else if d.cyc = (cyc + 1) % 16 then keep.forEach (s.campDies c) fun t e => t.raiseHigh c e 0
    else s

/-- DATA_FLIT (R514, R395): a link without a key carries no crossing. -/
def execDataFlit (port : Nat) (d : DataPay) (s : State) : Host.Outcome State Fault Refusal :=
  .next (if s.hnState port = 8 ∧ s.keyed port = true then s.dataArrives port d else s)


/-- REPLAY_TIMEOUT (R516). -/
def execReplayTimeout (port : Nat) (s : State) : Host.Outcome State Fault Refusal :=
  .next (if s.flowing port then s.resend port else s)

/-- The read-write fields of HN_CTRL written along with a command (R528). DEDUCED (log 49), unsafe. -/
def State.hnCtrl (s : State) (p : Nat) (f : HnFields) : State :=
  s.wrs .HN_CTRL p [(.EN, bit f.en), (.RATE_MAX, f.rateMax), (.EQ_HOST, bit f.eqHost), (.PRESET, f.preset), (.IDLE_EN, bit f.idleEn), (.IDLE_AFTER, f.idleAfter)]

/-- RETRAIN (R517, R527). -/
def execRetrain (port : Nat) (f : HnFields) (s : State) : Host.Outcome State Fault Refusal :=
  s.asWrite .HN_CTRL port fun s => .next ((s.hnCtrl port f).retrain port)

/-- HN_SPARE_CMD (R520, R527): ignored with CMD_ERR while the port is not UP or the direction's spare is in use. -/
def execHnSpareCmd (port : Nat) (f : HnFields) (s : State) : Host.Outcome State Fault Refusal :=
  s.asWrite .HN_CTRL port fun s =>
  let s1 := s.hnCtrl port f
  let n := s.laneSel port
  if s.hnState port ≠ 8 ∨ s.rd .HN_STATUS port .SPARE_RX = 1 ∨ (s.hn port).sparing.isSome = true then .next (s1.wr .HN_STATUS port .CMD_ERR 1)
  else if n < 8 then .next (s1.startSpare port n)
  else .next s1

/-- EXIT_IDLE (R519). -/
def execExitIdle (port : Nat) (f : HnFields) (s : State) : Host.Outcome State Fault Refusal :=
  s.asWrite .HN_CTRL port fun s => .next ((s.hnCtrl port f).exitIdle port)

/-- The link carries crossing entries or guyline traffic of a camp that is neither UNLOADED nor LOADING (R518). -/
def State.linkUsed (s : State) (p : Nat) : Bool := !(s.liveCamps fun c => s.campState c != 1 && (s.xingOnPort c p || s.hopOnPort c p)).isEmpty

/-- IDLE_TIMER (R518, R524): a port with nothing to send enters IDLE. -/
def execIdleTimer (port : Nat) (s : State) : Host.Outcome State Fault Refusal :=
  if s.hnState port = 8 ∧ s.rd .HN_CTRL port .IDLE_EN = 1 ∧ s.linkUsed port = false ∧ (s.hn port).wait.isEmpty = true then
    .next ((s.sendSlot port 5).wr .HN_STATUS port .STATE 9)
  else .next s

/-- IDLE_ENTER (R518): both ends' lanes go to electrical idle, but for a link that a camp uses; a flit that is due makes the port leave it at once. -/
def execIdleEnter (port : Nat) (s : State) : Host.Outcome State Fault Refusal :=
  if s.hnState port = 8 ∧ s.linkUsed port = false then
    let s1 := s.wr .HN_STATUS port .STATE 9
    .next (if (s.hn port).wait.isEmpty then s1 else s1.exitIdle port)
  else .next s

/-- IDLE_EXIT_BURST (R519): the port relocks, answers with its own burst unless it began the exit, and flits resume. -/
def execIdleExitBurst (port : Nat) (s : State) : Host.Outcome State Fault Refusal :=
  if s.hnState port = 9 then
    let s1 := if (s.hn port).exiting then s else s.emit (.burst port)
    let s2 := (s1.wr .HN_STATUS port .STATE 8).modHn port fun h => { h with exiting := false }
    .next (s2.pumpPort port (s2.hn port).wait.length)
  else .next s

/-- IDLE_LOCK_TIMEOUT (R519). -/
def execIdleLockTimeout (port : Nat) (s : State) : Host.Outcome State Fault Refusal :=
  .next (if s.hnState port = 9 ∧ (s.hn port).exiting = true then s.retrain port else s)

/-- LANE_LOCK_LOSS (R517, R520, R523, R676): a lane in use needs sparing; the spare lost in use or in a handshake, or a second lane, makes the port retrain. -/
def execLaneLockLoss (port lane : Nat) (s : State) : Host.Outcome State Fault Refusal :=
  if s.hnState port ≠ 8 then .next s
  else if 8 ≤ lane then
    .next (if s.rd .HN_STATUS port .SPARE_RX = 1 ∨ (s.hn port).sparing.isSome = true then s.retrain port else s)
  else if s.rd .HN_STATUS port .SPARE_RX = 1 ∧ s.rd .HN_STATUS port .SPARED_RX = lane then .next s
  else if (s.hn port).sparing = some lane then .next s
  else .next (s.startSpare port lane)

/-- SPARE_REQ (R520, R525): lane 8 wakes with a burst and mirrors the failing lane. -/
def execSpareReq (port lane : Nat) (s : State) : Host.Outcome State Fault Refusal :=
  if s.hnState port = 8 then .next ((s.modHn port fun h => { h with mirror := some lane }).emit (.burst port)) else .next s

/-- SPARE_DONE (R520): the replaced lane goes to electrical idle. -/
def execSpareDone (port lane : Nat) (s : State) : Host.Outcome State Fault Refusal :=
  if (s.hn port).mirror = some lane then
    .next ((s.wrs .HN_STATUS port [(.SPARE_TX, 1), (.SPARED_TX, lane)]).modHn port fun h => { h with mirror := none })
  else .next s

/-- SPARING_TIMEOUT (R520). -/
def execSparingTimeout (port : Nat) (s : State) : Host.Outcome State Fault Refusal :=
  .next (if (s.hn port).sparing.isSome = true ∨ (s.hn port).mirror.isSome = true then s.retrain port else s)

/-- EPOCH (R396, R397, R526): the receive direction goes to its next key, and its flits count anew. -/
def execEpoch (port : Nat) (s : State) : Host.Outcome State Fault Refusal :=
  if s.keyed port then
    let s1 := s.modHn port fun h => { h with epochRx := h.epochRx + 1, expect := 0 }
    .next ((s1.wr .MP_LINK_STATUS port .EPOCH_RX ((s1.hn port).epochRx % 65536)).setKeys port)
  else .next s

/-- EPOCH_LIMIT (R396): the sender signals the new epoch; with the slot it goes to its next key. -/
def execEpochLimit (port : Nat) (s : State) : Host.Outcome State Fault Refusal :=
  if s.keyed port = true ∧ ((s.hn port).wait.all fun f => f.ctrl % 16 != 2) = true then
    .next (s.sendSlot port 2)
  else .next s

/-- PROBE (R512): answered with an ECHO that carries the turnaround. -/
def execProbe (port turnaround : Nat) (s : State) : Host.Outcome State Fault Refusal :=
  .next (if s.flowing port then s.sendSlot port (7 + 2 ^ 4 * (turnaround % 2 ^ 32)) else s)

/-- ECHO (R512): a sample; the largest of 16 is the measured latency. -/
def execEcho (port turnaround roundTrip : Nat) (s : State) : Host.Outcome State Fault Refusal :=
  if s.hnState port = 6 ∧ (s.hn port).echoes.length < 16 then
    let l := (s.hn port).echoes ++ [(roundTrip - turnaround) / 2]
    let s1 := s.modHn port fun h => { h with echoes := l }
    .next (if l.length = 16 then s1.wr .HN_LAT port .ONEWAY_PS (l.foldl max 0) else s1)
  else .next s

/-- LINK_LOSS (R544 to R546): the port has been out of UP and IDLE for LOSS_MS. -/
def execLinkLoss (port : Nat) (s : State) : Host.Outcome State Fault Refusal :=
  if s.hnState port = 8 ∨ s.hnState port = 9 ∨ (s.hn port).peer.isNone = true then .next s
  else .next ((s.linkLost port 0).modHn port fun h => { h with peer := none, again := false })

end Sys2Proof.Machine
end

