-- ==== Sys2Proof/Machine/LoadCheck.lean ====
section
/-! DEFINITION. The loader's contract checks (R276 to R284) and what it computes from the image and the placement: the assignment of pitches (R31), hops and reach (R214, R280), crossings in physical form (R185, R726), shares (R219 to R222), tables of deep accesses and ports (R354 to R356, R446), and the acquisition setup (R580, R589, R606). -/

namespace Sys2Proof.Machine

/-- The grade step clock in MHz (R1). -/
def gradeMhz (g : Nat) : Nat := if g = 3 then 2000 else 1600

/-- A change of the loader. -/
def State.modLoad (s : State) (f : Load → Load) : State := { s with load := f s.load }

/-- The header of the load; zeros before it has come. -/
def Load.head (l : Load) : LoadHdr := l.hdr.getD ⟨0, 0, 0, 0, [], [], 0, 0, [], [], []⟩

/-- The logical clusters of this module's part. -/
def Load.clusters (l : Load) : Nat := l.head.lclusters.getD (l.lmod.getD 0) 0

/-- The camp's target step clock in MHz (R277). -/
def State.loadTarget (s : State) : Nat :=
  s.load.places.zipIdx.foldl (fun t e => min t (gradeMhz (if s.load.lmod = some e.2 then s.part.grade else e.1.grade))) s.load.head.target

/-- A pitch may be given logical pitch number `acc.length`, after the ones given so far (R31). -/
def fits (dies : List (Nat × Nat)) (acc : List Nat) (x : Nat × Nat) (p : Nat) : Bool :=
  let i := acc.length
  !acc.contains p && (acc.zip dies).zipIdx.all fun e =>
    let q := e.1.1
    let y := e.1.2
    (y.1 == x.1) == (q / 8 == p / 8) && (x.2 != e.2 || (p == q + 1 && p / 8 == q / 8)) && (y.2 != i || (q == p + 1 && p / 8 == q / 8))

/-- The lowest ascending assignment of logical pitches to the pitches of the set that meets every DIE and UPPER relation (R31, R325). -/
def assignRest (dies : List (Nat × Nat)) (set : List Nat) : List (Nat × Nat) → List Nat → Option (List Nat)
  | [], acc => some acc
  | x :: rest, acc => set.findSome? fun p => if fits dies acc x p then assignRest dies set rest (acc ++ [p]) else none

/-- The assignment of a PLACE record; an UPPER that names no other logical pitch cannot be met. -/
def assignPitches (dies : List (Nat × Nat)) (set : List Nat) : Option (List Nat) :=
  if dies.zipIdx.all fun e => e.1.2 == 0xFFFF || (decide (e.1.2 < dies.length) && e.1.2 != e.2) then assignRest dies set dies [] else none

/-- The ports toward a neighbour on which a trained, keyed link stands (R280, R395). DEDUCED (log 67), unsafe. -/
def State.portsTo (s : State) (peer : Nat) : List Nat :=
  (List.range 6).filter fun p => s.nbrActive p && s.rd .FB_NBR p .ADDR == peer && (s.hnState p == 8 || s.hnState p == 9) && s.keyed p

/-- The port that carries a hop to a neighbour: of parallel links, the one with the lowest port number at the lower address. -/
def State.portTo (s : State) (peer : Nat) : Option Nat :=
  let key := fun p => if s.ownAddr ≤ peer then p else s.rd .FB_NBR p .PORT
  (s.portsTo peer).foldl (fun b p => match b with
    | none => some p
    | some q => if key p < key q then some p else some q) none

/-- The one-way latency in ps of the link between two modules (R280, R535): this module's own measurement, or the one in a topology record. -/
def State.linkPs (s : State) (a b : Nat) : Option Nat :=
  if a = s.ownAddr then (s.portTo b).map fun p => s.rd .HN_LAT p .ONEWAY_PS
  else if b = s.ownAddr then (s.portTo a).map fun p => s.rd .HN_LAT p .ONEWAY_PS
  else match s.fab.topo.find? fun e => e.1 == a with
    | none => none
    | some e => e.2.ports.findSome? fun r => match r with
      | some t => if t.addr = b then some t.ps else none
      | none => none

/-- The address of a logical module. -/
def Load.addrOf (l : Load) (m : Nat) : Nat := (l.places.getD m ⟨0, 0, 0, 0, 0, 0⟩).addr

/-- The measured latency of each hop record in steps (R279, R280); none where the modules are not joined. -/
def State.hopSteps (s : State) : List (Option Nat) :=
  s.load.head.hops.map fun h => (s.linkPs (s.load.addrOf h.1) (s.load.addrOf h.2.1)).map fun ps => stepsOf ps s.loadTarget

/-- One round of shortest paths over edges with weights. -/
def relax (edges : List (Nat × Nat × Nat)) (d : List (Option Nat)) : List (Option Nat) :=
  edges.foldl (fun d e =>
    let via := fun (a b : Nat) (d : List (Option Nat)) =>
      match d.getD a none, d.getD b none with
      | some x, none => d.set b (some (x + e.2.2))
      | some x, some y => if x + e.2.2 < y then d.set b (some (x + e.2.2)) else d
      | none, _ => d
    via e.2.1 e.1 (via e.1 e.2.1 d)) d

/-- The longest shortest path between two modules of the camp, each hop weighed by `w` of its record and its measured latency. -/
def State.farthest (s : State) (w : Nat → Nat) : Nat :=
  let n := s.load.head.modules
  let edges := (s.load.head.hops.zip s.hopSteps).map fun e => (e.1.1, e.1.2.1, w (e.2.getD 0))
  (List.range n).foldl (fun g m =>
    let d := (List.range n).foldl (fun d _ => relax edges d) ((List.replicate n none).set m (some 0))
    d.foldl (fun g x => max g (x.getD 0)) g) 0

/-- The reach G of the camp (R214): 16 steps, and between modules the hops of the shortest path, each with 40 steps more. -/
def State.loadReach (s : State) : Nat := 16 + s.farthest fun l => l + 40

/-- Hop records that name a logical module, in record order (R726). -/
def Load.hopsOf (l : Load) (m : Nat) : List Nat :=
  (l.head.hops.zipIdx.filter fun e => e.1.1 == m || e.1.2.1 == m).map (·.2)

/-- The other end of hop record `r`, seen from module `m`. -/
def Load.beyond (l : Load) (m r : Nat) : Nat :=
  let h := l.head.hops.getD r (0, 0, 0)
  if h.1 = m then h.2.1 else h.1

/-- The budget of hop record `r`. -/
def Load.budgetOf (l : Load) (r : Nat) : Nat := (l.head.hops.getD r (0, 0, 0)).2.2

/-- A module's crossing entries as the image gives them, numbered within the camp (R303), each with its record's segment. -/
def Load.entriesOf (l : Load) (m : Nat) : List (Nat × Xing) :=
  (l.xings.filter fun r => r.mask.testBit m).flatMap fun r => r.entries.map fun w => (r.seg, xingOf w)

/-- The pitches of a logical E-die in logical order (R726). -/
def Load.rows (l : Load) (die : Nat) : List Nat :=
  ((l.assign.zip l.dies).filter fun e => e.2.1 == die).map (·.1)

/-- An E-die endpoint translated (R726). -/
def Load.edgeEnd (l : Load) (e : Nat) : Option Nat :=
  match (l.rows (epPlace e))[epLane e / 64]? with
  | some p => some (512 * (p / 8) + 64 * (p % 8) + epLane e % 64)
  | none => none

/-- Slots that the camp names on the hop with rank `h` of this module: the highest slot and one (R181). -/
def Load.slotsOn (l : Load) (h : Nat) : Nat :=
  (l.entriesOf (l.lmod.getD 0)).foldl (fun n e =>
    let f := fun x n => if epPlace x = 8 + h then max n (epLane x + 1) else n
    if e.2.valid then f e.2.src (f e.2.dst n) else n) 0

/-- The lowest base at which a block of `size` fits beside the blocks taken, below `limit` (R273). -/
def freeBase (taken : List (Nat × Nat)) (limit size : Nat) : Option Nat :=
  if size = 0 then some 0
  else (List.range (limit + 1 - size)).find? fun b => taken.all fun t => t.2 == 0 || decide (b + size ≤ t.1) || decide (t.1 + t.2 ≤ b)

/-- The hops of the camp on this module (R276, R280): record, port, peer, budget, latency, base and slots; and whether a base fits for each (R273). -/
def State.loadHops (s : State) : List Hop × Bool :=
  let l := s.load
  let m := l.lmod.getD 0
  (l.hopsOf m).zipIdx.foldl (fun (acc, fits) e =>
    let peer := l.addrOf (l.beyond m e.1)
    let p := (s.portTo peer).getD 0
    let others := (s.liveCamps fun c => c != l.camp).flatMap fun c => ((s.camp c).hops.filter fun h => h.port == p).map fun h => (h.base, h.slots)
    let mine := (acc.filter fun (h : Hop) => h.port == p).map fun h => (h.base, h.slots)
    let b := freeBase (others ++ mine) (usableSlots (s.rd .HN_STATUS p .RATE)) (l.slotsOn e.2)
    (acc ++ [⟨e.1, p, peer, l.budgetOf e.1, (s.hopSteps.getD e.1 none).getD 0, b.getD 0, l.slotsOn e.2, false⟩], fits && b.isSome)) ([], true)

/-- An endpoint of an entry translated (R726); a port slot by the hops of this module. -/
def State.loadEnd (s : State) (hops : List Hop) (e : Nat) : Option Nat :=
  if epPlace e < 8 then s.load.edgeEnd e
  else if epPlace e < 14 then
    match hops[epPlace e - 8]? with
    | some h => some (512 * (8 + h.port) + (h.base + epLane e) % 512)
    | none => none
  else none

/-- Half of an 80-bit entry written (R61). -/
def putHalf (l : List (Nat × Inst80)) (i : Nat) (w : Word) : List (Nat × Inst80) :=
  tmod 0 l (i / 2) fun e =>
    if i % 2 = 0 then BitVec.ofNat 80 (e.toNat / 2 ^ 40 * 2 ^ 40 + w.toNat) else BitVec.ofNat 80 (e.toNat % 2 ^ 40 + 2 ^ 40 * w.toNat)

/-- The locator of a PITCH body (R304): J, BP, FIRST, and whether its reserved bits are zero. -/
structure Locator where
  j : Nat
  bp : Nat
  first : Nat
  clean : Bool
  deriving DecidableEq, Repr

/-- A locator's fields. -/
def locatorOf (b : List Byte) : Locator := ⟨fldAt b 0 1, fldAt b 1 1, fldAt b 4 4, zeroAt b 2 2⟩

/-- The words that a PART of cluster memory or router memory holds (R304). -/
def wordLimit (part : Nat) : Nat := if part = 5 then 65536 else 8192

/-- The 40-bit words of a PITCH body (R304). A zero word that only the padding of R302 makes is none: beyond whole instructions, or past the end of what is written; any other zero word counts, although padding of 5 to 7 bytes looks the same. -/
def pitchWords (part first : Nat) (data : List Byte) : List Word :=
  let n := data.length / 5
  let ws := (List.range n).map fun i => BitVec.ofNat 40 (fldAt data (5 * i) 5)
  let pad := if part = 0 ∨ part = 2 ∨ part = 3 then n % 2 == 1 else (part == 5 || part == 6) && decide (wordLimit part < first + n)
  if pad && ws.getLast? == some 0 then ws.dropLast else ws

/-- The words of PART 7 (R246, R304): N and the entries, without what follows the last entry. -/
def tableWords (ws : List Word) : List Word := (ws.reverse.dropWhile fun w => w == 0).reverse

/-- A cluster as a PITCH record writes it (R304, R305). -/
def Cluster.loadPart (cl : Cluster) (part : Nat) (b : List Byte) : Cluster :=
  let a := locatorOf b
  let data := b.drop 8
  let ws := (pitchWords part a.first data).zipIdx
  match part with
  | 0 => cl.modBp a.bp fun x => { x with imem := ws.foldl (fun m e => putHalf m (a.first + e.2) e.1) x.imem }
  | 1 => cl.modBp a.bp fun x => { x with state := BitVec.ofNat 1024 (leNat data) }
  | 2 => { cl with wimem := ws.foldl (fun m e => putHalf m (a.first + e.2) e.1) cl.wimem }
  | 3 => { cl with micro := ws.foldl (fun m e => putHalf m (a.first + e.2) e.1) cl.micro }
  | 4 => { cl with w := (ws.drop 3).foldl (fun m e => tset m (e.2 - 3) e.1) cl.w }
  | 5 => ws.foldl (fun c e => c.store (a.first + e.2) ⟨e.1, 0⟩) cl
  | 6 => { cl with router := ws.foldl (fun m e => tset m (a.first + e.2) e.1) cl.router }
  | _ => cl

/-- A logical cluster as the image gives it: logical pitch and position (R304, R305). -/
def Load.image (l : Load) (lp j : Nat) : Cluster :=
  (l.recs.filter fun r => r.lpitch == lp && (locatorOf r.body).j == j).foldl (fun cl r => cl.loadPart r.part r.body) Cluster.reset

/-- The router at position 7 of a row holds an entry that drives an edge lane (R185); `p` is the module pitch. -/
def Load.drives (l : Load) (p didx step : Nat) : Bool :=
  (l.image (l.assign.idxOf p) 7).router.any fun e => let r := rentryOf e.1 e.2; r.valid && r.out == 5 && r.didx == didx && r.step == step

/-- One that takes an edge lane (R185). -/
def Load.takes (l : Load) (p sidx step : Nat) : Bool :=
  (l.image (l.assign.idxOf p) 7).router.any fun e => let r := rentryOf e.1 e.2; r.valid && r.src == 6 && r.sidx == sidx && r.step == step

/-- The physical column given to a position while the load is under way (R32, R316). -/
def State.loadCluster (s : State) (p j : Nat) : Nat :=
  9 * p + physCol (tget 8 s.load.latch ⟨.HS_PITCH_MAP, p, .SPARE_COL⟩) j

/-- The hop rank of a module for hop record `r`. -/
def Load.rankOf (l : Load) (m r : Nat) : Nat := 8 + (l.hopsOf m).idxOf r

/-- The entry that puts the bit into the port slot an entry reads (R184, R185): on the module beyond the hop, or on this one. DEDUCED (log 107), unsafe. -/
def Load.sender (l : Load) (m : Nat) (x : Xing) : Option (Nat × Nat × Xing) :=
  match (l.hopsOf m)[epPlace x.src - 8]? with
  | none => none
  | some r =>
    let m' := l.beyond m r
    let puts := fun (place budget : Nat) (e : Nat × Xing) => e.2.valid && (e.2.kind == 2 || e.2.kind == 4) && epPlace e.2.dst == place
      && epLane e.2.dst == epLane x.src && e.2.arr + budget == x.dep
    match (l.entriesOf m').find? (puts (l.rankOf m' r) (l.budgetOf r)) with
    | some e => some (m', l.budgetOf r, e.2)
    | none => ((l.entriesOf m).find? (puts (epPlace x.src) 0)).map fun e => (m, 0, e.2)

/-- An entry takes the port slot onward on the module beyond (R184, R185). -/
def Load.receiver (l : Load) (m : Nat) (x : Xing) : Bool :=
  match (l.hopsOf m)[epPlace x.dst - 8]? with
  | none => false
  | some r =>
    let m' := l.beyond m r
    (l.entriesOf m').any fun e => e.2.valid && (e.2.kind == 3 || e.2.kind == 4) && epPlace e.2.src == l.rankOf m' r
      && epLane e.2.src == epLane x.dst && e.2.dep == x.arr + l.budgetOf r

/-- Crossing kind, endpoints and step difference (R182, R183), on the translated entry. -/
def xingKindOk (x : Xing) : Bool :=
  let se := epPlace x.src < 8
  let de := epPlace x.dst < 8
  match x.kind with
  | 0 => se && de && (epPlace x.dst == (epPlace x.src + 1) % 8 || epPlace x.dst == (epPlace x.src + 7) % 8) && x.arr == x.dep + 12
  | 1 => se && de && x.arr == x.dep + 26
  | 2 => se && !de && x.arr == x.dep + 14
  | 3 => !se && de && x.arr == x.dep + 14
  | 4 => !se && !de && x.arr == x.dep + 2
  | _ => false

/-- The checks of order 6 on an entry of this module (R182, R183, R185, R726). -/
def State.xingOk (s : State) (hops : List Hop) (w : Inst80) : Bool :=
  let l := s.load
  let m := l.lmod.getD 0
  let x := xingOf w
  let slotOk := fun e => decide (epPlace e < 8) || (decide (epLane e < 256) && match hops[epPlace e - 8]? with
    | some h => decide (epLane e < usableSlots (s.rd .HN_STATUS h.port .RATE))
    | none => false)
  match s.loadEnd hops x.src, s.loadEnd hops x.dst with
  | some a, some b =>
    let y := { x with src := a, dst := b }
    bitsOf w.toNat 64 12 == 0 && xingKindOk y && decide (x.arr < l.head.steps) && slotOk x.src && slotOk x.dst
      && (if x.kind = 2 ∨ x.kind = 4 then decide (x.dmod < l.head.modules) else x.dmod == 0)
      && (if epPlace a < 8 then l.drives (epPlace a * 8 + epLane a / 64) (edgeDidx (edgeToward (epPlace a) (epPlace b) x.kind) (epLane a)) x.dep
          else (l.sender m x).isSome)
      && (if epPlace b < 8 then l.takes (epPlace b * 8 + epLane b / 64) (edgeDidx y.dstEdge (epLane b)) x.arr
          else l.receiver m x)
  | _, _ => false

/-- A RING entry whose E-dies are not placed as ring neighbours on the same sides (R31). -/
def State.ringBroken (s : State) (x : Xing) : Bool :=
  let a := epPlace x.src
  let b := epPlace x.dst
  x.valid && x.kind == 0 && decide (a < 8) && decide (b < 8) && match s.load.edgeEnd x.src, s.load.edgeEnd x.dst with
    | some p, some q => (b == (a + 1) % 8 && epPlace q != (epPlace p + 1) % 8) || (b == (a + 7) % 8 && epPlace q != (epPlace p + 7) % 8)
    | _, _ => false

/-- The translated entries of this module (R726), one word for each entry of the camp's range. -/
def State.loadXings (s : State) (hops : List Hop) : List Inst80 :=
  let l := s.load
  ((l.xings.filter fun r => r.mask.testBit (l.lmod.getD 0)).flatMap (·.entries)).map fun w =>
    let x := xingOf w
    if x.valid then
      let dmod := if x.kind = 2 ∨ x.kind = 4 then l.addrOf x.dmod else 0
      BitVec.ofNat 80 (x.dep + 2 ^ 12 * x.arr + 2 ^ 24 * (s.loadEnd hops x.src).getD 0 + 2 ^ 37 * (s.loadEnd hops x.dst).getD 0 + 2 ^ 50 * dmod
        + 2 ^ 58 * l.camp + 2 ^ 76 * x.kind + 2 ^ 79)
    else 0

/-- The base of the camp's range of the crossing table (R273). -/
def State.xingBase (s : State) (size : Nat) : Option Nat :=
  freeBase ((s.liveCamps fun c => c != s.load.camp).map fun c => ((s.camp c).xbase, (s.camp c).xsize)) 65536 size

/-- The steps an item has been on its way, over the whole path (R220). -/
def Load.pathSteps (l : Load) : Nat → Nat → Xing → Nat
  | 0, _, _ => 0
  | n + 1, m, x =>
    let own := match x.kind with
      | 0 => 12
      | 1 => 26
      | 4 => 2
      | _ => 14
    if x.kind = 3 ∨ x.kind = 4 then
      match l.sender m x with
      | some (m', b, y) => own + b + l.pathSteps n m' y
      | none => own
    else own

/-- D of the share of a logical pitch on an edge (R220); none where it receives no item. -/
def State.shareD (s : State) (lp edge : Nat) : Option Nat :=
  let l := s.load
  let p := l.assign.getD lp 0
  let m := l.lmod.getD 0
  ((l.entriesOf m).filter fun e => e.2.valid && (e.2.kind == 0 || e.2.kind == 1 || e.2.kind == 3) && (match l.edgeEnd e.2.dst with
      | some b => 8 * epPlace b + epLane b / 64 == p && edge == (if e.2.kind = 0 then edgeToward (epPlace b) (match l.edgeEnd e.2.src with | some a => epPlace a | none => 0) 0 else 0)
      | none => false)).foldl (fun d e => some (max (d.getD 0) (l.pathSteps (l.head.modules + 1) m e.2))) none

/-- The entries of the elastic pool of an edge (R219). -/
def poolSize : Nat := 16384

/-- The shares of the camp with their margins, not placed yet, and whether each receives an item (R219, R220). -/
def State.rawShares (s : State) : List (Share × Bool) :=
  let l := s.load
  let g := s.loadReach
  (List.range l.assign.length).flatMap fun lp => (List.range 3).map fun e =>
    let d := s.shareD lp e
    (⟨l.assign.getD lp 0, e, (tget [0, 0, 0] l.shares lp).getD e 0, g + d.getD 0, 0, none⟩, d.isSome)

/-- Two shares lie in the pool of one edge. -/
def Share.samePool (a b : Share) : Bool := a.pitch / 8 == b.pitch / 8 && a.edge == b.edge

/-- The shares of the other camps of the module. -/
def State.otherShares (s : State) : List Share := (s.liveCamps fun c => c != s.load.camp).flatMap fun c => (s.camp c).shares

/-- The shares of the camp placed in the pools of their edges in order, each at the lowest free position at which it fits (R272, R273), and whether each fits. -/
def State.loadShares (s : State) : List Share × Bool :=
  (s.rawShares.map (·.1)).foldl (fun (acc, fits) x =>
    let b := freeBase (((s.otherShares ++ acc).filter x.samePool).map fun y => (y.base, y.size)) poolSize x.size
    (acc ++ [{ x with base := b.getD 0 }], fits && b.isSome)) ([], true)

/-- The pool of some edge does not hold the camp's shares beside those of the other camps (R219). -/
def State.poolOver (s : State) : Bool :=
  let mine := s.rawShares.map (·.1)
  mine.any fun e => decide (poolSize < (((mine ++ s.otherShares).filter e.samePool).map (·.size)).sum)

/-- Check 9 (R219, R222): the pool of an edge, and 2 × M of a share that receives. -/
def State.shareFails (s : State) : Bool := s.rawShares.any (fun e => e.2 && decide (e.1.size < 2 * e.1.margin)) || s.poolOver

/-- The entries of a table that ends at word 65,535 of a cluster's memory (R354, R446): the count, and the entries. -/
def tableOf (cl : Cluster) : Nat × List Inst80 :=
  let w := fun a => (mread MemWord.clear cl.mem a).data
  let n := (w 65535).toNat
  (n, (List.range n).map fun k => BitVec.ofNat 80 ((w (65535 - 2 * n + 2 * k)).toNat + 2 ^ 40 * (w (65536 - 2 * n + 2 * k)).toNat))

/-- A deep-access entry within its ranges (R356). -/
def deepEntryOk (n budget : Nat) (w : Inst80) : Bool :=
  let f := deepOf w
  !f.valid || (budget != 0 && decide (f.issue < n) && decide (f.aw ≤ 24) && decide (64 ≤ f.aslot) && decide (f.aslot + f.aw ≤ 1024) && decide (64 ≤ f.dslot)
    && decide (f.dslot + 39 ≤ 1023) && (if f.write then f.due == 0 else decide (f.issue < f.due) && decide (f.due < n) && decide (budget ≤ f.due - f.issue)))

/-- The table of a logical pitch, at its position 0 for deep accesses (R354) and 1 for ports (R446). -/
def Load.table (l : Load) (lp j : Nat) : Nat × List Inst80 := tableOf (l.image lp j)

/-- The deep-access table of a logical pitch is within its ranges (R356). -/
def Load.deepTableOk (l : Load) (lp : Nat) : Bool :=
  let t := l.table lp 0
  decide (t.1 ≤ 256) && t.2.all (deepEntryOk l.head.steps l.head.budget)

/-- The port table of a logical pitch is within its ranges (R446); its pitch is the logical one here. -/
def Load.portTableOk (l : Load) (lp : Nat) : Bool :=
  let t := l.table lp 1
  let ports := (List.range l.dies.length).flatMap fun q => portsOf q (l.table q 1).2
  decide (t.1 ≤ 16) && t.2.all (fun w => !(w.toNat.testBit 79) || bitsOf w.toNat 50 29 == 0)
    && (portsOf lp t.2).all (fun x => decide (x.nin ≤ 16) && decide (x.nout ≤ 16) && decide (x.base + 2 + x.nin + x.nout ≤ 65535)
        && decide ((ports.filter fun y => y.port == x.port).length ≤ 1)
        && decide (((ports.filter fun y => y.pitch == x.pitch && y.j == x.j).map fun (y : Port) => (2 + y.nin + y.nout : Nat)).sum ≤ 64))

/-- The tables that are not within their ranges: each fails in the last record that writes memory of its cluster (R314). -/
def Load.tableFails (l : Load) : List HeldFail :=
  (List.range l.dies.length).flatMap fun lp =>
    let seg := fun (j : Nat) => ((l.recs.filter fun r => r.part == 5 && r.lpitch == lp && (locatorOf r.body).j == j).map (·.seg)).getLast?.getD 0
    (if l.deepTableOk lp then [] else [⟨2, seg 0, 0⟩]) ++ (if l.portTableOk lp then [] else [⟨2, seg 1, 0⟩])

/-- The design-memory pages of the camp, as pages of its region (R256). -/
def State.designPages (s : State) : List Nat :=
  let l := s.load
  (List.range l.own.size).filter fun q => (List.range l.assign.length).any fun lp => (l.table lp 0).2.any fun w =>
    let f := deepOf w
    f.valid && decide (f.page ≤ q) && decide (q < f.page + (8 * 2 ^ f.aw + 4095) / 4096)

/-- NEED (R281): the largest bound among the channels that hold the camp's design memory, in steps. -/
def State.dramNeed (s : State) : Nat :=
  let pages := s.designPages
  stepsOf (1000 * (((List.range 8).filter fun ch => pages.any fun q => (List.range 64).any fun i =>
    s.chanOf (4096 * (s.load.own.base + q) + 64 * i) == ch).foldl (fun m ch => max m (s.rd .DM_BOUND ch .NS)) 0)) s.loadTarget

/-- The signature of a cluster's schedule length and segment table (R278). -/
def schedSig (t : Nat × List Word) : List Byte := (sha384 (leBytes t.1 2 ++ t.2.flatMap fun w => leBytes w.toNat 5)).take 8

/-- The first logical cluster whose signature, or schedule length, differs (R278, check 3). -/
def Load.signatureFails (l : Load) : Option Nat :=
  (List.range l.clusters).find? fun c => match l.tables.find? fun e => e.1 == c with
    | some e => schedSig e.2 != l.head.sig || e.2.1 != l.head.steps
    | none => true

/-- A segment table in order (R40, R246). -/
def segTableOk (n : Nat) (t : List Word) : Bool :=
  let f := t.map fun w => bitsOf w.toNat 0 12
  decide (32 ≤ n) && decide (n ≤ 4096) && decide (t.length ≤ 256) && f.head? == some 0 && t.all (fun w => w.getLsbD 39 && bitsOf w.toNat 16 23 == 0)
    && f.all (fun x => decide (x < n)) && (f.zip (f.drop 1)).all fun e => decide (e.1 < e.2)

/-- The tag-0 steps of a schedule (R242). -/
def tagZeroSteps (segs : List Seg) (n : Nat) : Nat :=
  ((segs.zip ((segs.drop 1).map (·.first) ++ [n])).map fun e => if e.1.tag = 0 then e.2 - e.1.first else 0).sum

/-- LEAD (R242): the smallest value that covers the reach; 15 where none does. -/
def leadOf (t0 g : Nat) : Nat := ((List.range 16).find? fun l => decide (g ≤ l * (t0 + 16) + 16)).getD 15

/-- A router entry that no image may hold (R174, check order 2), at position `j`. -/
def routerEncBad (j : Nat) (w : Word) : Bool :=
  let r := rentryOf 0 w
  r.valid && (r.src == 7 || decide (5 < r.out) || (r.reg && (r.out == 0 || r.out == 5))
    || (match r.src with
      | 0 => decide (64 ≤ r.sidx)
      | 1 => decide (r.sidx < 64)
      | 6 => decide (192 ≤ r.sidx) || j != 7
      | p => decide (64 ≤ r.sidx) || (p == 4 && j == 7) || (p == 5 && j == 0))
    || (match r.out with
      | 0 => decide (r.didx < 64)
      | 5 => decide (192 ≤ r.didx) || j != 7
      | o => decide (64 ≤ r.didx) || (o == 3 && j == 7) || (o == 4 && j == 0)))

/-- A router entry that uses a vertical link where PLACE names no adjacent pitch (R173, R284 order 4). -/
def routerUnlinked (dies : List (Nat × Nat)) (lp : Nat) (w : Word) : Bool :=
  let r := rentryOf 0 w
  let up := (dies.getD lp (0, 0xFFFF)).2 != 0xFFFF
  let down := dies.any fun e => e.2 == lp
  r.valid && (((r.out == 1 || r.src == 2) && !up) || ((r.out == 2 || r.src == 3) && !down))

/-- An unregistered vertical hop (R178). -/
def routerSlow (w : Word) : Bool :=
  let r := rentryOf 0 w
  r.valid && (r.out == 1 || r.out == 2) && !r.reg

/-- The DIE values of the module's PLACE record, ascending: the die groups (R581). -/
def Load.groups (l : Load) : List Nat := (List.range 8).filter fun d => l.dies.any fun e => e.1 == d

/-- The E-die of die group `g`. -/
def Load.dieOf (l : Load) (g : Nat) : Nat := ((l.rows (l.groups.getD g 0)).headD 0) / 8

/-- An acquisition entry within its ranges (R606). -/
def Load.acqOk (l : Load) (e : AcqEntry) : Bool :=
  let gs := l.groups.length
  let v := e.value
  let lclOk := fun g => decide (bitsOf v 0 9 < l.clusters) && (l.dies.getD (bitsOf v 0 9 / 8) (8, 0)).1 == l.groups.getD g 9
  let chan := fun n => decide (e.index < n * gs)
  match e.kind with
  | 1 => chan 2048 && lclOk (e.index / 2048) && decide (v < 2 ^ 26)
  | 2 => chan 32 && lclOk (e.index / 32) && decide (v < 2 ^ 26) && (v.testBit 9 || decide (bitsOf v 10 16 < 16))
  | 3 => chan 32 && decide (v ≤ 2)
  | 4 => chan 32 && decide (v < 2 ^ 19) && bitsOf v 0 2 != 2 && (bitsOf v 0 2 != 3 || bitsOf v 2 16 != 0)
  | 8 => e.index == 0 && decide (v < 2 ^ 26)
  | 9 => e.index == 0 && decide (v < 2 ^ 26)
  | 10 => decide (e.index ≤ 1)
  | 11 => decide (e.index < 32) && (bitsOf v 0 3 != 1 || decide (bitsOf v 3 7 < 16 * gs)) && (bitsOf v 0 3 != 2 || decide (bitsOf v 3 7 < 8))
      && (bitsOf v 0 3 != 4 || decide (bitsOf v 3 7 < 16))
  | 12 => decide (e.index < 32)
  | 15 => decide (e.index < 8) && decide (bitsOf v 0 14 / 2048 < gs) && decide (bitsOf v 14 14 / 2048 < gs)
  | 16 => decide (e.index < 8) && decide (bitsOf v 0 14 / 2048 < gs)
  | 19 => decide (e.index < 64) && decide (bitsOf v 0 10 / 16 < l.dies.length)
  | k => if 5 ≤ k ∧ k ≤ 7 then chan 16 else decide (13 ≤ k) && decide (k ≤ 18) && decide (e.index < 8)

/-- Two cluster-memory word channels lie in one bank of one cluster (R580). -/
def acqBankClash (l : List AcqEntry) : Bool :=
  let m := (l.filter fun e => e.kind == 2 && e.value.testBit 9).map fun e => (bitsOf e.value 0 9, bitsOf e.value 10 16 % 8)
  decide (m.eraseDups.length < m.length)

/-- Numbers that entries of some kinds use of a die group's `n` items: the highest and one. -/
def Load.acqCount (l : Load) (n g : Nat) (kind : Nat → Bool) : Nat :=
  l.acq.foldl (fun m e => if kind e.kind && e.index / n == g then max m (e.index % n + 1) else m) 0

/-- What the loader gives a camp of the acquisition hardware (R273, R581, R589): its blocks of channels, comparator base by die group, decoder base, and unit. -/
structure AcqPlan where
  blocks : List AcqBlock
  cmps : List Nat
  dec : Nat
  unit : Option Nat
  deriving DecidableEq, Repr

/-- The intervals of indices below `n` whose register is owned. -/
def State.ownedItems (s : State) (r : RegName) (lo n : Nat) : List (Nat × Nat) :=
  ((List.range n).filter fun i => s.rd r (lo + i) .OWNED == 1).map fun i => (i, 1)

/-- The plan; none where something is short (R589, R602). -/
def State.acqPlan (s : State) : Option AcqPlan :=
  let l := s.load
  let cmp := fun k => decide (5 ≤ k) && decide (k ≤ 7)
  let blocks := (List.range l.groups.length).foldlM (fun acc g =>
    let d := l.dieOf g
    let bits := (l.acqCount 2048 g (fun k => k == 1) + 63) / 64 * 64
    let words := l.acqCount 32 g fun k => k == 2
    let on := s.acq.blocks.filter fun b => b.die == d
    match freeBase (on.map fun b => (b.bitBase, b.bits)) 2048 bits, freeBase (on.map fun b => (b.wordBase, b.words)) 32 words with
    | some b, some w => some (acc ++ [(⟨l.camp, g, d, b, bits, w, words⟩ : AcqBlock)])
    | _, _ => none) []
  let cmps := (List.range l.groups.length).foldlM (fun acc g =>
    (freeBase (s.ownedItems .ACQ_CMP_CFG (16 * l.dieOf g) 16) 16 (l.acqCount 16 g cmp)).map fun b => acc ++ [b]) []
  let dec := freeBase (s.ownedItems .ACQ_DEC_CFG 0 8) 8 (l.acq.foldl (fun m e => if 13 ≤ e.kind ∧ e.kind ≤ 18 then max m (e.index + 1) else m) 0)
  let pins := l.acq.all fun e => e.kind != 19 || s.rd .ACQ_LP e.index .OWNED == 0
  let wants := l.acq.any fun e => decide (8 ≤ e.kind) && decide (e.kind ≤ 12)
  let unit := (List.range 4).find? fun u => s.rd .ACQ_CTRL u .OWNED == 0
  match blocks, cmps, dec with
  | some b, some c, some d => if pins && (!wants || unit.isSome) then some ⟨b, c, d, if wants then unit else none⟩ else none
  | _, _, _ => none

/-- The last value that entries of a kind give; zero without one. -/
def Load.acqLast (l : Load) (kind : Nat) : Nat := l.acq.foldl (fun v e => if e.kind = kind then e.value % 2 ^ 26 else v) 0

/-- The ring of the unit runs past the camp's deep region, or the rings of the module exceed 64 GiB (R594). -/
def State.ringFails (s : State) : List HeldFail :=
  let l := s.load
  let seg := ((l.acq.filter fun e => e.kind == 8 || e.kind == 9).map (·.seg)).headD 0
  let others := ((List.range 4).filter fun u => s.rd .ACQ_CTRL u .OWNED == 1).map fun u => s.rd .ACQ_RING_SIZE u .PAGES
  (if l.head.deepPages.getD (l.lmod.getD 0) 0 < l.acqLast 8 + l.acqLast 9 then [⟨2, seg, 0⟩] else [])
    ++ (if 2 ^ 24 < others.sum + l.acqLast 9 then [⟨7, seg, 0⟩] else [])

/-- Failures of orders 2, 4, 6 and 7 that need the whole image (R185, R273, R280, R354): with the segment each is reported for. -/
def State.lateFails (s : State) : List HeldFail :=
  let l := s.load
  let own := l.xings.filter fun r => r.mask.testBit (l.lmod.getD 0)
  let last := l.segCount - 1
  let hops := s.loadHops
  let shares := s.loadShares
  let unjoined := (s.hopSteps.any Option.isNone)
  l.tableFails
    ++ (if unjoined then [⟨4, 0, 0⟩] else [])
    ++ (own.filter fun r => r.entries.any fun w => s.ringBroken (xingOf w)).map (fun r => ⟨4, r.seg, 0⟩)
    ++ (own.filter fun r => r.entries.any fun w => (xingOf w).valid && !s.xingOk hops.1 w).map (fun r => ⟨6, r.seg, 0⟩)
    ++ (if !hops.2 || (s.xingBase (s.loadXings hops.1).length).isNone || (!shares.2 && !s.poolOver) then [⟨7, last, 0⟩] else [])
    ++ s.ringFails ++ (if s.acqPlan.isNone then [⟨7, ((l.acq.map (·.seg)).headD last), 0⟩] else [])

/-- The failures considered together after END (R284, R314): the held ones, those of the records together, and orders 3, 8 and 9. -/
def State.endFails (s : State) : List HeldFail :=
  let l := s.load
  let last := l.segCount - 1
  let sig : List HeldFail := match l.signatureFails with
    | some c => [⟨3, last, c⟩]
    | none => []
  l.held ++ s.lateFails ++ sig
    ++ (if (l.head.hops.zip s.hopSteps).any (fun e => decide (e.1.2.2 < e.2.getD 0)) || (l.head.budget != 0 && decide (l.head.budget < s.dramNeed)) then [⟨8, last, 0⟩] else [])
    ++ (if s.shareFails then [⟨9, last, 0⟩] else [])

/-- The failure reported: the lowest order, the first found of it (R284, R314). -/
def lowestFail (l : List HeldFail) : Option HeldFail :=
  l.foldl (fun b h => match b with
    | none => some h
    | some x => if h.order < x.order then some h else some x) none

end Sys2Proof.Machine
end

