-- ==== Sys2Proof/Machine/Noc.lean ====
section
/-! DEFINITION. The on-package network (R477 to R503): routes, arbitration by class and age, the critical bound's counters, probes, fence doorbells, and what a closed port does with a packet (R492 to R498). -/

namespace Sys2Proof.Machine

/-- A change of the NoC. -/
def State.modNoc (s : State) (f : Noc → Noc) : State := { s with noc := f s.noc }

/-- NoC cycles since reset: three of 1.5 GHz to each tick of 2 ns (R201). -/
def State.nocCycle (s : State) : Nat := 3 * s.ticks

/-- The router a node is attached to (R477). -/
def nodeRouter (n : Nat) : Nat :=
  if n < 8 then n
  else if n < 16 then n - 8
  else if n < 32 then (n - 16) / 2
  else [0, 1, 1, 1, 2, 2, 2, 0, 3, 4, 5, 6, 7].getD (n - 32) 0

/-- The nodes attached to a router, in the order of R477. -/
def attachedTo (r : Nat) : List Nat := (List.range 45).filter fun n => nodeRouter n == r

/-- The input and output number of a node at its router: 0 to 2 are the clockwise, counter-clockwise and chord links. -/
def attachPort (n : Nat) : Nat := 3 + (attachedTo (nodeRouter n)).idxOf n

/-- The power domain of a node (R639). -/
def nodeDomain (n : Nat) : Nat :=
  if n < 8 then 64 + n
  else if n < 16 then 72 + (n - 8) / 2
  else if n < 32 then 78
  else if n = 32 then 76
  else if n < 39 then 77
  else if n = 43 then 79
  else 78

/-- The nodes of a power domain. -/
def domainNodes (d : Nat) : List Nat := (List.range 45).filter fun n => nodeDomain n == d

/-- The output at which a packet leaves a router (R478): at a hub router a link or the attachment of its node, at the bridge of an E-die the hub edge (0) or the die (1). -/
def nocOutput (r : Nat) (p : NocPkt) : Nat :=
  if 8 ≤ r then (if p.dst = r - 8 then 1 else 0)
  else
    match (nodeRouter p.dst + 8 - r) % 8 with
    | 0 => attachPort p.dst
    | 1 => 0
    | 2 => 0
    | 6 => 1
    | 7 => 1
    | _ => 2

/-- Where an output leads: the next router and its input, or none at an endpoint. -/
def nocNext (r out : Nat) (p : NocPkt) : Option (Nat × Nat) :=
  if 8 ≤ r then (if out = 0 then some (r - 8, attachPort (r - 8)) else none)
  else
    match out with
    | 0 => some ((r + 1) % 8, 0)
    | 1 => some ((r + 7) % 8, 1)
    | 2 => some ((r + 4) % 8, 2)
    | _ => if p.dst < 8 then some (8 + p.dst, 9) else none

/-- The effective class of a packet of an age (R484), from the intervals of classes 2 and 3. -/
def effClass (normal bulk cls age : Nat) : Nat :=
  let second := fun t => if normal ≠ 0 ∧ normal * 16 ≤ t then 1 else 2
  if cls ≤ 1 then cls
  else if cls = 2 then second age
  else if bulk ≠ 0 ∧ bulk * 16 ≤ age then second (age - bulk * 16)
  else 3

/-- The effective class of a packet now. -/
def State.effOf (s : State) (h : NocHeld) : Nat :=
  effClass (s.rd .NOC_AGE 0 .NORMAL) (s.rd .NOC_AGE 0 .BULK) h.pkt.cls (s.nocCycle - h.born)

/-- A packet as it may be injected: a node of R477 at each end, a network, a class, and class 1 on the snoop network (R477, R479, R482). -/
def pktOk (p : NocPkt) : Bool :=
  decide (p.src < 45) && decide (p.dst < 45) && decide (p.net < 4) && decide (p.cls < 4) && (p.net != 2 || p.cls == 1)

/-- A packet joins a buffer (R483). -/
def State.nocPush (s : State) (router net input cls : Nat) (h : NocHeld) : State :=
  s.modNoc fun n => { n with bufs := tmod [] n.bufs (router, net, input, cls) fun l => l ++ [h] }

/-- A packet is injected (R482): through the bridge of its E-die, or at the router of its node. -/
def State.nocEnter (s : State) (p : NocPkt) : State :=
  let s1 := if p.cls = 0 then s.modNoc fun n => { n with lastCrit := tset n.lastCrit (p.src, p.sport) s.nocCycle } else s
  if p.src < 8 then s1.nocPush (8 + p.src) p.net p.sport p.cls ⟨p, s.nocCycle⟩
  else s1.nocPush (nodeRouter p.src) p.net (attachPort p.src) p.cls ⟨p, s.nocCycle⟩

/-- An injection port has left its critical packets 16 cycles apart (R485). -/
def State.critReady (s : State) (p : NocPkt) : Bool :=
  match s.noc.lastCrit.find? fun e => e.1 == (p.src, p.sport) with
  | none => true
  | some e => decide (e.2 + 16 ≤ s.nocCycle)

/-- A packet is offered for injection (R486): a critical one that follows another too closely is held, and counted. A domain that is off sends nothing. -/
def State.nocOffer (s : State) (p : NocPkt) : State :=
  if !pktOk p || (s.rd .PW_DOM (nodeDomain p.src) .STATE != 2 && s.rd .PW_DOM (nodeDomain p.src) .STATE != 3) then s
  else if p.cls = 0 ∧ (s.critReady p = false ∨ s.noc.held.any (fun h => h.src == p.src && h.sport == p.sport) = true) then
    (s.modNoc fun n => { n with held := n.held ++ [p] }).bump .NOC_CRIT_HELD 0 .COUNT 1
  else s.nocEnter p

/-- Held critical packets whose spacing has passed are injected (R486). -/
def State.nocRelease (s : State) : State :=
  s.noc.held.foldl (fun t p => if t.critReady p then t.nocEnter p else t.modNoc fun n => { n with held := n.held ++ [p] }) (s.modNoc fun n => { n with held := [] })

/-- The clear of a pitch is under way (R153). -/
def State.pitchClearing (s : State) (p : Nat) : Bool := s.rd .CM_STATUS (9 * p) .CLEARING == 1

/-- A port is closed to a packet (R492, R493, R495): its domain is not ON, but for packets that were injected before the close and arrive after its cycle; an E-die's pitch opens after its wake clear. -/
def State.nocClosed (s : State) (h : NocHeld) : Bool :=
  let d := nodeDomain h.pkt.dst
  let st := s.rd .PW_DOM d .STATE
  if st = 2 then
    h.pkt.dst < 8 && h.pkt.dport < 8 && (!s.powered (8 * h.pkt.dst + h.pkt.dport) || s.pitchClearing (8 * h.pkt.dst + h.pkt.dport))
  else if st = 3 then
    match s.noc.closedAt.find? fun e => e.1 == h.pkt.dst with
    | some e => !(decide (h.born < e.2) && e.2 != s.nocCycle)
    | none => true
  else true

/-- The response of status DOMAIN_OFF that a node's router gives a request (R492). -/
def offReply (p : NocPkt) : NocPkt :=
  { p with net := 1, src := p.dst, dst := p.src, sport := p.dport, dport := p.sport, status := 0xA }

/-- A node's router answers a request with DOMAIN_OFF (R492). -/
def State.answerOff (s : State) (p : NocPkt) : State :=
  s.nocPush (nodeRouter p.dst) 1 (attachPort p.dst) p.cls ⟨offReply p, s.nocCycle⟩

/-- A packet is a request that expects a response (R489). -/
def pktAsks (p : NocPkt) : Bool := p.net == 0 && !p.posted

/-- A packet that the network gives up is logged (R492, R498): of several at once the one of the lowest node, then of the lowest source. -/
def State.logPd (s : State) (p : NocPkt) (forced : Nat) : State :=
  let node := s.rd .NOC_PD_LOG 0 .NODE
  s.logIn .NOC_PD_LOG 0 [s.nocCycle] [(.NODE, p.dst), (.SRC, p.src), (.FORCED, forced)] false
    (decide (p.dst < node) || (p.dst == node && decide (p.src < s.rd .NOC_PD_LOG 0 .SRC))) id

/-- A packet dropped at a closed port is counted and logged (R492). -/
def State.dropPacket (s : State) (p : NocPkt) : State := (s.bump .NOC_PD_DROPS 0 .COUNT 1).logPd p 0

/-- What a closed port does with a packet (R492 step 1). DEDUCED (log 82), unsafe. -/
def State.refusePacket (s : State) (p : NocPkt) : State := if pktAsks p then s.answerOff p else s.dropPacket p

/-- A packet reaches its node; a critical one after more than 120 ns is counted (R485, R487). -/
def State.deliverPacket (s : State) (h : NocHeld) : State :=
  let s1 := s.emit (.noc h.pkt)
  if h.pkt.cls = 0 ∧ 180 < s.nocCycle - h.born then s1.bump .NOC_CRIT_LATE 0 .COUNT 1 else s1

/-- A probe's oldest record and level as its registers show them (R503). -/
def State.showRing (s : State) (i : Nat) : State :=
  let l := tget [] s.noc.rings i
  let s1 := s.wr .NOC_PROBE_TR_CTRL i .LEVEL l.length
  match l with
  | [] => (s1.wrs .NOC_PROBE_TR_HDR i [(.SRC, 0), (.DST, 0), (.CLASS, 0), (.EFF, 0), (.SID, 0), (.KEY_ID, 0), (.VALID, 0)]).wr .NOC_PROBE_TR_ADDR i .ADDR 0
  | r :: _ => (s1.wrs .NOC_PROBE_TR_HDR i
      [(.SRC, r.src), (.DST, r.dst), (.CLASS, r.cls), (.EFF, r.eff), (.SID, r.sid), (.KEY_ID, r.key), (.VALID, 1)]).wr .NOC_PROBE_TR_ADDR i .ADDR r.addr

/-- A probe matches a packet (R500). -/
def State.probeMatch (s : State) (i : Nat) (p : NocPkt) : Bool :=
  let f := fun x => s.rd .NOC_PROBE_FILTER i x
  s.rd .NOC_PROBE_CFG i .EN == 1 && s.rd .NOC_PROBE_CFG i .NET == p.net && (s.rd .NOC_PROBE_CFG i .CLASS).testBit p.cls
    && ((f .SRC ^^^ p.src) &&& f .SRC_MASK) == 0 && ((f .DST ^^^ p.dst) &&& f .DST_MASK) == 0 && (f .SID_EN == 0 || f .SID == p.sid)

/-- A packet passes a probe's router (R501). -/
def State.probe (s : State) (i : Nat) (h : NocHeld) : State :=
  if s.probeMatch i h.pkt then
    match s.rd .NOC_PROBE_CFG i .MODE with
    | 3 =>
      let l := tget [] s.noc.rings i
      if 64 ≤ l.length then s.wr .NOC_PROBE_TR_CTRL i .LOST 1
      else
        let p := h.pkt
        (s.modNoc fun n => { n with rings := tset n.rings i (l ++ [⟨p.src, p.dst, p.cls, s.effOf h, p.sid, p.key, if p.key = 0 then p.addr else 0⟩]) }).showRing i
    | 2 =>
      let s1 := s.bump .NOC_PROBE_COUNT i .COUNT 1
      s1.wr .NOC_PROBE_AGE i .MAX (max (s1.rd .NOC_PROBE_AGE i .MAX) (min 0xFFFF (s.nocCycle - h.born)))
    | _ => s.bump .NOC_PROBE_COUNT i .COUNT 1
  else s

/-- The buffer heads of a router that want an output on a network: input, class, packet (R483). -/
def State.nocHeads (s : State) (router out net : Nat) : List (Nat × Nat × NocHeld) :=
  s.noc.bufs.filterMap fun e =>
    match e.2 with
    | [] => none
    | h :: _ => if e.1.1 == router && e.1.2.1 == net && nocOutput router h.pkt == out then some (e.1.2.2.1, e.1.2.2.2, h) else none

/-- One head goes before another (R483): lower effective class, then older, then lower input. -/
def State.nocBefore (s : State) (a b : Nat × Nat × NocHeld) : Bool :=
  let x := s.effOf a.2.2
  let y := s.effOf b.2.2
  decide (x < y) || (x == y && (decide (a.2.2.born < b.2.2.born) || (a.2.2.born == b.2.2.born && decide (a.1 < b.1))))

/-- The head that wins an output (R483). -/
def State.nocWinner (s : State) (router out net : Nat) : Option (Nat × Nat × NocHeld) :=
  (s.nocHeads router out net).foldl (fun w h => match w with
    | none => some h
    | some v => if s.nocBefore h v then some h else some v) none

/-- A packet moves one hop (R478, R492): to the next router, to its node, or against a closed port. -/
def State.nocMove (s : State) (router out : Nat) (h : NocHeld) : State :=
  let local_ := decide (router < 8) && decide (3 ≤ out)
  if (local_ || nocNext router out h.pkt == none) && s.nocClosed h then s.refusePacket h.pkt
  else match nocNext router out h.pkt with
    | some (r, i) => s.nocPush r h.pkt.net i h.pkt.cls h
    | none => s.deliverPacket h

/-- One arbitration of an output (R483, R487, R500). -/
def State.nocArbitrate (s : State) (router out net : Nat) : State :=
  match s.nocWinner router out net with
  | none => s
  | some (input, cls, h) =>
    let s1 := s.modNoc fun n => { n with bufs := tmod [] n.bufs (router, net, input, cls) fun l => l.drop 1 }
    let s2 := if cls = 0 then s1.modNoc fun n => { n with load := tmod 0 n.load (router, out, net) (· + 1) } else s1
    (s2.probe router h).nocMove router out h

/-- NOC_PACKET (R483): packets offered since the last move are injected, and the winner of one output of one network of a router moves a hop. -/
def execNocPacket (router out net : Nat) (injected : List NocPkt) (s : State) : Host.Outcome State Fault Refusal :=
  .next ((s.nocRelease.forEach injected State.nocOffer).nocArbitrate router out net)

/-- CRITICAL_WINDOW_END (R487). DEDUCED (log 61), unsafe. -/
def execCriticalWindowEnd (router : Nat) (s : State) : Host.Outcome State Fault Refusal :=
  let heavy := s.noc.load.any fun e => e.1.1 == router && decide (102 < e.2)
  let s1 := s.modNoc fun n => { n with load := n.load.filter fun e => e.1.1 != router }
  let v := s.rd .NOC_CRIT_STATUS 0 .OVER
  .next (if heavy = true ∧ v.testBit router = false then s1.wr .NOC_CRIT_STATUS 0 .OVER (v + 2 ^ router) else s1)

/-- PENDING shows the fences (R502). -/
def State.showFences (s : State) : State := s.wr .NOC_FENCE_STATUS 0 .PENDING s.noc.fences.length

/-- FENCE_DOORBELL (R491): up to four pend; a fifth is dropped. -/
def execFenceDoorbell (token : Nat) (s : State) : Host.Outcome State Fault Refusal :=
  if 4 ≤ s.noc.fences.length then .next (s.wr .NOC_FENCE_STATUS 0 .DROPPED 1)
  else
    let before := (s.deep.held.map (·.req)).filter fun r => r.src == 83 && r.data.isSome
    .next ((s.modNoc fun n => { n with fences := n.fences ++ [⟨token % 2 ^ 32, before, []⟩] }).showFences)

/-- FENCE_COMPLETE (R491, R696): the host writes received before the oldest fence have landed; its token is written, and the doorbells held behind it act in order. DEDUCED (log 60), safe. -/
def execFenceComplete (frozen : Nat) (s : State) : Host.Outcome State Fault Refusal :=
  match s.noc.fences with
  | [] => .next s
  | f :: rest =>
    if f.before.any (fun r => s.deep.held.any fun h => h.req == r) then .next s
    else
      let a := s.rd .NOC_FENCE_ADDR_LO 0 .ADDR + 2 ^ 40 * s.rd .NOC_FENCE_ADDR_HI 0 .ADDR
      let s1 := ((s.modNoc fun n => { n with fences := rest }).showFences).emit (.hostWrite a (leBytes f.token 4))
      .next (((s1.wr .NOC_FENCE_STATUS 0 .TOKEN f.token).irq 5).forEach f.bells fun t b => t.doorbell b.1 b.2.1 b.2.2 frozen)

/-- PROBE_POP (R503). -/
def execProbePop (probe : Nat) (s : State) : Host.Outcome State Fault Refusal :=
  s.asWrite .NOC_PROBE_TR_CTRL probe fun s =>
  .next ((s.modNoc fun n => { n with rings := tmod [] n.rings probe fun l => l.drop 1 }).showRing probe)

end Sys2Proof.Machine
end

