-- ==== Sys2Proof/Machine/Power.lean ====
section
/-! DEFINITION. Power domains (R639 to R642, R656): ON in order and spaced, OFF with its conditions, the drain of R492, and what a domain loses; the wake clear (R153). -/

namespace Sys2Proof.Machine

/-- A change of the power controller. -/
def State.modPower (s : State) (f : Power → Power) : State := { s with power := f s.power }

/-- The stagger in µs (R641, R661). -/
def State.staggerUs (s : State) : Nat := max 10 (min 1000 (s.rd .PW_STAGGER 0 .US))

/-- An ON command (R641, R656): accepted for a domain that is OFF, and waiting behind the drain of one that is DRAINING. DEDUCED (log 69), unsafe. -/
def State.domOn (s : State) (d : Nat) : State :=
  if 80 ≤ d ∨ s.power.shut.isSome = true then s
  else if s.domState d = 0 then (s.wr .PW_DOM d .STATE 1).modPower fun p => { p with queue := p.queue ++ [d] }
  else if s.domState d = 3 then s.modPower fun p => { p with again := d :: p.again.erase d }
  else s

/-- DOMAIN_ON (R639, R641). -/
def execDomainOn (dom : Nat) (s : State) : Host.Outcome State Fault Refusal :=
  s.asWrite .PW_DOM dom fun s => .next (s.domOn dom)

/-- DOMAIN_ON_START (R641): the first ON that waits begins, the stagger after the one before it. -/
def execDomainOnStart (sinceLast : Nat) (s : State) : Host.Outcome State Fault Refusal :=
  match s.power.queue with
  | [] => .next s
  | d :: rest =>
    if s.staggerUs ≤ sinceLast then .next (s.modPower fun p => { p with queue := rest, rising := d :: p.rising }) else .next s

/-- The two DRAM channels of a controller-pair domain (R639). -/
def pairChans (d : Nat) : List Nat := [2 * (d - 72), 2 * (d - 72) + 1]

/-- The domains that firmware switches on at boot, in the boot order of R639. -/
def State.bootDomains (s : State) : List Nat :=
  [76, 78, 72, 73, 74, 75, 77] ++ ((List.range 8).map (64 + ·)).filter fun d => !(s.part.isM4 && decide (68 ≤ d))

/-- The stored value of a DRAM delay (R649): its place in the configuration record. -/
def delaySlots : List TrainKey :=
  (List.range 8).flatMap fun c => (List.range 2).flatMap fun b => (List.range 8).flatMap fun p =>
    (List.range (if p < 4 then 5 else 1)).map fun l => ⟨c, p, b, l⟩

/-- Phase 3 begins (R651): with DRAM training in firmware mode the stored delays are taken where they are valid, and INIT begins on every channel. -/
def State.enterDram (s : State) (delays : List (TrainKey × Nat)) : State :=
  let s1 := s.wr .PW_STATUS 0 .PHASE 3
  if s.rd .DM_CTRL 0 .TRAIN_HOST = 1 then s1
  else (s1.modDeep fun d => { d with train := delays.foldl (fun l e => tset l e.1 e.2) d.train }).forEach (List.range 8) fun t c => t.startInit c

/-- A field of the configuration record (R649): zero where the record is not valid. -/
def State.conf (s : State) (o n : Nat) : Nat :=
  let c := s.flash.conf
  if leNat ((c.drop 0).take 4) = 0x51434647 ∧ c.length = 0x1000 ∧ crc32 (c.take 0xFFC) = leNat ((c.drop 0xFFC).take 4) then leNat ((c.drop o).take n)
  else 0

/-- A mode bit of the record (R649). -/
def State.mode (s : State) (i : Nat) : Bool := (s.conf 0xA 2).testBit i

/-- The delays that the record stores (R649); none where DELAYS_VALID is 0. -/
def State.storedDelays (s : State) : List (TrainKey × Nat) :=
  if s.mode 7 then delaySlots.zipIdx.map fun e => (e.1, s.conf (0x10 + 2 * e.2) 2) else []

/-- The cores as they are once their domain has woken (R428). -/
def State.resetCores (s : State) : State :=
  { s.forEach (List.range 16) (fun t k => (t.wr .CC_CTRL k .ENABLE 0).wr .CC_STATUS k .PSTATE 1) with
      cores := s.cores.map fun e => (e.1, { Core.reset with tr := e.2.tr }) }

/-- Firmware goes on to DRAM once every domain of the boot order is ON (R651). -/
def State.bootGoesOn (s : State) : State :=
  if s.rd .PW_STATUS 0 .PHASE = 2 ∧ s.bootDomains.all s.powered = true then s.enterDram s.storedDelays else s

/-- DOMAIN_ON_DONE (R640, R493): the rail is in regulation; a pitch begins its wake clear, and the ports of domain 77 begin to train. -/
def execDomainOnDone (dom : Nat) (s : State) : Host.Outcome State Fault Refusal :=
  if s.power.rising.contains dom then
    let s1 := (s.modPower fun p => { p with rising := p.rising.erase dom }).wr .PW_DOM dom .STATE 2
    let s2 :=
      if dom < 64 then s1.clearPitch dom
      else if 72 ≤ dom ∧ dom < 76 then
        ((s1.forEach (pairChans dom) fun t c => t.wr .DM_STATUS c .STATE 1).modTrace fun t => { t with pairsDown := t.pairsDown.erase (dom - 72) }).traceRoute
      else if dom = 77 then s1.forEach ((List.range 6).filter fun p => s.rd .HN_CTRL p .EN == 1) fun t p => t.startTraining p false
      else if dom = 78 then s1.resetCores
      else s1
    .next s2.bootGoesOn
  else .next s

/-- WAKE_CLEAR_END (R153): the clear that a wake began ends; one that a release or a failed load began ends with that. -/
def execWakeClearEnd (pitch : Nat) (s : State) : Host.Outcome State Fault Refusal :=
  let other := (s.load.failing.isSome && s.loadPitches.contains pitch)
    || (List.range 64).any fun c => (s.camp c).pend == some .unload && (s.campPitches c).contains pitch
  if pitch < 64 ∧ s.powered pitch = true ∧ other = false then .next (s.clearEnd pitch) else .next s

/-- The condition under which a domain may be switched off (R494, R639); `side` says that the command came from the test port or the SMBus. -/
def State.offAllowed (s : State) (d : Nat) (side : Bool) : Bool :=
  if d < 64 then (s.pitchCamp d).isNone && !(s.load.active && s.load.failing.isNone && s.load.own.pitches.testBit d)
  else if d < 72 then (List.range 8).all fun r => s.domState (8 * (d - 64) + r) == 0 || s.domState (8 * (d - 64) + r) == 4
  else if d < 76 then (pairChans d).all fun c => s.rd .DM_STATUS c .STATE != 3
  else if d = 76 then side
  else if d = 77 then (List.range 6).all (fun p => (s.liveCamps fun c => s.hopOnPort c p).isEmpty) && !(s.load.active && s.load.failing.isNone)
  else if d = 78 then (List.range 64).all (fun c => s.campState c == 0) && (List.range 16).all fun k => s.rd .CC_CTRL k .ENABLE == 0
  else false

/-- A dirty line of a data cache is written back (R416, R642): a write that is refused leaves what deep memory held before. -/
def State.writeBack (s : State) (k : Nat) (d : DLine) (o : DeepObs) : State :=
  match d.old with
  | none => s
  | some old =>
    let w := s.serve ⟨64 + k, d.key, 64 * d.line, 64, some (s.deepRead (64 * d.line) 64), false⟩ o
    let t := w.2.modCore k fun x => { x with dcache := x.dcache.map fun e => if e.line = d.line then { e with old := none } else e }
    if w.1.cause.isSome then { t with deep := t.deep.putBytes (64 * d.line) old } else t

/-- Every dirty line of every data cache is written back (R642). -/
def State.writeBackAll (s : State) : State :=
  s.forEach (List.range 16) fun t k => t.forEach (s.core k).dcache fun u d => u.writeBack k d DeepObs.clean

/-- The drain of a domain begins (R492 step 1): its nodes' ports close. -/
def State.beginDrain (s : State) (d : Nat) : State :=
  let s0 := if d = 78 then s.writeBackAll else s
  let s1 := (s0.wr .PW_DOM d .STATE 3).modNoc fun n => { n with closedAt := (domainNodes d).foldl (fun l k => tset l k s.nocCycle) n.closedAt }
  let s2 := s1.modPower fun p => { p with queue := p.queue.erase d, rising := p.rising.erase d }
  if 72 ≤ d ∧ d < 76 then (s2.modTrace fun t => { t with pairsDown := (d - 72) :: t.pairsDown }).traceRoute else s2

/-- An error of the power controller (R642, R661), signalled on vector 0 (R696). -/
def State.powerErr (s : State) : State := (s.wr .PW_STATUS 0 .ERR 1).irq 0

/-- An OFF command (R642). -/
def State.domOff (s : State) (d : Nat) (side : Bool) : State :=
  if 80 ≤ d ∨ s.domState d = 4 ∨ s.power.shut.isSome = true then s
  else if !s.offAllowed d side then s.powerErr
  else if s.domState d = 1 ∨ s.domState d = 2 then s.beginDrain d
  else s

/-- DOMAIN_OFF (R639, R642). DEDUCED (log 83), unsafe. -/
def execDomainOff (dom : Nat) (side : Bool) (s : State) : Host.Outcome State Fault Refusal :=
  s.asWrite .PW_DOM dom fun s => .next (s.domOff dom side)

/-- The host interface's own state at reset (R693): its registers, the MSI-X table and PBA, and the fence doorbells with what they hold. -/
def State.resetHostIf (s : State) : State :=
  ({ s with host := HostIf.reset, regs := s.regs.filter fun e => !([RegName.HI_BAR2_AP, .HI_IRQ_CAUSE, .HI_IRQ_EN, .HI_CAMP_IRQ, .HI_CH_VEC].contains e.1.reg) }.modNoc
    fun n => { n with fences := [] }).wr .NOC_FENCE_STATUS 0 .PENDING 0

/-- What a domain loses when it is switched off. DESIGN CHOICE (log 31), unsafe. -/
def State.domLoses (s : State) (d : Nat) : State :=
  if d < 64 then s.forEach (pitchSlots d) fun t k => (t.modCluster k fun cl => { cl.clear with reqs := [] }).wr .CM_STATUS k .CLEARING 0
  else if 72 ≤ d ∧ d < 76 then
    let s1 := (s.forEach (pairChans d) fun t c => t.wrs .DM_STATUS c [(.STATE, 0), (.OUTSTANDING, 0)]).sealPair (d - 72)
    let off := fun c => (pairChans d).contains c
    s1.modDeep fun m => { m with
      initing := m.initing.filter fun c => !off c, repairing := m.repairing.filter fun c => !off c, quiescing := m.quiescing.filter fun c => !off c,
      refreshing := m.refreshing.filter fun r => !off r.chan, rows := m.rows.filter fun e => !off e.1.chan,
      throttled := m.throttled.filter fun e => !off e.bank.chan, openRows := m.openRows.filter fun e => !off e.1.chan, rfm := m.rfm.filter fun e => !off e.1.chan, pulled := m.pulled.filter fun e => !off e.1,
      trainOp := m.trainOp.filter fun e => !off e.1, applied := m.applied.filter fun e => !off e.1.chan, modeRegs := m.modeRegs.filter fun e => !off e.1.1 }
  else if d = 76 then s.resetHostIf
  else if d = 77 then s.forEach (List.range 6) fun t p =>
    (((t.wrs .HN_STATUS p [(.STATE, 0), (.REPLAY, 0)]).wrs .MP_LINK_STATUS p [(.ENC, 0)]).modHn p fun h => { HnPort.reset with peer := h.peer }).setNbr p 0
  else if d = 78 then s.resetCores
  else s

/-- A domain is isolated and switched off (R492 step 3); an ON that waited takes its place in the order (R656). -/
def State.domIsOff (s : State) (d : Nat) : State :=
  let s1 := (s.domLoses d).wr .PW_DOM d .STATE 0
  if s.power.again.contains d then (s1.modPower fun p => { p with again := p.again.erase d }).domOn d else s1

/-- A packet is in flight to or from a node of a domain (R492). -/
def domPacket (d : Nat) (p : NocPkt) : Bool := nodeDomain p.src == d || nodeDomain p.dst == d

/-- Something is in flight to or from the nodes of a domain (R492), or waits at its channels. -/
def State.domBusy (s : State) (d : Nat) : Bool :=
  s.noc.held.any (domPacket d) || s.noc.bufs.any (fun b => b.2.any fun h => domPacket d h.pkt)
    || (decide (72 ≤ d) && decide (d < 76) && s.deep.held.any fun r => (pairChans d).contains (s.chanOf r.req.addr))

/-- POWER_DOWN_DRAIN_DONE (R492 steps 2 and 3). -/
def execPowerDownDrainDone (dom : Nat) (s : State) : Host.Outcome State Fault Refusal :=
  if s.domState dom = 3 ∧ s.domBusy dom = false then .next (s.domIsOff dom) else .next s

/-- The packets of a domain that are discarded (R492 step 4). -/
def State.domDiscards (s : State) (d : Nat) : List NocPkt :=
  (s.noc.held ++ s.noc.bufs.flatMap fun b => b.2.map (·.pkt)).filter (domPacket d)

/-- PD_TIMEOUT (R492 step 4): what is in flight is discarded, requests among it answered with DOMAIN_OFF, and the domain is switched off. -/
def execPdTimeout (dom : Nat) (s : State) : Host.Outcome State Fault Refusal :=
  if s.domState dom = 3 then
    let l := s.domDiscards dom
    let s1 := s.modNoc fun n => { n with held := n.held.filter (fun p => !domPacket dom p),
                                         bufs := n.bufs.map fun b => (b.1, b.2.filter fun h => !domPacket dom h.pkt) }
    let s2 := (s1.forEach (l.filter pktAsks) State.answerOff).bump .NOC_PD_DISCARD 0 .COUNT l.length
    let s3 := s2.forEach l fun t p => t.logPd p 1
    let lost := if 72 ≤ dom ∧ dom < 76 then s.deep.held.filter fun r => (pairChans dom).contains (s.chanOf r.req.addr) else []
    let s4 := s3.forEach lost fun t r => ((t.modDeep fun d => { d with held := d.held.erase r }).bump .NOC_PD_DISCARD 0 .COUNT 1).emit (.deepReply r.req.src (some 0xA) [])
    .next (s4.domIsOff dom)
  else .next s

end Sys2Proof.Machine
end

