-- ==== Sys2Proof/Machine/Boot.lean ====
section
/-! DEFINITION. Resets and switch-off (R638, R647, R655), the boot phases (R648 to R654), power limiting (R636, R645, R646), and the reference clock (R718, R719). -/

namespace Sys2Proof.Machine

/-- The units that the wear record marks failed (R674). -/
def failedUnits (l : List WearEntry) : List UnitId :=
  ((l.filter fun e => e.kind == 3 || e.kind == 4).map fun e => ⟨e.die, e.slot, e.unit⟩).eraseDups

/-- What registers show of the wear record and of failed units after a reset (R34, R674, R685). -/
def State.showHealth (s : State) : State :=
  let n := s.health.wear.length
  let s1 := s.wrs .HS_WEAR 0 [(.USED, min n 0xFFFF), (.FULL, bit (decide (wearMax ≤ n)))]
  s1.forEach (((s.health.failed.filter fun u => decide (u.die < 8)).map fun u => pitchOf (72 * u.die + u.slot)).eraseDups) State.refreshPitch

/-- The reference after a reset (R718): REFIN where REFSEL is 0 and edges are present. -/
def State.pickRef (s : State) (present : Bool) : State :=
  s.wrs .PW_REFCLK 0 [(.PRESENT, bit present), (.SRC, bit !(s.part.refsel % 2 == 0 && present)), (.LOST, 0)]

/-- Every domain but always-on is off and has lost what it held (R638, R655); keys, tokens, the challenge, the fallback buffer, flash and the wear record stay. Deep memory has no given contents. -/
def State.wipe (s : State) (keep : RegKey → Bool) : State :=
  { State.reset with
      pending := s.pending
      part := s.part
      regs := s.regs.filter fun e => keep e.1 || [RegName.MP_KEYSTATE, .TR_TOKEN, .TR_FB_STATUS].contains e.1.reg && e.1.fld != .ROLLING
      deep := { Deep.reset with sealed := [⟨0, dataEnd, s.draws, [], 0⟩] }
      keys := { s.keys with cmd := none, rolls := [] }
      trace := { TraceUnit.reset with fb := s.trace.fb, head := s.trace.head, domains := s.trace.domains, chal := s.trace.chal }
      health := { Health.reset with failed := s.health.failed, wear := s.health.wear, waiting := s.health.waiting, repairs := s.health.repairs }
      flash := s.flash
      power := { Power.reset with temps := s.power.temps }
      test := s.test
      out := s.out
      nextId := s.nextId
      ticks := s.ticks
      draws := s.draws + 1 }

/-- A module reset (R655): boot restarts at phase 1. It waits for the input while the module is held off, and nothing has left reset in phase 0. DEDUCED (log 70), unsafe. -/
def State.moduleReset (s : State) (last : Nat) : State :=
  if s.rd .PW_STATUS 0 .PHASE = 0 ∨ (s.power.shut.isSome = true ∧ s.power.shut ≠ some last) then s
  else
    let s1 := (s.wipe fun _ => false).pickRef (s.rd .PW_REFCLK 0 .PRESENT == 1)
    s1.showHealth.wrs .PW_STATUS 0 [(.PHASE, 1), (.LAST_RESET, last)]

/-- Registers of the blocks that the always-on domain still shows (R642). -/
def alwaysOnReg (k : RegKey) : Bool :=
  [RegName.PW_CTRL, .PW_STATUS, .PW_IN, .PW_STAGGER, .PW_TEMP, .PW_LIMIT_COUNT, .PW_FW_ADDR_LO, .PW_FW_ADDR_HI, .PW_FW_LEN, .PW_FW_STATUS, .PW_REFCLK,
   .ID_KEY_SEL, .ID_ERR_LOG, .ID_ERR_COUNT, .ID_ERR_OFFSET].contains k.reg && !(k.reg == .PW_FW_STATUS && k.fld == .BUSY)

/-- Every domain but always-on is switched off at once (R638, R647), until the module restarts with the LAST_RESET given. -/
def State.shutOff (s : State) (last : Nat) : State :=
  if s.rd .PW_STATUS 0 .PHASE = 0 ∨ s.power.shut.isSome = true then s
  else (s.wipe alwaysOnReg).showHealth.modPower fun p => { p with shut := some last }

/-- INPUT_BROWNOUT (R638). -/
def execInputBrownout (s : State) : Host.Outcome State Fault Refusal := .next (s.shutOff 2)

/-- INPUT_OVERVOLTAGE (R638). -/
def execInputOvervoltage (s : State) : Host.Outcome State Fault Refusal := .next (s.shutOff 3)

/-- THERMAL_SHUTDOWN (R647). -/
def execThermalShutdown (s : State) : Host.Outcome State Fault Refusal := .next (s.shutOff 4)

/-- INPUT_RECOVERY (R655): the restart after a brown-out or an overvoltage. -/
def execInputRecovery (s : State) : Host.Outcome State Fault Refusal :=
  match s.power.shut with
  | some n => .next (if n = 2 ∨ n = 3 then s.moduleReset n else s)
  | none => .next s

/-- THERMAL_COOLDOWN (R655). -/
def execThermalCooldown (s : State) : Host.Outcome State Fault Refusal :=
  .next (if s.power.shut = some 4 then s.moduleReset 4 else s)

/-- INPUT_POWER_REMOVED (R638, R655): only the flash with the wear record, and what was fixed at the factory, remain. -/
def execInputPowerRemoved (s : State) : Host.Outcome State Fault Refusal :=
  .next { State.reset with
    pending := s.pending
    part := s.part
    deep := { Deep.reset with sealed := [⟨0, dataEnd, s.draws, [], 0⟩] }
    health := { Health.reset with wear := s.health.wear }
    flash := s.flash
    out := s.out
    nextId := s.nextId
    ticks := s.ticks
    draws := s.draws + 1 }

/-- POWER_ON (R638, R651, R655, R674, R715): the tree key and TR_CHALLENGE are drawn, the set of failed units is rebuilt, the straps and the reference are taken. -/
def execPowerOn (refin : Bool) (s : State) : Host.Outcome State Fault Refusal :=
  if s.rd .PW_STATUS 0 .PHASE = 0 then
    let s1 := { s with keys := { s.keys with tree := s.draws }, trace := { s.trace with chal := s.draws + 1 }, draws := s.draws + 2,
                       health := { s.health with failed := failedUnits s.health.wear } }
    .next ((s1.pickRef refin).showHealth.wrs .PW_STATUS 0 [(.PHASE, 1), (.LAST_RESET, 0)])
  else .next s

/-- PW_RESET (R655). -/
def execPwReset (_f : PwFields) (s : State) : Host.Outcome State Fault Refusal :=
  s.asWrite .PW_CTRL 0 fun s => .next (s.moduleReset 1)

/-- Spare selections of failed units are made again when firmware starts in hardware mode (R675); the wear record holds them already. -/
def State.applySpares (s : State) : State :=
  if s.rd .HS_CTRL 0 .SPARE_HOST = 1 then s
  else
    let t := s.forEach (s.health.failed.foldr insertUnit []) State.selectSpare
    { t with health := s.health }.showHealth

/-- Firmware starts (R651): FB_ID, PW_STAGGER, CAP_W and the mode bits are written, and the boot domains are switched on in order. -/
def State.startFirmware (s : State) (slot rev : Nat) : State :=
  let s1 := (s.wr .PW_STATUS 0 .PHASE 2).wrs .PW_FW_STATUS 0 [(.SLOT, slot), (.REV, rev)]
  let id := s.conf 8 2
  let s2 := ((s1.setFbId (id % 256) (id.testBit 8)).wr .PW_STAGGER 0 .US (s.conf 0xC 2)).wr .PW_CTRL 0 .CAP_W (s.conf 0xE 2)
  let m := fun i => bit (s.mode i)
  let s3 := (s2.forEach (List.range 8) fun t c => t.wr .DM_CTRL c .TRAIN_HOST (m 0)).forEach (List.range 6) fun t p => t.wr .HN_CTRL p .EQ_HOST (m 1)
  let s4 := ((s3.wr .FB_CTRL 0 .ROUTE_HOST (m 2)).wr .TM_CTRL 0 .SERVO_HOST (m 3)).wrs .HS_CTRL 0 [(.SCRUB_HOST, m 4), (.SPARE_HOST, m 5)]
  (s4.applySpares.forEach s.bootDomains State.domOn).bootGoesOn

/-- The slot that BOOT_SLOT names (R649). DEDUCED (log 71), unsafe. -/
def State.bootSlot (s : State) : Nat := if s.conf 5 1 = 1 then 1 else 0

/-- A firmware slot's bytes (R648). -/
def State.fwSlot (s : State) (i : Nat) : List Byte := if i = 1 then s.flash.slot1 else s.flash.slot0

/-- RECOVERY begins (R651, R652): the ROM switches on domain 76. -/
def State.enterRecovery (s : State) : State := ((s.wr .PW_STATUS 0 .PHASE 6).domOn 76).irq 0

/-- ROM_VERIFY_DONE (R650, R651): the slot that BOOT_SLOT names, then the other. -/
def execRomVerifyDone (s : State) : Host.Outcome State Fault Refusal :=
  if s.rd .PW_STATUS 0 .PHASE = 1 ∧ s.power.shut = none then
    let a := s.bootSlot
    match verifyFw s.part (s.fwSlot a), verifyFw s.part (s.fwSlot (1 - a)) with
    | .inr rev, _ => .next (s.startFirmware a rev)
    | .inl _, .inr rev => .next (s.startFirmware (1 - a) rev)
    | .inl _, .inl _ => .next s.enterRecovery
  else .next s

/-- The configuration record with bytes put in place and its CRC made anew (R649); a record that was not valid begins as zeros. -/
def State.putConf (s : State) (o : Nat) (b : List Byte) : State :=
  let c0 := if s.conf 0 4 = 0x51434647 then s.flash.conf else leBytes 0x51434647 4 ++ [1] ++ List.replicate 0xFFB 0
  let c1 := (c0.take o ++ b ++ c0.drop (o + b.length)).take 0xFFC
  { s with flash := { s.flash with conf := c1 ++ leBytes (crc32 c1) 4 } }

/-- The rows queued for repair are repaired (R677): a KIND 6 entry each, and their contents are lost. -/
def State.bootRepairs (s : State) : State :=
  if s.rd .HS_CTRL 0 .SPARE_HOST = 1 then s
  else
    let s1 := s.forEach s.health.repairs fun t r =>
      (t.loseRow ⟨r.1, r.2.1, r.2.2.1⟩ r.2.2.2).wearAdd 6 ⟨8, r.1, r.2.1⟩ r.2.2.2
    { s1 with health := { s1.health with repairs := [] } }

/-- A QUIESCED channel is activated with its bound (R342, R651). -/
def State.bootActivate (s : State) (c bound : Nat) : State :=
  let s1 := if s.rd .DM_BOUND c .NS = 0 then s.wr .DM_BOUND c .NS bound else s
  if s1.dmState c = 2 ∧ s1.rd .DM_BOUND c .NS ≠ 0 then s1.wr .DM_STATUS c .STATE 3 else s1

/-- DRAM_PHASE_DONE (R651): `delays` are those that firmware training found, in the record's order, and `bounds` its DM_BOUND values. -/
def execDramPhaseDone (delays bounds : List Nat) (s : State) : Host.Outcome State Fault Refusal :=
  let all := fun (f : Nat → Bool) => (List.range 8).all f
  if s.rd .PW_STATUS 0 .PHASE ≠ 3 then .next s
  else if !all (fun c => s.dmState c != 4) then .next ((s.wr .PW_STATUS 0 .PHASE 7).irq 0)
  else if s.rd .DM_CTRL 0 .TRAIN_HOST = 1 then .next (if all fun c => s.dmState c == 1 then s.wr .PW_STATUS 0 .PHASE 4 else s)
  else if !all (fun c => (s.dmState c == 2 || s.dmState c == 3) && !s.dmBusy c) then .next s
  else
    let l := delaySlots.zipIdx.map fun e => (e.1, delays.getD e.2 0 % 65536)
    let s1 := if s.mode 7 then s
      else (s.modDeep fun d => { d with train := l.foldl (fun x e => tset x e.1 e.2) d.train, applied := l.foldl (fun x e => tset x e.1 e.2) d.applied }).putConf 0x10
        (l.flatMap fun e => leBytes e.2 2)
    let s2 := if s.mode 7 then s1 else s1.putConf 0xA (leBytes (s.conf 0xA 2 % 128 + 128) 2)
    let s3 := (s2.bootRepairs.forEach (List.range 8) fun t c => t.bootActivate c (bounds.getD c 0))
    .next (if (List.range 8).all fun c => s3.dmState c == 3 then s3.wr .PW_STATUS 0 .PHASE 4 else s3)

/-- A lantern pin as sensed (R603): the crossing time in ps, none for no crossing. -/
def State.sensePin (s : State) (i : Nat) (t : Option Nat) : State :=
  match t with
  | none => s.wrs .ACQ_LP i [(.LOAD, 3), (.SHORT, 1)]
  | some x =>
    let load := if x < 1000 then 0 else if x < 2500 then 1 else if x < 6000 then 2 else 3
    s.wrs .ACQ_LP i [(.LOAD, load), (.DRIVE, load), (.SHORT, 0)]

/-- PINS_PHASE_DONE (R603, R651): the module is loadable. -/
def execPinsPhaseDone (times : List (Option Nat)) (s : State) : Host.Outcome State Fault Refusal :=
  if s.rd .PW_STATUS 0 .PHASE = 4 then
    .next (((s.forEach (List.range 64) fun t i => t.sensePin i (times.getD i none)).wrs .PW_STATUS 0 [(.PHASE, 5), (.READY, 1)]).irq 0)
  else .next s

/-- RECOVERY_STREAM_VERIFIED (R651): the stream received in RECOVERY is written to slot 0, and boot restarts at phase 1. -/
def execRecoveryStreamVerified (s : State) : Host.Outcome State Fault Refusal :=
  match s.rd .PW_STATUS 0 .PHASE, verifyFw s.part s.load.stream with
  | 6, .inr _ =>
    let s1 := ({ s with flash := { s.flash with slot0 := s.load.stream } }.putConf 5 [0]).modLoad fun l => { l with stream := [] }
    .next (s1.wr .PW_STATUS 0 .PHASE 1)
  | _, _ => .next s

/-- The read-write fields of PW_CTRL (R661). -/
def State.pwFields (s : State) (f : PwFields) : State := s.wrs .PW_CTRL 0 [(.CAP_W, f.capW), (.HYST_W, f.hystW), (.TEMP_LIM, f.tempLim)]

/-- FW_PROGRAM (R654): by the firmware, which runs in phases 2 to 5 and 7; one at a time. -/
def execFwProgram (f : PwFields) (s : State) : Host.Outcome State Fault Refusal :=
  s.asWrite .PW_CTRL 0 fun s =>
  let ph := s.rd .PW_STATUS 0 .PHASE
  let s1 := s.pwFields f
  if 2 ≤ ph ∧ ph ≠ 6 ∧ s.power.prog = none ∧ s.power.shut = none then
    let addr := s.rd .PW_FW_ADDR_LO 0 .ADDR + 2 ^ 40 * s.rd .PW_FW_ADDR_HI 0 .ADDR
    let len := s.rd .PW_FW_LEN 0 .BYTES
    .next (((s1.wr .PW_FW_STATUS 0 .BUSY 1).modPower fun p => { p with prog := some (addr, len) }).emit (.hostRead addr len))
  else .next s1

/-- A firmware slot is written (R648). -/
def State.putSlot (s : State) (i : Nat) (b : List Byte) : State :=
  { s with flash := if i = 1 then { s.flash with slot1 := b } else { s.flash with slot0 := b } }

/-- FW_PROGRAM_DONE (R654, R661): `ok` and `bytes` are what the host read gave, `flash` whether the flash took the write; a slot whose write failed has no given contents. -/
def execFwProgramDone (ok : Bool) (bytes : List Byte) (flash : Bool) (s : State) : Host.Outcome State Fault Refusal :=
  match s.power.prog with
  | none => .next s
  | some (_, len) =>
    let s1 := (s.modPower fun p => { p with prog := none }).wr .PW_FW_STATUS 0 .BUSY 0
    let b := bytes.take len
    let slot := 1 - s.bootSlot
    let done := fun (t : State) (r : Nat) => t.wr .PW_FW_STATUS 0 .RESULT r
    if ok = false then .next (done s1 4)
    else if 2 ^ 24 < len then .next (done s1 1)
    else match verifyFw s.part b with
      | .inl e => .next (done s1 e)
      | .inr _ =>
        if flash then .next (done ((s1.putSlot slot b).putConf 5 (leBytes slot 1)) 0)
        else .next (done { s1.putSlot slot ((List.range b.length).map (Config.sealedByte s.draws)) with draws := s.draws + 1 } 5)

/-- A port is in training (R506). -/
def State.portTrains (s : State) (p : Nat) : Bool := decide (1 ≤ s.hnState p) && decide (s.hnState p ≤ 7)

/-- REFIN_LOSS (R718, R725): the on-board oscillator takes over, and a training in progress fails with REF_MISMATCH. -/
def execRefinLoss (s : State) : Host.Outcome State Fault Refusal :=
  let s1 := s.wr .PW_REFCLK 0 .PRESENT 0
  if s.rd .PW_REFCLK 0 .SRC = 0 then
    .next ((s1.wrs .PW_REFCLK 0 [(.SRC, 1), (.LOST, 1)]).forEach ((List.range 6).filter s.portTrains) fun t p => t.failTraining p 3)
  else .next s1

/-- REFIN_RETURN (R719). -/
def execRefinReturn (s : State) : Host.Outcome State Fault Refusal := .next (s.wr .PW_REFCLK 0 .PRESENT 1)

/-- USE_IN (R718, R719): refused while PRESENT is 0. -/
def execUseIn (outEn : Bool) (s : State) : Host.Outcome State Fault Refusal :=
  s.asWrite .PW_REFCLK 0 fun s =>
  let s1 := s.wr .PW_REFCLK 0 .OUT_EN (bit outEn)
  .next (if s.rd .PW_REFCLK 0 .PRESENT = 1 then s1.wr .PW_REFCLK 0 .SRC 0 else s1.wr .PW_REFCLK 0 .CMD_ERR 1)

/-- USE_LOCAL (R719). -/
def execUseLocal (outEn : Bool) (s : State) : Host.Outcome State Fault Refusal :=
  s.asWrite .PW_REFCLK 0 fun s =>
  .next ((s.wr .PW_REFCLK 0 .OUT_EN (bit outEn)).wr .PW_REFCLK 0 .SRC 1)

/-- MR4_TEMPERATURE_CHANGE (R348, R351): HOT follows the devices; the refresh interval and the row-disturbance window follow HOT. -/
def execMr4TemperatureChange (chan : Nat) (hot : Bool) (s : State) : Host.Outcome State Fault Refusal :=
  .next (s.wr .DM_STATUS chan .HOT (bit hot))

/-- The effective limit L in W (R636): the envelope of R11, or CAP_W where that is lower. -/
def State.powerLimit (s : State) (vavg : Nat) : Nat :=
  let env := min 1500 (36 * vavg / 100)
  let cap := s.rd .PW_CTRL 0 .CAP_W
  if cap = 0 then env else min env cap

/-- The hottest die and its temperature (R661). -/
def hottest (l : List Nat) : Nat × Nat := l.zipIdx.foldl (fun b e => if b.1 < e.1 then e else b) (0, 0)

/-- A camp's level changes (R224, R646, R657): under a POWER_LIMIT STALL. -/
def State.setLevel (s : State) (c j : Nat) : State :=
  ((s.wr .PW_CAMP c .LEVEL j).bump .PW_LIMIT_COUNT 0 .COUNT 1).raiseStall c 8 88 none

/-- The RUNNING camps whose clock the controller may move (R645). -/
def State.movable (s : State) : List Nat := (List.range 64).filter fun c => s.campState c == 3 && s.rd .RUN_CAMP_STATUS c .RAMPING == 0

/-- The sensors' values show (R636, R637, R661). -/
def State.showSensors (s : State) (o : PowerObs) : State :=
  let h := hottest o.temps
  let s1 := (s.wrs .PW_IN 0 [(.VIN, o.vin), (.IIN, o.iin), (.PIN, o.pin)]).wrs .PW_TEMP 0 [(.HOT, h.1), (.DIE, h.2)]
  let s2 := s1.wrs .PW_STATUS 0 [(.ILIM, bit o.ilim), (.HI_ENV, bit (decide (150000 < 36 * o.vavg))), (.L_W, s.powerLimit o.vavg)]
  (s2.forEach o.rails fun t r => t.wrs .PW_DOM r.1 [(.MV, r.2.1), (.CURR, r.2.2)]).modPower fun p => { p with temps := o.temps }

/-- POWER_CONTROL_INTERVAL (R636, R637, R645, R646, R658). -/
def execPowerControlInterval (o : PowerObs) (s : State) : Host.Outcome State Fault Refusal :=
  let s1 := s.showSensors o
  let l := s.powerLimit o.vavg
  let hot := decide (s.rd .PW_CTRL 0 .TEMP_LIM < (hottest o.temps).1)
  let target := fun c => s.rd .RUN_CAMP_TARGET c .MHZ
  let level := fun c => s.rd .PW_CAMP c .LEVEL
  if o.ilim || hot || decide (l < o.pin) then
    .next ((s1.forEach (s.movable.filter fun c => decide (250 ≤ levelMhz (target c) (level c + 1))) fun t c => t.setLevel c (level c + 1)).modPower
      fun p => { p with quiet := 0 })
  else if o.pin + s.rd .PW_CTRL 0 .HYST_W ≤ l then
    if s.power.quiet + 1 = 10 then
      .next ((s1.forEach (s.movable.filter fun c => decide (0 < level c)) fun t c => t.setLevel c (level c - 1)).modPower fun p => { p with quiet := 0 })
    else .next (s1.modPower fun p => { p with quiet := p.quiet + 1 })
  else .next (s1.modPower fun p => { p with quiet := 0 })

end Sys2Proof.Machine
end

