-- ==== Sys2Proof/Machine/Guyline.lean ====
section
/-! DEFINITION. Elastic buffers, asynchronous FIFOs and the guyline's messages as they arrive (R204 to R238, R286, R541 to R543, R551). -/

namespace Sys2Proof.Machine

/-- A FIFO of the module. -/
def State.fifo (s : State) (f : FifoId) : Fifo := tget Fifo.empty0 s.fifos f

/-- A FIFO changed. -/
def State.modFifo (s : State) (f : FifoId) (g : Fifo → Fifo) : State := { s with fifos := tmod Fifo.empty0 s.fifos f g }

/-- The 16-bit identity of a FIFO (R211). -/
def fifoCode (f : FifoId) : Nat := 4096 * (f.cls % 16) + 256 * (f.unit % 16) + f.inst % 256

/-- Items of a camp have been lost in the cycle in progress (R209). DEDUCED (log 33), unsafe. -/
def State.itemsLost (s : State) (c d : Nat) (f : FifoId) : State :=
  let s1 := (s.modCamp c fun x => { x with dataLost := true }).faultArrives c d
  if s.rd .GL_FIFO_LOG 0 .VALID = 1 ∧ s.rd .GL_FIFO_LOG 0 .FIFO_ID = fifoCode f then s1.wr .GL_FIFO_LOG 0 .DATA_LOST 1 else s1

/-- The STALLs of late items that a die group raised end, each once no item of its kind is late at its pitch (R186, R217). -/
def State.releaseLate (s : State) (c d frozen : Nat) : State :=
  match (s.group c d).pos with
  | .step n =>
    let late := s.lateXings c d n
    s.releaseStalls c ((s.camp c).stalls.filter fun t =>
      t.module == s.ownAddr && (t.cause == 1 || t.cause == 2 || t.cause == 3) && t.island / 8 == d
        && !late.any fun e => e.pitch == t.island && (e.cause == 1) == (t.cause == 1)) frozen
  | .bnd _ => s

/-- CROSSING_ITEM_ARRIVE (R209, R219, R221): an item reaches its elastic buffer; a buffer that is reset discards it. -/
def execCrossingItemArrive (camp dst arr frozen : Nat) (s : State) : Host.Outcome State Fault Refusal :=
  match (s.camp camp).flight.find? fun t => t.dst == dst && t.arr == arr with
  | none => .next s
  | some t =>
    let d := epPlace dst
    let f : FifoId := ⟨0, d, t.edge⟩
    let s1 := s.modCamp camp fun x => { x with flight := x.flight.erase t }
    if (s.fifo f).reset then .next (s1.itemsLost camp d f)
    else
      let first := some ((s.camp camp).cycle.toNat, arr)
      let s2 := s1.modCamp camp fun x =>
        { x with items := x.items ++ [t],
                 lost := x.lost.map fun e => if e.1 = (d, t.edge) ∧ e.2 = (true, none) then (e.1, (true, first)) else e }
      .next ((s2.raiseHigh camp d t.edge).releaseLate camp d frozen)

/-- Gray code (R204). -/
def gray (n : Nat) : Nat := n ^^^ (n / 2)

/-- The depth of a FIFO (R204): 16,384 of an elastic buffer (R219); of the others the implementation's, as no rule gives it. -/
def fifoDepth (f : FifoId) : Nat := if f.cls = 0 then 16384 else 2 ^ Config.fifoBits (fifoCode f)

/-- FULL (R204, R205): the write pointer is one depth ahead of the read pointer as the write side sees it. -/
def Fifo.isFull (q : Fifo) (depth : Nat) : Bool := q.rseen == gray ((q.wptr + depth) % (2 * depth))

/-- EMPTY (R204, R205): the write pointer as the read side sees it is the read pointer. -/
def Fifo.isEmpty (q : Fifo) : Bool := q.wseen == gray q.rptr

/-- The pointers of a FIFO pass to their far sides (R204, R205), each unless its synchroniser still shows an older one. -/
def Fifo.sync (q : Fifo) (wlate rlate : Bool) : Fifo :=
  { q with wseen := if wlate then q.wseen else gray q.wptr, rseen := if rlate then q.rseen else gray q.rptr }

/-- An item is stored. -/
def Fifo.push (q : Fifo) (depth x : Nat) : Fifo := { q with items := q.items ++ [x], wptr := (q.wptr + 1) % (2 * depth) }

/-- The oldest item is taken. -/
def Fifo.pop (q : Fifo) (depth : Nat) : Fifo :=
  match q.items with
  | [] => { q with taken := none }
  | x :: l => { q with items := l, taken := some x, rptr := (q.rptr + 1) % (2 * depth) }

/-- A write while FULL: ignored, counted and logged (R206, R237). -/
def State.fifoOverrun (s : State) (id : FifoId) : State :=
  ((s.modFifo id fun f => { f with overrun := true }).bump .GL_OVERRUN_COUNT 0 .COUNT 1).logEvent .GL_OVERRUN_LOG 0 [(.FIFO_ID, fifoCode id)] fun t => t

/-- FIFO_WRITE (R205 to R207, R237): ignored and logged while FULL. `late` says that the write side still sees an older read pointer. A FIFO that is reset takes the item behind those it sends again, an elastic buffer discards it. DESIGN CHOICE (log 32), safe. -/
def execFifoWrite (id : FifoId) (x : Nat) (late : Bool) (s : State) : Host.Outcome State Fault Refusal :=
  let n := fifoDepth id
  let s1 := s.modFifo id fun f => f.sync true late
  let q := s1.fifo id
  if q.reset then
    if id.cls = 0 then .next s1
    else if n ≤ q.resend.length then .next (s1.fifoOverrun id)
    else .next (s1.modFifo id fun f => { f with resend := f.resend ++ [x] })
  else if q.isFull n then .next (s1.fifoOverrun id)
  else .next (s1.modFifo id fun f => f.push n x)

/-- FIFO_READ (R205, R206): nothing while EMPTY. `late` says that the read side still sees an older write pointer. -/
def execFifoRead (id : FifoId) (late : Bool) (s : State) : Host.Outcome State Fault Refusal :=
  let s1 := s.modFifo id fun f => f.sync late true
  .next (s1.modFifo id fun f => if f.isEmpty then { f with taken := none } else f.pop (fifoDepth id))

/-- A camp passes a hub-switch input (R208, R211): that of an E-die, or with a non-zero INSTANCE that of a Halnal port. -/
def State.passesHub (s : State) (c unit inst : Nat) : Bool :=
  (s.campXings c).any fun e => e.2.kind != 0 && epPlace e.2.src == (if inst = 0 then unit else 8 + unit)

/-- The camps that a FIFO serves (R208), among those RUNNING, PAUSED or LOADED. -/
def State.served (s : State) (f : FifoId) : List Nat :=
  (List.range 64).filter fun c =>
    (s.campState c == 2 || s.campState c == 3 || s.campState c == 4) &&
    match f.cls with
    | 0 => (s.camp c).shares.any fun sh => sh.pitch / 8 == f.unit && sh.edge == f.inst && sh.size != 0
    | 1 => s.hopOnPort c f.unit
    | 2 => s.hopOnPort c f.unit
    | 3 => s.passesHub c f.unit f.inst
    | 4 => (s.campPitches c).contains (8 * f.unit + f.inst / 2)
    | 5 => (s.camp c).deepTab.any fun e => e.2.any fun w => (deepOf w).valid
    | 6 => true
    | 9 => if f.unit < 8 then (s.campDies c).contains f.unit else true
    | _ => false

/-- The island code of a FIFO's reset (R226); the spec gives none for the hub switch, the host interface and the guyline nodes, and the value is open. DESIGN CHOICE (log 85), safe. -/
def State.fifoIsland (s : State) (f : FifoId) : Nat :=
  match f.cls with
  | 0 => 64 + f.unit
  | 1 => 80 + f.unit
  | 2 => 80 + f.unit
  | 4 => 8 * f.unit + f.inst / 2
  | 5 => 72 + f.unit
  | 6 => 86
  | 8 => 87
  | _ => s.openAt 0 % 256

/-- A FIFO's reset for one camp (R207, R209): its STALL, and for an elastic buffer the loss of the items that stood in it. -/
def State.resetFor (s : State) (f : FifoId) (isl c : Nat) : State :=
  let st : Stall := ⟨s.nextId, 0xC, isl, none, s.ownAddr⟩
  let s1 := (s.raiseStall c 0xC isl none).modFifo f fun q => { q with held := q.held ++ [(c, st)] }
  if f.cls = 0 then
    let gone := (s1.camp c).items.any fun t => epPlace t.dst == f.unit && t.edge == f.inst
    let s2 := s1.modCamp c fun x =>
      { x with items := x.items.filter fun t => !(epPlace t.dst == f.unit && t.edge == f.inst),
               lost := tset x.lost (f.unit, f.inst) (false, none) }
    if gone then s2.itemsLost c f.unit f else s2
  else s1

/-- FIFO_PTR_MISMATCH (R207 to R210, R229, R521): the FIFO is reset, logged, and the camps it serves stall. A port's receive FIFO asks the far end for a replay. -/
def execFifoPtrMismatch (id : FifoId) (side : Bool) (s : State) : Host.Outcome State Fault Refusal :=
  let q := s.fifo id
  let camps := s.served id
  let isl := s.fifoIsland id
  let s1 := s.modFifo id fun f => { f with items := [], taken := none, wptr := 0, rptr := 0, wseen := 0, rseen := 0, reset := true,
                                           resend := if id.cls = 0 ∨ id.cls = 1 then [] else f.items ++ f.resend,
                                           again := if id.cls = 0 ∨ id.cls = 1 then 0 else f.items.length + f.again }
  let s2 := (s1.bump .GL_FIFO_COUNT 0 .COUNT 1).logEvent .GL_FIFO_LOG 0
    [(.FIFO_ID, fifoCode id), (.CAMP, camps.headD 0), (.SIDE, bit side), (.DATA_LOST, 0), (.NO_CAMP, bit camps.isEmpty)]
    fun t => t.wr .GL_FIFO_CYCLE 0 .CYCLE (match camps with | [] => 0 | c :: _ => (s.camp c).cycle.toNat)
  let s3 := (s2.forEach camps fun t c => t.resetFor id isl c).draw
  if id.cls = 1 ∧ q.items.isEmpty = false then
    .next (((s3.modHn id.unit fun h => { h with expect := h.expect - q.items.length }).wr .HN_STATUS id.unit .REPLAY 1).sendNak id.unit)
  else .next s3

/-- FIFO_REPRIME (R207, R209, R210, R481): what had not been read is there again, and the STALLs end. -/
def execFifoReprime (id : FifoId) (frozen : Nat) (s : State) : Host.Outcome State Fault Refusal :=
  let q := s.fifo id
  if q.reset then
    let s1 := s.modFifo id fun f =>
      { f with items := f.resend, wptr := f.resend.length % (2 * fifoDepth id), resend := [], again := 0, reset := false, held := [] }
    let s2 := if id.cls = 6 then s1.bump .NOC_RESEND 0 .COUNT q.again else s1
    let s3 := if id.cls = 0 then s2.forEach (q.held.map (·.1)) fun t c => t.modCamp c fun x =>
        { x with lost := x.lost.map fun e => if e.1 = (id.unit, id.inst) then (e.1, (true, none)) else e }
      else s2
    .next (s3.forEach q.held.zipIdx fun t e => t.releaseStall e.1.1 e.1.2 (if (q.held.take e.2).any (fun h => h.1 == e.1.1) then 0 else frozen))
  else .next s

/-- A copy of a guyline message has been applied (R542), or is this module's own come back. -/
def State.heard (s : State) (c kind origin id : Nat) (port : Option Nat) : Bool :=
  (s.camp c).seen.contains (kind, origin, id) || (port.isSome && origin == s.ownAddr)

/-- A message is noted as applied. -/
def State.hear (s : State) (c kind origin id : Nat) : State := s.modCamp c fun x => { x with seen := x.seen ++ [(kind, origin, id)] }

/-- STALL (R213, R215, R218, R228, R541, R542). -/
def execStall (camp : Nat) (st : Stall) (port : Option Nat) (s : State) : Host.Outcome State Fault Refusal :=
  if s.heard camp 1 st.module st.id port ∨ s.campState camp = 0 ∨ s.campState camp = 1 then .next s
  else .next (((s.hear camp 1 st.module st.id).guylineOut camp port (.stall st)).applyStall camp st)

/-- RELEASE (R213, R216, R227, R542); after it, a die group whose item has come may run on. -/
def execRelease (camp module id : Nat) (port : Option Nat) (frozen : Nat) (s : State) : Host.Outcome State Fault Refusal :=
  if s.heard camp 2 module id port then .next s
  else .next (((s.hear camp 2 module id).guylineOut camp port (.release module id)).applyRelease camp module id frozen)

/-- A step count that differs from this module's own (R286): a fault of that cycle, logged once. -/
def State.stepMismatch (s : State) (c cyc island own other module : Nat) : State :=
  s.contractEvent c cyc 1 island 0 fun t => t.wrs .RUN_CONTRACT_STEPS c [(.OWN, own), (.OTHER, other), (.MODULE, module)]

/-- A fault summary carries a fault (R95, R697): it is signalled with HALT_ON_FAULT = 0, and decides the halt at the end of the cycle with 1. -/
def State.summaryFault (s : State) (c : Nat) : State :=
  if s.rd .RUN_CAMP_CTRL c .HALT_ON_FAULT = 0 then s.campIrq c .fault
  else s.modCamp c fun x => { x with haltAt := some (x.haltAt.getD 2) }

/-- The BOUNDARY_SYNC STALLs of this module end once every die group holds the vector and the fault decision (R44). -/
def State.releaseSync (s : State) (c frozen : Nat) : State :=
  let cyc := (s.camp c).cycle.toNat
  let ok := s.decisionHeld c && (s.campDies c).all fun d => (s.group c d).applied || (s.group c d).queue.any fun e => e.1 == cyc
  if ok then s.releaseCause c 0xA none frozen else s

/-- The camp stands before step 0 of a cycle that has not begun. -/
def State.betweenCycles (s : State) (c : Nat) : Bool := (s.campDies c).all fun d => (s.group c d).pos == .step 0 && !(s.group c d).applied

/-- A BOUNDARY of another module is applied (R44, R213, R242, R286, R541). -/
def State.applyBoundary (s : State) (c : Nat) (m : BoundaryMsg) (frozen : Nat) : State :=
  let own := (s.camp c).summaries.find? fun x => x.module == s.ownAddr && x.cycle == m.cycle
  let bad := own.any fun x => x.steps != m.steps
  let logged := own.any fun x => x.bad
  let s1 := s.modCamp c fun x =>
    { x with summaries := (x.summaries.map fun y => if y.module = s.ownAddr ∧ y.cycle = m.cycle then { y with bad := y.bad || bad } else y)
                            ++ [⟨m.module, m.cycle, m.fault, m.steps, false⟩] }
  let s2 := match m.vec with
    | some v => s1.queueVector c v.1 v.2
    | none => s1
  let s3 := if bad && !logged then s2.stepMismatch c m.cycle 255 ((own.map (·.steps)).getD 0) m.steps m.module else s2
  let s4 := if m.fault || bad then s3.summaryFault c else s3
  let hof := s.rd .RUN_CAMP_CTRL c .HALT_ON_FAULT = 1
  if (m.fault || bad) = true ∧ hof ∧ s.campState c = 3 ∧ m.cycle + 1 = (s.camp c).cycle.toNat ∧ s.betweenCycles c = true then s4.haltNow c 2 false
  else (s4.releaseSync c frozen).haltIfFrozen c

/-- BOUNDARY. -/
def execBoundary (camp : Nat) (msg : BoundaryMsg) (port : Option Nat) (frozen : Nat) (s : State) : Host.Outcome State Fault Refusal :=
  if s.heard camp 3 msg.module msg.cycle port ∨ msg.module = s.ownAddr ∨ s.spans camp = false then .next s
  else .next (((s.hear camp 3 msg.module msg.cycle).guylineOut camp port (.boundary msg)).applyBoundary camp msg frozen)

/-- GUYLINE_HALT (R542, R543). -/
def execGuylineHalt (camp cause module : Nat) (port : Option Nat) (s : State) : Host.Outcome State Fault Refusal :=
  let cyc := (s.camp camp).cycle.toNat
  if s.heard camp 0 module cyc port then .next s
  else .next (((s.hear camp 0 module cyc).guylineOut camp port (.halt module cause)).haltHeard camp cause)

/-- RELOCK_DONE (R224). -/
def execRelockDone (camp frozen : Nat) (s : State) : Host.Outcome State Fault Refusal := .next (s.releaseCause camp 8 (some 88) frozen)

end Sys2Proof.Machine
end

