-- ==== Sys2Proof/Machine/Boundary.lean ====
section
/-! DEFINITION. The boundary steps B0 to B15 of a design cycle (R43): commit, summary and vector, sample, record exchange, snapshot point, and the end of the cycle. -/

namespace Sys2Proof.Machine

/-- Every die group of a RUNNING camp stands at boundary step `n` and none is frozen. DEDUCED (log 20), unsafe. -/
def State.atBnd (s : State) (c n : Nat) : Bool :=
  s.campState c == 3 && s.rd .RUN_CAMP_STATUS c .RAMPING == 0 && (s.campDies c).all fun d => (s.group c d).pos == .bnd n && !s.frozen c d

/-- A BP at B0 (R76): marked addresses take their shadow values and the marks clear; at the next cycle's first step its line reads 0 (R69). That a read of it there raises RECV_UNDRIVEN whatever the BP drove at the last step of the cycle before is the model's choice: R69 gives only the value. DESIGN CHOICE (log 90), unsafe. -/
def Bp.commit (b : Bp) : Bp := { b with state := (b.state &&& ~~~b.marks) ||| (b.shadow &&& b.marks), marks := 0, line := none, drive := none }

/-- A cluster at B0 (R76, R114, R133, R166, R167). -/
def Cluster.commit (cl : Cluster) : Cluster :=
  { (cl.modAllBps Bp.commit).mulFlush with fresh := 0, lanes := [], slots := [], done := [], wrote := [], ticked := none, busy := [] }

/-- What has not been taken in the cycle is gone at B0 (R166, R248, R359); an edge whose re-primed buffer has had its first position is whole again (R209). -/
def Camp.closeCycle (x : Camp) : Camp :=
  { x with flight := [], items := [], reads := [], issues := x.issues.filter (fun i => i.data.isSome), toPort := [],
           lost := x.lost.filter fun e => match e.2 with
             | (true, some (cyc, _)) => decide (x.cycle.toNat < cyc)
             | _ => true }

/-- A step count of the cycle that differs from that of the camp's first die group (R286): island, count and module; other die groups first, then the summaries received. DEDUCED (log 97), unsafe. -/
def State.otherSteps (s : State) (c : Nat) : Option (Nat × Nat × Nat) :=
  let own := (s.group c ((s.campDies c).headD 0)).ran
  match (s.campDies c).find? fun d => (s.group c d).ran != own with
  | some d => some (s.groupIsland c d, (s.group c d).ran, s.ownAddr)
  | none => ((s.camp c).summaries.find? fun m => m.cycle == (s.camp c).cycle.toNat && m.module != s.ownAddr && m.steps != own).map
      fun m => (255, m.steps, m.module)

/-- B0 (R43, R76, R95, R239, R242, R286): commit, fault summary, edge vector. A fault raised from here on belongs to the next cycle. -/
def State.commitCycle (s : State) (c : Nat) : State :=
  let cyc := (s.camp c).cycle.toNat
  let own := (s.group c ((s.campDies c).headD 0)).ran
  let s1 := (s.forEach (s.campClusters c) fun t k => t.modCluster k fun cl => cl.commit.advanceDrains 1).chargeSteps c 1
  let diff := s.otherSteps c
  let s2 := match diff with
    | some (island, steps, module) => s1.stepMismatch c cyc island own steps module
    | none => s1
  let fault := diff.isSome || (s.campDies c).any fun d => (s.group c d).fault
  let s3 := if fault then s2.summaryFault c else s2
  let m := cyc + 1 + s.rd .DC_CTRL c .LEAD
  let r := s3.makeVector c m
  let s4 := if s.isHome c then r.2.queueVector c m r.1 else r.2
  let s5 := (s4.modCamp c fun x => { x.closeCycle with summaries := x.summaries ++ [⟨s.ownAddr, cyc, fault, own, diff.isSome⟩] }).forEach (s.campDies c) fun t d => t.modGroup c d fun g => { g with fault := false }
  (s5.guylineOut c none (.boundary ⟨s.ownAddr, cyc, fault, own, if s.isHome c then some (m, r.1) else none⟩)).toBnd c 1

/-- SHADOW_COMMIT. -/
def execShadowCommit (camp : Nat) (s : State) : Host.Outcome State Fault Refusal :=
  .next (if s.atBnd camp 0 then s.commitCycle camp else s)

/-- FAULT_FLAGS_CLOSE (R43): B1. The flags of the cycle were taken at B0, and what has been raised since stands for the next. -/
def execFaultFlagsClose (camp : Nat) (s : State) : Host.Outcome State Fault Refusal :=
  .next (if s.atBnd camp 1 then (s.advance camp 1).toBnd camp 2 else s)

/-- ACQUISITION_SAMPLE (R579): B2. -/
def execAcquisitionSample (camp : Nat) (s : State) : Host.Outcome State Fault Refusal :=
  .next (if s.atBnd camp 2 then ((s.acqSample camp).advance camp 1).toBnd camp 3 else s)

/-- RECORD_EXCHANGE (R449, R457): B3 to B10, where a wait of the exchange freezes the camp; given again there, it ends an exchange that has been held up. -/
def execRecordExchange (camp : Nat) (s : State) : Host.Outcome State Fault Refusal :=
  if s.atBnd camp 3 then
    let s1 := s.advance camp 7
    .next (if s.replays camp then s1.replayExchange camp else s1.liveExchange camp)
  else .next (if s.atBnd camp 10 then (s.settle camp 0).leaveB10 camp else s)

/-- The armed snapshot's point is B11 of the cycle in progress (R251). -/
def State.pointNow (s : State) (c : Nat) : Bool :=
  s.snapState c == 1 && match (s.camp c).snap.target with
    | none => true
    | some t => t == (s.camp c).cycle.toNat

/-- SNAPSHOT_POINT (R87, R253): B11. -/
def execSnapshotPoint (camp : Nat) (s : State) : Host.Outcome State Fault Refusal :=
  if s.atBnd camp 11 then
    let s1 := s.advance camp 1
    .next ((if s.pointNow camp then s1.takePoint camp false else s1).toBnd camp 12)
  else .next s

/-- The camp enters PAUSED at the boundary it stands at: DC_VECTOR shows the next cycle's vector (R265). -/
def State.pauseNow (s : State) (c : Nat) : State :=
  let g := s.group c ((s.campDies c).headD 0)
  let s1 := (((s.modCamp c Camp.drop).wr .RUN_CAMP_STATUS c .CMD_PENDING 0).restDrains c).enter c 4
  match g.queue.find? fun e => e.1 == (s.camp c).cycle.toNat with
  | some (_, v) => s1.wrs .DC_VECTOR c [(.CUR, v.toNat), (.PREV, g.cur.toNat)]
  | none => s1

/-- Comparison of the cycle that has just ended asks for a pause (R263). -/
def State.divergedAt (s : State) (c cyc : Nat) : Bool :=
  s.replays c && s.rd .DC_REPLAY_CTRL c .PAUSE_ON_DIVERGE == 1 && s.rd .DC_REPLAY_CTRL c .DIVERGED == 1
    && s.rd .DC_REPLAY_DIVERGE c .CYCLE == cyc % 2 ^ 40

/-- What takes effect at a boundary (R47, R55, R57, R262, R263, R727). Where a pending STEP takes effect at the boundary at which an earlier STEP's count ends, the new count runs and the camp does not pause: the model's choice. DESIGN CHOICE (log 89), unsafe. -/
def State.boundaryEffect (s : State) (c cyc : Nat) : State :=
  let x := s.camp c
  match s.decidedBy c false with
  | some k => s.haltNow c k false
  | none =>
    if (s.replays c && s.rd .DC_REPLAY_CTRL c .LOG_END == 1) || s.divergedAt c cyc then s.pauseNow c
    else match x.pend with
      | some .pause => s.pauseNow c
      | some (.step n) => (s.wr .RUN_CAMP_STATUS c .CMD_PENDING 0).modCamp c fun y => { y with pend := none, stepLeft := some n }
      | _ => match x.stepLeft with
        | some n => if n ≤ 1 then s.pauseNow c else s.modCamp c fun y => { y with stepLeft := some (n - 1) }
        | none => s

/-- B12 to B15 (R43, R88, R566, R602): drains, the cycle count, design time, the pins, and what waits for the boundary. -/
def State.endCycle (s : State) (c : Nat) : State :=
  let x := s.camp c
  let cyc := x.cycle.toNat
  let s1 := if s.snapState c = 2 ∧ x.snap.count ≤ cyc then s.forEach (s.campClusters c) fun t k => t.modCluster k Cluster.fallback else s
  let inc := x.dtNext.getD x.dtInc
  let s2 := (s1.advance c 4).modCamp c fun y =>
    { y with cycle := y.cycle + 1, dtInc := inc, dtNext := none, dtime := (y.dtime + inc) % 2 ^ 96, dataLost := false,
             accs := y.accs.filter fun e => decide (cyc < e.1),
             summaries := y.summaries.filter fun m => decide (cyc < m.cycle + 18),
             seen := y.seen.filter fun m => m.1 == 1 || m.1 == 2 || decide (cyc < m.2.2 + 18) }
  let s3 := s2.forEach (s.campDies c) fun t d => t.modGroup c d fun g => { g with pos := .step 0, applied := false, ran := 0 }
  let s4 := (s3.lanternDrive c).boundaryEffect c cyc
  if s4.campState c = 5 then s4 else s4.takeEarly c

/-- CYCLE_END. -/
def execCycleEnd (camp : Nat) (s : State) : Host.Outcome State Fault Refusal :=
  .next (if s.atBnd camp 12 then s.endCycle camp else s)

end Sys2Proof.Machine
end

