-- ==== Sys2Proof/Machine/Keys.lean ====
section
/-! DEFINITION. Key commands, key rolls and MP_RANGE entries (R373 to R379, R392 to R394, R405). -/

namespace Sys2Proof.Machine

/-- A change of the key store. -/
def State.modKeys (s : State) (f : KeyStore → KeyStore) : State := { s with keys := f s.keys }

/-- Some camp of a key ID is in one of the states (R379, R392). -/
def State.keyCamp (s : State) (k : Nat) (f : Nat → Bool) : Bool :=
  (List.range 64).any fun c => s.campState c != 0 && s.rd .RUN_CAMP_STATUS c .KEY_ID == k && f (s.campState c)

/-- A key command ends with a result (R399). -/
def State.keyDone (s : State) (result : Nat) : State :=
  (s.wrs .MP_KEY_CMD 0 [(.BUSY, 0), (.RESULT, result)]).modKeys fun k => { k with cmd := none }

/-- Pages are initialised (R375): zero contents, counters and MACs anew. -/
def State.initPages (s : State) (base pages key : Nat) (roll : Bool) : State :=
  let out := fun p => decide (p < base) || decide (base + pages ≤ p)
  s.modDeep fun d =>
    { d.clear (4096 * base) (4096 * (base + pages)) with
        majors := d.majors.filter fun e => out e.1
        minors := d.minors.filter fun e => out (e.1 / 64)
        badLines := d.badLines.filter fun e => out (e.1 / 64)
        inits := d.inits ++ [⟨base, pages, key, roll⟩] }

/-- The intervals of pages of the first range that lie outside the second: base and pages. -/
def minusRange (b n b2 n2 : Nat) : List (Nat × Nat) :=
  (if b < min (b + n) b2 then [(b, min (b + n) b2 - b)] else [])
    ++ (if max b (b2 + n2) < b + n then [(max b (b2 + n2), b + n - max b (b2 + n2))] else [])

/-- Every channel that holds a part of a region serves the writes of its initialisation (R343, R375). DEDUCED (log 79), safe. -/
def State.initServed (s : State) (r : RegionInit) : Bool :=
  (List.range r.pages).all fun q => (List.range 64).all fun i => (s.chanFault (s.chanOf (4096 * (r.base + q) + 64 * i))).isNone

/-- The intervals of pages owned by a key ID (R373): base and pages. -/
def State.ownedBy (s : State) (k : Nat) : List (Nat × Nat) :=
  ((s.regionCamps.filter fun c => s.rd .RUN_CAMP_STATUS c .KEY_ID == k).map fun c => ((s.camp c).deepBase, (s.camp c).deepPages))
    ++ ((s.validRanges.filter fun r => s.rd .MP_RANGE_BASE r .KEY_ID == k).map fun r => (s.rd .MP_RANGE_BASE r .BASE, s.rd .MP_RANGE_SIZE r .PAGES))

/-- The mark, among the damage a roll clears, of an overflow of the poison list (R389). -/
def overflowMark : Node := ⟨7, 0⟩

/-- A roll begins (R393, R330, R405, R630): new keys, re-encryptions of the key ID aborted, every page of it initialised. -/
def State.startRoll (s : State) (k : Nat) : State :=
  let damage := s.deep.poison.map (·.1) ++ s.deep.frozen ++ (if s.rd .MP_POISON 0 .OVERFLOW = 1 then [overflowMark] else [])
  let s1 := ((s.draw.draw.wr .MP_KEYSTATE k .ROLLING 1).modKeys fun x =>
    { x with keys := tmod ⟨[], [], 0, 0⟩ x.keys k fun y => { y with data := s.draws, mac := s.draws + 1 }, rolls := x.rolls ++ [(k, damage)] })
  let s2 := s1.forEach (s.deep.reenc.filter fun p => s.pageOwner p == k) fun t p => t.endReenc p 0
  let s3 := s2.forEach (s.ownedBy k) fun t e => t.initPages e.1 e.2 k true
  let s4 := s3.forEach (List.range 16) fun t i => t.modCore i fun x => { x with dcache := x.dcache.filter fun l => l.key != k }
  ((s4.loadKeyEvent [k]).lapseTokens k).serveHeld

/-- INSTALL (R379, R399): refused while a camp of the key ID is not UNLOADED; otherwise the blob at MP_KEY_ADDR is read. DESIGN CHOICE (log 109), safe. -/
def execInstall (target : Nat) (s : State) : Host.Outcome State Fault Refusal :=
  s.asWrite .MP_KEY_CMD 0 fun s =>
  let k := target % 256
  if s.rd .MP_KEY_CMD 0 .BUSY = 1 then .next s
  else
    let s1 := s.wr .MP_KEY_CMD 0 .TARGET k
    if k ≠ 0 ∧ s.keyCamp k (fun _ => true) = true then .next (s1.wr .MP_KEY_CMD 0 .RESULT 2)
    else .next (((s1.wr .MP_KEY_CMD 0 .BUSY 1).modKeys fun x => { x with cmd := some (1, k) }).emit
      (.hostRead (s.rd .MP_KEY_ADDR_LO 0 .ADDR + 2 ^ 40 * s.rd .MP_KEY_ADDR_HI 0 .ADDR) 256))

/-- What a key blob holds (R377, R378): the 136 unwrapped bytes, none where it is invalid. -/
def State.unwrap (s : State) (k : Nat) (b : List Byte) : Option (List Byte) :=
  let num := fun lo n => leNat ((b.drop lo).take n)
  if b.length ≠ 256 ∨ num 0 4 ≠ 0x51534B42 ∨ num 4 1 ≠ k ∨ num 5 1 ≠ 1 ∨ num 6 2 ≠ 0 ∨ num 0x69 7 ≠ 0 then none
  else
    (ecdh Config.deviceKey ((b.drop 8).take 97)).bind fun z =>
      keyUnwrap (kdf z (ascii "QSRKWRAP") (leBytes (s.rd .LD_SERIAL 0 .SERIAL) 5 ++ leBytes k 1)) ((b.drop 0x70).take 144)

/-- The keys of a blob are installed; a key ID that had none is rolled (R379). DEDUCED (log 58), unsafe. -/
def State.installKeys (s : State) (k : Nat) (u : List Byte) : State :=
  if k = 0 then (s.modKeys fun x => { x with fabric := some (u.take 32) }).keyDone 0
  else
    let had := s.rd .MP_KEYSTATE k .INSTALLED == 1
    let s1 := (s.modKeys fun x => { x with keys := tmod ⟨[], [], 0, 0⟩ x.keys k fun y => { y with load := u.take 32, sign := (u.drop 32).take 97 } }).wr
      .MP_KEYSTATE k .INSTALLED 1
    if had then (s1.lapseTokens k).keyDone 0 else s1.startRoll k

/-- KEY_BLOB_READ_DONE (R377 to R379). -/
def execKeyBlobReadDone (ok : Bool) (blob : List Byte) (s : State) : Host.Outcome State Fault Refusal :=
  match s.keys.cmd with
  | some (1, k) =>
    if ok = false then .next (s.keyDone 4)
    else if k ≠ 0 ∧ s.keyCamp k (fun _ => true) = true then .next (s.keyDone 2)
    else match s.unwrap k blob with
      | none => .next (s.keyDone 1)
      | some u => .next (s.installKeys k u)
  | _ => .next s

/-- ROLL (R392, R393, R399). -/
def execRoll (target : Nat) (s : State) : Host.Outcome State Fault Refusal :=
  s.asWrite .MP_KEY_CMD 0 fun s =>
  let k := target % 256
  if s.rd .MP_KEY_CMD 0 .BUSY = 1 then .next s
  else
    let s1 := s.wr .MP_KEY_CMD 0 .TARGET k
    if k ≠ 0 ∧ s.keyCamp k (fun st => st == 2 || st == 3 || st == 4) = true then .next (s1.wr .MP_KEY_CMD 0 .RESULT 2)
    else if s.rd .MP_KEYSTATE k .INSTALLED = 0 then .next (s1.wr .MP_KEY_CMD 0 .RESULT 3)
    else .next (((s1.wr .MP_KEY_CMD 0 .BUSY 1).modKeys fun x => { x with cmd := some (2, k) }).startRoll k)

/-- A damaged node is whole again (R393, R394): a leaf of the rolled key at once, any other once every owner beneath it has rolled. -/
def State.mendNode (s : State) (k : Nat) (n : Node) : State :=
  let rolled := k :: tget [] s.deep.rolled n
  let whole := if n.level = 0 then s.pageOwner n.idx == k else (s.nodeOwners n).all fun o => rolled.contains o
  if whole then
    s.modDeep fun d => { d with poison := d.poison.filter fun e => e.1 != n, frozen := d.frozen.erase n, rolled := tdel d.rolled n,
                                nodeCtr := tdel d.nodeCtr n, cache := d.cache.erase n }
  else s.modDeep fun d => { d with rolled := tset d.rolled n rolled }

/-- An overflow of the poison list ends once every key ID that owns a page has rolled (R389). -/
def State.mendOverflow (s : State) (k : Nat) : State :=
  let rolled := k :: s.deep.overRolled
  let s1 := s.modDeep fun d => { d with overRolled := rolled }
  if ((s.ownersIn 0 0x3700000).filter fun o => o != 0).all (fun o => rolled.contains o) then s1.wr .MP_POISON 0 .OVERFLOW 0 else s1

/-- ROLL_DONE (R389, R393, R394). DEDUCED (log 75), unsafe. -/
def execRollDone (key : Nat) (s : State) : Host.Outcome State Fault Refusal :=
  match s.keys.rolls.find? fun e => e.1 == key with
  | none => .next s
  | some (_, damage) =>
    if (s.deep.inits.filter fun r => r.roll && r.key == key).any (fun r => !s.initServed r) then .next s
    else
    let s1 := (s.modDeep fun d => { d with inits := d.inits.filter fun r => !(r.roll && r.key == key) }).modKeys fun x =>
      { x with rolls := x.rolls.filter fun e => e.1 != key }
    let s2 := s1.forEach (damage.filter fun n => n != overflowMark && (n.level != 0 || s.pageOwner n.idx == key) && (s.nodeOwners n).contains key) fun t n => t.mendNode key n
    let s3 := if damage.contains overflowMark then s2.mendOverflow key else s2
    let s4 := (s3.wr .MP_POISON 0 .USED s3.deep.poison.length).wr .MP_KEYSTATE key .ROLLING 0
    .next (s4.serveHeld.keyDone 0)

/-- Pages that leave the ownership of a key ID keep their ciphertext (R375, R321); an initialisation of them ends. -/
def State.leavePages (s : State) (key : Nat) (l : List (Nat × Nat)) : State :=
  s.forEach l fun t e => (t.leaveCipher (4096 * e.1) (4096 * (e.1 + e.2)) key).modDeep fun d =>
    { d with inits := d.inits.flatMap fun r => (minusRange r.base r.pages e.1 e.2).map fun q => { r with base := q.1, pages := q.2 } }

/-- REMOVE (R379, R399). -/
def execRemove (target : Nat) (s : State) : Host.Outcome State Fault Refusal :=
  s.asWrite .MP_KEY_CMD 0 fun s =>
  let k := target % 256
  if s.rd .MP_KEY_CMD 0 .BUSY = 1 then .next s
  else
    let s1 := s.wr .MP_KEY_CMD 0 .TARGET k
    if k ≠ 0 ∧ s.keyCamp k (fun _ => true) = true then .next (s1.wr .MP_KEY_CMD 0 .RESULT 2)
    else if s.rd .MP_KEYSTATE k .INSTALLED = 0 then .next (s1.wr .MP_KEY_CMD 0 .RESULT 3)
    else
      let s2 := ((s1.leavePages k (s.ownedBy k)).modKeys fun x => { x with keys := tdel x.keys k }).wr .MP_KEYSTATE k .INSTALLED 0
      let s3 := s2.forEach (s.validRanges.filter fun r => s.rd .MP_RANGE_BASE r .KEY_ID == k) fun t r => t.wr .MP_RANGE_BASE r .VALID 0
      .next (((s3.loadKeyEvent [k]).lapseTokens k).keyDone 0)

/-- An MP_RANGE entry: first page, pages, key ID, VALID. -/
structure RangeEntry where
  base : Nat
  pages : Nat
  key : Nat
  valid : Bool
  deriving DecidableEq, Repr

/-- An MP_RANGE entry as it stands (R399). -/
def State.rangeEntry (s : State) (r : Nat) : RangeEntry :=
  ⟨s.rd .MP_RANGE_BASE r .BASE, s.rd .MP_RANGE_SIZE r .PAGES, s.rd .MP_RANGE_BASE r .KEY_ID, s.rd .MP_RANGE_BASE r .VALID == 1⟩

/-- The entry after a write. -/
def RangeEntry.write (e : RangeEntry) (w : RangeWrite) : RangeEntry :=
  match w with
  | .base page key valid => { e with base := page % 2 ^ 26, key := key % 256, valid := valid }
  | .size pages => { e with pages := pages % 2 ^ 26 }

/-- Intervals of pages that share a page. -/
def overlaps (b n b2 n2 : Nat) : Bool := n != 0 && n2 != 0 && decide (b < b2 + n2) && decide (b2 < b + n)

/-- The refusal of R375 (R399). -/
def State.rangeRefused (s : State) (r : Nat) (old new : RangeEntry) : Bool :=
  (old.valid && s.keyCamp old.key fun _ => true)
    || (new.valid && (new.key == 0 || decide (0x3700000 < new.base + new.pages) || (s.keyCamp new.key fun _ => true)
      || (s.validRanges.filter fun q => q != r).any (fun q => overlaps new.base new.pages (s.rd .MP_RANGE_BASE q .BASE) (s.rd .MP_RANGE_SIZE q .PAGES))
      || s.regionCamps.any fun c => overlaps new.base new.pages (s.camp c).deepBase (s.camp c).deepPages))

/-- The register of a protection-range entry that a write reaches (R399). -/
def rangeReg : RangeWrite → RegName
  | .base .. => .MP_RANGE_BASE
  | .size .. => .MP_RANGE_SIZE

/-- MP_RANGE_WRITE (R373, R375): pages newly owned are initialised, pages that leave keep their ciphertext. DEDUCED (log 76), unsafe. -/
def execMpRangeWrite (r : Nat) (w : RangeWrite) (s : State) : Host.Outcome State Fault Refusal :=
  s.asWrite (rangeReg w) r fun s =>
  let old := s.rangeEntry r
  let new := old.write w
  if s.rangeRefused r old new then .next (s.wr .MP_KEY_CMD 0 .RESULT 2)
  else
    let same := old.valid && new.valid && old.key == new.key
    let leave := if old.valid then (if same then minusRange old.base old.pages new.base new.pages else [(old.base, old.pages)]) else []
    let enter := if new.valid then (if same then minusRange new.base new.pages old.base old.pages else [(new.base, new.pages)]) else []
    let s1 := (s.wrs .MP_RANGE_BASE r [(.BASE, new.base), (.KEY_ID, new.key), (.VALID, bit new.valid)]).wr .MP_RANGE_SIZE r .PAGES new.pages
    .next ((s1.leavePages old.key leave).forEach enter fun t e => t.initPages e.1 e.2 new.key false)

end Sys2Proof.Machine
end

