-- ==== Sys2Proof/Machine/Run.lean ====
section
/-! DEFINITION. The run commands of a camp (R47 to R59, R727), START with its ramp and restore (R49, R261, R644), and UNLOAD (R320, R321). -/

namespace Sys2Proof.Machine

/-- A command is rejected (R52): CMD_ERR, and nothing else. DEDUCED (log 18), unsafe. -/
def State.runErr (s : State) (c : Nat) : State := s.wr .RUN_CAMP_STATUS c .CMD_ERR 1

/-- The fields written along with an accepted command (R51). -/
def State.runFields (s : State) (c : Nat) (f : RunFields) : State :=
  s.wrs .RUN_CAMP_CTRL c [(.HALT_ON_FAULT, bit f.hof), (.START_SRC, bit f.src), (.STEP_COUNT, f.steps)]

/-- An accepted command waits for a boundary (R54). -/
def State.await (s : State) (c : Nat) (p : Pend) : State :=
  (s.modCamp c fun x => { x with pend := some p }).wr .RUN_CAMP_STATUS c .CMD_PENDING 1

/-- A cluster at START (R74, R168): lines, latches, bit stores, receive slots and wires are clear. -/
def Cluster.start (cl : Cluster) : Cluster :=
  { cl.modAllBps (fun b => { b with bits := 0, shadow := 0, marks := 0, latch := 0, drain := .idle, line := none, drive := none }) with
      mul := [], lanes := [], slots := [], done := [], wrote := [], ticked := none, busy := [], recv := 0, fresh := 0, exch := [] }

/-- A camp's group at START (R168): wires, edge pipelines and hub registers are empty. The summaries and guyline messages that a LOADED camp has heard stay (R44, R542). -/
def Camp.start (x : Camp) (first src : Bool) : Camp :=
  { x with pend := none, haltAt := none, stepLeft := none, stalls := [], ramp := none, restoring := src, began := 0,
           seen := if first then x.seen else [], shares := x.shares.map fun sh => { sh with high := none },
           groups := x.groups.map fun e => (e.1, { e.2 with pos := .step 0, applied := false, held := [], fault := false, ran := 0 }),
           flight := [], items := [], early := [], summaries := if first then x.summaries else [],
           reads := [], issues := x.issues.filter (fun i => i.data.isSome), toPort := [], lost := [], dataLost := false, logStopped := false, turns := none,
           logQueue := [], clockNew := if src then none else x.clockNew, dtime := if src then x.dtime else 0 }

/-- The logs that choose among the events of one step or design cycle of a camp: a new run has cycles and steps of its own. -/
def stepLogs : List RegName := [.CL_FAULT_LOG, .CM_ECC_LOG, .DN_CONFLICT_LOG, .RUN_XING_LOG, .RUN_CONTRACT_LOG]

/-- The camp enters RUNNING (R49, R74, R262). -/
def State.beginStart (s : State) (c : Nat) : State :=
  let src := s.rd .RUN_CAMP_CTRL c .START_SRC == 1
  let first := s.campState c == 2
  let s1 := (s.forEach (s.campClusters c) fun t k => t.modCluster k Cluster.start).modCamp c fun x => x.start first src
  let s2 := s1.wrs .RUN_CAMP_STATUS c [(.HALT_CAUSE, 0), (.HALT_MIDCYCLE, 0), (.RAMPING, 1), (.CMD_PENDING, 0), (.STATE, 3)]
  let fresh := fun (e : (RegName × Nat) × List Nat) => !(e.2.head? == some c && stepLogs.contains e.1.1)
  ((((s2.modLogAt fun l => l.filter fresh).wr .GL_STALL_CAUSE c .ACTIVE 0).wr .DC_REPLAY_CTRL c .LOG_END 0).wr .TS_LOG_STATUS c .FULL 0).acqStart c

/-- START is valid (R47, R260). -/
def State.startOk (s : State) (c : Nat) (src : Bool) : Bool :=
  let st := s.campState c
  (s.camp c).pend.isNone && (st == 2 || (src && (st == 4 || st == 5))) && (!src || s.rd .DC_SNAP_SEL c .VALID == 1)

/-- START (R47, R50, R261): a copying snapshot holds a START that restores, an armed one is abandoned. -/
def State.start (s : State) (c : Nat) (f : RunFields) : State :=
  if s.startOk c f.src then
    let s1 := s.runFields c f
    if f.src then
      if s.snapState c = 2 then (s1.await c .start).wrs .RUN_CAMP_STATUS c [(.HALT_CAUSE, 0), (.HALT_MIDCYCLE, 0)]
      else (if s.snapState c = 1 then s1.abandon c 7 else s1).beginStart c
    else s1.beginStart c
  else s.runErr c

/-- START. -/
def execStart (camp : Nat) (f : RunFields) (s : State) : Host.Outcome State Fault Refusal :=
  s.asWrite .RUN_CAMP_CTRL camp fun s => .next (s.start camp f)

/-- PAUSE. -/
def State.pause (s : State) (c : Nat) (f : RunFields) : State :=
  if s.campState c = 3 ∧ (s.camp c).pend.isNone = true then (s.runFields c f).await c .pause else s.runErr c

/-- PAUSE (R47, R54, R57, R59). -/
def execPause (camp : Nat) (f : RunFields) (s : State) : Host.Outcome State Fault Refusal :=
  s.asWrite .RUN_CAMP_CTRL camp fun s => .next (s.pause camp f)

/-- RESUME. -/
def State.resume (s : State) (c : Nat) (f : RunFields) : State :=
  if s.campState c = 4 ∧ (s.camp c).pend.isNone = true then (s.runFields c f).wr .RUN_CAMP_STATUS c .STATE 3 else s.runErr c

/-- RESUME (R47). -/
def execResume (camp : Nat) (f : RunFields) (s : State) : Host.Outcome State Fault Refusal :=
  s.asWrite .RUN_CAMP_CTRL camp fun s => .next (s.resume camp f)

/-- STEP. -/
def State.stepCycles (s : State) (c : Nat) (f : RunFields) : State :=
  let n := f.steps % 2 ^ 24
  if n = 0 ∨ (s.camp c).pend.isNone = false then s.runErr c
  else if s.campState c = 4 then ((s.runFields c f).wr .RUN_CAMP_STATUS c .STATE 3).modCamp c fun x => { x with stepLeft := some n }
  else if s.campState c = 3 then (s.runFields c f).await c (.step n)
  else s.runErr c

/-- STEP (R52, R727). -/
def execStep (camp : Nat) (f : RunFields) (s : State) : Host.Outcome State Fault Refusal :=
  s.asWrite .RUN_CAMP_CTRL camp fun s => .next (s.stepCycles camp f)

/-- HALT. Two points are the model's choice: a HALT of a camp whose UNLOAD is under way is rejected, and one that replaces a held START leaves a LOADED or HALTED camp in its state. DESIGN CHOICE (log 19), unsafe. -/
def State.halt (s : State) (c : Nat) (f : RunFields) : State :=
  let s1 := s.runFields c f
  if (s.camp c).pend = some .unload then s.runErr c
  else if s.campState c = 3 then
    if s.rd .RUN_CAMP_STATUS c .RAMPING = 1 then s1.haltNow c 1 false
    else if s.campFrozen c then s1.haltNow c 1 true
    else s1.await c .halt
  else if s.campState c = 4 then s1.haltNow c 1 false
  else if (s.camp c).pend = some .start then
    (s1.modCamp c fun x => { x with pend := none }).wr .RUN_CAMP_STATUS c .CMD_PENDING 0
  else s.runErr c

/-- HALT (R47, R54, R56, R59, R261). -/
def execHalt (camp : Nat) (f : RunFields) (s : State) : Host.Outcome State Fault Refusal :=
  s.asWrite .RUN_CAMP_CTRL camp fun s => .next (s.halt camp f)

/-- UNLOAD. -/
def State.unload (s : State) (c : Nat) (f : RunFields) : State :=
  let st := s.campState c
  if (st = 2 ∨ st = 4 ∨ st = 5) ∧ (s.camp c).pend.isNone = true then
    let s1 := s.runFields c f
    let s2 := if s.snapState c = 1 ∨ s.snapState c = 2 then s1.abandon c 5 else s1
    let s3 := (s2.wrs .RUN_CAMP_STATUS c [(.HALT_CAUSE, 0), (.HALT_MIDCYCLE, 0)]).modCamp c fun x => { x with pend := some .unload }
    s3.forEach (s.campPitches c) State.clearPitch
  else s.runErr c

/-- UNLOAD (R47, R54, R267, R321). -/
def execUnload (camp : Nat) (f : RunFields) (s : State) : Host.Outcome State Fault Refusal :=
  s.asWrite .RUN_CAMP_CTRL camp fun s => .next (s.unload camp f)

/-- UNLOAD_DONE (R47, R321, R440, R728): once the writes on their way have reached deep memory. DEDUCED (log 15), safe. -/
def execUnloadDone (camp : Nat) (s : State) : Host.Outcome State Fault Refusal :=
  if (s.camp camp).pend = some .unload ∧ (s.camp camp).issues = [] then
    let s1 := (s.acqFree camp).forEach ((List.range 256).filter fun h => s.chCamp h == camp && s.chState h != 0) State.chDisable
    .next ((s1.forEach (s.campPitches camp) State.clearEnd).releaseCamp camp)
  else .next s

/-- RAMP_START (R644): the ramp begins once the restore is done and PW_STAGGER has passed since another camp's ramp began. DESIGN CHOICE (log 11), safe. -/
def execRampStart (camp sinceOther : Nat) (s : State) : Host.Outcome State Fault Refusal :=
  let x := s.camp camp
  if s.campState camp = 3 ∧ s.rd .RUN_CAMP_STATUS camp .RAMPING = 1 ∧ x.restoring = false ∧ x.ramp = none ∧ max 10 (min 1000 (s.rd .PW_STAGGER 0 .US)) ≤ sinceOther then
    .next (s.modCamp camp fun y => { y with ramp := some 0 })
  else .next s

/-- RAMP_STEP (R644). -/
def execRampStep (camp : Nat) (s : State) : Host.Outcome State Fault Refusal :=
  .next (s.modCamp camp fun y => { y with ramp := y.ramp.map fun n => min 64 (n + 1) })

/-- FIRST_DESIGN_CYCLE_START (R49, R645): the camp's clock is at its target, level 0. -/
def execFirstDesignCycleStart (camp : Nat) (s : State) : Host.Outcome State Fault Refusal :=
  if s.campState camp = 3 ∧ (s.camp camp).ramp = some 64 then
    .next (((s.wr .RUN_CAMP_STATUS camp .RAMPING 0).wr .PW_CAMP camp .LEVEL 0).modCamp camp fun y => { y with ramp := none })
  else .next s

/-- HELD_START_RELEASE (R261). -/
def execHeldStartRelease (camp : Nat) (s : State) : Host.Outcome State Fault Refusal :=
  .next (if (s.camp camp).pend = some .start ∧ s.snapState camp ≠ 1 ∧ s.snapState camp ≠ 2 then s.beginStart camp else s)

/-- A bus error has stopped a restore (R261, R390): a camp that its alarm, or a HALT, has not halted before halts with the cause. -/
def State.restoreFails (s : State) (c : Nat) (alarm : Bool) : State :=
  let s1 := (s.modCamp c fun x => { x with restoring := false }).wrs .DC_SNAP_SEL c [(.VALID, 0), (.SEL_ERR, 1)]
  if s1.campState c = 3 then s1.haltNow c (if alarm then 4 else 6) false else s1

/-- A restore is under way (R261): it goes on in a camp that has halted during the ramp, whose stores are those START would have begun with (R59). -/
def State.restores (s : State) (c : Nat) : Bool := (s.campState c == 3 || s.campState c == 5) && (s.camp c).restoring

/-- RESTORE_DONE (R261, R262): the camp stands at the snapshot's boundary; a replay whose log holds no inputs ends there. -/
def execRestoreDone (camp : Nat) (s : State) : Host.Outcome State Fault Refusal :=
  if s.restores camp then
    let w := s.restore camp
    if w.1.isSome then .next (w.2.restoreFails camp false)
    else
      let s1 := w.2.modCamp camp fun x => { x with restoring := false }
      if s1.replays camp && s1.campState camp == 3 then
        match s1.logEnds camp (s1.camp camp).cycle.toNat with
        | some err => .next (((s1.endReplay camp err).wr .RUN_CAMP_STATUS camp .RAMPING 0).pauseNow camp)
        | none => .next s1
      else .next s1
  else .next s

/-- RESTORE_BUS_ERROR (R261, R270): the restore stops after its first `written` parts. -/
def execRestoreBusError (camp written : Nat) (alarm : Bool) (s : State) : Host.Outcome State Fault Refusal :=
  .next (if s.restores camp then (s.restorePart camp written).restoreFails camp alarm else s)

end Sys2Proof.Machine
end

