-- ==== Sys2Proof/Machine/Loader.lean ====
section
/-! DEFINITION. The loader's sequence (R309 to R332): a load command, placement entries, segments and their records, reports, commit and failure. -/

namespace Sys2Proof.Machine

/-- A pitch exists on this part (R24, R639). -/
def State.pitchExists (s : State) (p : Nat) : Bool := decide (p < 64) && s.domState p != 4

/-- A command or write is rejected (R313, R653). -/
def State.loadErr (s : State) : State := s.wr .LD_STATUS 0 .CMD_ERR 1

/-- A load is under way (R312, R313). -/
def State.loading (s : State) : Bool := let st := s.rd .LD_STATUS 0 .STATE; decide (1 ≤ st) && decide (st ≤ 4)

/-- Placement entry `m` as the registers hold it (R325). -/
def State.placeReg (s : State) (grades : List Nat) (m : Nat) : PlaceEntry :=
  { addr := s.rd .LD_PLACE_MOD m .ADDR, camp := s.rd .LD_PLACE_MOD m .CAMP,
    pitches := s.rd .LD_PLACE_PITCH_LO m .PITCHES + 2 ^ 40 * s.rd .LD_PLACE_PITCH_HI m .PITCHES,
    base := s.rd .LD_PLACE_DEEP_BASE m .BASE, size := s.rd .LD_PLACE_DEEP_SIZE m .PAGES, grade := grades.getD m 0 }

/-- The spare-map entries of a pitch set, as they stand (R316). DEDUCED (log 68), unsafe. -/
def State.latchMaps (s : State) (set : List Nat) : List (RegKey × Nat) :=
  set.flatMap fun p => (⟨.HS_PITCH_MAP, p, .SPARE_COL⟩, s.rd .HS_PITCH_MAP p .SPARE_COL) ::
    (pitchSlots p).flatMap fun k =>
      [(⟨.HS_BP_MAP, k, .SPARE0⟩, s.rd .HS_BP_MAP k .SPARE0), (⟨.HS_BP_MAP, k, .SPARE1⟩, s.rd .HS_BP_MAP k .SPARE1),
       (⟨.HS_COL_MAP, k, .COL0⟩, s.rd .HS_COL_MAP k .COL0), (⟨.HS_COL_MAP, k, .COL1⟩, s.rd .HS_COL_MAP k .COL1)]

/-- A failure of a check marked "held" (R314). DEDUCED (log 66), unsafe. -/
def State.holdFail (s : State) (order seg : Nat) : State := s.modLoad fun l => { l with held := l.held ++ [⟨order, seg, 0⟩] }

/-- The camp of the load enters LOADING (R315), unless its number is in use or is none of this part's (R25; check 7 of R314). -/
def State.beginLoad (s : State) : State :=
  let c := s.load.own.camp
  let set := s.loadPitches.foldl (fun m p => m + 2 ^ p) 0
  if c < (if s.part.isM4 then 32 else 64) ∧ s.campState c = 0 then
    let s1 := (s.wr .RUN_CAMP_STATUS c .STATE 1).wr .RUN_CAMP_PITCH_LO c .PITCHES set
    { s1.wr .RUN_CAMP_PITCH_HI c .PITCHES (set / 2 ^ 40) with
        camps := tset s.camps c Camp.reset, load := { s.load with began := true } }
  else s.holdFail 7 0

/-- The module takes part in a load (R312, R315, R316): maps latched, pitches of the set that are off powered up, but for a boot-flash source (R308). -/
def State.joinLoad (s : State) (entry : Bool) (origin src : Nat) (ps : List PlaceEntry) (m : Option Nat) : State :=
  let own := ps.getD (m.getD 0) ⟨0, 0, 0, 0, 0, 0⟩
  let camp := if m.isSome then own.camp else 0
  let set := if m.isSome then (bitList own.pitches 64).filter s.pitchExists else []
  let l : Load := { Load.reset with active := true, entry := entry, origin := origin, src := src, places := ps, lmod := m, camp := camp, latch := s.latchMaps set }
  let s1 := (({ s with load := l }.wrs .LD_STATUS 0 [(.STATE, 1), (.ERR, 0), (.MODULE, s.ownAddr), (.LMOD, m.getD 0), (.CAMP, camp)]).wr
    .LD_PROGRESS 0 .SEGMENTS 0).wr .LD_DMA_PUSH 0 .DEPTH 0
  let s2 := if entry && m.isSome then s1.beginLoad else s1
  if src = 2 then s2 else s2.forEach s2.loadPitches State.domOn

/-- LOAD (R308, R309, R313, R653): `grades` are the grade codes of the logical modules in order. -/
def execLoad (src modules : Nat) (grades : List Nat) (s : State) : Host.Outcome State Fault Refusal :=
  s.asWrite .LD_CTRL 0 fun s =>
  let n := modules % 256
  let ps := (List.range n).map (s.placeReg grades)
  let addrs := ps.map (·.addr)
  let valid := s.rd .FB_ID 0 .ADDR_VALID == 1
  if s.loading || s.rd .PW_STATUS 0 .READY == 0 || n == 0 || decide (128 < n) || decide (addrs.eraseDups.length < n) || addrs.any (fun a => decide (127 < a))
      || src % 4 == 3 || (decide (1 < n) && !valid) then .next s.loadErr
  else
    let m := if valid then ps.findIdx? fun p => p.addr == s.ownAddr else some 0
    let s1 := (s.wrs .LD_CTRL 0 [(.SRC, src), (.MODULES, n)]).joinLoad true s.ownAddr (src % 4) ps m
    .next (if src % 4 = 2 then s1.loadFailHere 13 else s1.forEach s1.load.others fun t e => t.originate e.2.addr 0 (.places ps))

/-- LD_ABORT (R313, R314, R327, R328). -/
def execLdAbort (s : State) : Host.Outcome State Fault Refusal :=
  s.asWrite .LD_CTRL 0 fun s =>
  .next (if s.loading then s.loadFailHere 15 else s.loadErr)

/-- LD_DMA_PUSH (R313, R324, R326). -/
def execLdDmaPush (len : Nat) (s : State) : Host.Outcome State Fault Refusal :=
  s.asWrite .LD_DMA_PUSH 0 fun s =>
  let l := s.load
  if s.loading = false ∨ l.entry = false ∨ l.src ≠ 0 ∨ 8 ≤ l.queue.length then .next s.loadErr
  else if l.failing.isSome then .next s
  else
    let a := s.rd .LD_DMA_ADDR_LO 0 .ADDR + 2 ^ 40 * s.rd .LD_DMA_ADDR_HI 0 .ADDR
    .next (((s.modLoad fun x => { x with queue := x.queue ++ [(a, len % 2 ^ 21)] }).wr .LD_DMA_PUSH 0 .DEPTH (l.queue.length + 1)).emit (.hostRead a (len % 2 ^ 21)))

/-- The entry module fails the load as the lowest-numbered logical module that failed reports it, once every listed module has reported (R311). -/
def State.settleLoad (s : State) : State :=
  let l := s.load
  if l.entry && (List.range l.places.length).all fun m => l.reports.any fun e => e.1 == m then
    match (List.range l.places.length).findSome? fun m => (l.reports.find? fun e => e.1 == m).bind (·.2) with
    | some f => s.loadFail f true
    | none => s
  else s

/-- What this module reports after END (R311): on the entry module it is kept, elsewhere it is sent. -/
def State.report (s : State) (f : Option LoadFailure) : State :=
  let m := s.load.lmod.getD 0
  if s.load.entry then (s.modLoad fun l => { l with reports := l.reports ++ [(m, f)], passed := f.isNone }).settleLoad
  else match f with
    | some x => s.loadFail x true
    | none => (s.modLoad fun l => { l with passed := true }).originate s.load.origin 1 (.ack m .pass)

/-- A failure of this module as it reports it. -/
def State.ownFail (s : State) (h : HeldFail) : LoadFailure := ⟨h.order, h.seg, h.lcl, s.ownAddr, s.load.lmod.getD 0⟩

/-- The region of the load is still being initialised (R375). -/
def State.regionWaits (s : State) : Bool := s.deep.inits.any fun r => !r.roll && r.base == s.load.own.base && r.pages == s.load.own.size

/-- After END and the initialisation of its region a listed module judges the failures together and reports (R311, R314, R375). -/
def State.conclude (s : State) : State :=
  let l := s.load
  let m := l.lmod.getD 0
  if l.active && l.ended && l.lmod.isSome && l.failing.isNone && !l.passed && !(l.reports.any fun e => e.1 == m) && !s.regionWaits then
    s.report ((lowestFail s.endFails).map s.ownFail)
  else s

/-- REGION_INIT_DONE (R369, R375): the region serves requests, and a load that waits for it goes on; it does not come about while a channel that holds a part of the region serves no requests. -/
def execRegionInitDone (base : Nat) (s : State) : Host.Outcome State Fault Refusal :=
  if (s.deep.inits.filter fun r => !r.roll && r.base == base).any (fun r => !s.initServed r) then .next s
  else .next ((s.modDeep fun d => { d with inits := d.inits.filter fun r => r.roll || r.base != base }).serveHeld.conclude)

/-- The form of a PITCH record (R304): position, BP, FIRST and length in range. -/
def pitchFormOk (part : Nat) (pitches : Nat) (lpitch : Nat) (b : List Byte) : Bool :=
  let a := locatorOf b
  let data := b.drop 8
  let n := (pitchWords part a.first data).length
  let cluster := decide (a.j ≤ 7) && a.bp == 0xFF
  decide (lpitch < pitches) && decide (8 ≤ b.length) && a.clean && match part with
    | 0 => decide (a.j ≤ 7) && decide (a.bp ≤ 63) && decide (a.first + n ≤ 8192)
    | 1 => decide (a.j ≤ 7) && decide (a.bp ≤ 63) && a.first == 0 && data.length == 128
    | 2 => cluster && decide (a.first + n ≤ 8192)
    | 3 => cluster && decide (a.first + n ≤ 32)
    | 4 => cluster && a.first == 0 && decide (n ≤ 19)
    | 5 => cluster && decide (a.first + n ≤ 65536)
    | 6 => cluster && decide (a.first + n ≤ 8192)
    | 7 => cluster && a.first == 0 && decide ((tableWords (pitchWords 7 0 data)).length ≤ 257)
    | 8 => a.j == 0xFF && a.bp == 0xFF && a.first == 0 && data.length == 8 && zeroAt data 6 2
    | _ => false

/-- The R284 order of the first failure that a PITCH record of this module shows (R126, R173, R174, R178, R219, R246). -/
def State.pitchHeld (s : State) (part lpitch : Nat) (b : List Byte) : Option Nat :=
  let l := s.load
  let data := b.drop 8
  let ws := pitchWords part (locatorOf b).first data
  match part with
  | 4 =>
    let w := (ws.getD 2 0).toNat
    if (w.testBit 0 = true ∧ bitsOf w 17 17 = 0) ∨ 65536 < bitsOf w 1 16 + bitsOf w 17 17 then some 2 else none
  | 6 =>
    if ws.any (routerEncBad (locatorOf b).j) then some 2
    else if ws.any (routerUnlinked l.dies lpitch) then some 4
    else if 1600 < s.loadTarget ∧ ws.any routerSlow = true then some 5 else none
  | 7 => let t := tableWords ws; if segTableOk (t.headD 0).toNat (t.drop 1) then none else some 2
  | 8 => if (List.range 3).any fun i => decide (4096 < fldAt data (2 * i) 2) then some 2 else none
  | _ => none

/-- A PITCH record of this module is kept and, unless a failure is held, written (R304, R314, R317); cluster memory through its banks (R315). -/
def State.writePitch (s : State) (seg part lpitch : Nat) (b : List Byte) : State :=
  let l := s.load
  let a := locatorOf b
  let ws := pitchWords part a.first (b.drop 8)
  let lcl := 8 * lpitch + a.j
  let k := s.loadCluster (l.assign.getD lpitch 0) a.j
  let s0 := s.modLoad fun x => { x with recs := x.recs ++ [⟨seg, part, lpitch, b⟩] }
  let s1 := s0.modLoad fun x => match part with
    | 4 => { x with cfgs := tset x.cfgs lcl ws }
    | 7 => { x with tables := tset x.tables lcl (((tableWords ws).headD 0).toNat, (tableWords ws).drop 1) }
    | 8 => { x with shares := tset x.shares lpitch ((List.range 3).map fun i => fldAt (b.drop 8) (2 * i) 2) }
    | _ => x
  if part = 8 ∨ l.held ≠ [] then s1
  else if part = 5 then s1.forEach ws.zipIdx fun t e => t.loadWord k (a.first + e.2) e.1
  else s1.modCluster k fun cl => cl.loadPart part b

/-- A PLACE record of this module (R31, R303): the assignment of its pitches. -/
def State.takePlace (s : State) (seg : Nat) (b : List Byte) : State :=
  let es := (List.range (b.length / 8)).map fun i => (fldAt b (8 * i) 1, fldAt b (8 * i + 1) 2)
  let bad := es.any (fun e => decide (7 < e.1)) || (List.range (b.length / 8)).any fun i => !zeroAt b (8 * i + 3) 5
  let s1 := s.modLoad fun l => { l with dies := es }
  if bad then s1.holdFail 2 seg
  else match assignPitches es s.loadPitches with
    | some a => s1.modLoad fun l => { l with assign := a }
    | none => s1.holdFail 4 seg

/-- The entries of an ACQ body (R606). -/
def acqEntries (seg : Nat) (b : List Byte) : List AcqEntry :=
  (List.range (b.length / 16)).map fun i => ⟨fldAt b (16 * i) 2, fldAt b (16 * i + 2) 2, fldAt b (16 * i + 8) 5, seg⟩

/-- An ACQ record of this module (R580, R606). -/
def State.takeAcq (s : State) (seg : Nat) (b : List Byte) : State :=
  let es := acqEntries seg b
  let zeros := (List.range (b.length / 16)).all fun i => zeroAt b (16 * i + 4) 4 && zeroAt b (16 * i + 13) 3
  let s1 := s.modLoad fun l => { l with acq := l.acq ++ es }
  if zeros && es.all s.load.acqOk && !acqBankClash s1.load.acq then s1 else s1.holdFail 2 seg

/-- The mask bits of the placed modules. -/
def Load.fullMask (l : Load) : Nat := 2 ^ l.head.modules - 1

/-- The header of a record may stand where it does (R302, R303; check 10 of R314): its form, TYPE, order, and LENGTH within the remaining stream. -/
def Load.headOk (l : Load) : Bool :=
  let h := secHead l.buf
  recFormOk l.buf && [1, 2, 3, 4, 0x7FFF].contains h.type && decide (l.lastType ≤ h.type) && !l.ended
    && decide (32 + h.len ≤ l.buf.length + (l.segCount - 1 - l.next) * fullPayload)
    && (if h.type = 1 then h.mask &&& l.seen == 0 else l.seen &&& l.fullMask == l.fullMask)
    && (h.type != 0x7FFF || h.mask &&& l.fullMask == l.fullMask)

/-- The body of a record has its form (R303): for each module it names, and one that names none by the ranges of any module. -/
def Load.bodyOk (l : Load) (h : SecHead) (b : List Byte) : Bool :=
  let sizes := ((List.range l.head.modules).filter h.mask.testBit).map fun m => l.head.lclusters.getD m 0
  match h.type with
  | 1 => sizes.all (fun n => b.length == n) && decide (b.length ≤ 512)
  | 2 => (if sizes.isEmpty then [512] else sizes).all fun n => pitchFormOk h.part (n / 8) h.lpitch b
  | 3 => decide (h.len % 10 ≤ 7) && zeroAt b (h.len / 10 * 10) 8
  | 4 => h.len % 16 == 0
  | _ => endBodyOk b

/-- END (R306, R311, R314): the signature, and then the checks judged after it. -/
def State.takeEnd (s : State) (b : List Byte) : State :=
  let l := s.load
  let s1 := (s.modLoad fun x => { x with ended := true }).wr .LD_STATUS 0 .STATE 4
  match l.next + 1 == l.segCount && l.buf.isEmpty, s.keys.keys.find? fun e => e.1 == l.keyId with
  | true, some k => if signatureOk k.2.sign l.hashed b then s1.conclude else s1.report (some (s.ownFail ⟨12, l.next, 0⟩))
  | true, none => s1.report (some (s.ownFail ⟨12, l.next, 0⟩))
  | false, _ => s.loadFailHere 13

/-- The tables send packets of the load, or a broadcast, out on a port: the port carries the load stream (R309). -/
def State.streamPort (s : State) (p : Nat) : Bool :=
  let addrs := s.load.origin :: s.load.others.map fun e => e.2.addr
  addrs.any (fun a => (s.routeOuts none a).contains p) || (List.range 7).any fun t => (s.routeOuts (if t = 6 then none else some t) 255).contains p

/-- The ports that crossing entries of the load name and that stay in electrical idle (R323): none that carries another camp's crossings or the load stream. -/
def State.idlePorts (s : State) (es : List Inst80) : List Nat :=
  let l := s.load
  let m := l.lmod.getD 0
  let hop := fun (e : Nat) => if 8 ≤ epPlace e then (l.hopsOf m)[epPlace e - 8]? else none
  let ends := (es.map xingOf).flatMap fun x => if x.valid then [x.src, x.dst] else []
  ((ends.filterMap hop).filterMap fun r => s.portTo (l.addrOf (l.beyond m r))).eraseDups.filter fun p =>
    !s.streamPort p && (s.liveCamps fun c => c != l.camp && s.xingOnPort c p).isEmpty

/-- A whole record is taken (R303, R314). -/
def State.takeRecord (s : State) (h : SecHead) (b : List Byte) : State :=
  let l := s.load
  let seg := 1 + l.taken / fullPayload
  let mine := h.mask.testBit (l.lmod.getD 0)
  let s1 := s.modLoad fun x =>
    { x with buf := x.buf.drop (32 + h.len), taken := x.taken + 32 + h.len, lastType := h.type,
             hashed := if h.type = 0x7FFF then x.hashed else x.hashed ++ x.buf.take (32 + h.len), seen := if h.type = 1 then x.seen ||| h.mask else x.seen }
  match h.type with
  | 1 => if mine then s1.takePlace seg b else s1
  | 2 =>
    if mine then
      let s2 := match s.pitchHeld h.part h.lpitch b with
        | some k => s1.holdFail k seg
        | none => s1
      s2.writePitch seg h.part h.lpitch b
    else s1
  | 3 =>
    let es := (List.range (h.len / 10)).map fun i => BitVec.ofNat 80 (fldAt b (10 * i) 10)
    s1.modLoad fun x => { x with xings := x.xings ++ [⟨seg, h.mask, es⟩], idle := if mine then x.idle ++ s.idlePorts es else x.idle }
  | 4 => if mine then s1.takeAcq seg b else s1
  | _ => s1.takeEnd b

/-- The records that the bytes at hand complete, at most `n` (R299, R314). -/
def State.takeRecords (s : State) : Nat → State
  | 0 => s
  | n + 1 =>
    let l := s.load
    let h := secHead l.buf
    if l.failing.isSome || decide (l.buf.length < 32) then s
    else if l.headOk = false then s.loadFailHere 13
    else if l.buf.length < 32 + h.len then s
    else
      let b := (l.buf.drop 32).take h.len
      if l.bodyOk h b then (s.takeRecord h b).takeRecords n else s.loadFailHere 13

/-- The pitches of this part that a load could use (R3). -/
def State.usablePitches (s : State) : Nat := ((List.range 64).filter fun p => s.pitchExists p && s.rd .HS_PITCH_MAP p .UNUSABLE == 0).length

/-- Checks 6 and 7 of R314 on the placement entry, and R540. -/
def State.placeFails (s : State) : List HeldFail :=
  let l := s.load
  let set := bitList l.own.pitches 64
  let free := s.loadPitches
  (if !(set.all fun p => s.pitchExists p && s.rd .HS_PITCH_MAP p .UNUSABLE == 0 && free.contains p) || set.length != l.clusters / 8
      || (List.range 64).any (fun c => s.campState c != 0 && !(l.began && c == l.camp) && (s.camp c).tag == l.tag) then [⟨4, 0, 0⟩] else [])
    ++ (if l.own.size < l.head.deepPages.getD (l.lmod.getD 0) 0 then [⟨7, 0, 0⟩] else [])

/-- Segment 0 is accepted (R315): the camp is LOADING, its region is initialised, its stores hold zero before the image's values (R274, R305), and the latched BP maps govern what is written. -/
def State.acceptFirst (s : State) : State :=
  let s0 := if s.load.began || s.load.entry then s else s.beginLoad
  let s1 := s0.modLoad fun l => { l with held := l.held ++ s0.placeFails }
  let l := s1.load
  let s2 := s1.wr .LD_STATUS 0 .STATE 3
  if l.held = [] then
    let s3 := ((s2.wr .RUN_CAMP_STATUS l.camp .KEY_ID l.keyId).modCamp l.camp fun x => { x with deepBase := l.own.base, deepPages := l.own.size })
    let s4 := if l.own.size = 0 then s3 else s3.initPages l.own.base l.own.size l.keyId false
    s4.forEach (s4.loadPitches.flatMap pitchSlots) fun t k => t.modCluster k fun cl =>
      { cl.clear with spare0 := tget 64 l.latch ⟨.HS_BP_MAP, k, .SPARE0⟩, spare1 := tget 65 l.latch ⟨.HS_BP_MAP, k, .SPARE1⟩ }
  else s2

/-- A stream of one segment ends without END (R299, R314). -/
def State.streamEnds (s : State) : State := if s.load.segCount = 1 then s.loadFailHere 10 else s

/-- Segment 0 (R297 to R301, R314): prologue, key, tag, and header. -/
def State.takeFirst (s : State) (b : List Byte) : State :=
  let p := b.drop 0x20
  let m := s.load.lmod.getD 0
  let key := fldAt p 0xA 1
  if !prologueOk p s.part.serial then s.loadFailHere 11
  else match (if key = 0 then none else s.keys.keys.find? fun e => e.1 == key) with
    | none => s.loadFailHere 14
    | some k =>
      let k0 := kdf k.2.load (labelOf p) (nonceOf p)
      match openSegment k0 (nonceOf p) 0 b with
      | none => s.loadFailHere 12
      | some q =>
        if s.part.grade < fldAt q 9 1 ∨ 8 * s.usablePitches < (headerOf q).lclusters.getD m 0 then s.loadFailHere 1
        else if !headerOk q s.load.places.length then s.loadFailHere 2
        else if fldAt q 8 1 ≠ 0 then s.loadFailHere 13
        else
          (s.modLoad fun l => { l with
            segCount := segCountOf b, keyId := key, tag := fldAt q 0x1A 2, nonce := nonceOf p, label := labelOf p, hdr := some (headerOf q),
            key := nextKey k0 (labelOf p) 0 q, hashed := q }).acceptFirst.streamEnds

/-- A segment after the first (R297 to R299, R314). -/
def State.takeLater (s : State) (b : List Byte) : State :=
  let l := s.load
  match openSegment l.key l.nonce l.next b with
  | none => s.loadFailHere 12
  | some q =>
    let s1 := s.modLoad fun x => { x with key := nextKey x.key x.label x.next q, buf := x.buf ++ q }
    let s2 := s1.takeRecords (s1.load.buf.length / 32 + 1)
    if l.next + 1 = l.segCount ∧ s2.load.ended = false then s2.loadFailHere 10 else s2

/-- A segment on this module (R310, R314, R324): its framing comes before every other check; an entry module that holds no part of the load checks no more. -/
def State.takeSegment (s : State) (b : List Byte) : State :=
  let l := s.load
  let n := if l.next = 0 then segCountOf b else l.segCount
  if !frameOk b l.next n then s.loadFailHere 13
  else
    let s0 := if l.next = 0 then s.wr .LD_STATUS 0 .STATE 2 else s
    let s1 := if l.lmod.isNone then (s0.modLoad fun x => { x with segCount := n }).wr .LD_STATUS 0 .STATE (if l.next + 1 = n then 4 else 3)
      else if l.next = 0 then s0.takeFirst b else s0.takeLater b
    if s1.load.failing.isSome then s1
    else
      let s2 := (s1.modLoad fun x => { x with next := l.next + 1, got := [] }).wr .LD_PROGRESS 0 .SEGMENTS (l.next + 1)
      if l.lmod.isSome && !l.entry then s2.originate l.origin 1 (.ack (l.lmod.getD 0) (.received l.next)) else s2

/-- Nothing keeps the next segment waiting (R309, R315): the pitches of the set are awake, and every other module has the segment before. -/
def State.segmentReady (s : State) : Bool :=
  let l := s.load
  l.active && l.failing.isNone && (l.next == 0 || decide (l.next < l.segCount))
    && s.loadPitches.all (fun p => s.powered p && s.rd .CM_STATUS (9 * p) .CLEARING == 0)
    && (!l.entry || l.next == 0 || l.others.all fun e => l.got.contains e.1)

/-- The next segment of the bytes delivered (R296, R701); none while it is not complete. -/
def Load.streamSegment (l : Load) : Option (List Byte) :=
  let len := fldAt l.stream 8 4
  if l.stream.length < 0x20 then none
  else if fullPayload < len then some (l.stream.take 0x20)
  else if l.stream.length < 0x40 + len then none
  else some (l.stream.take (0x40 + len))

/-- LOAD_SEGMENT (R309, R314, R324): on the entry module the next segment of its source (`bytes` is what the read of host memory gives), broadcast to the other modules; on a listed module the segment that has come through the fabric. -/
def execLoadSegment (bytes : List Byte) (s : State) : Host.Outcome State Fault Refusal :=
  let l := s.load
  if s.segmentReady then
    let cast := fun (t : State) (b : List Byte) => if l.entry && !l.others.isEmpty then t.originate 255 0 (.bytes b) else t
    if l.entry && l.src == 0 then
      match l.queue with
      | [] => .next s
      | (_, len) :: rest =>
        let b := bytes.take len
        let s1 := (s.modLoad fun x => { x with queue := rest }).wr .LD_DMA_PUSH 0 .DEPTH rest.length
        .next ((cast s1 b).takeSegment b)
    else match l.streamSegment with
      | none => .next s
      | some b => .next ((cast (s.modLoad fun x => { x with stream := x.stream.drop b.length }) b).takeSegment b)
  else .next s

/-- Placement entries arrive (R309, R312, R653): the module joins the load, or answers LOAD_RESOURCE while it takes part in another. DESIGN CHOICE (log 34), safe. -/
def State.placementArrives (s : State) (src : Nat) (ps : List PlaceEntry) : State :=
  match ps.findIdx? fun p => p.addr == s.ownAddr with
  | none => s
  | some m =>
    if s.rd .FB_ID 0 .ADDR_VALID = 0 ∨ s.rd .PW_STATUS 0 .READY = 0 then s
    else if s.load.active then
      if s.load.failing.isNone = true ∧ s.load.origin = src ∧ s.load.places = ps then s else s.originate src 1 (.ack m (.fail 7 0 0))
    else s.joinLoad false src 0 ps (some m)

/-- PLACEMENT_ENTRY_ARRIVE. -/
def execPlacementEntryArrive (src modules : Nat) (ps : List PlaceEntry) (s : State) : Host.Outcome State Fault Refusal :=
  .next (s.placementArrives src (ps.take modules))

/-- A report reaches the entry module (R309, R311, R312): a failure before every segment has been sent fails the load at once. -/
def State.ackArrives (s : State) (m : Nat) (a : LoadAck) : State :=
  let l := s.load
  if l.active && l.entry && l.failing.isNone && decide (m < l.places.length) && l.lmod != some m then
    let sent := l.next != 0 && l.next == l.segCount
    match a with
    | .received i => if i + 1 = l.next then s.modLoad fun x => { x with got := if x.got.contains m then x.got else m :: x.got } else s
    | .pass => (s.modLoad fun x => { x with reports := x.reports ++ [(m, none)] }).settleLoad
    | .fail e seg lcl =>
      let f : LoadFailure := ⟨e, seg, lcl, l.addrOf m, m⟩
      if sent && !l.reports.any (fun r => r.1 == m) then (s.modLoad fun x => { x with reports := x.reports ++ [(m, some f)] }).settleLoad else s.loadFail f true
  else s

/-- LOAD_ACK. -/
def execLoadAck (lmod : Nat) (ack : LoadAck) (s : State) : Host.Outcome State Fault Refusal := .next (s.ackArrives lmod ack)

/-- ABORT reaches a listed module (R311, R320). -/
def State.abortArrives (s : State) : State := if s.load.entry then s else s.loadFail ⟨15, s.load.next, 0, s.ownAddr, s.load.lmod.getD 0⟩ false

/-- ABORT. -/
def execAbort (s : State) : Host.Outcome State Fault Refusal := .next s.abortArrives

/-- LOAD_TIMEOUT (R311, R314, R331, R369): no segment has come, or a module of the load has not reported or has left the fabric; one that has reported can only have left. -/
def execLoadTimeout (lmod : Option Nat) (s : State) : Host.Outcome State Fault Refusal :=
  let l := s.load
  let sent := l.next != 0 && l.next == l.segCount
  match lmod with
  | none => .next (if l.entry && sent then s else s.loadFailHere 10)
  | some m =>
    let reported := l.reports.any fun e => e.1 == m
    if l.entry && decide (m < l.places.length) && (l.lmod != some m || (sent && !reported)) then
      let f : LoadFailure := ⟨10, l.next - bit sent, 0, l.addrOf m, m⟩
      .next (if sent && !reported then (s.modLoad fun x => { x with reports := x.reports ++ [(m, some f)] }).settleLoad else s.loadFail f true)
    else .next s

/-- LOAD_CLEAR_DONE (R320, R326): the clear of the failed load has ended. -/
def execLoadClearDone (s : State) : Host.Outcome State Fault Refusal :=
  if s.load.failing.isSome then
    let s2 := s.forEach (s.loadPitches.filter s.powered) State.clearEnd
    .next (({ s2 with load := Load.reset }.wrs .LD_STATUS 0 [(.STATE, 6)]).irq 2)
  else .next s

end Sys2Proof.Machine
end

