-- ==== Sys2Proof/Machine/Commit.lean ====
section
/-! DEFINITION. The commit of a load (R311, R318): the registers that the loader sets, the spare map put into force, the camp's record, and the acquisition setup (R273, R580, R581, R589, R606). -/

namespace Sys2Proof.Machine

/-- A read-write field. -/
def isRw (f : FieldSpec) : Bool := f.acc == .rw

/-- The acquisition registers that the loader gives a camp lose what an earlier camp left in them. -/
def State.acqFresh (s : State) (pl : AcqPlan) (cmps decs : List Nat) : State :=
  let perUnit := [RegName.ACQ_CTRL, .ACQ_TIMING, .ACQ_RING, .ACQ_RING_SIZE]
  let perSlot := [RegName.ACQ_COND, .ACQ_RULE]
  let perCmp := [RegName.ACQ_CMP_CFG, .ACQ_CMP_VAL, .ACQ_CMP_MASK]
  let perDec := [RegName.ACQ_DEC_CFG, .ACQ_DEC_PARAM, .ACQ_DEC_SRC01, .ACQ_DEC_SRC2, .ACQ_DEC_MATCH, .ACQ_DEC_MASK]
  { s with regs := s.regs.filter fun e =>
      !((perUnit.contains e.1.reg && pl.unit == some e.1.i) || (perSlot.contains e.1.reg && pl.unit == some (e.1.i / 32))
        || (perCmp.contains e.1.reg && cmps.contains e.1.i) || (perDec.contains e.1.reg && decs.contains e.1.i)) }

/-- A comparator image in physical form (R606): SRC is relative to the camp's block on the E-die. -/
def State.putCmp (s : State) (b : AcqBlock) (i v : Nat) : State :=
  let t := s.putFields .ACQ_CMP_CFG i v isRw
  t.wr .ACQ_CMP_CFG i .SRC (t.rd .ACQ_CMP_CFG i .SRC + (if t.rd .ACQ_CMP_CFG i .WORD = 1 then b.wordBase else b.bitBase))

/-- A decoder source in physical form: 2,048 × E-die + channel. -/
def AcqPlan.source (pl : AcqPlan) (n : Nat) : Nat :=
  match pl.blocks[n / 2048]? with
  | some b => 2048 * b.die + (b.bitBase + n % 2048) % 2048
  | none => n

/-- A condition's INDEX in physical form (R606): comparators and decoders are numbered within the camp. -/
def AcqPlan.condIndex (pl : AcqPlan) (src i : Nat) : Nat :=
  if src = 1 then
    match pl.blocks[i / 16]? with
    | some b => 16 * b.die + pl.cmps.getD (i / 16) 0 + i % 16
    | none => i
  else if src = 2 then pl.dec + i else i

/-- An entry of the acquisition setup applied (R606). -/
def State.applyAcq (s : State) (pl : AcqPlan) (e : AcqEntry) : State :=
  let l := s.load
  let v := e.value
  let onBlock := fun (n : Nat) (f : AcqBlock → State) => (pl.blocks[e.index / n]?).elim s f
  let onUnit := fun (f : Nat → State) => pl.unit.elim s f
  let cmp := fun (b : AcqBlock) => 16 * b.die + pl.cmps.getD (e.index / 16) 0 + e.index % 16
  let mode := fun (f : AcqUnit → AcqUnit) => onUnit fun u => s.modUnit u f
  let dec := fun (r : RegName) => s.putFields r (pl.dec + e.index) v isRw
  match e.kind with
  | 1 => onBlock 2048 fun b => s.modAcq fun a =>
      { a with bits := tset a.bits (2048 * b.die + b.bitBase + e.index % 2048) ⟨l.camp, bitsOf v 0 9, bitsOf v 9 6, v.testBit 15, bitsOf v 16 10⟩ }
  | 2 => onBlock 32 fun b => s.modAcq fun a =>
      { a with words := tset a.words (32 * b.die + b.wordBase + e.index % 32) ⟨l.camp, bitsOf v 0 9, 0, v.testBit 9, bitsOf v 10 16⟩ }
  | 3 => mode fun x => { x with groupModes := tset x.groupModes (e.index / 32, e.index % 32) (bitsOf v 0 2) }
  | 4 => mode fun x => { x with wordModes := tset x.wordModes (e.index / 32, e.index % 32) (bitsOf v 0 2, bitsOf v 2 16, v.testBit 18) }
  | 5 => onBlock 16 fun b => s.putCmp b (cmp b) v
  | 6 => onBlock 16 fun b => s.putFields .ACQ_CMP_VAL (cmp b) v isRw
  | 7 => onBlock 16 fun b => s.putFields .ACQ_CMP_MASK (cmp b) v isRw
  | 8 => onUnit fun u => s.wr .ACQ_RING u .BASE (l.own.base + v)
  | 9 => onUnit fun u => s.wr .ACQ_RING_SIZE u .PAGES v
  | 10 => onUnit fun u => s.putFields (if e.index = 0 then .ACQ_CTRL else .ACQ_TIMING) u v isRw
  | 11 => onUnit fun u => s.wrs .ACQ_COND (32 * u + e.index) [(.SRC, bitsOf v 0 3), (.INDEX, pl.condIndex (bitsOf v 0 3) (bitsOf v 3 7))]
  | 12 => onUnit fun u => s.putFields .ACQ_RULE (32 * u + e.index) v isRw
  | 13 => dec .ACQ_DEC_CFG
  | 14 => dec .ACQ_DEC_PARAM
  | 15 => s.wrs .ACQ_DEC_SRC01 (pl.dec + e.index) [(.SRC0, pl.source (bitsOf v 0 14)), (.SRC1, pl.source (bitsOf v 14 14))]
  | 16 => s.wr .ACQ_DEC_SRC2 (pl.dec + e.index) .SRC2 (pl.source (bitsOf v 0 14))
  | 17 => dec .ACQ_DEC_MATCH
  | 18 => dec .ACQ_DEC_MASK
  | _ => s.wrs .ACQ_LP e.index [(.NET, 16 * l.assign.getD (bitsOf v 0 10 / 16) 0 + bitsOf v 0 4), (.EN, bitsOf v 17 1), (.CAMP, l.camp), (.OWNED, 1)]

/-- The acquisition setup (R318, R581, R583, R589, R606). -/
def State.setupAcq (s : State) : State :=
  match s.acqPlan with
  | none => s
  | some pl =>
    let l := s.load
    let c := l.camp
    let cmps := pl.blocks.zipIdx.flatMap fun e =>
      (List.range (l.acqCount 16 e.2 fun k => decide (5 ≤ k) && decide (k ≤ 7))).map fun k => 16 * e.1.die + pl.cmps.getD e.2 0 + k
    let decs := (List.range (l.acq.foldl (fun m e => if 13 ≤ e.kind ∧ e.kind ≤ 18 then max m (e.index + 1) else m) 0)).map fun j => pl.dec + j
    let s1 := (s.acqFresh pl cmps decs).modAcq fun a =>
      { a with blocks := a.blocks ++ pl.blocks, matched := a.matched.filter (fun i => !cmps.contains i), decs := a.decs.filter fun e => !decs.contains e.1 }
    let share := fun (b : AcqBlock) => (b.g, (⟨8192 * (l.rows (l.groups.getD b.g 0)).length, 0, 0, 0⟩ : AcqShare))
    let s2 := match pl.unit with
      | some u => (s1.wrs .ACQ_CTRL u [(.CAMP, c), (.OWNED, 1)]).modUnit u fun _ => { AcqUnit.reset with shares := pl.blocks.map share }
      | none => s1
    let s3 := s2.forEach cmps fun t i => t.wrs .ACQ_CMP_CFG i [(.CAMP, c), (.OWNED, 1)]
    let s4 := s3.forEach decs fun t j => t.wrs .ACQ_DEC_CFG j [(.CAMP, c), (.OWNED, 1)]
    s4.forEach l.acq fun t e => t.applyAcq pl e

/-- The bounds and word-unit setup of a logical cluster (R97, R121, R126, R131, R304). -/
def State.commitCluster (s : State) (lcl : Nat) : State :=
  let l := s.load
  let ws := tget [] l.cfgs lcl
  let w := fun i => (ws.getD i 0).toNat
  let k := s.loadCluster (l.assign.getD (lcl / 8) 0) (lcl % 8)
  let all := fun (_ : FieldSpec) => true
  let s1 := (((s.putFields .CL_BOUNDS k (w 0) all).putFields .WU_BOUNDS k (w 1) all).putFields .WU_CFG k (w 2) all).wr .WU_SR_PTR k .PTR 0
  if s1.rd .WU_CFG k .MODE = 0 then s1.wr .WU_CFG k .SR_LEN 0 else s1

/-- The latched spare map of a pitch comes into force (R36, R318, R329, R678): PENDING stays where an entry was written after the latch. -/
def State.commitMaps (s : State) (p : Nat) : State :=
  let old := fun (d : Nat) (r : RegName) i f => tget d s.load.latch ⟨r, i, f⟩
  let s1 := s.wrs .HS_PITCH_MAP p [(.ACTIVE_COL, old 8 .HS_PITCH_MAP p .SPARE_COL), (.PENDING, old 0 .HS_PITCH_MAP p .PENDING)]
  s1.forEach (pitchSlots p) fun t k =>
    t.wrs .HS_COL_MAP k [(.ACTIVE0, old 63 .HS_COL_MAP k .COL0), (.ACTIVE1, old 63 .HS_COL_MAP k .COL1), (.PENDING, old 0 .HS_COL_MAP k .PENDING)]

/-- The segments of the schedule (R40, R246). -/
def Load.schedule (l : Load) : List Seg := (tget (0, []) l.tables 0).2.map fun w => ⟨bitsOf w.toNat 0 12, bitsOf w.toNat 12 4⟩

/-- The camp's own record as the commit leaves it. -/
def State.campRecord (s : State) (hops : List Hop) (xbase : Nat) : Camp :=
  let l := s.load
  let others := l.others.map fun e => e.2.addr
  { (s.camp l.camp) with
    cycle := 0, segs := l.schedule, place := l.assign, tag := l.tag, modules := s.ownAddr :: others, peers := others, hops := hops,
    shares := s.loadShares.1, xbase := xbase, xsize := (s.loadXings hops).length, deepBase := l.own.base, deepPages := l.own.size,
    deepTab := l.assign.zipIdx.map fun e => (e.1, (l.table e.2 0).2), portTab := l.assign.zipIdx.map fun e => (e.1, (l.table e.2 1).2),
    design := s.designPages.map fun q => l.own.base + q, digest := leNat ((sha384 l.hashed).take 8), iso := l.head.iso,
    lclusters := l.clusters }

/-- The crossing table's entries of the camp written (R317, R726). -/
def State.commitXings (s : State) (hops : List Hop) (xbase : Nat) : State :=
  let ws := s.loadXings hops
  ({ s with xing := (ws.zipIdx.filter fun e => e.1 != 0).foldl (fun t e => tset t (xbase + e.2) e.1) s.xing } : State).showXing

/-- The registers set at commit (R278, R283, R318). -/
def State.commitRegs (s : State) : State :=
  let l := s.load
  let c := l.camp
  let g := s.loadReach
  let need := ((s.rawShares.filter (·.2)).map fun e => 2 * e.1.margin).foldl max 0
  let home := (l.others.map fun e => e.2.addr).all fun a => decide (s.ownAddr < a)
  let s1 := ((s.wrs .RUN_CAMP_CTRL c [(.HALT_ON_FAULT, 0), (.START_SRC, 0), (.STEP_COUNT, 0)]).wrs .RUN_CAMP_STATUS c
    [(.STATE, 2), (.CMD_PENDING, 0), (.CMD_ERR, 0), (.HALT_MIDCYCLE, 0), (.RAMPING, 0), (.HALT_CAUSE, 0), (.PITCH_COUNT, l.assign.length),
     (.SCHED_STEPS, l.head.steps), (.KEY_ID, l.keyId)])
  let s2 := ((s1.wrs .RUN_CAMP_TARGET c [(.MHZ, s.loadTarget), (.CHK_ALL, l.head.chkAll)]).wrs .RUN_CAMP_DRAM c [(.BUDGET, l.head.budget), (.NEED, s.dramNeed)]).wrs
    .GL_CAMP_SPAN c [(.REACH, g), (.NEED, need), (.HOPS, s.farthest fun _ => 1)]
  let s3 := s2.wrs .DC_CTRL c [(.LEAD, leadOf (tagZeroSteps l.schedule l.head.steps) g), (.HOME, bit home)]
  let s4 := s3.forEach l.head.tags.zipIdx fun t e =>
    (t.putFields .DC_TAG (16 * c + (e.2 + 1)) e.1 fun _ => true).wr .DC_ACC (16 * c + (e.2 + 1)) .ACC (bitsOf e.1 48 16)
  (s4.forEach (List.range l.clusters) State.commitCluster).wr .PW_CAMP c .LEVEL 0

/-- COMMIT on a listed module (R311, R318): the camp is LOADED, with the vectors of cycles 0 to LEAD queued (R242). -/
def State.commitHere (s : State) : State :=
  let c := s.load.camp
  let hops := s.loadHops.1
  let xbase := (s.xingBase (s.loadXings hops).length).getD 0
  let rec1 := s.campRecord hops xbase
  let s1 := ((s.commitRegs.commitXings hops xbase).modCamp c fun _ => rec1).forEach s.loadPitches State.commitMaps
  let s2 := (s1.setupAcq.makeVectors c 0 (s1.rd .DC_CTRL c .LEAD + 1)).showHop c
  s2.forEach (hops.map (·.port)) State.exitIdle

/-- The load is over and has succeeded (R324). -/
def State.loadDone (s : State) : State := ({ s with load := Load.reset }.wr .LD_STATUS 0 .STATE 5).irq 2

/-- COMMIT (R311): on the entry module once every listed module has passed, on another once it has passed itself. -/
def State.commitArrives (s : State) : State :=
  let l := s.load
  let ready := if l.entry then (List.range l.places.length).all fun m => l.reports.any fun e => e.1 == m && e.2.isNone else l.passed
  if l.active && l.failing.isNone && ready then
    let s1 := if l.entry then s.forEach l.others fun t e => t.originate e.2.addr 0 .commit else s
    (if l.lmod.isSome then s1.commitHere else s1).loadDone
  else s

/-- COMMIT. -/
def execCommit (s : State) : Host.Outcome State Fault Refusal := .next s.commitArrives

end Sys2Proof.Machine
end

