-- ==== Sys2Proof/Machine/Fabric.lean ====
section
/-! DEFINITION. The fabric of modules: HELLO and neighbours (R529 to R531), packets and their delivery (R532 to R534, R537), topology records (R535), and routes (R536 to R539, R550). -/

namespace Sys2Proof.Machine

/-- HELLO (R530, R531): what the neighbour says of itself, and its state; CONFLICT stays until FB_ID is written. -/
def execHello (port addr : Nat) (valid : Bool) (peerPort : Nat) (s : State) : Host.Outcome State Fault Refusal :=
  if s.hnState port = 8 ∨ s.hnState port = 9 then
    let s1 := s.wrs .FB_NBR port [(.ADDR, addr), (.ADDR_VALID, bit valid), (.PORT, peerPort)]
    .next (if s.rd .FB_NBR port .STATE = 3 then s1 else s1.setNbr port (s1.judgeNbr port))
  else .next s

/-- HELLO_TIMER (R530). -/
def execHelloTimer (port : Nat) (s : State) : Host.Outcome State Fault Refusal := .next (s.sendHello port)

/-- FB_ID_WRITE (R529 to R531, R535, R553). -/
def execFbIdWrite (addr : Nat) (valid : Bool) (s : State) : Host.Outcome State Fault Refusal :=
  s.asWrite .FB_ID 0 fun s => .next (s.setFbId addr valid)

/-- The camp of a fabric camp tag on this module (R29). -/
def State.tagCamp (s : State) (tag : Nat) : Option Nat :=
  (List.range 64).find? fun c => decide (2 ≤ s.campState c) && s.spans c && (s.camp c).tag == tag

/-- Bytes of a fragment are kept until the last one has come (R532): the whole packet, where this one completes it. -/
def State.joinParts (s : State) (pk : Packet) (b : List Byte) : Option (List Byte) × State :=
  let k := (pk.src, pk.dst, pk.kind)
  let all := if pk.frag = 0 then b else tget [] s.fab.parts k ++ b
  if pk.last then (some all, s.modFab fun f => { f with parts := tdel f.parts k })
  else (none, s.modFab fun f => { f with parts := tset f.parts k all })

/-- A packet of KIND 0 delivered here (R309, R311, R312, R537): the entry module, and a module that holds no entry of the load, keep nothing of it. DESIGN CHOICE (log 34), safe. -/
def State.loadPacket (s : State) (pk : Packet) : State :=
  let mine := s.load.active && !s.load.entry && s.load.origin == pk.src
  if pk.src = s.ownAddr then s
  else match pk.data with
    | .places ps => s.placementArrives pk.src ps
    | .bytes b =>
      if mine then
        match s.joinParts pk b with
        | (some all, t) => t.modLoad fun l => { l with stream := l.stream ++ all }
        | (none, t) => t
      else s
    | .commit => if mine then s.commitArrives else s
    | .abort => if mine then s.abortArrives else s
    | _ => s

/-- A packet of KIND 4 delivered here (R252, R532, R568). -/
def State.mgmtPacket (s : State) (src : Nat) (m : Mgmt) : State :=
  match m with
  | .dtInc tag inc =>
    match s.tagCamp tag with
    | some c => (s.modCamp c fun x => { x with dtNew := some inc }).originate src 4 (.mgmt (.dtAck tag))
    | none => s
  | .dtAck tag =>
    match s.tagCamp tag with
    | some c =>
      let s1 := s.modCamp c fun x => { x with dtAcks := x.dtAcks.erase src }
      if (s1.camp c).dtAcks = [] then s1.wr .TM_DT_CTRL c .BUSY 0 else s1
    | none => s
  | .snapArm tag target deep =>
    match s.tagCamp tag with
    | some c =>
      let e := s.partErr c target
      if e = 0 then s.takeArm c target false deep
      else (s.wr .DC_SNAP_STATUS c .ERR e).originate src 4 (.mgmt (.snapReport tag e))
    | none => s
  | .snapReport tag err =>
    match s.tagCamp tag with
    | some c =>
      if s.isHome c = false ∨ (s.snapState c ≠ 1 ∧ s.snapState c ≠ 2) then s
      else if err = 0 then (s.modCamp c fun x => { x with snap := { x.snap with reported := src :: x.snap.reported } }).snapClose c
      else s.abandonSnap c err
    | none => s

/-- A packet of KIND 2 delivered here (R438, R441): a message for the channel it names. -/
def State.channelPacket (s : State) (pk : Packet) (frozen : Nat) : State :=
  match pk.data with
  | .bytes b =>
    match s.joinParts pk b with
    | (some all, t) => t.peerMessage (all.getD 9 0).toNat all frozen
    | (none, t) => t
  | _ => s

/-- What a packet delivered here does. -/
def State.deliver (s : State) (pk : Packet) (frozen : Nat) : State :=
  match pk.kind, pk.data with
  | 0, _ => s.loadPacket pk
  | 1, .ack m a => s.ackArrives m a
  | 2, _ => s.channelPacket pk frozen
  | 4, .mgmt m => s.mgmtPacket pk.src m
  | _, _ => s

/-- A packet that has come on a port is routed (R529, R531, R534), and one that is for this module does its work; with no port it is one that this module has originated to itself. A port that is not ACTIVE passes no packet. -/
def State.packetIn (s : State) (port : Option Nat) (pk : Packet) (frozen : Nat) : State :=
  match port with
  | none => s.deliver pk frozen
  | some p =>
    if s.nbrActive p then
      let r := s.routePacket (some p) pk
      if r.1 then r.2.deliver pk frozen else r.2
    else s.fbDrop 1

/-- LOAD_PACKET (R309, R311, R532, R537): packets of KIND 0 and 1; one of a reserved KIND is dropped. -/
def execLoadPacket (port : Option Nat) (pkt : Packet) (s : State) : Host.Outcome State Fault Refusal :=
  .next (if 2 ≤ pkt.kind ∧ pkt.kind ≤ 4 then s else s.packetIn port pkt 0)

/-- CHANNEL_PACKET (R438, R534). -/
def execChannelPacket (port : Option Nat) (pkt : Packet) (frozen : Nat) (s : State) : Host.Outcome State Fault Refusal :=
  .next (if pkt.kind = 2 then s.packetIn port pkt frozen else s)

/-- MGMT (R252, R568). -/
def execMgmt (port : Option Nat) (pkt : Packet) (s : State) : Host.Outcome State Fault Refusal :=
  .next (if pkt.kind = 4 then s.packetIn port pkt 0 else s)

/-- A TOPO packet's record (R535): kept and sent on where its VERSION is newer than the one held; from the module's own address with another serial it shows a conflict (R531). One whose TTL is used up goes no further (R534). -/
def State.topoArrives (s : State) (p : Nat) (pk : Packet) (t : Topo) : State :=
  if pk.src = s.ownAddr then (if t.serial = s.rd .LD_SERIAL 0 .SERIAL then s else s.setNbr p 3)
  else
    let newer := (s.fab.topo.find? fun e => e.1 == pk.src).all fun e => decide (0 < sdiff 32 t.version e.2.version)
    if newer then
      let s1 := s.putTopo pk.src t
      let outs := (List.range 6).filter fun q => q != p && s1.nbrActive q
      if pk.ttl ≤ 1 then (if outs.isEmpty then s1 else s1.fbDrop 1)
      else s1.forEach outs fun u q => u.sendFlit q ⟨1, 0, .packet { pk with ttl := pk.ttl - 1 }⟩
    else s

/-- TOPO (R531, R535). -/
def execTopo (port : Nat) (pkt : Packet) (s : State) : Host.Outcome State Fault Refusal :=
  if s.rd .FB_ID 0 .ADDR_VALID = 1 ∧ s.nbrActive port = true ∧ pkt.kind = 3 then
    match pkt.data with
    | .topo t => .next (s.topoArrives port pkt t)
    | _ => .next s
  else .next s

/-- TOPO_TIMER (R535). -/
def execTopoTimer (s : State) : Host.Outcome State Fault Refusal := .next s.flood

/-- TOPO_RECORD_EXPIRE (R535): a module renews its own record itself. -/
def execTopoRecordExpire (addr : Nat) (s : State) : Host.Outcome State Fault Refusal :=
  .next (if s.rd .FB_ID 0 .ADDR_VALID = 1 ∧ addr = s.ownAddr then s else s.dropTopo addr)

/-- A link of the fabric as both ends report it (R536): address and port at each end. -/
structure FabLink where
  a : Nat
  p : Nat
  b : Nat
  q : Nat
  deriving DecidableEq, Repr

/-- The record of port `p` at address `a`. -/
def State.topoPort (s : State) (a p : Nat) : Option TopoPort :=
  (s.fab.topo.find? fun e => e.1 == a).bind fun e => (e.2.ports[p]?).bind id

/-- The links that both ends report as ACTIVE to each other (R536), once in each direction. -/
def State.fabLinks (s : State) : List FabLink :=
  s.fab.topo.flatMap fun e => (List.range 6).filterMap fun p =>
    match s.topoPort e.1 p with
    | some x => match s.topoPort x.addr x.port with
      | some y => if y.addr = e.1 ∧ y.port = p then some ⟨e.1, p, x.addr, x.port⟩ else none
      | none => none
    | none => none

/-- Hops to address `d` from every address (R536). -/
def hopsTo (links : List FabLink) (n d : Nat) : List (Option Nat) :=
  let edges := links.map fun l => (l.a, l.b, 1)
  (List.range n).foldl (fun x _ => relax edges x) ((List.replicate 128 none).set d (some 0))

/-- The first link of the path from `a`, given the hops to the destination (R536): the lowest neighbour address, then the lowest local port. -/
def firstLink (links : List FabLink) (hops : List (Option Nat)) (a : Nat) : Option FabLink :=
  ((links.filter fun l => l.a == a && match hops.getD a none, hops.getD l.b none with
      | some x, some y => y + 1 == x
      | _, _ => false)).foldl (fun m l => match m with
    | none => some l
    | some x => if l.b < x.b ∨ (l.b = x.b ∧ l.p < x.p) then some l else m) none

/-- The tree ports of this module (R537): toward the root, and of the modules whose first hop toward it leads here. -/
def State.treePorts (s : State) : List Nat :=
  let links := s.fabLinks
  let hops := hopsTo links s.fab.topo.length (s.rd .FB_STATUS 0 .ROOT)
  let up := (firstLink links hops s.ownAddr).toList.map (·.p)
  let down := (s.fab.topo.filter fun e => e.1 != s.ownAddr).filterMap fun e =>
    match firstLink links hops e.1 with
    | some l => if l.b = s.ownAddr then some l.q else none
    | none => none
  (List.range 6).filter fun p => up.contains p || down.contains p

/-- OUT of a destination (R536). -/
def State.routeTo (s : State) (d : Nat) : Nat :=
  if d = s.ownAddr then 6
  else if s.fab.topo.any fun e => e.1 == d then
    let links := s.fabLinks
    match firstLink links (hopsTo links s.fab.topo.length d) s.ownAddr with
    | some l => l.p
    | none => 7
  else 7

/-- The tables of a bank as R536 and R537 give them. -/
def State.routeTable (s : State) (bank : Nat) : List ((Nat × Nat × Nat) × (Nat × Nat)) :=
  let tree := s.treePorts
  let mask := fun t => tree.foldl (fun m p => if p = t then m else m + 2 ^ p) 64
  (List.range 7).flatMap fun t =>
    ((List.range 128).map fun d => ((bank, t, d), (s.routeTo d, 0))) ++ [((bank, t, 255), (7, if t = 6 ∨ tree.contains t = true then mask t else 0))]

/-- ROUTE_COMPUTE (R536, R537, R553): the inactive bank is written and made active. -/
def execRouteCompute (s : State) : Host.Outcome State Fault Refusal :=
  if s.rd .FB_CTRL 0 .ROUTE_HOST = 0 then
    let bank := 1 - s.rd .FB_CTRL 0 .ACTIVE
    let tab := s.routeTable bank
    let s1 := s.modFab fun f => { f with routes := tab.foldl (fun r e => if e.2 = (7, 0) then r else tset r e.1 e.2) (f.routes.filter fun e => e.1.1 != bank) }
    let tree := s.treePorts
    .next ((s1.wr .FB_CTRL 0 .ACTIVE bank).forEach (List.range 6) fun t p => t.wr .FB_NBR p .TREE (bit (tree.contains p)))
  else .next s

/-- A refused fabric write (R538, R550). -/
def State.fbErr (s : State) : State := s.wr .FB_STATUS 0 .CMD_ERR 1

/-- FB_ACTIVE_WRITE (R538, R550). -/
def execFbActiveWrite (active : Nat) (s : State) : Host.Outcome State Fault Refusal :=
  s.asWrite .FB_CTRL 0 fun s =>
  .next (if s.rd .FB_CTRL 0 .ROUTE_HOST = 1 then s.wr .FB_CTRL 0 .ACTIVE active else s.fbErr)

/-- ROUTE_HOST_WRITE (R538). -/
def execRouteHostWrite (host : Bool) (s : State) : Host.Outcome State Fault Refusal :=
  s.asWrite .FB_CTRL 0 fun s =>
  .next (if s.ownInFlight then s.fbErr else s.wr .FB_CTRL 0 .ROUTE_HOST (bit host))

end Sys2Proof.Machine
end

