-- ==== Sys2Proof/Machine/Health.lean ====
section
/-! DEFINITION. Scrubbing (R666 to R670), built-in self-test (R671, R672), the wear record (R673, R674), and writes of the spare maps (R35, R675, R676, R678). -/

namespace Sys2Proof.Machine

/-- A scrub engine reads a place now (R666, R668, R670): the pitch is powered, the engine is not being reloaded, and in host mode its pass covers the place. -/
def State.scrubs (s : State) (k kind : Nat) : Bool :=
  let d := k / 72
  s.powered (pitchOf k) && s.rd .SC_STATUS d .RELOADING == 0
    && (s.rd .HS_CTRL 0 .SCRUB_HOST == 0 || s.health.scrubs.any fun e => e.1 == d && e.2 == (kind, k % 72))

/-- SCRUB_READ (R666, R667, R669): a cluster-memory word is asked for as requester 2; of the other memories `err` says what the read found (0 nothing, 1 a single-bit error, 2 an uncorrectable word), and for the triplicated configuration any error is a copy rewritten. -/
def execScrubRead (loc : ClusterSite) (kind unit addr err : Nat) (s : State) : Host.Outcome State Fault Refusal :=
  let k := 72 * loc.die + loc.slot
  if s.scrubs k kind then
    if kind = 0 then
      .next (if (s.cluster k).reqs.any fun r => r.who == 2 then s
        else s.modCluster k fun cl => { cl with reqs := cl.reqs ++ [⟨2, addr % 65536, .scrub⟩] })
    else if err = 0 then .next s
    else if 5 ≤ kind then .next (s.bump .SC_VOTE_COUNT loc.die .COUNT 1)
    else .next ((s.scError k kind unit addr 0 (err == 2)).countUnit ⟨loc.die, loc.slot, unitOfKind kind unit⟩ (err == 2))
  else .next s

/-- SCRUB_GO (R668, R686). -/
def execScrubGo (die kind slot : Nat) (s : State) : Host.Outcome State Fault Refusal :=
  s.asWrite .SC_CTRL die fun s =>
  let s1 := s.wrs .SC_CTRL die [(.KIND, kind), (.SLOT, slot)]
  if s.rd .HS_CTRL 0 .SCRUB_HOST = 1 ∧ s.rd .SC_STATUS die .BUSY = 0 ∧ kind ≤ 4 then
    .next { s1.wr .SC_STATUS die .BUSY 1 with health := { s1.health with scrubs := tset s1.health.scrubs die (kind, slot % 128) } }
  else .next s1

/-- SCRUB_PASS_DONE (R668): a pass completes; one that a reload has interrupted goes on. -/
def execScrubPassDone (die : Nat) (s : State) : Host.Outcome State Fault Refusal :=
  let host := s.rd .HS_CTRL 0 .SCRUB_HOST == 1
  if s.rd .SC_STATUS die .RELOADING = 1 ∨ (host = true ∧ s.rd .SC_STATUS die .BUSY = 0) then .next s
  else
    let s1 := (s.bump .SC_STATUS die .PASSES 1).wr .SC_STATUS die .BUSY 0
    .next { s1 with health := { s1.health with scrubs := tdel s1.health.scrubs die } }

/-- An engine is reloaded (R670, R696). -/
def State.reloadScrub (s : State) (d : Nat) : State :=
  if s.rd .SC_STATUS d .RELOADING = 1 then s
  else
    let s1 := ((s.wr .SC_STATUS d .RELOADING 1).bump .HS_SUP_COUNT 0 .COUNT 1).logEvent .HS_SUP_LOG 0 [(.DIE, d)] id
    if s.rd .HS_SUP_LOG 0 .VALID = 0 then s1.irq 4 else s1

/-- SUPERVISOR_CHECK (R670): `bad` are the E-dies whose checksum differs from the supervisor's copy. The checksums shown are free values: the spec does not lay the configuration out. DESIGN CHOICE (log 73), safe. -/
def execSupervisorCheck (bad : List Nat) (s : State) : Host.Outcome State Fault Refusal :=
  let dies := List.range s.part.dies
  let s1 := (s.forEach dies fun t d => t.wr .SC_CHECKSUM d .CRC (s.openAt d)).draw
  .next (s1.forEach (dies.filter bad.contains) State.reloadScrub)

/-- SCRUB_RELOAD_DONE (R670). -/
def execScrubReloadDone (die : Nat) (s : State) : Host.Outcome State Fault Refusal := .next (s.wr .SC_STATUS die .RELOADING 0)

/-- The camp that a load under way on this module places, with its pitches. -/
def State.loadNames (s : State) (p : Nat) : Bool := s.load.active && s.load.own.pitches.testBit p && s.load.lmod.isSome

/-- A BIST may run on its target (R671). -/
def State.bistOk (s : State) (target i : Nat) : Bool :=
  match target with
  | 0 => s.pitchExists i && (s.pitchCamp i).isNone && !s.loadNames i
  | 1 => decide (i < 8) && s.dmState i == 2 && (List.range 64).all (fun c => s.campState c == 0) && s.validRanges.isEmpty
  | 2 => decide (i < 6) && (s.liveCamps fun c => s.hopOnPort c i).isEmpty && !(s.load.active && s.rd .FB_NBR i .TREE == 1)
  | _ => false

/-- BIST (R671, R684): refused with RESULT = 2, or begun; a pitch that is off is powered up, and a port leaves UP. -/
def execBist (target index : Nat) (s : State) : Host.Outcome State Fault Refusal :=
  s.asWrite .HS_CMD 0 fun s =>
  if s.rd .HS_CMD 0 .BUSY = 1 then .next s
  else
    let t := target % 4
    let i := index % 64
    let s1 := s.wrs .HS_CMD 0 [(.TARGET, t), (.INDEX, i)]
    if s.bistOk t i then
      let s2 := { s1.wr .HS_CMD 0 .BUSY 1 with health := { s1.health with bist := some (t, i) } }
      match t with
      | 0 => .next (s2.domOn i)
      | 1 => .next s2
      | _ => .next ((s2.wr .HN_STATUS i .STATE 0).setNbr i 0)
    else .next (s1.wr .HS_CMD 0 .RESULT 2)

/-- The unit lies in the target of a BIST (R671, R673). -/
def inTarget (target i : Nat) (u : UnitId) : Bool :=
  match target with
  | 0 => u.die == i / 8 && decide (u.die < 8) && 72 * u.die + u.slot == 9 * i + (72 * u.die + u.slot) % 9 && decide (u.slot < 72) && decide (u.unit ≤ 116)
  | 1 => u.die == 8 && u.slot == i && decide (u.unit ≤ 1)
  | _ => u.die == 8 && u.slot == i && decide (u.unit ≤ 8)

/-- BIST_DONE (R671, R672, R675): failing units are recorded with KIND 3 and marked failed in ascending order; failing rows of a channel (subchannel, bank, row) wait for repair in hardware mode. The pitch is cleared, the channel's contents are lost, the port retrains. -/
def execBistDone (fails : List UnitId) (rows : List (Nat × Nat × Nat)) (s : State) : Host.Outcome State Fault Refusal :=
  match s.health.bist with
  | none => .next s
  | some (t, i) =>
    let units := ((fails.filter (inTarget t i)).foldl (fun l u => insertUnit u l) [])
    let s1 := units.foldl (fun x u => (x.wearAdd 3 u 0).markFailed u) s
    let s2 := if t = 1 ∧ s.rd .HS_CTRL 0 .SPARE_HOST = 0 then
        { s1 with health := { s1.health with repairs := s1.health.repairs ++ rows.map fun r => (i, r.1, r.2.1, r.2.2) } }
      else s1
    let s3 := { (s2.wrs .HS_CMD 0 [(.BUSY, 0), (.RESULT, bit (!units.isEmpty))]).irq 4 with health := { s2.health with bist := none } }
    match t with
    | 0 => .next (s3.clearPitch i)
    | 1 => .next (s3.sealChan i)
    | _ => .next (s3.retrain i)

/-- The error sums of the period go into the record and are cleared (R674). -/
def State.flushWear (s : State) : State :=
  let h := s.health
  let s1 := s.forEach (h.ce.filter fun e => e.2 != 0) fun t e => t.wearAdd 1 e.1 e.2
  let s2 := s1.forEach (h.ue.filter fun e => e.2 != 0) fun t e => t.wearAdd 2 e.1 e.2
  { s2 with health := { s2.health with ce := [], ue := [] } }

/-- FLUSH_WEAR (R674, R685). -/
def execFlushWear (target index : Nat) (s : State) : Host.Outcome State Fault Refusal :=
  s.asWrite .HS_CMD 0 fun s =>
  .next (if s.rd .HS_CMD 0 .BUSY = 1 then s else (s.wrs .HS_CMD 0 [(.TARGET, target), (.INDEX, index)]).flushWear)

/-- WEAR_FLUSH_TIMER (R674). -/
def execWearFlushTimer (s : State) : Host.Outcome State Fault Refusal := .next s.flushWear

/-- An entry counted into the sum of its unit and kind. DEDUCED (log 72), unsafe. -/
def sumWear (e : WearEntry) : List WearEntry → List WearEntry
  | [] => [e]
  | x :: l => if x.kind = e.kind ∧ x.die = e.die ∧ x.slot = e.slot ∧ x.unit = e.unit then { x with count := satAdd 32 x.count e.count } :: l else x :: sumWear e l

/-- WEAR_COMPACT_DONE (R674): entries of KIND 3 to 7 stay, the others are summed by unit and kind, and what waited is written. -/
def execWearCompactDone (s : State) : Host.Outcome State Fault Refusal :=
  if s.rd .HS_WEAR 0 .FULL = 1 then
    let old := s.health.wear
    let sums := ((old.filter fun e => decide (e.kind < 3)).foldl (fun l e => sumWear e l) []).map fun e => { e with time := s.nowNs }
    let wear := (old.filter fun e => decide (3 ≤ e.kind)) ++ sums
    let s1 := { s with health := { s.health with wear := wear, waiting := [] } }
    let s2 := s1.wrs .HS_WEAR 0 [(.USED, min wear.length 0xFFFF), (.FULL, bit (decide (wearMax ≤ wear.length)))]
    .next (s2.forEach s.health.waiting State.wearPut)
  else .next s

/-- A write of a spare map in hardware mode is ignored and flagged (R675). -/
def State.hsErr (s : State) : State := s.wr .HS_STATUS 0 .CMD_ERR 1

/-- HS_PITCH_MAP_WRITE (R35, R36, R675). -/
def execHsPitchMapWrite (pitch spareCol : Nat) (s : State) : Host.Outcome State Fault Refusal :=
  s.asWrite .HS_PITCH_MAP pitch fun s =>
  .next (if s.rd .HS_CTRL 0 .SPARE_HOST = 0 then s.hsErr
    else ((s.wr .HS_PITCH_MAP pitch .SPARE_COL spareCol).pendMap .HS_PITCH_MAP pitch).refreshPitch pitch)

/-- HS_BP_MAP_WRITE (R35, R37, R675); the entry is that of cluster 72 × die + slot. -/
def execHsBpMapWrite (loc : ClusterSite) (spare0 spare1 : Nat) (failed : Bool) (s : State) : Host.Outcome State Fault Refusal :=
  s.asWrite .HS_BP_MAP (72 * loc.die + loc.slot) fun s =>
  let k := 72 * loc.die + loc.slot
  .next (if s.rd .HS_CTRL 0 .SPARE_HOST = 0 then s.hsErr
    else (s.wrs .HS_BP_MAP k [(.SPARE0, spare0), (.SPARE1, spare1), (.FAILED, bit failed)]).refreshPitch (pitchOf k))

/-- HS_COL_MAP_WRITE (R35, R675, R678). -/
def execHsColMapWrite (loc : ClusterSite) (col0 col1 : Nat) (s : State) : Host.Outcome State Fault Refusal :=
  s.asWrite .HS_COL_MAP (72 * loc.die + loc.slot) fun s =>
  let k := 72 * loc.die + loc.slot
  .next (if s.rd .HS_CTRL 0 .SPARE_HOST = 0 then s.hsErr
    else ((s.wrs .HS_COL_MAP k [(.COL0, col0), (.COL1, col1)]).pendMap .HS_COL_MAP k).refreshPitch (pitchOf k))

end Sys2Proof.Machine
end

