-- ==== Sys2Proof/Machine/HostRead.lean ====
section
/-! DEFINITION. What the host reads (R13 to R20, R53, R690, R694, R703, R704): which register an offset reaches, what each field reads, read-clear fields, latches and holding registers. -/

namespace Sys2Proof.Machine

/-- A number made of bits, lowest first. -/
def bitsOfList (l : List Bool) : Nat := l.foldr (fun b n => bit b + 2 * n) 0

/-- The step clock that PW_CAMP shows (R644, R645, R661): 0 unless RUNNING; on the ramp, 250 MHz and the steps taken. -/
def State.campMhz (s : State) (c : Nat) : Nat :=
  let t := s.rd .RUN_CAMP_TARGET c .MHZ
  if s.campState c ≠ 3 then 0
  else if s.rd .RUN_CAMP_STATUS c .RAMPING = 1 then 250 + (t - 250) * ((s.camp c).ramp.getD 0) / 64
  else levelMhz t (s.rd .PW_CAMP c .LEVEL)

/-- The parameter that DM_TRAIN_SEL names (R346); LANE counts for PARAM 0 to 3 only. -/
def State.trainSel (s : State) (c : Nat) : TrainKey :=
  let p := s.rd .DM_TRAIN_SEL c .PARAM
  ⟨c, p, s.rd .DM_TRAIN_SEL c .SUB, if p < 4 then s.rd .DM_TRAIN_SEL c .LANE else 0⟩

/-- The route entry that FB_RT_SEL names (R534, R553): bank, table, destination. -/
def State.rtSel (s : State) : Nat × Nat × Nat :=
  (s.rd .FB_RT_SEL 0 .BANK, min 6 (s.rd .FB_RT_SEL 0 .TABLE), s.rd .FB_RT_SEL 0 .DEST)

/-- The word of the fallback buffer that TR_FB_SEL names (R628): zero while TR_RING.KEY_ID is not 0. -/
def State.fbWord (s : State) : Nat :=
  if s.rd .TR_RING 0 .KEY_ID = 0 then
    match s.trace.fb[s.rd .TR_FB_SEL 0 .FRAME]? with
    | some f => leNat ((f.bytes.drop (4 * s.rd .TR_FB_SEL 0 .WORD)).take 4)
    | none => 0
  else 0

/-- The word of a public key that ID_KEY_SEL names (R705). -/
def State.keyWord (s : State) : Nat :=
  let k := if s.rd .ID_KEY_SEL 0 .KEY = 1 then s.part.fwKey else s.part.devKey
  leNat (((k.take 97).drop (4 * s.rd .ID_KEY_SEL 0 .WORD)).take 4)

/-- The oldest stamp of a capture input (R573). DESIGN CHOICE (log 41), unsafe. -/
def State.stamp (s : State) (i : Nat) : Option Nat := (tget [] s.time.stamps i).head?

/-- The size of a camp's snapshot region in pages for DEEP as it stands (R259). -/
def State.snapSize (s : State) (c : Nat) : Nat :=
  let l := (s.camp c).lclusters
  if l = 0 then 0 else 1 + 85 * l + (if s.rd .DC_SNAP_CTRL c .DEEP = 1 then (s.camp c).design.length else 0)

/-- What a register field reads (R15): the stored value, but for fields that show something held elsewhere. -/
def State.regField (s : State) (r : RegName) (i : Nat) (f : FName) : Nat :=
  match r with
  | .RUN_CAMP_STATUS => if f = .STALLED then bit (s.campFrozen i) else s.rd r i f
  | .RUN_CAMP_CYCLE_LO => (s.camp i).cycle.toNat % 2 ^ 40
  | .DC_SNAP_SIZE => s.snapSize i % 2 ^ 26
  | .ID_ERR_SUMMARY =>
    if f = .LOGS then bitsOfList ((List.range 16).map s.logsBit) else bitsOfList ((List.range 8).map s.dieLogs)
  | .ID_KEY_DATA => s.keyWord
  | .MP_KEYSTATE =>
    if f = .FROZEN then bit (s.keyUnder i s.deep.frozen)
    else if f = .POISONED then bit (s.keyUnder i (s.deep.poison.map (·.1)))
    else s.rd r i f
  | .TS_LOG_POS_LO => (s.camp i).logPos % 2 ^ 40
  | .TS_TASK_FLAGS => (s.task s.selTask).flags.toNat
  | .TS_TASK_MASK => (s.task s.selTask).mask.toNat
  | .TS_TASK_CFG =>
    let t := s.task s.selTask
    if f = .DOMAIN then t.dom else if f = .FLOW then t.flow else if f = .AFFINITY then t.aff else if f = .STATE then t.state
    else if f = .PEND_CANCEL then bit t.pendCancel else t.core
  | .TS_TASK_CTX => (s.task s.selTask).ctx
  | .TS_TASK_END => if f = .CAUSE then (s.task s.selTask).cause else (s.task s.selTask).ticket
  | .CC_PC => if s.rd .CC_STATUS i .PL = 2 then 0 else (s.core i).pc
  | .CC_DOM_CFG => if f = .LOCKED then bit (s.domLocked i) else s.rd r i f
  | .DM_TRAIN_VAL => tget 0 s.deep.train (s.trainSel i)
  | .HN_LANE_TAP =>
    let t := tget (0, 0, 0) (s.hn i).taps (s.laneSel i)
    if f = .PRE2 then t.1 else if f = .PRE1 then t.2.1 else if f = .POST1 then t.2.2 else 63 - t.1 - t.2.1 - t.2.2
  | .HN_LANE_ERR => tget 0 (s.hn i).errs (s.laneSel i)
  | .FB_RT_ENTRY =>
    let k := s.rtSel
    let e := s.routeAt k.1 k.2.1 k.2.2
    if f = .OUT then e.1 else e.2
  | .TM_NOW_FRAC => s.now % 2 ^ 32
  | .TM_DT_FRAC => (s.camp i).dtime % 2 ^ 32
  | .TM_CAP_FRAC => (s.stamp i).getD 0 % 2 ^ 32
  | .TM_CAP_CFG => if f = .LEVEL then (tget [] s.time.stamps i).length else s.rd r i f
  | .TR_STATUS =>
    if f = .STATE then (if s.rd .TR_CTRL 0 .EN = 0 then 0 else if s.traceCause = 0 then 1 else 2)
    else if f = .FULL then bit s.traceFull
    else if f = .CAUSE then s.traceCause
    else if f = .DRAINING then bit s.trace.draining
    else s.rd r i f
  | .TR_FB_STATUS => if f = .LEVEL then s.trace.fb.length else s.trace.head
  | .TR_FB_DATA => s.fbWord
  | .TR_CHAL_LO => s.challenge % 2 ^ 40
  | .TR_CHAL_HI => s.challenge / 2 ^ 40 % 2 ^ 24
  | .PW_CAMP => if f = .MHZ then s.campMhz i else s.rd r i f
  | .PW_STATUS => if f = .LIMITING then bit ((List.range 64).any fun c => s.rd .PW_CAMP c .LEVEL != 0) else s.rd r i f
  | _ => s.rd r i f

/-- The 40 bits of a register (R13, R15, R16): write-only and reserved fields read zero. -/
def State.regValue (s : State) (r : RegName) (i : Nat) : Nat :=
  (fieldsOf r).foldl (fun a x => a + (if x.acc = .wo then 0 else s.regField r i x.name % 2 ^ x.width) * 2 ^ x.lo) 0

/-- The read-clear fields of a register are cleared (R15, R19). -/
def State.clearRc (s : State) (r : RegName) (i : Nat) : State :=
  match r with
  | .HN_LANE_ERR => s.modHn i fun h => { h with errs := tset h.errs (s.laneSel i) 0 }
  | .TM_CAP_FRAC => { s with time := { s.time with stamps := tmod [] s.time.stamps i fun l => l.drop 1 } }
  | _ => s.forEach ((fieldsOf r).filter fun x => x.acc == .rc) fun t x => t.wr r i x.name 0

/-- What else a read does (R20, R53, R455, R573, R578, R628, R705): the upper bits of a count or of a time are latched, and a word selector advances. -/
def State.readLatch (s : State) (r : RegName) (i : Nat) : State :=
  match r with
  | .RUN_CAMP_CYCLE_LO => s.wr .RUN_CAMP_CYCLE_HI i .CYCLE ((s.camp i).cycle.toNat / 2 ^ 40)
  | .TS_LOG_POS_LO => s.wr .TS_LOG_POS_HI i .POS ((s.camp i).logPos / 2 ^ 40)
  | .TM_NOW_FRAC => (s.wr .TM_NOW_NS_LO 0 .NS s.nowNs).wr .TM_NOW_NS_HI 0 .NS (s.nowNs / 2 ^ 40)
  | .TM_DT_FRAC =>
    let ns := (s.camp i).dtime / 2 ^ 32
    (s.wr .TM_DT_NS_LO i .NS ns).wr .TM_DT_NS_HI i .NS (ns / 2 ^ 40)
  | .TM_CAP_FRAC => match s.stamp i with
    | some t => (s.wr .TM_CAP_NS_LO i .NS (t / 2 ^ 32)).wr .TM_CAP_NS_HI i .NS (t / 2 ^ 72)
    | none => s
  | .TR_FB_DATA => s.wr .TR_FB_SEL 0 .WORD (s.rd .TR_FB_SEL 0 .WORD + 1)
  | .ID_KEY_DATA => s.wr .ID_KEY_SEL 0 .WORD (s.rd .ID_KEY_SEL 0 .WORD + 1)
  | _ => s

/-- A read of a register (R14, R19, R20): the whole slot (2), its lower half (0) or its upper half (1). -/
def State.readReg (s : State) (r : RegName) (i part : Nat) : Nat × State :=
  let v := s.regValue r i
  let s1 := s.unhold r i
  if part = 1 then
    match s.hold.find? fun e => e.1 == (r, i) with
    | some e => (e.2, s1)
    | none => (v / 2 ^ 32, s)
  else
    let s2 := (s1.readLatch r i).clearRc r i
    if part = 2 then (v, s2) else (v % 2 ^ 32, { s2 with hold := tset s2.hold (r, i) (v / 2 ^ 32) })

/-- A part of a slot: 2 for a 64-bit access, otherwise the half that the offset names. -/
def partOf (off : Nat) (wide : Bool) : Nat := if wide then 2 else off % 8 / 4

/-- An aligned access (R14, R694). -/
def aligned (off : Nat) (wide : Bool) : Bool := off % (if wide then 8 else 4) == 0

/-- An access of a wrong size or alignment (R690, R694): a read is aborted, a write dropped, and both are logged. -/
def State.badAccess (s : State) (off : Nat) (write : Bool) : State :=
  let s1 := s.idError 1 0 off 0
  if write then s1 else s1.emit (.answer 0 true)

/-- An aligned read of BAR0 (R690): what it returns. -/
def State.bar0Read (s : State) (off part : Nat) : Nat × State :=
  match s.reach off with
  | .muted => (0, s)
  | .off => (0, s.idError 2 0 off 0)
  | .here => match regAt (off / 8 * 8) with
    | none => (0, s)
    | some (r, i) => s.readReg r i part

/-- A word of the MSI-X table (R694): address low and high, data, and the vector control with its mask bit. -/
def State.msixWord (s : State) (n : Nat) : Nat :=
  if n % 4 = 3 then bit (tget true s.host.masked (n / 4)) else tget 0 s.host.table n

/-- A 32-bit word of BAR4 (R694): the doorbells read zero. -/
def State.bar4Word (s : State) (off : Nat) : Nat :=
  if 0x101000 ≤ off ∧ off < 0x102000 then s.msixWord ((off - 0x101000) / 4)
  else if 0x102000 ≤ off ∧ off < 0x102020 then
    bitsOfList ((List.range 32).map fun b => s.host.pba.contains (8 * (off - 0x102000) + b))
  else 0

/-- A read of a register, of the MSI-X table or of the PBA, with its answer. -/
def State.hostRead (s : State) (at' : RegSpace) (wide : Bool) : State :=
  match at' with
  | .bar0 off =>
    if aligned off wide then
      let w := s.bar0Read off (partOf off wide)
      w.2.emit (.answer w.1 false)
    else s.badAccess off false
  | .bar4 off =>
    if aligned off wide then
      s.emit (.answer (s.bar4Word off + (if wide then 2 ^ 32 * s.bar4Word (off + 4) else 0)) false)
    else s.badAccess off false
  | .msixControl => s.emit (.answer (bit s.host.maskAll + 2 * bit s.host.msixEnable) false)

/-- RC_READ (R15, R18, R19): a read, which clears the read-clear fields it reaches. -/
def execRcRead (place : RegSpace) (wide : Bool) (s : State) : Host.Outcome State Fault Refusal := .next (s.hostRead place wide)

/-- HOLDING_REGISTER_READ (R20): a 32-bit read at offset 0x4 of a slot. -/
def execHoldingRegisterRead (slot : Nat) (s : State) : Host.Outcome State Fault Refusal :=
  .next (s.hostRead (.bar0 (slot / 8 * 8 + 4)) false)

/-- A read of a named register: the whole slot, or its lower half. -/
def State.namedRead (s : State) (r : RegName) (stride i : Nat) (wide : Bool) : State :=
  s.hostRead (.bar0 ((placeOf r).base + stride * i)) wide

/-- RUN_CAMP_CYCLE_LO_READ (R53). -/
def execRunCampCycleLoRead (camp : Nat) (wide : Bool) (s : State) : Host.Outcome State Fault Refusal :=
  .next (s.namedRead .RUN_CAMP_CYCLE_LO 0x40 camp wide)

/-- TS_LOG_POS_LO_READ (R20, R455). -/
def execTsLogPosLoRead (camp : Nat) (wide : Bool) (s : State) : Host.Outcome State Fault Refusal :=
  .next (s.namedRead .TS_LOG_POS_LO 0x40 camp wide)

/-- TM_NOW_FRAC_READ (R578). -/
def execTmNowFracRead (wide : Bool) (s : State) : Host.Outcome State Fault Refusal := .next (s.namedRead .TM_NOW_FRAC 0 0 wide)

/-- TM_DT_FRAC_READ (R578). -/
def execTmDtFracRead (camp : Nat) (wide : Bool) (s : State) : Host.Outcome State Fault Refusal :=
  .next (s.namedRead .TM_DT_FRAC 0x40 camp wide)

/-- TM_CAP_FRAC_READ (R573): the oldest stamp is removed. -/
def execTmCapFracRead (input : Nat) (wide : Bool) (s : State) : Host.Outcome State Fault Refusal :=
  .next (s.namedRead .TM_CAP_FRAC 0x20 input wide)

/-- TR_FB_DATA_READ (R628). -/
def execTrFbDataRead (wide : Bool) (s : State) : Host.Outcome State Fault Refusal := .next (s.namedRead .TR_FB_DATA 0 0 wide)

/-- ID_KEY_DATA_READ (R705). -/
def execIdKeyDataRead (wide : Bool) (s : State) : Host.Outcome State Fault Refusal := .next (s.namedRead .ID_KEY_DATA 0 0 wide)

/-- BAR_BAD_ACCESS (R690, R694). -/
def execBarBadAccess (off : Nat) (write : Bool) (s : State) : Host.Outcome State Fault Refusal := .next (s.badAccess off write)

end Sys2Proof.Machine
end

