-- ==== Sys2Proof/Machine/HostWrite.lean ====
section
/-! DEFINITION. What a host write of a register does (R13 to R17, R690): RW fields, W1C bits, and for each register its own rule. -/

namespace Sys2Proof.Machine

/-- Where a register write comes from: the host, the test port (R700), or a level-0 instruction of a channel core (R416). -/
inductive Writer where
  | host
  | port
  | core
  deriving DecidableEq, Repr

/-- A write of a register: the 40 bits given, and those that the access reaches (R14). -/
structure RegWrite where
  val : Nat
  mask : Nat
  deriving DecidableEq, Repr

/-- The write that an access of a slot makes: the whole slot (2), its lower half (0), or its upper half (1). -/
def RegWrite.of (v part : Nat) : RegWrite :=
  if part = 2 then ⟨v % 2 ^ 40, 2 ^ 40 - 1⟩
  else if part = 0 then ⟨v % 2 ^ 32, 2 ^ 32 - 1⟩
  else ⟨v % 2 ^ 8 * 2 ^ 32, (2 ^ 8 - 1) * 2 ^ 32⟩

/-- The bits written into a field; 0 where the access does not reach it. -/
def RegWrite.got (w : RegWrite) (r : RegName) (f : FName) : Nat := bitsOf (w.val &&& w.mask) (fieldSpec r f).lo (fieldSpec r f).width

/-- The access reaches the field. DEDUCED (log 38), unsafe. -/
def RegWrite.hits (w : RegWrite) (r : RegName) (f : FName) : Bool := bitsOf w.mask (fieldSpec r f).lo (fieldSpec r f).width != 0

/-- The value that the write gives an RW field: bits that it does not reach stay. -/
def State.newField (s : State) (r : RegName) (i : Nat) (w : RegWrite) (f : FName) : Nat :=
  let x := fieldSpec r f
  let m := bitsOf w.mask x.lo x.width
  (s.regField r i f &&& ((2 ^ x.width - 1) ^^^ m)) ||| w.got r f

/-- The RW fields that the access reaches take their bits. -/
def State.storeRw (s : State) (r : RegName) (i : Nat) (w : RegWrite) : State :=
  s.forEach ((fieldsOf r).filter fun x => x.acc == .rw && w.hits r x.name) fun t x => t.wr r i x.name (s.newField r i w x.name)

/-- The RW fields would keep the values they have. DEDUCED (log 40), unsafe. -/
def State.sameRw (s : State) (r : RegName) (i : Nat) (w : RegWrite) : Bool :=
  ((fieldsOf r).filter fun x => x.acc == .rw).all fun x => s.newField r i w x.name == s.regField r i x.name

/-- Each 1 written clears a W1C bit (R15); VALID takes MORE with it and re-arms the log (R97 and the logs like it). -/
def State.clearW1c (s : State) (r : RegName) (i : Nat) (w : RegWrite) : State :=
  let s1 := s.forEach ((fieldsOf r).filter fun x => x.acc == .w1c) fun t x =>
    t.wr r i x.name (t.rd r i x.name &&& ((2 ^ x.width - 1) ^^^ w.got r x.name))
  if w.got r .VALID = 1 ∧ (fieldSpec r .VALID).acc = .w1c ∧ (fieldSpec r .MORE).width = 1 then s1.wr r i .MORE 0 else s1

/-- A write with nothing but R15 to it. -/
def State.plainWrite (s : State) (r : RegName) (i : Nat) (w : RegWrite) : State := (s.clearW1c r i w).storeRw r i w

/-- The state that a command leaves. -/
def afterCmd (s : State) : Host.Outcome State Fault Refusal → State
  | .next t => t
  | _ => s

/-- Registers of the loader (R324, R325). -/
def loaderRegs : List RegName :=
  [.LD_CTRL, .LD_STATUS, .LD_ERR_DETAIL, .LD_TIMEOUT, .LD_DMA_ADDR_LO, .LD_DMA_ADDR_HI, .LD_DMA_PUSH, .LD_PROGRESS, .LD_SERIAL,
   .LD_PLACE_MOD, .LD_PLACE_PITCH_LO, .LD_PLACE_PITCH_HI, .LD_PLACE_DEEP_BASE, .LD_PLACE_DEEP_SIZE]

/-- A write of a loader register (R313, R324, R653). -/
def State.writeLoader (s : State) (r : RegName) (i : Nat) (w : RegWrite) (o : WriteObs) : State :=
  if s.rd .PW_STATUS 0 .READY = 0 then s.loadErr
  else match r with
    | .LD_CTRL =>
      let src := s.newField .LD_CTRL 0 w .SRC
      let n := s.newField .LD_CTRL 0 w .MODULES
      match w.got .LD_CTRL .CMD with
      | 0 => if s.loading then s.loadErr else s.plainWrite r i w
      | 1 => afterCmd s (execLoad src n o.grades s)
      | 2 => afterCmd s (execLdAbort s)
      | _ => s.loadErr
    | .LD_STATUS => s.clearW1c r i w
    | .LD_DMA_PUSH => if w.hits .LD_DMA_PUSH .LEN then afterCmd s (execLdDmaPush (w.got .LD_DMA_PUSH .LEN) s) else s
    | .LD_DMA_ADDR_LO => s.plainWrite r i w
    | .LD_DMA_ADDR_HI => s.plainWrite r i w
    | _ => if s.loading then s.loadErr else s.plainWrite r i w

/-- A write of RUN_CAMP_CTRL (R51, R52). -/
def State.writeRun (s : State) (c : Nat) (w : RegWrite) : State :=
  let n := s.newField .RUN_CAMP_CTRL c w
  let f : RunFields := ⟨n .HALT_ON_FAULT == 1, n .START_SRC == 1, n .STEP_COUNT⟩
  match w.got .RUN_CAMP_CTRL .CMD with
  | 0 => s.runFields c f
  | 1 => afterCmd s (execStart c f s)
  | 2 => afterCmd s (execPause c f s)
  | 3 => afterCmd s (execResume c f s)
  | 4 => afterCmd s (execStep c f s)
  | 5 => afterCmd s (execHalt c f s)
  | 6 => afterCmd s (execUnload c f s)
  | _ => s.runErr c

/-- A write of a register of the design clock generator with a rule of its own (R244, R251, R260, R265). -/
def State.writeClock (s : State) (r : RegName) (i : Nat) (w : RegWrite) : State :=
  let n := s.newField r i w
  match r with
  | .DC_TAG => afterCmd s (execDcTagWrite (i / 16) (i % 16) (n .NUM) (n .DEN) (n .EN == 1) s)
  | .DC_ACC => if w.hits r .ACC then afterCmd s (execDcAccWrite (i / 16) (i % 16) (n .ACC) s) else s
  | .DC_SNAP_CTRL =>
    let abort := w.got r .ABORT == 1
    if w.got r .ARM = 1 then afterCmd s (execSnapArm i (n .NEXT == 1) (n .DEEP == 1) abort s)
    else if abort then afterCmd s (execSnapAbort i (n .NEXT == 1) (n .DEEP == 1) s)
    else s.plainWrite r i w
  | .DC_SNAP_SEL => if w.hits r .BASE then afterCmd s (execDcSnapSelWrite i (n .BASE) s) else s
  | _ => s.plainWrite r i w

/-- A write of a DRAM register with a rule of its own (R340, R344 to R347, R363); `chan` is the channel whose window the write used. While TRAIN_HOST is 0 only firmware writes the training registers. -/
def State.writeDram (s : State) (r : RegName) (i chan : Nat) (w : RegWrite) (by' : Writer) : State :=
  let n := s.newField r i w
  let fw := by' == .core
  let shut := s.rd .DM_CTRL i .TRAIN_HOST == 0 && !fw
  match r with
  | .DM_CTRL =>
    let host := n .TRAIN_HOST == 1
    match w.got r .CMD with
    | 0 => s.trainHost i host
    | 1 => afterCmd s (execDmInit i host s)
    | 2 => afterCmd s (execDmActivate i host s)
    | 3 => afterCmd s (execDmQuiesce i host s)
    | 4 => afterCmd s (execDmPpr i host s)
    | _ => (s.trainHost i host).dmErr i
  | .DM_TRAIN_VAL =>
    if shut then s.dmErr i
    else s.modDeep fun d => { d with train := tset d.train (s.trainSel i) (n .VALUE) }
  | .DM_TRAIN_CMD =>
    if shut then s.dmErr i
    else if w.got r .OP = 0 then s.plainWrite r i w
    else s.trainOp i (w.got r .OP) (n .SUB) (n .MR) (n .DATA) fw
  | .DM_BOUND => if shut then s.dmErr i else s.plainWrite r i w
  | .DM_MAP => if w.hits r .MASK then afterCmd s (execDmMapWrite chan i (n .MASK) s) else s
  | _ => s.plainWrite r i w

/-- A write of a memory-protection register with a rule of its own (R375, R379, R399). -/
def State.writeKeys (s : State) (r : RegName) (i : Nat) (w : RegWrite) : State :=
  let n := s.newField r i w
  match r with
  | .MP_KEY_CMD => match w.got r .CMD with
    | 1 => afterCmd s (execInstall (n .TARGET) s)
    | 2 => afterCmd s (execRoll (n .TARGET) s)
    | 3 => afterCmd s (execRemove (n .TARGET) s)
    | _ => s.plainWrite r i w
  | .MP_RANGE_BASE => afterCmd s (execMpRangeWrite i (.base (n .BASE) (n .KEY_ID) (n .VALID == 1)) s)
  | .MP_RANGE_SIZE => if w.hits r .PAGES then afterCmd s (execMpRangeWrite i (.size (n .PAGES)) s) else s
  | _ => s.plainWrite r i w

/-- A write of a channel-core or domain register with a rule of its own (R423, R429, R430). -/
def State.writeCore (s : State) (r : RegName) (i : Nat) (w : RegWrite) : State :=
  let n := s.newField r i w
  match r with
  | .CC_CTRL =>
    let s1 := s.wrs r i [(.SLEEP_EN, n .SLEEP_EN), (.SLEEP_AFTER, n .SLEEP_AFTER)]
    let s2 := if w.hits r .ENABLE then afterCmd s1 (execCcEnableWrite i (n .ENABLE == 1) s1) else s1
    if w.got r .WAKE = 1 then afterCmd s2 (execCcCtrlWake i s2) else s2
  | .CC_DOM_CFG =>
    let s1 := s.clearW1c r i w
    if s.sameRw r i w then s1
    else afterCmd s1 (execCcDomWrite i (.cfg (n .PL) (n .KEY_ID) (n .SLICE) (n .VALID == 1)) s1)
  | .CC_DOM_WBASE => afterCmd s (execCcDomWrite (i / 4) (.base (i % 4) (n .BASE) (n .RD == 1) (n .WR == 1) (n .EX == 1)) s)
  | .CC_DOM_WSIZE => if w.hits r .PAGES then afterCmd s (execCcDomWrite (i / 4) (.size (i % 4) (n .PAGES)) s) else s
  | _ => s.plainWrite r i w

/-- A write of a channel register (R440): configuration is taken only while the channel is DISABLED or QUIESCED. -/
def State.writeChan (s : State) (r : RegName) (i : Nat) (w : RegWrite) (o : WriteObs) : State :=
  let open' := s.chState i == 0 || s.chState i == 2
  match r with
  | .CH_CTRL =>
    let s1 := s.clearW1c r i w
    let s2 := if s.sameRw r i w then s1 else if open' then s1.storeRw r i w else s1.chErr i
    match w.got r .CMD with
    | 1 => afterCmd s2 (execChEnable i o.frozen s2)
    | 2 => afterCmd s2 (execChQuiesce i s2)
    | 3 => afterCmd s2 (execChDisable i s2)
    | _ => s2
  | .CH_ERR_LOG => s.clearW1c r i w
  | _ => if open' then s.plainWrite r i w else if (fieldsOf r).any (fun x => x.acc == .rw) then s.chErr i else s

/-- A write of a task or replay-log register with a rule of its own (R455, R458, R465, R468, R469). -/
def State.writeTask (s : State) (r : RegName) (i : Nat) (w : RegWrite) (o : WriteObs) : State :=
  let n := s.newField r i w
  let t := s.selTask
  let free := (s.task t).state == 0
  match r with
  | .TS_TASK_FLAGS => afterCmd s (execTsTaskFlagsWrite (BitVec.ofNat 40 (w.got r .FLAGS)) s)
  | .TS_TASK_MASK => if free then s.modTask t fun x => { x with mask := BitVec.ofNat 40 (n .MASK) } else s.taskErr
  | .TS_TASK_CFG =>
    if free then s.modTask t fun x => { x with dom := n .DOMAIN, flow := n .FLOW, aff := n .AFFINITY } else s.taskErr
  | .TS_TASK_CTX => if free then s.modTask t fun x => { x with ctx := n .ADDR } else s.taskErr
  | .TS_TASK_CMD =>
    let s1 := s.clearW1c r i w
    match w.got r .CMD with
    | 1 => afterCmd s1 (execTaskArm s1)
    | 2 => afterCmd s1 (execTaskCancel o.frozen s1)
    | 3 => afterCmd s1 (execTaskFree s1)
    | _ => s1
  | .TS_LOG_BASE => if s.campState i = 0 ∨ s.campState i = 2 then s.plainWrite r i w else s
  | .TS_LOG_SIZE => if s.campState i = 0 ∨ s.campState i = 2 then s.plainWrite r i w else s
  | .TS_LOG_KEEP_LO => s.setKeep i (n .KEEP + 2 ^ 40 * s.rd .TS_LOG_KEEP_HI i .KEEP) o.frozen
  | .TS_LOG_KEEP_HI => if w.hits r .KEEP then s.setKeep i (s.rd .TS_LOG_KEEP_LO i .KEEP + 2 ^ 40 * n .KEEP) o.frozen else s
  | _ => s.plainWrite r i w

/-- A write of a Halnal port register with a rule of its own (R506, R510, R528). -/
def State.writeHn (s : State) (r : RegName) (i : Nat) (w : RegWrite) : State :=
  let n := s.newField r i w
  match r with
  | .HN_CTRL =>
    let f : HnFields := ⟨n .EN == 1, n .RATE_MAX, n .EQ_HOST == 1, n .PRESET, n .IDLE_EN == 1, n .IDLE_AFTER⟩
    match w.got r .CMD with
    | 1 => afterCmd s (execRetrain i f s)
    | 2 => afterCmd s (execHnSpareCmd i f s)
    | 3 => afterCmd s (execExitIdle i f s)
    | _ => s.hnCtrl i f
  | .HN_EQ_REQ => if w.got r .GO = 1 then afterCmd s (execEqRequest i (n .TAP) (n .OP) (n .PRESET) s) else s.plainWrite r i w
  | _ => s.plainWrite r i w

/-- A write of a fabric register with a rule of its own (R529, R534, R538, R550, R553). -/
def State.writeFab (s : State) (r : RegName) (i : Nat) (w : RegWrite) : State :=
  let n := s.newField r i w
  match r with
  | .FB_ID => afterCmd s (execFbIdWrite (n .ADDR) (n .ADDR_VALID == 1) s)
  | .FB_CTRL =>
    let s1 := s.wr r 0 .LOSS_MS (n .LOSS_MS)
    let s2 := if n .ROUTE_HOST = s.rd r 0 .ROUTE_HOST then s1 else afterCmd s1 (execRouteHostWrite (n .ROUTE_HOST == 1) s1)
    if n .ACTIVE = s.rd r 0 .ACTIVE then s2 else afterCmd s2 (execFbActiveWrite (n .ACTIVE) s2)
  | .FB_RT_ENTRY =>
    let k := s.rtSel
    let e := s.routeAt k.1 k.2.1 k.2.2
    if w.hits r .OUT = false then s
    else if k.1 = s.rd .FB_CTRL 0 .ACTIVE then s.fbErr
    else s.modFab fun u => { u with routes := tset u.routes k (if k.2.2 = 255 then (e.1, n .MASK) else (n .OUT, e.2)) }
  | _ => s.plainWrite r i w

/-- A write of a time register with a rule of its own (R559, R562, R567, R578). DEDUCED (log 42), safe. -/
def State.writeTime (s : State) (r : RegName) (i : Nat) (w : RegWrite) : State :=
  let n := s.newField r i w
  let stage := fun (lo width v : Nat) =>
    { s with time := { s.time with staged := s.time.staged - bitsOf s.time.staged lo width * 2 ^ lo + v % 2 ^ width * 2 ^ lo } }
  let part := fun (lo : Nat) (f : FName) =>
    let x := fieldSpec r f
    let m := bitsOf w.mask x.lo x.width
    (bitsOf s.time.staged lo x.width &&& ((2 ^ x.width - 1) ^^^ m)) ||| w.got r f
  match r with
  | .TM_CTRL =>
    let f : TmFields := ⟨n .SERVO_HOST == 1, n .AUTO_ROOT == 1⟩
    match w.got r .CMD with
    | 1 => afterCmd s (execTmRoot f s)
    | 2 => afterCmd s (execTmReset f s)
    | 3 => afterCmd s (execTmLoad f s)
    | _ => s.tmCtrl f
  | .TM_NOW_FRAC => stage 0 32 (part 0 .FRAC)
  | .TM_NOW_NS_LO => stage 32 40 (part 32 .NS)
  | .TM_NOW_NS_HI => stage 72 24 (part 72 .NS)
  | .TM_RATE => afterCmd s (execTmRateWrite (n .INC) s)
  | .TM_DT_INC_HI => if w.hits r .INC then afterCmd s (execTmDtIncHiWrite i (n .INC) s) else s
  | _ => s.plainWrite r i w

/-- The camp whose sample a physical bit channel or word channel carries (R581); none for a channel that no camp holds. -/
def State.chanOwner (s : State) (word : Bool) (die ch : Nat) : Option Nat :=
  (s.acq.blocks.find? fun b => b.die == die &&
    (if word then decide (b.wordBase ≤ ch) && decide (ch < b.wordBase + b.words)
     else decide (b.bitBase ≤ ch) && decide (ch < b.bitBase + b.bits))).map (·.camp)

/-- Something that belongs to a camp other than the one given (R590, R613). DEDUCED (log 43), unsafe. -/
def foreign (owner holder : Option Nat) : Bool := holder.isSome && holder != owner

/-- The camp that owns a comparator, decoder or pin. -/
def State.acqOwner (s : State) (r : RegName) (i : Nat) : Option Nat := if s.rd r i .OWNED = 1 then some (s.rd r i .CAMP) else none

/-- A write of an acquisition register (R590, R603, R605, R613 to R617). -/
def State.writeAcq (s : State) (r : RegName) (i : Nat) (w : RegWrite) : State :=
  let n := s.newField r i w
  let under := fun (owner : Option Nat) (named : Bool) =>
    if s.sameRw r i w then s.clearW1c r i w
    else if s.acqWritable owner && !named then s.plainWrite r i w
    else (s.clearW1c r i w).acqErr
  match r with
  | .ACQ_CTRL =>
    let s1 := s.clearW1c r i w
    let f : AcqFields := ⟨n .REARM == 1, n .WRAP == 1, n .BUFS, n .PRE⟩
    match w.got r .CMD with
    | 1 => afterCmd s1 (execAcqArm i f s1)
    | 2 => afterCmd s1 (execAcqStop i f s1)
    | 3 => afterCmd s1 (execAcqForce i f s1)
    | _ => s1.acqCtrl i f
  | .ACQ_TIMING => under (s.unitCamp i) false
  | .ACQ_RULE => under (s.unitCamp (i / 32)) false
  | .ACQ_COND =>
    let owner := s.unitCamp (i / 32)
    let holder := match n .SRC with
      | 1 => s.acqOwner .ACQ_CMP_CFG (n .INDEX)
      | 2 => s.acqOwner .ACQ_DEC_CFG (n .INDEX)
      | _ => none
    under owner (foreign owner holder)
  | .ACQ_DEC_CFG =>
    if w.got r .FORCE = 1 then afterCmd s (execDecForce i (n .FORMAT) (n .HOST == 1) s)
    else under (s.acqOwner .ACQ_DEC_CFG i) false
  | .ACQ_DEC_PARAM => under (s.acqOwner .ACQ_DEC_CFG i) false
  | .ACQ_DEC_SRC01 =>
    let owner := s.acqOwner .ACQ_DEC_CFG i
    let bad := fun (f : FName) => foreign owner (s.chanOwner false (n f / 2048) (n f % 2048))
    under owner (bad .SRC0 || bad .SRC1)
  | .ACQ_DEC_SRC2 =>
    let owner := s.acqOwner .ACQ_DEC_CFG i
    under owner (foreign owner (s.chanOwner false (n .SRC2 / 2048) (n .SRC2 % 2048)))
  | .ACQ_DEC_MATCH => under (s.acqOwner .ACQ_DEC_CFG i) false
  | .ACQ_DEC_MASK => under (s.acqOwner .ACQ_DEC_CFG i) false
  | .ACQ_CMP_CFG =>
    let owner := s.acqOwner .ACQ_CMP_CFG i
    under owner (foreign owner (s.chanOwner (n .WORD == 1) (i / 16) (n .SRC)))
  | .ACQ_CMP_VAL => under (s.acqOwner .ACQ_CMP_CFG i) false
  | .ACQ_CMP_MASK => under (s.acqOwner .ACQ_CMP_CFG i) false
  | .ACQ_LP =>
    let owner := s.acqOwner .ACQ_LP i
    let named := match owner with
      | some c => !(s.campPitches c).contains (n .NET / 16)
      | none => false
    if s.sameRw r i w then s
    else if s.acqWritable owner && !named then
      let s1 := s.wrs r i [(.NET, n .NET), (.EN, n .EN), (.OVERRIDE, n .OVERRIDE)]
      if n .OVERRIDE = 1 then s1.wr r i .DRIVE (n .DRIVE) else s1
    else s.acqErr
  | .ACQ_IN_CFG => if i = 3 then s.clearW1c r i w else s.plainWrite r i w
  | _ => s.plainWrite r i w

/-- A write of a trace register with a rule of its own (R624, R627, R630, R635). -/
def State.writeTrace (s : State) (r : RegName) (i : Nat) (w : RegWrite) : State :=
  let n := s.newField r i w
  let ring := if s.rd .TR_CTRL 0 .EN = 1 then s.wr .TR_STATUS 0 .ERR 1
    else (((s.plainWrite r i w).wr .TR_WPTR 0 .LINE 0).modTrace fun t => { t with filled := false }).traceRoute
  match r with
  | .TR_CTRL =>
    let s1 := s.storeRw r i w
    let s2 := if s.rd r 0 .EN = 0 ∧ n .EN = 1 then
        s1.forEach (List.range 16) fun t k => t.modTr k fun x => { x with due := if x.due.contains 8 then x.due else 8 :: x.due }
      else s1
    match w.got r .CMD with
    | 1 => afterCmd s2 (execTrFlush s2)
    | 2 => afterCmd s2 (execTrRoute s2)
    | 3 => afterCmd s2 (execClearFb s2)
    | _ => s2
  | .TR_RING => ring
  | .TR_RING_SIZE => ring
  | .TR_TOKEN_CMD => match w.got r .CMD with
    | 1 => afterCmd s (execTokenLoad (n .SLOT) s)
    | 2 => afterCmd s (execTokenRevoke (n .SLOT) s)
    | _ => s.plainWrite r i w
  | _ => s.plainWrite r i w

/-- A write of a power register with a rule of its own (R639, R642, R654, R661, R719); only the test port switches domain 76 off. -/
def State.writePower (s : State) (r : RegName) (i : Nat) (w : RegWrite) (by' : Writer) : State :=
  let n := s.newField r i w
  match r with
  | .PW_CTRL =>
    let f : PwFields := ⟨n .CAP_W, n .HYST_W, n .TEMP_LIM⟩
    match w.got r .CMD with
    | 1 => afterCmd s (execPwReset f s)
    | 2 => afterCmd s (execFwProgram f s)
    | 3 => (s.pwFields f).powerErr
    | _ => s.pwFields f
  | .PW_DOM => match w.got r .CMD with
    | 1 => afterCmd s (execDomainOn i s)
    | 2 => afterCmd s (execDomainOff i (by' == .port) s)
    | _ => s
  | .PW_REFCLK =>
    let s1 := s.clearW1c r i w
    match w.got r .CMD with
    | 1 => afterCmd s1 (execUseIn (n .OUT_EN == 1) s1)
    | 2 => afterCmd s1 (execUseLocal (n .OUT_EN == 1) s1)
    | _ => s1.storeRw r i w
  | _ => s.plainWrite r i w

/-- A write of a health register with a rule of its own (R35, R668, R675, R685, R686). -/
def State.writeHealth (s : State) (r : RegName) (i : Nat) (w : RegWrite) : State :=
  let n := s.newField r i w
  let site : ClusterSite := ⟨i / 72, i % 72⟩
  match r with
  | .HS_PITCH_MAP => afterCmd s (execHsPitchMapWrite i (n .SPARE_COL) s)
  | .HS_BP_MAP => afterCmd s (execHsBpMapWrite site (n .SPARE0) (n .SPARE1) (n .FAILED == 1) s)
  | .HS_COL_MAP => afterCmd s (execHsColMapWrite site (n .COL0) (n .COL1) s)
  | .HS_CMD => match w.got r .CMD with
    | 1 => afterCmd s (execBist (n .TARGET) (n .INDEX) s)
    | 2 => afterCmd s (execFlushWear (n .TARGET) (n .INDEX) s)
    | _ => s.plainWrite r i w
  | .SC_CTRL => if w.got r .GO = 1 then afterCmd s (execScrubGo i (n .KIND) (n .SLOT) s) else s.plainWrite r i w
  | _ => s.plainWrite r i w

/-- A write of a channel's vector (R698): below 80 it is ignored and logged. -/
def State.writeVec (s : State) (h vec off : Nat) : State :=
  if vec % 256 < 80 then s.idError 6 0 off 0 else s.wr .HI_CH_VEC h .VEC vec

/-- A write of a register (R15). DEDUCED (log 39), safe. -/
def State.writeReg (s : State) (r : RegName) (i off : Nat) (w : RegWrite) (o : WriteObs) (by' : Writer) : State :=
  if loaderRegs.contains r then s.writeLoader r i w o
  else match r with
    | .RUN_CAMP_CTRL => s.writeRun i w
    | .CM_MGMT_CTRL => if w.got .CM_MGMT_CTRL .GO = 1 then afterCmd s (execMgmtAccessGo i s) else s
    | .DC_TAG | .DC_ACC | .DC_SNAP_CTRL | .DC_SNAP_SEL => s.writeClock r i w
    | .DM_CTRL | .DM_TRAIN_VAL | .DM_TRAIN_CMD | .DM_BOUND | .DM_MAP => s.writeDram r i ((off - 0xc0000) / 0x2000) w by'
    | .MP_KEY_CMD | .MP_RANGE_BASE | .MP_RANGE_SIZE => s.writeKeys r i w
    | .CC_CTRL | .CC_DOM_CFG | .CC_DOM_WBASE | .CC_DOM_WSIZE => s.writeCore r i w
    | .CH_CFG | .CH_CTRL | .CH_PEER | .CH_HRING_LO | .CH_HRING_HI | .CH_RING | .CH_TIMEOUT | .CH_SEQ_IN | .CH_SEQ_OUT | .CH_ERR_LOG =>
      s.writeChan r i w o
    | .TS_TASK_FLAGS | .TS_TASK_MASK | .TS_TASK_CFG | .TS_TASK_CTX | .TS_TASK_CMD | .TS_LOG_BASE | .TS_LOG_SIZE | .TS_LOG_KEEP_LO
    | .TS_LOG_KEEP_HI => s.writeTask r i w o
    | .NOC_PROBE_TR_CTRL =>
      let s1 := s.clearW1c r i w
      if w.got r .POP = 1 then afterCmd s1 (execProbePop i s1) else s1
    | .HN_CTRL | .HN_EQ_REQ => s.writeHn r i w
    | .FB_ID | .FB_CTRL | .FB_RT_ENTRY => s.writeFab r i w
    | .TM_CTRL | .TM_NOW_FRAC | .TM_NOW_NS_LO | .TM_NOW_NS_HI | .TM_RATE | .TM_DT_INC_HI => s.writeTime r i w
    | .ACQ_CTRL | .ACQ_TIMING | .ACQ_RULE | .ACQ_COND | .ACQ_DEC_CFG | .ACQ_DEC_PARAM | .ACQ_DEC_SRC01 | .ACQ_DEC_SRC2 | .ACQ_DEC_MATCH
    | .ACQ_DEC_MASK | .ACQ_CMP_CFG | .ACQ_CMP_VAL | .ACQ_CMP_MASK | .ACQ_LP | .ACQ_IN_CFG => s.writeAcq r i w
    | .TR_CTRL | .TR_RING | .TR_RING_SIZE | .TR_TOKEN_CMD => s.writeTrace r i w
    | .PW_CTRL | .PW_DOM | .PW_REFCLK => s.writePower r i w by'
    | .HS_PITCH_MAP | .HS_BP_MAP | .HS_COL_MAP | .HS_CMD | .SC_CTRL => s.writeHealth r i w
    | .HI_CH_VEC => if w.hits r .VEC then s.writeVec i (w.got r .VEC) off else s
    | _ => s.plainWrite r i w

/-- An aligned write of BAR0 (R13, R20, R690): any write empties the slot's holding register. -/
def State.bar0Write (s : State) (off part v : Nat) (o : WriteObs) (by' : Writer) : State :=
  match s.reach off with
  | .muted => s
  | .off => s.idError 2 0 off 0
  | .here => match regAt (off / 8 * 8) with
    | none => s
    | some (r, i) => (s.unhold r i).writeReg r i off (RegWrite.of v part) o by'

/-- The mask bit of an MSI-X vector is written (R696, R698): unmasking sends the message that waits. -/
def State.setMsixMask (s : State) (v : Nat) (masked : Bool) : State :=
  let s1 := { s with host := { s.host with masked := tset s.host.masked v masked } }
  if !masked && s.host.msixEnable && !s.host.maskAll && s.host.pba.contains v then
    { s1 with host := { s1.host with pba := s1.host.pba.erase v } }.sendMsix v
  else s1

/-- A 32-bit word of BAR4's MSI-X table is written (R694). -/
def State.writeMsixWord (s : State) (n x : Nat) : State :=
  if n % 4 = 3 then s.setMsixMask (n / 4) (x.testBit 0)
  else { s with host := { s.host with table := tset s.host.table n (if n % 4 = 0 then x / 4 * 4 % 2 ^ 32 else x % 2 ^ 32) } }

/-- A 32-bit word of BAR4 is written (R694): a doorbell, the fence doorbell, or the MSI-X table; the PBA and reserved offsets ignore it. -/
def State.writeBar4 (s : State) (off x : Nat) (o : WriteObs) : State :=
  if off < 0x100000 then
    if off % 0x1000 = 0 then afterCmd s (execChannelDoorbell (off / 0x1000) (BitVec.ofNat 32 x) false o.frozen s) else s
  else if off = 0x100000 then afterCmd s (execFenceDoorbell (x % 2 ^ 32) s)
  else if 0x101000 ≤ off ∧ off < 0x102000 then s.writeMsixWord ((off - 0x101000) / 4) x
  else s

/-- The MSI-X control of the configuration space (R688, R696): bit 0 the function mask, bit 1 the enable; messages that wait go as the function is unmasked. -/
def State.writeMsixControl (s : State) (x : Nat) : State :=
  let s1 := { s with host := { s.host with maskAll := x.testBit 0, msixEnable := x.testBit 1 } }
  s1.forEach (s1.host.pba.filter fun v => !(tget true s1.host.masked v)) fun t v => t.setMsixMask v false

/-- REGISTER_WRITE (R15, R690, R694): a write of a register, of BAR4 or of the MSI-X control. -/
def execRegisterWrite (place : RegSpace) (wide : Bool) (value : Nat) (obs : WriteObs) (s : State) : Host.Outcome State Fault Refusal :=
  match place with
  | .bar0 off => .next (if aligned off wide then s.bar0Write off (partOf off wide) value obs .host else s.badAccess off true)
  | .bar4 off =>
    if aligned off wide then
      let s1 := s.writeBar4 off value obs
      .next (if wide && decide (0x101000 ≤ off) then s1.writeBar4 (off + 4) (value / 2 ^ 32) obs else s1)
    else .next (s.badAccess off true)
  | .msixControl => .next (s.writeMsixControl value)

/-- HI_CH_VEC_WRITE (R698). -/
def execHiChVecWrite (chan vec : Nat) (s : State) : Host.Outcome State Fault Refusal :=
  s.asWrite .HI_CH_VEC chan fun s => .next (s.writeVec chan vec (offsetOf .HI_CH_VEC chan))

/-- MSIX_UNMASK (R696, R698). -/
def execMsixUnmask (vector : Nat) (s : State) : Host.Outcome State Fault Refusal := .next (s.setMsixMask vector false)

/-- PCIE_RESET (R655, R693). -/
def execPcieReset (s : State) : Host.Outcome State Fault Refusal := .next s.resetHostIf

end Sys2Proof.Machine
end

