-- ==== Sys2Proof/Machine/CoreMem.lean ====
section
/-! DEFINITION. Memory accesses of the channel cores (R410, R414, R416, R422, R425, R427, R434): loads, stores, atomics, the local space, the data cache, and completion from the NoC. -/

namespace Sys2Proof.Machine

/-- The effective address of a load or store (R413, R414). -/
def State.coreEa (s : State) (k : Nat) (f : FmtK) : Nat := ((s.core k).reg f.ra + f.imm.signExtend 40).toNat

/-- The trap of a deep access before it is made (R416, R422, R425): ALIGN, then WINDOW. DEDUCED (log 53), unsafe. -/
def Run.accessTrap (r : Run) (perm : Win → Bool) (a n pc : Nat) : Option Trap :=
  if a % n ≠ 0 then some ⟨3, 0, 0, a, pc⟩ else r.spaceTrap perm a n pc

/-- The slots of an access (R427). -/
def slotOf (a : Nat) : Nat := a / 8 * 8

/-- The data cache holds the line of an address under a key ID (R416). DEDUCED (log 54), unsafe. -/
def Core.hits (x : Core) (a key : Nat) : Bool := x.dcache.any fun d => d.line == a / 64 && d.key == key

/-- An access leaves for the NoC (R410). -/
def State.sendMem (s : State) (k : Nat) (m : MemOp) : State := s.modCore k fun x => { x with mem := x.mem ++ [m] }

/-- A value read, zero-extended (R414); a slot gives its bits [39:0] (R411). -/
def loadValue (bs : List Byte) : Word := BitVec.ofNat 40 (leNat bs)

/-- The bytes that a store writes (R414): a slot has zero in bits [63:40]. -/
def storeBytesOf (size : Nat) (v : Word) : List Byte := leBytes v.toNat size

/-- Bytes go into a line that the data cache holds (R416): the line is dirty, with what deep memory held before. -/
def State.storeHit (s : State) (k a : Nat) (bs : List Byte) : State :=
  let l := a / 64
  let old := s.deepRead (64 * l) 64
  let s1 := s.modCore k fun x => { x with dcache := x.dcache.map fun d => if d.line = l then { d with old := some (d.old.getD old) } else d }
  { s1 with deep := s1.deep.putBytes a bs }

/-- A load of 1, 2, 4 or 8 bytes (R410, R414): a hit completes at once, a miss waits for the NoC; an access to a slot waits for earlier ones to it. -/
def State.loadMem (s : State) (k n : Nat) (f : FmtK) : State :=
  s.issue k true [f.rd, f.ra] fun t r =>
    let pc := (t.core k).pc
    let a := t.coreEa k f
    match r.accessTrap (fun w => w.rd) a n pc with
    | some e => .trap e
    | none =>
      if (t.core k).touches (slotOf a) 8 then .wait
      else
        let t1 := t.traceData k false false a n 0
        if (t.core k).hits a r.key then .go (t1.setReg k f.rd (loadValue (t.deepRead a n))) (pc + 8)
        else .go (t1.sendMem k ⟨0, a, n, f.rd, 0, pc, r.key⟩) (pc + 8)

/-- A store of 1, 2, 4 or 8 bytes. -/
def State.storeMem (s : State) (k n : Nat) (f : FmtK) : State :=
  s.issue k true [f.rd, f.ra] fun t r =>
    let pc := (t.core k).pc
    let a := t.coreEa k f
    let v := (t.core k).reg f.rd
    match r.accessTrap (fun w => w.wr) a n pc with
    | some e => .trap e
    | none =>
      if (t.core k).touches (slotOf a) 8 then .wait
      else
        let t1 := t.traceData k true false a n v
        if (t.core k).hits a r.key then .go (t1.storeHit k a (storeBytesOf n v)) (pc + 8)
        else .go (t1.sendMem k ⟨1, a, n, f.rd, v, pc, r.key⟩) (pc + 8)

/-- An effective address in the local space (R416). -/
def localSpace (a : Nat) : Bool := a / 2 ^ 38 == 1

/-- A read of the local space (R416): the register at the BAR0 offset in bits [25:0]. -/
def State.localRead (s : State) (a : Nat) : Nat × State :=
  match s.reach (a % 2 ^ 26), regAt (a % 2 ^ 26) with
  | .here, some (r, i) => s.readReg r i 2
  | _, _ => (0, s)

/-- A write of the local space (R416). -/
def State.localWrite (s : State) (a : Nat) (v : Word) (o : WriteObs) : State :=
  match s.reach (a % 2 ^ 26), regAt (a % 2 ^ 26) with
  | .here, some (r, i) => (s.unhold r i).writeReg r i (a % 2 ^ 26) (RegWrite.of v.toNat 2) o .core
  | _, _ => s

/-- LD8 (R414). -/
def execLd8 (core : Nat) (f : FmtK) (s : State) : Host.Outcome State Fault Refusal := .next (s.loadMem core 1 f)

/-- LD16 (R414). -/
def execLd16 (core : Nat) (f : FmtK) (s : State) : Host.Outcome State Fault Refusal := .next (s.loadMem core 2 f)

/-- LD32 (R414). -/
def execLd32 (core : Nat) (f : FmtK) (s : State) : Host.Outcome State Fault Refusal := .next (s.loadMem core 4 f)

/-- LDS (R414, R416): a slot of deep memory, or at level 0 a register of the local space. -/
def execLds (core : Nat) (f : FmtK) (s : State) : Host.Outcome State Fault Refusal :=
  match s.issuing core with
  | some r =>
    if r.pl = 0 ∧ localSpace (s.coreEa core f) = true then
      .next (s.issue core true [f.rd, f.ra] fun t _ =>
        let a := t.coreEa core f
        if a % 8 ≠ 0 then .trap ⟨3, 0, 0, a, (t.core core).pc⟩
        else
          let w := (t.traceData core false false a 8 0).localRead a
          .go (w.2.setReg core f.rd (BitVec.ofNat 40 w.1)) ((t.core core).pc + 8))
    else .next (s.loadMem core 8 f)
  | none => .next s

/-- ST8 (R414). -/
def execSt8 (core : Nat) (f : FmtK) (s : State) : Host.Outcome State Fault Refusal := .next (s.storeMem core 1 f)

/-- ST16 (R414). -/
def execSt16 (core : Nat) (f : FmtK) (s : State) : Host.Outcome State Fault Refusal := .next (s.storeMem core 2 f)

/-- ST32 (R414). -/
def execSt32 (core : Nat) (f : FmtK) (s : State) : Host.Outcome State Fault Refusal := .next (s.storeMem core 4 f)

/-- STS (R414, R416). -/
def execSts (core : Nat) (f : FmtK) (obs : WriteObs) (s : State) : Host.Outcome State Fault Refusal :=
  match s.issuing core with
  | some r =>
    if r.pl = 0 ∧ localSpace (s.coreEa core f) = true then
      .next (s.issue core true [f.rd, f.ra] fun t _ =>
        let a := t.coreEa core f
        let v := (t.core core).reg f.rd
        if a % 8 ≠ 0 then .trap ⟨3, 0, 0, a, (t.core core).pc⟩
        else .go ((t.traceData core true false a 8 v).localWrite a v obs) ((t.core core).pc + 8))
    else .next (s.storeMem core 8 f)
  | none => .next s

/-- ASWAP and AADD go to memory, which applies them one at a time (R414, R434). -/
def State.atomic (s : State) (k kind : Nat) (f : FmtT) : State :=
  s.issue k (formT f) [f.rd, f.ra, f.rb] fun t r =>
    let pc := (t.core k).pc
    let a := ((t.core k).reg f.ra).toNat
    match r.accessTrap (fun w => w.wr) a 8 pc with
    | some e => .trap e
    | none =>
      if (t.core k).touches (slotOf a) 8 then .wait
      else .go (t.sendMem k ⟨kind, a, 8, f.rd, (t.core k).reg f.rb, pc, r.key⟩) (pc + 8)

/-- ASWAP (R414). -/
def execAswap (core : Nat) (f : FmtT) (s : State) : Host.Outcome State Fault Refusal := .next (s.atomic core 2 f)

/-- AADD (R414). -/
def execAadd (core : Nat) (f : FmtT) (s : State) : Host.Outcome State Fault Refusal := .next (s.atomic core 3 f)

/-- A line that a load has brought in is held under its key ID (R416): the line in its place is written back first where it is dirty. -/
def State.fillLine (s : State) (k a key victim : Nat) : State :=
  let x := s.core k
  let others := x.dcache.filter fun d => !(d.line == a / 64)
  let put := fun (l : List DLine) (t : State) => t.modCore k fun y => { y with dcache := ⟨a / 64, key, none⟩ :: l }
  match x.dcache.find? fun d => d.line == a / 64 with
  | some d => put others (s.writeBack k d DeepObs.clean)
  | none =>
    if x.dcache.length < 256 then put others s
    else match x.dcache[victim % 256]? with
      | some d => put (others.filter fun e => !(e.line == d.line)) (s.writeBack k d DeepObs.clean)
      | none => put (others.take 255) s

/-- A pending access is served by memory (R334, R335): the cause of its bus error or the bytes read, and the state it leaves. -/
def State.serveMem (s : State) (k : Nat) (m : MemOp) (o : DeepObs) : Served × State :=
  let ask := fun (t : State) (data : Option (List Byte)) => t.serve ⟨64 + k, m.key, m.ea, m.size, data, false⟩ o
  match m.kind with
  | 0 => ask s none
  | 1 => ask s (some (storeBytesOf m.size m.data))
  | _ =>
    let r := ask s none
    match r.1.cause with
    | some _ => r
    | none =>
      let old := loadValue r.1.bytes
      let w := ask r.2 (some (storeBytesOf 8 (if m.kind = 2 then m.data else old + m.data)))
      (⟨w.1.cause, r.1.bytes⟩, w.2)

/-- A pending access has to wait (R336, R337): for its line, for a scheduled access, or for an earlier access of the core to the same channel. -/
def State.memWaits (s : State) (k n : Nat) (m : MemOp) (o : DeepObs) : Bool :=
  let req := fun (q : MemOp) => (⟨64 + k, q.key, q.ea, q.size, none, false⟩ : DeepReq)
  s.reqWaits (req m) o (((s.core k).mem.take n).map req)

/-- The trap of a bus error is taken once every other access of the core is complete (R425, R427). -/
def State.trapIfDue (s : State) (k : Nat) : State :=
  match (s.core k).trapDue with
  | some t => if (s.core k).mem.isEmpty then s.takeTrap k t else s
  | none => s

/-- CC_MEMORY_RESPONSE (R410, R416, R425, R427, R434): pending access `n` of the core completes, or traps on a bus error; what has to wait does not complete yet. `victim` is the line that a load replaces in a full data cache. DEDUCED (log 103), safe. -/
def execCcMemoryResponse (core n victim : Nat) (obs : DeepObs) (s : State) : Host.Outcome State Fault Refusal :=
  match (s.core core).mem[n]? with
  | none => .next s
  | some m =>
    if s.memWaits core n m obs then .next s
    else
      let w := s.serveMem core m obs
      let s1 := w.2.modCore core fun x => { x with mem := x.mem.eraseIdx n }
      match w.1.cause with
      | some c =>
        .next ((s1.modCore core fun x => { x with trapDue := some (x.trapDue.getD ⟨5, c, 0, m.ea, m.pc⟩) }).trapIfDue core)
      | none =>
        let v := loadValue w.1.bytes
        let s2 := if m.kind = 1 then s1 else s1.setReg core m.rd v
        let s3 := match m.kind with
          | 0 => s2.fillLine core m.ea m.key victim
          | 1 => s2
          | 2 => s2.traceData core true true m.ea 8 m.data
          | _ => s2.traceData core true true m.ea 8 (v + m.data)
        .next (s3.trapIfDue core)

end Sys2Proof.Machine
end

