-- ==== Sys2Proof/Machine/HostPorts.lean ====
section
/-! DEFINITION. The host's BAR2 apertures (R691, R692, R708), the test port (R699 to R701) and the SMBus target (R702). -/

namespace Sys2Proof.Machine

/-- The request that a BAR2 access makes through its aperture (R691). -/
def State.bar2Req (s : State) (off len : Nat) (data : Option (List Byte)) : DeepReq :=
  let a := off / 2 ^ 32 % 4
  ⟨83, s.rd .HI_BAR2_AP a .KEY_ID, s.rd .HI_BAR2_AP a .BASE * 2 ^ 32 + off % 2 ^ 32, len, data, data.isSome⟩

/-- A BAR2 access (R691, R692): what it gives, none where it meets a bus error or has to wait, and the state it leaves. DEDUCED (log 50), safe. -/
def State.bar2 (s : State) (off len : Nat) (data : Option (List Byte)) (obs : DeepObs) : State :=
  let r := s.bar2Req off len data
  let ends := fun (t : State) (o : Out) => if data.isSome then t else t.emit o
  if s.rd .HI_BAR2_AP (off / 2 ^ 32 % 4) .EN = 0 then
    ends (s.idError 3 1 off 0) (.answerBytes (List.replicate len 0))
  else if s.railed 78 = false then ends (s.idError 4 1 off 0xA) (.answer 0 true)
  else
    let w := s.submit r obs
    match w.1 with
    | none => w.2
    | some v => match v.cause with
      | some c => ends (w.2.idError 4 1 off c) (.answer 0 true)
      | none => ends w.2 (.answerBytes v.bytes)

/-- BAR2_READ (R691, R692). -/
def execBar2Read (off len : Nat) (obs : DeepObs) (s : State) : Host.Outcome State Fault Refusal := .next (s.bar2 off len none obs)

/-- BAR2_WRITE (R691, R692). -/
def execBar2Write (off : Nat) (bytes : List Byte) (obs : DeepObs) (s : State) : Host.Outcome State Fault Refusal :=
  .next (s.bar2 off bytes.length (some bytes) obs)

/-- What Capture-IR loads (R699). -/
def State.irStatus (s : State) : Nat :=
  1 + 4 * s.rd .PW_STATUS 0 .READY + 8 * s.rd .MP_ALARM_LOG 0 .VALID + 16 * bit s.test.refused

/-- An instruction is loaded through Capture-IR and Update-IR (R699): EXTEST and CLAMP hold what the boundary register drives, every other one lets the pins go. DEDUCED (log 51), unsafe. -/
def State.loadIr (s : State) (code : Nat) : State :=
  let s1 := s.emit (.answer s.irStatus false)
  { s1 with test := { s1.test with ir := code, refused := false, driven := if code = 0 ∨ code = 3 then s1.test.bsr else [] } }

/-- EXTEST, CLAMP and HIGHZ are taken only then (R699). -/
def State.pinsFree (s : State) : Bool :=
  let st := s.rd .LD_STATUS 0 .STATE
  (List.range 64).all (fun c => s.campState c == 0) && (st == 0 || st == 5 || st == 6)

/-- One of those instructions is loaded; a refused one acts as BYPASS. -/
def State.loadPinIr (s : State) (code : Nat) : State :=
  if s.pinsFree then s.loadIr code
  else
    let s1 := s.loadIr 0xFF
    { s1 with test := { s1.test with refused := true } }

/-- TEST_LOGIC_RESET (R699): selects IDCODE and resets nothing else. -/
def execTestLogicReset (s : State) : Host.Outcome State Fault Refusal :=
  .next { s with test := { s.test with ir := 2, driven := [] } }

/-- EXTEST (R699): `shift` is what Update-DR puts into the boundary register, empty where no scan follows. -/
def execExtest (shift : List Bool) (s : State) : Host.Outcome State Fault Refusal :=
  let s1 := s.loadPinIr 0
  .next (if s1.test.refused || shift.isEmpty then s1 else { s1 with test := { s1.test with bsr := shift, driven := shift } })

/-- SAMPLE_PRELOAD (R699): Capture-DR samples the pins, and Update-DR preloads the boundary register. -/
def execSamplePreload (pins shift : List Bool) (s : State) : Host.Outcome State Fault Refusal :=
  let s1 := (s.loadIr 1).emit (.answer (bitsOfList pins) false)
  .next { s1 with test := { s1.test with bsr := if shift.isEmpty then pins else shift } }

/-- IDCODE (R699). -/
def execIdcode (s : State) : Host.Outcome State Fault Refusal :=
  .next ((s.loadIr 2).emit (.answer (s.rd .ID_JTAG 0 .IDCODE) false))

/-- CLAMP (R699). -/
def execClamp (s : State) : Host.Outcome State Fault Refusal := .next (s.loadPinIr 3)

/-- HIGHZ (R699). -/
def execHighz (s : State) : Host.Outcome State Fault Refusal := .next (s.loadPinIr 4)

/-- BYPASS, and every code that is not listed (R699). -/
def execBypass (s : State) : Host.Outcome State Fault Refusal := .next (s.loadIr 0xFF)

/-- MODULE_RESET (R655, R699). -/
def execModuleReset (s : State) : Host.Outcome State Fault Refusal := .next ((s.loadIr 0x22).moduleReset 1)

/-- The blocks that REG_ACCESS reaches (R700, R703): Identity and Power, Loader, Trace, Memory protection, Health. -/
def regAccessReaches (off : Nat) : Bool :=
  decide (off < 0x30000) || (decide (0x70000 ≤ off) && decide (off < 0x80000)) || (decide (0xb0000 ≤ off) && decide (off < 0xc0000)) ||
    (decide (0x100000 ≤ off) && decide (off < 0x110000))

/-- What the next Capture-DR of REG_ACCESS loads. -/
def State.setResult (s : State) (data : Nat) (err : Bool) : State := { s with test := { s.test with result := (data, err) } }

/-- REG_ACCESS (R700): Capture-DR gives the result of the access before, and Update-DR performs the one in `dr`. -/
def execRegAccess (dr : Nat) (obs : WriteObs) (s : State) : Host.Outcome State Fault Refusal :=
  let s1 := (s.loadIr 0x20).emit (.answer (2 ^ 27 * bit s.test.result.2 + 2 ^ 28 * s.test.result.1) false)
  let off := bitsOf dr 3 23 * 8
  if regAccessReaches off = false then .next (s1.setResult 0 true)
  else if dr.testBit 26 then .next ((s1.setResult 0 false).bar0Write off 2 (bitsOf dr 28 40) obs .port)
  else
    let w := s1.bar0Read off 2
    .next (w.2.setResult w.1 false)

/-- LOAD_STREAM (R651, R701): the bytes reach the loader of a load with SRC = 1, or the ROM in phase RECOVERY. -/
def execLoadStream (dr : Nat) (s : State) : Host.Outcome State Fault Refusal :=
  let rec' := s.rd .PW_STATUS 0 .PHASE == 6
  let v := if rec' then s.regValue .PW_STATUS 0 else s.regValue .LD_STATUS 0
  let s1 := (s.loadIr 0x21).emit (.answer v false)
  let bytes := (leBytes (bitsOf dr 0 32) 4).take (bitsOf dr 32 2 + 1)
  if rec' || (s.loading && s.load.entry && s.load.src == 1) then .next (s1.modLoad fun l => { l with stream := l.stream ++ bytes })
  else .next s1

/-- A read over the SMBus (R702); before the end of POR the target does not answer. DEDUCED (log 52), unsafe. -/
def State.smb (s : State) (o : Out) : Host.Outcome State Fault Refusal :=
  .next (s.emit (if s.rd .PW_STATUS 0 .PHASE = 0 then .answer 0 true else o))

/-- SMB_PHASE (R702). -/
def execSmbPhase (s : State) : Host.Outcome State Fault Refusal :=
  s.smb (.answer (s.rd .PW_STATUS 0 .PHASE + 8 * s.rd .PW_STATUS 0 .READY + 16 * s.rd .PW_STATUS 0 .LAST_RESET) false)

/-- SMB_VIN (R702). -/
def execSmbVin (s : State) : Host.Outcome State Fault Refusal := s.smb (.answer (s.rd .PW_IN 0 .VIN) false)

/-- SMB_IIN (R702). -/
def execSmbIin (s : State) : Host.Outcome State Fault Refusal := s.smb (.answer (s.rd .PW_IN 0 .IIN) false)

/-- SMB_PIN (R702). -/
def execSmbPin (s : State) : Host.Outcome State Fault Refusal := s.smb (.answer (s.rd .PW_IN 0 .PIN) false)

/-- SMB_TEMP (R702): E-dies 0 to 7, then the H-die; absent dies 0. -/
def execSmbTemp (s : State) : Host.Outcome State Fault Refusal :=
  s.smb (.answerBytes ((List.range 9).map fun d =>
    if d < 8 ∧ s.part.dies ≤ d then 0 else BitVec.ofNat 8 (s.power.temps.getD d 0)))

/-- SMB_IDENT (R702). -/
def execSmbIdent (s : State) : Host.Outcome State Fault Refusal :=
  s.smb (.answerBytes (leBytes (s.regValue .ID_DEVICE 0) 5 ++ leBytes (s.rd .ID_REV 0 .STEPPING) 1 ++ leBytes (s.rd .LD_SERIAL 0 .SERIAL) 5 ++
    leBytes (s.rd .PW_FW_STATUS 0 .REV) 4 ++ [0]))

/-- SMB_ALARM (R702). -/
def execSmbAlarm (s : State) : Host.Outcome State Fault Refusal :=
  s.smb (.answerBytes (leBytes (s.regValue .MP_ALARM_LOG 0) 5 ++ leBytes (s.rd .MP_ALARM_COUNT 0 .COUNT) 3))

/-- SMB_DOMAINS (R702): two states a byte, the lower domain in the low nibble. -/
def execSmbDomains (s : State) : Host.Outcome State Fault Refusal :=
  s.smb (.answerBytes ((List.range 40).map fun n => BitVec.ofNat 8 (s.domState (2 * n) + 16 * s.domState (2 * n + 1))))

/-- SMB_RESET (R655, R702): 0xA5 raises a module reset. -/
def execSmbReset (value : Nat) (s : State) : Host.Outcome State Fault Refusal := .next (if value = 0xA5 then s.moduleReset 1 else s)

/-- HOSTIF (R639, R702): 1 switches domain 76 on, 0 off, from the end of POR. -/
def execHostif (value : Nat) (s : State) : Host.Outcome State Fault Refusal :=
  .next (if s.rd .PW_STATUS 0 .PHASE = 0 then s else if value = 1 then s.domOn 76 else if value = 0 then s.domOff 76 true else s)

end Sys2Proof.Machine
end

