-- ==== Sys2Proof/Machine/Dispatch.lean ====
section
/-! DEFINITION. One arm per command. -/

namespace Sys2Proof.Machine

/-- The effect of a command on everything but the queue. -/
def exec (i : Instr) (s : State) : Host.Outcome State Fault Refusal :=
  match i with
  | .scheduleStep camp die obs => Sys2Proof.Machine.execScheduleStep camp die obs s
  | .bpNop loc f => Sys2Proof.Machine.execBpNop loc f s
  | .lut4 loc f => Sys2Proof.Machine.execLut4 loc f s
  | .lut4e loc f => Sys2Proof.Machine.execLut4e loc f s
  | .route loc f => Sys2Proof.Machine.execRoute loc f s
  | .hold loc f => Sys2Proof.Machine.execHold loc f s
  | .ckpt loc f => Sys2Proof.Machine.execCkpt loc f s
  | .drainStart loc => Sys2Proof.Machine.execDrainStart loc s
  | .drainEnd loc => Sys2Proof.Machine.execDrainEnd loc s
  | .wuNop loc f => Sys2Proof.Machine.execWuNop loc f s
  | .wuAdd loc f => Sys2Proof.Machine.execWuAdd loc f s
  | .wuSub loc f => Sys2Proof.Machine.execWuSub loc f s
  | .wuCarry loc f => Sys2Proof.Machine.execWuCarry loc f s
  | .wuBorrow loc f => Sys2Proof.Machine.execWuBorrow loc f s
  | .wuAnd loc f => Sys2Proof.Machine.execWuAnd loc f s
  | .wuOr loc f => Sys2Proof.Machine.execWuOr loc f s
  | .wuXor loc f => Sys2Proof.Machine.execWuXor loc f s
  | .wuAndn loc f => Sys2Proof.Machine.execWuAndn loc f s
  | .wuShl loc f => Sys2Proof.Machine.execWuShl loc f s
  | .wuShr loc f => Sys2Proof.Machine.execWuShr loc f s
  | .wuSar loc f => Sys2Proof.Machine.execWuSar loc f s
  | .wuRol loc f => Sys2Proof.Machine.execWuRol loc f s
  | .wuRor loc f => Sys2Proof.Machine.execWuRor loc f s
  | .wuCmpeq loc f => Sys2Proof.Machine.execWuCmpeq loc f s
  | .wuCmpltu loc f => Sys2Proof.Machine.execWuCmpltu loc f s
  | .wuCmplts loc f => Sys2Proof.Machine.execWuCmplts loc f s
  | .wuSel loc f => Sys2Proof.Machine.execWuSel loc f s
  | .wuBsel loc f => Sys2Proof.Machine.execWuBsel loc f s
  | .wuExt loc f => Sys2Proof.Machine.execWuExt loc f s
  | .wuDep loc f => Sys2Proof.Machine.execWuDep loc f s
  | .wuMullo loc f => Sys2Proof.Machine.execWuMullo loc f s
  | .wuMulhiu loc f => Sys2Proof.Machine.execWuMulhiu loc f s
  | .wuMulhis loc f => Sys2Proof.Machine.execWuMulhis loc f s
  | .mulResultWrite loc => Sys2Proof.Machine.execMulResultWrite loc s
  | .wuLdm loc f => Sys2Proof.Machine.execWuLdm loc f s
  | .wuStm loc f => Sys2Proof.Machine.execWuStm loc f s
  | .wuPack loc f => Sys2Proof.Machine.execWuPack loc f s
  | .wuUnpack loc f => Sys2Proof.Machine.execWuUnpack loc f s
  | .wuXec loc f => Sys2Proof.Machine.execWuXec loc f s
  | .wuShift loc f => Sys2Proof.Machine.execWuShift loc f s
  | .shadowCommit camp => Sys2Proof.Machine.execShadowCommit camp s
  | .faultFlagsClose camp => Sys2Proof.Machine.execFaultFlagsClose camp s
  | .acquisitionSample camp => Sys2Proof.Machine.execAcquisitionSample camp s
  | .recordExchange camp => Sys2Proof.Machine.execRecordExchange camp s
  | .snapshotPoint camp => Sys2Proof.Machine.execSnapshotPoint camp s
  | .cycleEnd camp => Sys2Proof.Machine.execCycleEnd camp s
  | .start camp f => Sys2Proof.Machine.execStart camp f s
  | .pause camp f => Sys2Proof.Machine.execPause camp f s
  | .resume camp f => Sys2Proof.Machine.execResume camp f s
  | .step camp f => Sys2Proof.Machine.execStep camp f s
  | .halt camp f => Sys2Proof.Machine.execHalt camp f s
  | .unload camp f => Sys2Proof.Machine.execUnload camp f s
  | .unloadDone camp => Sys2Proof.Machine.execUnloadDone camp s
  | .rampStart camp sinceOther => Sys2Proof.Machine.execRampStart camp sinceOther s
  | .rampStep camp => Sys2Proof.Machine.execRampStep camp s
  | .firstDesignCycleStart camp => Sys2Proof.Machine.execFirstDesignCycleStart camp s
  | .heldStartRelease camp => Sys2Proof.Machine.execHeldStartRelease camp s
  | .restoreDone camp => Sys2Proof.Machine.execRestoreDone camp s
  | .restoreBusError camp written alarm => Sys2Proof.Machine.execRestoreBusError camp written alarm s
  | .bankGrant loc bank => Sys2Proof.Machine.execBankGrant loc bank s
  | .mgmtAccessGo die => Sys2Proof.Machine.execMgmtAccessGo die s
  | .mgmtAccessDone die => Sys2Proof.Machine.execMgmtAccessDone die s
  | .wakeClearEnd pitch => Sys2Proof.Machine.execWakeClearEnd pitch s
  | .crossingItemArrive camp dst arr frozen => Sys2Proof.Machine.execCrossingItemArrive camp dst arr frozen s
  | .fifoWrite id x full => Sys2Proof.Machine.execFifoWrite id x full s
  | .fifoRead id empty => Sys2Proof.Machine.execFifoRead id empty s
  | .fifoPtrMismatch id side => Sys2Proof.Machine.execFifoPtrMismatch id side s
  | .fifoReprime id frozen => Sys2Proof.Machine.execFifoReprime id frozen s
  | .stall camp st port => Sys2Proof.Machine.execStall camp st port s
  | .release camp module id port frozen => Sys2Proof.Machine.execRelease camp module id port frozen s
  | .boundary camp msg port frozen => Sys2Proof.Machine.execBoundary camp msg port frozen s
  | .guylineHalt camp cause module port => Sys2Proof.Machine.execGuylineHalt camp cause module port s
  | .relockDone camp frozen => Sys2Proof.Machine.execRelockDone camp frozen s
  | .dcTagWrite camp k num den en => Sys2Proof.Machine.execDcTagWrite camp k num den en s
  | .dcAccWrite camp k acc => Sys2Proof.Machine.execDcAccWrite camp k acc s
  | .snapArm camp next deep abort => Sys2Proof.Machine.execSnapArm camp next deep abort s
  | .snapAbort camp next deep => Sys2Proof.Machine.execSnapAbort camp next deep s
  | .snapshotDone camp => Sys2Proof.Machine.execSnapshotDone camp s
  | .snapshotBusError camp onRead => Sys2Proof.Machine.execSnapshotBusError camp onRead s
  | .dcSnapSelWrite camp page => Sys2Proof.Machine.execDcSnapSelWrite camp page s
  | .snapSelCheckDone camp busErr => Sys2Proof.Machine.execSnapSelCheckDone camp busErr s
  | .load src modules grades => Sys2Proof.Machine.execLoad src modules grades s
  | .ldAbort => Sys2Proof.Machine.execLdAbort s
  | .ldDmaPush len => Sys2Proof.Machine.execLdDmaPush len s
  | .loadSegment bytes => Sys2Proof.Machine.execLoadSegment bytes s
  | .placementEntryArrive src modules ps => Sys2Proof.Machine.execPlacementEntryArrive src modules ps s
  | .loadAck lmod ack => Sys2Proof.Machine.execLoadAck lmod ack s
  | .commit => Sys2Proof.Machine.execCommit s
  | .abort => Sys2Proof.Machine.execAbort s
  | .loadTimeout lmod => Sys2Proof.Machine.execLoadTimeout lmod s
  | .loadClearDone => Sys2Proof.Machine.execLoadClearDone s
  | .dmInit chan host => Sys2Proof.Machine.execDmInit chan host s
  | .dmInitDone chan ok => Sys2Proof.Machine.execDmInitDone chan ok s
  | .dmActivate chan host => Sys2Proof.Machine.execDmActivate chan host s
  | .dmQuiesce chan host => Sys2Proof.Machine.execDmQuiesce chan host s
  | .quiesceDone chan => Sys2Proof.Machine.execQuiesceDone chan s
  | .dmPpr chan host => Sys2Proof.Machine.execDmPpr chan host s
  | .pprDone chan ok => Sys2Proof.Machine.execPprDone chan ok s
  | .mrw chan sub mr data => Sys2Proof.Machine.execMrw chan sub mr data s
  | .mrr chan sub mr data => Sys2Proof.Machine.execMrr chan sub mr data s
  | .mpc chan sub mr data => Sys2Proof.Machine.execMpc chan sub mr data s
  | .trainOpDone chan data => Sys2Proof.Machine.execTrainOpDone chan data s
  | .dmMapWrite chan k mask => Sys2Proof.Machine.execDmMapWrite chan k mask s
  | .refreshDue chan sub bank => Sys2Proof.Machine.execRefreshDue chan sub bank s
  | .postponedRefreshIssue chan sub bank => Sys2Proof.Machine.execPostponedRefreshIssue chan sub bank s
  | .refreshDone chan sub bank => Sys2Proof.Machine.execRefreshDone chan sub bank s
  | .rhWindowClear chan => Sys2Proof.Machine.execRhWindowClear chan s
  | .rfmDone chan sub bank row => Sys2Proof.Machine.execRfmDone chan sub bank row s
  | .deepRequest req obs => Sys2Proof.Machine.execDeepRequest req obs s
  | .deepReadDataArrive camp pitch entry frozen => Sys2Proof.Machine.execDeepReadDataArrive camp pitch entry frozen s
  | .reencryptDone page frozen => Sys2Proof.Machine.execReencryptDone page frozen s
  | .install target => Sys2Proof.Machine.execInstall target s
  | .keyBlobReadDone ok blob => Sys2Proof.Machine.execKeyBlobReadDone ok blob s
  | .roll target => Sys2Proof.Machine.execRoll target s
  | .rollDone key => Sys2Proof.Machine.execRollDone key s
  | .remove target => Sys2Proof.Machine.execRemove target s
  | .mpRangeWrite r w => Sys2Proof.Machine.execMpRangeWrite r w s
  | .regionInitDone base => Sys2Proof.Machine.execRegionInitDone base s
  | .epochLimit port => Sys2Proof.Machine.execEpochLimit port s
  | .add core f => Sys2Proof.Machine.execAdd core f s
  | .sub core f => Sys2Proof.Machine.execSub core f s
  | .and core f => Sys2Proof.Machine.execAnd core f s
  | .or core f => Sys2Proof.Machine.execOr core f s
  | .xor core f => Sys2Proof.Machine.execXor core f s
  | .shl core f => Sys2Proof.Machine.execShl core f s
  | .shr core f => Sys2Proof.Machine.execShr core f s
  | .sar core f => Sys2Proof.Machine.execSar core f s
  | .cmp core f => Sys2Proof.Machine.execCmp core f s
  | .mullo core f => Sys2Proof.Machine.execMullo core f s
  | .mulhiu core f => Sys2Proof.Machine.execMulhiu core f s
  | .addi core f => Sys2Proof.Machine.execAddi core f s
  | .andi core f => Sys2Proof.Machine.execAndi core f s
  | .ori core f => Sys2Proof.Machine.execOri core f s
  | .xori core f => Sys2Proof.Machine.execXori core f s
  | .shli core f => Sys2Proof.Machine.execShli core f s
  | .shri core f => Sys2Proof.Machine.execShri core f s
  | .sari core f => Sys2Proof.Machine.execSari core f s
  | .cmpiLt core f => Sys2Proof.Machine.execCmpiLt core f s
  | .cmpiLo core f => Sys2Proof.Machine.execCmpiLo core f s
  | .orh core f => Sys2Proof.Machine.execOrh core f s
  | .ld8 core f => Sys2Proof.Machine.execLd8 core f s
  | .ld16 core f => Sys2Proof.Machine.execLd16 core f s
  | .ld32 core f => Sys2Proof.Machine.execLd32 core f s
  | .lds core f => Sys2Proof.Machine.execLds core f s
  | .st8 core f => Sys2Proof.Machine.execSt8 core f s
  | .st16 core f => Sys2Proof.Machine.execSt16 core f s
  | .st32 core f => Sys2Proof.Machine.execSt32 core f s
  | .sts core f obs => Sys2Proof.Machine.execSts core f obs s
  | .aswap core f => Sys2Proof.Machine.execAswap core f s
  | .aadd core f => Sys2Proof.Machine.execAadd core f s
  | .call core f => Sys2Proof.Machine.execCall core f s
  | .callr core f => Sys2Proof.Machine.execCallr core f s
  | .gate core f => Sys2Proof.Machine.execGate core f s
  | .codesync core f => Sys2Proof.Machine.execCodesync core f s
  | .brEq core f => Sys2Proof.Machine.execBrEq core f s
  | .brNe core f => Sys2Proof.Machine.execBrNe core f s
  | .brLt core f => Sys2Proof.Machine.execBrLt core f s
  | .brGe core f => Sys2Proof.Machine.execBrGe core f s
  | .brLo core f => Sys2Proof.Machine.execBrLo core f s
  | .brHs core f => Sys2Proof.Machine.execBrHs core f s
  | .brBs core f => Sys2Proof.Machine.execBrBs core f s
  | .brBc core f => Sys2Proof.Machine.execBrBc core f s
  | .csend core f frozen => Sys2Proof.Machine.execCsend core f frozen s
  | .crecv core f frozen => Sys2Proof.Machine.execCrecv core f frozen s
  | .cwait core f frozen => Sys2Proof.Machine.execCwait core f frozen s
  | .evset core f => Sys2Proof.Machine.execEvset core f s
  | .yield core f frozen => Sys2Proof.Machine.execYield core f frozen s
  | .done core f frozen => Sys2Proof.Machine.execDone core f frozen s
  | .order core f => Sys2Proof.Machine.execOrder core f s
  | .rdcw core f => Sys2Proof.Machine.execRdcw core f s
  | .wrcw core f => Sys2Proof.Machine.execWrcw core f s
  | .back core f => Sys2Proof.Machine.execBack core f s
  | .doze core f => Sys2Proof.Machine.execDoze core f s
  | .ccMemoryResponse core n victim obs => Sys2Proof.Machine.execCcMemoryResponse core n victim obs s
  | .sliceExpire core => Sys2Proof.Machine.execSliceExpire core s
  | .sleepEntry core => Sys2Proof.Machine.execSleepEntry core s
  | .coreWakeDone core => Sys2Proof.Machine.execCoreWakeDone core s
  | .ccCtrlWake core => Sys2Proof.Machine.execCcCtrlWake core s
  | .ccEnableWrite core enable => Sys2Proof.Machine.execCcEnableWrite core enable s
  | .ccDomWrite dom w => Sys2Proof.Machine.execCcDomWrite dom w s
  | .taskDispatch core => Sys2Proof.Machine.execTaskDispatch core s
  | .bivouacLoadDone core => Sys2Proof.Machine.execBivouacLoadDone core s
  | .taskArm => Sys2Proof.Machine.execTaskArm s
  | .taskCancel frozen => Sys2Proof.Machine.execTaskCancel frozen s
  | .taskFree => Sys2Proof.Machine.execTaskFree s
  | .tsTaskFlagsWrite x => Sys2Proof.Machine.execTsTaskFlagsWrite x s
  | .chEnable chan frozen => Sys2Proof.Machine.execChEnable chan frozen s
  | .chQuiesce chan => Sys2Proof.Machine.execChQuiesce chan s
  | .channelQuiesced chan => Sys2Proof.Machine.execChannelQuiesced chan s
  | .chDisable chan => Sys2Proof.Machine.execChDisable chan s
  | .channelDoorbell chan value merged frozen => Sys2Proof.Machine.execChannelDoorbell chan value merged frozen s
  | .inboundSlotFetched chan bytes frozen => Sys2Proof.Machine.execInboundSlotFetched chan bytes frozen s
  | .dataMessage chan bytes frozen => Sys2Proof.Machine.execDataMessage chan bytes frozen s
  | .creditMessage chan bytes frozen => Sys2Proof.Machine.execCreditMessage chan bytes frozen s
  | .outboundCopyDone chan => Sys2Proof.Machine.execOutboundCopyDone chan s
  | .mirrorBusError chan out cause seq => Sys2Proof.Machine.execMirrorBusError chan out cause seq s
  | .channelTimeout chan byMs frozen => Sys2Proof.Machine.execChannelTimeout chan byMs frozen s
  | .tsLogKeepWrite camp keep frozen => Sys2Proof.Machine.execTsLogKeepWrite camp keep frozen s
  | .nocPacket router out net injected => Sys2Proof.Machine.execNocPacket router out net injected s
  | .criticalWindowEnd router => Sys2Proof.Machine.execCriticalWindowEnd router s
  | .fenceDoorbell token => Sys2Proof.Machine.execFenceDoorbell token s
  | .fenceComplete frozen => Sys2Proof.Machine.execFenceComplete frozen s
  | .domainOn dom => Sys2Proof.Machine.execDomainOn dom s
  | .domainOnStart sinceLast => Sys2Proof.Machine.execDomainOnStart sinceLast s
  | .domainOnDone dom => Sys2Proof.Machine.execDomainOnDone dom s
  | .domainOff dom side => Sys2Proof.Machine.execDomainOff dom side s
  | .powerDownDrainDone dom => Sys2Proof.Machine.execPowerDownDrainDone dom s
  | .pdTimeout dom => Sys2Proof.Machine.execPdTimeout dom s
  | .probePop probe => Sys2Proof.Machine.execProbePop probe s
  | .trainingRetry port => Sys2Proof.Machine.execTrainingRetry port s
  | .trainingStateTimeout port => Sys2Proof.Machine.execTrainingStateTimeout port s
  | .capabilityWord port word => Sys2Proof.Machine.execCapabilityWord port word s
  | .trainingStateDone port obs => Sys2Proof.Machine.execTrainingStateDone port obs s
  | .eqRequest port tap op preset => Sys2Proof.Machine.execEqRequest port tap op preset s
  | .eqResponse port resp height width => Sys2Proof.Machine.execEqResponse port resp height width s
  | .flitReceive port f obs => Sys2Proof.Machine.execFlitReceive port f obs s
  | .dataFlit port d => Sys2Proof.Machine.execDataFlit port d s
  | .replayTimeout port => Sys2Proof.Machine.execReplayTimeout port s
  | .retrain port f => Sys2Proof.Machine.execRetrain port f s
  | .hnSpareCmd port f => Sys2Proof.Machine.execHnSpareCmd port f s
  | .exitIdle port f => Sys2Proof.Machine.execExitIdle port f s
  | .idleTimer port => Sys2Proof.Machine.execIdleTimer port s
  | .idleEnter port => Sys2Proof.Machine.execIdleEnter port s
  | .idleExitBurst port => Sys2Proof.Machine.execIdleExitBurst port s
  | .idleLockTimeout port => Sys2Proof.Machine.execIdleLockTimeout port s
  | .laneLockLoss port lane => Sys2Proof.Machine.execLaneLockLoss port lane s
  | .spareReq port lane => Sys2Proof.Machine.execSpareReq port lane s
  | .spareDone port lane => Sys2Proof.Machine.execSpareDone port lane s
  | .sparingTimeout port => Sys2Proof.Machine.execSparingTimeout port s
  | .epoch port => Sys2Proof.Machine.execEpoch port s
  | .probe port turnaround => Sys2Proof.Machine.execProbe port turnaround s
  | .echo port turnaround roundTrip => Sys2Proof.Machine.execEcho port turnaround roundTrip s
  | .hello port addr valid peerPort => Sys2Proof.Machine.execHello port addr valid peerPort s
  | .helloTimer port => Sys2Proof.Machine.execHelloTimer port s
  | .fbIdWrite addr valid => Sys2Proof.Machine.execFbIdWrite addr valid s
  | .loadPacket port pkt => Sys2Proof.Machine.execLoadPacket port pkt s
  | .channelPacket port pkt frozen => Sys2Proof.Machine.execChannelPacket port pkt frozen s
  | .topo port pkt => Sys2Proof.Machine.execTopo port pkt s
  | .mgmt port pkt => Sys2Proof.Machine.execMgmt port pkt s
  | .topoTimer => Sys2Proof.Machine.execTopoTimer s
  | .topoRecordExpire addr => Sys2Proof.Machine.execTopoRecordExpire addr s
  | .routeCompute => Sys2Proof.Machine.execRouteCompute s
  | .fbActiveWrite active => Sys2Proof.Machine.execFbActiveWrite active s
  | .routeHostWrite host => Sys2Proof.Machine.execRouteHostWrite host s
  | .linkLoss port => Sys2Proof.Machine.execLinkLoss port s
  | .sync port offer root hops ns frac => Sys2Proof.Machine.execSync port offer root hops ns frac s
  | .high port ns => Sys2Proof.Machine.execHigh port ns s
  | .syncTimer => Sys2Proof.Machine.execSyncTimer s
  | .autoRootTimeout => Sys2Proof.Machine.execAutoRootTimeout s
  | .tmRoot f => Sys2Proof.Machine.execTmRoot f s
  | .tmReset f => Sys2Proof.Machine.execTmReset f s
  | .tmLoad f => Sys2Proof.Machine.execTmLoad f s
  | .tmRateWrite value => Sys2Proof.Machine.execTmRateWrite value s
  | .tmDtIncHiWrite camp hi => Sys2Proof.Machine.execTmDtIncHiWrite camp hi s
  | .comparatorFire k => Sys2Proof.Machine.execComparatorFire k s
  | .pulseWidthEnd pin => Sys2Proof.Machine.execPulseWidthEnd pin s
  | .captureInputEdge input => Sys2Proof.Machine.execCaptureInputEdge input s
  | .triggerInEdge => Sys2Proof.Machine.execTriggerInEdge s
  | .conditionerWindowEnd input => Sys2Proof.Machine.execConditionerWindowEnd input s
  | .inputStuck input => Sys2Proof.Machine.execInputStuck input s
  | .acqArm unit f => Sys2Proof.Machine.execAcqArm unit f s
  | .acqStop unit f => Sys2Proof.Machine.execAcqStop unit f s
  | .acqForce unit f => Sys2Proof.Machine.execAcqForce unit f s
  | .decForce dec format host => Sys2Proof.Machine.execDecForce dec format host s
  | .postCyclesEnd unit => Sys2Proof.Machine.execPostCyclesEnd unit s
  | .holdoffEnd unit => Sys2Proof.Machine.execHoldoffEnd unit s
  | .captureWriteDone unit => Sys2Proof.Machine.execCaptureWriteDone unit s
  | .captureBusError unit => Sys2Proof.Machine.execCaptureBusError unit s
  | .trigoutWidthEnd => Sys2Proof.Machine.execTrigoutWidthEnd s
  | .trFlush => Sys2Proof.Machine.execTrFlush s
  | .trRoute => Sys2Proof.Machine.execTrRoute s
  | .clearFb => Sys2Proof.Machine.execClearFb s
  | .frameFlushTimer core => Sys2Proof.Machine.execFrameFlushTimer core s
  | .cairnTimer core => Sys2Proof.Machine.execCairnTimer core s
  | .traceFrameWrite => Sys2Proof.Machine.execTraceFrameWrite s
  | .traceBusError => Sys2Proof.Machine.execTraceBusError s
  | .fallbackDrainDone => Sys2Proof.Machine.execFallbackDrainDone s
  | .tokenLoad slot => Sys2Proof.Machine.execTokenLoad slot s
  | .tokenLoadDone ok bytes => Sys2Proof.Machine.execTokenLoadDone ok bytes s
  | .tokenRevoke slot => Sys2Proof.Machine.execTokenRevoke slot s
  | .powerOn refin => Sys2Proof.Machine.execPowerOn refin s
  | .inputBrownout => Sys2Proof.Machine.execInputBrownout s
  | .inputOvervoltage => Sys2Proof.Machine.execInputOvervoltage s
  | .thermalShutdown => Sys2Proof.Machine.execThermalShutdown s
  | .powerControlInterval o => Sys2Proof.Machine.execPowerControlInterval o s
  | .romVerifyDone => Sys2Proof.Machine.execRomVerifyDone s
  | .dramPhaseDone delays bounds => Sys2Proof.Machine.execDramPhaseDone delays bounds s
  | .pinsPhaseDone times => Sys2Proof.Machine.execPinsPhaseDone times s
  | .recoveryStreamVerified => Sys2Proof.Machine.execRecoveryStreamVerified s
  | .pwReset f => Sys2Proof.Machine.execPwReset f s
  | .fwProgram f => Sys2Proof.Machine.execFwProgram f s
  | .fwProgramDone ok bytes flash => Sys2Proof.Machine.execFwProgramDone ok bytes flash s
  | .refinLoss => Sys2Proof.Machine.execRefinLoss s
  | .useIn outEn => Sys2Proof.Machine.execUseIn outEn s
  | .useLocal outEn => Sys2Proof.Machine.execUseLocal outEn s
  | .scrubRead loc kind unit addr err => Sys2Proof.Machine.execScrubRead loc kind unit addr err s
  | .scrubGo die kind slot => Sys2Proof.Machine.execScrubGo die kind slot s
  | .scrubPassDone die => Sys2Proof.Machine.execScrubPassDone die s
  | .supervisorCheck bad => Sys2Proof.Machine.execSupervisorCheck bad s
  | .scrubReloadDone die => Sys2Proof.Machine.execScrubReloadDone die s
  | .bist target index => Sys2Proof.Machine.execBist target index s
  | .bistDone fails rows => Sys2Proof.Machine.execBistDone fails rows s
  | .flushWear target index => Sys2Proof.Machine.execFlushWear target index s
  | .wearFlushTimer => Sys2Proof.Machine.execWearFlushTimer s
  | .wearCompactDone => Sys2Proof.Machine.execWearCompactDone s
  | .hsPitchMapWrite pitch spareCol => Sys2Proof.Machine.execHsPitchMapWrite pitch spareCol s
  | .hsBpMapWrite loc spare0 spare1 failed => Sys2Proof.Machine.execHsBpMapWrite loc spare0 spare1 failed s
  | .hsColMapWrite loc col0 col1 => Sys2Proof.Machine.execHsColMapWrite loc col0 col1 s
  | .bar2Read off len obs => Sys2Proof.Machine.execBar2Read off len obs s
  | .bar2Write off bytes obs => Sys2Proof.Machine.execBar2Write off bytes obs s
  | .barBadAccess off write => Sys2Proof.Machine.execBarBadAccess off write s
  | .msixUnmask vector => Sys2Proof.Machine.execMsixUnmask vector s
  | .pcieReset => Sys2Proof.Machine.execPcieReset s
  | .hiChVecWrite chan vec => Sys2Proof.Machine.execHiChVecWrite chan vec s
  | .rcRead place wide => Sys2Proof.Machine.execRcRead place wide s
  | .holdingRegisterRead slot => Sys2Proof.Machine.execHoldingRegisterRead slot s
  | .runCampCycleLoRead camp wide => Sys2Proof.Machine.execRunCampCycleLoRead camp wide s
  | .tsLogPosLoRead camp wide => Sys2Proof.Machine.execTsLogPosLoRead camp wide s
  | .tmNowFracRead wide => Sys2Proof.Machine.execTmNowFracRead wide s
  | .tmDtFracRead camp wide => Sys2Proof.Machine.execTmDtFracRead camp wide s
  | .tmCapFracRead input wide => Sys2Proof.Machine.execTmCapFracRead input wide s
  | .trFbDataRead wide => Sys2Proof.Machine.execTrFbDataRead wide s
  | .idKeyDataRead wide => Sys2Proof.Machine.execIdKeyDataRead wide s
  | .registerWrite place wide value obs => Sys2Proof.Machine.execRegisterWrite place wide value obs s
  | .testLogicReset => Sys2Proof.Machine.execTestLogicReset s
  | .extest shift => Sys2Proof.Machine.execExtest shift s
  | .samplePreload pins shift => Sys2Proof.Machine.execSamplePreload pins shift s
  | .idcode => Sys2Proof.Machine.execIdcode s
  | .clamp => Sys2Proof.Machine.execClamp s
  | .highz => Sys2Proof.Machine.execHighz s
  | .regAccess dr obs => Sys2Proof.Machine.execRegAccess dr obs s
  | .loadStream dr => Sys2Proof.Machine.execLoadStream dr s
  | .moduleReset => Sys2Proof.Machine.execModuleReset s
  | .bypass => Sys2Proof.Machine.execBypass s
  | .smbPhase => Sys2Proof.Machine.execSmbPhase s
  | .smbVin => Sys2Proof.Machine.execSmbVin s
  | .smbIin => Sys2Proof.Machine.execSmbIin s
  | .smbPin => Sys2Proof.Machine.execSmbPin s
  | .smbTemp => Sys2Proof.Machine.execSmbTemp s
  | .smbIdent => Sys2Proof.Machine.execSmbIdent s
  | .smbAlarm => Sys2Proof.Machine.execSmbAlarm s
  | .smbDomains => Sys2Proof.Machine.execSmbDomains s
  | .smbReset value => Sys2Proof.Machine.execSmbReset value s
  | .hostif value => Sys2Proof.Machine.execHostif value s
  | .inputRecovery => Sys2Proof.Machine.execInputRecovery s
  | .thermalCooldown => Sys2Proof.Machine.execThermalCooldown s
  | .inputPowerRemoved => Sys2Proof.Machine.execInputPowerRemoved s
  | .refinReturn => Sys2Proof.Machine.execRefinReturn s
  | .mr4TemperatureChange chan hot => Sys2Proof.Machine.execMr4TemperatureChange chan hot s
  | .inputLevelChange input level short => Sys2Proof.Machine.execInputLevelChange input level short s
  | .stuckMaskRelease input => Sys2Proof.Machine.execStuckMaskRelease input s

end Sys2Proof.Machine
end

