-- ==== Sys2Proof/Safety.lean ====
section
/-! DEFINITION. What counts as a safe state: the invariant of the machine, and what no command may do to the rest of the state. -/

namespace Sys2Proof.Machine

/-- Deep memory's bytes in canonical form: addresses strictly rising, no byte listed that reads as an unlisted one does. -/
abbrev Memory.wf (m : List Host.Cell) : Bool := mcanon 0 m

/-- Every register field holds a value within its width (R13). -/
def State.fieldsFit (s : State) : Prop := ∀ e ∈ s.regs, e.2 < 2 ^ (fieldSpec e.1.reg e.1.fld).width

/-- A camp's STATE is one of the six codes of R46; codes 6 and 7 do not occur (R51). -/
def State.campCodes (s : State) : Prop := ∀ e ∈ s.regs, e.1.reg = .RUN_CAMP_STATUS → e.1.fld = .STATE → e.2 ≤ 5

/-- Register fields within their widths, camp states of R46, deep memory canonical, fabric time within 96 bits (R555). -/
structure State.Inv (s : State) : Prop where
  fits : s.fieldsFit
  codes : s.campCodes
  mem : Memory.wf s.deep.bytes = true
  time : s.now < 2 ^ 96

/-- What a command leaves of the state it acts on: the queue, the part and the tick count are untouched, what has left the block stays said, identities and free values are never taken back, and the invariant stands. -/
structure Keeps (a t : State) : Prop where
  pending : t.pending = a.pending
  part : t.part = a.part
  ticks : t.ticks = a.ticks
  out : a.out <:+ t.out
  ids : a.nextId ≤ t.nextId
  draws : a.draws ≤ t.draws
  inv : a.Inv → t.Inv

end Sys2Proof.Machine
end

