-- ==== Sys2Proof/Certificates/Slice0/Obligations.lean ====
section
/-! DEFINITION. The statements for the provers: what the commands do and what every step keeps. -/

open Sys2Proof Sys2Proof.Machine

/-- A step is the front command on the rest of the queue; on an empty queue it is one tick of fabric time, which is the model's choice (assumption log 2). -/
def Obligations.StepRunsFrontCommand : Prop :=
  (∀ (s : State) (c : Instr) (q : List Instr), step { s with pending := c :: q } = exec c { s with pending := q }) ∧
  (∀ s : State, s.pending = [] → step s = .next s.tick) ∧
  (∀ s : State, s.pending = [] → s.deep.held = [] → s.deep.throttled = [] →
    step s = .next { s with now := (s.now + s.rd .TM_RATE 0 .INC) % 2 ^ 96, ticks := s.ticks + 1 })

/-- What every command leaves alone, and the invariant that every command keeps. What the spec leaves open in it is the model's choice: assumption log 1, 36. -/
def Obligations.CommandsKeepTheRest : Prop :=
  ∀ (i : Instr) (s t : State), exec i s = .next t →
    t.pending = s.pending ∧ t.part = s.part ∧ t.ticks = s.ticks ∧ s.out <:+ t.out ∧ s.nextId ≤ t.nextId ∧ s.draws ≤ t.draws ∧
    (s.Inv → t.Inv)

/-- The invariant of the machine is kept by every step, from every state that meets it. What the spec leaves open in it is the model's choice: assumption log 17. -/
def Obligations.StepKeepsInvariant : Prop :=
  ∀ s t : State, s.Inv → step s = .next t → t.Inv ∧ s.out <:+ t.out ∧ t.pending = s.pending.tail

/-- The invariant holds after reset; every camp is UNLOADED there (R46). What the spec leaves open in it is the model's choice: assumption log 4, 5. -/
def Obligations.ResetMeetsInvariant : Prop :=
  State.reset.Inv ∧ State.reset.pending = [] ∧ State.reset.out = [] ∧ ∀ c, State.reset.campState c = 0

/-- The results of the BP instructions (R64, R65, R71, R76, R82, R84 to R86, R88 to R90), each the whole change of the state. The bit written is kept with its old value until the step ends, so that every instruction of the step reads the stores as they stood at its start. What the spec leaves open in it is the model's choice: assumption log 14. -/
def Obligations.BpInstructionResults : Prop :=
  ∀ (s : State) (loc : BpSite) (f : BpFields) (c n : Nat),
    let k := 72 * loc.die + loc.slot
    let cl := (s.cluster k).before
    let b := cl.bp loc.bp
    let x := s.ctxAt c (k / 72) k n
    let idx := bit (readSel x cl b f.a) + 2 * bit (readSel x cl b f.b) + 4 * bit (readSel x cl b f.c)
    let ran := fun (y : Cluster) (g : Bp → Bp) => { y.modBp loc.bp g with done := loc.bp :: y.done }
    let wrote := fun (y : Cluster) (v : Bool) =>
      { y.modBp loc.bp (fun z => { z with bits := z.bits.put (n % 1024) v }) with
          wrote := y.wrote ++ [⟨loc.bp, loc.bp, n % 1024, (y.bp loc.bp).bits.at (n % 1024)⟩] }
    let ends := fun (t : State) => Host.Outcome.next (t.haltIfFrozen c)
    let u := s.beatUnpack c k n loc.bp
    s.stepOf k = some (c, n) →
    (bpFaults x cl b .nop f = [] → exec (.bpNop loc f) s = ends (s.modCluster k fun y => ran y fun b => { b with drive := none })) ∧
    (bpFaults x cl b .lut4 f = [] → f.dest = 0 →
      let v := f.tt.getLsbD (idx + 8 * bit (readSel x cl b f.d))
      exec (.lut4 loc f) s = ends (u.modCluster k fun y => wrote (ran y fun b => { b with drive := if f.xout then some v else none }) v)) ∧
    (bpFaults x cl b .lut4 f = [] → f.dest = 1 →
      let v := f.tt.getLsbD idx
      exec (.lut4 loc f) s = ends (s.modCluster k fun y => ran y fun b =>
        { b with shadow := b.shadow.put (selIndex f.d) v, marks := b.marks.put (selIndex f.d) true, drive := if f.xout then some v else none })) ∧
    (bpFaults x cl b .lut4 f = [] → f.dest = 2 →
      let v := f.tt.getLsbD idx
      exec (.lut4 loc f) s = ends (u.modCluster k fun y => wrote (ran y fun b =>
        { b with shadow := b.shadow.put (selIndex f.d) v, marks := b.marks.put (selIndex f.d) true, drive := if f.xout then some v else none }) v)) ∧
    (bpFaults x cl b .lut4 f = [] → f.dest = 3 →
      let v := f.tt.getLsbD (idx + 8 * bit (readSel x cl b f.d))
      exec (.lut4 loc f) s = ends (s.modCluster k fun y => ran y fun b => { b with drive := if f.xout then some v else none })) ∧
    (bpFaults x cl b .lut4e f = [] →
      let v := f.tt.getLsbD idx
      let e := v && !b.state.at (selIndex f.d)
      exec (.lut4e loc f) s = ends (u.modCluster k fun y => wrote (ran y fun b =>
        { b with shadow := b.shadow.put (selIndex f.d) v, marks := b.marks.put (selIndex f.d) true, drive := if f.xout then some e else none }) e)) ∧
    (bpFaults x cl b .route f = [] → (∀ e ∈ cl.slots, e.1 = selIndex f.d → loc.bp ≤ e.2.1) →
      let v := readSel x cl b f.a
      let w := if f.dest = 0 then u else s
      exec (.route loc f) s = ends ((w.beatRoutes c k n loc.bp (selIndex f.d)).modCluster k fun y =>
        let z := ran y fun b => { b with drive := none }
        let z := if f.dest = 0 then wrote z v else z
        { z with slots := z.slots ++ [(selIndex f.d, loc.bp, v)] })) ∧
    (bpFaults x cl b .hold f = [] →
      exec (.hold loc f) s = ends (s.modCluster k fun y => ran y fun z => { z with drive := if f.xout then some (b.bits.at (n % 1024)) else none })) ∧
    (bpFaults x cl b .ckpt f = [] →
      exec (.ckpt loc f) s = ends (s.modCluster k fun y =>
        let z := ran y fun b => { b with drive := none }
        if (z.bp loc.bp).drain = .armed then
          if z.activeDrains < 4 ∧ z.hasQueued = false then z.modBp loc.bp fun b => { b with drain := .active 0 }
          else z.modBp loc.bp fun b => { b with drain := .queued (64 * n + loc.bp) }
        else z))

/-- A faulting BP instruction is suppressed (R94), counted and logged (R97, R98), the lowest BP of a step recorded (R100). What the spec leaves open in it is the model's choice: assumption log 13, 14, 90. -/
def Obligations.BpFaultsAreSuppressedAndLogged : Prop :=
  ∀ (s : State) (loc : BpSite) (f : BpFields) (c n e o : Nat) (l : List (Nat × Nat)) (op : BpOp) (i : Instr),
    (op, i) ∈ [(BpOp.nop, Instr.bpNop loc f), (.lut4, .lut4 loc f), (.lut4e, .lut4e loc f), (.route, .route loc f), (.hold, .hold loc f),
      (.ckpt, .ckpt loc f)] →
    let k := 72 * loc.die + loc.slot
    let cl := (s.cluster k).before
    s.stepOf k = some (c, n) →
    bpFaults (s.ctxAt c (k / 72) k n) cl (cl.bp loc.bp) op f = (e, o) :: l →
    ∃ u : State, exec i s = .next (u.haltIfFrozen c) ∧
      u.clusters = (s.modCluster k fun y => { y.modBp loc.bp (fun b => { b with drive := none }) with done := loc.bp :: y.done }).clusters ∧
      u.deep = s.deep ∧ u.now = s.now ∧
      u.rd .CL_FAULT_COUNT k .COUNT = min (s.rd .CL_FAULT_COUNT k .COUNT + 1) (2 ^ 32 - 1) ∧
      (s.rd .CL_FAULT_LOG k .VALID = 0 →
        u.rd .CL_FAULT_LOG k .VALID = 1 ∧ u.rd .CL_FAULT_LOG k .CODE = e % 64 ∧ u.rd .CL_FAULT_LOG k .BP = loc.bp % 64 ∧
        u.rd .CL_FAULT_LOG k .STEP = n % 4096) ∧
      (s.logsNow .CL_FAULT_LOG k (s.momentOf c (k / 72)) = true →
        faultRank e loc.bp < faultRank (s.rd .CL_FAULT_LOG k .CODE) (s.rd .CL_FAULT_LOG k .BP) →
        u.rd .CL_FAULT_LOG k .MORE = 1 ∧ u.rd .CL_FAULT_LOG k .CODE = e % 64 ∧ u.rd .CL_FAULT_LOG k .BP = loc.bp % 64)

/-- The results of the ALU group (R109, R110, R113), each the whole change of the state. What the spec leaves open in it is the model's choice: assumption log 14. -/
def Obligations.WordUnitArithmeticResults : Prop :=
  ∀ (s : State) (loc : ClusterSite) (f : WuFields) (c n : Nat),
    let k := 72 * loc.die + loc.slot
    let cl := (s.cluster k).before
    let x := s.ctxAt c (k / 72) k n
    let a := cl.wreg f.sa
    let b := if f.immb then f.imm16.signExtend 40 else cl.wreg f.sb
    let m := cl.wreg (modeBits f 36 4)
    let pos := modeBits f 30 6
    let wid := modeBits f 24 6
    let ok := fun (op : WuOp) => wuFaults x cl (s.rd .WU_CFG k .MODE) ((s.cluster k).wroteBits n) op f = []
    let ends := fun (t : State) => Host.Outcome.next (t.haltIfFrozen c)
    let put := fun (v : Word) => ends (s.modCluster k fun y => { y with busy := [], done := 64 :: y.done, w := tset y.w (f.dst % 16) v })
    s.stepOf k = some (c, n) →
    (ok .nop → exec (.wuNop loc f) s = ends (s.modCluster k fun y => { y with busy := [], done := 64 :: y.done })) ∧
    (∀ e ∈ [(Instr.wuAdd loc f, WuOp.add, a + b), (.wuSub loc f, .sub, a - b),
        (.wuCarry loc f, .carry, if 2 ^ 40 ≤ a.toNat + b.toNat then 1 else 0), (.wuBorrow loc f, .borrow, if a.toNat < b.toNat then 1 else 0),
        (.wuAnd loc f, .and, a &&& b), (.wuOr loc f, .or, a ||| b), (.wuXor loc f, .xor, a ^^^ b), (.wuAndn loc f, .andn, a &&& ~~~b),
        (.wuShl loc f, .shl, a <<< (b.toNat % 64)), (.wuShr loc f, .shr, a >>> (b.toNat % 64)), (.wuSar loc f, .sar, a.sshiftRight (b.toNat % 64)),
        (.wuRol loc f, .rol, a.rotateLeft (b.toNat % 40)), (.wuRor loc f, .ror, a.rotateRight (b.toNat % 40)),
        (.wuCmpeq loc f, .cmpeq, if a = b then 1 else 0), (.wuCmpltu loc f, .cmpltu, if a.toNat < b.toNat then 1 else 0),
        (.wuCmplts loc f, .cmplts, if a.toInt < b.toInt then 1 else 0), (.wuSel loc f, .sel, if m ≠ 0 then a else b),
        (.wuBsel loc f, .bsel, (a &&& m) ||| (b &&& ~~~m))],
      ok e.2.1 → exec e.1 s = put e.2.2) ∧
    (ok .ext → ∃ v : Word, exec (.wuExt loc f) s = put v ∧ ∀ j < 40, v.getLsbD j = (decide (j < wid) && a.getLsbD (pos + j))) ∧
    (ok .dep → ∃ v : Word, exec (.wuDep loc f) s = put v ∧
      ∀ j < 40, v.getLsbD j = if pos ≤ j ∧ j < pos + wid then b.getLsbD (j - pos) else a.getLsbD j)

/-- The multiplier (R114): issue, and the write at the end of the third executed step; a stall freezes it (R136). What the spec leaves open in it is the model's choice: assumption log 14. -/
def Obligations.MultiplyResultsThreeStepsLater : Prop :=
  (∀ (s : State) (loc : ClusterSite) (f : WuFields) (c n : Nat),
    let k := 72 * loc.die + loc.slot
    let cl := (s.cluster k).before
    let a := cl.wreg f.sa
    let b := if f.immb then f.imm16.signExtend 40 else cl.wreg f.sb
    s.stepOf k = some (c, n) →
    ∀ e ∈ [(Instr.wuMullo loc f, WuOp.mullo, BitVec.ofNat 40 (a.toNat * b.toNat)),
        (.wuMulhiu loc f, .mulhiu, BitVec.ofNat 40 (a.toNat * b.toNat / 2 ^ 40)),
        (.wuMulhis loc f, .mulhis, BitVec.ofInt 40 (a.toInt * b.toInt / 2 ^ 40))],
      wuFaults (s.ctxAt c (k / 72) k n) cl (s.rd .WU_CFG k .MODE) ((s.cluster k).wroteBits n) e.2.1 f = [] →
      exec e.1 s = .next ((s.modCluster k fun y =>
        { y with busy := [], done := 64 :: y.done, mul := y.mul ++ [⟨if y.ticked.isSome then 2 else 3, f.dst % 16, e.2.2⟩] }).haltIfFrozen c)) ∧
  (∀ (s : State) (loc : ClusterSite),
    let k := 72 * loc.die + loc.slot
    (s.stepOf k = none → exec (.mulResultWrite loc) s = .next s) ∧
    (∀ e, s.stepOf k = some e → (s.cluster k).ticked = none → ∀ (d : Nat) (v : Word), (s.cluster k).mul = [⟨3, d, v⟩] →
      let ends := fun (t : State) => t.modCluster k Cluster.endStep
      ∃ t1 t2 t3, exec (.mulResultWrite loc) s = .next t1 ∧ exec (.mulResultWrite loc) t1 = .next t1 ∧
        exec (.mulResultWrite loc) (ends t1) = .next t2 ∧ exec (.mulResultWrite loc) (ends t2) = .next t3 ∧
        (t1.cluster k).w = (s.cluster k).w ∧ (t2.cluster k).w = (s.cluster k).w ∧
        (t3.cluster k).w = tset (s.cluster k).w (d % 16) v ∧ (t3.cluster k).mul = [] ∧
        t1.regs = s.regs ∧ t1.camps = s.camps ∧ t1.deep = s.deep ∧ (∀ j, j ≠ k → t1.cluster j = s.cluster j)))

/-- The word unit's memory, packing and table operations (R116, R118 to R120, R122, R123, R127). What the spec leaves open in it is the model's choice: assumption log 9, 14. -/
def Obligations.WordUnitMemoryResults : Prop :=
  ∀ (s : State) (loc : ClusterSite) (f : WuFields) (c n : Nat),
    let k := 72 * loc.die + loc.slot
    let cl := (s.cluster k).before
    let ok := fun (op : WuOp) => wuFaults (s.ctxAt c (k / 72) k n) cl (s.rd .WU_CFG k .MODE) ((s.cluster k).wroteBits n) op f = []
    let ends := fun (t : State) => Host.Outcome.next (t.haltIfFrozen c)
    let at64 := fun (y : Cluster) => { y with done := 64 :: y.done }
    let a := ((cl.wreg f.sa).toNat % 65536 + f.imm16.toNat) % 65536
    let sel := modeBits f 36 4
    let banks := if sel = 8 then List.range 8 else [sel]
    let x := cl.wreg f.sb
    let badr := modeBits f 30 10
    let base := modeBits f 24 6
    let wid := modeBits f 18 6
    let t := (s.rd .WU_CFG k .SR_BASE + s.rd .WU_SR_PTR k .PTR) % 65536
    s.stepOf k = some (c, n) →
    (ok .ldm → ((s.cluster k).word a).syn = 0 →
      exec (.wuLdm loc f) s = ends (s.modCluster k fun y => { at64 y with busy := banks, w := tset y.w (f.dst % 16) ((s.cluster k).word a).data })) ∧
    (ok .stm → modeBits f 33 1 = 1 → (cl.wreg (modeBits f 29 4)).getLsbD 0 = false →
      exec (.wuStm loc f) s = ends (s.modCluster k fun y => { at64 y with busy := banks })) ∧
    (ok .stm → (modeBits f 33 1 = 0 ∨ (cl.wreg (modeBits f 29 4)).getLsbD 0 = true) → a / 8 < (s.cluster k).snapLine →
      (modeBits f 34 2 = 0 →
        exec (.wuStm loc f) s = ends (s.modCluster k fun y => { (at64 y).write a x with busy := banks })) ∧
      (((s.cluster k).word a).syn = 0 → modeBits f 34 2 = 1 →
        exec (.wuStm loc f) s = ends (s.modCluster k fun y => { (at64 y).write a (((s.cluster k).word a).data ||| x) with busy := banks })) ∧
      (((s.cluster k).word a).syn = 0 → modeBits f 34 2 = 2 →
        exec (.wuStm loc f) s = ends (s.modCluster k fun y => { (at64 y).write a (((s.cluster k).word a).data &&& ~~~x) with busy := banks }))) ∧
    (ok .shift → ((s.cluster k).word t).syn = 0 → t / 8 < (s.cluster k).snapLine →
      exec (.wuShift loc f) s = ends ((s.modCluster k fun y =>
        { (at64 y).write t (cl.wreg f.sa) with busy := List.range 8, w := tset y.w (f.dst % 16) ((s.cluster k).word t).data }).wr
          .WU_SR_PTR k .PTR ((s.rd .WU_SR_PTR k .PTR + 1) % s.rd .WU_CFG k .SR_LEN))) ∧
    (ok .pack → ∃ v : Word, exec (.wuPack loc f) s = ends (s.modCluster k fun y => { at64 y with busy := [], w := tset y.w (f.dst % 16) v }) ∧
      ∀ j < 40, v.getLsbD j = (decide (j < wid) && (cl.bp (base + j)).bits.at badr)) ∧
    (ok .unpack → exec (.wuUnpack loc f) s = ends (s.modCluster k fun y =>
      (List.range wid).foldl (fun z j => z.putBit 64 (base + j) badr ((cl.wreg f.sa).getLsbD j)) { at64 y with busy := [] })) ∧
    (ok .xec → ∀ o : AluOp, xecEntry cl f = .inr (some o) → o.op.isMul = false →
      exec (.wuXec loc f) s = ends (s.modCluster k fun y => { at64 y with busy := [], w := tset y.w (o.dst % 16) o.val })) ∧
    (ok .xec → xecEntry cl f = .inr none → exec (.wuXec loc f) s = ends (s.modCluster k fun y => { at64 y with busy := [] }))

/-- The run commands where R47, R52 and R54 accept them (R49, R51, R54, R56, R59, R260, R261, R267, R321, R727). That a held START clears the halt cause at its acceptance is the model's choice. What the spec leaves open in it is the model's choice: assumption log 19, 21. -/
def Obligations.RunCommandsTakeEffect : Prop :=
  ∀ (s₀ : State) (c : Nat) (f : RunFields),
    s₀.reaches .RUN_CAMP_CTRL c = true →
    let s := s₀.unhold .RUN_CAMP_CTRL c
    let s1 := s.wrs .RUN_CAMP_CTRL c [(.HALT_ON_FAULT, bit f.hof), (.START_SRC, bit f.src), (.STEP_COUNT, f.steps)]
    let pended := fun p => (s1.modCamp c fun x => { x with pend := some p }).wr .RUN_CAMP_STATUS c .CMD_PENDING 1
    let free := (s.camp c).pend = none
    let snap := s.rd .DC_SNAP_STATUS c .STATE
    (free → s.campState c = 2 → f.src = false → ∃ t, exec (.start c f) s₀ = .next t ∧ t.campState c = 3 ∧
      t.rd .RUN_CAMP_STATUS c .RAMPING = 1 ∧ t.rd .RUN_CAMP_STATUS c .HALT_CAUSE = 0 ∧ t.rd .RUN_CAMP_STATUS c .HALT_MIDCYCLE = 0 ∧
      t.rd .RUN_CAMP_CTRL c .HALT_ON_FAULT = bit f.hof ∧ t.deep = s.deep ∧ t.chans = s.chans ∧ t.cores = s.cores ∧ t.out = s.out ∧
      (∀ d, c ≠ d → t.camp d = s.camp d)) ∧
    (free → (s.campState c = 2 ∨ s.campState c = 4 ∨ s.campState c = 5) → f.src = true → s.rd .DC_SNAP_SEL c .VALID = 1 →
      (snap = 2 → exec (.start c f) s₀ = .next ((pended .start).wrs .RUN_CAMP_STATUS c [(.HALT_CAUSE, 0), (.HALT_MIDCYCLE, 0)])) ∧
      (snap ≠ 2 → exec (.start c f) s₀ = .next ((if snap = 1 then s1.abandon c 7 else s1).beginStart c) ∧
        ∀ u : State, u.rd .RUN_CAMP_CTRL c .START_SRC = 1 → (u.beginStart c).campState c = 3 ∧ (u.beginStart c).rd .RUN_CAMP_STATUS c .RAMPING = 1 ∧
          ((u.beginStart c).camp c).restoring = true)) ∧
    (free → s.campState c = 3 → exec (.pause c f) s₀ = .next (pended .pause)) ∧
    (free → s.campState c = 4 → exec (.resume c f) s₀ = .next (s1.wr .RUN_CAMP_STATUS c .STATE 3)) ∧
    (free → s.campState c = 4 → f.steps % 2 ^ 24 ≠ 0 → exec (.step c f) s₀ =
      .next ((s1.wr .RUN_CAMP_STATUS c .STATE 3).modCamp c fun x => { x with stepLeft := some (f.steps % 2 ^ 24) })) ∧
    (free → s.campState c = 3 → f.steps % 2 ^ 24 ≠ 0 → exec (.step c f) s₀ = .next (pended (.step (f.steps % 2 ^ 24)))) ∧
    (free → s.campState c = 4 → exec (.halt c f) s₀ = .next (s1.haltNow c 1 false)) ∧
    (free → s.campState c = 3 → s.rd .RUN_CAMP_STATUS c .RAMPING = 1 → exec (.halt c f) s₀ = .next (s1.haltNow c 1 false)) ∧
    (free → s.campState c = 3 → s.rd .RUN_CAMP_STATUS c .RAMPING = 0 → s.campFrozen c = true → exec (.halt c f) s₀ = .next (s1.haltNow c 1 true)) ∧
    ((s.camp c).pend ≠ some .unload → s.campState c = 3 → s.rd .RUN_CAMP_STATUS c .RAMPING = 0 → s.campFrozen c = false →
      exec (.halt c f) s₀ = .next (pended .halt)) ∧
    (free → (s.campState c = 2 ∨ s.campState c = 4 ∨ s.campState c = 5) → exec (.unload c f) s₀ =
      .next ((((if snap = 1 ∨ snap = 2 then s1.abandon c 5 else s1).wrs .RUN_CAMP_STATUS c [(.HALT_CAUSE, 0), (.HALT_MIDCYCLE, 0)]).modCamp c
        fun x => { x with pend := some .unload }).forEach
        (s.campPitches c) fun t p => t.forEach ((List.range 9).map fun j => 9 * p + j) fun u k =>
          (u.modCluster k Cluster.clear).wr .CM_STATUS k .CLEARING 1))

/-- R52. -/
def Obligations.RejectedRunCommandChangesNothing : Prop :=
  ∀ (s₀ : State) (c : Nat) (f : RunFields) (w : RegWrite),
    s₀.reaches .RUN_CAMP_CTRL c = true →
    let s := s₀.unhold .RUN_CAMP_CTRL c
    let st := s.campState c
    let err := s.wr .RUN_CAMP_STATUS c .CMD_ERR 1
    let busy := (s.camp c).pend ≠ none
    ((busy ∨ (st ≠ 2 ∧ (f.src = false ∨ (st ≠ 4 ∧ st ≠ 5))) ∨ (f.src = true ∧ s.rd .DC_SNAP_SEL c .VALID = 0)) → exec (.start c f) s₀ = .next err) ∧
    ((busy ∨ st ≠ 3) → exec (.pause c f) s₀ = .next err) ∧
    ((busy ∨ st ≠ 4) → exec (.resume c f) s₀ = .next err) ∧
    ((busy ∨ (st ≠ 3 ∧ st ≠ 4) ∨ f.steps % 2 ^ 24 = 0) → exec (.step c f) s₀ = .next err) ∧
    (st ≠ 3 → st ≠ 4 → (s.camp c).pend ≠ some .start → exec (.halt c f) s₀ = .next err) ∧
    ((busy ∨ (st ≠ 2 ∧ st ≠ 4 ∧ st ≠ 5)) → exec (.unload c f) s₀ = .next err) ∧
    (7 ≤ w.got .RUN_CAMP_CTRL .CMD → s.writeRun c w = err)

/-- START's ramp (R49, R644), restore (R261), and the end of an UNLOAD (R321). What the spec leaves open in it is the model's choice: assumption log 11, 99, 106. -/
def Obligations.StartSequenceAndUnload : Prop :=
  ∀ (s : State) (c n : Nat),
    (s.campState c = 3 → s.rd .RUN_CAMP_STATUS c .RAMPING = 1 → (s.camp c).restoring = false → (s.camp c).ramp = none →
      max 10 (min 1000 (s.rd .PW_STAGGER 0 .US)) ≤ n → exec (.rampStart c n) s = .next (s.modCamp c fun y => { y with ramp := some 0 })) ∧
    ((s.camp c).ramp = some n → exec (.rampStep c) s = .next (s.modCamp c fun y => { y with ramp := some (min 64 (n + 1)) })) ∧
    (s.campState c = 3 → (s.camp c).ramp = some 64 → exec (.firstDesignCycleStart c) s =
      .next (((s.wr .RUN_CAMP_STATUS c .RAMPING 0).wr .PW_CAMP c .LEVEL 0).modCamp c fun y => { y with ramp := none })) ∧
    ((s.camp c).pend = some .start → s.rd .DC_SNAP_STATUS c .STATE = 3 → ∃ t, exec (.heldStartRelease c) s = .next t ∧
      t.campState c = 3 ∧ t.rd .RUN_CAMP_STATUS c .RAMPING = 1 ∧ t.rd .RUN_CAMP_STATUS c .CMD_PENDING = 0) ∧
    ((s.campState c = 3 ∨ s.campState c = 5) → (s.camp c).restoring = true →
      let fails := fun (u : State) (alarm : Bool) =>
        let v := (u.modCamp c fun x => { x with restoring := false }).wrs .DC_SNAP_SEL c [(.VALID, 0), (.SEL_ERR, 1)]
        if v.campState c = 3 then v.haltNow c (if alarm then 4 else 6) false else v
      let r := (s.restore c).2.modCamp c fun x => { x with restoring := false }
      ((s.restore c).1 = none → exec (.restoreDone c) s =
        .next (match if r.replays c && r.campState c == 3 then r.logEnds c (r.camp c).cycle.toNat else none with
          | some e => ((r.endReplay c e).wr .RUN_CAMP_STATUS c .RAMPING 0).pauseNow c
          | none => r)) ∧
      (∀ e, (s.restore c).1 = some e → exec (.restoreDone c) s = .next (fails (s.restore c).2 false)) ∧
      (∀ alarm, exec (.restoreBusError c n alarm) s = .next (fails (s.restorePart c n) alarm))) ∧
    ((s.camp c).pend = some .unload → (s.camp c).issues = [] → ∃ t l, exec (.unloadDone c) s = .next t ∧
      t.camp c = { Camp.reset with logPos := l } ∧ t.campState c = 0 ∧ t.rd .RUN_CAMP_STATUS c .KEY_ID = 0 ∧ t.rd .RUN_CAMP_PITCH_LO c .PITCHES = 0)

/-- SCHEDULE_STEP (R41, R44, R186, R234, R239, R243, R358, R363) and the drains (R88, R89, R103, R216). What the spec leaves open in it is the model's choice: assumption log 14, 25, 86, 95, 96. -/
def Obligations.ScheduleStepsRun : Prop :=
  ∀ (s : State) (c d n : Nat) (obs : StepObs) (v : BitVec 16) (k i : Nat) (site : ClusterSite) (bp : BpSite),
    let g := s.group c d
    let cyc := (s.camp c).cycle.toNat
    let bound := some (cyc, Pos.step n)
    let stands := s.campState c = 3 ∧ s.rd .RUN_CAMP_STATUS c .RAMPING = 0 ∧ d ∈ s.campDies c
    let free := s.frozen c d = false
    (stands → free → g.pos = .step 0 → g.applied = false → g.queue.find? (fun e => e.1 == cyc) = some (cyc, v) → s.decisionHeld c = true →
      let p := match nextStep (s.camp c).segs v (s.schedLen c) 0 with | some m => Pos.step m | none => .bnd 0
      let u := (s.modGroup c d fun g => { g with applied := true, prev := g.cur, cur := v, pos := p, queue := g.queue.filter fun e => cyc < e.1 }).wrs
        .DC_VECTOR c [(.CUR, v.toNat), (.PREV, g.cur.toNat)]
      let w := u.takeEarly c
      ((w.group c d).pos = .bnd 0 → exec (.scheduleStep c d obs) s = .next w) ∧
      (∀ m, (w.group c d).pos = .step m → (w.group c d).applied = true → w.frozen c d = false → w.lates c d m = [] →
        exec (.scheduleStep c d obs) s = .next (w.doStep c d m obs)) ∧
      ((s.camp c).early = [] → w.group c d = { g with applied := true, prev := g.cur, cur := v, pos := p, queue := g.queue.filter fun e => cyc < e.1 } ∧
        w.rd .DC_VECTOR c .CUR = v.toNat ∧ w.rd .DC_VECTOR c .PREV = g.cur.toNat ∧ w.clusters = s.clusters)) ∧
    (stands → free → g.pos = .step 0 → g.applied = false → g.queue.find? (fun e => e.1 == cyc) = none →
      let t := (s.raiseStall c 0xA (s.groupIsland c d) (some (cyc, .step 0))).takeEarly c
      t.frozen c d = true → exec (.scheduleStep c d obs) s = .next t) ∧
    (stands → free → g.pos = .step n → g.applied = true →
      (s.lates c d n = [] → exec (.scheduleStep c d obs) s = .next (s.doStep c d n obs)) ∧
      (s.lates c d n ≠ [] → exec (.scheduleStep c d obs) s = .next (s.forEach (s.lates c d n) fun t e => t.raiseLate c n e)) ∧
      ((s.camp c).stalls = [] → s.lates c d n = [⟨k, i, none⟩] → exec (.scheduleStep c d obs) s = .next (s.raiseStall c k i bound)) ∧
      (∀ r, (s.camp c).stalls = [] → s.lates c d n = [⟨k, i, some r⟩] → ∃ t : State, exec (.scheduleStep c d obs) s = .next (t.raiseStall c k i bound) ∧
        t.rd .DM_LATE (s.chanOf r.addr) .COUNT = min (s.rd .DM_LATE (s.chanOf r.addr) .COUNT + 1) (2 ^ 32 - 1) ∧ t.deep = s.deep ∧ t.clusters = s.clusters)) ∧
    (stands → s.frozen c d = true → g.pos = .step n → g.applied = true →
      exec (.scheduleStep c d obs) s = .next (s.forEach (s.lates c d n) fun t e => t.raiseLate c n e)) ∧
    (¬ stands → exec (.scheduleStep c d obs) s = .next s) ∧
    (s.drainsMove (72 * site.die + site.slot) = true → (s.cluster (72 * site.die + site.slot)).activeDrains < 4 →
      ∀ a b, (s.cluster (72 * site.die + site.slot)).nextDrain = some (a, b) →
      exec (.drainStart site) s = .next (s.modCluster (72 * site.die + site.slot) fun cl => cl.modBp b fun z => { z with drain := .active 0 })) ∧
    (s.drainsMove (72 * site.die + site.slot) = false → exec (.drainStart site) s = .next s) ∧
    (((s.cluster (72 * bp.die + bp.slot)).bp bp.bp).drain = .active n → s.drainsMove (72 * bp.die + bp.slot) = true →
      (64 ≤ n ∨ ∃ c, s.pitchCamp (pitchOf (72 * bp.die + bp.slot)) = some c ∧ (s.campState c = 4 ∨ s.campState c = 5)) →
      exec (.drainEnd bp) s = .next (s.modCluster (72 * bp.die + bp.slot) fun x => x.modBp bp.bp fun b => { b with drain := .idle }))

/-- The boundary's rows (R43, R56, R76, R87, R88, R253, R449, R450, R455, R457, R579). What the spec leaves open in it is the model's choice: assumption log 20, 29, 88, 89. -/
def Obligations.CycleBoundaryRows : Prop :=
  ∀ (s : State) (c : Nat),
    let moved := fun (u : State) n => Host.Outcome.next ((u.forEach (u.campDies c) fun t d => t.modGroup c d fun g => { g with pos := .bnd n }).haltIfFrozen c)
    (s.atBnd c 0 = true → exec (.shadowCommit c) s = .next (s.commitCycle c) ∧ ∃ u, exec (.shadowCommit c) s = moved u 1) ∧
    (s.atBnd c 1 = true → exec (.faultFlagsClose c) s = moved (s.advance c 1) 2) ∧
    (s.atBnd c 2 = true → exec (.acquisitionSample c) s = moved ((s.acqSample c).advance c 1) 3) ∧
    (s.atBnd c 3 = true → s.replays c = false → exec (.recordExchange c) s = .next ((s.advance c 7).liveExchange c)) ∧
    (s.atBnd c 3 = true → s.replays c = true → exec (.recordExchange c) s = .next ((s.advance c 7).replayExchange c)) ∧
    (s.atBnd c 3 = false → s.atBnd c 10 = true → exec (.recordExchange c) s = .next ((s.settle c 0).leaveB10 c)) ∧
    (s.atBnd c 11 = true → s.pointNow c = false → exec (.snapshotPoint c) s = moved (s.advance c 1) 12) ∧
    (s.atBnd c 11 = true → s.pointNow c = true → exec (.snapshotPoint c) s = moved ((s.advance c 1).takePoint c false) 12) ∧
    (s.atBnd c 12 = true → exec (.cycleEnd c) s = .next (s.endCycle c)) ∧
    (∀ (u : State) n, (∀ d ∈ u.campDies c, ((u.forEach (u.campDies c) fun t d => t.modGroup c d fun g => { g with pos := .bnd n }).group c d).pos = .bnd n)) ∧
    (∀ u : State, (u.advance c 1).deep = u.deep ∧ (u.advance c 1).chans = u.chans ∧ (u.advance c 1).cores = u.cores) ∧
    (s.atBnd c 0 = false → exec (.shadowCommit c) s = .next s) ∧ (s.atBnd c 1 = false → exec (.faultFlagsClose c) s = .next s) ∧
    (s.atBnd c 2 = false → exec (.acquisitionSample c) s = .next s) ∧
    (s.atBnd c 3 = false → s.atBnd c 10 = false → exec (.recordExchange c) s = .next s) ∧
    (s.atBnd c 11 = false → exec (.snapshotPoint c) s = .next s) ∧ (s.atBnd c 12 = false → exec (.cycleEnd c) s = .next s)

/-- R76. -/
def Obligations.MarkedAddressesTakeTheirShadow : Prop :=
  (∀ (s : State) (loc : BpSite) (f : BpFields) (c n : Nat) (op : BpOp) (i : Instr),
    (op = .lut4 ∧ i = .lut4 loc f ∧ (f.dest = 1 ∨ f.dest = 2)) ∨ (op = .lut4e ∧ i = .lut4e loc f) →
    let k := 72 * loc.die + loc.slot
    let cl := (s.cluster k).before
    let b := (s.cluster k).bp loc.bp
    s.stepOf k = some (c, n) → bpFaults (s.ctxAt c (k / 72) k n) cl (cl.bp loc.bp) op f = [] →
    ∃ (u : State) (v : Bool), exec i s = .next (u.haltIfFrozen c) ∧ ((u.cluster k).bp loc.bp).shadow = b.shadow.put (selIndex f.d) v ∧
      ((u.cluster k).bp loc.bp).marks = b.marks.put (selIndex f.d) true) ∧
  (∀ (s : State) (c : Nat), s.atBnd c 0 = true →
    ∃ t, exec (.shadowCommit c) s = .next t ∧ ∀ k ∈ s.campClusters c, ∀ (j i : Nat),
      let b := (s.cluster k).bp j
      ((t.cluster k).bp j).state.at i = (if b.marks.at i = true then b.shadow.at i else b.state.at i) ∧
      ((t.cluster k).bp j).marks.at i = false)

/-- Cluster memory from the side (R142, R153, R156 to R158). What the spec leaves open in it is the model's choice: assumption log 9, 31. -/
def Obligations.ManagementAndBankAccesses : Prop :=
  ∀ (s₀ s : State) (die pitch bank w : Nat) (loc : ClusterSite) (r : BankReq),
    let g := s₀.unhold .CM_MGMT_CTRL die
    let km := 72 * die + s₀.rd .CM_MGMT_ADDR die .SLOT
    let k := 72 * loc.die + loc.slot
    let cl := s.cluster k
    let turn := (rotation (tget 4 cl.bankPtr bank)).find? fun w =>
      cl.reqs.any (fun r => r.who == w && r.addr % 8 == bank) || (w == 3 && s.snapWants k bank)
    let free := bank < 8 ∧ s.bankFree k bank = true ∧ s.rd .CM_STATUS k .CLEARING = 0
    (s₀.reaches .CM_MGMT_CTRL die = true →
      (g.rd .CM_MGMT_CTRL die .BUSY = 0 → g.mgmtRefused die = true → exec (.mgmtAccessGo die) s₀ = .next (g.wr .CM_MGMT_CTRL die .RESULT 3)) ∧
      (g.rd .CM_MGMT_CTRL die .BUSY = 0 → g.mgmtRefused die = false → exec (.mgmtAccessGo die) s₀ =
        .next ((g.wr .CM_MGMT_CTRL die .BUSY 1).modCluster km fun x => { x with reqs := x.reqs ++ [⟨4, g.rd .CM_MGMT_ADDR die .WADDR, g.mgmtOp die⟩] })) ∧
      (g.rd .CM_MGMT_CTRL die .BUSY = 1 → exec (.mgmtAccessGo die) s₀ = .next g)) ∧
    (free → turn = some w → w ≠ 3 → w ≠ 4 → cl.reqs.find? (fun r => r.who == w && r.addr % 8 == bank) = some r →
      exec (.bankGrant loc bank) s = .next (((s.modCluster k fun x => { x with bankPtr := tset x.bankPtr bank w }).bankAccess k r).modCluster k
        fun x => { x with reqs := x.reqs.erase r })) ∧
    (free → turn = some 4 → cl.reqs.find? (fun r => r.who == 4 && r.addr % 8 == bank) = some r → r.op = .read → (cl.word r.addr).decode.2 = .ok →
      ∃ t, exec (.bankGrant loc bank) s = .next t ∧ t.rd .CM_MGMT_CTRL (k / 72) .RESULT = 0 ∧
        t.rd .CM_MGMT_DATA (k / 72) .DATA = (if s.rd .CM_MGMT_ADDR (k / 72) .RAW = 1 then (cl.word r.addr).data else (cl.word r.addr).decode.1).toNat ∧
        (t.cluster k).reqs = cl.reqs.erase r ∧ (t.cluster k).mem = cl.mem ∧ tget 4 (t.cluster k).bankPtr bank = 4) ∧
    (free → turn = some 3 → s.snapWants k bank = true →
      exec (.bankGrant loc bank) s = .next (((s.modCluster k fun x => { x with bankPtr := tset x.bankPtr bank 3 }).snapRead k bank).modCluster k fun x => x.copyWord bank)) ∧
    (free → turn = none → exec (.bankGrant loc bank) s = .next s) ∧
    ((∀ slot < 72, ∀ r ∈ (s.cluster (72 * die + slot)).reqs, r.who ≠ 4) → exec (.mgmtAccessDone die) s = .next (s.wr .CM_MGMT_CTRL die .BUSY 0)) ∧
    (pitch < 64 → s.powered pitch = true → (s.load.failing = none ∨ pitch ∉ s.loadPitches) → (∀ c < 64, (s.camp c).pend = some .unload → pitch ∉ s.campPitches c) →
      exec (.wakeClearEnd pitch) s = .next (s.forEach (pitchSlots pitch) fun t k => t.wr .CM_STATUS k .CLEARING 0))

/-- FIFOs (R204 to R210, R219, R221, R237). What the spec leaves open in it is the model's choice: assumption log 32, 33, 85. -/
def Obligations.FifosFillAndEmptyInOrder : Prop :=
  ∀ (s : State) (id : FifoId) (x n : Nat) (l : List Nat) (side late : Bool) (c dst arr : Nat) (t : Item),
    let q := s.fifo id
    let depth := fifoDepth id
    let seen := if late then q.rseen else gray q.rptr
    let full := seen = gray ((q.wptr + depth) % (2 * depth))
    let synced := fun (f : Fifo) => { f with wseen := f.wseen, rseen := if late then f.rseen else gray f.rptr }
    let there := if late then q.wseen else gray q.wptr
    let fetched := fun (f : Fifo) => { f with wseen := if late then f.wseen else gray f.wptr, rseen := f.rseen }
    (q.reset = false → ¬ full → exec (.fifoWrite id x late) s =
      .next (s.modFifo id fun f => { synced f with items := f.items ++ [x], wptr := (f.wptr + 1) % (2 * depth) })) ∧
    (q.reset = false → full → ∃ t, exec (.fifoWrite id x late) s = .next t ∧ t.fifo id = { synced q with overrun := true } ∧
      t.rd .GL_OVERRUN_COUNT 0 .COUNT = min (s.rd .GL_OVERRUN_COUNT 0 .COUNT + 1) (2 ^ 32 - 1) ∧
      (s.rd .GL_OVERRUN_LOG 0 .VALID = 0 → t.rd .GL_OVERRUN_LOG 0 .VALID = 1 ∧ t.rd .GL_OVERRUN_LOG 0 .FIFO_ID = fifoCode id % 2 ^ 16)) ∧
    (q.reset = true → id.cls = 0 ∨ q.resend.length < depth → exec (.fifoWrite id x late) s =
      .next (s.modFifo id fun f => { synced f with resend := if id.cls = 0 then f.resend else f.resend ++ [x] })) ∧
    (there ≠ gray q.rptr → q.items = x :: l → exec (.fifoRead id late) s =
      .next (s.modFifo id fun f => { fetched f with items := l, taken := some x, rptr := (f.rptr + 1) % (2 * depth) })) ∧
    (there = gray q.rptr → exec (.fifoRead id late) s = .next (s.modFifo id fun f => { fetched f with taken := none })) ∧
    (id.cls ≠ 1 → s.served id = [] → ∃ t, exec (.fifoPtrMismatch id side) s = .next t ∧
      t.fifo id = { q with items := [], taken := none, wptr := 0, rptr := 0, wseen := 0, rseen := 0, reset := true, resend := if id.cls = 0 then [] else q.items ++ q.resend, again := if id.cls = 0 then 0 else q.items.length + q.again } ∧
      t.rd .GL_FIFO_COUNT 0 .COUNT = min (s.rd .GL_FIFO_COUNT 0 .COUNT + 1) (2 ^ 32 - 1) ∧
      (s.rd .GL_FIFO_LOG 0 .VALID = 0 → t.rd .GL_FIFO_LOG 0 .NO_CAMP = 1 ∧ t.rd .GL_FIFO_LOG 0 .SIDE = bit side)) ∧
    (q.reset = true → q.held = [] →
      let v := s.modFifo id fun f =>
        { f with items := f.resend, wptr := f.resend.length % (2 * depth), resend := [], again := 0, reset := false, held := [] }
      exec (.fifoReprime id n) s = .next (if id.cls = 6 then v.bump .NOC_RESEND 0 .COUNT q.again else v)) ∧
    ((s.camp c).flight.find? (fun t => t.dst == dst && t.arr == arr) = some t → (s.fifo ⟨0, dst / 512, t.edge⟩).reset = false →
      (s.camp c).lost = [] → (s.camp c).shares = [] → (s.group c (dst / 512)).pos = .bnd n → exec (.crossingItemArrive c dst arr 0) s =
      .next (s.modCamp c fun x => { x with flight := x.flight.erase t, items := x.items ++ [t] }))

/-- Guyline messages (R213, R215 to R218, R227, R228, R235, R542, R543) and RELOCK_DONE (R224). What the spec leaves open in it is the model's choice: assumption log 21, 22, 23, 87, 97. -/
def Obligations.GuylineMessagesAct : Prop :=
  ∀ (s : State) (c n : Nat) (st : Stall) (port : Option Nat) (m : BoundaryMsg) (cause module id : Nat),
    let cyc := (s.camp c).cycle.toNat
    (s.heard c 1 st.module st.id port = false → s.campState c ≠ 0 → s.campState c ≠ 1 → exec (.stall c st port) s =
      .next (((s.hear c 1 st.module st.id).guylineOut c port (.stall st)).applyStall c st)) ∧
    (s.heard c 1 st.module st.id port = false → s.campState c = 4 → s.spans c = false → ∃ t, exec (.stall c st port) s = .next t ∧
      t.rd .GL_STALL_EVENTS (14 * c + (s.recorded st).cause) .COUNT = satAdd 32 (s.rd .GL_STALL_EVENTS (14 * c + (s.recorded st).cause) .COUNT) 1 ∧
      (t.camp c).stalls = (s.camp c).stalls ∧ (t.camp c).groups = (s.camp c).groups) ∧
    (s.heard c 2 module id port = false → exec (.release c module id port n) s =
      .next (((s.hear c 2 module id).guylineOut c port (.release module id)).applyRelease c module id n)) ∧
    (s.heard c 2 st.module st.id port = false → s.spans c = false → (s.camp c).stalls = [st] → ∃ t, exec (.release c st.module st.id port n) s = .next t ∧
      (t.camp c).stalls = [] ∧ t.rd .GL_STALL_CAUSE c .ACTIVE = 0 ∧
      t.rd .GL_STALL_TIME (14 * c + st.cause) .TIME = satAdd 40 (s.rd .GL_STALL_TIME (14 * c + st.cause) .TIME) n) ∧
    (s.heard c 3 m.module m.cycle port = false → m.module ≠ s.ownAddr → s.spans c = true → exec (.boundary c m port n) s =
      .next (((s.hear c 3 m.module m.cycle).guylineOut c port (.boundary m)).applyBoundary c m n)) ∧
    (s.heard c 0 module cyc port = false →
      let u := (s.hear c 0 module cyc).guylineOut c port (.halt module cause)
      exec (.guylineHalt c cause module port) s = .next (if u.campState c = 4 then u.haltNow c cause false else u.haltCond c cause)) ∧
    (s.heard c 1 st.module st.id port = true → exec (.stall c st port) s = .next s) ∧
    (s.heard c 2 module id port = true → exec (.release c module id port n) s = .next s) ∧
    (s.heard c 3 m.module m.cycle port = true → exec (.boundary c m port n) s = .next s) ∧
    (s.heard c 0 module cyc port = true → exec (.guylineHalt c cause module port) s = .next s) ∧
    exec (.relockDone c n) s = .next (s.releaseCause c 8 (some 88) n)

/-- DC and snapshot registers (R240, R244, R245, R251, R252, R257, R260, R265, R270). What the spec leaves open in it is the model's choice: assumption log 28, 30, 100, 101. -/
def Obligations.DesignClockAndSnapshotRegisters : Prop :=
  ∀ (s₀ : State) (c k num den acc page : Nat) (en next deep rd : Bool),
    let i := 16 * c + k
    let isOpen := s₀.campState c = 2 ∨ s₀.campState c = 4
    let shut := s₀.campState c = 0 ∨ s₀.campState c = 1
    let fits := fun (num den acc : Nat) (en : Bool) => en = false ∨ (1 ≤ num ∧ num ≤ den ∧ den ≤ 65535 ∧ acc < den)
    let noted := fun (t : State) => t.modCamp c fun x => { x with clockNew := some (t.tagSlots c) }
    let snap := s₀.rd .DC_SNAP_STATUS c .STATE
    let arm := s₀.armErr c next (s₀.rd .DC_SNAP_TARGET c .CYCLE)
    (s₀.reaches .DC_TAG i = true → let s := s₀.unhold .DC_TAG i
      (s.isHome c = true → isOpen → fits num den (s.rd .DC_ACC i .ACC) en → exec (.dcTagWrite c k num den en) s₀ =
        .next (noted (s.wrs .DC_TAG i [(.NUM, num), (.DEN, den), (.EN, bit en)]))) ∧
      (s.isHome c = true → ¬ (isOpen ∧ fits num den (s.rd .DC_ACC i .ACC) en) → exec (.dcTagWrite c k num den en) s₀ = .next (s.wr .DC_CTRL c .WR_ERR 1)) ∧
      (shut → exec (.dcTagWrite c k num den en) s₀ = .next (s.wr .DC_CTRL c .WR_ERR 1)) ∧
      (s.isHome c = false → ¬ shut → exec (.dcTagWrite c k num den en) s₀ = .next s)) ∧
    (s₀.reaches .DC_ACC i = true → let s := s₀.unhold .DC_ACC i
      (s.isHome c = true → isOpen → fits (s.rd .DC_TAG i .NUM) (s.rd .DC_TAG i .DEN) acc (s.rd .DC_TAG i .EN == 1) → exec (.dcAccWrite c k acc) s₀ =
        .next (noted (s.wr .DC_ACC i .ACC acc))) ∧
      (s.isHome c = true → ¬ (isOpen ∧ fits (s.rd .DC_TAG i .NUM) (s.rd .DC_TAG i .DEN) acc (s.rd .DC_TAG i .EN == 1)) →
        exec (.dcAccWrite c k acc) s₀ = .next (s.wr .DC_CTRL c .WR_ERR 1)) ∧
      (shut → exec (.dcAccWrite c k acc) s₀ = .next (s.wr .DC_CTRL c .WR_ERR 1)) ∧
      (s.isHome c = false → ¬ shut → exec (.dcAccWrite c k acc) s₀ = .next s)) ∧
    (s₀.reaches .DC_SNAP_CTRL c = true → let s := s₀.unhold .DC_SNAP_CTRL c
      (arm ≠ 0 → exec (.snapArm c next deep false) s₀ = .next (s.wr .DC_SNAP_STATUS c .ERR arm)) ∧
      (arm = 0 → exec (.snapArm c next deep false) s₀ = .next (s.takeArm c (s.rd .DC_SNAP_TARGET c .CYCLE) next deep)) ∧
      (snap = 0 → exec (.snapAbort c next deep) s₀ = .next (s.wrs .DC_SNAP_CTRL c [(.NEXT, bit next), (.DEEP, bit deep)])) ∧
      (snap = 1 ∨ snap = 2 → exec (.snapAbort c next deep) s₀ = .next ((s.wrs .DC_SNAP_CTRL c [(.NEXT, bit next), (.DEEP, bit deep)]).abandon c 7))) ∧
    (snap = 2 → ∃ f, exec (.snapshotBusError c rd) s₀ = .next ((s₀.abandon c (if rd then 8 else 6)).modLogAt f)) ∧
    (snap = 2 → (s₀.camp c).snap.pages = [] → (s₀.camp c).issues = [] → (s₀.drainWords c).snapDrained c = true →
      ((s₀.drainWords c).writeParts (s₀.rd .RUN_CAMP_STATUS c .KEY_ID) ((s₀.drainWords c).snapParts c)).1 = none → exec (.snapshotDone c) s₀ =
      .next ((((s₀.drainWords c).writeParts (s₀.rd .RUN_CAMP_STATUS c .KEY_ID) ((s₀.drainWords c).snapParts c)).2.modCamp c
        fun x => { x with snap := { x.snap with reported := s₀.ownAddr :: x.snap.reported } }).snapClose c)) ∧
    (s₀.reaches .DC_SNAP_SEL c = true → exec (.dcSnapSelWrite c page) s₀ =
      .next ((s₀.unhold .DC_SNAP_SEL c).wrs .DC_SNAP_SEL c [(.BASE, page), (.VALID, 0), (.SEL_ERR, 0)])) ∧
    (exec (.snapSelCheckDone c true) s₀ = .next (s₀.wrs .DC_SNAP_SEL c [(.VALID, 0), (.SEL_ERR, 1)])) ∧
    (let w := s₀.deepFetch 80 (s₀.rd .RUN_CAMP_STATUS c .KEY_ID) (4096 * s₀.rd .DC_SNAP_SEL c .BASE) 4096
      let e := if w.1 = none then w.2.selErr c (4096 * s₀.rd .DC_SNAP_SEL c .BASE) else 1
      exec (.snapSelCheckDone c false) s₀ = .next (w.2.wrs .DC_SNAP_SEL c [(.VALID, if e = 0 then 1 else 0), (.SEL_ERR, e)]))

/-- The load commands (R308, R309, R313, R314, R324, R653). What the spec leaves open in it is the model's choice: assumption log 34, 65, 66, 68. -/
def Obligations.LoadCommandsOfTheEntryModule : Prop :=
  ∀ (s₀ : State) (src n len a : Nat) (grades : List Nat) (bytes : List Byte) (rest : List (Nat × Nat)),
    (s₀.reaches .LD_CTRL 0 = true → let s := s₀.unhold .LD_CTRL 0
      let ps := (List.range n).map (s.placeReg grades)
      let addrs := ps.map (·.addr)
      let good := s.loading = false ∧ s.rd .PW_STATUS 0 .READY ≠ 0 ∧ 1 ≤ n ∧ n ≤ 128 ∧ addrs.eraseDups.length = n ∧ (∀ a ∈ addrs, a ≤ 127) ∧
        (n = 1 ∨ s.rd .FB_ID 0 .ADDR_VALID = 1)
      let own := if s.rd .FB_ID 0 .ADDR_VALID = 1 then ps.findIdx? (fun p => p.addr == s.ownAddr) else some 0
      let joined := (s.wrs .LD_CTRL 0 [(.SRC, src), (.MODULES, n)]).joinLoad true s.ownAddr src ps own
      let err := s.wr .LD_STATUS 0 .CMD_ERR 1
      (good → src < 2 → exec (.load src n grades) s₀ = .next (joined.forEach joined.load.others fun t e => t.originate e.2.addr 0 (.places ps))) ∧
      (good → src = 2 → exec (.load src n grades) s₀ = .next (joined.loadFailHere 13)) ∧
      (n ≤ 128 → ¬ good ∨ src = 3 → exec (.load src n grades) s₀ = .next err) ∧
      (128 < n → n < 256 → exec (.load src n grades) s₀ = .next err) ∧
      (s.loading = true → exec .ldAbort s₀ = .next (s.loadFailHere 15)) ∧ (s.loading = false → exec .ldAbort s₀ = .next err)) ∧
    (s₀.reaches .LD_DMA_PUSH 0 = true → let s := s₀.unhold .LD_DMA_PUSH 0
      let at40 := s.rd .LD_DMA_ADDR_LO 0 .ADDR + 2 ^ 40 * s.rd .LD_DMA_ADDR_HI 0 .ADDR
      (s.loading = true → s.load.entry = true → s.load.src = 0 → s.load.queue.length < 8 → s.load.failing = none → len < 2 ^ 21 → exec (.ldDmaPush len) s₀ =
        .next (((s.modLoad fun x => { x with queue := x.queue ++ [(at40, len)] }).wr .LD_DMA_PUSH 0 .DEPTH (s.load.queue.length + 1)).emit (.hostRead at40 len))) ∧
      (s.loading = false ∨ s.load.entry = false ∨ s.load.src ≠ 0 ∨ 8 ≤ s.load.queue.length → exec (.ldDmaPush len) s₀ = .next (s.wr .LD_STATUS 0 .CMD_ERR 1))) ∧
    let s := s₀
    let cast := fun (t : State) (b : List Byte) => if s.load.entry = true ∧ s.load.others ≠ [] then t.originate 255 0 (.bytes b) else t
    (s.segmentReady = true → s.load.entry = true → s.load.src = 0 → s.load.queue = (a, len) :: rest → exec (.loadSegment bytes) s =
      .next ((cast ((s.modLoad fun x => { x with queue := rest }).wr .LD_DMA_PUSH 0 .DEPTH rest.length) (bytes.take len)).takeSegment (bytes.take len))) ∧
    (s.segmentReady = true → s.load.entry = false ∨ s.load.src ≠ 0 → s.load.streamSegment = some bytes → exec (.loadSegment []) s =
      .next ((cast (s.modLoad fun x => { x with stream := x.stream.drop bytes.length }) bytes).takeSegment bytes)) ∧
    (s.segmentReady = false → exec (.loadSegment bytes) s = .next s)

/-- Load messages (R309, R311, R312, R314, R320, R326, R331). What the spec leaves open in it is the model's choice: assumption log 34, 35, 66, 68. -/
def Obligations.LoadMessagesOfTheOtherModules : Prop :=
  ∀ (s : State) (src n m i seg lcl e : Nat) (ps : List PlaceEntry),
    let l := s.load
    let live := l.active = true ∧ l.failing = none
    let other := l.entry = true ∧ m < l.places.length ∧ l.lmod ≠ some m
    let sent := l.next ≠ 0 ∧ l.next = l.segCount
    ((ps.take n).findIdx? (fun p => p.addr == s.ownAddr) = some m → s.rd .FB_ID 0 .ADDR_VALID ≠ 0 → s.rd .PW_STATUS 0 .READY ≠ 0 → l.active = false →
      exec (.placementEntryArrive src n ps) s = .next (s.joinLoad false src 0 (ps.take n) (some m))) ∧
    ((ps.take n).findIdx? (fun p => p.addr == s.ownAddr) = some m → s.rd .FB_ID 0 .ADDR_VALID ≠ 0 → s.rd .PW_STATUS 0 .READY ≠ 0 → l.active = true → l.failing ≠ none →
      exec (.placementEntryArrive src n ps) s = .next (s.originate src 1 (.ack m (.fail 7 0 0)))) ∧
    ((ps.take n).findIdx? (fun p => p.addr == s.ownAddr) = none → exec (.placementEntryArrive src n ps) s = .next s) ∧
    (live → other → i + 1 = l.next → exec (.loadAck m (.received i)) s = .next (s.modLoad fun x => { x with got := if x.got.contains m then x.got else m :: x.got })) ∧
    (live → other → exec (.loadAck m .pass) s = .next ((s.modLoad fun x => { x with reports := x.reports ++ [(m, none)] }).settleLoad)) ∧
    (live → other → ¬ sent ∨ (∃ x ∈ l.reports, x.1 = m) → exec (.loadAck m (.fail e seg lcl)) s = .next (s.loadFail ⟨e, seg, lcl, l.addrOf m, m⟩ true)) ∧
    (live → other → sent → (∀ x ∈ l.reports, x.1 ≠ m) → exec (.loadAck m (.fail e seg lcl)) s =
      .next ((s.modLoad fun x => { x with reports := x.reports ++ [(m, some ⟨e, seg, lcl, l.addrOf m, m⟩)] }).settleLoad)) ∧
    (live → l.entry = false → l.passed = true → l.lmod = some m → exec .commit s = .next s.commitHere.loadDone) ∧
    (live → l.entry = true → l.others = [] → l.lmod = some m → (∀ k < l.places.length, (k, none) ∈ l.reports) → exec .commit s = .next s.commitHere.loadDone) ∧
    (l.active = false → exec .commit s = .next s) ∧
    (l.entry = false → exec .abort s = .next (s.loadFail ⟨15, l.next, 0, s.ownAddr, l.lmod.getD 0⟩ false)) ∧
    (l.entry = true → exec .abort s = .next s) ∧
    (¬ (l.entry = true ∧ sent) → exec (.loadTimeout none) s = .next (s.loadFailHere 10)) ∧
    (l.entry = true → sent → exec (.loadTimeout none) s = .next s) ∧
    (other → ¬ sent → exec (.loadTimeout (some m)) s = .next (s.loadFail ⟨10, l.next, 0, l.addrOf m, m⟩ true)) ∧
    (l.entry = true → m < l.places.length → sent → (∀ x ∈ l.reports, x.1 ≠ m) → exec (.loadTimeout (some m)) s =
      .next ((s.modLoad fun x => { x with reports := x.reports ++ [(m, some ⟨10, l.next - 1, 0, l.addrOf m, m⟩)] }).settleLoad)) ∧
    (l.failing ≠ none → ∃ t, exec .loadClearDone s = .next t ∧ t.rd .LD_STATUS 0 .STATE = 6 ∧ t.load = Load.reset ∧
      ∃ u : State, t = State.irq (State.wrs { u with load := Load.reset } .LD_STATUS 0 [(.STATE, 6)]) 2)

/-- Deep reads and writes of open pages (R336, R337, R372 to R374). What the spec leaves open in it is the model's choice: assumption log 7, 12, 91. -/
def Obligations.DeepWritesStoreTheirBytesAndNothingElse : Prop :=
  ∀ (s : State) (src addr n : Nat) (bs : List Byte) (posted : Bool),
    Memory.wf s.deep.bytes = true → 64 ≤ src → addr + bs.length ≤ dataEnd → s.pageOwner (addr / 4096) = 0 → s.chanFault (s.chanOf addr) = none →
    s.pageWaits (addr / 4096) = false → s.bankHolds (s.bankOf addr) = false → s.schedFirst (s.chanOf addr) = false → (∀ e ∈ s.deep.held, e.req.src ≠ src) →
    (∀ e ∈ s.deep.badLines, e.1 ≠ addr / 64) → bs ≠ [] → addr % 64 + bs.length ≤ 64 → n = bs.length →
    (∃ t, exec (.deepRequest ⟨src, 0, addr, n, some bs, posted⟩ DeepObs.clean) s = .next t ∧
      (∀ i (h : i < bs.length), t.deep.byte (addr + i) = bs[i]) ∧
      (∀ a, a < addr ∨ addr + bs.length ≤ a → t.deep.byte a = s.deep.byte a) ∧
      t.out = .deepReply src none [] :: s.out ∧ t.regs = s.regs ∧ t.camps = s.camps ∧
      ∃ u, exec (.deepRequest ⟨src, 0, addr, n, none, posted⟩ DeepObs.clean) t = .next u ∧ u.out = .deepReply src none bs :: t.out ∧ u.deep = t.deep) ∧
    exec (.deepRequest ⟨src, 0, addr, n, none, posted⟩ DeepObs.clean) s =
      .next (s.emit (.deepReply src none ((List.range n).map fun i => s.deep.byte (addr + i))))

/-- DRAM channels (R341 to R344, R362, R677). What the spec leaves open in it is the model's choice: assumption log 12, 78. -/
def Obligations.DramChannelStates : Prop :=
  ∀ (s₀ : State) (ch : Nat) (host ok : Bool),
    let st := s₀.rd .DM_STATUS ch .STATE
    let idle := ch ∉ s₀.deep.initing ∧ ch ∉ s₀.deep.repairing ∧ ch ∉ s₀.deep.quiescing
    let bank : BankId := ⟨ch, s₀.rd .DM_PPR ch .SUB, s₀.rd .DM_PPR ch .BANK⟩
    let lines := s₀.rowLines bank (s₀.rd .DM_PPR ch .ROW)
    (s₀.reaches .DM_CTRL ch = true → let s := s₀.unhold .DM_CTRL ch
      let u := if s.rd .DM_CTRL ch .TRAIN_HOST = bit host then s
        else if st = 1 ∨ st = 2 then s.wr .DM_CTRL ch .TRAIN_HOST (bit host) else s.wr .DM_STATUS ch .CMD_ERR 1
      let err := u.wr .DM_STATUS ch .CMD_ERR 1
      ((st = 1 ∨ st = 2 ∨ st = 4) → idle → exec (.dmInit ch host) s₀ = .next ((u.startInit ch).wr .DM_STATUS ch .OUTSTANDING 0)) ∧
      (¬ ((st = 1 ∨ st = 2 ∨ st = 4) ∧ idle) → exec (.dmInit ch host) s₀ = .next err) ∧
      (st = 2 → idle → s.rd .DM_BOUND ch .NS ≠ 0 → exec (.dmActivate ch host) s₀ = .next (u.wr .DM_STATUS ch .STATE 3)) ∧
      (¬ (st = 2 ∧ idle ∧ s.rd .DM_BOUND ch .NS ≠ 0) → exec (.dmActivate ch host) s₀ = .next err) ∧
      (st = 3 → idle → u.deepRunning = false → exec (.dmQuiesce ch host) s₀ = .next (u.modDeep fun d => { d with quiescing := ch :: d.quiescing })) ∧
      (¬ (st = 3 ∧ idle ∧ u.deepRunning = false) → exec (.dmQuiesce ch host) s₀ = .next err) ∧
      (st = 2 → idle → exec (.dmPpr ch host) s₀ = .next (u.modDeep fun d => { d with repairing := ch :: d.repairing })) ∧
      (¬ (st = 2 ∧ idle) → exec (.dmPpr ch host) s₀ = .next err)) ∧
    (ch ∈ s₀.deep.initing → exec (.dmInitDone ch ok) s₀ =
      .next ((s₀.modDeep fun d => { d with initing := d.initing.erase ch }).wr .DM_STATUS ch .STATE (if ok then 2 else 4))) ∧
    (ch ∈ s₀.deep.quiescing → (∀ h ∈ s₀.deep.held, ∀ a ∈ reqLines h.req, s₀.chanOf a ≠ ch) → (∀ c < 64, ∀ x ∈ (s₀.camp c).issues, s₀.chanOf x.addr ≠ ch) →
      exec (.quiesceDone ch) s₀ = .next ((s₀.modDeep fun d => { d with quiescing := d.quiescing.erase ch }).wr .DM_STATUS ch .STATE 2)) ∧
    (ch ∈ s₀.deep.quiescing → (∃ h ∈ s₀.deep.held, ∃ a ∈ reqLines h.req, s₀.chanOf a = ch) ∨ (∃ c < 64, ∃ x ∈ (s₀.camp c).issues, s₀.chanOf x.addr = ch) →
      exec (.quiesceDone ch) s₀ = .next s₀) ∧
    (ch ∈ s₀.deep.repairing → exec (.pprDone ch false) s₀ =
      .next (((s₀.modDeep fun d => { d with repairing := d.repairing.erase ch }).wr .DM_STATUS ch .PPR_FAIL 1).wr .DM_STATUS ch .STATE 4)) ∧
    (ch ∈ s₀.deep.repairing → ∃ t, exec (.pprDone ch true) s₀ = .next t ∧ t.regs = s₀.regs ∧ t.camps = s₀.camps ∧ t.deep.repairing = s₀.deep.repairing.erase ch ∧
      (t.deep.soft = if s₀.rd .DM_PPR ch .SOFT = 1 then (bank, s₀.rd .DM_PPR ch .ROW) :: s₀.deep.soft else s₀.deep.soft) ∧
      (∀ a ∈ lines, ∀ k < 64, ∃ n, s₀.draws ≤ n ∧ t.deep.byte (a + k) = Config.sealedByte n (a + k)) ∧
      (∀ b, (∀ a ∈ lines, b < a ∨ a + 64 ≤ b) → t.deep.byte b = s₀.deep.byte b))

/-- Training operations (R344, R345, R363) and masks (R339, R340). What the spec leaves open in it is the model's choice: assumption log 12. -/
def Obligations.DramTrainingAndSelectMasks : Prop :=
  ∀ (s₀ : State) (ch sub mr data k mask : Nat),
    let st := s₀.rd .DM_STATUS ch .STATE
    let key := (ch, s₀.rd .DM_TRAIN_CMD ch .SUB, s₀.rd .DM_TRAIN_CMD ch .MR)
    let unmapped := ∀ c < 8, s₀.rd .DM_STATUS c .STATE = 0 ∨ s₀.rd .DM_STATUS c .STATE = 1
    (s₀.reaches .DM_TRAIN_CMD ch = true → let s := s₀.unhold .DM_TRAIN_CMD ch
      let mayTrain := s.rd .DM_CTRL ch .TRAIN_HOST = 1 ∧ (st = 1 ∨ st = 2) ∧ s.rd .DM_TRAIN_CMD ch .BUSY = 0
      let issued := fun (op : Nat) => (s.modDeep fun d => { d with trainOp := tset d.trainOp ch op }).wrs .DM_TRAIN_CMD ch [(.SUB, sub), (.MR, mr), (.DATA, data), (.BUSY, 1)]
      let err := s.wr .DM_STATUS ch .CMD_ERR 1
      (mayTrain → exec (.mrw ch sub mr data) s₀ = .next (issued 1) ∧ exec (.mrr ch sub mr data) s₀ = .next (issued 2) ∧ exec (.mpc ch sub mr data) s₀ = .next (issued 3)) ∧
      (¬ mayTrain → exec (.mrw ch sub mr data) s₀ = .next err ∧ exec (.mrr ch sub mr data) s₀ = .next err ∧ exec (.mpc ch sub mr data) s₀ = .next err)) ∧
    (s₀.rd .DM_TRAIN_CMD ch .BUSY = 1 → tget 0 s₀.deep.trainOp ch = 1 → exec (.trainOpDone ch data) s₀ =
      .next ((s₀.wr .DM_TRAIN_CMD ch .BUSY 0).modDeep fun d => { d with modeRegs := tset d.modeRegs key (s₀.rd .DM_TRAIN_CMD ch .DATA) })) ∧
    (s₀.rd .DM_TRAIN_CMD ch .BUSY = 1 → tget 0 s₀.deep.trainOp ch = 2 → exec (.trainOpDone ch data) s₀ =
      .next ((s₀.wr .DM_TRAIN_CMD ch .BUSY 0).wr .DM_TRAIN_CMD ch .DATA (tget data s₀.deep.modeRegs key))) ∧
    (s₀.reach (offsetOf .DM_MAP k + 0x2000 * ch) = .here → let s := s₀.unhold .DM_MAP k
      (k < 9 → unmapped → mask < 2 ^ 32 → maskOk k mask = true → exec (.dmMapWrite ch k mask) s₀ = .next (s.wr .DM_MAP k .MASK mask)) ∧
      (k < 9 → mask < 2 ^ 32 → maskOk k mask = false → exec (.dmMapWrite ch k mask) s₀ = .next ((List.range 8).foldl (fun t c => t.wr .DM_STATUS c .CMD_ERR 1) s)) ∧
      (¬ k < 9 ∨ (mask < 2 ^ 32 ∧ maskOk k mask = true ∧ ¬ unmapped) → exec (.dmMapWrite ch k mask) s₀ = .next (s.wr .DM_STATUS ch .CMD_ERR 1)))

/-- Refresh and row disturbance (R348, R349, R351, R352, R370), read data (R358), re-encryption (R386). What the spec leaves open in it is the model's choice: assumption log 92, 95, 103. -/
def Obligations.RefreshAndRowDisturbance : Prop :=
  ∀ (s : State) (ch sub row page c pitch entry f : Nat) (bank : Option Nat) (hot : Bool) (q : DeepRead) (b : Nat),
    let n := s.rd .DM_STATUS ch .OUTSTANDING
    let p := tget 0 s.deep.pulled ch
    let runs := s.rd .DM_STATUS ch .STATE = 2 ∨ s.rd .DM_STATUS ch .STATE = 3
    let bk : BankId := ⟨ch, sub, b⟩
    let kind := if s.rd .DM_REF ch .REFSB = 1 then some (bank.getD 0) else none
    let due := s.rd .DM_REF ch .TREFI / 2 ^ (s.rd .DM_REF ch .FGR + s.rd .DM_STATUS ch .HOT) ≤ 2 * (s.ticks - tget 0 s.deep.dueAt (ch, sub, kind))
    let u := s.modDeep fun d => { d with dueAt := tset d.dueAt (ch, sub, kind) s.ticks }
    let issue := fun (t : State) => t.modDeep fun d => { d with refreshing := ⟨ch, sub, kind⟩ :: d.refreshing }
    (runs → due → 0 < p → exec (.refreshDue ch sub bank) s = .next (u.modDeep fun d => { d with pulled := tset d.pulled ch (p - 1) })) ∧
    (runs → due → p = 0 → s.scheduledWaits ch sub = true → n < min 4 (s.rd .DM_REF ch .POSTPONE) →
      exec (.refreshDue ch sub bank) s = .next (u.wr .DM_STATUS ch .OUTSTANDING (n + 1))) ∧
    (runs → due → p = 0 → (s.scheduledWaits ch sub = false ∨ min 4 (s.rd .DM_REF ch .POSTPONE) ≤ n) → exec (.refreshDue ch sub bank) s = .next (issue u)) ∧
    (¬ (runs ∧ due) → exec (.refreshDue ch sub bank) s = .next s) ∧
    (runs → s.scheduledWaits ch sub = false → 0 < n → exec (.postponedRefreshIssue ch sub bank) s = .next (issue (s.wr .DM_STATUS ch .OUTSTANDING (n - 1)))) ∧
    (runs → s.scheduledWaits ch sub = false → n = 0 → p < 4 → exec (.postponedRefreshIssue ch sub bank) s =
      .next (issue (s.modDeep fun d => { d with pulled := tset d.pulled ch (p + 1) }))) ∧
    (runs → s.scheduledWaits ch sub = false → n = 0 → 4 ≤ p → exec (.postponedRefreshIssue ch sub bank) s = .next s) ∧
    (¬ runs ∨ s.scheduledWaits ch sub = true → exec (.postponedRefreshIssue ch sub bank) s = .next s) ∧
    (exec (.refreshDone ch sub bank) s = .next (s.noteHolds.modDeep fun d => { d with refreshing := d.refreshing.erase ⟨ch, sub, bank⟩ }).serveHeld) ∧
    (∃ t : State, exec (.rhWindowClear ch) s = .next t.serveHeld ∧ (∀ e ∈ t.deep.rows, e.1.chan ≠ ch) ∧ (∀ e, e.1.chan ≠ ch → (e ∈ t.deep.rows ↔ e ∈ s.deep.rows)) ∧
      (∀ e, e ∈ t.deep.throttled ↔ e ∈ s.deep.throttled ∧ (e.bank.chan = ch → ∃ r ∈ s.deep.rfm, r.1 = e.bank ∧ r.2.1 = e.row)) ∧
      t.deep.bytes = s.deep.bytes ∧ t.regs = s.regs) ∧
    (s.deep.rfm.find? (fun e => e.1 == bk && e.2.1 == row) = some (bk, row, c) → s.refreshHolds bk = false → ∃ t : State, exec (.rfmDone ch sub b row) s = .next t.serveHeld ∧
      t.deep.rfm = s.deep.rfm.erase (bk, row, c) ∧ (∀ e, e ∈ t.deep.throttled ↔ e ∈ s.deep.throttled ∧ ¬ (e.bank = bk ∧ e.row = row)) ∧
      (∀ e ∈ tget [] t.deep.rows bk, e.row = row → e.count = 0) ∧ t.deep.bytes = s.deep.bytes ∧ t.regs = s.regs) ∧
    (s.deep.rfm.find? (fun e => e.1 == bk && e.2.1 == row) = none ∨ s.refreshHolds bk = true → exec (.rfmDone ch sub b row) s = .next s) ∧
    (exec (.mr4TemperatureChange ch hot) s = .next (s.wr .DM_STATUS ch .HOT (bit hot))) ∧
    ((s.camp c).reads.find? (fun q => q.pitch == pitch && q.entry == entry && q.fetched.isSome && q.data.isNone) = some q →
      exec (.deepReadDataArrive c pitch entry f) s = .next ((s.modCamp c fun x =>
        { x with reads := x.reads.map fun r => if r = q then { r with data := r.fetched, stall := none } else r }).releaseStalls c q.stall.toList f)) ∧
    (page ∈ s.deep.reenc → exec (.reencryptDone page f) s = .next (s.noteHolds.endReenc page f).serveHeld) ∧
    (page ∉ s.deep.reenc → exec (.reencryptDone page f) s = .next s)

/-- Key commands (R375, R377 to R379, R392 to R394, R396, R399). What the spec leaves open in it is the model's choice: assumption log 8, 10, 58, 75, 76, 109. -/
def Obligations.KeyCommandsTakeEffect : Prop :=
  ∀ (s₀ : State) (k r base port : Nat) (blob : List Byte) (w : RangeWrite),
    let free := k = 0 ∨ ∀ c < 64, s₀.campState c = 0 ∨ s₀.rd .RUN_CAMP_STATUS c .KEY_ID ≠ k
    let taken := k ≠ 0 ∧ ∃ c < 64, (s₀.campState c = 2 ∨ s₀.campState c = 3 ∨ s₀.campState c = 4) ∧ s₀.rd .RUN_CAMP_STATUS c .KEY_ID = k
    let idle := s₀.rd .MP_KEY_CMD 0 .BUSY ≠ 1
    let ended := fun (n : Nat) => (s₀.wrs .MP_KEY_CMD 0 [(.BUSY, 0), (.RESULT, n)]).modKeys fun x => { x with cmd := none }
    k < 256 →
    (s₀.reaches .MP_KEY_CMD 0 = true → let s := s₀.unhold .MP_KEY_CMD 0
      let s1 := s.wr .MP_KEY_CMD 0 .TARGET k
      (idle → free → exec (.install k) s₀ = .next (((s1.wr .MP_KEY_CMD 0 .BUSY 1).modKeys fun x => { x with cmd := some (1, k) }).emit
        (.hostRead (s.rd .MP_KEY_ADDR_LO 0 .ADDR + 2 ^ 40 * s.rd .MP_KEY_ADDR_HI 0 .ADDR) 256))) ∧
      (idle → taken → exec (.install k) s₀ = .next (s1.wr .MP_KEY_CMD 0 .RESULT 2) ∧ exec (.roll k) s₀ = .next (s1.wr .MP_KEY_CMD 0 .RESULT 2) ∧
        exec (.remove k) s₀ = .next (s1.wr .MP_KEY_CMD 0 .RESULT 2)) ∧
      (¬ idle → exec (.install k) s₀ = .next s ∧ exec (.roll k) s₀ = .next s ∧ exec (.remove k) s₀ = .next s) ∧
      (idle → free → s.rd .MP_KEYSTATE k .INSTALLED ≠ 0 → exec (.roll k) s₀ =
        .next (((s1.wr .MP_KEY_CMD 0 .BUSY 1).modKeys fun x => { x with cmd := some (2, k) }).startRoll k)) ∧
      (idle → free → s.rd .MP_KEYSTATE k .INSTALLED = 0 → exec (.roll k) s₀ = .next (s1.wr .MP_KEY_CMD 0 .RESULT 3) ∧
        exec (.remove k) s₀ = .next (s1.wr .MP_KEY_CMD 0 .RESULT 3)) ∧
      (idle → free → s.rd .MP_KEYSTATE k .INSTALLED ≠ 0 → ∃ t, exec (.remove k) s₀ = .next t ∧ t.rd .MP_KEY_CMD 0 .BUSY = 0 ∧ t.rd .MP_KEY_CMD 0 .RESULT = 0)) ∧
    (s₀.keys.cmd = some (1, k) → exec (.keyBlobReadDone false blob) s₀ = .next (ended 4)) ∧
    (s₀.keys.cmd = some (1, k) → free → exec (.keyBlobReadDone true blob) s₀ = .next (match s₀.unwrap k blob with
      | none => ended 1
      | some u => s₀.installKeys k u)) ∧
    (s₀.keys.rolls.find? (fun e => e.1 == k) = some (k, []) → (∀ x ∈ s₀.deep.inits, x.roll = true → x.key = k → s₀.initServed x = true) →
      ∃ t : State, exec (.rollDone k) s₀ = .next (t.serveHeld.keyDone 0) ∧ t.rd .MP_KEYSTATE k .ROLLING = 0 ∧
        (∀ e, e ∈ t.keys.rolls ↔ e ∈ s₀.keys.rolls ∧ e.1 ≠ k) ∧ (∀ x, x ∈ t.deep.inits ↔ x ∈ s₀.deep.inits ∧ ¬ (x.roll = true ∧ x.key = k)) ∧ t.deep.bytes = s₀.deep.bytes) ∧
    (s₀.reaches (rangeReg w) r = true → let s := s₀.unhold (rangeReg w) r
      let o := s.rangeEntry r
      let e := o.write w
      let stored := (s.wrs .MP_RANGE_BASE r [(.BASE, e.base), (.KEY_ID, e.key), (.VALID, bit e.valid)]).wr .MP_RANGE_SIZE r .PAGES e.pages
      (s.rangeRefused r o e = true → exec (.mpRangeWrite r w) s₀ = .next (s.wr .MP_KEY_CMD 0 .RESULT 2)) ∧
      (s.rangeRefused r o e = false → o.valid = false → e.valid = true → exec (.mpRangeWrite r w) s₀ = .next (stored.initPages e.base e.pages e.key false)) ∧
      (s.rangeRefused r o e = false → o.valid = false → e.valid = false → exec (.mpRangeWrite r w) s₀ = .next stored) ∧
      (s.rangeRefused r o e = false → o.valid = true → e.valid = false → exec (.mpRangeWrite r w) s₀ = .next (stored.leavePages o.key [(o.base, o.pages)])) ∧
      (s.rangeRefused r o e = false → o.valid = true → e.valid = true → o.key ≠ e.key → exec (.mpRangeWrite r w) s₀ =
        .next ((stored.leavePages o.key [(o.base, o.pages)]).initPages e.base e.pages e.key false)) ∧
      (s.rangeRefused r o e = false → o.valid = true → e.valid = true → o.key = e.key → exec (.mpRangeWrite r w) s₀ =
        .next ((stored.leavePages o.key (minusRange o.base o.pages e.base e.pages)).forEach (minusRange e.base e.pages o.base o.pages)
          fun t x => t.initPages x.1 x.2 e.key false))) ∧
    ((∀ x ∈ s₀.deep.inits, x.roll = false → x.base = base → s₀.initServed x = true) → exec (.regionInitDone base) s₀ =
      .next ((s₀.modDeep fun d => { d with inits := d.inits.filter fun r => r.roll || r.base != base }).serveHeld.conclude)) ∧
    ((∃ x ∈ s₀.deep.inits, x.roll = false ∧ x.base = base ∧ s₀.initServed x = false) → exec (.regionInitDone base) s₀ = .next s₀) ∧
    (s₀.keyed port = true → (∀ f ∈ (s₀.hn port).wait, f.ctrl % 16 ≠ 2) → exec (.epochLimit port) s₀ = .next (s₀.sendSlot port 2)) ∧
    (s₀.keyed port = false ∨ (∃ f ∈ (s₀.hn port).wait, f.ctrl % 16 = 2) → exec (.epochLimit port) s₀ = .next s₀)

/-- Channel-core arithmetic (R409, R410, R412 to R415), whole next states. -/
def Obligations.CoreArithmeticResults : Prop :=
  ∀ (s : State) (k : Nat) (r : Run) (f : FmtT) (g : FmtK) (i : Instr) (v : Word),
    let x := s.core k
    let t := s.traceBoundary k
    let ready := s.pstate k = 0 ∧ x.trapDue = none ∧ x.run = some r ∧ s.rd .TR_CTRL 0 .STALL ≠ 1
    let fetched := x.pc < 2 ^ 38 ∧ r.allows (fun w => w.ex) x.pc 8 = true ∧ (x.pc / 64, r.key) ∈ x.icache
    let goes := fun (rd : Nat) (v : Word) => ((t.setReg k rd v).modCore k fun y => { y with pc := ((t.core k).pc + 8) % 2 ^ 40 }).bump .CC_RETIRED k .COUNT 1
    let a := (t.core k).reg f.ra
    let b := (t.core k).reg f.rb
    let ka := (t.core k).reg g.ra
    let one := fun (p : Bool) => if p then (1 : Word) else 0
    let cond := match f.cond with
      | 0 => a == b | 1 => a != b | 2 => decide (a.toInt < b.toInt) | 3 => decide (b.toInt ≤ a.toInt)
      | 4 => decide (a.toNat < b.toNat) | 5 => decide (b.toNat ≤ a.toNat) | 6 => a &&& b != 0 | _ => a &&& b == 0
    (ready → fetched → x.pendingReg f.rd = false → x.pendingReg f.ra = false → x.pendingReg f.rb = false → f.zero = 0 → f.cond = 0 →
      (i, v) ∈ [(.add k f, a + b), (.sub k f, a - b), (.and k f, a &&& b), (.or k f, a ||| b), (.xor k f, a ^^^ b), (.shl k f, a <<< (b.toNat % 64)),
        (.shr k f, a >>> (b.toNat % 64)), (.sar k f, a.sshiftRight (b.toNat % 64)), (.mullo k f, BitVec.ofNat 40 (a.toNat * b.toNat)),
        (.mulhiu k f, BitVec.ofNat 40 (a.toNat * b.toNat / 2 ^ 40))] → exec i s = .next (goes f.rd v)) ∧
    (ready → fetched → x.pendingReg f.rd = false → x.pendingReg f.ra = false → x.pendingReg f.rb = false → f.zero = 0 → exec (.cmp k f) s = .next (goes f.rd (one cond))) ∧
    (ready → fetched → x.pendingReg g.rd = false → x.pendingReg g.ra = false →
      (i, v) ∈ [(.addi k g, ka + g.imm.signExtend 40), (.andi k g, ka &&& g.imm.zeroExtend 40), (.ori k g, ka ||| g.imm.zeroExtend 40),
        (.xori k g, ka ^^^ g.imm.zeroExtend 40), (.shli k g, ka <<< (g.imm.toNat % 64)), (.shri k g, ka >>> (g.imm.toNat % 64)),
        (.sari k g, ka.sshiftRight (g.imm.toNat % 64)), (.cmpiLt k g, one (decide (ka.toInt < (g.imm.signExtend 40).toInt))),
        (.cmpiLo k g, one (decide (ka.toNat < (g.imm.signExtend 40).toNat))), (.orh k g, ka ||| (g.imm.zeroExtend 40 <<< 16))] →
      exec i s = .next (goes g.rd v)) ∧
    (x.reg 0 = 0 ∧ ∀ j, (t.setReg k 0 v).core j = t.core j) ∧
    (ready → fetched → x.mem = [] → ¬ (f.zero = 0 ∧ f.cond = 0) →
      i ∈ [.add k f, .sub k f, .and k f, .or k f, .xor k f, .shl k f, .shr k f, .sar k f, .mullo k f, .mulhiu k f] →
      exec i s = .next (t.takeTrap k ⟨1, 0, 0, 0, x.pc⟩))

/-- Control flow of the channel cores (R413 to R415, R425, R427). What the spec leaves open in it is the model's choice: assumption log 74. -/
def Obligations.CoreControlFlowResults : Prop :=
  ∀ (s : State) (k : Nat) (r : Run) (f : FmtT) (g : FmtK) (p : FmtP) (i : Instr) (c : Nat),
    let x := s.core k
    let t := s.traceBoundary k
    let ready := s.pstate k = 0 ∧ x.trapDue = none ∧ x.run = some r ∧ s.rd .TR_CTRL 0 .STALL ≠ 1 ∧ x.mem = []
    let fetched := x.pc < 2 ^ 38 ∧ r.allows (fun w => w.ex) x.pc 8 = true ∧ (x.pc / 64, r.key) ∈ x.icache
    let on := fun (u : State) (pc : Nat) => (u.modCore k fun y => { y with pc := pc % 2 ^ 40 }).bump .CC_RETIRED k .COUNT 1
    let pc := (t.core k).pc
    let link := BitVec.ofNat 40 (pc + 8)
    let target := (BitVec.ofNat 40 pc + (p.ofs.signExtend 40 <<< 3)).toNat
    let ea := ((t.core k).reg g.ra + g.imm.signExtend 40).toNat / 8 * 8
    let illegal := t.takeTrap k ⟨1, 0, 0, 0, x.pc⟩
    ready → fetched →
    (p.rb = 0 → exec (.call k p) s = .next (on ((t.traceBranch k 1 target).setReg k p.ra link) target)) ∧
    (exec (.callr k g) s = .next (on ((t.traceBranch k 2 ea).setReg k g.rd link) ea)) ∧
    (g.rd = 0 → g.ra = 0 → g.imm.toNat < 256 → exec (.gate k g) s = .next (t.takeTrap k ⟨7, 0, g.imm.toNat, 0, pc + 8⟩)) ∧
    (f.zero = 0 → f.cond = 0 → f.rd = 0 → f.ra = 0 → f.rb = 0 → (t.core k).mem = [] → exec (.codesync k f) s =
      .next (on (t.modCore k fun y => { y with icache := [] }) (pc + 8))) ∧
    (g.rd = 0 → g.ra = 0 → g.imm.toNat < 8 → (t.core k).mem = [] → exec (.order k g) s = .next (on t (pc + 8))) ∧
    (p.rb ≠ 0 → exec (.call k p) s = .next illegal) ∧
    (¬ (g.rd = 0 ∧ g.ra = 0 ∧ g.imm.toNat < 256) → exec (.gate k g) s = .next illegal) ∧
    (¬ (g.rd = 0 ∧ g.ra = 0 ∧ g.imm.toNat < 8) → exec (.order k g) s = .next illegal) ∧
    (¬ (f.zero = 0 ∧ f.cond = 0 ∧ f.rd = 0 ∧ f.ra = 0 ∧ f.rb = 0) → exec (.codesync k f) s = .next illegal) ∧
    ((i, c) ∈ [(.brEq k p, 0), (.brNe k p, 1), (.brLt k p, 2), (.brGe k p, 3), (.brLo k p, 4), (.brHs k p, 5), (.brBs k p, 6), (.brBc k p, 7)] →
      exec i s = .next (if condHolds c ((t.core k).reg p.ra) ((t.core k).reg p.rb) = true then on (t.traceBranch k 0 target) target
        else on (t.traceNotTaken k) (pc + 8)))

/-- CTL, tasks and events (R418, R419, R422, R424, R426, R428). What the spec leaves open in it is the model's choice: assumption log 54, 56. -/
def Obligations.CoreSystemInstructionResults : Prop :=
  ∀ (s : State) (k : Nat) (r q : Run) (f : FmtT) (g : FmtQ) (e : Trap) (i : Instr) (frozen : Nat),
    let x := s.core k
    let t := s.traceBoundary k
    let ready := s.pstate k = 0 ∧ x.trapDue = none ∧ x.run = some r ∧ s.rd .TR_CTRL 0 .STALL ≠ 1 ∧ x.mem = [] ∧ (t.core k).mem = []
    let fetched := x.pc < 2 ^ 38 ∧ r.allows (fun w => w.ex) x.pc 8 = true ∧ (x.pc / 64, r.key) ∈ x.icache
    let on := fun (u : State) (pc : Nat) => (u.modCore k fun y => { y with pc := pc % 2 ^ 40 }).bump .CC_RETIRED k .COUNT 1
    let pc := (t.core k).pc
    let plain := f.zero = 0 ∧ f.cond = 0
    let m := (t.core k).reg f.ra
    let tgt := m.toNat % 4096
    let ended := fun (u : State) => u.bump .CC_RETIRED k .COUNT 1
    ready → fetched →
    (r.pl = 0 → g.zero = 0 → g.cw < 8 → exec (.rdcw k g) s = .next (on (t.setReg k g.rd (t.ctlWord k g.cw r)) (pc + 8))) ∧
    (r.pl = 0 → g.zero = 0 → g.cw = 6 → exec (.wrcw k g) s = .next (on (t.modCore k fun y => { y with keep := (t.core k).reg g.ra }) (pc + 8))) ∧
    (r.pl = 0 → g.zero = 0 → g.cw = 4 → exec (.wrcw k g) s =
      .next (on (t.modCore k fun y => { y with handler := ((t.core k).reg g.ra).toNat / 8 * 8 }) (pc + 8))) ∧
    (r.pl = 0 → g.zero = 0 → g.cw < 8 → (t.core k).trapped = some (q, e, true) → q.pl = 1 → exec (.back k g) s =
      .next (on (((t.traceBranch k 3 (t.core k).trapPc).modCore k fun y => { y with run := some q, trapped := none }).showRun k) (t.core k).trapPc)) ∧
    (r.pl = 0 → g.zero = 0 → g.cw < 8 → exec (.doze k g) s = .next (on (t.enterSleep k) (pc + 8))) ∧
    (r.pl ≠ 0 → g.zero = 0 → g.cw < 8 → i ∈ [.rdcw k g, .wrcw k g, .back k g, .doze k g] → exec i s = .next (t.takeTrap k ⟨2, 0, 0, 0, pc⟩)) ∧
    (g.zero ≠ 0 ∨ 8 ≤ g.cw → i ∈ [.rdcw k g, .wrcw k g, .back k g, .doze k g] → exec i s = .next (t.takeTrap k ⟨1, 0, 0, 0, x.pc⟩)) ∧
    (plain → r.pl = 0 ∨ (t.task tgt).dom = r.dom → exec (.evset k f) s = .next (on ((t.setFlags tgt ((t.core k).reg f.rb)).setReg k f.rd 0) (pc + 8))) ∧
    (plain → r.pl ≠ 0 → (t.task tgt).dom ≠ r.dom → exec (.evset k f) s = .next (on (t.setReg k f.rd 2) (pc + 8))) ∧
    (plain → f.rd = 0 → f.rb = 0 → (t.task r.task).flags &&& m = m → exec (.cwait k f frozen) s =
      .next (on (t.modTask r.task fun y => { y with flags := y.flags &&& ~~~m }) (pc + 8))) ∧
    (plain → f.rd = 0 → f.rb = 0 → (t.task r.task).flags &&& m ≠ m → (t.task r.task).pendCancel = false → (t.yieldCtx k r (pc + 8)).1 = none →
      exec (.cwait k f frozen) s = .next (ended (((((t.yieldCtx k r (pc + 8)).2.traceEnd k 3).freeCore k).modTask r.task fun y => { y with state := 1, mask := m }).judge r.task))) ∧
    (plain → f.rd = 0 → f.ra = 0 → f.rb = 0 → (t.task r.task).pendCancel = false → (t.yieldCtx k r (pc + 8)).1 = none →
      exec (.yield k f frozen) s = .next (ended (((((t.yieldCtx k r (pc + 8)).2.traceEnd k 0).freeCore k).makeReady r.task)))) ∧
    (plain → f.rd = 0 → f.ra = 0 → f.rb = 0 → (t.task r.task).pendCancel = false → (t.core k).trapped = none →
      exec (.done k f frozen) s = .next (ended (((t.traceEnd k 1).freeCore k).endTask r.task false 0 frozen))) ∧
    (plain → f.rd = 0 → f.ra = 0 → f.rb = 0 → (t.task r.task).pendCancel = true →
      exec (.done k f frozen) s = .next (ended (((t.traceEnd k 2).freeCore k).endTask r.task true 0xF frozen)))

/-- Data memory of the channel cores (R410, R414, R416, R422, R425, R434). What the spec leaves open in it is the model's choice: assumption log 53, 54. -/
def Obligations.CoreMemoryInstructionResults : Prop :=
  ∀ (s : State) (k : Nat) (r : Run) (f : FmtT) (g : FmtK) (obs : WriteObs) (i : Instr) (n : Nat),
    let x := s.core k
    let t := s.traceBoundary k
    let ready := s.pstate k = 0 ∧ x.trapDue = none ∧ x.run = some r ∧ s.rd .TR_CTRL 0 .STALL ≠ 1 ∧ x.mem = [] ∧ (t.core k).mem = []
    let fetched := x.pc < 2 ^ 38 ∧ r.allows (fun w => w.ex) x.pc 8 = true ∧ (x.pc / 64, r.key) ∈ x.icache
    let on := fun (u : State) (pc : Nat) => (u.modCore k fun y => { y with pc := pc % 2 ^ 40 }).bump .CC_RETIRED k .COUNT 1
    let pc := (t.core k).pc
    let ea := ((t.core k).reg g.ra + g.imm.signExtend 40).toNat
    let aa := ((t.core k).reg f.ra).toNat
    let deep := r.pl ≠ 0 ∨ s.coreEa k g / 2 ^ 38 ≠ 1
    let sent := fun (u : State) (m : MemOp) => u.modCore k fun y => { y with mem := y.mem ++ [m] }
    let hit := fun (a : Nat) => (t.core k).hits a r.key
    let inside := fun (perm : Win → Bool) (a n : Nat) => a % n = 0 ∧ a < 2 ^ 38 ∧ r.allows perm a n = true
    let loads : List (Instr × Nat) := [(.ld8 k g, 1), (.ld16 k g, 2), (.ld32 k g, 4), (.lds k g, 8)]
    let stores : List (Instr × Nat) := [(.st8 k g, 1), (.st16 k g, 2), (.st32 k g, 4), (.sts k g obs, 8)]
    ready → fetched → deep →
    ((i, n) ∈ loads → inside (fun w => w.rd) ea n → exec i s = .next (let u := t.traceData k false false ea n 0
      if hit ea = true then on (u.setReg k g.rd (BitVec.ofNat 40 (leNat (t.deepRead ea n)))) (pc + 8) else on (sent u ⟨0, ea, n, g.rd, 0, pc, r.key⟩) (pc + 8))) ∧
    ((i, n) ∈ stores → inside (fun w => w.wr) ea n → exec i s = .next (let v := (t.core k).reg g.rd
      let u := t.traceData k true false ea n v
      if hit ea = true then on (u.storeHit k ea (leBytes v.toNat n)) (pc + 8) else on (sent u ⟨1, ea, n, g.rd, v, pc, r.key⟩) (pc + 8))) ∧
    (f.zero = 0 → f.cond = 0 → inside (fun w => w.wr) aa 8 →
      exec (.aswap k f) s = .next (on (sent t ⟨2, aa, 8, f.rd, (t.core k).reg f.rb, pc, r.key⟩) (pc + 8)) ∧
      exec (.aadd k f) s = .next (on (sent t ⟨3, aa, 8, f.rd, (t.core k).reg f.rb, pc, r.key⟩) (pc + 8))) ∧
    ((i, n) ∈ loads ++ stores → ea % n ≠ 0 → exec i s = .next (t.takeTrap k ⟨3, 0, 0, ea, pc⟩)) ∧
    ((i, n) ∈ loads → ea % n = 0 → 2 ^ 38 ≤ ea ∨ r.allows (fun w => w.rd) ea n = false → exec i s = .next (t.takeTrap k ⟨4, 0, 0, ea, pc⟩)) ∧
    ((i, n) ∈ stores → ea % n = 0 → 2 ^ 38 ≤ ea ∨ r.allows (fun w => w.wr) ea n = false → exec i s = .next (t.takeTrap k ⟨4, 0, 0, ea, pc⟩))

/-- CC_MEMORY_RESPONSE (R410, R416, R425, R427, R434), CSEND and CRECV (R417). What the spec leaves open in it is the model's choice: assumption log 54, 56, 103. -/
def Obligations.CoreMemoryResponsesAndRecords : Prop :=
  ∀ (s : State) (k n v frozen : Nat) (obs : DeepObs) (mo : MemOp) (r : Run) (f : FmtT) (msg : Msg),
    let x := s.core k
    let w := s.serveMem k mo obs
    let s1 := w.2.modCore k fun y => { y with mem := y.mem.eraseIdx n }
    let val := BitVec.ofNat 40 (leNat w.1.bytes)
    let t := s.traceBoundary k
    let ready := s.pstate k = 0 ∧ x.trapDue = none ∧ x.run = some r ∧ s.rd .TR_CTRL 0 .STALL ≠ 1 ∧ x.mem = [] ∧ (t.core k).mem = []
    let fetched := x.pc < 2 ^ 38 ∧ r.allows (fun w => w.ex) x.pc 8 = true ∧ (x.pc / 64, r.key) ∈ x.icache
    let on := fun (u : State) (pc : Nat) => (u.modCore k fun y => { y with pc := pc % 2 ^ 40 }).bump .CC_RETIRED k .COUNT 1
    let pc := (t.core k).pc
    let h := ((t.core k).reg f.ra).toNat % 256
    let a := ((t.core k).reg f.rb).toNat
    let status := fun (u : State) (e : Nat) => on (u.setReg k f.rd (BitVec.ofNat 40 e)) (pc + 8)
    let len := 0x20 + 8 * min 16 (leNat (t.deepRead (a + 8) 1))
    (x.mem[n]? = some mo → s.memWaits k n mo obs = false → exec (.ccMemoryResponse k n v obs) s = .next (match w.1.cause with
      | some c => (s1.modCore k fun y => { y with trapDue := some (y.trapDue.getD ⟨5, c, 0, mo.ea, mo.pc⟩) }).trapIfDue k
      | none => (match mo.kind with
        | 0 => (s1.setReg k mo.rd val).fillLine k mo.ea mo.key v
        | 1 => s1
        | 2 => (s1.setReg k mo.rd val).traceData k true true mo.ea 8 mo.data
        | _ => (s1.setReg k mo.rd val).traceData k true true mo.ea 8 (val + mo.data)).trapIfDue k)) ∧
    (x.mem[n]? = none → exec (.ccMemoryResponse k n v obs) s = .next s) ∧
    (ready → fetched → f.zero = 0 → f.cond = 0 → t.chanStatus h r.dom ≠ 0 → exec (.csend k f frozen) s = .next (status t (t.chanStatus h r.dom)) ∧
      exec (.crecv k f frozen) s = .next (status t (t.chanStatus h r.dom))) ∧
    (ready → fetched → f.zero = 0 → f.cond = 0 → t.chanStatus h r.dom = 0 → t.taskHead h = none → exec (.crecv k f frozen) s = .next (status t 1)) ∧
    (ready → fetched → f.zero = 0 → f.cond = 0 → t.chanStatus h r.dom = 0 → t.taskHead h = some msg → a < 2 ^ 38 →
      r.allows (fun w => w.wr) a msg.bytes.length = true → t.lineWaits (64 + k) r.key a false = false → exec (.crecv k f frozen) s =
      .next (match (t.deepWrite (64 + k) r.key a msg.bytes).1 with
        | some _ => status (t.deepWrite (64 + k) r.key a msg.bytes).2 4
        | none => status ((t.deepWrite (64 + k) r.key a msg.bytes).2.taskTaken h frozen) 0)) ∧
    (ready → fetched → f.zero = 0 → f.cond = 0 → t.chanStatus h r.dom = 0 → a < 2 ^ 38 → r.allows (fun w => w.rd) a len = true →
      t.lineWaits (64 + k) r.key a false = false → exec (.csend k f frozen) s =
      .next (match (t.deepFetch (64 + k) r.key a len).1 with
        | some _ => status (t.deepFetch (64 + k) r.key a len).2 4
        | none =>
          let q := (t.deepFetch (64 + k) r.key a len).2.sendRecord h r.task (((t.deepRead a len).getD 2 0).toNat) (payloadOf (t.deepRead a len) ((len - 0x20) / 8)) frozen
          status q.2 q.1))

/-- Task commands (R459 to R466). -/
def Obligations.TaskTableCommands : Prop :=
  ∀ (s₀ : State) (n frozen : Nat) (flags : Word),
    (s₀.reaches .TS_TASK_CMD 0 = true → let s := s₀.unhold .TS_TASK_CMD 0
      let sel := s.rd .TS_TASK_SEL 0 .INDEX
      let t := s.task sel
      let err := s.wr .TS_TASK_CMD 0 .CMD_ERR 1
      (t.state = 0 → t.flow = 0 → exec .taskArm s₀ = .next ((s.modTask sel fun y => { y with state := 1, ticket := 0, cause := 0, pendCancel := false }).judge sel)) ∧
      (t.state = 0 → t.flow ≠ 0 → (tget Flow.reset s.flows t.flow).next = n → exec .taskArm s₀ =
        .next (((s.modFlow t.flow fun y => { next := n + 1, unreleased := y.unreleased ++ [n] }).modTask sel fun y =>
          { y with state := 1, ticket := n, cause := 0, pendCancel := false }).judge sel)) ∧
      (t.state ≠ 0 → exec .taskArm s₀ = .next err) ∧
      ((t.state = 5 ∨ t.state = 6) → (t.flow = 0 ∨ s.oldest t.flow t.ticket = true) → exec .taskFree s₀ = .next (s.modTask sel fun y => { y with state := 0 })) ∧
      (¬ ((t.state = 5 ∨ t.state = 6) ∧ (t.flow = 0 ∨ s.oldest t.flow t.ticket = true)) → exec .taskFree s₀ = .next err) ∧
      (t.state = 1 → exec (.taskCancel frozen) s₀ = .next (s.endTask sel true 0xF frozen)) ∧
      (t.state = 2 → exec (.taskCancel frozen) s₀ = .next ((({ s with unlisted := s.unlisted.erase sel } : State).modCore t.core fun x =>
        { x with ready := x.ready.erase sel }).endTask sel true 0xF frozen)) ∧
      (t.state = 3 → exec (.taskCancel frozen) s₀ = .next (((s.modCore t.core fun x => { x with slot := none }).endTask sel true 0xF frozen).fillSlot t.core)) ∧
      (t.state = 4 → exec (.taskCancel frozen) s₀ = .next (s.modTask sel fun y => { y with pendCancel := true })) ∧
      (t.state = 0 ∨ 5 ≤ t.state → exec (.taskCancel frozen) s₀ = .next err)) ∧
    (s₀.reaches .TS_TASK_FLAGS 0 = true → let s := s₀.unhold .TS_TASK_FLAGS 0
      exec (.tsTaskFlagsWrite flags) s₀ = .next ((s.modTask (s.rd .TS_TASK_SEL 0 .INDEX) fun y => { y with flags := y.flags ||| flags }).judge (s.rd .TS_TASK_SEL 0 .INDEX)))

/-- Core states (R418 to R423, R425, R428, R429, R435) and domains (R430). -/
def Obligations.CoreStateAndDomainCommands : Prop :=
  ∀ (s₀ : State) (k i d pl key slice pages : Nat) (v wr ex rd : Bool) (c : Nat) (ws : List Word) (r : Run),
    let x := s₀.core k
    let w := s₀.deepFetch (64 + k) (s₀.rd .CC_DOM_CFG (s₀.task i).dom .KEY_ID) (64 * (s₀.task i).ctx) 256
    let takes := s₀.coreTakes k = true ∧ s₀.rd .CC_STATUS k .PSTATE < 2 ∧ s₀.rd .CC_DOM_CFG (s₀.task i).dom .VALID = 1
    let started := fun (ws : List Word) => ((((s₀.modCore k fun y =>
        { y with slot := none, run := some (s₀.runOf i), trapped := none, mem := [], trapDue := none, pc := (ws.getD 0 0).toNat / 8 * 8,
                 c := (List.range 31).map fun j => (j + 1, ws.getD (j + 1) 0), tr := { y.tr with due := 1 :: y.tr.due } }).modTask i fun z =>
        { z with state := 4, flags := z.flags &&& ~~~z.mask, core := k }).wr .CC_STATUS k .PSTATE 0).showRun k).fillSlot k
    (x.slot = some ⟨i, false, ws, none⟩ → w.1 = none → exec (.bivouacLoadDone k) s₀ =
      .next (w.2.modCore k fun y => { y with slot := some ⟨i, true, ctxWords (s₀.deepRead (64 * (s₀.task i).ctx) 256), none⟩ })) ∧
    (x.slot = some ⟨i, false, ws, none⟩ → w.1 = some c → exec (.bivouacLoadDone k) s₀ = .next (w.2.modCore k fun y => { y with slot := some ⟨i, true, [], some c⟩ })) ∧
    (x.slot = some ⟨i, true, ws, none⟩ → x.run = none → takes → exec (.taskDispatch k) s₀ = .next (started ws)) ∧
    (x.slot = some ⟨i, true, ws, some c⟩ → x.run = none → takes → exec (.taskDispatch k) s₀ = .next ((started ws).takeTrap k ⟨9, c, 0, 0, 0⟩)) ∧
    (s₀.rd .CC_STATUS k .PSTATE = 0 → x.trapDue = none → x.run = some r → r.pl ≠ 0 → r.slice ≠ 0 → exec (.sliceExpire k) s₀ =
      .next (if x.mem = [] then (s₀.traceBoundary k).takeTrap k ⟨8, 0, 0, 0, x.pc⟩ else s₀.modCore k fun y => { y with trapDue := some ⟨8, 0, 0, 0, x.pc⟩ })) ∧
    (s₀.rd .CC_STATUS k .PSTATE = 1 → s₀.rd .CC_CTRL k .SLEEP_EN = 1 → x.ready = [] → x.slot = none → exec (.sleepEntry k) s₀ = .next (s₀.enterSleep k)) ∧
    (s₀.rd .CC_STATUS k .PSTATE = 2 → (x.waking = true ∨ x.ready ≠ [] ∨ x.slot ≠ none) → exec (.coreWakeDone k) s₀ =
      .next ((s₀.wr .CC_STATUS k .PSTATE (if x.run.isSome then 0 else 1)).modCore k fun y => { y with waking := false })) ∧
    (s₀.reaches .CC_CTRL k = true → let s := s₀.unhold .CC_CTRL k
      let on := s.wr .CC_CTRL k .ENABLE 1
      let listed := fun (u : State) => if u.coreTakes k = true then u.relist else u
      (s.rd .CC_STATUS k .PSTATE = 2 → exec (.ccCtrlWake k) s₀ = .next (s.modCore k fun y => { y with waking := true })) ∧
      (s.rd .CC_STATUS k .PSTATE ≠ 2 → exec (.ccCtrlWake k) s₀ = .next s) ∧
      (exec (.ccEnableWrite k false) s₀ = .next (((s.wr .CC_CTRL k .ENABLE 0).modCore k fun y => { y with enLow := true }).unlist k)) ∧
      (s.rd .CC_STATUS k .PSTATE = 3 ∧ x.enLow = true → exec (.ccEnableWrite k true) s₀ = .next (listed ((on.wr .CC_STATUS k .PSTATE 0).freeCore k))) ∧
      (¬ (s.rd .CC_STATUS k .PSTATE = 3 ∧ x.enLow = true) → exec (.ccEnableWrite k true) s₀ = .next (listed on))) ∧
    (s₀.reaches .CC_DOM_CFG d = true → let s := s₀.unhold .CC_DOM_CFG d
      (d ≠ 0 → s.domLocked d = false → pl ≤ 2 → (pl = 0 ↔ key = 0) → exec (.ccDomWrite d (.cfg pl key slice v)) s₀ =
        .next (s.wrs .CC_DOM_CFG d [(.PL, pl), (.KEY_ID, key), (.SLICE, slice), (.VALID, bit v)])) ∧
      (d = 0 ∨ s.domLocked d = true ∨ 2 < pl ∨ (pl = 0 ∧ key ≠ 0) ∨ (pl ≠ 0 ∧ key = 0) → exec (.ccDomWrite d (.cfg pl key slice v)) s₀ = .next (s.wr .CC_DOM_CFG d .WR_ERR 1))) ∧
    (s₀.reaches .CC_DOM_WBASE (4 * d + i) = true → let s := s₀.unhold .CC_DOM_WBASE (4 * d + i)
      exec (.ccDomWrite d (.base i pages rd wr ex)) s₀ = .next (if d = 0 ∨ s.domLocked d = true then s.wr .CC_DOM_CFG d .WR_ERR 1
        else s.wrs .CC_DOM_WBASE (4 * d + i) [(.BASE, pages), (.RD, bit rd), (.WR, bit wr), (.EX, bit ex)])) ∧
    (s₀.reaches .CC_DOM_WSIZE (4 * d + i) = true → let s := s₀.unhold .CC_DOM_WSIZE (4 * d + i)
      exec (.ccDomWrite d (.size i pages)) s₀ = .next (if d = 0 ∨ s.domLocked d = true then s.wr .CC_DOM_CFG d .WR_ERR 1 else s.wr .CC_DOM_WSIZE (4 * d + i) .PAGES pages))

/-- Channels (R440, R443 to R445, R452 to R456, R491, R695, R730). What the spec leaves open in it is the model's choice: assumption log 36, 55. -/
def Obligations.ChannelCommandsTakeEffect : Prop :=
  ∀ (s₀ : State) (h frozen keep cause seq : Nat) (value : BitVec 32) (merged out byMs : Bool) (bytes : List Byte) (m : Msg) (rest : List Msg) (fe : Fence),
    let st := s₀.rd .CH_CTRL h .STATE
    (s₀.reaches .CH_CTRL h = true → let s := s₀.unhold .CH_CTRL h
      let err := s.wr .CH_CTRL h .CMD_ERR 1
      ((st = 0 ∨ st = 2) → s.chOk h = true → exec (.chEnable h frozen) s₀ =
        .next ((((s.wr .CH_CTRL h .STATE 3).modChan h fun x => { x with stuck := false }).pump h).settleChan h frozen)) ∧
      (¬ ((st = 0 ∨ st = 2) ∧ s.chOk h = true) → exec (.chEnable h frozen) s₀ = .next err) ∧
      (st = 3 → exec (.chQuiesce h) s₀ = .next (s.wr .CH_CTRL h .STATE 1)) ∧ (st ≠ 3 → exec (.chQuiesce h) s₀ = .next err) ∧
      (st = 2 → exec (.chDisable h) s₀ = .next (((s.wr .CH_CTRL h .STATE 0).wr .CH_SEQ_IN h .HELD 0).modChan h fun _ => Chan.reset)) ∧
      (st ≠ 2 → exec (.chDisable h) s₀ = .next err)) ∧
    (s₀.reaches .TS_LOG_KEEP_LO h = true → let s := (s₀.unhold .TS_LOG_KEEP_LO h).unhold .TS_LOG_KEEP_HI h
      let u := (s.wr .TS_LOG_KEEP_LO h .KEEP keep).wr .TS_LOG_KEEP_HI h .KEEP (keep / 2 ^ 40)
      exec (.tsLogKeepWrite h keep frozen) s₀ = .next (u.keepWritten h frozen) ∧
      ((s.camp h).logQueue = [] → exec (.tsLogKeepWrite h keep frozen) s₀ = .next u) ∧
      u.rd .TS_LOG_KEEP_LO h .KEEP = keep % 2 ^ 40 ∧ u.rd .TS_LOG_KEEP_HI h .KEEP = keep / 2 ^ 40 % 2 ^ 24) ∧
    let s := s₀
    let a := s.rd .CH_CFG h .AKIND
    let size := 2 ^ s.rd .CH_RING h .LOG2
    let p := s.rd .CH_OUT_IDX h .PROD
    let c := s.chCamp h
    let cyc := s.eventCycle c
    let pol := s.rd .CH_CFG h .POLICY
    let mayTime := if byMs = true then s.rd .CH_TIMEOUT h .MS ≠ 0 else s.rd .CH_TIMEOUT h .CYCLES ≠ 0 ∧ s.campFrozen c = false
    let timed := fun (q : Nat) => ((s.chError h 5 0 (s.rd .CH_SEQ_IN h .EXPECT) cyc).modCamp c fun x =>
        { x with logWait := x.logWait ++ [⟨4, h, q, cyc, [s.rd .CH_SEQ_IN h .EXPECT]⟩] }).modChan h fun x => { x with fired := true }
    (st = 1 → (s.chan h).copying = [] ∨ (s.chan h).stuck = true → exec (.channelQuiesced h) s = .next (s.wr .CH_CTRL h .STATE 2)) ∧
    (s.noc.fences = [] → st = 0 ∨ st = 2 ∨ a ≠ 0 → exec (.channelDoorbell h value false frozen) s = .next (s.idError 5 0 (0x1000 * h) 0)) ∧
    (s.noc.fences = [] → st = 3 → a = 0 → (value.toNat % 65536 + 65536 - s.rd .CH_IN_IDX h .CONS) % 65536 < size → exec (.channelDoorbell h value false frozen) s =
      .next ((((s.wr .CH_IN_IDX h .PROD (value.toNat % 65536)).wr .CH_OUT_IDX h .CONS (value.toNat / 65536)).afterRoom h (s.maySend h)).settleChan h frozen)) ∧
    (s.noc.fences = [fe] → exec (.channelDoorbell h value merged frozen) s =
      .next { s with noc := { s.noc with fences := [{ fe with bells := fe.bells ++ [(h, value, merged)] }] } }) ∧
    (st = 3 → a = 0 → s.rd .CH_IN_IDX h .PROD ≠ s.rd .CH_IN_IDX h .CONS → exec (.inboundSlotFetched h bytes frozen) s =
      .next ((if s.rd .CH_CFG h .MODE = 1 then s.slotAssisted h else s.slotFetched h bytes).settleChan h frozen)) ∧
    (st = 3 ∨ st = 1 → a = 1 → malformed bytes h = none → let d := msgOf bytes
      let u := s.takeCredit h d.credit
      exec (.dataMessage h bytes frozen) s = .next (((if d.type = 0 then u.takeData h d else u).afterRoom h (s.maySend h)).settleChan h frozen) ∧
      exec (.creditMessage h bytes frozen) s = exec (.dataMessage h bytes frozen) s) ∧
    ((s.chan h).copying = m :: rest → st = 3 ∨ st = 1 → (s.chan h).stuck = false →
      let c := ((s.emit (.hostWrite (s.hostRing h (256 * (size + p % size))) m.bytes)).wr .CH_OUT_IDX h .PROD (p + 1)).modChan h fun x => { x with copying := rest }
      exec (.outboundCopyDone h) s = .next ((c.emit (.hostWrite (s.hostRing h (512 * size)) (leBytes (c.rd .CH_OUT_IDX h .PROD) 8))).msix (s.rd .HI_CH_VEC h .VEC))) ∧
    (st = 3 ∨ st = 1 → exec (.mirrorBusError h out cause seq) s =
      .next ((s.faultAlarm cause (s.mirrorAddr h out (if out = true then p else s.rd .CH_IN_IDX h .CONS))).mirrorError h seq)) ∧
    (¬ mayTime → exec (.channelTimeout h byMs frozen) s = .next s) ∧
    (mayTime → s.waitsIn h = true → s.replays c = false → (s.chan h).fired = false → st ≠ 0 → pol = 0 → exec (.channelTimeout h byMs frozen) s = .next (timed 0)) ∧
    (mayTime → s.waitsIn h = true → s.replays c = false → (s.chan h).fired = false → st ≠ 0 → pol = 1 → exec (.channelTimeout h byMs frozen) s =
      .next ((let g := (timed 1).errorRecord h
        (if s.waitsOut h = true then g.giveUpOut h else g).modChan h fun x => { x with fired := false }).settleChan h frozen)) ∧
    (mayTime → s.waitsIn h = true → s.replays c = false → (s.chan h).fired = false → st ≠ 0 → 2 ≤ pol → exec (.channelTimeout h byMs frozen) s =
      .next ((timed pol).haltCond c 3))

/-- The network, fences, probes, and domains (R483, R487, R491, R492, R503, R639 to R642). What the spec leaves open in it is the model's choice: assumption log 60, 61, 82, 83. -/
def Obligations.NetworkAndPowerDomainCommands : Prop :=
  ∀ (s : State) (router out net token frozen probe d since : Nat) (pkts : List NocPkt) (f : Fence) (rest : List Fence) (q : List Nat) (side : Bool),
    let past := s.rd .NOC_CRIT_STATUS 0 .OVER
    let addr := s.rd .NOC_FENCE_ADDR_LO 0 .ADDR + 2 ^ 40 * s.rd .NOC_FENCE_ADDR_HI 0 .ADDR
    exec (.nocPacket router out net pkts) s = .next ((pkts.foldl State.nocOffer s.nocRelease).nocArbitrate router out net) ∧
    (exec (.criticalWindowEnd router) s = .next (if (∃ e ∈ s.noc.load, e.1.1 = router ∧ 102 < e.2) ∧ past.testBit router = false
      then (s.modNoc fun n => { n with load := n.load.filter fun e => e.1.1 != router }).wr .NOC_CRIT_STATUS 0 .OVER (past + 2 ^ router)
      else s.modNoc fun n => { n with load := n.load.filter fun e => e.1.1 != router })) ∧
    (s.noc.fences.length < 4 → exec (.fenceDoorbell token) s = .next ((s.modNoc fun n =>
      { n with fences := n.fences ++ [⟨token % 2 ^ 32, (s.deep.held.map (·.req)).filter fun r => r.src == 83 && r.data.isSome, []⟩] }).wr .NOC_FENCE_STATUS 0 .PENDING (s.noc.fences.length + 1))) ∧
    (4 ≤ s.noc.fences.length → exec (.fenceDoorbell token) s = .next (s.wr .NOC_FENCE_STATUS 0 .DROPPED 1)) ∧
    (s.noc.fences = [] → exec (.fenceComplete frozen) s = .next s) ∧
    (s.noc.fences = f :: rest → (∃ r ∈ f.before, ∃ h ∈ s.deep.held, h.req = r) → exec (.fenceComplete frozen) s = .next s) ∧
    (s.noc.fences = f :: rest → (∀ r ∈ f.before, ∀ h ∈ s.deep.held, h.req ≠ r) → exec (.fenceComplete frozen) s =
      .next (((((((s.modNoc fun n => { n with fences := rest }).wr .NOC_FENCE_STATUS 0 .PENDING rest.length).emit (.hostWrite addr (leBytes f.token 4))).wr .NOC_FENCE_STATUS 0 .TOKEN f.token)).irq 5).forEach f.bells fun t b => t.doorbell b.1 b.2.1 b.2.2 frozen)) ∧
    (s.reaches .NOC_PROBE_TR_CTRL probe = true → exec (.probePop probe) s =
      .next (((s.unhold .NOC_PROBE_TR_CTRL probe).modNoc fun n => { n with rings := tmod [] n.rings probe fun l => l.drop 1 }).showRing probe)) ∧
    (s.reaches .PW_DOM d = true → let u := s.unhold .PW_DOM d
      (d < 80 → s.power.shut = none → s.domState d = 0 → exec (.domainOn d) s = .next ((u.wr .PW_DOM d .STATE 1).modPower fun p => { p with queue := p.queue ++ [d] })) ∧
      (d < 80 → s.power.shut = none → s.domState d = 3 → exec (.domainOn d) s = .next (u.modPower fun p => { p with again := d :: p.again.erase d })) ∧
      (80 ≤ d ∨ s.power.shut ≠ none ∨ (s.domState d ≠ 0 ∧ s.domState d ≠ 3) → exec (.domainOn d) s = .next u) ∧
      (d < 80 → s.power.shut = none → s.domState d ≠ 4 → u.offAllowed d side = false → exec (.domainOff d side) s = .next u.powerErr) ∧
      (d < 80 → s.power.shut = none → s.domState d = 1 ∨ s.domState d = 2 → u.offAllowed d side = true → exec (.domainOff d side) s = .next (u.beginDrain d))) ∧
    (s.power.queue = d :: q → s.staggerUs ≤ since → exec (.domainOnStart since) s = .next (s.modPower fun p => { p with queue := q, rising := d :: p.rising })) ∧
    (s.power.queue = d :: q → since < s.staggerUs → exec (.domainOnStart since) s = .next s) ∧
    (d < 64 → d ∈ s.power.rising → exec (.domainOnDone d) s =
      .next ((((s.modPower fun p => { p with rising := p.rising.erase d }).wr .PW_DOM d .STATE 2).clearPitch d).bootGoesOn)) ∧
    (72 ≤ d → d < 76 → d ∈ s.power.rising → exec (.domainOnDone d) s =
      .next (((((((s.modPower fun p => { p with rising := p.rising.erase d }).wr .PW_DOM d .STATE 2).forEach (pairChans d) fun t c => t.wr .DM_STATUS c .STATE 1).modTrace
        fun t => { t with pairsDown := t.pairsDown.erase (d - 72) }).traceRoute).bootGoesOn))) ∧
    (d ∉ s.power.rising → exec (.domainOnDone d) s = .next s) ∧
    (s.domState d = 3 → s.domBusy d = false → exec (.powerDownDrainDone d) s = .next (s.domIsOff d)) ∧
    (s.domState d = 3 → s.domBusy d = true → exec (.powerDownDrainDone d) s = .next s) ∧
    (s.domState d ≠ 3 → exec (.pdTimeout d) s = .next s) ∧
    (s.domState d = 3 → exec (.pdTimeout d) s =
      let l := s.domDiscards d
      let c := (((s.modNoc fun n => { n with held := n.held.filter (fun p => !domPacket d p), bufs := n.bufs.map fun b => (b.1, b.2.filter fun h => !domPacket d h.pkt) }).forEach
        (l.filter pktAsks) State.answerOff).bump .NOC_PD_DISCARD 0 .COUNT l.length)
      let lost := if 72 ≤ d ∧ d < 76 then s.deep.held.filter fun r => (pairChans d).contains (s.chanOf r.req.addr) else []
      .next (((c.forEach l fun t p => t.logPd p 1).forEach lost fun t r =>
        ((t.modDeep fun d => { d with held := d.held.erase r }).bump .NOC_PD_DISCARD 0 .COUNT 1).emit (.deepReply r.req.src (some 0xA) [])).domIsOff d))

/-- Training (R505 to R512, R528). What the spec leaves open in it is the model's choice: assumption log 12, 49. -/
def Obligations.LinkTrainingCommands : Prop :=
  ∀ (s : State) (p tap op preset resp ht wd word r : Nat) (obs : TrainObs),
    let st := s.hnState p
    let v := s.unhold .HN_EQ_REQ p
    let q := (v.wrs .HN_EQ_REQ p [(.TAP, tap), (.OP, op), (.PRESET, preset)])
    (st = 0 → s.rd .HN_CTRL p .EN = 1 → s.powered 77 = true → exec (.trainingRetry p) s = .next (s.startTraining p (s.hn p).again)) ∧
    (st ≠ 0 ∨ s.rd .HN_CTRL p .EN = 0 ∨ s.powered 77 = false → exec (.trainingRetry p) s = .next s) ∧
    (st = 1 ∨ st = 2 → exec (.trainingStateTimeout p) s = .next (s.wrs .HN_STATUS p [(.STATE, 0), (.FAIL, st)])) ∧
    (st = 4 ∨ st = 5 → exec (.trainingStateTimeout p) s =
      .next ((s.wrs .HN_STATUS p [(.STATE, 0), (.FAIL, st)]).modHn p fun h => { h with leave := some (s.rd .HN_STATUS p .RATE) })) ∧
    (st = 3 ∨ st = 6 → ∃ f < 6, exec (.trainingStateTimeout p) s = .next (s.wrs .HN_STATUS p [(.STATE, 0), (.FAIL, f)]).draw) ∧
    (st = 7 → exec (.trainingStateTimeout p) s = .next (s.enterUp p)) ∧ (st = 0 ∨ 8 ≤ st → exec (.trainingStateTimeout p) s = .next s) ∧
    (st ≠ 2 ∨ bitsOf word 144 16 ≠ crc16 (word % 2 ^ 144) 144 → exec (.capabilityWord p word) s = .next s) ∧
    (st = 2 → bitsOf word 144 16 = crc16 (word % 2 ^ 144) 144 → (bitsOf word 0 16 ≠ 0x484E ∨ bitsOf word 16 4 ≠ 1 ∨ commonRate (s.hn p).rates (bitsOf word 20 3) = none) →
      exec (.capabilityWord p word) s = .next (s.wrs .HN_STATUS p [(.STATE, 0), (.FAIL, 2)])) ∧
    (st = 2 → bitsOf word 144 16 = crc16 (word % 2 ^ 144) 144 → bitsOf word 0 16 = 0x484E → bitsOf word 16 4 = 1 → commonRate (s.hn p).rates (bitsOf word 20 3) = some r →
      exec (.capabilityWord p word) s = .next ((((s.wr .HN_STATUS p .RATE r).wr .HN_PEER p .SERIAL (bitsOf word 32 40)).wrs .HN_LINK_ID p
        [(.PEER_PORT, bitsOf word 23 3), (.PEER_SPARE_OK, bitsOf word 26 1), (.PEER_RATES, bitsOf word 20 3)]).modHn p fun h =>
          { h with capOk := true, peerNonce := leBytes (bitsOf word 72 64) 8 })) ∧
    (st = 1 → lanesOk obs.lanes = true → exec (.trainingStateDone p obs) s =
      .next (let t := (s.wr .HN_STATUS p .STATE 2).modHn p fun x => { x with lanes := obs.lanes }
        t.emit (.capability p (t.capWord p)))) ∧
    (st = 2 → obs.clock = false → exec (.trainingStateDone p obs) s = .next (s.wrs .HN_STATUS p [(.STATE, 0), (.FAIL, 3)])) ∧
    (st = 2 → obs.clock = true → (s.hn p).capOk = true → exec (.trainingStateDone p obs) s = .next (s.wr .HN_STATUS p .STATE 3)) ∧
    (st = 3 → exec (.trainingStateDone p obs) s = .next ((s.wr .HN_STATUS p .STATE 4).modHn p fun x =>
      { x with taps := (List.range 9).map fun i => (i, presetTaps (s.rd .HN_CTRL p .PRESET)) })) ∧
    (st = 4 → (s.hn p).eqHost = false → lanesOk ((s.hn p).lanes &&& obs.lanes) = true → exec (.trainingStateDone p obs) s = .next
      (let t := (s.forEach (obs.reqs.filter fun q => decide (q.lane ≤ 8)) fun t q => t.eqApply p q).wr .HN_STATUS p .STATE 5
       match missingLane ((s.hn p).lanes &&& obs.lanes) with
       | some i => t.wrs .HN_STATUS p [(.SPARE_RX, 1), (.SPARED_RX, i)]
       | none => t)) ∧
    (st = 6 → 16 ≤ (s.hn p).echoes.length → exec (.trainingStateDone p obs) s = .next (s.wr .HN_STATUS p .STATE 7)) ∧
    (st = 7 → s.keys.fabric = none → exec (.trainingStateDone p obs) s = .next s) ∧
    (s.reaches .HN_EQ_REQ p = true → st = 4 → (s.hn p).eqHost = true → s.rd .HN_EQ_REQ p .BUSY = 0 → exec (.eqRequest p tap op preset) s =
      .next (((q.wr .HN_EQ_REQ p .BUSY 1).modHn p fun h => { h with eqLane := v.laneSel p }).emit (.eqRequest p (v.laneSel p) tap op preset))) ∧
    (s.reaches .HN_EQ_REQ p = true → st ≠ 4 ∨ (s.hn p).eqHost = false ∨ s.rd .HN_EQ_REQ p .BUSY ≠ 0 → exec (.eqRequest p tap op preset) s = .next q) ∧
    (s.rd .HN_EQ_REQ p .BUSY = 1 → exec (.eqResponse p resp ht wd) s =
      let t := (s.wrs .HN_EQ_REQ p [(.BUSY, 0), (.RESP, resp)]).wrs .HN_EQ_EYE p [(.HEIGHT, ht), (.WIDTH, wd)]
      .next (if s.rd .HN_EQ_REQ p .OP = 3 then t.modHn p fun h => { h with eqDone := h.eqLane :: h.eqDone } else t)) ∧
    (s.rd .HN_EQ_REQ p .BUSY ≠ 1 → exec (.eqResponse p resp ht wd) s = .next s)

/-- A running link (R396, R512 to R520, R526 to R528). What the spec leaves open in it is the model's choice: assumption log 10, 49, 63, 104. -/
def Obligations.RunningLinkCommands : Prop :=
  ∀ (s : State) (p lane ta rt : Nat) (f : Flit) (obs : FlitObs) (d : DataPay) (x : HnFields),
    let st := s.hnState p
    let h := s.hn p
    let v := (s.unhold .HN_CTRL p).hnCtrl p x
    let ctl := s.reaches .HN_CTRL p = true
    (s.flowing p = true → obs.sym = [] → obs.locked8 = false → exec (.flitReceive p f obs) s = .next (s.judgeFlit p f obs)) ∧
    (s.flowing p = false → exec (.flitReceive p f obs) s = .next s) ∧
    (s.flowing p = true → obs.fec = 2 → s.judgeFlit p f obs = (s.bump .HN_FEC_UE p .COUNT 1).flitFails p none) ∧
    (s.flowing p = true → obs.fec = 0 → (obs.crc = false ∨ 3 ≤ f.type) → s.judgeFlit p f obs = (s.bump .HN_CRC_ERR p .COUNT 1).flitFails p none) ∧
    (st = 8 → s.keyed p = true → exec (.dataFlit p d) s = .next (s.dataArrives p d)) ∧ (st ≠ 8 ∨ s.keyed p = false → exec (.dataFlit p d) s = .next s) ∧
    (s.flowing p = true → exec (.replayTimeout p) s = .next (s.resend p)) ∧
    (ctl → exec (.retrain p x) s = .next (v.retrain p) ∧ exec (.exitIdle p x) s = .next (v.exitIdle p)) ∧
    (st = 8 → s.rd .HN_CTRL p .IDLE_EN = 1 → s.linkUsed p = false → h.wait = [] → exec (.idleTimer p) s = .next ((s.sendSlot p 5).wr .HN_STATUS p .STATE 9)) ∧
    (st = 8 → s.linkUsed p = true → exec (.idleEnter p) s = .next s) ∧
    (st = 8 → s.linkUsed p = false → exec (.idleEnter p) s = .next (if h.wait = [] then s.wr .HN_STATUS p .STATE 9 else (s.wr .HN_STATUS p .STATE 9).exitIdle p)) ∧
    (st = 9 → exec (.idleExitBurst p) s =
      let t := ((if h.exiting then s else s.emit (.burst p)).wr .HN_STATUS p .STATE 8).modHn p fun y => { y with exiting := false }
      .next (t.pumpPort p (t.hn p).wait.length)) ∧
    (st = 9 → h.exiting = true → exec (.idleLockTimeout p) s = .next (s.retrain p)) ∧
    (st ≠ 9 → exec (.idleExitBurst p) s = .next s ∧ exec (.idleLockTimeout p) s = .next s) ∧
    (st = 8 → lane < 8 → s.rd .HN_STATUS p .SPARE_RX = 0 → h.sparing = none → exec (.laneLockLoss p lane) s =
      .next ((s.modHn p fun y => { y with sparing := some lane }).sendSlot p (3 + 2 ^ 4 * lane))) ∧
    (ctl → st ≠ 8 ∨ s.rd .HN_STATUS p .SPARE_RX = 1 ∨ h.sparing.isSome = true → exec (.hnSpareCmd p x) s = .next (v.wr .HN_STATUS p .CMD_ERR 1)) ∧
    (ctl → st = 8 → s.rd .HN_STATUS p .SPARE_RX = 0 → h.sparing = none → exec (.hnSpareCmd p x) s = .next (if s.laneSel p < 8 then v.startSpare p (s.laneSel p) else v)) ∧
    (st = 8 → exec (.spareReq p lane) s = .next ((s.modHn p fun y => { y with mirror := some lane }).emit (.burst p))) ∧
    (h.mirror = some lane → exec (.spareDone p lane) s = .next ((s.wrs .HN_STATUS p [(.SPARE_TX, 1), (.SPARED_TX, lane)]).modHn p fun y => { y with mirror := none })) ∧
    (h.sparing = some lane → exec (.sparingTimeout p) s = .next (s.retrain p)) ∧
    (s.keyed p = true → exec (.epoch p) s =
      .next (((s.modHn p fun y => { y with epochRx := y.epochRx + 1, expect := 0 }).wr .MP_LINK_STATUS p .EPOCH_RX ((h.epochRx + 1) % 65536)).setKeys p)) ∧
    (s.keyed p = false → exec (.epoch p) s = .next s) ∧
    (s.flowing p = true → exec (.probe p ta) s = .next (s.sendSlot p (7 + 2 ^ 4 * (ta % 2 ^ 32)))) ∧
    (st = 6 → h.echoes.length = 15 → exec (.echo p ta rt) s =
      .next ((s.modHn p fun y => { y with echoes := h.echoes ++ [(rt - ta) / 2] }).wr .HN_LAT p .ONEWAY_PS ((h.echoes ++ [(rt - ta) / 2]).foldl max 0)))

/-- The fabric (R529 to R538, R544, R550, R553). What the spec leaves open in it is the model's choice: assumption log 35, 62. -/
def Obligations.FabricCommands : Prop :=
  ∀ (s : State) (p addr peerPort active frozen : Nat) (valid host : Bool) (k : Packet) (t : Topo),
    let up := s.hnState p = 8 ∨ s.hnState p = 9
    let n := s.wrs .FB_NBR p [(.ADDR, addr), (.ADDR_VALID, bit valid), (.PORT, peerPort)]
    let bank := 1 - s.rd .FB_CTRL 0 .ACTIVE
    (up → s.rd .FB_NBR p .STATE ≠ 3 → exec (.hello p addr valid peerPort) s = .next (n.setNbr p (n.judgeNbr p))) ∧
    (up → s.rd .FB_NBR p .STATE = 3 → exec (.hello p addr valid peerPort) s = .next n) ∧ (¬ up → exec (.hello p addr valid peerPort) s = .next s) ∧
    (up → exec (.helloTimer p) s = .next (s.sendSlot p (s.helloSlot p))) ∧ (¬ up → exec (.helloTimer p) s = .next s) ∧
    (s.reaches .FB_ID 0 = true → exec (.fbIdWrite addr valid) s = .next ((s.unhold .FB_ID 0).setFbId addr valid)) ∧ (127 < addr → exec (.fbIdWrite addr valid) s = exec (.fbIdWrite addr false) s) ∧
    (s.nbrActive p = false → (k.kind < 2 → exec (.loadPacket (some p) k) s = .next (s.fbDrop 1)) ∧ (k.kind = 2 → exec (.channelPacket (some p) k frozen) s = .next (s.fbDrop 1)) ∧
      (k.kind = 4 → exec (.mgmt (some p) k) s = .next (s.fbDrop 1)) ∧ exec (.topo p k) s = .next s) ∧
    (s.nbrActive p = true → let r := s.routePacket (some p) k
      (k.kind < 2 → exec (.loadPacket (some p) k) s = .next (if r.1 then r.2.deliver k 0 else r.2)) ∧
      (k.kind = 2 → exec (.channelPacket (some p) k frozen) s = .next (if r.1 then r.2.deliver k frozen else r.2)) ∧
      (k.kind = 4 → exec (.mgmt (some p) k) s = .next (if r.1 then r.2.deliver k 0 else r.2))) ∧
    (k.kind < 2 → exec (.loadPacket none k) s = .next (s.deliver k 0)) ∧
    (s.nbrActive p = true → s.rd .FB_ID 0 .ADDR_VALID = 1 → k.kind = 3 → k.data = .topo t → exec (.topo p k) s = .next (s.topoArrives p k t)) ∧
    (s.rd .FB_ID 0 .ADDR_VALID ≠ 1 → exec (.topo p k) s = .next s ∧ exec .topoTimer s = .next s) ∧
    (s.rd .FB_ID 0 .ADDR_VALID = 1 → exec .topoTimer s =
      let v : Topo := ⟨(s.fab.version + 1) % 2 ^ 32, s.rd .LD_SERIAL 0 .SERIAL, s.ownPorts⟩
      let u := (s.modFab fun f => { f with version := v.version }).putTopo s.ownAddr v
      .next (((List.range 6).filter u.nbrActive).foldl (fun w q => w.sendFlit q ⟨1, 0, .packet ⟨255, s.ownAddr, 3, 255, 0, true, .topo v⟩⟩) u)) ∧
    (addr ≠ s.ownAddr → exec (.topoRecordExpire addr) s = .next (s.dropTopo addr)) ∧
    (s.rd .FB_ID 0 .ADDR_VALID = 1 → exec (.topoRecordExpire s.ownAddr) s = .next s) ∧
    (s.rd .FB_CTRL 0 .ROUTE_HOST = 0 → exec .routeCompute s =
      .next ((List.range 6).foldl (fun u q => u.wr .FB_NBR q .TREE (bit (s.treePorts.contains q))) ((s.modFab fun f =>
        { f with routes := (s.routeTable bank).foldl (fun r e => if e.2 = (7, 0) then r else tset r e.1 e.2) (f.routes.filter fun e => e.1.1 != bank) }).wr .FB_CTRL 0 .ACTIVE bank))) ∧
    (s.rd .FB_CTRL 0 .ROUTE_HOST = 1 → exec .routeCompute s = .next s) ∧
    (s.reaches .FB_CTRL 0 = true → let u := s.unhold .FB_CTRL 0
    (s.rd .FB_CTRL 0 .ROUTE_HOST = 1 → exec (.fbActiveWrite active) s = .next (u.wr .FB_CTRL 0 .ACTIVE active)) ∧
    (s.rd .FB_CTRL 0 .ROUTE_HOST = 0 → exec (.fbActiveWrite active) s = .next (u.wr .FB_STATUS 0 .CMD_ERR 1)) ∧
    (s.ownInFlight = true → exec (.routeHostWrite host) s = .next (u.wr .FB_STATUS 0 .CMD_ERR 1)) ∧
    (s.ownInFlight = false → exec (.routeHostWrite host) s = .next (u.wr .FB_CTRL 0 .ROUTE_HOST (bit host)))) ∧
    (¬ up → (s.hn p).peer ≠ none → exec (.linkLoss p) s = .next ((s.linkLost p 0).modHn p fun h => { h with peer := none, again := false })) ∧
    (up ∨ (s.hn p).peer = none → exec (.linkLoss p) s = .next s)

/-- Time (R558 to R569, R578). What the spec leaves open in it is the model's choice: assumption log 42, 64, 81. -/
def Obligations.TimeUnitCommands : Prop :=
  ∀ (s : State) (p root hops ns frac value camp hi : Nat) (offer : Bool) (w : SyncWait) (f : TmFields),
    let c := (s.unhold .TM_CTRL 0).wrs .TM_CTRL 0 [(.SERVO_HOST, bit f.servoHost), (.AUTO_ROOT, bit f.autoRoot)]
    let ctl := s.reaches .TM_CTRL 0 = true
    let v := s.unhold .TM_RATE 0
    let z := s.unhold .TM_DT_INC_HI camp
    let toRoot := fun (u : State) => u.wrs .TM_STATUS 0 [(.STATE, 4), (.PARENT, 7), (.ROOT, u.ownAddr), (.HOPS, 0)]
    let inc := s.rd .TM_DT_INC_LO camp .INC + 2 ^ 40 * (hi % 2 ^ 24)
    (s.nbrActive p = true → exec (.sync p offer root hops ns frac) s = .next (s.sync p offer root hops ns frac)) ∧
    (s.nbrActive p = false → exec (.sync p offer root hops ns frac) s = .next s) ∧
    (s.time.sync.find? (fun e => e.1 == p) = none → exec (.high p ns) s = .next s) ∧
    (s.time.sync.find? (fun e => e.1 == p) = some (p, w) → exec (.high p ns) s = .next ((s.modTime fun t => { t with sync := tdel t.sync p }).pair p ns w)) ∧
    ((s.tmState = 2 ∨ s.tmState = 4) → exec .syncTimer s =
      .next (((List.range 6).filter s.nbrActive).foldl (fun t q => (t.sendSlot q (s.timeSlot false)).sendSlot q (s.timeSlot true)) s)) ∧
    (s.tmState ≠ 2 → s.tmState ≠ 4 → exec .syncTimer s = .next s) ∧
    (s.tmState = 0 → s.rd .TM_CTRL 0 .AUTO_ROOT = 1 → s.rd .FB_ID 0 .ADDR_VALID = 1 → s.ownAddr = s.rd .FB_STATUS 0 .ROOT → s.time.offers = [] → exec .autoRootTimeout s = .next (toRoot s)) ∧
    (s.tmState ≠ 0 ∨ s.rd .TM_CTRL 0 .AUTO_ROOT = 0 ∨ s.rd .FB_ID 0 .ADDR_VALID = 0 ∨ s.time.offers ≠ [] → exec .autoRootTimeout s = .next s) ∧
    (ctl → s.tmState = 0 → exec (.tmRoot f) s = .next (toRoot c) ∧ exec (.tmLoad f) s = .next { c with now := s.time.staged % 2 ^ 96 }) ∧
    (ctl → s.tmState ≠ 0 → exec (.tmRoot f) s = .next (c.wr .TM_STATUS 0 .CMD_ERR 1) ∧ exec (.tmLoad f) s = .next (c.wr .TM_STATUS 0 .CMD_ERR 1)) ∧
    (ctl → exec (.tmReset f) s = .next ((c.wrs .TM_STATUS 0 [(.STATE, 0), (.PARENT, 7), (.ROOT, 0), (.HOPS, 0), (.OUT_OF_TOL, 0)]).modTime fun t => { t with good := 0, sync := [], refused := [] })) ∧
    (s.reaches .TM_RATE 0 = true → s.rd .TM_CTRL 0 .SERVO_HOST = 1 → exec (.tmRateWrite value) s =
      .next (v.wr .TM_RATE 0 .INC (2 ^ 33 + clampInt s.servoMax ((value % 2 ^ 36 : Nat) - (2 ^ 33 : Int))).toNat)) ∧
    (s.reaches .TM_RATE 0 = true → s.rd .TM_CTRL 0 .SERVO_HOST = 0 → exec (.tmRateWrite value) s = .next (v.wr .TM_STATUS 0 .CMD_ERR 1)) ∧
    (s.reaches .TM_DT_INC_HI camp = true → s.rd .DC_REPLAY_CTRL camp .REPLAY = 1 ∨ s.dtOpen camp = false → exec (.tmDtIncHiWrite camp hi) s = .next (z.wr .TM_DT_CTRL camp .WR_ERR 1)) ∧
    (s.reaches .TM_DT_INC_HI camp = true → s.rd .DC_REPLAY_CTRL camp .REPLAY = 0 → (s.camp camp).modules.length ≤ 1 → exec (.tmDtIncHiWrite camp hi) s =
      .next ((z.wr .TM_DT_INC_HI camp .INC hi).modCamp camp fun x => { x with dtNew := some inc })) ∧
    (s.reaches .TM_DT_INC_HI camp = true → s.rd .DC_REPLAY_CTRL camp .REPLAY = 0 → 1 < (s.camp camp).modules.length → s.dtOpen camp = true →
      exec (.tmDtIncHiWrite camp hi) s = .next (((((z.wr .TM_DT_INC_HI camp .INC hi).modCamp camp fun x => { x with dtNew := some inc }).modCamp camp fun x =>
        { x with dtAcks := x.peers }).wr .TM_DT_CTRL camp .BUSY 1).forEach (s.camp camp).peers fun t p => t.originate p 4 (.mgmt (.dtInc (s.camp camp).tag inc))))

/-- Acquisition (R570 to R573, R588, R591, R595, R598, R604, R605, R613). What the spec leaves open in it is the model's choice: assumption log 43, 44, 47, 80. -/
def Obligations.AcquisitionCommands : Prop :=
  ∀ (s : State) (k u i dec format : Nat) (host level : Bool) (f : AcqFields),
    let x := s.inp i
    let ctrl := (s.unhold .ACQ_CTRL u).acqCtrl u f
    let ctl := s.reaches .ACQ_CTRL u = true
    let dctl := s.reaches .ACQ_DEC_CFG dec = true
    let v := s.unhold .ACQ_DEC_CFG dec
    let owner := if s.rd .ACQ_DEC_CFG dec .OWNED = 1 then some (s.rd .ACQ_DEC_CFG dec .CAMP) else none
    let b := s.rd .ACQ_SEQ u .BUF
    let w := s.modIn i fun y => { y with window := false }
    (s.cmpFires k = true → exec (.comparatorFire k) s = .next (s.fireCmp k)) ∧ (s.cmpFires k = false → exec (.comparatorFire k) s = .next s) ∧
    exec (.pulseWidthEnd k) s = .next (s.modTime fun t => { t with pulses := t.pulses.filter fun q => q != k }) ∧
    (i < 2 → s.edgeDue (i + 1) = true → exec (.captureInputEdge i) s = .next (s.passEdge (i + 1))) ∧
    (s.edgeDue (i + 1) = false → exec (.captureInputEdge i) s = .next s) ∧
    (s.edgeDue 0 = true → exec .triggerInEdge s = .next (s.passEdge 0)) ∧ (s.edgeDue 0 = false → exec .triggerInEdge s = .next s) ∧
    (i < 3 → w.edgeDue i = true → exec (.conditionerWindowEnd i) s = .next (w.passEdge i)) ∧ (w.edgeDue i = false → exec (.conditionerWindowEnd i) s = .next w) ∧
    (i < 3 → s.rd .ACQ_IN_CFG i .STUCK_MS ≠ 0 → x.raw = s.activeLevel i → exec (.inputStuck i) s =
      .next ((s.wrs .ACQ_IN_CFG i [(.STUCK, 1), (.MASKED, 1)]).modIn i fun y => { y with passed := !s.activeLevel i })) ∧
    (s.rd .ACQ_IN_CFG i .STUCK_MS = 0 ∨ x.raw ≠ s.activeLevel i → exec (.inputStuck i) s = .next s) ∧
    (i < 3 → x.raw ≠ level → x.window = true → s.rd .ACQ_IN_CFG i .MASKED = 0 → exec (.inputLevelChange i level false) s =
      .next ((s.modIn i fun y => { y with raw := level }).bump .ACQ_IN_OVERRATE i .COUNT 1)) ∧
    (i < 3 → x.window = false → exec (.inputLevelChange i level false) s = .next (s.modIn i fun y => { y with raw := level })) ∧
    exec (.inputLevelChange i level true) s = .next s ∧
    (i < 3 → s.rd .ACQ_IN_CFG i .MASKED = 1 → x.raw ≠ s.activeLevel i → exec (.stuckMaskRelease i) s =
      .next ((s.wr .ACQ_IN_CFG i .MASKED 0).modIn i fun y => { y with passed := y.raw })) ∧
    (ctl → s.unitState u = 0 ∨ s.unitState u = 4 → exec (.acqArm u f) s = .next (ctrl.armUnit u 0)) ∧
    (ctl → s.unitState u ≠ 0 → s.unitState u ≠ 4 → exec (.acqArm u f) s = .next ctrl) ∧
    (ctl → exec (.acqStop u f) s = .next (ctrl.stopUnit u 3)) ∧
    (ctl → (ctrl.unitState u = 1 ∨ ctrl.unitState u = 2) → exec (.acqStop u f) s = .next ((ctrl.closeBuf u 3).wr .ACQ_CTRL u .STATE 4)) ∧
    (ctl → exec (.acqForce u f) s = .next (ctrl.modUnit u fun y => if y.events.contains .force then y else { y with events := y.events ++ [.force] })) ∧
    (dctl → s.acqWritable owner = true → exec (.decForce dec format host) s = .next (if host then (v.decCtrl dec format host).latchEvent (.dec dec) else v.decCtrl dec format host)) ∧
    (dctl → s.acqWritable owner = false → exec (.decForce dec format host) s = .next (v.decCtrl dec format host)) ∧
    (s.unitState u = 2 → s.rd .ACQ_TIMING u .POST_CYCLES ≠ 0 → s.rd .ACQ_TIMING u .POST_CYCLES ≤ (s.unit u).since → exec (.postCyclesEnd u) s = .next (s.closeNext u 2)) ∧
    (s.unitState u = 3 → 64 ≤ (s.unit u).since → s.rd .ACQ_TIMING u .HOLDOFF ≤ (s.unit u).since → exec (.holdoffEnd u) s =
      .next (s.armUnit u (if b = s.rd .ACQ_CTRL u .BUFS then 0 else b + 1))) ∧
    ((s.unit u).since < 64 → exec (.holdoffEnd u) s = .next s) ∧
    ((s.unit u).recs = [] → (s.unit u).full = false → exec (.captureWriteDone u) s = .next s) ∧ ((s.unit u).recs = [] → exec (.captureBusError u) s = .next s) ∧
    ((s.unit u).recs ≠ [] → exec (.captureBusError u) s = .next (s.captureError u)) ∧
    (∀ r l c, (s.unit u).recs = r :: l → (s.writeRec u r).1 = some c → exec (.captureWriteDone u) s = .next ((s.writeRec u r).2.captureError u)) ∧
    exec .trigoutWidthEnd s = .next (s.modAcq fun a => { a with trigOut := false })

/-- Trace and tokens (R622 to R630, R632, R635). What the spec leaves open in it is the model's choice: assumption log 10, 48. -/
def Obligations.TraceAndTokenCommands : Prop :=
  ∀ (s : State) (k slot t : Nat) (ok : Bool) (bytes : List Byte) (fr : Frame) (rest : List Frame),
    let q := s.traceRoute
    let num := fun lo n => leNat ((bytes.drop lo).take n)
    let idle := s.rd .TR_TOKEN_CMD 0 .BUSY = 0
    let w := s.unhold .TR_CTRL 0
    let v := s.unhold .TR_TOKEN_CMD 0
    let tok := s.reaches .TR_TOKEN_CMD 0 = true
    (s.reaches .TR_CTRL 0 = true → exec .trFlush s = .next ((List.range 16).foldl State.closeFrame w) ∧
      exec .trRoute s = .next (w.modTrace fun u => { u with busErr := false }).traceRoute ∧
      exec .clearFb s = .next (w.modTrace fun u => { u with fb := [], head := 0 })) ∧
    exec (.frameFlushTimer k) s = .next (s.closeFrame k) ∧
    (s.rd .TR_CTRL 0 .CAIRN_US ≠ 0 → s.traceOn k = true → exec (.cairnTimer k) s = .next (s.modTr k fun u => { u with due := 0 :: u.due })) ∧
    (s.rd .TR_CTRL 0 .CAIRN_US = 0 ∨ s.traceOn k = false → exec (.cairnTimer k) s = .next s) ∧
    (q.trace.closed = [] ∨ q.trace.draining = true → exec .traceFrameWrite s = .next q) ∧
    (q.trace.closed = fr :: rest → q.trace.draining = false → exec .traceFrameWrite s =
      .next (if q.trace.onRing then ((q.modTrace fun u => { u with closed := rest }).toRing fr).2 else (q.modTrace fun u => { u with closed := rest }).toFallback fr)) ∧
    (s.trace.draining = false → s.trace.onRing = true → exec .traceBusError s = .next ((((s.modTrace fun u => { u with closed := u.closed.drop 1 }).wr .TR_STATUS 0 .ERR 1).modTrace fun u =>
      { u with busErr := true, draining := false }).traceRoute)) ∧
    (s.trace.draining = true ∨ s.trace.onRing = false → exec .traceBusError s = .next (((s.wr .TR_STATUS 0 .ERR 1).modTrace fun u =>
      { u with busErr := true, draining := false }).traceRoute)) ∧
    (q.trace.draining = true → exec .fallbackDrainDone s = .next ((q.drainFrames q.trace.fb).modTrace fun u => { u with draining := false })) ∧
    (q.trace.draining = false → exec .fallbackDrainDone s = .next q) ∧
    (tok → s.rd .TR_TOKEN_CMD 0 .BUSY = 1 → exec (.tokenLoad slot) s = .next v ∧ exec (.tokenRevoke slot) s = .next v) ∧
    (tok → idle → exec (.tokenLoad slot) s = .next (((v.wrs .TR_TOKEN_CMD 0 [(.SLOT, slot), (.BUSY, 1)]).modTrace fun u => { u with loading := some (slot % 8) }).emit
      (.hostRead (s.rd .TR_TOKEN_ADDR_LO 0 .ADDR + 2 ^ 40 * s.rd .TR_TOKEN_ADDR_HI 0 .ADDR) 144))) ∧
    (tok → idle → exec (.tokenRevoke slot) s = .next (((v.wrs .TR_TOKEN_CMD 0 [(.SLOT, slot), (.RESULT, 0)]).wrs .TR_TOKEN (slot % 8) [(.VALID, 0), (.KEY_ID, 0), (.SCOPE, 0)]).modTrace
      fun u => { u with domains := tset u.domains (slot % 8) 0 })) ∧
    (s.trace.loading = none → exec (.tokenLoadDone ok bytes) s = .next s) ∧
    (s.trace.loading = some t → exec (.tokenLoadDone false bytes) s = .next ((s.wrs .TR_TOKEN_CMD 0 [(.BUSY, 0), (.RESULT, 4)]).modTrace fun u => { u with loading := none })) ∧
    (s.trace.loading = some t → bytes.length ≠ 144 → exec (.tokenLoadDone true bytes) s =
      .next ((s.wrs .TR_TOKEN_CMD 0 [(.BUSY, 0), (.RESULT, 1)]).modTrace fun u => { u with loading := none })) ∧
    (s.trace.loading = some t → exec (.tokenLoadDone true bytes) s = .next (
      let c := (s.wrs .TR_TOKEN_CMD 0 [(.BUSY, 0), (.RESULT, s.tokenResult bytes)]).modTrace fun u => { u with loading := none }
      if s.tokenResult bytes = 0 then (c.wrs .TR_TOKEN t [(.VALID, 1), (.KEY_ID, num 5 1), (.SCOPE, num 6 2)]).modTrace fun u => { u with domains := tset u.domains t (num 0x18 8) } else c))

/-- Power and start-up (R638, R647, R649 to R655, R718, R719). What the spec leaves open in it is the model's choice: assumption log 69, 70, 71, 83. -/
def Obligations.PowerAndStartUpCommands : Prop :=
  ∀ (s : State) (refin ok flash en : Bool) (w : PwFields) (times : List (Option Nat)) (delays bounds : List Nat) (bytes : List Byte) (pr : Nat × Nat) (n : Nat),
    let ph := s.rd .PW_STATUS 0 .PHASE
    let ctl := s.reaches .PW_CTRL 0 = true
    let ref := s.reaches .PW_REFCLK 0 = true
    let c := (s.unhold .PW_CTRL 0).wrs .PW_CTRL 0 [(.CAP_W, w.capW), (.HYST_W, w.hystW), (.TEMP_LIM, w.tempLim)]
    let off := fun (n : Nat) => (s.wipe alwaysOnReg).showHealth.modPower fun p => { p with shut := some n }
    let r := (s.unhold .PW_REFCLK 0).wr .PW_REFCLK 0 .OUT_EN (bit en)
    let from40 := s.rd .PW_FW_ADDR_LO 0 .ADDR + 2 ^ 40 * s.rd .PW_FW_ADDR_HI 0 .ADDR
    (ph = 0 → exec (.powerOn refin) s = .next (((({ s with keys := { s.keys with tree := s.draws }, trace := { s.trace with chal := s.draws + 1 }, draws := s.draws + 2, health := { s.health with failed := failedUnits s.health.wear } } : State).pickRef refin).showHealth).wrs .PW_STATUS 0 [(.PHASE, 1), (.LAST_RESET, 0)])) ∧
    (ph ≠ 0 → exec (.powerOn refin) s = .next s) ∧
    (ph ≠ 0 → s.power.shut = none → exec .inputBrownout s = .next (off 2) ∧ exec .inputOvervoltage s = .next (off 3) ∧ exec .thermalShutdown s = .next (off 4)) ∧
    (s.power.shut = some n → n = 2 ∨ n = 3 → exec .inputRecovery s = .next (s.moduleReset n) ∧ exec .thermalCooldown s = .next s) ∧
    (s.power.shut = some 4 → exec .thermalCooldown s = .next (s.moduleReset 4) ∧ exec .inputRecovery s = .next s) ∧
    (ctl → exec (.pwReset w) s = .next ((s.unhold .PW_CTRL 0).moduleReset 1)) ∧
    (ph ≠ 0 → s.power.shut = none ∨ s.power.shut = some n → s.moduleReset n =
      (((s.wipe fun _ => false).pickRef (s.rd .PW_REFCLK 0 .PRESENT == 1)).showHealth.wrs .PW_STATUS 0 [(.PHASE, 1), (.LAST_RESET, n)])) ∧
    (ph = 1 → s.power.shut = none → exec .romVerifyDone s = .next (
      match verifyFw s.part (s.fwSlot s.bootSlot), verifyFw s.part (s.fwSlot (1 - s.bootSlot)) with
      | .inr rev, _ => s.startFirmware s.bootSlot rev
      | .inl _, .inr rev => s.startFirmware (1 - s.bootSlot) rev
      | .inl _, .inl _ => ((s.wr .PW_STATUS 0 .PHASE 6).domOn 76).irq 0)) ∧
    (ph = 3 → (∃ ch, ch < 8 ∧ s.dmState ch = 4) → exec (.dramPhaseDone delays bounds) s = .next ((s.wr .PW_STATUS 0 .PHASE 7).irq 0)) ∧
    (ph = 3 → s.rd .DM_CTRL 0 .TRAIN_HOST = 1 → (∀ ch, ch < 8 → s.dmState ch = 1) → exec (.dramPhaseDone delays bounds) s = .next (s.wr .PW_STATUS 0 .PHASE 4)) ∧
    (ph ≠ 3 → exec (.dramPhaseDone delays bounds) s = .next s) ∧
    (ph = 4 → exec (.pinsPhaseDone times) s = .next ((((List.range 64).foldl (fun t i => t.sensePin i (times.getD i none)) s).wrs .PW_STATUS 0 [(.PHASE, 5), (.READY, 1)]).irq 0)) ∧
    (ph = 6 → exec .recoveryStreamVerified s = .next (match verifyFw s.part s.load.stream with
      | .inr _ => (({ s with flash := { s.flash with slot0 := s.load.stream } }.putConf 5 [0]).modLoad fun l => { l with stream := [] }).wr .PW_STATUS 0 .PHASE 1
      | .inl _ => s)) ∧
    (ph ≠ 6 → exec .recoveryStreamVerified s = .next s) ∧
    (ctl → 2 ≤ ph → ph ≠ 6 → s.power.prog = none → s.power.shut = none → exec (.fwProgram w) s = .next (((c.wr .PW_FW_STATUS 0 .BUSY 1).modPower fun p =>
      { p with prog := some (from40, s.rd .PW_FW_LEN 0 .BYTES) }).emit (.hostRead from40 (s.rd .PW_FW_LEN 0 .BYTES)))) ∧
    (ctl → ph < 2 ∨ ph = 6 ∨ s.power.prog ≠ none → exec (.fwProgram w) s = .next c) ∧
    (s.power.prog = none → exec (.fwProgramDone ok bytes flash) s = .next s) ∧
    (s.power.prog = some pr → exec (.fwProgramDone false bytes flash) s = .next (((s.modPower fun p => { p with prog := none }).wr .PW_FW_STATUS 0 .BUSY 0).wr .PW_FW_STATUS 0 .RESULT 4)) ∧
    (s.rd .PW_REFCLK 0 .SRC = 0 → exec .refinLoss s = .next (((List.range 6).filter s.portTrains).foldl (fun t p => t.failTraining p 3)
      ((s.wr .PW_REFCLK 0 .PRESENT 0).wrs .PW_REFCLK 0 [(.SRC, 1), (.LOST, 1)]))) ∧
    (s.rd .PW_REFCLK 0 .SRC ≠ 0 → exec .refinLoss s = .next (s.wr .PW_REFCLK 0 .PRESENT 0)) ∧
    exec .refinReturn s = .next (s.wr .PW_REFCLK 0 .PRESENT 1) ∧
    (ref → s.rd .PW_REFCLK 0 .PRESENT = 1 → exec (.useIn en) s = .next (r.wr .PW_REFCLK 0 .SRC 0)) ∧
    (ref → s.rd .PW_REFCLK 0 .PRESENT = 0 → exec (.useIn en) s = .next (r.wr .PW_REFCLK 0 .CMD_ERR 1)) ∧
    (ref → exec (.useLocal en) s = .next (r.wr .PW_REFCLK 0 .SRC 1)) ∧
    (∃ t, exec .inputPowerRemoved s = .next t ∧ t.regs = State.reset.regs ∧ t.flash = s.flash ∧ t.health.wear = s.health.wear ∧ t.part = s.part ∧ t.clusters = State.reset.clusters)

/-- The control interval (R636, R637, R645, R646). What the spec leaves open in it is the model's choice: assumption log 69. -/
def Obligations.PowerControlKeepsThePowerLimit : Prop :=
  ∀ (s : State) (o : PowerObs),
    let l := s.powerLimit o.vavg
    let above := o.ilim = true ∨ s.rd .PW_CTRL 0 .TEMP_LIM < (hottest o.temps).1 ∨ l < o.pin
    let under := o.pin + s.rd .PW_CTRL 0 .HYST_W ≤ l
    let shown := s.showSensors o
    let level := fun c => s.rd .PW_CAMP c .LEVEL
    let zero := fun (t : State) => t.modPower fun p => { p with quiet := 0 }
    let slow := s.movable.filter fun c => decide (250 ≤ levelMhz (s.rd .RUN_CAMP_TARGET c .MHZ) (level c + 1))
    let fast := s.movable.filter fun c => decide (0 < level c)
    (above → exec (.powerControlInterval o) s = .next (zero (slow.foldl (fun t c => t.setLevel c (level c + 1)) shown))) ∧
    (¬ above → under → s.power.quiet = 9 → exec (.powerControlInterval o) s = .next (zero (fast.foldl (fun t c => t.setLevel c (level c - 1)) shown))) ∧
    (¬ above → under → s.power.quiet ≠ 9 → exec (.powerControlInterval o) s = .next (shown.modPower fun p => { p with quiet := p.quiet + 1 })) ∧
    (¬ above → ¬ under → exec (.powerControlInterval o) s = .next (zero shown)) ∧
    (∀ t c j, State.setLevel t c j = ((t.wr .PW_CAMP c .LEVEL j).bump .PW_LIMIT_COUNT 0 .COUNT 1).raiseStall c 8 88 none) ∧
    (∀ c, c ∈ s.movable ↔ c < 64 ∧ s.campState c = 3 ∧ s.rd .RUN_CAMP_STATUS c .RAMPING = 0)

/-- Reliability (R666 to R675, R684 to R686). What the spec leaves open in it is the model's choice: assumption log 12, 72, 73, 84. -/
def Obligations.HealthCommands : Prop :=
  ∀ (s : State) (loc : ClusterSite) (kind unit addr err d i : Nat) (fails : List UnitId) (rows : List (Nat × Nat × Nat)),
    let k := 72 * loc.die + loc.slot
    (s.scrubs k kind = false → exec (.scrubRead loc kind unit addr err) s = .next s) ∧
    (s.scrubs k 0 = true → (∀ r ∈ (s.cluster k).reqs, r.who ≠ 2) → exec (.scrubRead loc 0 unit addr err) s =
      .next (s.modCluster k fun cl => { cl with reqs := cl.reqs ++ [⟨2, addr % 65536, .scrub⟩] })) ∧
    (s.scrubs k kind = true → 1 ≤ kind → kind ≤ 4 → exec (.scrubRead loc kind unit addr 2) s =
      .next ((s.scError k kind unit addr 0 true).countUnit ⟨loc.die, loc.slot, unitOfKind kind unit⟩ true)) ∧
    (s.scrubs k kind = true → 5 ≤ kind → err ≠ 0 → exec (.scrubRead loc kind unit addr err) s = .next (s.bump .SC_VOTE_COUNT loc.die .COUNT 1)) ∧
    (s.rd .SC_STATUS d .RELOADING = 1 → exec (.scrubPassDone d) s = .next s) ∧
    (s.rd .SC_STATUS d .RELOADING = 0 → s.rd .HS_CTRL 0 .SCRUB_HOST = 0 → ∃ u, exec (.scrubPassDone d) s = .next u ∧
      u.regs = ((s.bump .SC_STATUS d .PASSES 1).wr .SC_STATUS d .BUSY 0).regs ∧ u.health.scrubs = tdel s.health.scrubs d) ∧
    (exec (.supervisorCheck []) s = .next (((List.range s.part.dies).foldl (fun u e => u.wr .SC_CHECKSUM e .CRC (s.openAt e)) s).draw)) ∧
    (s.part.dies = 1 → exec (.supervisorCheck [0]) s = .next (((s.wr .SC_CHECKSUM 0 .CRC (s.openAt 0)).draw).reloadScrub 0)) ∧
    exec (.scrubReloadDone d) s = .next (s.wr .SC_STATUS d .RELOADING 0) ∧
    (s.health.bist = none → exec (.bistDone fails rows) s = .next s) ∧
    (s.health.bist = some (0, i) → ∃ u v : State, exec (.bistDone fails rows) s = .next (u.clearPitch i) ∧ u.health.bist = none ∧
      v = ((fails.filter (inTarget 0 i)).foldl (fun l x => insertUnit x l) []).foldl (fun x y => (x.wearAdd 3 y 0).markFailed y) s ∧
      u.regs = ((v.wrs .HS_CMD 0 [(.BUSY, 0), (.RESULT, bit !(((fails.filter (inTarget 0 i)).foldl (fun l x => insertUnit x l) []).isEmpty))]).irq 4).regs) ∧
    exec .wearFlushTimer s = .next s.flushWear ∧ (s.rd .HS_WEAR 0 .FULL = 0 → exec .wearCompactDone s = .next s) ∧
    (s.rd .HS_WEAR 0 .FULL = 1 → s.health.waiting = [] → ∃ u, exec .wearCompactDone s = .next u ∧ u.health.wear = (s.health.wear.filter fun e => decide (3 ≤ e.kind)) ++
      (((s.health.wear.filter fun e => decide (e.kind < 3)).foldl (fun l e => sumWear e l) []).map fun e => { e with time := s.nowNs }))

/-- Reliability's host writes (R4, R20, R668, R670, R674, R675, R685). What the spec leaves open in it is the model's choice: assumption log 72. -/
def Obligations.HealthWrites : Prop :=
  ∀ (s : State) (loc : ClusterSite) (kind d slot t i a b : Nat) (fl : Bool),
    let k := 72 * loc.die + loc.slot
    (s.reach (offsetOf .SC_CTRL d) = .muted → exec (.scrubGo d kind slot) s = .next s) ∧
    (s.reaches .SC_CTRL d = true → let u := s.unhold .SC_CTRL d
      let sc := u.wrs .SC_CTRL d [(.KIND, kind), (.SLOT, slot)]
      (u.rd .HS_CTRL 0 .SCRUB_HOST = 1 → u.rd .SC_STATUS d .BUSY = 0 → kind ≤ 4 → ∃ v : State, exec (.scrubGo d kind slot) s = .next v ∧
        v.regs = (sc.wr .SC_STATUS d .BUSY 1).regs ∧ v.health.scrubs = tset s.health.scrubs d (kind, slot % 128)) ∧
      (¬ u.rd .HS_CTRL 0 .SCRUB_HOST = 1 ∨ u.rd .SC_STATUS d .BUSY = 1 ∨ 4 < kind → exec (.scrubGo d kind slot) s = .next sc)) ∧
    (s.reaches .HS_CMD 0 = true → let u := s.unhold .HS_CMD 0
      let cmd := u.wrs .HS_CMD 0 [(.TARGET, t % 4), (.INDEX, i % 64)]
      (u.rd .HS_CMD 0 .BUSY = 1 → exec (.bist t i) s = .next u ∧ exec (.flushWear t i) s = .next u) ∧
      (u.rd .HS_CMD 0 .BUSY = 0 → u.bistOk (t % 4) (i % 64) = false → exec (.bist t i) s = .next (cmd.wr .HS_CMD 0 .RESULT 2)) ∧
      (u.rd .HS_CMD 0 .BUSY = 0 → u.bistOk 0 (i % 64) = true → ∃ v : State, exec (.bist 0 i) s = .next (v.domOn (i % 64)) ∧ v.health.bist = some (0, i % 64) ∧
        v.regs = ((u.wrs .HS_CMD 0 [(.TARGET, 0), (.INDEX, i % 64)]).wr .HS_CMD 0 .BUSY 1).regs) ∧
      (u.rd .HS_CMD 0 .BUSY = 0 → exec (.flushWear t i) s = .next (u.wrs .HS_CMD 0 [(.TARGET, t), (.INDEX, i)]).flushWear)) ∧
    (s.reaches .HS_PITCH_MAP a = true → let u := s.unhold .HS_PITCH_MAP a
      exec (.hsPitchMapWrite a b) s = .next (if u.rd .HS_CTRL 0 .SPARE_HOST = 0 then u.wr .HS_STATUS 0 .CMD_ERR 1
        else ((u.wr .HS_PITCH_MAP a .SPARE_COL b).pendMap .HS_PITCH_MAP a).refreshPitch a)) ∧
    (s.reaches .HS_BP_MAP k = true → let u := s.unhold .HS_BP_MAP k
      exec (.hsBpMapWrite loc a b fl) s = .next (if u.rd .HS_CTRL 0 .SPARE_HOST = 0 then u.wr .HS_STATUS 0 .CMD_ERR 1
        else (u.wrs .HS_BP_MAP k [(.SPARE0, a), (.SPARE1, b), (.FAILED, bit fl)]).refreshPitch (pitchOf k))) ∧
    (s.reaches .HS_COL_MAP k = true → let u := s.unhold .HS_COL_MAP k
      exec (.hsColMapWrite loc a b) s = .next (if u.rd .HS_CTRL 0 .SPARE_HOST = 0 then u.wr .HS_STATUS 0 .CMD_ERR 1
        else ((u.wrs .HS_COL_MAP k [(.COL0, a), (.COL1, b)]).pendMap .HS_COL_MAP k).refreshPitch (pitchOf k)))

/-- Register accesses (R13 to R20, R690, R694, R703). What the spec leaves open in it is the model's choice: assumption log 17, 37, 38, 39. -/
def Obligations.HostReadsAndWrites : Prop :=
  ∀ (s : State) (off i c n v : Nat) (wide w : Bool) (r : RegName) (o : WriteObs),
    let slot := off / 8 * 8
    let cleared := s.unhold r i
    (off % (if wide then 8 else 4) ≠ 0 → exec (.rcRead (.bar0 off) wide) s = .next ((s.idError 1 0 off 0).emit (.answer 0 true)) ∧
      exec (.registerWrite (.bar0 off) wide v o) s = .next (s.idError 1 0 off 0)) ∧
    exec (.barBadAccess off w) s = .next (if w then s.idError 1 0 off 0 else (s.idError 1 0 off 0).emit (.answer 0 true)) ∧
    (off % (if wide then 8 else 4) = 0 → s.reach off = .off → exec (.rcRead (.bar0 off) wide) s = .next ((s.idError 2 0 off 0).emit (.answer 0 false)) ∧
      exec (.registerWrite (.bar0 off) wide v o) s = .next (s.idError 2 0 off 0)) ∧
    (off % (if wide then 8 else 4) = 0 → (s.reach off = .muted ∨ (s.reach off = .here ∧ regAt slot = none)) → exec (.rcRead (.bar0 off) wide) s = .next (s.emit (.answer 0 false)) ∧
      exec (.registerWrite (.bar0 off) wide v o) s = .next s) ∧
    (off % 8 = 0 → s.reach off = .here → regAt slot = some (r, i) →
      exec (.rcRead (.bar0 off) true) s = .next (((cleared.readLatch r i).clearRc r i).emit (.answer (s.regValue r i) false)) ∧
      exec (.rcRead (.bar0 off) false) s = .next (({ (cleared.readLatch r i).clearRc r i with
        hold := tset ((cleared.readLatch r i).clearRc r i).hold (r, i) (s.regValue r i / 2 ^ 32) } : State).emit (.answer (s.regValue r i % 2 ^ 32) false)) ∧
      exec (.registerWrite (.bar0 off) true v o) s = .next (cleared.writeReg r i off (RegWrite.of v 2) o .host)) ∧
    (off % 8 = 4 → s.reach off = .here → regAt slot = some (r, i) → s.hold.find? (fun e => e.1 == (r, i)) = some ((r, i), v) →
      exec (.rcRead (.bar0 off) false) s = .next (cleared.emit (.answer v false))) ∧
    (off % 8 = 4 → s.reach off = .here → regAt slot = some (r, i) → s.hold.find? (fun e => e.1 == (r, i)) = none →
      exec (.rcRead (.bar0 off) false) s = .next (s.emit (.answer (s.regValue r i / 2 ^ 32) false))) ∧
    (exec (.holdingRegisterRead n) s = exec (.rcRead (.bar0 (n / 8 * 8 + 4)) false) s ∧ exec (.runCampCycleLoRead c w) s = exec (.rcRead (.bar0 (0x31010 + 0x40 * c)) w) s ∧
      exec (.tsLogPosLoRead c w) s = exec (.rcRead (.bar0 (0x8e010 + 0x40 * c)) w) s ∧ exec (.tmNowFracRead w) s = exec (.rcRead (.bar0 0x50010) w) s ∧
      exec (.tmDtFracRead c w) s = exec (.rcRead (.bar0 (0x50818 + 0x40 * c)) w) s ∧ exec (.tmCapFracRead c w) s = exec (.rcRead (.bar0 (0x50388 + 0x20 * c)) w) s ∧
      exec (.trFbDataRead w) s = exec (.rcRead (.bar0 0x70068) w) s ∧ exec (.idKeyDataRead w) s = exec (.rcRead (.bar0 0x28) w) s)

/-- BAR2 and MSI-X (R691 to R693, R696, R698). What the spec leaves open in it is the model's choice: assumption log 37, 50. -/
def Obligations.HostWindowAndInterruptCommands : Prop :=
  ∀ (s : State) (off len vector chan vec : Nat) (bytes : List Byte) (obs : DeepObs),
    let en := s.rd .HI_BAR2_AP (off / 2 ^ 32 % 4) .EN
    let rq := fun d => s.bar2Req off (match d with | none => len | some b => b.length) d
    let waits := fun d => en ≠ 0 ∧ s.railed 78 = true ∧ s.reqWaits (rq d) obs (s.deep.held.map (·.req)) = true
    let runs := fun d => en ≠ 0 ∧ s.railed 78 = true ∧ s.reqWaits (rq d) obs (s.deep.held.map (·.req)) = false
    let joins := fun d => s.modDeep fun m => { m with held := m.held ++ [⟨rq d, obs⟩] }
    let u : State := { s with host := { s.host with masked := tset s.host.masked vector false } }
    (en = 0 → exec (.bar2Read off len obs) s = .next ((s.idError 3 1 off 0).emit (.answerBytes (List.replicate len 0))) ∧
      exec (.bar2Write off bytes obs) s = .next (s.idError 3 1 off 0)) ∧
    (en ≠ 0 → s.railed 78 = false → exec (.bar2Read off len obs) s = .next ((s.idError 4 1 off 0xA).emit (.answer 0 true)) ∧
      exec (.bar2Write off bytes obs) s = .next (s.idError 4 1 off 0xA)) ∧
    ((waits none → exec (.bar2Read off len obs) s = .next (joins none)) ∧ (waits (some bytes) → exec (.bar2Write off bytes obs) s = .next (joins (some bytes)))) ∧
    (runs none → exec (.bar2Read off len obs) s = .next (match (s.serve (rq none) obs).1.cause with
      | some c => ((s.serve (rq none) obs).2.idError 4 1 off c).emit (.answer 0 true)
      | none => (s.serve (rq none) obs).2.emit (.answerBytes (s.serve (rq none) obs).1.bytes))) ∧
    (runs (some bytes) → exec (.bar2Write off bytes obs) s = .next (match (s.serve (rq (some bytes)) obs).1.cause with
      | some c => (s.serve (rq (some bytes)) obs).2.idError 4 1 off c
      | none => (s.serve (rq (some bytes)) obs).2)) ∧
    ((s.host.msixEnable = true → s.host.maskAll = false → vector ∈ s.host.pba → exec (.msixUnmask vector) s =
        .next (({ u with host := { u.host with pba := u.host.pba.erase vector } } : State).sendMsix vector)) ∧
      (s.host.msixEnable = false ∨ s.host.maskAll = true ∨ vector ∉ s.host.pba → exec (.msixUnmask vector) s = .next u)) ∧
    (s.reaches .HI_CH_VEC chan = true → let u := s.unhold .HI_CH_VEC chan
      exec (.hiChVecWrite chan vec) s = .next (if vec % 256 < 80 then u.idError 6 0 (offsetOf .HI_CH_VEC chan) 0 else u.wr .HI_CH_VEC chan .VEC vec)) ∧
    (∃ t, exec .pcieReset s = .next t ∧ t.host = HostIf.reset ∧ t.noc.fences = [] ∧ t.rd .NOC_FENCE_STATUS 0 .PENDING = 0 ∧ t.camps = s.camps ∧ t.clusters = s.clusters ∧
      t.deep = s.deep ∧ t.chans = s.chans)

/-- The test port (R699 to R701). What the spec leaves open in it is the model's choice: assumption log 51. -/
def Obligations.TestPortCommands : Prop :=
  ∀ (s : State) (pins shift : List Bool) (dr : Nat) (obs : WriteObs),
    let load := fun (code : Nat) => { s.emit (.answer s.irStatus false) with
      test := { s.test with ir := code, refused := false, driven := if code = 0 ∨ code = 3 then s.test.bsr else [] } }
    let refused := { load 0xFF with test := { (load 0xFF).test with refused := true } }
    let bytes := (leBytes (bitsOf dr 0 32) 4).take (bitsOf dr 32 2 + 1)
    let takes := s.rd .PW_STATUS 0 .PHASE = 6 ∨ (s.loading = true ∧ s.load.entry = true ∧ s.load.src = 1)
    let acc := (load 0x20).emit (.answer (2 ^ 27 * bit s.test.result.2 + 2 ^ 28 * s.test.result.1) false)
    exec .testLogicReset s = .next { s with test := { s.test with ir := 2, driven := [] } } ∧ exec .bypass s = .next (load 0xFF) ∧
    (s.pinsFree = true → exec .clamp s = .next (load 3) ∧ exec .highz s = .next (load 4) ∧ exec (.extest []) s = .next (load 0) ∧
      (shift ≠ [] → exec (.extest shift) s = .next { load 0 with test := { (load 0).test with bsr := shift, driven := shift } })) ∧
    (s.pinsFree = false → exec .clamp s = .next refused ∧ exec .highz s = .next refused ∧ exec (.extest shift) s = .next refused) ∧
    exec (.samplePreload pins shift) s = .next (let u := (load 1).emit (.answer (bitsOfList pins) false)
      { u with test := { u.test with bsr := if shift.isEmpty then pins else shift } }) ∧
    exec .idcode s = .next ((load 2).emit (.answer (s.rd .ID_JTAG 0 .IDCODE) false)) ∧
    (regAccessReaches (bitsOf dr 3 23 * 8) = false → exec (.regAccess dr obs) s = .next (acc.setResult 0 true)) ∧
    (regAccessReaches (bitsOf dr 3 23 * 8) = true → dr.testBit 26 = true → exec (.regAccess dr obs) s =
      .next ((acc.setResult 0 false).bar0Write (bitsOf dr 3 23 * 8) 2 (bitsOf dr 28 40) obs .port)) ∧
    (regAccessReaches (bitsOf dr 3 23 * 8) = true → dr.testBit 26 = false → exec (.regAccess dr obs) s =
      .next ((acc.bar0Read (bitsOf dr 3 23 * 8) 2).2.setResult (acc.bar0Read (bitsOf dr 3 23 * 8) 2).1 false)) ∧
    (takes → ∃ t, exec (.loadStream dr) s = .next t ∧ t.load.stream = s.load.stream ++ bytes) ∧ (¬ takes → ∃ t, exec (.loadStream dr) s = .next t ∧ t.load = s.load) ∧
    (exec .moduleReset s = .next ((load 0x22).moduleReset 1))

/-- The SMBus (R639, R655, R702). What the spec leaves open in it is the model's choice: assumption log 52. -/
def Obligations.ManagementBusCommands : Prop :=
  ∀ (s : State) (v : Nat),
    let awake := s.rd .PW_STATUS 0 .PHASE ≠ 0
    let say := fun (o : Out) => (.next (s.emit o) : Host.Outcome State Fault Refusal)
    (awake → exec .smbPhase s = say (.answer (s.rd .PW_STATUS 0 .PHASE + 8 * s.rd .PW_STATUS 0 .READY + 16 * s.rd .PW_STATUS 0 .LAST_RESET) false) ∧
      exec .smbVin s = say (.answer (s.rd .PW_IN 0 .VIN) false) ∧ exec .smbIin s = say (.answer (s.rd .PW_IN 0 .IIN) false) ∧
      exec .smbPin s = say (.answer (s.rd .PW_IN 0 .PIN) false) ∧
      exec .smbTemp s = say (.answerBytes ((List.range 9).map fun d => if d < 8 ∧ s.part.dies ≤ d then 0 else BitVec.ofNat 8 (s.power.temps.getD d 0))) ∧
      exec .smbIdent s = say (.answerBytes (leBytes (s.regValue .ID_DEVICE 0) 5 ++ leBytes (s.rd .ID_REV 0 .STEPPING) 1 ++ leBytes (s.rd .LD_SERIAL 0 .SERIAL) 5 ++
        leBytes (s.rd .PW_FW_STATUS 0 .REV) 4 ++ [0])) ∧
      exec .smbAlarm s = say (.answerBytes (leBytes (s.regValue .MP_ALARM_LOG 0) 5 ++ leBytes (s.rd .MP_ALARM_COUNT 0 .COUNT) 3)) ∧
      exec .smbDomains s = say (.answerBytes ((List.range 40).map fun n => BitVec.ofNat 8 (s.domState (2 * n) + 16 * s.domState (2 * n + 1)))) ∧
      exec (.hostif 1) s = .next (s.domOn 76) ∧ exec (.hostif 0) s = .next (s.domOff 76 true)) ∧
    (s.rd .PW_STATUS 0 .PHASE = 0 → exec .smbPhase s = say (.answer 0 true) ∧ exec .smbVin s = say (.answer 0 true) ∧ exec .smbIin s = say (.answer 0 true) ∧
      exec .smbPin s = say (.answer 0 true) ∧ exec .smbTemp s = say (.answer 0 true) ∧ exec .smbIdent s = say (.answer 0 true) ∧
      exec .smbAlarm s = say (.answer 0 true) ∧ exec .smbDomains s = say (.answer 0 true)) ∧
    (s.rd .PW_STATUS 0 .PHASE = 0 ∨ 1 < v → exec (.hostif v) s = .next s) ∧
    (exec (.smbReset 0xA5) s = .next (s.moduleReset 1)) ∧ (v ≠ 0xA5 → exec (.smbReset v) s = .next s)

/-- R13. -/
def Obligations.RegistersAreFortyBitsWide : Prop :=
  (∀ (s : State) (r : RegName) (i : Nat), s.regValue r i < 2 ^ 40) ∧
  (∀ (s : State) (off : Nat), off % 8 = 0 → ∃ (t : State) (v : Nat), exec (.rcRead (.bar0 off) true) s = .next (t.emit (.answer v false)) ∧ v < 2 ^ 40) ∧
  (∀ (s : State) (off v : Nat) (o : WriteObs), exec (.registerWrite (.bar0 off) true v o) s = exec (.registerWrite (.bar0 off) true (v % 2 ^ 40) o) s) ∧
  (∀ (s : State) (off v : Nat) (o : WriteObs), off % 8 = 4 → exec (.registerWrite (.bar0 off) false v o) s = exec (.registerWrite (.bar0 off) false (v % 2 ^ 8) o) s)

/-- R527; the fields of HN_CTRL written in the same access are stored as by any write of it (R528). -/
def Obligations.RetrainAndRefusedSpare : Prop :=
  ∀ (s : State) (p : Nat) (f : HnFields), s.reaches .HN_CTRL p = true →
    (1 ≤ s.hnState p → s.hnState p ≤ 7 → f.en = true → s.powered 77 = true → ∃ t, exec (.retrain p f) s = .next t ∧ t.hnState p = 1) ∧
    (s.hnState p ≠ 8 ∨ s.rd .HN_STATUS p .SPARE_RX = 1 → exec (.hnSpareCmd p f) s =
      .next (((s.unhold .HN_CTRL p).wrs .HN_CTRL p [(.EN, bit f.en), (.RATE_MAX, f.rateMax), (.EQ_HOST, bit f.eqHost), (.PRESET, f.preset), (.IDLE_EN, bit f.idleEn), (.IDLE_AFTER, f.idleAfter)]).wr
        .HN_STATUS p .CMD_ERR 1))

/-- R550. -/
def Obligations.ActiveBankIsSoftwaresOnlyWithRouteHost : Prop :=
  ∀ (s : State) (a : Nat), s.reaches .FB_CTRL 0 = true →
    (s.rd .FB_CTRL 0 .ROUTE_HOST = 0 → exec (.fbActiveWrite a) s = .next ((s.unhold .FB_CTRL 0).wr .FB_STATUS 0 .CMD_ERR 1)) ∧
    (∀ t, exec .routeCompute s = .next t → t.rd .FB_CTRL 0 .ACTIVE ≠ s.rd .FB_CTRL 0 .ACTIVE →
      s.rd .FB_CTRL 0 .ROUTE_HOST = 0 ∧ exec (.fbActiveWrite a) t = .next ((t.unhold .FB_CTRL 0).wr .FB_STATUS 0 .CMD_ERR 1))

/-- R660. -/
def Obligations.ModuleResetAbandonsFirmwareWrite : Prop :=
  ∀ (s : State) (f : PwFields) (job : Nat × Nat) (ok flash : Bool) (bytes : List Byte) (c : Instr), s.power.prog = some job → s.rd .PW_STATUS 0 .PHASE ≠ 0 → s.power.shut = none →
    ((c = .pwReset f ∧ s.reaches .PW_CTRL 0 = true) ∨ c = .smbReset 0xA5 ∨ c = .moduleReset) → ∃ t, exec c s = .next t ∧ t.flash = s.flash ∧ t.power.prog = none ∧ t.bootSlot = s.bootSlot ∧
      exec (.fwProgramDone ok bytes flash) t = .next t ∧
      (match verifyFw s.part (s.fwSlot s.bootSlot) with
       | .inr rev => exec .romVerifyDone t = .next (t.startFirmware s.bootSlot rev)
       | .inl _ => True)

/-- R472. -/
def Obligations.QuiesceLeavesAWaitingPortWaiting : Prop :=
  ∀ (s : State) (h frozen : Nat), s.reaches .CH_CTRL h = true → s.rd .CH_CTRL h .STATE = 3 → s.waitsIn h = true → ∃ t, exec (.chQuiesce h) s = .next t ∧ t = (s.unhold .CH_CTRL h).wr .CH_CTRL h .STATE 1 ∧
    t.rd .CH_CTRL h .STATE = 1 ∧ t.waitsIn h = true ∧ t.chan h = s.chan h ∧ t.camps = s.camps ∧ t.out = s.out ∧
    (s.rd .CH_TIMEOUT h .MS ≠ 0 → s.replays (s.chCamp h) = false → (s.chan h).fired = false → s.rd .CH_CFG h .POLICY = 0 →
      ∃ u, exec (.channelTimeout h true frozen) t = .next u ∧ (u.chan h).fired = true)

/-- R435. -/
def Obligations.ReadyTaskKeepsTheCoreAwake : Prop :=
  ∀ (s : State) (k i : Nat) (rest : List Nat), s.rd .CC_STATUS k .PSTATE = 1 → (s.core k).ready = i :: rest →
    ∃ t, exec (.sleepEntry k) s = .next t ∧ t = s ∧ t.rd .CC_STATUS k .PSTATE = 1 ∧ (t.core k).tr.due = (s.core k).tr.due ∧ (t.core k).tr.frame = (s.core k).tr.frame

/-- R659, R684; the commands come one after the other, the LOAD first. -/
def Obligations.LoadKeepsItsPitchesFromBistAndPowerOff : Prop :=
  ∀ (s : State) (p m : Nat) (side : Bool), p < 64 → s.load.active = true → s.load.failing = none → s.load.own.pitches.testBit p = true → s.load.lmod = some m →
    (s.reaches .HS_CMD 0 = true → s.rd .HS_CMD 0 .BUSY = 0 → exec (.bist 0 p) s = .next (((s.unhold .HS_CMD 0).wrs .HS_CMD 0 [(.TARGET, 0), (.INDEX, p)]).wr .HS_CMD 0 .RESULT 2)) ∧
    (s.reaches .PW_DOM p = true → s.domState p ≠ 4 → s.power.shut = none → exec (.domainOff p side) s = .next (((s.unhold .PW_DOM p).wr .PW_STATUS 0 .ERR 1).irq 0))

/-- Spares (R32, R33). -/
def Obligations.LogicalUnitsSkipTheSpares : Prop :=
  (∀ c j k, c ≤ 8 → j < 8 → k < 8 → physCol c j ≤ 8 ∧ physCol c j ≠ c ∧ (j < k → physCol c j < physCol c k)) ∧
  (∀ (cl : Cluster) (b d : Nat), cl.spare0 ≤ 65 → cl.spare1 ≤ 65 → cl.spare0 ≠ cl.spare1 → b < 64 → d < 64 →
    cl.physBp b ≤ 65 ∧ cl.physBp b ≠ cl.spare0 ∧ cl.physBp b ≠ cl.spare1 ∧ (b < d → cl.physBp b < cl.physBp d))

/-- No command is stopped, and no step. What the spec leaves open in it is the model's choice: assumption log 16. -/
def Obligations.EveryCommandAnswersANextState : Prop :=
  (∀ (i : Instr) (s : State), ∃ t, exec i s = .next t) ∧ ∀ s : State, ∃ t, step s = .next t

/-- The (48,40) code (R147, R148). What the spec leaves open in it is the model's choice: assumption log 9. -/
def Obligations.SingleErrorsCorrectedDoubleErrorsDetected : Prop :=
  ∀ (cl : Cluster) (a : Nat) (x : Word) (i j : Nat),
    let flip := fun (y : Word) (n : Nat) => y ^^^ (1#40 <<< n)
    let stored := fun (y : Word) (wrong : BitVec 8) => (⟨y, (checkByte x ^^^ wrong) ^^^ checkByte y⟩ : MemWord)
    let chk := fun n => 1#8 <<< n
    (mcanon MemWord.clear cl.mem = true → ((cl.write a x).word a).data = x ∧ ((cl.write a x).word a).check = checkByte x ∧ ((cl.write a x).word a).decode = (x, .ok)) ∧
    (i < 40 → (stored (flip x i) 0).decode = (x, .ce)) ∧
    (i < 8 → (stored x (chk i)).decode = (x, .ce)) ∧
    (i < 40 → j < 40 → i ≠ j → (stored (flip (flip x i) j) 0).decode.2 = .ue) ∧
    (i < 40 → j < 8 → (stored (flip x i) (chk j)).decode.2 = .ue) ∧
    (i < 8 → j < 8 → i ≠ j → (stored x (chk i ^^^ chk j)).decode.2 = .ue)
end

