-- ==== Sys2Proof/Laws/Assoc.lean ====
section
/-! SUPPORT. Laws of the sparse tables and memories: read after write, and that every memory operation keeps the canonical form. -/

namespace Sys2Proof.Machine

set_option Elab.async false

section Tables

variable {κ ν : Type} [DecidableEq κ]

theorem tget_tset (d : ν) (l : List (κ × ν)) (k k' : κ) (v : ν) : tget d (tset l k v) k' = if k = k' then v else tget d l k' := by
  induction l with
  | nil => rfl
  | cons e l ih =>
    obtain ⟨a, b⟩ := e
    by_cases h : a = k
    · subst h; by_cases h2 : a = k' <;> simp [tset, tget, h2]
    · by_cases h2 : a = k'
      · subst h2; simp [tset, tget, h, Ne.symm h]
      · simp [tset, tget, h, h2, ih]

@[simp] theorem tget_tset_self (d : ν) (l : List (κ × ν)) (k : κ) (v : ν) : tget d (tset l k v) k = v := by simp [tget_tset]

theorem tget_tset_ne (d : ν) (l : List (κ × ν)) {k k' : κ} (v : ν) (h : k ≠ k') : tget d (tset l k v) k' = tget d l k' := by
  simp [tget_tset, h]

@[simp] theorem tget_tmod_self (d : ν) (l : List (κ × ν)) (k : κ) (f : ν → ν) : tget d (tmod d l k f) k = f (tget d l k) := by
  simp [tmod]

theorem tget_tmod_ne (d : ν) (l : List (κ × ν)) {k k' : κ} (f : ν → ν) (h : k ≠ k') : tget d (tmod d l k f) k' = tget d l k' := by
  simp [tmod, tget_tset, h]

@[simp] theorem tget_nil (d : ν) (k : κ) : tget d ([] : List (κ × ν)) k = d := rfl

theorem tget_tdel_self (d : ν) (l : List (κ × ν)) (k : κ) : tget d (tdel l k) k = d := by
  induction l with
  | nil => rfl
  | cons e l ih => obtain ⟨a, b⟩ := e; by_cases h : a = k <;> simp [tdel, tget, h, ih]

/-- A table from which keys are dropped. -/
theorem tget_filter (d : ν) (l : List (κ × ν)) (p : κ → Bool) (k : κ) : tget d (l.filter fun e => p e.1) k = if p k then tget d l k else d := by
  induction l with
  | nil => simp
  | cons e l ih =>
    obtain ⟨a, b⟩ := e
    by_cases hp : p a = true
    · by_cases h : a = k
      · subst h; simp [hp, tget]
      · simp [hp, tget, h, ih]
    · by_cases h : a = k
      · subst h; simp [hp, ih]
      · simp [hp, tget, h, ih]

theorem mem_tset {l : List (κ × ν)} {k : κ} {v : ν} {e : κ × ν} (h : e ∈ tset l k v) : e = (k, v) ∨ e ∈ l := by
  induction l with
  | nil => simp [tset] at h; exact Or.inl h
  | cons x l ih =>
    obtain ⟨a, b⟩ := x
    by_cases hk : a = k
    · simp [tset, hk] at h; rcases h with h | h
      · exact Or.inl h
      · exact Or.inr (List.mem_cons_of_mem _ h)
    · simp [tset, hk] at h; rcases h with h | h
      · subst h; exact Or.inr List.mem_cons_self
      · rcases ih h with h | h
        · exact Or.inl h
        · exact Or.inr (List.mem_cons_of_mem _ h)

end Tables

section Memories

variable {ν : Type}

theorem mread_minsert (d : ν) (m : List (Nat × ν)) (a b : Nat) (v : ν) : mread d (minsert m a v) b = if a = b then v else mread d m b := by
  induction m with
  | nil => rfl
  | cons c m ih =>
    obtain ⟨x, y⟩ := c
    by_cases h1 : a < x
    · simp only [minsert, h1, if_true]; simp [mread]
    · by_cases h2 : a = x
      · subst h2; by_cases hb : a = b <;> simp [minsert, mread, hb]
      · simp only [minsert, h1, h2, if_false, mread, ih]
        by_cases hb : x = b
        · subst hb; simp [h2]
        · simp [hb]

theorem mabove_mem {a : Nat} {m : List (Nat × ν)} (h : mabove a m = true) {c : Nat × ν} (hc : c ∈ m) : a < c.1 := by
  have := List.all_eq_true.mp h c hc; simpa using this

theorem mread_of_above (d : ν) (m : List (Nat × ν)) (a : Nat) (h : mabove a m = true) : mread d m a = d := by
  induction m with
  | nil => rfl
  | cons c m ih =>
    obtain ⟨x, y⟩ := c
    have h1 := mabove_mem h (c := (x, y)) List.mem_cons_self
    have h2 : mabove a m = true := List.all_eq_true.mpr fun c hc => by have := mabove_mem h (List.mem_cons_of_mem _ hc); simpa using this
    have : x ≠ a := by simp at h1; omega
    simp [mread, this, ih h2]

variable [DecidableEq ν]

theorem mcanon_cons {d v : ν} {a : Nat} {m : List (Nat × ν)} :
    mcanon d ((a, v) :: m) = true ↔ mabove a m = true ∧ v ≠ d ∧ mcanon d m = true := by
  simp [mcanon, and_assoc]

theorem mread_merase (d : ν) (m : List (Nat × ν)) (hm : mcanon d m = true) (a b : Nat) :
    mread d (merase m a) b = if a = b then d else mread d m b := by
  induction m with
  | nil => simp [merase, mread]
  | cons c m ih =>
    obtain ⟨x, y⟩ := c
    obtain ⟨h1, _, h3⟩ := mcanon_cons.mp hm
    by_cases h2 : a = x
    · subst h2
      by_cases hb : a = b
      · subst hb; simp [merase, mread_of_above d m a h1]
      · simp [merase, mread, hb]
    · by_cases hb : x = b
      · subst hb; simp [merase, h2, mread]
      · simp [merase, h2, mread, hb, ih h3]

/-- A cell reads what was written to it, and every other cell reads as before. -/
theorem mread_mwrite (d : ν) (m : List (Nat × ν)) (hm : mcanon d m = true) (a b : Nat) (v : ν) :
    mread d (mwrite d m a v) b = if a = b then v else mread d m b := by
  by_cases h : v = d
  · subst h; simp [mwrite, mread_merase v m hm]
  · simp [mwrite, h, mread_minsert]

omit [DecidableEq ν] in
theorem minsert_above {x a : Nat} {v : ν} {m : List (Nat × ν)} (h : mabove x m = true) (hx : x < a) : mabove x (minsert m a v) = true := by
  induction m with
  | nil => simp [minsert, mabove, hx]
  | cons c m ih =>
    obtain ⟨y, w⟩ := c
    have h1 := mabove_mem h (c := (y, w)) List.mem_cons_self
    have h2 : mabove x m = true := List.all_eq_true.mpr fun c hc => by have := mabove_mem h (List.mem_cons_of_mem _ hc); simpa using this
    by_cases h3 : a < y
    · have e : minsert ((y, w) :: m) a v = (a, v) :: (y, w) :: m := by simp [minsert, h3]
      rw [e]; simp only [mabove, List.all_cons, Bool.and_eq_true, decide_eq_true_eq]; exact ⟨hx, h1, h2⟩
    · by_cases h4 : a = y
      · have e : minsert ((y, w) :: m) a v = (a, v) :: m := by simp [minsert, h4]
        rw [e]; simp only [mabove, List.all_cons, Bool.and_eq_true, decide_eq_true_eq]; exact ⟨hx, h2⟩
      · have e : minsert ((y, w) :: m) a v = (y, w) :: minsert m a v := by simp [minsert, h3, h4]
        rw [e]; simp only [mabove, List.all_cons, Bool.and_eq_true, decide_eq_true_eq]; exact ⟨h1, ih h2⟩

omit [DecidableEq ν] in
theorem mabove_sublist {x : Nat} {l m : List (Nat × ν)} (hl : l.Sublist m) (h : mabove x m = true) : mabove x l = true :=
  List.all_eq_true.mpr fun c hc => by have := mabove_mem h (hl.subset hc); simpa using this

omit [DecidableEq ν] in
theorem mabove_lt {x y : Nat} {m : List (Nat × ν)} (hxy : x < y) (h : mabove y m = true) : mabove x m = true :=
  List.all_eq_true.mpr fun c hc => by have := mabove_mem h hc; simp; omega

theorem mcanon_sublist {d : ν} {l m : List (Nat × ν)} (hl : l.Sublist m) (h : mcanon d m = true) : mcanon d l = true := by
  induction hl with
  | slnil => rfl
  | cons a _ ih => obtain ⟨x, y⟩ := a; exact ih (mcanon_cons.mp h).2.2
  | cons_cons a hs ih =>
    obtain ⟨x, y⟩ := a
    obtain ⟨h1, h2, h3⟩ := mcanon_cons.mp h
    exact mcanon_cons.mpr ⟨mabove_sublist hs h1, h2, ih h3⟩

omit [DecidableEq ν] in
theorem merase_sublist (m : List (Nat × ν)) (a : Nat) : (merase m a).Sublist m := by
  induction m with
  | nil => exact List.Sublist.refl _
  | cons c m ih =>
    obtain ⟨x, y⟩ := c
    by_cases h : a = x
    · simp [merase, h]
    · simp only [merase, h, if_false]; exact ih.cons_cons _

theorem mcanon_minsert {d : ν} {m : List (Nat × ν)} (a : Nat) {v : ν} (hv : v ≠ d) (h : mcanon d m = true) : mcanon d (minsert m a v) = true := by
  induction m with
  | nil => simp [minsert, mcanon, mabove, hv]
  | cons c m ih =>
    obtain ⟨x, y⟩ := c
    obtain ⟨h1, h2, h3⟩ := mcanon_cons.mp h
    by_cases h4 : a < x
    · have e : minsert ((x, y) :: m) a v = (a, v) :: (x, y) :: m := by simp [minsert, h4]
      rw [e]; refine mcanon_cons.mpr ⟨?_, hv, h⟩
      have := mabove_lt h4 h1
      simp only [mabove, List.all_cons, Bool.and_eq_true, decide_eq_true_eq]; exact ⟨h4, this⟩
    · by_cases h5 : a = x
      · subst h5; have e : minsert ((a, y) :: m) a v = (a, v) :: m := by simp [minsert]
        rw [e]; exact mcanon_cons.mpr ⟨h1, hv, h3⟩
      · have e : minsert ((x, y) :: m) a v = (x, y) :: minsert m a v := by simp [minsert, h4, h5]
        rw [e]; exact mcanon_cons.mpr ⟨minsert_above h1 (by omega), h2, ih h3⟩

/-- A write keeps the canonical form. -/
theorem mcanon_mwrite {d : ν} {m : List (Nat × ν)} (a : Nat) (v : ν) (h : mcanon d m = true) : mcanon d (mwrite d m a v) = true := by
  by_cases hv : v = d
  · simp [mwrite, hv]; exact mcanon_sublist (merase_sublist m a) h
  · simp [mwrite, hv]; exact mcanon_minsert a hv h

/-- So does the removal of cells. -/
theorem mcanon_filter {d : ν} {m : List (Nat × ν)} (p : Nat × ν → Bool) (h : mcanon d m = true) : mcanon d (m.filter p) = true :=
  mcanon_sublist List.filter_sublist h

/-- So do several writes in a row. -/
theorem mcanon_foldl_mwrite {α : Type} {d : ν} (l : List α) (k : α → Nat) (v : α → ν) {m : List (Nat × ν)} (h : mcanon d m = true) :
    mcanon d (l.foldl (fun x e => mwrite d x (k e) (v e)) m) = true := by
  induction l generalizing m with
  | nil => exact h
  | cons e l ih => exact ih (mcanon_mwrite _ _ h)

end Memories

end Sys2Proof.Machine
end

