-- ==== Sys2Proof/Laws/State.lean ====
section
/-! SUPPORT. For each basic update of the state and each field, what the update leaves of the field; and what the accessors read after an update. -/

namespace Sys2Proof.Machine

set_option Elab.async false

@[simp] theorem State.wr_pending (s : State) (r : RegName) (i : Nat) (f : FName) (v : Nat) : (s.wr r i f v).pending = s.pending := rfl
@[simp] theorem State.wr_part (s : State) (r : RegName) (i : Nat) (f : FName) (v : Nat) : (s.wr r i f v).part = s.part := rfl
@[simp] theorem State.wr_hold (s : State) (r : RegName) (i : Nat) (f : FName) (v : Nat) : (s.wr r i f v).hold = s.hold := rfl
@[simp] theorem State.wr_logAt (s : State) (r : RegName) (i : Nat) (f : FName) (v : Nat) : (s.wr r i f v).logAt = s.logAt := rfl
@[simp] theorem State.wr_camps (s : State) (r : RegName) (i : Nat) (f : FName) (v : Nat) : (s.wr r i f v).camps = s.camps := rfl
@[simp] theorem State.wr_clusters (s : State) (r : RegName) (i : Nat) (f : FName) (v : Nat) : (s.wr r i f v).clusters = s.clusters := rfl
@[simp] theorem State.wr_xing (s : State) (r : RegName) (i : Nat) (f : FName) (v : Nat) : (s.wr r i f v).xing = s.xing := rfl
@[simp] theorem State.wr_fifos (s : State) (r : RegName) (i : Nat) (f : FName) (v : Nat) : (s.wr r i f v).fifos = s.fifos := rfl
@[simp] theorem State.wr_host (s : State) (r : RegName) (i : Nat) (f : FName) (v : Nat) : (s.wr r i f v).host = s.host := rfl
@[simp] theorem State.wr_health (s : State) (r : RegName) (i : Nat) (f : FName) (v : Nat) : (s.wr r i f v).health = s.health := rfl
@[simp] theorem State.wr_deep (s : State) (r : RegName) (i : Nat) (f : FName) (v : Nat) : (s.wr r i f v).deep = s.deep := rfl
@[simp] theorem State.wr_keys (s : State) (r : RegName) (i : Nat) (f : FName) (v : Nat) : (s.wr r i f v).keys = s.keys := rfl
@[simp] theorem State.wr_load (s : State) (r : RegName) (i : Nat) (f : FName) (v : Nat) : (s.wr r i f v).load = s.load := rfl
@[simp] theorem State.wr_cores (s : State) (r : RegName) (i : Nat) (f : FName) (v : Nat) : (s.wr r i f v).cores = s.cores := rfl
@[simp] theorem State.wr_tasks (s : State) (r : RegName) (i : Nat) (f : FName) (v : Nat) : (s.wr r i f v).tasks = s.tasks := rfl
@[simp] theorem State.wr_flows (s : State) (r : RegName) (i : Nat) (f : FName) (v : Nat) : (s.wr r i f v).flows = s.flows := rfl
@[simp] theorem State.wr_stage (s : State) (r : RegName) (i : Nat) (f : FName) (v : Nat) : (s.wr r i f v).stage = s.stage := rfl
@[simp] theorem State.wr_unlisted (s : State) (r : RegName) (i : Nat) (f : FName) (v : Nat) : (s.wr r i f v).unlisted = s.unlisted := rfl
@[simp] theorem State.wr_chans (s : State) (r : RegName) (i : Nat) (f : FName) (v : Nat) : (s.wr r i f v).chans = s.chans := rfl
@[simp] theorem State.wr_trace (s : State) (r : RegName) (i : Nat) (f : FName) (v : Nat) : (s.wr r i f v).trace = s.trace := rfl
@[simp] theorem State.wr_acq (s : State) (r : RegName) (i : Nat) (f : FName) (v : Nat) : (s.wr r i f v).acq = s.acq := rfl
@[simp] theorem State.wr_time (s : State) (r : RegName) (i : Nat) (f : FName) (v : Nat) : (s.wr r i f v).time = s.time := rfl
@[simp] theorem State.wr_links (s : State) (r : RegName) (i : Nat) (f : FName) (v : Nat) : (s.wr r i f v).links = s.links := rfl
@[simp] theorem State.wr_fab (s : State) (r : RegName) (i : Nat) (f : FName) (v : Nat) : (s.wr r i f v).fab = s.fab := rfl
@[simp] theorem State.wr_noc (s : State) (r : RegName) (i : Nat) (f : FName) (v : Nat) : (s.wr r i f v).noc = s.noc := rfl
@[simp] theorem State.wr_power (s : State) (r : RegName) (i : Nat) (f : FName) (v : Nat) : (s.wr r i f v).power = s.power := rfl
@[simp] theorem State.wr_flash (s : State) (r : RegName) (i : Nat) (f : FName) (v : Nat) : (s.wr r i f v).flash = s.flash := rfl
@[simp] theorem State.wr_test (s : State) (r : RegName) (i : Nat) (f : FName) (v : Nat) : (s.wr r i f v).test = s.test := rfl
@[simp] theorem State.wr_now (s : State) (r : RegName) (i : Nat) (f : FName) (v : Nat) : (s.wr r i f v).now = s.now := rfl
@[simp] theorem State.wr_ticks (s : State) (r : RegName) (i : Nat) (f : FName) (v : Nat) : (s.wr r i f v).ticks = s.ticks := rfl
@[simp] theorem State.wr_out (s : State) (r : RegName) (i : Nat) (f : FName) (v : Nat) : (s.wr r i f v).out = s.out := rfl
@[simp] theorem State.wr_nextId (s : State) (r : RegName) (i : Nat) (f : FName) (v : Nat) : (s.wr r i f v).nextId = s.nextId := rfl
@[simp] theorem State.wr_draws (s : State) (r : RegName) (i : Nat) (f : FName) (v : Nat) : (s.wr r i f v).draws = s.draws := rfl

@[simp] theorem State.emit_pending (s : State) (o : Out) : (s.emit o).pending = s.pending := rfl
@[simp] theorem State.emit_part (s : State) (o : Out) : (s.emit o).part = s.part := rfl
@[simp] theorem State.emit_regs (s : State) (o : Out) : (s.emit o).regs = s.regs := rfl
@[simp] theorem State.emit_hold (s : State) (o : Out) : (s.emit o).hold = s.hold := rfl
@[simp] theorem State.emit_logAt (s : State) (o : Out) : (s.emit o).logAt = s.logAt := rfl
@[simp] theorem State.emit_camps (s : State) (o : Out) : (s.emit o).camps = s.camps := rfl
@[simp] theorem State.emit_clusters (s : State) (o : Out) : (s.emit o).clusters = s.clusters := rfl
@[simp] theorem State.emit_xing (s : State) (o : Out) : (s.emit o).xing = s.xing := rfl
@[simp] theorem State.emit_fifos (s : State) (o : Out) : (s.emit o).fifos = s.fifos := rfl
@[simp] theorem State.emit_host (s : State) (o : Out) : (s.emit o).host = s.host := rfl
@[simp] theorem State.emit_health (s : State) (o : Out) : (s.emit o).health = s.health := rfl
@[simp] theorem State.emit_deep (s : State) (o : Out) : (s.emit o).deep = s.deep := rfl
@[simp] theorem State.emit_keys (s : State) (o : Out) : (s.emit o).keys = s.keys := rfl
@[simp] theorem State.emit_load (s : State) (o : Out) : (s.emit o).load = s.load := rfl
@[simp] theorem State.emit_cores (s : State) (o : Out) : (s.emit o).cores = s.cores := rfl
@[simp] theorem State.emit_tasks (s : State) (o : Out) : (s.emit o).tasks = s.tasks := rfl
@[simp] theorem State.emit_flows (s : State) (o : Out) : (s.emit o).flows = s.flows := rfl
@[simp] theorem State.emit_stage (s : State) (o : Out) : (s.emit o).stage = s.stage := rfl
@[simp] theorem State.emit_unlisted (s : State) (o : Out) : (s.emit o).unlisted = s.unlisted := rfl
@[simp] theorem State.emit_chans (s : State) (o : Out) : (s.emit o).chans = s.chans := rfl
@[simp] theorem State.emit_trace (s : State) (o : Out) : (s.emit o).trace = s.trace := rfl
@[simp] theorem State.emit_acq (s : State) (o : Out) : (s.emit o).acq = s.acq := rfl
@[simp] theorem State.emit_time (s : State) (o : Out) : (s.emit o).time = s.time := rfl
@[simp] theorem State.emit_links (s : State) (o : Out) : (s.emit o).links = s.links := rfl
@[simp] theorem State.emit_fab (s : State) (o : Out) : (s.emit o).fab = s.fab := rfl
@[simp] theorem State.emit_noc (s : State) (o : Out) : (s.emit o).noc = s.noc := rfl
@[simp] theorem State.emit_power (s : State) (o : Out) : (s.emit o).power = s.power := rfl
@[simp] theorem State.emit_flash (s : State) (o : Out) : (s.emit o).flash = s.flash := rfl
@[simp] theorem State.emit_test (s : State) (o : Out) : (s.emit o).test = s.test := rfl
@[simp] theorem State.emit_now (s : State) (o : Out) : (s.emit o).now = s.now := rfl
@[simp] theorem State.emit_ticks (s : State) (o : Out) : (s.emit o).ticks = s.ticks := rfl
@[simp] theorem State.emit_nextId (s : State) (o : Out) : (s.emit o).nextId = s.nextId := rfl
@[simp] theorem State.emit_draws (s : State) (o : Out) : (s.emit o).draws = s.draws := rfl

@[simp] theorem State.draw_pending (s : State) : (s.draw).pending = s.pending := rfl
@[simp] theorem State.draw_part (s : State) : (s.draw).part = s.part := rfl
@[simp] theorem State.draw_regs (s : State) : (s.draw).regs = s.regs := rfl
@[simp] theorem State.draw_hold (s : State) : (s.draw).hold = s.hold := rfl
@[simp] theorem State.draw_logAt (s : State) : (s.draw).logAt = s.logAt := rfl
@[simp] theorem State.draw_camps (s : State) : (s.draw).camps = s.camps := rfl
@[simp] theorem State.draw_clusters (s : State) : (s.draw).clusters = s.clusters := rfl
@[simp] theorem State.draw_xing (s : State) : (s.draw).xing = s.xing := rfl
@[simp] theorem State.draw_fifos (s : State) : (s.draw).fifos = s.fifos := rfl
@[simp] theorem State.draw_host (s : State) : (s.draw).host = s.host := rfl
@[simp] theorem State.draw_health (s : State) : (s.draw).health = s.health := rfl
@[simp] theorem State.draw_deep (s : State) : (s.draw).deep = s.deep := rfl
@[simp] theorem State.draw_keys (s : State) : (s.draw).keys = s.keys := rfl
@[simp] theorem State.draw_load (s : State) : (s.draw).load = s.load := rfl
@[simp] theorem State.draw_cores (s : State) : (s.draw).cores = s.cores := rfl
@[simp] theorem State.draw_tasks (s : State) : (s.draw).tasks = s.tasks := rfl
@[simp] theorem State.draw_flows (s : State) : (s.draw).flows = s.flows := rfl
@[simp] theorem State.draw_stage (s : State) : (s.draw).stage = s.stage := rfl
@[simp] theorem State.draw_unlisted (s : State) : (s.draw).unlisted = s.unlisted := rfl
@[simp] theorem State.draw_chans (s : State) : (s.draw).chans = s.chans := rfl
@[simp] theorem State.draw_trace (s : State) : (s.draw).trace = s.trace := rfl
@[simp] theorem State.draw_acq (s : State) : (s.draw).acq = s.acq := rfl
@[simp] theorem State.draw_time (s : State) : (s.draw).time = s.time := rfl
@[simp] theorem State.draw_links (s : State) : (s.draw).links = s.links := rfl
@[simp] theorem State.draw_fab (s : State) : (s.draw).fab = s.fab := rfl
@[simp] theorem State.draw_noc (s : State) : (s.draw).noc = s.noc := rfl
@[simp] theorem State.draw_power (s : State) : (s.draw).power = s.power := rfl
@[simp] theorem State.draw_flash (s : State) : (s.draw).flash = s.flash := rfl
@[simp] theorem State.draw_test (s : State) : (s.draw).test = s.test := rfl
@[simp] theorem State.draw_now (s : State) : (s.draw).now = s.now := rfl
@[simp] theorem State.draw_ticks (s : State) : (s.draw).ticks = s.ticks := rfl
@[simp] theorem State.draw_out (s : State) : (s.draw).out = s.out := rfl
@[simp] theorem State.draw_nextId (s : State) : (s.draw).nextId = s.nextId := rfl

@[simp] theorem State.unhold_pending (s : State) (r : RegName) (i : Nat) : (s.unhold r i).pending = s.pending := rfl
@[simp] theorem State.unhold_part (s : State) (r : RegName) (i : Nat) : (s.unhold r i).part = s.part := rfl
@[simp] theorem State.unhold_regs (s : State) (r : RegName) (i : Nat) : (s.unhold r i).regs = s.regs := rfl
@[simp] theorem State.unhold_logAt (s : State) (r : RegName) (i : Nat) : (s.unhold r i).logAt = s.logAt := rfl
@[simp] theorem State.unhold_camps (s : State) (r : RegName) (i : Nat) : (s.unhold r i).camps = s.camps := rfl
@[simp] theorem State.unhold_clusters (s : State) (r : RegName) (i : Nat) : (s.unhold r i).clusters = s.clusters := rfl
@[simp] theorem State.unhold_xing (s : State) (r : RegName) (i : Nat) : (s.unhold r i).xing = s.xing := rfl
@[simp] theorem State.unhold_fifos (s : State) (r : RegName) (i : Nat) : (s.unhold r i).fifos = s.fifos := rfl
@[simp] theorem State.unhold_host (s : State) (r : RegName) (i : Nat) : (s.unhold r i).host = s.host := rfl
@[simp] theorem State.unhold_health (s : State) (r : RegName) (i : Nat) : (s.unhold r i).health = s.health := rfl
@[simp] theorem State.unhold_deep (s : State) (r : RegName) (i : Nat) : (s.unhold r i).deep = s.deep := rfl
@[simp] theorem State.unhold_keys (s : State) (r : RegName) (i : Nat) : (s.unhold r i).keys = s.keys := rfl
@[simp] theorem State.unhold_load (s : State) (r : RegName) (i : Nat) : (s.unhold r i).load = s.load := rfl
@[simp] theorem State.unhold_cores (s : State) (r : RegName) (i : Nat) : (s.unhold r i).cores = s.cores := rfl
@[simp] theorem State.unhold_tasks (s : State) (r : RegName) (i : Nat) : (s.unhold r i).tasks = s.tasks := rfl
@[simp] theorem State.unhold_flows (s : State) (r : RegName) (i : Nat) : (s.unhold r i).flows = s.flows := rfl
@[simp] theorem State.unhold_stage (s : State) (r : RegName) (i : Nat) : (s.unhold r i).stage = s.stage := rfl
@[simp] theorem State.unhold_unlisted (s : State) (r : RegName) (i : Nat) : (s.unhold r i).unlisted = s.unlisted := rfl
@[simp] theorem State.unhold_chans (s : State) (r : RegName) (i : Nat) : (s.unhold r i).chans = s.chans := rfl
@[simp] theorem State.unhold_trace (s : State) (r : RegName) (i : Nat) : (s.unhold r i).trace = s.trace := rfl
@[simp] theorem State.unhold_acq (s : State) (r : RegName) (i : Nat) : (s.unhold r i).acq = s.acq := rfl
@[simp] theorem State.unhold_time (s : State) (r : RegName) (i : Nat) : (s.unhold r i).time = s.time := rfl
@[simp] theorem State.unhold_links (s : State) (r : RegName) (i : Nat) : (s.unhold r i).links = s.links := rfl
@[simp] theorem State.unhold_fab (s : State) (r : RegName) (i : Nat) : (s.unhold r i).fab = s.fab := rfl
@[simp] theorem State.unhold_noc (s : State) (r : RegName) (i : Nat) : (s.unhold r i).noc = s.noc := rfl
@[simp] theorem State.unhold_power (s : State) (r : RegName) (i : Nat) : (s.unhold r i).power = s.power := rfl
@[simp] theorem State.unhold_flash (s : State) (r : RegName) (i : Nat) : (s.unhold r i).flash = s.flash := rfl
@[simp] theorem State.unhold_test (s : State) (r : RegName) (i : Nat) : (s.unhold r i).test = s.test := rfl
@[simp] theorem State.unhold_now (s : State) (r : RegName) (i : Nat) : (s.unhold r i).now = s.now := rfl
@[simp] theorem State.unhold_ticks (s : State) (r : RegName) (i : Nat) : (s.unhold r i).ticks = s.ticks := rfl
@[simp] theorem State.unhold_out (s : State) (r : RegName) (i : Nat) : (s.unhold r i).out = s.out := rfl
@[simp] theorem State.unhold_nextId (s : State) (r : RegName) (i : Nat) : (s.unhold r i).nextId = s.nextId := rfl
@[simp] theorem State.unhold_draws (s : State) (r : RegName) (i : Nat) : (s.unhold r i).draws = s.draws := rfl

@[simp] theorem State.modLogAt_pending (s : State) (f : List ((RegName × Nat) × List Nat) → List ((RegName × Nat) × List Nat)) : (s.modLogAt f).pending = s.pending := rfl
@[simp] theorem State.modLogAt_part (s : State) (f : List ((RegName × Nat) × List Nat) → List ((RegName × Nat) × List Nat)) : (s.modLogAt f).part = s.part := rfl
@[simp] theorem State.modLogAt_regs (s : State) (f : List ((RegName × Nat) × List Nat) → List ((RegName × Nat) × List Nat)) : (s.modLogAt f).regs = s.regs := rfl
@[simp] theorem State.modLogAt_hold (s : State) (f : List ((RegName × Nat) × List Nat) → List ((RegName × Nat) × List Nat)) : (s.modLogAt f).hold = s.hold := rfl
@[simp] theorem State.modLogAt_camps (s : State) (f : List ((RegName × Nat) × List Nat) → List ((RegName × Nat) × List Nat)) : (s.modLogAt f).camps = s.camps := rfl
@[simp] theorem State.modLogAt_clusters (s : State) (f : List ((RegName × Nat) × List Nat) → List ((RegName × Nat) × List Nat)) : (s.modLogAt f).clusters = s.clusters := rfl
@[simp] theorem State.modLogAt_xing (s : State) (f : List ((RegName × Nat) × List Nat) → List ((RegName × Nat) × List Nat)) : (s.modLogAt f).xing = s.xing := rfl
@[simp] theorem State.modLogAt_fifos (s : State) (f : List ((RegName × Nat) × List Nat) → List ((RegName × Nat) × List Nat)) : (s.modLogAt f).fifos = s.fifos := rfl
@[simp] theorem State.modLogAt_host (s : State) (f : List ((RegName × Nat) × List Nat) → List ((RegName × Nat) × List Nat)) : (s.modLogAt f).host = s.host := rfl
@[simp] theorem State.modLogAt_health (s : State) (f : List ((RegName × Nat) × List Nat) → List ((RegName × Nat) × List Nat)) : (s.modLogAt f).health = s.health := rfl
@[simp] theorem State.modLogAt_deep (s : State) (f : List ((RegName × Nat) × List Nat) → List ((RegName × Nat) × List Nat)) : (s.modLogAt f).deep = s.deep := rfl
@[simp] theorem State.modLogAt_keys (s : State) (f : List ((RegName × Nat) × List Nat) → List ((RegName × Nat) × List Nat)) : (s.modLogAt f).keys = s.keys := rfl
@[simp] theorem State.modLogAt_load (s : State) (f : List ((RegName × Nat) × List Nat) → List ((RegName × Nat) × List Nat)) : (s.modLogAt f).load = s.load := rfl
@[simp] theorem State.modLogAt_cores (s : State) (f : List ((RegName × Nat) × List Nat) → List ((RegName × Nat) × List Nat)) : (s.modLogAt f).cores = s.cores := rfl
@[simp] theorem State.modLogAt_tasks (s : State) (f : List ((RegName × Nat) × List Nat) → List ((RegName × Nat) × List Nat)) : (s.modLogAt f).tasks = s.tasks := rfl
@[simp] theorem State.modLogAt_flows (s : State) (f : List ((RegName × Nat) × List Nat) → List ((RegName × Nat) × List Nat)) : (s.modLogAt f).flows = s.flows := rfl
@[simp] theorem State.modLogAt_stage (s : State) (f : List ((RegName × Nat) × List Nat) → List ((RegName × Nat) × List Nat)) : (s.modLogAt f).stage = s.stage := rfl
@[simp] theorem State.modLogAt_unlisted (s : State) (f : List ((RegName × Nat) × List Nat) → List ((RegName × Nat) × List Nat)) : (s.modLogAt f).unlisted = s.unlisted := rfl
@[simp] theorem State.modLogAt_chans (s : State) (f : List ((RegName × Nat) × List Nat) → List ((RegName × Nat) × List Nat)) : (s.modLogAt f).chans = s.chans := rfl
@[simp] theorem State.modLogAt_trace (s : State) (f : List ((RegName × Nat) × List Nat) → List ((RegName × Nat) × List Nat)) : (s.modLogAt f).trace = s.trace := rfl
@[simp] theorem State.modLogAt_acq (s : State) (f : List ((RegName × Nat) × List Nat) → List ((RegName × Nat) × List Nat)) : (s.modLogAt f).acq = s.acq := rfl
@[simp] theorem State.modLogAt_time (s : State) (f : List ((RegName × Nat) × List Nat) → List ((RegName × Nat) × List Nat)) : (s.modLogAt f).time = s.time := rfl
@[simp] theorem State.modLogAt_links (s : State) (f : List ((RegName × Nat) × List Nat) → List ((RegName × Nat) × List Nat)) : (s.modLogAt f).links = s.links := rfl
@[simp] theorem State.modLogAt_fab (s : State) (f : List ((RegName × Nat) × List Nat) → List ((RegName × Nat) × List Nat)) : (s.modLogAt f).fab = s.fab := rfl
@[simp] theorem State.modLogAt_noc (s : State) (f : List ((RegName × Nat) × List Nat) → List ((RegName × Nat) × List Nat)) : (s.modLogAt f).noc = s.noc := rfl
@[simp] theorem State.modLogAt_power (s : State) (f : List ((RegName × Nat) × List Nat) → List ((RegName × Nat) × List Nat)) : (s.modLogAt f).power = s.power := rfl
@[simp] theorem State.modLogAt_flash (s : State) (f : List ((RegName × Nat) × List Nat) → List ((RegName × Nat) × List Nat)) : (s.modLogAt f).flash = s.flash := rfl
@[simp] theorem State.modLogAt_test (s : State) (f : List ((RegName × Nat) × List Nat) → List ((RegName × Nat) × List Nat)) : (s.modLogAt f).test = s.test := rfl
@[simp] theorem State.modLogAt_now (s : State) (f : List ((RegName × Nat) × List Nat) → List ((RegName × Nat) × List Nat)) : (s.modLogAt f).now = s.now := rfl
@[simp] theorem State.modLogAt_ticks (s : State) (f : List ((RegName × Nat) × List Nat) → List ((RegName × Nat) × List Nat)) : (s.modLogAt f).ticks = s.ticks := rfl
@[simp] theorem State.modLogAt_out (s : State) (f : List ((RegName × Nat) × List Nat) → List ((RegName × Nat) × List Nat)) : (s.modLogAt f).out = s.out := rfl
@[simp] theorem State.modLogAt_nextId (s : State) (f : List ((RegName × Nat) × List Nat) → List ((RegName × Nat) × List Nat)) : (s.modLogAt f).nextId = s.nextId := rfl
@[simp] theorem State.modLogAt_draws (s : State) (f : List ((RegName × Nat) × List Nat) → List ((RegName × Nat) × List Nat)) : (s.modLogAt f).draws = s.draws := rfl

@[simp] theorem State.modCamp_pending (s : State) (c : Nat) (f : Camp → Camp) : (s.modCamp c f).pending = s.pending := rfl
@[simp] theorem State.modCamp_part (s : State) (c : Nat) (f : Camp → Camp) : (s.modCamp c f).part = s.part := rfl
@[simp] theorem State.modCamp_regs (s : State) (c : Nat) (f : Camp → Camp) : (s.modCamp c f).regs = s.regs := rfl
@[simp] theorem State.modCamp_hold (s : State) (c : Nat) (f : Camp → Camp) : (s.modCamp c f).hold = s.hold := rfl
@[simp] theorem State.modCamp_logAt (s : State) (c : Nat) (f : Camp → Camp) : (s.modCamp c f).logAt = s.logAt := rfl
@[simp] theorem State.modCamp_clusters (s : State) (c : Nat) (f : Camp → Camp) : (s.modCamp c f).clusters = s.clusters := rfl
@[simp] theorem State.modCamp_xing (s : State) (c : Nat) (f : Camp → Camp) : (s.modCamp c f).xing = s.xing := rfl
@[simp] theorem State.modCamp_fifos (s : State) (c : Nat) (f : Camp → Camp) : (s.modCamp c f).fifos = s.fifos := rfl
@[simp] theorem State.modCamp_host (s : State) (c : Nat) (f : Camp → Camp) : (s.modCamp c f).host = s.host := rfl
@[simp] theorem State.modCamp_health (s : State) (c : Nat) (f : Camp → Camp) : (s.modCamp c f).health = s.health := rfl
@[simp] theorem State.modCamp_deep (s : State) (c : Nat) (f : Camp → Camp) : (s.modCamp c f).deep = s.deep := rfl
@[simp] theorem State.modCamp_keys (s : State) (c : Nat) (f : Camp → Camp) : (s.modCamp c f).keys = s.keys := rfl
@[simp] theorem State.modCamp_load (s : State) (c : Nat) (f : Camp → Camp) : (s.modCamp c f).load = s.load := rfl
@[simp] theorem State.modCamp_cores (s : State) (c : Nat) (f : Camp → Camp) : (s.modCamp c f).cores = s.cores := rfl
@[simp] theorem State.modCamp_tasks (s : State) (c : Nat) (f : Camp → Camp) : (s.modCamp c f).tasks = s.tasks := rfl
@[simp] theorem State.modCamp_flows (s : State) (c : Nat) (f : Camp → Camp) : (s.modCamp c f).flows = s.flows := rfl
@[simp] theorem State.modCamp_stage (s : State) (c : Nat) (f : Camp → Camp) : (s.modCamp c f).stage = s.stage := rfl
@[simp] theorem State.modCamp_unlisted (s : State) (c : Nat) (f : Camp → Camp) : (s.modCamp c f).unlisted = s.unlisted := rfl
@[simp] theorem State.modCamp_chans (s : State) (c : Nat) (f : Camp → Camp) : (s.modCamp c f).chans = s.chans := rfl
@[simp] theorem State.modCamp_trace (s : State) (c : Nat) (f : Camp → Camp) : (s.modCamp c f).trace = s.trace := rfl
@[simp] theorem State.modCamp_acq (s : State) (c : Nat) (f : Camp → Camp) : (s.modCamp c f).acq = s.acq := rfl
@[simp] theorem State.modCamp_time (s : State) (c : Nat) (f : Camp → Camp) : (s.modCamp c f).time = s.time := rfl
@[simp] theorem State.modCamp_links (s : State) (c : Nat) (f : Camp → Camp) : (s.modCamp c f).links = s.links := rfl
@[simp] theorem State.modCamp_fab (s : State) (c : Nat) (f : Camp → Camp) : (s.modCamp c f).fab = s.fab := rfl
@[simp] theorem State.modCamp_noc (s : State) (c : Nat) (f : Camp → Camp) : (s.modCamp c f).noc = s.noc := rfl
@[simp] theorem State.modCamp_power (s : State) (c : Nat) (f : Camp → Camp) : (s.modCamp c f).power = s.power := rfl
@[simp] theorem State.modCamp_flash (s : State) (c : Nat) (f : Camp → Camp) : (s.modCamp c f).flash = s.flash := rfl
@[simp] theorem State.modCamp_test (s : State) (c : Nat) (f : Camp → Camp) : (s.modCamp c f).test = s.test := rfl
@[simp] theorem State.modCamp_now (s : State) (c : Nat) (f : Camp → Camp) : (s.modCamp c f).now = s.now := rfl
@[simp] theorem State.modCamp_ticks (s : State) (c : Nat) (f : Camp → Camp) : (s.modCamp c f).ticks = s.ticks := rfl
@[simp] theorem State.modCamp_out (s : State) (c : Nat) (f : Camp → Camp) : (s.modCamp c f).out = s.out := rfl
@[simp] theorem State.modCamp_nextId (s : State) (c : Nat) (f : Camp → Camp) : (s.modCamp c f).nextId = s.nextId := rfl
@[simp] theorem State.modCamp_draws (s : State) (c : Nat) (f : Camp → Camp) : (s.modCamp c f).draws = s.draws := rfl

@[simp] theorem State.modCluster_pending (s : State) (k : Nat) (f : Cluster → Cluster) : (s.modCluster k f).pending = s.pending := rfl
@[simp] theorem State.modCluster_part (s : State) (k : Nat) (f : Cluster → Cluster) : (s.modCluster k f).part = s.part := rfl
@[simp] theorem State.modCluster_regs (s : State) (k : Nat) (f : Cluster → Cluster) : (s.modCluster k f).regs = s.regs := rfl
@[simp] theorem State.modCluster_hold (s : State) (k : Nat) (f : Cluster → Cluster) : (s.modCluster k f).hold = s.hold := rfl
@[simp] theorem State.modCluster_logAt (s : State) (k : Nat) (f : Cluster → Cluster) : (s.modCluster k f).logAt = s.logAt := rfl
@[simp] theorem State.modCluster_camps (s : State) (k : Nat) (f : Cluster → Cluster) : (s.modCluster k f).camps = s.camps := rfl
@[simp] theorem State.modCluster_xing (s : State) (k : Nat) (f : Cluster → Cluster) : (s.modCluster k f).xing = s.xing := rfl
@[simp] theorem State.modCluster_fifos (s : State) (k : Nat) (f : Cluster → Cluster) : (s.modCluster k f).fifos = s.fifos := rfl
@[simp] theorem State.modCluster_host (s : State) (k : Nat) (f : Cluster → Cluster) : (s.modCluster k f).host = s.host := rfl
@[simp] theorem State.modCluster_health (s : State) (k : Nat) (f : Cluster → Cluster) : (s.modCluster k f).health = s.health := rfl
@[simp] theorem State.modCluster_deep (s : State) (k : Nat) (f : Cluster → Cluster) : (s.modCluster k f).deep = s.deep := rfl
@[simp] theorem State.modCluster_keys (s : State) (k : Nat) (f : Cluster → Cluster) : (s.modCluster k f).keys = s.keys := rfl
@[simp] theorem State.modCluster_load (s : State) (k : Nat) (f : Cluster → Cluster) : (s.modCluster k f).load = s.load := rfl
@[simp] theorem State.modCluster_cores (s : State) (k : Nat) (f : Cluster → Cluster) : (s.modCluster k f).cores = s.cores := rfl
@[simp] theorem State.modCluster_tasks (s : State) (k : Nat) (f : Cluster → Cluster) : (s.modCluster k f).tasks = s.tasks := rfl
@[simp] theorem State.modCluster_flows (s : State) (k : Nat) (f : Cluster → Cluster) : (s.modCluster k f).flows = s.flows := rfl
@[simp] theorem State.modCluster_stage (s : State) (k : Nat) (f : Cluster → Cluster) : (s.modCluster k f).stage = s.stage := rfl
@[simp] theorem State.modCluster_unlisted (s : State) (k : Nat) (f : Cluster → Cluster) : (s.modCluster k f).unlisted = s.unlisted := rfl
@[simp] theorem State.modCluster_chans (s : State) (k : Nat) (f : Cluster → Cluster) : (s.modCluster k f).chans = s.chans := rfl
@[simp] theorem State.modCluster_trace (s : State) (k : Nat) (f : Cluster → Cluster) : (s.modCluster k f).trace = s.trace := rfl
@[simp] theorem State.modCluster_acq (s : State) (k : Nat) (f : Cluster → Cluster) : (s.modCluster k f).acq = s.acq := rfl
@[simp] theorem State.modCluster_time (s : State) (k : Nat) (f : Cluster → Cluster) : (s.modCluster k f).time = s.time := rfl
@[simp] theorem State.modCluster_links (s : State) (k : Nat) (f : Cluster → Cluster) : (s.modCluster k f).links = s.links := rfl
@[simp] theorem State.modCluster_fab (s : State) (k : Nat) (f : Cluster → Cluster) : (s.modCluster k f).fab = s.fab := rfl
@[simp] theorem State.modCluster_noc (s : State) (k : Nat) (f : Cluster → Cluster) : (s.modCluster k f).noc = s.noc := rfl
@[simp] theorem State.modCluster_power (s : State) (k : Nat) (f : Cluster → Cluster) : (s.modCluster k f).power = s.power := rfl
@[simp] theorem State.modCluster_flash (s : State) (k : Nat) (f : Cluster → Cluster) : (s.modCluster k f).flash = s.flash := rfl
@[simp] theorem State.modCluster_test (s : State) (k : Nat) (f : Cluster → Cluster) : (s.modCluster k f).test = s.test := rfl
@[simp] theorem State.modCluster_now (s : State) (k : Nat) (f : Cluster → Cluster) : (s.modCluster k f).now = s.now := rfl
@[simp] theorem State.modCluster_ticks (s : State) (k : Nat) (f : Cluster → Cluster) : (s.modCluster k f).ticks = s.ticks := rfl
@[simp] theorem State.modCluster_out (s : State) (k : Nat) (f : Cluster → Cluster) : (s.modCluster k f).out = s.out := rfl
@[simp] theorem State.modCluster_nextId (s : State) (k : Nat) (f : Cluster → Cluster) : (s.modCluster k f).nextId = s.nextId := rfl
@[simp] theorem State.modCluster_draws (s : State) (k : Nat) (f : Cluster → Cluster) : (s.modCluster k f).draws = s.draws := rfl

@[simp] theorem State.modFifo_pending (s : State) (q : FifoId) (f : Fifo → Fifo) : (s.modFifo q f).pending = s.pending := rfl
@[simp] theorem State.modFifo_part (s : State) (q : FifoId) (f : Fifo → Fifo) : (s.modFifo q f).part = s.part := rfl
@[simp] theorem State.modFifo_regs (s : State) (q : FifoId) (f : Fifo → Fifo) : (s.modFifo q f).regs = s.regs := rfl
@[simp] theorem State.modFifo_hold (s : State) (q : FifoId) (f : Fifo → Fifo) : (s.modFifo q f).hold = s.hold := rfl
@[simp] theorem State.modFifo_logAt (s : State) (q : FifoId) (f : Fifo → Fifo) : (s.modFifo q f).logAt = s.logAt := rfl
@[simp] theorem State.modFifo_camps (s : State) (q : FifoId) (f : Fifo → Fifo) : (s.modFifo q f).camps = s.camps := rfl
@[simp] theorem State.modFifo_clusters (s : State) (q : FifoId) (f : Fifo → Fifo) : (s.modFifo q f).clusters = s.clusters := rfl
@[simp] theorem State.modFifo_xing (s : State) (q : FifoId) (f : Fifo → Fifo) : (s.modFifo q f).xing = s.xing := rfl
@[simp] theorem State.modFifo_host (s : State) (q : FifoId) (f : Fifo → Fifo) : (s.modFifo q f).host = s.host := rfl
@[simp] theorem State.modFifo_health (s : State) (q : FifoId) (f : Fifo → Fifo) : (s.modFifo q f).health = s.health := rfl
@[simp] theorem State.modFifo_deep (s : State) (q : FifoId) (f : Fifo → Fifo) : (s.modFifo q f).deep = s.deep := rfl
@[simp] theorem State.modFifo_keys (s : State) (q : FifoId) (f : Fifo → Fifo) : (s.modFifo q f).keys = s.keys := rfl
@[simp] theorem State.modFifo_load (s : State) (q : FifoId) (f : Fifo → Fifo) : (s.modFifo q f).load = s.load := rfl
@[simp] theorem State.modFifo_cores (s : State) (q : FifoId) (f : Fifo → Fifo) : (s.modFifo q f).cores = s.cores := rfl
@[simp] theorem State.modFifo_tasks (s : State) (q : FifoId) (f : Fifo → Fifo) : (s.modFifo q f).tasks = s.tasks := rfl
@[simp] theorem State.modFifo_flows (s : State) (q : FifoId) (f : Fifo → Fifo) : (s.modFifo q f).flows = s.flows := rfl
@[simp] theorem State.modFifo_stage (s : State) (q : FifoId) (f : Fifo → Fifo) : (s.modFifo q f).stage = s.stage := rfl
@[simp] theorem State.modFifo_unlisted (s : State) (q : FifoId) (f : Fifo → Fifo) : (s.modFifo q f).unlisted = s.unlisted := rfl
@[simp] theorem State.modFifo_chans (s : State) (q : FifoId) (f : Fifo → Fifo) : (s.modFifo q f).chans = s.chans := rfl
@[simp] theorem State.modFifo_trace (s : State) (q : FifoId) (f : Fifo → Fifo) : (s.modFifo q f).trace = s.trace := rfl
@[simp] theorem State.modFifo_acq (s : State) (q : FifoId) (f : Fifo → Fifo) : (s.modFifo q f).acq = s.acq := rfl
@[simp] theorem State.modFifo_time (s : State) (q : FifoId) (f : Fifo → Fifo) : (s.modFifo q f).time = s.time := rfl
@[simp] theorem State.modFifo_links (s : State) (q : FifoId) (f : Fifo → Fifo) : (s.modFifo q f).links = s.links := rfl
@[simp] theorem State.modFifo_fab (s : State) (q : FifoId) (f : Fifo → Fifo) : (s.modFifo q f).fab = s.fab := rfl
@[simp] theorem State.modFifo_noc (s : State) (q : FifoId) (f : Fifo → Fifo) : (s.modFifo q f).noc = s.noc := rfl
@[simp] theorem State.modFifo_power (s : State) (q : FifoId) (f : Fifo → Fifo) : (s.modFifo q f).power = s.power := rfl
@[simp] theorem State.modFifo_flash (s : State) (q : FifoId) (f : Fifo → Fifo) : (s.modFifo q f).flash = s.flash := rfl
@[simp] theorem State.modFifo_test (s : State) (q : FifoId) (f : Fifo → Fifo) : (s.modFifo q f).test = s.test := rfl
@[simp] theorem State.modFifo_now (s : State) (q : FifoId) (f : Fifo → Fifo) : (s.modFifo q f).now = s.now := rfl
@[simp] theorem State.modFifo_ticks (s : State) (q : FifoId) (f : Fifo → Fifo) : (s.modFifo q f).ticks = s.ticks := rfl
@[simp] theorem State.modFifo_out (s : State) (q : FifoId) (f : Fifo → Fifo) : (s.modFifo q f).out = s.out := rfl
@[simp] theorem State.modFifo_nextId (s : State) (q : FifoId) (f : Fifo → Fifo) : (s.modFifo q f).nextId = s.nextId := rfl
@[simp] theorem State.modFifo_draws (s : State) (q : FifoId) (f : Fifo → Fifo) : (s.modFifo q f).draws = s.draws := rfl

@[simp] theorem State.modDeep_pending (s : State) (f : Deep → Deep) : (s.modDeep f).pending = s.pending := rfl
@[simp] theorem State.modDeep_part (s : State) (f : Deep → Deep) : (s.modDeep f).part = s.part := rfl
@[simp] theorem State.modDeep_regs (s : State) (f : Deep → Deep) : (s.modDeep f).regs = s.regs := rfl
@[simp] theorem State.modDeep_hold (s : State) (f : Deep → Deep) : (s.modDeep f).hold = s.hold := rfl
@[simp] theorem State.modDeep_logAt (s : State) (f : Deep → Deep) : (s.modDeep f).logAt = s.logAt := rfl
@[simp] theorem State.modDeep_camps (s : State) (f : Deep → Deep) : (s.modDeep f).camps = s.camps := rfl
@[simp] theorem State.modDeep_clusters (s : State) (f : Deep → Deep) : (s.modDeep f).clusters = s.clusters := rfl
@[simp] theorem State.modDeep_xing (s : State) (f : Deep → Deep) : (s.modDeep f).xing = s.xing := rfl
@[simp] theorem State.modDeep_fifos (s : State) (f : Deep → Deep) : (s.modDeep f).fifos = s.fifos := rfl
@[simp] theorem State.modDeep_host (s : State) (f : Deep → Deep) : (s.modDeep f).host = s.host := rfl
@[simp] theorem State.modDeep_health (s : State) (f : Deep → Deep) : (s.modDeep f).health = s.health := rfl
@[simp] theorem State.modDeep_keys (s : State) (f : Deep → Deep) : (s.modDeep f).keys = s.keys := rfl
@[simp] theorem State.modDeep_load (s : State) (f : Deep → Deep) : (s.modDeep f).load = s.load := rfl
@[simp] theorem State.modDeep_cores (s : State) (f : Deep → Deep) : (s.modDeep f).cores = s.cores := rfl
@[simp] theorem State.modDeep_tasks (s : State) (f : Deep → Deep) : (s.modDeep f).tasks = s.tasks := rfl
@[simp] theorem State.modDeep_flows (s : State) (f : Deep → Deep) : (s.modDeep f).flows = s.flows := rfl
@[simp] theorem State.modDeep_stage (s : State) (f : Deep → Deep) : (s.modDeep f).stage = s.stage := rfl
@[simp] theorem State.modDeep_unlisted (s : State) (f : Deep → Deep) : (s.modDeep f).unlisted = s.unlisted := rfl
@[simp] theorem State.modDeep_chans (s : State) (f : Deep → Deep) : (s.modDeep f).chans = s.chans := rfl
@[simp] theorem State.modDeep_trace (s : State) (f : Deep → Deep) : (s.modDeep f).trace = s.trace := rfl
@[simp] theorem State.modDeep_acq (s : State) (f : Deep → Deep) : (s.modDeep f).acq = s.acq := rfl
@[simp] theorem State.modDeep_time (s : State) (f : Deep → Deep) : (s.modDeep f).time = s.time := rfl
@[simp] theorem State.modDeep_links (s : State) (f : Deep → Deep) : (s.modDeep f).links = s.links := rfl
@[simp] theorem State.modDeep_fab (s : State) (f : Deep → Deep) : (s.modDeep f).fab = s.fab := rfl
@[simp] theorem State.modDeep_noc (s : State) (f : Deep → Deep) : (s.modDeep f).noc = s.noc := rfl
@[simp] theorem State.modDeep_power (s : State) (f : Deep → Deep) : (s.modDeep f).power = s.power := rfl
@[simp] theorem State.modDeep_flash (s : State) (f : Deep → Deep) : (s.modDeep f).flash = s.flash := rfl
@[simp] theorem State.modDeep_test (s : State) (f : Deep → Deep) : (s.modDeep f).test = s.test := rfl
@[simp] theorem State.modDeep_now (s : State) (f : Deep → Deep) : (s.modDeep f).now = s.now := rfl
@[simp] theorem State.modDeep_ticks (s : State) (f : Deep → Deep) : (s.modDeep f).ticks = s.ticks := rfl
@[simp] theorem State.modDeep_out (s : State) (f : Deep → Deep) : (s.modDeep f).out = s.out := rfl
@[simp] theorem State.modDeep_nextId (s : State) (f : Deep → Deep) : (s.modDeep f).nextId = s.nextId := rfl
@[simp] theorem State.modDeep_draws (s : State) (f : Deep → Deep) : (s.modDeep f).draws = s.draws := rfl

@[simp] theorem State.modKeys_pending (s : State) (f : KeyStore → KeyStore) : (s.modKeys f).pending = s.pending := rfl
@[simp] theorem State.modKeys_part (s : State) (f : KeyStore → KeyStore) : (s.modKeys f).part = s.part := rfl
@[simp] theorem State.modKeys_regs (s : State) (f : KeyStore → KeyStore) : (s.modKeys f).regs = s.regs := rfl
@[simp] theorem State.modKeys_hold (s : State) (f : KeyStore → KeyStore) : (s.modKeys f).hold = s.hold := rfl
@[simp] theorem State.modKeys_logAt (s : State) (f : KeyStore → KeyStore) : (s.modKeys f).logAt = s.logAt := rfl
@[simp] theorem State.modKeys_camps (s : State) (f : KeyStore → KeyStore) : (s.modKeys f).camps = s.camps := rfl
@[simp] theorem State.modKeys_clusters (s : State) (f : KeyStore → KeyStore) : (s.modKeys f).clusters = s.clusters := rfl
@[simp] theorem State.modKeys_xing (s : State) (f : KeyStore → KeyStore) : (s.modKeys f).xing = s.xing := rfl
@[simp] theorem State.modKeys_fifos (s : State) (f : KeyStore → KeyStore) : (s.modKeys f).fifos = s.fifos := rfl
@[simp] theorem State.modKeys_host (s : State) (f : KeyStore → KeyStore) : (s.modKeys f).host = s.host := rfl
@[simp] theorem State.modKeys_health (s : State) (f : KeyStore → KeyStore) : (s.modKeys f).health = s.health := rfl
@[simp] theorem State.modKeys_deep (s : State) (f : KeyStore → KeyStore) : (s.modKeys f).deep = s.deep := rfl
@[simp] theorem State.modKeys_load (s : State) (f : KeyStore → KeyStore) : (s.modKeys f).load = s.load := rfl
@[simp] theorem State.modKeys_cores (s : State) (f : KeyStore → KeyStore) : (s.modKeys f).cores = s.cores := rfl
@[simp] theorem State.modKeys_tasks (s : State) (f : KeyStore → KeyStore) : (s.modKeys f).tasks = s.tasks := rfl
@[simp] theorem State.modKeys_flows (s : State) (f : KeyStore → KeyStore) : (s.modKeys f).flows = s.flows := rfl
@[simp] theorem State.modKeys_stage (s : State) (f : KeyStore → KeyStore) : (s.modKeys f).stage = s.stage := rfl
@[simp] theorem State.modKeys_unlisted (s : State) (f : KeyStore → KeyStore) : (s.modKeys f).unlisted = s.unlisted := rfl
@[simp] theorem State.modKeys_chans (s : State) (f : KeyStore → KeyStore) : (s.modKeys f).chans = s.chans := rfl
@[simp] theorem State.modKeys_trace (s : State) (f : KeyStore → KeyStore) : (s.modKeys f).trace = s.trace := rfl
@[simp] theorem State.modKeys_acq (s : State) (f : KeyStore → KeyStore) : (s.modKeys f).acq = s.acq := rfl
@[simp] theorem State.modKeys_time (s : State) (f : KeyStore → KeyStore) : (s.modKeys f).time = s.time := rfl
@[simp] theorem State.modKeys_links (s : State) (f : KeyStore → KeyStore) : (s.modKeys f).links = s.links := rfl
@[simp] theorem State.modKeys_fab (s : State) (f : KeyStore → KeyStore) : (s.modKeys f).fab = s.fab := rfl
@[simp] theorem State.modKeys_noc (s : State) (f : KeyStore → KeyStore) : (s.modKeys f).noc = s.noc := rfl
@[simp] theorem State.modKeys_power (s : State) (f : KeyStore → KeyStore) : (s.modKeys f).power = s.power := rfl
@[simp] theorem State.modKeys_flash (s : State) (f : KeyStore → KeyStore) : (s.modKeys f).flash = s.flash := rfl
@[simp] theorem State.modKeys_test (s : State) (f : KeyStore → KeyStore) : (s.modKeys f).test = s.test := rfl
@[simp] theorem State.modKeys_now (s : State) (f : KeyStore → KeyStore) : (s.modKeys f).now = s.now := rfl
@[simp] theorem State.modKeys_ticks (s : State) (f : KeyStore → KeyStore) : (s.modKeys f).ticks = s.ticks := rfl
@[simp] theorem State.modKeys_out (s : State) (f : KeyStore → KeyStore) : (s.modKeys f).out = s.out := rfl
@[simp] theorem State.modKeys_nextId (s : State) (f : KeyStore → KeyStore) : (s.modKeys f).nextId = s.nextId := rfl
@[simp] theorem State.modKeys_draws (s : State) (f : KeyStore → KeyStore) : (s.modKeys f).draws = s.draws := rfl

@[simp] theorem State.modLoad_pending (s : State) (f : Load → Load) : (s.modLoad f).pending = s.pending := rfl
@[simp] theorem State.modLoad_part (s : State) (f : Load → Load) : (s.modLoad f).part = s.part := rfl
@[simp] theorem State.modLoad_regs (s : State) (f : Load → Load) : (s.modLoad f).regs = s.regs := rfl
@[simp] theorem State.modLoad_hold (s : State) (f : Load → Load) : (s.modLoad f).hold = s.hold := rfl
@[simp] theorem State.modLoad_logAt (s : State) (f : Load → Load) : (s.modLoad f).logAt = s.logAt := rfl
@[simp] theorem State.modLoad_camps (s : State) (f : Load → Load) : (s.modLoad f).camps = s.camps := rfl
@[simp] theorem State.modLoad_clusters (s : State) (f : Load → Load) : (s.modLoad f).clusters = s.clusters := rfl
@[simp] theorem State.modLoad_xing (s : State) (f : Load → Load) : (s.modLoad f).xing = s.xing := rfl
@[simp] theorem State.modLoad_fifos (s : State) (f : Load → Load) : (s.modLoad f).fifos = s.fifos := rfl
@[simp] theorem State.modLoad_host (s : State) (f : Load → Load) : (s.modLoad f).host = s.host := rfl
@[simp] theorem State.modLoad_health (s : State) (f : Load → Load) : (s.modLoad f).health = s.health := rfl
@[simp] theorem State.modLoad_deep (s : State) (f : Load → Load) : (s.modLoad f).deep = s.deep := rfl
@[simp] theorem State.modLoad_keys (s : State) (f : Load → Load) : (s.modLoad f).keys = s.keys := rfl
@[simp] theorem State.modLoad_cores (s : State) (f : Load → Load) : (s.modLoad f).cores = s.cores := rfl
@[simp] theorem State.modLoad_tasks (s : State) (f : Load → Load) : (s.modLoad f).tasks = s.tasks := rfl
@[simp] theorem State.modLoad_flows (s : State) (f : Load → Load) : (s.modLoad f).flows = s.flows := rfl
@[simp] theorem State.modLoad_stage (s : State) (f : Load → Load) : (s.modLoad f).stage = s.stage := rfl
@[simp] theorem State.modLoad_unlisted (s : State) (f : Load → Load) : (s.modLoad f).unlisted = s.unlisted := rfl
@[simp] theorem State.modLoad_chans (s : State) (f : Load → Load) : (s.modLoad f).chans = s.chans := rfl
@[simp] theorem State.modLoad_trace (s : State) (f : Load → Load) : (s.modLoad f).trace = s.trace := rfl
@[simp] theorem State.modLoad_acq (s : State) (f : Load → Load) : (s.modLoad f).acq = s.acq := rfl
@[simp] theorem State.modLoad_time (s : State) (f : Load → Load) : (s.modLoad f).time = s.time := rfl
@[simp] theorem State.modLoad_links (s : State) (f : Load → Load) : (s.modLoad f).links = s.links := rfl
@[simp] theorem State.modLoad_fab (s : State) (f : Load → Load) : (s.modLoad f).fab = s.fab := rfl
@[simp] theorem State.modLoad_noc (s : State) (f : Load → Load) : (s.modLoad f).noc = s.noc := rfl
@[simp] theorem State.modLoad_power (s : State) (f : Load → Load) : (s.modLoad f).power = s.power := rfl
@[simp] theorem State.modLoad_flash (s : State) (f : Load → Load) : (s.modLoad f).flash = s.flash := rfl
@[simp] theorem State.modLoad_test (s : State) (f : Load → Load) : (s.modLoad f).test = s.test := rfl
@[simp] theorem State.modLoad_now (s : State) (f : Load → Load) : (s.modLoad f).now = s.now := rfl
@[simp] theorem State.modLoad_ticks (s : State) (f : Load → Load) : (s.modLoad f).ticks = s.ticks := rfl
@[simp] theorem State.modLoad_out (s : State) (f : Load → Load) : (s.modLoad f).out = s.out := rfl
@[simp] theorem State.modLoad_nextId (s : State) (f : Load → Load) : (s.modLoad f).nextId = s.nextId := rfl
@[simp] theorem State.modLoad_draws (s : State) (f : Load → Load) : (s.modLoad f).draws = s.draws := rfl

@[simp] theorem State.modCore_pending (s : State) (k : Nat) (f : Core → Core) : (s.modCore k f).pending = s.pending := rfl
@[simp] theorem State.modCore_part (s : State) (k : Nat) (f : Core → Core) : (s.modCore k f).part = s.part := rfl
@[simp] theorem State.modCore_regs (s : State) (k : Nat) (f : Core → Core) : (s.modCore k f).regs = s.regs := rfl
@[simp] theorem State.modCore_hold (s : State) (k : Nat) (f : Core → Core) : (s.modCore k f).hold = s.hold := rfl
@[simp] theorem State.modCore_logAt (s : State) (k : Nat) (f : Core → Core) : (s.modCore k f).logAt = s.logAt := rfl
@[simp] theorem State.modCore_camps (s : State) (k : Nat) (f : Core → Core) : (s.modCore k f).camps = s.camps := rfl
@[simp] theorem State.modCore_clusters (s : State) (k : Nat) (f : Core → Core) : (s.modCore k f).clusters = s.clusters := rfl
@[simp] theorem State.modCore_xing (s : State) (k : Nat) (f : Core → Core) : (s.modCore k f).xing = s.xing := rfl
@[simp] theorem State.modCore_fifos (s : State) (k : Nat) (f : Core → Core) : (s.modCore k f).fifos = s.fifos := rfl
@[simp] theorem State.modCore_host (s : State) (k : Nat) (f : Core → Core) : (s.modCore k f).host = s.host := rfl
@[simp] theorem State.modCore_health (s : State) (k : Nat) (f : Core → Core) : (s.modCore k f).health = s.health := rfl
@[simp] theorem State.modCore_deep (s : State) (k : Nat) (f : Core → Core) : (s.modCore k f).deep = s.deep := rfl
@[simp] theorem State.modCore_keys (s : State) (k : Nat) (f : Core → Core) : (s.modCore k f).keys = s.keys := rfl
@[simp] theorem State.modCore_load (s : State) (k : Nat) (f : Core → Core) : (s.modCore k f).load = s.load := rfl
@[simp] theorem State.modCore_tasks (s : State) (k : Nat) (f : Core → Core) : (s.modCore k f).tasks = s.tasks := rfl
@[simp] theorem State.modCore_flows (s : State) (k : Nat) (f : Core → Core) : (s.modCore k f).flows = s.flows := rfl
@[simp] theorem State.modCore_stage (s : State) (k : Nat) (f : Core → Core) : (s.modCore k f).stage = s.stage := rfl
@[simp] theorem State.modCore_unlisted (s : State) (k : Nat) (f : Core → Core) : (s.modCore k f).unlisted = s.unlisted := rfl
@[simp] theorem State.modCore_chans (s : State) (k : Nat) (f : Core → Core) : (s.modCore k f).chans = s.chans := rfl
@[simp] theorem State.modCore_trace (s : State) (k : Nat) (f : Core → Core) : (s.modCore k f).trace = s.trace := rfl
@[simp] theorem State.modCore_acq (s : State) (k : Nat) (f : Core → Core) : (s.modCore k f).acq = s.acq := rfl
@[simp] theorem State.modCore_time (s : State) (k : Nat) (f : Core → Core) : (s.modCore k f).time = s.time := rfl
@[simp] theorem State.modCore_links (s : State) (k : Nat) (f : Core → Core) : (s.modCore k f).links = s.links := rfl
@[simp] theorem State.modCore_fab (s : State) (k : Nat) (f : Core → Core) : (s.modCore k f).fab = s.fab := rfl
@[simp] theorem State.modCore_noc (s : State) (k : Nat) (f : Core → Core) : (s.modCore k f).noc = s.noc := rfl
@[simp] theorem State.modCore_power (s : State) (k : Nat) (f : Core → Core) : (s.modCore k f).power = s.power := rfl
@[simp] theorem State.modCore_flash (s : State) (k : Nat) (f : Core → Core) : (s.modCore k f).flash = s.flash := rfl
@[simp] theorem State.modCore_test (s : State) (k : Nat) (f : Core → Core) : (s.modCore k f).test = s.test := rfl
@[simp] theorem State.modCore_now (s : State) (k : Nat) (f : Core → Core) : (s.modCore k f).now = s.now := rfl
@[simp] theorem State.modCore_ticks (s : State) (k : Nat) (f : Core → Core) : (s.modCore k f).ticks = s.ticks := rfl
@[simp] theorem State.modCore_out (s : State) (k : Nat) (f : Core → Core) : (s.modCore k f).out = s.out := rfl
@[simp] theorem State.modCore_nextId (s : State) (k : Nat) (f : Core → Core) : (s.modCore k f).nextId = s.nextId := rfl
@[simp] theorem State.modCore_draws (s : State) (k : Nat) (f : Core → Core) : (s.modCore k f).draws = s.draws := rfl

@[simp] theorem State.modTask_pending (s : State) (k : Nat) (f : Task → Task) : (s.modTask k f).pending = s.pending := rfl
@[simp] theorem State.modTask_part (s : State) (k : Nat) (f : Task → Task) : (s.modTask k f).part = s.part := rfl
@[simp] theorem State.modTask_regs (s : State) (k : Nat) (f : Task → Task) : (s.modTask k f).regs = s.regs := rfl
@[simp] theorem State.modTask_hold (s : State) (k : Nat) (f : Task → Task) : (s.modTask k f).hold = s.hold := rfl
@[simp] theorem State.modTask_logAt (s : State) (k : Nat) (f : Task → Task) : (s.modTask k f).logAt = s.logAt := rfl
@[simp] theorem State.modTask_camps (s : State) (k : Nat) (f : Task → Task) : (s.modTask k f).camps = s.camps := rfl
@[simp] theorem State.modTask_clusters (s : State) (k : Nat) (f : Task → Task) : (s.modTask k f).clusters = s.clusters := rfl
@[simp] theorem State.modTask_xing (s : State) (k : Nat) (f : Task → Task) : (s.modTask k f).xing = s.xing := rfl
@[simp] theorem State.modTask_fifos (s : State) (k : Nat) (f : Task → Task) : (s.modTask k f).fifos = s.fifos := rfl
@[simp] theorem State.modTask_host (s : State) (k : Nat) (f : Task → Task) : (s.modTask k f).host = s.host := rfl
@[simp] theorem State.modTask_health (s : State) (k : Nat) (f : Task → Task) : (s.modTask k f).health = s.health := rfl
@[simp] theorem State.modTask_deep (s : State) (k : Nat) (f : Task → Task) : (s.modTask k f).deep = s.deep := rfl
@[simp] theorem State.modTask_keys (s : State) (k : Nat) (f : Task → Task) : (s.modTask k f).keys = s.keys := rfl
@[simp] theorem State.modTask_load (s : State) (k : Nat) (f : Task → Task) : (s.modTask k f).load = s.load := rfl
@[simp] theorem State.modTask_cores (s : State) (k : Nat) (f : Task → Task) : (s.modTask k f).cores = s.cores := rfl
@[simp] theorem State.modTask_flows (s : State) (k : Nat) (f : Task → Task) : (s.modTask k f).flows = s.flows := rfl
@[simp] theorem State.modTask_stage (s : State) (k : Nat) (f : Task → Task) : (s.modTask k f).stage = s.stage := rfl
@[simp] theorem State.modTask_unlisted (s : State) (k : Nat) (f : Task → Task) : (s.modTask k f).unlisted = s.unlisted := rfl
@[simp] theorem State.modTask_chans (s : State) (k : Nat) (f : Task → Task) : (s.modTask k f).chans = s.chans := rfl
@[simp] theorem State.modTask_trace (s : State) (k : Nat) (f : Task → Task) : (s.modTask k f).trace = s.trace := rfl
@[simp] theorem State.modTask_acq (s : State) (k : Nat) (f : Task → Task) : (s.modTask k f).acq = s.acq := rfl
@[simp] theorem State.modTask_time (s : State) (k : Nat) (f : Task → Task) : (s.modTask k f).time = s.time := rfl
@[simp] theorem State.modTask_links (s : State) (k : Nat) (f : Task → Task) : (s.modTask k f).links = s.links := rfl
@[simp] theorem State.modTask_fab (s : State) (k : Nat) (f : Task → Task) : (s.modTask k f).fab = s.fab := rfl
@[simp] theorem State.modTask_noc (s : State) (k : Nat) (f : Task → Task) : (s.modTask k f).noc = s.noc := rfl
@[simp] theorem State.modTask_power (s : State) (k : Nat) (f : Task → Task) : (s.modTask k f).power = s.power := rfl
@[simp] theorem State.modTask_flash (s : State) (k : Nat) (f : Task → Task) : (s.modTask k f).flash = s.flash := rfl
@[simp] theorem State.modTask_test (s : State) (k : Nat) (f : Task → Task) : (s.modTask k f).test = s.test := rfl
@[simp] theorem State.modTask_now (s : State) (k : Nat) (f : Task → Task) : (s.modTask k f).now = s.now := rfl
@[simp] theorem State.modTask_ticks (s : State) (k : Nat) (f : Task → Task) : (s.modTask k f).ticks = s.ticks := rfl
@[simp] theorem State.modTask_out (s : State) (k : Nat) (f : Task → Task) : (s.modTask k f).out = s.out := rfl
@[simp] theorem State.modTask_nextId (s : State) (k : Nat) (f : Task → Task) : (s.modTask k f).nextId = s.nextId := rfl
@[simp] theorem State.modTask_draws (s : State) (k : Nat) (f : Task → Task) : (s.modTask k f).draws = s.draws := rfl

@[simp] theorem State.modFlow_pending (s : State) (k : Nat) (f : Flow → Flow) : (s.modFlow k f).pending = s.pending := rfl
@[simp] theorem State.modFlow_part (s : State) (k : Nat) (f : Flow → Flow) : (s.modFlow k f).part = s.part := rfl
@[simp] theorem State.modFlow_regs (s : State) (k : Nat) (f : Flow → Flow) : (s.modFlow k f).regs = s.regs := rfl
@[simp] theorem State.modFlow_hold (s : State) (k : Nat) (f : Flow → Flow) : (s.modFlow k f).hold = s.hold := rfl
@[simp] theorem State.modFlow_logAt (s : State) (k : Nat) (f : Flow → Flow) : (s.modFlow k f).logAt = s.logAt := rfl
@[simp] theorem State.modFlow_camps (s : State) (k : Nat) (f : Flow → Flow) : (s.modFlow k f).camps = s.camps := rfl
@[simp] theorem State.modFlow_clusters (s : State) (k : Nat) (f : Flow → Flow) : (s.modFlow k f).clusters = s.clusters := rfl
@[simp] theorem State.modFlow_xing (s : State) (k : Nat) (f : Flow → Flow) : (s.modFlow k f).xing = s.xing := rfl
@[simp] theorem State.modFlow_fifos (s : State) (k : Nat) (f : Flow → Flow) : (s.modFlow k f).fifos = s.fifos := rfl
@[simp] theorem State.modFlow_host (s : State) (k : Nat) (f : Flow → Flow) : (s.modFlow k f).host = s.host := rfl
@[simp] theorem State.modFlow_health (s : State) (k : Nat) (f : Flow → Flow) : (s.modFlow k f).health = s.health := rfl
@[simp] theorem State.modFlow_deep (s : State) (k : Nat) (f : Flow → Flow) : (s.modFlow k f).deep = s.deep := rfl
@[simp] theorem State.modFlow_keys (s : State) (k : Nat) (f : Flow → Flow) : (s.modFlow k f).keys = s.keys := rfl
@[simp] theorem State.modFlow_load (s : State) (k : Nat) (f : Flow → Flow) : (s.modFlow k f).load = s.load := rfl
@[simp] theorem State.modFlow_cores (s : State) (k : Nat) (f : Flow → Flow) : (s.modFlow k f).cores = s.cores := rfl
@[simp] theorem State.modFlow_tasks (s : State) (k : Nat) (f : Flow → Flow) : (s.modFlow k f).tasks = s.tasks := rfl
@[simp] theorem State.modFlow_stage (s : State) (k : Nat) (f : Flow → Flow) : (s.modFlow k f).stage = s.stage := rfl
@[simp] theorem State.modFlow_unlisted (s : State) (k : Nat) (f : Flow → Flow) : (s.modFlow k f).unlisted = s.unlisted := rfl
@[simp] theorem State.modFlow_chans (s : State) (k : Nat) (f : Flow → Flow) : (s.modFlow k f).chans = s.chans := rfl
@[simp] theorem State.modFlow_trace (s : State) (k : Nat) (f : Flow → Flow) : (s.modFlow k f).trace = s.trace := rfl
@[simp] theorem State.modFlow_acq (s : State) (k : Nat) (f : Flow → Flow) : (s.modFlow k f).acq = s.acq := rfl
@[simp] theorem State.modFlow_time (s : State) (k : Nat) (f : Flow → Flow) : (s.modFlow k f).time = s.time := rfl
@[simp] theorem State.modFlow_links (s : State) (k : Nat) (f : Flow → Flow) : (s.modFlow k f).links = s.links := rfl
@[simp] theorem State.modFlow_fab (s : State) (k : Nat) (f : Flow → Flow) : (s.modFlow k f).fab = s.fab := rfl
@[simp] theorem State.modFlow_noc (s : State) (k : Nat) (f : Flow → Flow) : (s.modFlow k f).noc = s.noc := rfl
@[simp] theorem State.modFlow_power (s : State) (k : Nat) (f : Flow → Flow) : (s.modFlow k f).power = s.power := rfl
@[simp] theorem State.modFlow_flash (s : State) (k : Nat) (f : Flow → Flow) : (s.modFlow k f).flash = s.flash := rfl
@[simp] theorem State.modFlow_test (s : State) (k : Nat) (f : Flow → Flow) : (s.modFlow k f).test = s.test := rfl
@[simp] theorem State.modFlow_now (s : State) (k : Nat) (f : Flow → Flow) : (s.modFlow k f).now = s.now := rfl
@[simp] theorem State.modFlow_ticks (s : State) (k : Nat) (f : Flow → Flow) : (s.modFlow k f).ticks = s.ticks := rfl
@[simp] theorem State.modFlow_out (s : State) (k : Nat) (f : Flow → Flow) : (s.modFlow k f).out = s.out := rfl
@[simp] theorem State.modFlow_nextId (s : State) (k : Nat) (f : Flow → Flow) : (s.modFlow k f).nextId = s.nextId := rfl
@[simp] theorem State.modFlow_draws (s : State) (k : Nat) (f : Flow → Flow) : (s.modFlow k f).draws = s.draws := rfl

@[simp] theorem State.modChan_pending (s : State) (h : Nat) (f : Chan → Chan) : (s.modChan h f).pending = s.pending := rfl
@[simp] theorem State.modChan_part (s : State) (h : Nat) (f : Chan → Chan) : (s.modChan h f).part = s.part := rfl
@[simp] theorem State.modChan_regs (s : State) (h : Nat) (f : Chan → Chan) : (s.modChan h f).regs = s.regs := rfl
@[simp] theorem State.modChan_hold (s : State) (h : Nat) (f : Chan → Chan) : (s.modChan h f).hold = s.hold := rfl
@[simp] theorem State.modChan_logAt (s : State) (h : Nat) (f : Chan → Chan) : (s.modChan h f).logAt = s.logAt := rfl
@[simp] theorem State.modChan_camps (s : State) (h : Nat) (f : Chan → Chan) : (s.modChan h f).camps = s.camps := rfl
@[simp] theorem State.modChan_clusters (s : State) (h : Nat) (f : Chan → Chan) : (s.modChan h f).clusters = s.clusters := rfl
@[simp] theorem State.modChan_xing (s : State) (h : Nat) (f : Chan → Chan) : (s.modChan h f).xing = s.xing := rfl
@[simp] theorem State.modChan_fifos (s : State) (h : Nat) (f : Chan → Chan) : (s.modChan h f).fifos = s.fifos := rfl
@[simp] theorem State.modChan_host (s : State) (h : Nat) (f : Chan → Chan) : (s.modChan h f).host = s.host := rfl
@[simp] theorem State.modChan_health (s : State) (h : Nat) (f : Chan → Chan) : (s.modChan h f).health = s.health := rfl
@[simp] theorem State.modChan_deep (s : State) (h : Nat) (f : Chan → Chan) : (s.modChan h f).deep = s.deep := rfl
@[simp] theorem State.modChan_keys (s : State) (h : Nat) (f : Chan → Chan) : (s.modChan h f).keys = s.keys := rfl
@[simp] theorem State.modChan_load (s : State) (h : Nat) (f : Chan → Chan) : (s.modChan h f).load = s.load := rfl
@[simp] theorem State.modChan_cores (s : State) (h : Nat) (f : Chan → Chan) : (s.modChan h f).cores = s.cores := rfl
@[simp] theorem State.modChan_tasks (s : State) (h : Nat) (f : Chan → Chan) : (s.modChan h f).tasks = s.tasks := rfl
@[simp] theorem State.modChan_flows (s : State) (h : Nat) (f : Chan → Chan) : (s.modChan h f).flows = s.flows := rfl
@[simp] theorem State.modChan_stage (s : State) (h : Nat) (f : Chan → Chan) : (s.modChan h f).stage = s.stage := rfl
@[simp] theorem State.modChan_unlisted (s : State) (h : Nat) (f : Chan → Chan) : (s.modChan h f).unlisted = s.unlisted := rfl
@[simp] theorem State.modChan_trace (s : State) (h : Nat) (f : Chan → Chan) : (s.modChan h f).trace = s.trace := rfl
@[simp] theorem State.modChan_acq (s : State) (h : Nat) (f : Chan → Chan) : (s.modChan h f).acq = s.acq := rfl
@[simp] theorem State.modChan_time (s : State) (h : Nat) (f : Chan → Chan) : (s.modChan h f).time = s.time := rfl
@[simp] theorem State.modChan_links (s : State) (h : Nat) (f : Chan → Chan) : (s.modChan h f).links = s.links := rfl
@[simp] theorem State.modChan_fab (s : State) (h : Nat) (f : Chan → Chan) : (s.modChan h f).fab = s.fab := rfl
@[simp] theorem State.modChan_noc (s : State) (h : Nat) (f : Chan → Chan) : (s.modChan h f).noc = s.noc := rfl
@[simp] theorem State.modChan_power (s : State) (h : Nat) (f : Chan → Chan) : (s.modChan h f).power = s.power := rfl
@[simp] theorem State.modChan_flash (s : State) (h : Nat) (f : Chan → Chan) : (s.modChan h f).flash = s.flash := rfl
@[simp] theorem State.modChan_test (s : State) (h : Nat) (f : Chan → Chan) : (s.modChan h f).test = s.test := rfl
@[simp] theorem State.modChan_now (s : State) (h : Nat) (f : Chan → Chan) : (s.modChan h f).now = s.now := rfl
@[simp] theorem State.modChan_ticks (s : State) (h : Nat) (f : Chan → Chan) : (s.modChan h f).ticks = s.ticks := rfl
@[simp] theorem State.modChan_out (s : State) (h : Nat) (f : Chan → Chan) : (s.modChan h f).out = s.out := rfl
@[simp] theorem State.modChan_nextId (s : State) (h : Nat) (f : Chan → Chan) : (s.modChan h f).nextId = s.nextId := rfl
@[simp] theorem State.modChan_draws (s : State) (h : Nat) (f : Chan → Chan) : (s.modChan h f).draws = s.draws := rfl

@[simp] theorem State.modTrace_pending (s : State) (f : TraceUnit → TraceUnit) : (s.modTrace f).pending = s.pending := rfl
@[simp] theorem State.modTrace_part (s : State) (f : TraceUnit → TraceUnit) : (s.modTrace f).part = s.part := rfl
@[simp] theorem State.modTrace_regs (s : State) (f : TraceUnit → TraceUnit) : (s.modTrace f).regs = s.regs := rfl
@[simp] theorem State.modTrace_hold (s : State) (f : TraceUnit → TraceUnit) : (s.modTrace f).hold = s.hold := rfl
@[simp] theorem State.modTrace_logAt (s : State) (f : TraceUnit → TraceUnit) : (s.modTrace f).logAt = s.logAt := rfl
@[simp] theorem State.modTrace_camps (s : State) (f : TraceUnit → TraceUnit) : (s.modTrace f).camps = s.camps := rfl
@[simp] theorem State.modTrace_clusters (s : State) (f : TraceUnit → TraceUnit) : (s.modTrace f).clusters = s.clusters := rfl
@[simp] theorem State.modTrace_xing (s : State) (f : TraceUnit → TraceUnit) : (s.modTrace f).xing = s.xing := rfl
@[simp] theorem State.modTrace_fifos (s : State) (f : TraceUnit → TraceUnit) : (s.modTrace f).fifos = s.fifos := rfl
@[simp] theorem State.modTrace_host (s : State) (f : TraceUnit → TraceUnit) : (s.modTrace f).host = s.host := rfl
@[simp] theorem State.modTrace_health (s : State) (f : TraceUnit → TraceUnit) : (s.modTrace f).health = s.health := rfl
@[simp] theorem State.modTrace_deep (s : State) (f : TraceUnit → TraceUnit) : (s.modTrace f).deep = s.deep := rfl
@[simp] theorem State.modTrace_keys (s : State) (f : TraceUnit → TraceUnit) : (s.modTrace f).keys = s.keys := rfl
@[simp] theorem State.modTrace_load (s : State) (f : TraceUnit → TraceUnit) : (s.modTrace f).load = s.load := rfl
@[simp] theorem State.modTrace_cores (s : State) (f : TraceUnit → TraceUnit) : (s.modTrace f).cores = s.cores := rfl
@[simp] theorem State.modTrace_tasks (s : State) (f : TraceUnit → TraceUnit) : (s.modTrace f).tasks = s.tasks := rfl
@[simp] theorem State.modTrace_flows (s : State) (f : TraceUnit → TraceUnit) : (s.modTrace f).flows = s.flows := rfl
@[simp] theorem State.modTrace_stage (s : State) (f : TraceUnit → TraceUnit) : (s.modTrace f).stage = s.stage := rfl
@[simp] theorem State.modTrace_unlisted (s : State) (f : TraceUnit → TraceUnit) : (s.modTrace f).unlisted = s.unlisted := rfl
@[simp] theorem State.modTrace_chans (s : State) (f : TraceUnit → TraceUnit) : (s.modTrace f).chans = s.chans := rfl
@[simp] theorem State.modTrace_acq (s : State) (f : TraceUnit → TraceUnit) : (s.modTrace f).acq = s.acq := rfl
@[simp] theorem State.modTrace_time (s : State) (f : TraceUnit → TraceUnit) : (s.modTrace f).time = s.time := rfl
@[simp] theorem State.modTrace_links (s : State) (f : TraceUnit → TraceUnit) : (s.modTrace f).links = s.links := rfl
@[simp] theorem State.modTrace_fab (s : State) (f : TraceUnit → TraceUnit) : (s.modTrace f).fab = s.fab := rfl
@[simp] theorem State.modTrace_noc (s : State) (f : TraceUnit → TraceUnit) : (s.modTrace f).noc = s.noc := rfl
@[simp] theorem State.modTrace_power (s : State) (f : TraceUnit → TraceUnit) : (s.modTrace f).power = s.power := rfl
@[simp] theorem State.modTrace_flash (s : State) (f : TraceUnit → TraceUnit) : (s.modTrace f).flash = s.flash := rfl
@[simp] theorem State.modTrace_test (s : State) (f : TraceUnit → TraceUnit) : (s.modTrace f).test = s.test := rfl
@[simp] theorem State.modTrace_now (s : State) (f : TraceUnit → TraceUnit) : (s.modTrace f).now = s.now := rfl
@[simp] theorem State.modTrace_ticks (s : State) (f : TraceUnit → TraceUnit) : (s.modTrace f).ticks = s.ticks := rfl
@[simp] theorem State.modTrace_out (s : State) (f : TraceUnit → TraceUnit) : (s.modTrace f).out = s.out := rfl
@[simp] theorem State.modTrace_nextId (s : State) (f : TraceUnit → TraceUnit) : (s.modTrace f).nextId = s.nextId := rfl
@[simp] theorem State.modTrace_draws (s : State) (f : TraceUnit → TraceUnit) : (s.modTrace f).draws = s.draws := rfl

@[simp] theorem State.modAcq_pending (s : State) (f : Acq → Acq) : (s.modAcq f).pending = s.pending := rfl
@[simp] theorem State.modAcq_part (s : State) (f : Acq → Acq) : (s.modAcq f).part = s.part := rfl
@[simp] theorem State.modAcq_regs (s : State) (f : Acq → Acq) : (s.modAcq f).regs = s.regs := rfl
@[simp] theorem State.modAcq_hold (s : State) (f : Acq → Acq) : (s.modAcq f).hold = s.hold := rfl
@[simp] theorem State.modAcq_logAt (s : State) (f : Acq → Acq) : (s.modAcq f).logAt = s.logAt := rfl
@[simp] theorem State.modAcq_camps (s : State) (f : Acq → Acq) : (s.modAcq f).camps = s.camps := rfl
@[simp] theorem State.modAcq_clusters (s : State) (f : Acq → Acq) : (s.modAcq f).clusters = s.clusters := rfl
@[simp] theorem State.modAcq_xing (s : State) (f : Acq → Acq) : (s.modAcq f).xing = s.xing := rfl
@[simp] theorem State.modAcq_fifos (s : State) (f : Acq → Acq) : (s.modAcq f).fifos = s.fifos := rfl
@[simp] theorem State.modAcq_host (s : State) (f : Acq → Acq) : (s.modAcq f).host = s.host := rfl
@[simp] theorem State.modAcq_health (s : State) (f : Acq → Acq) : (s.modAcq f).health = s.health := rfl
@[simp] theorem State.modAcq_deep (s : State) (f : Acq → Acq) : (s.modAcq f).deep = s.deep := rfl
@[simp] theorem State.modAcq_keys (s : State) (f : Acq → Acq) : (s.modAcq f).keys = s.keys := rfl
@[simp] theorem State.modAcq_load (s : State) (f : Acq → Acq) : (s.modAcq f).load = s.load := rfl
@[simp] theorem State.modAcq_cores (s : State) (f : Acq → Acq) : (s.modAcq f).cores = s.cores := rfl
@[simp] theorem State.modAcq_tasks (s : State) (f : Acq → Acq) : (s.modAcq f).tasks = s.tasks := rfl
@[simp] theorem State.modAcq_flows (s : State) (f : Acq → Acq) : (s.modAcq f).flows = s.flows := rfl
@[simp] theorem State.modAcq_stage (s : State) (f : Acq → Acq) : (s.modAcq f).stage = s.stage := rfl
@[simp] theorem State.modAcq_unlisted (s : State) (f : Acq → Acq) : (s.modAcq f).unlisted = s.unlisted := rfl
@[simp] theorem State.modAcq_chans (s : State) (f : Acq → Acq) : (s.modAcq f).chans = s.chans := rfl
@[simp] theorem State.modAcq_trace (s : State) (f : Acq → Acq) : (s.modAcq f).trace = s.trace := rfl
@[simp] theorem State.modAcq_time (s : State) (f : Acq → Acq) : (s.modAcq f).time = s.time := rfl
@[simp] theorem State.modAcq_links (s : State) (f : Acq → Acq) : (s.modAcq f).links = s.links := rfl
@[simp] theorem State.modAcq_fab (s : State) (f : Acq → Acq) : (s.modAcq f).fab = s.fab := rfl
@[simp] theorem State.modAcq_noc (s : State) (f : Acq → Acq) : (s.modAcq f).noc = s.noc := rfl
@[simp] theorem State.modAcq_power (s : State) (f : Acq → Acq) : (s.modAcq f).power = s.power := rfl
@[simp] theorem State.modAcq_flash (s : State) (f : Acq → Acq) : (s.modAcq f).flash = s.flash := rfl
@[simp] theorem State.modAcq_test (s : State) (f : Acq → Acq) : (s.modAcq f).test = s.test := rfl
@[simp] theorem State.modAcq_now (s : State) (f : Acq → Acq) : (s.modAcq f).now = s.now := rfl
@[simp] theorem State.modAcq_ticks (s : State) (f : Acq → Acq) : (s.modAcq f).ticks = s.ticks := rfl
@[simp] theorem State.modAcq_out (s : State) (f : Acq → Acq) : (s.modAcq f).out = s.out := rfl
@[simp] theorem State.modAcq_nextId (s : State) (f : Acq → Acq) : (s.modAcq f).nextId = s.nextId := rfl
@[simp] theorem State.modAcq_draws (s : State) (f : Acq → Acq) : (s.modAcq f).draws = s.draws := rfl

@[simp] theorem State.modTime_pending (s : State) (f : TimeUnit → TimeUnit) : (s.modTime f).pending = s.pending := rfl
@[simp] theorem State.modTime_part (s : State) (f : TimeUnit → TimeUnit) : (s.modTime f).part = s.part := rfl
@[simp] theorem State.modTime_regs (s : State) (f : TimeUnit → TimeUnit) : (s.modTime f).regs = s.regs := rfl
@[simp] theorem State.modTime_hold (s : State) (f : TimeUnit → TimeUnit) : (s.modTime f).hold = s.hold := rfl
@[simp] theorem State.modTime_logAt (s : State) (f : TimeUnit → TimeUnit) : (s.modTime f).logAt = s.logAt := rfl
@[simp] theorem State.modTime_camps (s : State) (f : TimeUnit → TimeUnit) : (s.modTime f).camps = s.camps := rfl
@[simp] theorem State.modTime_clusters (s : State) (f : TimeUnit → TimeUnit) : (s.modTime f).clusters = s.clusters := rfl
@[simp] theorem State.modTime_xing (s : State) (f : TimeUnit → TimeUnit) : (s.modTime f).xing = s.xing := rfl
@[simp] theorem State.modTime_fifos (s : State) (f : TimeUnit → TimeUnit) : (s.modTime f).fifos = s.fifos := rfl
@[simp] theorem State.modTime_host (s : State) (f : TimeUnit → TimeUnit) : (s.modTime f).host = s.host := rfl
@[simp] theorem State.modTime_health (s : State) (f : TimeUnit → TimeUnit) : (s.modTime f).health = s.health := rfl
@[simp] theorem State.modTime_deep (s : State) (f : TimeUnit → TimeUnit) : (s.modTime f).deep = s.deep := rfl
@[simp] theorem State.modTime_keys (s : State) (f : TimeUnit → TimeUnit) : (s.modTime f).keys = s.keys := rfl
@[simp] theorem State.modTime_load (s : State) (f : TimeUnit → TimeUnit) : (s.modTime f).load = s.load := rfl
@[simp] theorem State.modTime_cores (s : State) (f : TimeUnit → TimeUnit) : (s.modTime f).cores = s.cores := rfl
@[simp] theorem State.modTime_tasks (s : State) (f : TimeUnit → TimeUnit) : (s.modTime f).tasks = s.tasks := rfl
@[simp] theorem State.modTime_flows (s : State) (f : TimeUnit → TimeUnit) : (s.modTime f).flows = s.flows := rfl
@[simp] theorem State.modTime_stage (s : State) (f : TimeUnit → TimeUnit) : (s.modTime f).stage = s.stage := rfl
@[simp] theorem State.modTime_unlisted (s : State) (f : TimeUnit → TimeUnit) : (s.modTime f).unlisted = s.unlisted := rfl
@[simp] theorem State.modTime_chans (s : State) (f : TimeUnit → TimeUnit) : (s.modTime f).chans = s.chans := rfl
@[simp] theorem State.modTime_trace (s : State) (f : TimeUnit → TimeUnit) : (s.modTime f).trace = s.trace := rfl
@[simp] theorem State.modTime_acq (s : State) (f : TimeUnit → TimeUnit) : (s.modTime f).acq = s.acq := rfl
@[simp] theorem State.modTime_links (s : State) (f : TimeUnit → TimeUnit) : (s.modTime f).links = s.links := rfl
@[simp] theorem State.modTime_fab (s : State) (f : TimeUnit → TimeUnit) : (s.modTime f).fab = s.fab := rfl
@[simp] theorem State.modTime_noc (s : State) (f : TimeUnit → TimeUnit) : (s.modTime f).noc = s.noc := rfl
@[simp] theorem State.modTime_power (s : State) (f : TimeUnit → TimeUnit) : (s.modTime f).power = s.power := rfl
@[simp] theorem State.modTime_flash (s : State) (f : TimeUnit → TimeUnit) : (s.modTime f).flash = s.flash := rfl
@[simp] theorem State.modTime_test (s : State) (f : TimeUnit → TimeUnit) : (s.modTime f).test = s.test := rfl
@[simp] theorem State.modTime_now (s : State) (f : TimeUnit → TimeUnit) : (s.modTime f).now = s.now := rfl
@[simp] theorem State.modTime_ticks (s : State) (f : TimeUnit → TimeUnit) : (s.modTime f).ticks = s.ticks := rfl
@[simp] theorem State.modTime_out (s : State) (f : TimeUnit → TimeUnit) : (s.modTime f).out = s.out := rfl
@[simp] theorem State.modTime_nextId (s : State) (f : TimeUnit → TimeUnit) : (s.modTime f).nextId = s.nextId := rfl
@[simp] theorem State.modTime_draws (s : State) (f : TimeUnit → TimeUnit) : (s.modTime f).draws = s.draws := rfl

@[simp] theorem State.modHn_pending (s : State) (p : Nat) (f : HnPort → HnPort) : (s.modHn p f).pending = s.pending := rfl
@[simp] theorem State.modHn_part (s : State) (p : Nat) (f : HnPort → HnPort) : (s.modHn p f).part = s.part := rfl
@[simp] theorem State.modHn_regs (s : State) (p : Nat) (f : HnPort → HnPort) : (s.modHn p f).regs = s.regs := rfl
@[simp] theorem State.modHn_hold (s : State) (p : Nat) (f : HnPort → HnPort) : (s.modHn p f).hold = s.hold := rfl
@[simp] theorem State.modHn_logAt (s : State) (p : Nat) (f : HnPort → HnPort) : (s.modHn p f).logAt = s.logAt := rfl
@[simp] theorem State.modHn_camps (s : State) (p : Nat) (f : HnPort → HnPort) : (s.modHn p f).camps = s.camps := rfl
@[simp] theorem State.modHn_clusters (s : State) (p : Nat) (f : HnPort → HnPort) : (s.modHn p f).clusters = s.clusters := rfl
@[simp] theorem State.modHn_xing (s : State) (p : Nat) (f : HnPort → HnPort) : (s.modHn p f).xing = s.xing := rfl
@[simp] theorem State.modHn_fifos (s : State) (p : Nat) (f : HnPort → HnPort) : (s.modHn p f).fifos = s.fifos := rfl
@[simp] theorem State.modHn_host (s : State) (p : Nat) (f : HnPort → HnPort) : (s.modHn p f).host = s.host := rfl
@[simp] theorem State.modHn_health (s : State) (p : Nat) (f : HnPort → HnPort) : (s.modHn p f).health = s.health := rfl
@[simp] theorem State.modHn_deep (s : State) (p : Nat) (f : HnPort → HnPort) : (s.modHn p f).deep = s.deep := rfl
@[simp] theorem State.modHn_keys (s : State) (p : Nat) (f : HnPort → HnPort) : (s.modHn p f).keys = s.keys := rfl
@[simp] theorem State.modHn_load (s : State) (p : Nat) (f : HnPort → HnPort) : (s.modHn p f).load = s.load := rfl
@[simp] theorem State.modHn_cores (s : State) (p : Nat) (f : HnPort → HnPort) : (s.modHn p f).cores = s.cores := rfl
@[simp] theorem State.modHn_tasks (s : State) (p : Nat) (f : HnPort → HnPort) : (s.modHn p f).tasks = s.tasks := rfl
@[simp] theorem State.modHn_flows (s : State) (p : Nat) (f : HnPort → HnPort) : (s.modHn p f).flows = s.flows := rfl
@[simp] theorem State.modHn_stage (s : State) (p : Nat) (f : HnPort → HnPort) : (s.modHn p f).stage = s.stage := rfl
@[simp] theorem State.modHn_unlisted (s : State) (p : Nat) (f : HnPort → HnPort) : (s.modHn p f).unlisted = s.unlisted := rfl
@[simp] theorem State.modHn_chans (s : State) (p : Nat) (f : HnPort → HnPort) : (s.modHn p f).chans = s.chans := rfl
@[simp] theorem State.modHn_trace (s : State) (p : Nat) (f : HnPort → HnPort) : (s.modHn p f).trace = s.trace := rfl
@[simp] theorem State.modHn_acq (s : State) (p : Nat) (f : HnPort → HnPort) : (s.modHn p f).acq = s.acq := rfl
@[simp] theorem State.modHn_time (s : State) (p : Nat) (f : HnPort → HnPort) : (s.modHn p f).time = s.time := rfl
@[simp] theorem State.modHn_fab (s : State) (p : Nat) (f : HnPort → HnPort) : (s.modHn p f).fab = s.fab := rfl
@[simp] theorem State.modHn_noc (s : State) (p : Nat) (f : HnPort → HnPort) : (s.modHn p f).noc = s.noc := rfl
@[simp] theorem State.modHn_power (s : State) (p : Nat) (f : HnPort → HnPort) : (s.modHn p f).power = s.power := rfl
@[simp] theorem State.modHn_flash (s : State) (p : Nat) (f : HnPort → HnPort) : (s.modHn p f).flash = s.flash := rfl
@[simp] theorem State.modHn_test (s : State) (p : Nat) (f : HnPort → HnPort) : (s.modHn p f).test = s.test := rfl
@[simp] theorem State.modHn_now (s : State) (p : Nat) (f : HnPort → HnPort) : (s.modHn p f).now = s.now := rfl
@[simp] theorem State.modHn_ticks (s : State) (p : Nat) (f : HnPort → HnPort) : (s.modHn p f).ticks = s.ticks := rfl
@[simp] theorem State.modHn_out (s : State) (p : Nat) (f : HnPort → HnPort) : (s.modHn p f).out = s.out := rfl
@[simp] theorem State.modHn_nextId (s : State) (p : Nat) (f : HnPort → HnPort) : (s.modHn p f).nextId = s.nextId := rfl
@[simp] theorem State.modHn_draws (s : State) (p : Nat) (f : HnPort → HnPort) : (s.modHn p f).draws = s.draws := rfl

@[simp] theorem State.modFab_pending (s : State) (f : FabUnit → FabUnit) : (s.modFab f).pending = s.pending := rfl
@[simp] theorem State.modFab_part (s : State) (f : FabUnit → FabUnit) : (s.modFab f).part = s.part := rfl
@[simp] theorem State.modFab_regs (s : State) (f : FabUnit → FabUnit) : (s.modFab f).regs = s.regs := rfl
@[simp] theorem State.modFab_hold (s : State) (f : FabUnit → FabUnit) : (s.modFab f).hold = s.hold := rfl
@[simp] theorem State.modFab_logAt (s : State) (f : FabUnit → FabUnit) : (s.modFab f).logAt = s.logAt := rfl
@[simp] theorem State.modFab_camps (s : State) (f : FabUnit → FabUnit) : (s.modFab f).camps = s.camps := rfl
@[simp] theorem State.modFab_clusters (s : State) (f : FabUnit → FabUnit) : (s.modFab f).clusters = s.clusters := rfl
@[simp] theorem State.modFab_xing (s : State) (f : FabUnit → FabUnit) : (s.modFab f).xing = s.xing := rfl
@[simp] theorem State.modFab_fifos (s : State) (f : FabUnit → FabUnit) : (s.modFab f).fifos = s.fifos := rfl
@[simp] theorem State.modFab_host (s : State) (f : FabUnit → FabUnit) : (s.modFab f).host = s.host := rfl
@[simp] theorem State.modFab_health (s : State) (f : FabUnit → FabUnit) : (s.modFab f).health = s.health := rfl
@[simp] theorem State.modFab_deep (s : State) (f : FabUnit → FabUnit) : (s.modFab f).deep = s.deep := rfl
@[simp] theorem State.modFab_keys (s : State) (f : FabUnit → FabUnit) : (s.modFab f).keys = s.keys := rfl
@[simp] theorem State.modFab_load (s : State) (f : FabUnit → FabUnit) : (s.modFab f).load = s.load := rfl
@[simp] theorem State.modFab_cores (s : State) (f : FabUnit → FabUnit) : (s.modFab f).cores = s.cores := rfl
@[simp] theorem State.modFab_tasks (s : State) (f : FabUnit → FabUnit) : (s.modFab f).tasks = s.tasks := rfl
@[simp] theorem State.modFab_flows (s : State) (f : FabUnit → FabUnit) : (s.modFab f).flows = s.flows := rfl
@[simp] theorem State.modFab_stage (s : State) (f : FabUnit → FabUnit) : (s.modFab f).stage = s.stage := rfl
@[simp] theorem State.modFab_unlisted (s : State) (f : FabUnit → FabUnit) : (s.modFab f).unlisted = s.unlisted := rfl
@[simp] theorem State.modFab_chans (s : State) (f : FabUnit → FabUnit) : (s.modFab f).chans = s.chans := rfl
@[simp] theorem State.modFab_trace (s : State) (f : FabUnit → FabUnit) : (s.modFab f).trace = s.trace := rfl
@[simp] theorem State.modFab_acq (s : State) (f : FabUnit → FabUnit) : (s.modFab f).acq = s.acq := rfl
@[simp] theorem State.modFab_time (s : State) (f : FabUnit → FabUnit) : (s.modFab f).time = s.time := rfl
@[simp] theorem State.modFab_links (s : State) (f : FabUnit → FabUnit) : (s.modFab f).links = s.links := rfl
@[simp] theorem State.modFab_noc (s : State) (f : FabUnit → FabUnit) : (s.modFab f).noc = s.noc := rfl
@[simp] theorem State.modFab_power (s : State) (f : FabUnit → FabUnit) : (s.modFab f).power = s.power := rfl
@[simp] theorem State.modFab_flash (s : State) (f : FabUnit → FabUnit) : (s.modFab f).flash = s.flash := rfl
@[simp] theorem State.modFab_test (s : State) (f : FabUnit → FabUnit) : (s.modFab f).test = s.test := rfl
@[simp] theorem State.modFab_now (s : State) (f : FabUnit → FabUnit) : (s.modFab f).now = s.now := rfl
@[simp] theorem State.modFab_ticks (s : State) (f : FabUnit → FabUnit) : (s.modFab f).ticks = s.ticks := rfl
@[simp] theorem State.modFab_out (s : State) (f : FabUnit → FabUnit) : (s.modFab f).out = s.out := rfl
@[simp] theorem State.modFab_nextId (s : State) (f : FabUnit → FabUnit) : (s.modFab f).nextId = s.nextId := rfl
@[simp] theorem State.modFab_draws (s : State) (f : FabUnit → FabUnit) : (s.modFab f).draws = s.draws := rfl

@[simp] theorem State.modNoc_pending (s : State) (f : Noc → Noc) : (s.modNoc f).pending = s.pending := rfl
@[simp] theorem State.modNoc_part (s : State) (f : Noc → Noc) : (s.modNoc f).part = s.part := rfl
@[simp] theorem State.modNoc_regs (s : State) (f : Noc → Noc) : (s.modNoc f).regs = s.regs := rfl
@[simp] theorem State.modNoc_hold (s : State) (f : Noc → Noc) : (s.modNoc f).hold = s.hold := rfl
@[simp] theorem State.modNoc_logAt (s : State) (f : Noc → Noc) : (s.modNoc f).logAt = s.logAt := rfl
@[simp] theorem State.modNoc_camps (s : State) (f : Noc → Noc) : (s.modNoc f).camps = s.camps := rfl
@[simp] theorem State.modNoc_clusters (s : State) (f : Noc → Noc) : (s.modNoc f).clusters = s.clusters := rfl
@[simp] theorem State.modNoc_xing (s : State) (f : Noc → Noc) : (s.modNoc f).xing = s.xing := rfl
@[simp] theorem State.modNoc_fifos (s : State) (f : Noc → Noc) : (s.modNoc f).fifos = s.fifos := rfl
@[simp] theorem State.modNoc_host (s : State) (f : Noc → Noc) : (s.modNoc f).host = s.host := rfl
@[simp] theorem State.modNoc_health (s : State) (f : Noc → Noc) : (s.modNoc f).health = s.health := rfl
@[simp] theorem State.modNoc_deep (s : State) (f : Noc → Noc) : (s.modNoc f).deep = s.deep := rfl
@[simp] theorem State.modNoc_keys (s : State) (f : Noc → Noc) : (s.modNoc f).keys = s.keys := rfl
@[simp] theorem State.modNoc_load (s : State) (f : Noc → Noc) : (s.modNoc f).load = s.load := rfl
@[simp] theorem State.modNoc_cores (s : State) (f : Noc → Noc) : (s.modNoc f).cores = s.cores := rfl
@[simp] theorem State.modNoc_tasks (s : State) (f : Noc → Noc) : (s.modNoc f).tasks = s.tasks := rfl
@[simp] theorem State.modNoc_flows (s : State) (f : Noc → Noc) : (s.modNoc f).flows = s.flows := rfl
@[simp] theorem State.modNoc_stage (s : State) (f : Noc → Noc) : (s.modNoc f).stage = s.stage := rfl
@[simp] theorem State.modNoc_unlisted (s : State) (f : Noc → Noc) : (s.modNoc f).unlisted = s.unlisted := rfl
@[simp] theorem State.modNoc_chans (s : State) (f : Noc → Noc) : (s.modNoc f).chans = s.chans := rfl
@[simp] theorem State.modNoc_trace (s : State) (f : Noc → Noc) : (s.modNoc f).trace = s.trace := rfl
@[simp] theorem State.modNoc_acq (s : State) (f : Noc → Noc) : (s.modNoc f).acq = s.acq := rfl
@[simp] theorem State.modNoc_time (s : State) (f : Noc → Noc) : (s.modNoc f).time = s.time := rfl
@[simp] theorem State.modNoc_links (s : State) (f : Noc → Noc) : (s.modNoc f).links = s.links := rfl
@[simp] theorem State.modNoc_fab (s : State) (f : Noc → Noc) : (s.modNoc f).fab = s.fab := rfl
@[simp] theorem State.modNoc_power (s : State) (f : Noc → Noc) : (s.modNoc f).power = s.power := rfl
@[simp] theorem State.modNoc_flash (s : State) (f : Noc → Noc) : (s.modNoc f).flash = s.flash := rfl
@[simp] theorem State.modNoc_test (s : State) (f : Noc → Noc) : (s.modNoc f).test = s.test := rfl
@[simp] theorem State.modNoc_now (s : State) (f : Noc → Noc) : (s.modNoc f).now = s.now := rfl
@[simp] theorem State.modNoc_ticks (s : State) (f : Noc → Noc) : (s.modNoc f).ticks = s.ticks := rfl
@[simp] theorem State.modNoc_out (s : State) (f : Noc → Noc) : (s.modNoc f).out = s.out := rfl
@[simp] theorem State.modNoc_nextId (s : State) (f : Noc → Noc) : (s.modNoc f).nextId = s.nextId := rfl
@[simp] theorem State.modNoc_draws (s : State) (f : Noc → Noc) : (s.modNoc f).draws = s.draws := rfl

@[simp] theorem State.modPower_pending (s : State) (f : Power → Power) : (s.modPower f).pending = s.pending := rfl
@[simp] theorem State.modPower_part (s : State) (f : Power → Power) : (s.modPower f).part = s.part := rfl
@[simp] theorem State.modPower_regs (s : State) (f : Power → Power) : (s.modPower f).regs = s.regs := rfl
@[simp] theorem State.modPower_hold (s : State) (f : Power → Power) : (s.modPower f).hold = s.hold := rfl
@[simp] theorem State.modPower_logAt (s : State) (f : Power → Power) : (s.modPower f).logAt = s.logAt := rfl
@[simp] theorem State.modPower_camps (s : State) (f : Power → Power) : (s.modPower f).camps = s.camps := rfl
@[simp] theorem State.modPower_clusters (s : State) (f : Power → Power) : (s.modPower f).clusters = s.clusters := rfl
@[simp] theorem State.modPower_xing (s : State) (f : Power → Power) : (s.modPower f).xing = s.xing := rfl
@[simp] theorem State.modPower_fifos (s : State) (f : Power → Power) : (s.modPower f).fifos = s.fifos := rfl
@[simp] theorem State.modPower_host (s : State) (f : Power → Power) : (s.modPower f).host = s.host := rfl
@[simp] theorem State.modPower_health (s : State) (f : Power → Power) : (s.modPower f).health = s.health := rfl
@[simp] theorem State.modPower_deep (s : State) (f : Power → Power) : (s.modPower f).deep = s.deep := rfl
@[simp] theorem State.modPower_keys (s : State) (f : Power → Power) : (s.modPower f).keys = s.keys := rfl
@[simp] theorem State.modPower_load (s : State) (f : Power → Power) : (s.modPower f).load = s.load := rfl
@[simp] theorem State.modPower_cores (s : State) (f : Power → Power) : (s.modPower f).cores = s.cores := rfl
@[simp] theorem State.modPower_tasks (s : State) (f : Power → Power) : (s.modPower f).tasks = s.tasks := rfl
@[simp] theorem State.modPower_flows (s : State) (f : Power → Power) : (s.modPower f).flows = s.flows := rfl
@[simp] theorem State.modPower_stage (s : State) (f : Power → Power) : (s.modPower f).stage = s.stage := rfl
@[simp] theorem State.modPower_unlisted (s : State) (f : Power → Power) : (s.modPower f).unlisted = s.unlisted := rfl
@[simp] theorem State.modPower_chans (s : State) (f : Power → Power) : (s.modPower f).chans = s.chans := rfl
@[simp] theorem State.modPower_trace (s : State) (f : Power → Power) : (s.modPower f).trace = s.trace := rfl
@[simp] theorem State.modPower_acq (s : State) (f : Power → Power) : (s.modPower f).acq = s.acq := rfl
@[simp] theorem State.modPower_time (s : State) (f : Power → Power) : (s.modPower f).time = s.time := rfl
@[simp] theorem State.modPower_links (s : State) (f : Power → Power) : (s.modPower f).links = s.links := rfl
@[simp] theorem State.modPower_fab (s : State) (f : Power → Power) : (s.modPower f).fab = s.fab := rfl
@[simp] theorem State.modPower_noc (s : State) (f : Power → Power) : (s.modPower f).noc = s.noc := rfl
@[simp] theorem State.modPower_flash (s : State) (f : Power → Power) : (s.modPower f).flash = s.flash := rfl
@[simp] theorem State.modPower_test (s : State) (f : Power → Power) : (s.modPower f).test = s.test := rfl
@[simp] theorem State.modPower_now (s : State) (f : Power → Power) : (s.modPower f).now = s.now := rfl
@[simp] theorem State.modPower_ticks (s : State) (f : Power → Power) : (s.modPower f).ticks = s.ticks := rfl
@[simp] theorem State.modPower_out (s : State) (f : Power → Power) : (s.modPower f).out = s.out := rfl
@[simp] theorem State.modPower_nextId (s : State) (f : Power → Power) : (s.modPower f).nextId = s.nextId := rfl
@[simp] theorem State.modPower_draws (s : State) (f : Power → Power) : (s.modPower f).draws = s.draws := rfl

@[simp] theorem State.wr_camp (s : State) (r : RegName) (i : Nat) (f : FName) (v : Nat) (c' : Nat) : (s.wr r i f v).camp c' = s.camp c' := rfl
@[simp] theorem State.wr_cluster (s : State) (r : RegName) (i : Nat) (f : FName) (v : Nat) (k' : Nat) : (s.wr r i f v).cluster k' = s.cluster k' := rfl
@[simp] theorem State.wr_fifo (s : State) (r : RegName) (i : Nat) (f : FName) (v : Nat) (q' : FifoId) : (s.wr r i f v).fifo q' = s.fifo q' := rfl
@[simp] theorem State.wr_core (s : State) (r : RegName) (i : Nat) (f : FName) (v : Nat) (k' : Nat) : (s.wr r i f v).core k' = s.core k' := rfl
@[simp] theorem State.wr_task (s : State) (r : RegName) (i : Nat) (f : FName) (v : Nat) (k' : Nat) : (s.wr r i f v).task k' = s.task k' := rfl
@[simp] theorem State.wr_chan (s : State) (r : RegName) (i : Nat) (f : FName) (v : Nat) (h' : Nat) : (s.wr r i f v).chan h' = s.chan h' := rfl
@[simp] theorem State.wr_hn (s : State) (r : RegName) (i : Nat) (f : FName) (v : Nat) (p' : Nat) : (s.wr r i f v).hn p' = s.hn p' := rfl
@[simp] theorem State.emit_rd (s : State) (o : Out) (r' : RegName) (i' : Nat) (f' : FName) : (s.emit o).rd r' i' f' = s.rd r' i' f' := rfl
@[simp] theorem State.emit_camp (s : State) (o : Out) (c' : Nat) : (s.emit o).camp c' = s.camp c' := rfl
@[simp] theorem State.emit_cluster (s : State) (o : Out) (k' : Nat) : (s.emit o).cluster k' = s.cluster k' := rfl
@[simp] theorem State.emit_fifo (s : State) (o : Out) (q' : FifoId) : (s.emit o).fifo q' = s.fifo q' := rfl
@[simp] theorem State.emit_core (s : State) (o : Out) (k' : Nat) : (s.emit o).core k' = s.core k' := rfl
@[simp] theorem State.emit_task (s : State) (o : Out) (k' : Nat) : (s.emit o).task k' = s.task k' := rfl
@[simp] theorem State.emit_chan (s : State) (o : Out) (h' : Nat) : (s.emit o).chan h' = s.chan h' := rfl
@[simp] theorem State.emit_hn (s : State) (o : Out) (p' : Nat) : (s.emit o).hn p' = s.hn p' := rfl
@[simp] theorem State.draw_rd (s : State) (r' : RegName) (i' : Nat) (f' : FName) : (s.draw).rd r' i' f' = s.rd r' i' f' := rfl
@[simp] theorem State.draw_camp (s : State) (c' : Nat) : (s.draw).camp c' = s.camp c' := rfl
@[simp] theorem State.draw_cluster (s : State) (k' : Nat) : (s.draw).cluster k' = s.cluster k' := rfl
@[simp] theorem State.draw_fifo (s : State) (q' : FifoId) : (s.draw).fifo q' = s.fifo q' := rfl
@[simp] theorem State.draw_core (s : State) (k' : Nat) : (s.draw).core k' = s.core k' := rfl
@[simp] theorem State.draw_task (s : State) (k' : Nat) : (s.draw).task k' = s.task k' := rfl
@[simp] theorem State.draw_chan (s : State) (h' : Nat) : (s.draw).chan h' = s.chan h' := rfl
@[simp] theorem State.draw_hn (s : State) (p' : Nat) : (s.draw).hn p' = s.hn p' := rfl
@[simp] theorem State.unhold_rd (s : State) (r : RegName) (i : Nat) (r' : RegName) (i' : Nat) (f' : FName) : (s.unhold r i).rd r' i' f' = s.rd r' i' f' := rfl
@[simp] theorem State.unhold_camp (s : State) (r : RegName) (i : Nat) (c' : Nat) : (s.unhold r i).camp c' = s.camp c' := rfl
@[simp] theorem State.unhold_cluster (s : State) (r : RegName) (i : Nat) (k' : Nat) : (s.unhold r i).cluster k' = s.cluster k' := rfl
@[simp] theorem State.unhold_fifo (s : State) (r : RegName) (i : Nat) (q' : FifoId) : (s.unhold r i).fifo q' = s.fifo q' := rfl
@[simp] theorem State.unhold_core (s : State) (r : RegName) (i : Nat) (k' : Nat) : (s.unhold r i).core k' = s.core k' := rfl
@[simp] theorem State.unhold_task (s : State) (r : RegName) (i : Nat) (k' : Nat) : (s.unhold r i).task k' = s.task k' := rfl
@[simp] theorem State.unhold_chan (s : State) (r : RegName) (i : Nat) (h' : Nat) : (s.unhold r i).chan h' = s.chan h' := rfl
@[simp] theorem State.unhold_hn (s : State) (r : RegName) (i : Nat) (p' : Nat) : (s.unhold r i).hn p' = s.hn p' := rfl
@[simp] theorem State.modLogAt_rd (s : State) (f : List ((RegName × Nat) × List Nat) → List ((RegName × Nat) × List Nat)) (r' : RegName) (i' : Nat) (f' : FName) : (s.modLogAt f).rd r' i' f' = s.rd r' i' f' := rfl
@[simp] theorem State.modLogAt_camp (s : State) (f : List ((RegName × Nat) × List Nat) → List ((RegName × Nat) × List Nat)) (c' : Nat) : (s.modLogAt f).camp c' = s.camp c' := rfl
@[simp] theorem State.modLogAt_cluster (s : State) (f : List ((RegName × Nat) × List Nat) → List ((RegName × Nat) × List Nat)) (k' : Nat) : (s.modLogAt f).cluster k' = s.cluster k' := rfl
@[simp] theorem State.modLogAt_fifo (s : State) (f : List ((RegName × Nat) × List Nat) → List ((RegName × Nat) × List Nat)) (q' : FifoId) : (s.modLogAt f).fifo q' = s.fifo q' := rfl
@[simp] theorem State.modLogAt_core (s : State) (f : List ((RegName × Nat) × List Nat) → List ((RegName × Nat) × List Nat)) (k' : Nat) : (s.modLogAt f).core k' = s.core k' := rfl
@[simp] theorem State.modLogAt_task (s : State) (f : List ((RegName × Nat) × List Nat) → List ((RegName × Nat) × List Nat)) (k' : Nat) : (s.modLogAt f).task k' = s.task k' := rfl
@[simp] theorem State.modLogAt_chan (s : State) (f : List ((RegName × Nat) × List Nat) → List ((RegName × Nat) × List Nat)) (h' : Nat) : (s.modLogAt f).chan h' = s.chan h' := rfl
@[simp] theorem State.modLogAt_hn (s : State) (f : List ((RegName × Nat) × List Nat) → List ((RegName × Nat) × List Nat)) (p' : Nat) : (s.modLogAt f).hn p' = s.hn p' := rfl
@[simp] theorem State.modCamp_rd (s : State) (c : Nat) (f : Camp → Camp) (r' : RegName) (i' : Nat) (f' : FName) : (s.modCamp c f).rd r' i' f' = s.rd r' i' f' := rfl
@[simp] theorem State.modCamp_cluster (s : State) (c : Nat) (f : Camp → Camp) (k' : Nat) : (s.modCamp c f).cluster k' = s.cluster k' := rfl
@[simp] theorem State.modCamp_fifo (s : State) (c : Nat) (f : Camp → Camp) (q' : FifoId) : (s.modCamp c f).fifo q' = s.fifo q' := rfl
@[simp] theorem State.modCamp_core (s : State) (c : Nat) (f : Camp → Camp) (k' : Nat) : (s.modCamp c f).core k' = s.core k' := rfl
@[simp] theorem State.modCamp_task (s : State) (c : Nat) (f : Camp → Camp) (k' : Nat) : (s.modCamp c f).task k' = s.task k' := rfl
@[simp] theorem State.modCamp_chan (s : State) (c : Nat) (f : Camp → Camp) (h' : Nat) : (s.modCamp c f).chan h' = s.chan h' := rfl
@[simp] theorem State.modCamp_hn (s : State) (c : Nat) (f : Camp → Camp) (p' : Nat) : (s.modCamp c f).hn p' = s.hn p' := rfl
@[simp] theorem State.modCluster_rd (s : State) (k : Nat) (f : Cluster → Cluster) (r' : RegName) (i' : Nat) (f' : FName) : (s.modCluster k f).rd r' i' f' = s.rd r' i' f' := rfl
@[simp] theorem State.modCluster_camp (s : State) (k : Nat) (f : Cluster → Cluster) (c' : Nat) : (s.modCluster k f).camp c' = s.camp c' := rfl
@[simp] theorem State.modCluster_fifo (s : State) (k : Nat) (f : Cluster → Cluster) (q' : FifoId) : (s.modCluster k f).fifo q' = s.fifo q' := rfl
@[simp] theorem State.modCluster_core (s : State) (k : Nat) (f : Cluster → Cluster) (k' : Nat) : (s.modCluster k f).core k' = s.core k' := rfl
@[simp] theorem State.modCluster_task (s : State) (k : Nat) (f : Cluster → Cluster) (k' : Nat) : (s.modCluster k f).task k' = s.task k' := rfl
@[simp] theorem State.modCluster_chan (s : State) (k : Nat) (f : Cluster → Cluster) (h' : Nat) : (s.modCluster k f).chan h' = s.chan h' := rfl
@[simp] theorem State.modCluster_hn (s : State) (k : Nat) (f : Cluster → Cluster) (p' : Nat) : (s.modCluster k f).hn p' = s.hn p' := rfl
@[simp] theorem State.modFifo_rd (s : State) (q : FifoId) (f : Fifo → Fifo) (r' : RegName) (i' : Nat) (f' : FName) : (s.modFifo q f).rd r' i' f' = s.rd r' i' f' := rfl
@[simp] theorem State.modFifo_camp (s : State) (q : FifoId) (f : Fifo → Fifo) (c' : Nat) : (s.modFifo q f).camp c' = s.camp c' := rfl
@[simp] theorem State.modFifo_cluster (s : State) (q : FifoId) (f : Fifo → Fifo) (k' : Nat) : (s.modFifo q f).cluster k' = s.cluster k' := rfl
@[simp] theorem State.modFifo_core (s : State) (q : FifoId) (f : Fifo → Fifo) (k' : Nat) : (s.modFifo q f).core k' = s.core k' := rfl
@[simp] theorem State.modFifo_task (s : State) (q : FifoId) (f : Fifo → Fifo) (k' : Nat) : (s.modFifo q f).task k' = s.task k' := rfl
@[simp] theorem State.modFifo_chan (s : State) (q : FifoId) (f : Fifo → Fifo) (h' : Nat) : (s.modFifo q f).chan h' = s.chan h' := rfl
@[simp] theorem State.modFifo_hn (s : State) (q : FifoId) (f : Fifo → Fifo) (p' : Nat) : (s.modFifo q f).hn p' = s.hn p' := rfl
@[simp] theorem State.modDeep_rd (s : State) (f : Deep → Deep) (r' : RegName) (i' : Nat) (f' : FName) : (s.modDeep f).rd r' i' f' = s.rd r' i' f' := rfl
@[simp] theorem State.modDeep_camp (s : State) (f : Deep → Deep) (c' : Nat) : (s.modDeep f).camp c' = s.camp c' := rfl
@[simp] theorem State.modDeep_cluster (s : State) (f : Deep → Deep) (k' : Nat) : (s.modDeep f).cluster k' = s.cluster k' := rfl
@[simp] theorem State.modDeep_fifo (s : State) (f : Deep → Deep) (q' : FifoId) : (s.modDeep f).fifo q' = s.fifo q' := rfl
@[simp] theorem State.modDeep_core (s : State) (f : Deep → Deep) (k' : Nat) : (s.modDeep f).core k' = s.core k' := rfl
@[simp] theorem State.modDeep_task (s : State) (f : Deep → Deep) (k' : Nat) : (s.modDeep f).task k' = s.task k' := rfl
@[simp] theorem State.modDeep_chan (s : State) (f : Deep → Deep) (h' : Nat) : (s.modDeep f).chan h' = s.chan h' := rfl
@[simp] theorem State.modDeep_hn (s : State) (f : Deep → Deep) (p' : Nat) : (s.modDeep f).hn p' = s.hn p' := rfl
@[simp] theorem State.modKeys_rd (s : State) (f : KeyStore → KeyStore) (r' : RegName) (i' : Nat) (f' : FName) : (s.modKeys f).rd r' i' f' = s.rd r' i' f' := rfl
@[simp] theorem State.modKeys_camp (s : State) (f : KeyStore → KeyStore) (c' : Nat) : (s.modKeys f).camp c' = s.camp c' := rfl
@[simp] theorem State.modKeys_cluster (s : State) (f : KeyStore → KeyStore) (k' : Nat) : (s.modKeys f).cluster k' = s.cluster k' := rfl
@[simp] theorem State.modKeys_fifo (s : State) (f : KeyStore → KeyStore) (q' : FifoId) : (s.modKeys f).fifo q' = s.fifo q' := rfl
@[simp] theorem State.modKeys_core (s : State) (f : KeyStore → KeyStore) (k' : Nat) : (s.modKeys f).core k' = s.core k' := rfl
@[simp] theorem State.modKeys_task (s : State) (f : KeyStore → KeyStore) (k' : Nat) : (s.modKeys f).task k' = s.task k' := rfl
@[simp] theorem State.modKeys_chan (s : State) (f : KeyStore → KeyStore) (h' : Nat) : (s.modKeys f).chan h' = s.chan h' := rfl
@[simp] theorem State.modKeys_hn (s : State) (f : KeyStore → KeyStore) (p' : Nat) : (s.modKeys f).hn p' = s.hn p' := rfl
@[simp] theorem State.modLoad_rd (s : State) (f : Load → Load) (r' : RegName) (i' : Nat) (f' : FName) : (s.modLoad f).rd r' i' f' = s.rd r' i' f' := rfl
@[simp] theorem State.modLoad_camp (s : State) (f : Load → Load) (c' : Nat) : (s.modLoad f).camp c' = s.camp c' := rfl
@[simp] theorem State.modLoad_cluster (s : State) (f : Load → Load) (k' : Nat) : (s.modLoad f).cluster k' = s.cluster k' := rfl
@[simp] theorem State.modLoad_fifo (s : State) (f : Load → Load) (q' : FifoId) : (s.modLoad f).fifo q' = s.fifo q' := rfl
@[simp] theorem State.modLoad_core (s : State) (f : Load → Load) (k' : Nat) : (s.modLoad f).core k' = s.core k' := rfl
@[simp] theorem State.modLoad_task (s : State) (f : Load → Load) (k' : Nat) : (s.modLoad f).task k' = s.task k' := rfl
@[simp] theorem State.modLoad_chan (s : State) (f : Load → Load) (h' : Nat) : (s.modLoad f).chan h' = s.chan h' := rfl
@[simp] theorem State.modLoad_hn (s : State) (f : Load → Load) (p' : Nat) : (s.modLoad f).hn p' = s.hn p' := rfl
@[simp] theorem State.modCore_rd (s : State) (k : Nat) (f : Core → Core) (r' : RegName) (i' : Nat) (f' : FName) : (s.modCore k f).rd r' i' f' = s.rd r' i' f' := rfl
@[simp] theorem State.modCore_camp (s : State) (k : Nat) (f : Core → Core) (c' : Nat) : (s.modCore k f).camp c' = s.camp c' := rfl
@[simp] theorem State.modCore_cluster (s : State) (k : Nat) (f : Core → Core) (k' : Nat) : (s.modCore k f).cluster k' = s.cluster k' := rfl
@[simp] theorem State.modCore_fifo (s : State) (k : Nat) (f : Core → Core) (q' : FifoId) : (s.modCore k f).fifo q' = s.fifo q' := rfl
@[simp] theorem State.modCore_task (s : State) (k : Nat) (f : Core → Core) (k' : Nat) : (s.modCore k f).task k' = s.task k' := rfl
@[simp] theorem State.modCore_chan (s : State) (k : Nat) (f : Core → Core) (h' : Nat) : (s.modCore k f).chan h' = s.chan h' := rfl
@[simp] theorem State.modCore_hn (s : State) (k : Nat) (f : Core → Core) (p' : Nat) : (s.modCore k f).hn p' = s.hn p' := rfl
@[simp] theorem State.modTask_rd (s : State) (k : Nat) (f : Task → Task) (r' : RegName) (i' : Nat) (f' : FName) : (s.modTask k f).rd r' i' f' = s.rd r' i' f' := rfl
@[simp] theorem State.modTask_camp (s : State) (k : Nat) (f : Task → Task) (c' : Nat) : (s.modTask k f).camp c' = s.camp c' := rfl
@[simp] theorem State.modTask_cluster (s : State) (k : Nat) (f : Task → Task) (k' : Nat) : (s.modTask k f).cluster k' = s.cluster k' := rfl
@[simp] theorem State.modTask_fifo (s : State) (k : Nat) (f : Task → Task) (q' : FifoId) : (s.modTask k f).fifo q' = s.fifo q' := rfl
@[simp] theorem State.modTask_core (s : State) (k : Nat) (f : Task → Task) (k' : Nat) : (s.modTask k f).core k' = s.core k' := rfl
@[simp] theorem State.modTask_chan (s : State) (k : Nat) (f : Task → Task) (h' : Nat) : (s.modTask k f).chan h' = s.chan h' := rfl
@[simp] theorem State.modTask_hn (s : State) (k : Nat) (f : Task → Task) (p' : Nat) : (s.modTask k f).hn p' = s.hn p' := rfl
@[simp] theorem State.modFlow_rd (s : State) (k : Nat) (f : Flow → Flow) (r' : RegName) (i' : Nat) (f' : FName) : (s.modFlow k f).rd r' i' f' = s.rd r' i' f' := rfl
@[simp] theorem State.modFlow_camp (s : State) (k : Nat) (f : Flow → Flow) (c' : Nat) : (s.modFlow k f).camp c' = s.camp c' := rfl
@[simp] theorem State.modFlow_cluster (s : State) (k : Nat) (f : Flow → Flow) (k' : Nat) : (s.modFlow k f).cluster k' = s.cluster k' := rfl
@[simp] theorem State.modFlow_fifo (s : State) (k : Nat) (f : Flow → Flow) (q' : FifoId) : (s.modFlow k f).fifo q' = s.fifo q' := rfl
@[simp] theorem State.modFlow_core (s : State) (k : Nat) (f : Flow → Flow) (k' : Nat) : (s.modFlow k f).core k' = s.core k' := rfl
@[simp] theorem State.modFlow_task (s : State) (k : Nat) (f : Flow → Flow) (k' : Nat) : (s.modFlow k f).task k' = s.task k' := rfl
@[simp] theorem State.modFlow_chan (s : State) (k : Nat) (f : Flow → Flow) (h' : Nat) : (s.modFlow k f).chan h' = s.chan h' := rfl
@[simp] theorem State.modFlow_hn (s : State) (k : Nat) (f : Flow → Flow) (p' : Nat) : (s.modFlow k f).hn p' = s.hn p' := rfl
@[simp] theorem State.modChan_rd (s : State) (h : Nat) (f : Chan → Chan) (r' : RegName) (i' : Nat) (f' : FName) : (s.modChan h f).rd r' i' f' = s.rd r' i' f' := rfl
@[simp] theorem State.modChan_camp (s : State) (h : Nat) (f : Chan → Chan) (c' : Nat) : (s.modChan h f).camp c' = s.camp c' := rfl
@[simp] theorem State.modChan_cluster (s : State) (h : Nat) (f : Chan → Chan) (k' : Nat) : (s.modChan h f).cluster k' = s.cluster k' := rfl
@[simp] theorem State.modChan_fifo (s : State) (h : Nat) (f : Chan → Chan) (q' : FifoId) : (s.modChan h f).fifo q' = s.fifo q' := rfl
@[simp] theorem State.modChan_core (s : State) (h : Nat) (f : Chan → Chan) (k' : Nat) : (s.modChan h f).core k' = s.core k' := rfl
@[simp] theorem State.modChan_task (s : State) (h : Nat) (f : Chan → Chan) (k' : Nat) : (s.modChan h f).task k' = s.task k' := rfl
@[simp] theorem State.modChan_hn (s : State) (h : Nat) (f : Chan → Chan) (p' : Nat) : (s.modChan h f).hn p' = s.hn p' := rfl
@[simp] theorem State.modTrace_rd (s : State) (f : TraceUnit → TraceUnit) (r' : RegName) (i' : Nat) (f' : FName) : (s.modTrace f).rd r' i' f' = s.rd r' i' f' := rfl
@[simp] theorem State.modTrace_camp (s : State) (f : TraceUnit → TraceUnit) (c' : Nat) : (s.modTrace f).camp c' = s.camp c' := rfl
@[simp] theorem State.modTrace_cluster (s : State) (f : TraceUnit → TraceUnit) (k' : Nat) : (s.modTrace f).cluster k' = s.cluster k' := rfl
@[simp] theorem State.modTrace_fifo (s : State) (f : TraceUnit → TraceUnit) (q' : FifoId) : (s.modTrace f).fifo q' = s.fifo q' := rfl
@[simp] theorem State.modTrace_core (s : State) (f : TraceUnit → TraceUnit) (k' : Nat) : (s.modTrace f).core k' = s.core k' := rfl
@[simp] theorem State.modTrace_task (s : State) (f : TraceUnit → TraceUnit) (k' : Nat) : (s.modTrace f).task k' = s.task k' := rfl
@[simp] theorem State.modTrace_chan (s : State) (f : TraceUnit → TraceUnit) (h' : Nat) : (s.modTrace f).chan h' = s.chan h' := rfl
@[simp] theorem State.modTrace_hn (s : State) (f : TraceUnit → TraceUnit) (p' : Nat) : (s.modTrace f).hn p' = s.hn p' := rfl
@[simp] theorem State.modAcq_rd (s : State) (f : Acq → Acq) (r' : RegName) (i' : Nat) (f' : FName) : (s.modAcq f).rd r' i' f' = s.rd r' i' f' := rfl
@[simp] theorem State.modAcq_camp (s : State) (f : Acq → Acq) (c' : Nat) : (s.modAcq f).camp c' = s.camp c' := rfl
@[simp] theorem State.modAcq_cluster (s : State) (f : Acq → Acq) (k' : Nat) : (s.modAcq f).cluster k' = s.cluster k' := rfl
@[simp] theorem State.modAcq_fifo (s : State) (f : Acq → Acq) (q' : FifoId) : (s.modAcq f).fifo q' = s.fifo q' := rfl
@[simp] theorem State.modAcq_core (s : State) (f : Acq → Acq) (k' : Nat) : (s.modAcq f).core k' = s.core k' := rfl
@[simp] theorem State.modAcq_task (s : State) (f : Acq → Acq) (k' : Nat) : (s.modAcq f).task k' = s.task k' := rfl
@[simp] theorem State.modAcq_chan (s : State) (f : Acq → Acq) (h' : Nat) : (s.modAcq f).chan h' = s.chan h' := rfl
@[simp] theorem State.modAcq_hn (s : State) (f : Acq → Acq) (p' : Nat) : (s.modAcq f).hn p' = s.hn p' := rfl
@[simp] theorem State.modTime_rd (s : State) (f : TimeUnit → TimeUnit) (r' : RegName) (i' : Nat) (f' : FName) : (s.modTime f).rd r' i' f' = s.rd r' i' f' := rfl
@[simp] theorem State.modTime_camp (s : State) (f : TimeUnit → TimeUnit) (c' : Nat) : (s.modTime f).camp c' = s.camp c' := rfl
@[simp] theorem State.modTime_cluster (s : State) (f : TimeUnit → TimeUnit) (k' : Nat) : (s.modTime f).cluster k' = s.cluster k' := rfl
@[simp] theorem State.modTime_fifo (s : State) (f : TimeUnit → TimeUnit) (q' : FifoId) : (s.modTime f).fifo q' = s.fifo q' := rfl
@[simp] theorem State.modTime_core (s : State) (f : TimeUnit → TimeUnit) (k' : Nat) : (s.modTime f).core k' = s.core k' := rfl
@[simp] theorem State.modTime_task (s : State) (f : TimeUnit → TimeUnit) (k' : Nat) : (s.modTime f).task k' = s.task k' := rfl
@[simp] theorem State.modTime_chan (s : State) (f : TimeUnit → TimeUnit) (h' : Nat) : (s.modTime f).chan h' = s.chan h' := rfl
@[simp] theorem State.modTime_hn (s : State) (f : TimeUnit → TimeUnit) (p' : Nat) : (s.modTime f).hn p' = s.hn p' := rfl
@[simp] theorem State.modHn_rd (s : State) (p : Nat) (f : HnPort → HnPort) (r' : RegName) (i' : Nat) (f' : FName) : (s.modHn p f).rd r' i' f' = s.rd r' i' f' := rfl
@[simp] theorem State.modHn_camp (s : State) (p : Nat) (f : HnPort → HnPort) (c' : Nat) : (s.modHn p f).camp c' = s.camp c' := rfl
@[simp] theorem State.modHn_cluster (s : State) (p : Nat) (f : HnPort → HnPort) (k' : Nat) : (s.modHn p f).cluster k' = s.cluster k' := rfl
@[simp] theorem State.modHn_fifo (s : State) (p : Nat) (f : HnPort → HnPort) (q' : FifoId) : (s.modHn p f).fifo q' = s.fifo q' := rfl
@[simp] theorem State.modHn_core (s : State) (p : Nat) (f : HnPort → HnPort) (k' : Nat) : (s.modHn p f).core k' = s.core k' := rfl
@[simp] theorem State.modHn_task (s : State) (p : Nat) (f : HnPort → HnPort) (k' : Nat) : (s.modHn p f).task k' = s.task k' := rfl
@[simp] theorem State.modHn_chan (s : State) (p : Nat) (f : HnPort → HnPort) (h' : Nat) : (s.modHn p f).chan h' = s.chan h' := rfl
@[simp] theorem State.modFab_rd (s : State) (f : FabUnit → FabUnit) (r' : RegName) (i' : Nat) (f' : FName) : (s.modFab f).rd r' i' f' = s.rd r' i' f' := rfl
@[simp] theorem State.modFab_camp (s : State) (f : FabUnit → FabUnit) (c' : Nat) : (s.modFab f).camp c' = s.camp c' := rfl
@[simp] theorem State.modFab_cluster (s : State) (f : FabUnit → FabUnit) (k' : Nat) : (s.modFab f).cluster k' = s.cluster k' := rfl
@[simp] theorem State.modFab_fifo (s : State) (f : FabUnit → FabUnit) (q' : FifoId) : (s.modFab f).fifo q' = s.fifo q' := rfl
@[simp] theorem State.modFab_core (s : State) (f : FabUnit → FabUnit) (k' : Nat) : (s.modFab f).core k' = s.core k' := rfl
@[simp] theorem State.modFab_task (s : State) (f : FabUnit → FabUnit) (k' : Nat) : (s.modFab f).task k' = s.task k' := rfl
@[simp] theorem State.modFab_chan (s : State) (f : FabUnit → FabUnit) (h' : Nat) : (s.modFab f).chan h' = s.chan h' := rfl
@[simp] theorem State.modFab_hn (s : State) (f : FabUnit → FabUnit) (p' : Nat) : (s.modFab f).hn p' = s.hn p' := rfl
@[simp] theorem State.modNoc_rd (s : State) (f : Noc → Noc) (r' : RegName) (i' : Nat) (f' : FName) : (s.modNoc f).rd r' i' f' = s.rd r' i' f' := rfl
@[simp] theorem State.modNoc_camp (s : State) (f : Noc → Noc) (c' : Nat) : (s.modNoc f).camp c' = s.camp c' := rfl
@[simp] theorem State.modNoc_cluster (s : State) (f : Noc → Noc) (k' : Nat) : (s.modNoc f).cluster k' = s.cluster k' := rfl
@[simp] theorem State.modNoc_fifo (s : State) (f : Noc → Noc) (q' : FifoId) : (s.modNoc f).fifo q' = s.fifo q' := rfl
@[simp] theorem State.modNoc_core (s : State) (f : Noc → Noc) (k' : Nat) : (s.modNoc f).core k' = s.core k' := rfl
@[simp] theorem State.modNoc_task (s : State) (f : Noc → Noc) (k' : Nat) : (s.modNoc f).task k' = s.task k' := rfl
@[simp] theorem State.modNoc_chan (s : State) (f : Noc → Noc) (h' : Nat) : (s.modNoc f).chan h' = s.chan h' := rfl
@[simp] theorem State.modNoc_hn (s : State) (f : Noc → Noc) (p' : Nat) : (s.modNoc f).hn p' = s.hn p' := rfl
@[simp] theorem State.modPower_rd (s : State) (f : Power → Power) (r' : RegName) (i' : Nat) (f' : FName) : (s.modPower f).rd r' i' f' = s.rd r' i' f' := rfl
@[simp] theorem State.modPower_camp (s : State) (f : Power → Power) (c' : Nat) : (s.modPower f).camp c' = s.camp c' := rfl
@[simp] theorem State.modPower_cluster (s : State) (f : Power → Power) (k' : Nat) : (s.modPower f).cluster k' = s.cluster k' := rfl
@[simp] theorem State.modPower_fifo (s : State) (f : Power → Power) (q' : FifoId) : (s.modPower f).fifo q' = s.fifo q' := rfl
@[simp] theorem State.modPower_core (s : State) (f : Power → Power) (k' : Nat) : (s.modPower f).core k' = s.core k' := rfl
@[simp] theorem State.modPower_task (s : State) (f : Power → Power) (k' : Nat) : (s.modPower f).task k' = s.task k' := rfl
@[simp] theorem State.modPower_chan (s : State) (f : Power → Power) (h' : Nat) : (s.modPower f).chan h' = s.chan h' := rfl
@[simp] theorem State.modPower_hn (s : State) (f : Power → Power) (p' : Nat) : (s.modPower f).hn p' = s.hn p' := rfl

/-- A register field reads what was written to it, cut to its width; every other field reads as before. -/
theorem State.rd_wr (s : State) (r r' : RegName) (i i' : Nat) (f f' : FName) (v : Nat) :
    (s.wr r i f v).rd r' i' f' = if r = r' ∧ i = i' ∧ f = f' then v % 2 ^ (fieldSpec r f).width else s.rd r' i' f' := by
  simp only [State.rd, State.wr, tget_tset, RegKey.mk.injEq]

@[simp] theorem State.rd_wr_self (s : State) (r : RegName) (i : Nat) (f : FName) (v : Nat) :
    (s.wr r i f v).rd r i f = v % 2 ^ (fieldSpec r f).width := by simp [State.rd_wr]

theorem State.rd_wr_fld (s : State) (r r' : RegName) (i i' : Nat) {f f' : FName} (v : Nat) (h : f ≠ f') :
    (s.wr r i f v).rd r' i' f' = s.rd r' i' f' := by simp [State.rd_wr, h]

theorem State.rd_wr_reg (s : State) {r r' : RegName} (i i' : Nat) (f f' : FName) (v : Nat) (h : r ≠ r') :
    (s.wr r i f v).rd r' i' f' = s.rd r' i' f' := by simp [State.rd_wr, h]

theorem State.rd_wr_idx (s : State) (r r' : RegName) {i i' : Nat} (f f' : FName) (v : Nat) (h : i ≠ i') :
    (s.wr r i f v).rd r' i' f' = s.rd r' i' f' := by simp [State.rd_wr, h]

@[simp] theorem State.wrs_nil (s : State) (r : RegName) (i : Nat) : s.wrs r i [] = s := rfl

@[simp] theorem State.wrs_cons (s : State) (r : RegName) (i : Nat) (f : FName) (v : Nat) (l : List (FName × Nat)) :
    s.wrs r i ((f, v) :: l) = (s.wr r i f v).wrs r i l := rfl

@[simp] theorem State.camp_modCamp_self (s : State) (k : Nat) (f : Camp → Camp) : (s.modCamp k f).camp k = f (s.camp k) := by
  simp [State.camp, State.modCamp]

theorem State.camp_modCamp_ne (s : State) {k k' : Nat} (f : Camp → Camp) (h : k ≠ k') : (s.modCamp k f).camp k' = s.camp k' := by
  simp [State.camp, State.modCamp, tget_tmod_ne, h]

@[simp] theorem State.cluster_modCluster_self (s : State) (k : Nat) (f : Cluster → Cluster) : (s.modCluster k f).cluster k = f (s.cluster k) := by
  simp [State.cluster, State.modCluster]

theorem State.cluster_modCluster_ne (s : State) {k k' : Nat} (f : Cluster → Cluster) (h : k ≠ k') : (s.modCluster k f).cluster k' = s.cluster k' := by
  simp [State.cluster, State.modCluster, tget_tmod_ne, h]

@[simp] theorem State.fifo_modFifo_self (s : State) (k : FifoId) (f : Fifo → Fifo) : (s.modFifo k f).fifo k = f (s.fifo k) := by
  simp [State.fifo, State.modFifo]

theorem State.fifo_modFifo_ne (s : State) {k k' : FifoId} (f : Fifo → Fifo) (h : k ≠ k') : (s.modFifo k f).fifo k' = s.fifo k' := by
  simp [State.fifo, State.modFifo, tget_tmod_ne, h]

@[simp] theorem State.core_modCore_self (s : State) (k : Nat) (f : Core → Core) : (s.modCore k f).core k = f (s.core k) := by
  simp [State.core, State.modCore]

theorem State.core_modCore_ne (s : State) {k k' : Nat} (f : Core → Core) (h : k ≠ k') : (s.modCore k f).core k' = s.core k' := by
  simp [State.core, State.modCore, tget_tmod_ne, h]

@[simp] theorem State.task_modTask_self (s : State) (k : Nat) (f : Task → Task) : (s.modTask k f).task k = f (s.task k) := by
  simp [State.task, State.modTask]

theorem State.task_modTask_ne (s : State) {k k' : Nat} (f : Task → Task) (h : k ≠ k') : (s.modTask k f).task k' = s.task k' := by
  simp [State.task, State.modTask, tget_tmod_ne, h]

@[simp] theorem State.chan_modChan_self (s : State) (k : Nat) (f : Chan → Chan) : (s.modChan k f).chan k = f (s.chan k) := by
  simp [State.chan, State.modChan]

theorem State.chan_modChan_ne (s : State) {k k' : Nat} (f : Chan → Chan) (h : k ≠ k') : (s.modChan k f).chan k' = s.chan k' := by
  simp [State.chan, State.modChan, tget_tmod_ne, h]

@[simp] theorem State.hn_modHn_self (s : State) (k : Nat) (f : HnPort → HnPort) : (s.modHn k f).hn k = f (s.hn k) := by
  simp [State.hn, State.modHn]

theorem State.hn_modHn_ne (s : State) {k k' : Nat} (f : HnPort → HnPort) (h : k ≠ k') : (s.modHn k f).hn k' = s.hn k' := by
  simp [State.hn, State.modHn, tget_tmod_ne, h]

/-- A register is reached alike whatever its holding register holds. -/
@[simp] theorem State.unhold_reaches (s : State) (r r' : RegName) (i i' : Nat) : (s.unhold r i).reaches r' i' = s.reaches r' i' := rfl

/-- A host write that reaches its register empties the holding register and has the effect of its value (R20). -/
theorem State.asWrite_reached {s : State} {r : RegName} {i : Nat} (h : s.reaches r i = true) (f : State → Host.Outcome State Fault Refusal) :
    s.asWrite r i f = f (s.unhold r i) := by
  have h' : s.reach (offsetOf r i) = .here := by simpa [State.reaches] using h
  simp only [State.asWrite, State.asWriteAt, h']

/-- A host write of a die the part does not have does nothing (R4). -/
theorem State.asWrite_muted {s : State} {r : RegName} {i : Nat} (h : s.reach (offsetOf r i) = .muted) (f : State → Host.Outcome State Fault Refusal) :
    s.asWrite r i f = .next s := by
  simp only [State.asWrite, State.asWriteAt, h]

/-- A host write either reaches its register, or is ignored, or is ignored and logged (R4, R642, R690). -/
theorem State.asWriteAt_cases (s : State) (off : Nat) (r : RegName) (i : Nat) (f : State → Host.Outcome State Fault Refusal) :
    (s.reach off = .here ∧ s.asWriteAt off r i f = f (s.unhold r i)) ∨ (s.reach off = .muted ∧ s.asWriteAt off r i f = .next s) ∨
      (s.reach off = .off ∧ s.asWriteAt off r i f = .next (s.idError 2 0 off 0)) := by
  unfold State.asWriteAt
  cases s.reach off <;> simp


theorem State.forEach_nil {α : Type} (s : State) (f : State → α → State) : s.forEach [] f = s := rfl

theorem State.forEach_cons {α : Type} (s : State) (x : α) (l : List α) (f : State → α → State) :
    s.forEach (x :: l) f = (f s x).forEach l f := rfl

/-- What every round of a walk keeps, the walk keeps. -/
theorem State.forEach_induct {α : Type} {P : State → Prop} {f : State → α → State} (l : List α)
    (hf : ∀ t x, x ∈ l → P t → P (f t x)) {s : State} (hs : P s) : P (s.forEach l f) := by
  induction l generalizing s with
  | nil => exact hs
  | cons x l ih => exact ih (fun t y hy ht => hf t y (List.mem_cons_of_mem _ hy) ht) (hf s x List.mem_cons_self hs)

end Sys2Proof.Machine
end

