-- ==== Sys2Proof/Laws/Compose.lean ====
section
/-! SUPPORT. Two changes of one entry are one change; a register field written twice holds the second value. -/

namespace Sys2Proof.Machine

set_option Elab.async false

theorem tset_tset {κ ν : Type} [DecidableEq κ] (l : List (κ × ν)) (k : κ) (v w : ν) : tset (tset l k v) k w = tset l k w := by
  induction l with
  | nil => simp [tset]
  | cons e l ih =>
    obtain ⟨a, b⟩ := e
    by_cases h : a = k
    · simp [tset, h]
    · simp [tset, h, ih]

theorem tmod_tmod {κ ν : Type} [DecidableEq κ] (d : ν) (l : List (κ × ν)) (k : κ) (f g : ν → ν) : tmod d (tmod d l k f) k g = tmod d l k fun x => g (f x) := by
  simp [tmod, tset_tset]

theorem State.modCamp_modCamp (s : State) (k : Nat) (f g : Camp → Camp) : (s.modCamp k f).modCamp k g = s.modCamp k fun x => g (f x) := by
  simp [State.modCamp, tmod_tmod]

theorem State.modCluster_modCluster (s : State) (k : Nat) (f g : Cluster → Cluster) : (s.modCluster k f).modCluster k g = s.modCluster k fun x => g (f x) := by
  simp [State.modCluster, tmod_tmod]

theorem State.modCluster_congr (s : State) (k : Nat) (f g : Cluster → Cluster) (h : f (s.cluster k) = g (s.cluster k)) : s.modCluster k f = s.modCluster k g := by
  simp only [State.cluster] at h
  simp [State.modCluster, tmod, h]

theorem State.modCamp_congr (s : State) (k : Nat) (f g : Camp → Camp) (h : f (s.camp k) = g (s.camp k)) : s.modCamp k f = s.modCamp k g := by
  simp only [State.camp] at h
  simp [State.modCamp, tmod, h]

theorem State.modFifo_modFifo (s : State) (k : FifoId) (f g : Fifo → Fifo) : (s.modFifo k f).modFifo k g = s.modFifo k fun x => g (f x) := by
  simp [State.modFifo, tmod_tmod]

theorem State.modCore_modCore (s : State) (k : Nat) (f g : Core → Core) : (s.modCore k f).modCore k g = s.modCore k fun x => g (f x) := by
  simp [State.modCore, tmod_tmod]

theorem State.modTask_modTask (s : State) (k : Nat) (f g : Task → Task) : (s.modTask k f).modTask k g = s.modTask k fun x => g (f x) := by
  simp [State.modTask, tmod_tmod]

theorem State.modFlow_modFlow (s : State) (k : Nat) (f g : Flow → Flow) : (s.modFlow k f).modFlow k g = s.modFlow k fun x => g (f x) := by
  simp [State.modFlow, tmod_tmod]

theorem State.modChan_modChan (s : State) (k : Nat) (f g : Chan → Chan) : (s.modChan k f).modChan k g = s.modChan k fun x => g (f x) := by
  simp [State.modChan, tmod_tmod]

theorem State.modHn_modHn (s : State) (k : Nat) (f g : HnPort → HnPort) : (s.modHn k f).modHn k g = s.modHn k fun x => g (f x) := by
  simp [State.modHn, tmod_tmod]

theorem State.modDeep_modDeep (s : State) (f g : Deep → Deep) : (s.modDeep f).modDeep g = s.modDeep fun x => g (f x) := rfl

theorem State.modKeys_modKeys (s : State) (f g : KeyStore → KeyStore) : (s.modKeys f).modKeys g = s.modKeys fun x => g (f x) := rfl

theorem State.modLoad_modLoad (s : State) (f g : Load → Load) : (s.modLoad f).modLoad g = s.modLoad fun x => g (f x) := rfl

theorem State.modTrace_modTrace (s : State) (f g : TraceUnit → TraceUnit) : (s.modTrace f).modTrace g = s.modTrace fun x => g (f x) := rfl

theorem State.modAcq_modAcq (s : State) (f g : Acq → Acq) : (s.modAcq f).modAcq g = s.modAcq fun x => g (f x) := rfl

theorem State.modTime_modTime (s : State) (f g : TimeUnit → TimeUnit) : (s.modTime f).modTime g = s.modTime fun x => g (f x) := rfl

theorem State.modFab_modFab (s : State) (f g : FabUnit → FabUnit) : (s.modFab f).modFab g = s.modFab fun x => g (f x) := rfl

theorem State.modNoc_modNoc (s : State) (f g : Noc → Noc) : (s.modNoc f).modNoc g = s.modNoc fun x => g (f x) := rfl

theorem State.modPower_modPower (s : State) (f g : Power → Power) : (s.modPower f).modPower g = s.modPower fun x => g (f x) := rfl

/-- What every round of a walk leaves alone, the walk leaves alone. -/
theorem State.forEach_same {α β : Type} (p : State → β) {f : State → α → State} (h : ∀ t x, p (f t x) = p t) (s : State) (l : List α) :
    p (s.forEach l f) = p s := by
  induction l generalizing s with
  | nil => rfl
  | cons x l ih => exact (ih _).trans (h s x)

theorem State.wr_wr (s : State) (r : RegName) (i : Nat) (f : FName) (v w : Nat) : (s.wr r i f v).wr r i f w = s.wr r i f w := by
  simp [State.wr, tset_tset]

theorem Cluster.setW_setW (cl : Cluster) (r : Nat) (v w : Word) : (cl.setW r v).setW r w = cl.setW r w := by
  simp [Cluster.setW, tset_tset]

@[simp] theorem Cluster.wreg_setW_self (cl : Cluster) (r : Nat) (v : Word) : (cl.setW r v).wreg r = v := by
  simp [Cluster.setW, Cluster.wreg]

theorem Cluster.wreg_setW_ne (cl : Cluster) {r q : Nat} (v : Word) (h : r % 16 ≠ q % 16) : (cl.setW r v).wreg q = cl.wreg q := by
  simp [Cluster.setW, Cluster.wreg, tget_tset, h]

/-- What a walk that changes each die group of a list leaves in one of them. -/
theorem State.forEach_group (f : Group → Group) (s : State) (c : Nat) (l : List Nat) (d : Nat) :
    (d ∉ l → (s.forEach l fun t d => t.modGroup c d f).group c d = s.group c d) ∧
    ((∀ g, f (f g) = f g) → d ∈ l → (s.forEach l fun t d => t.modGroup c d f).group c d = f (s.group c d)) := by
  induction l generalizing s with
  | nil => exact ⟨fun _ => rfl, fun _ h => absurd h List.not_mem_nil⟩
  | cons x l ih =>
    have h0 : (s.forEach (x :: l) fun t d => t.modGroup c d f) = (s.modGroup c x f).forEach l fun t d => t.modGroup c d f := rfl
    have h1 : x ≠ d → (s.modGroup c x f).group c d = s.group c d := by
      intro h; simp [State.group, State.modGroup, State.camp, State.modCamp, tget_tmod_ne _ _ _ h]
    have h2 : (s.modGroup c d f).group c d = f (s.group c d) := by
      simp [State.group, State.modGroup, State.camp, State.modCamp]
    rw [h0]
    refine ⟨fun h => ?_, fun hi h => ?_⟩
    · rw [List.mem_cons, not_or] at h
      rw [(ih _).1 h.2, h1 (Ne.symm h.1)]
    · by_cases hl : d ∈ l
      · rw [(ih _).2 hi hl]
        by_cases hx : x = d
        · rw [hx, h2, hi]
        · rw [h1 hx]
      · have hx : x = d := by
          rcases List.mem_cons.mp h with h | h
          · exact h.symm
          · exact absurd h hl
        rw [(ih _).1 hl, hx, h2]

theorem State.forEach_group_mem (p : Group → Prop) {f : Group → Group} (h : ∀ g, p (f g)) (s : State) (c : Nat) (l : List Nat) (d : Nat) (hd : d ∈ l) :
    p ((s.forEach l fun t d => t.modGroup c d f).group c d) := by
  have keep : ∀ (l : List Nat) (t : State), p (t.group c d) → p ((t.forEach l fun t d => t.modGroup c d f).group c d) := by
    intro l
    induction l with
    | nil => exact fun _ h => h
    | cons y l ih =>
      intro t ht
      refine ih (t.modGroup c y f) ?_
      by_cases hy : y = d
      · subst hy; simpa [State.group, State.modGroup, State.camp, State.modCamp] using h _
      · simpa [State.group, State.modGroup, State.camp, State.modCamp, tget_tmod_ne _ _ _ hy] using ht
  induction l generalizing s with
  | nil => exact absurd hd List.not_mem_nil
  | cons x l ih =>
    rcases List.mem_cons.mp hd with hx | hx
    · subst hx
      exact keep l _ (by simpa [State.group, State.modGroup, State.camp, State.modCamp] using h _)
    · exact ih _ hx

/-- The pitches of a camp are a reading of its pitch registers. -/
theorem State.campDies_of_rd {s t : State} {c : Nat} (h : ∀ i f, t.rd .RUN_CAMP_PITCH_LO i f = s.rd .RUN_CAMP_PITCH_LO i f ∧ t.rd .RUN_CAMP_PITCH_HI i f = s.rd .RUN_CAMP_PITCH_HI i f) :
    t.campDies c = s.campDies c := by
  simp [State.campDies, State.campPitches, h]

/-- A halt that has been decided is taken where the camp stands frozen; otherwise nothing happens (R56). -/
theorem State.haltIfFrozen_cases (s : State) (c : Nat) :
    s.haltIfFrozen c = s ∨ ∃ k, s.campState c = 3 ∧ s.campFrozen c = true ∧ s.decided c = some k ∧ s.haltIfFrozen c = s.haltNow c k true := by
  unfold State.haltIfFrozen
  split
  · rename_i h
    split
    · exact .inr ⟨_, h.1, h.2, ‹_›, rfl⟩
    · exact .inl rfl
  · exact .inl rfl

end Sys2Proof.Machine
end

