-- ==== Sys2Proof/Laws/Signals.lean ====
section
/-! SUPPORT. What the interrupts, the logs and the error counters leave alone. -/

namespace Sys2Proof.Machine

set_option Elab.async false

theorem State.wrs_rd_reg (s : State) {r r' : RegName} (i i' : Nat) (l : List (FName × Nat)) (f : FName) (h : r ≠ r') : (s.wrs r i l).rd r' i' f = s.rd r' i' f := by
  induction l generalizing s with
  | nil => rfl
  | cons e l ih => obtain ⟨x, v⟩ := e; rw [State.wrs_cons, ih, State.rd_wr_reg _ _ _ _ _ _ h]

theorem State.wrs_rd_fld (s : State) {r r' : RegName} (i i' : Nat) (l : List (FName × Nat)) (f : FName) (h : ∀ e ∈ l, e.1 ≠ f) : (s.wrs r i l).rd r' i' f = s.rd r' i' f := by
  induction l generalizing s with
  | nil => rfl
  | cons e l ih =>
    obtain ⟨x, v⟩ := e
    rw [State.wrs_cons, ih _ fun y hy => h y (List.mem_cons_of_mem _ hy), State.rd_wr_fld _ _ _ _ _ _ (h _ List.mem_cons_self)]

@[simp] theorem State.wrs_pending (s : State) (r : RegName) (i : Nat) (l : List (FName × Nat)) : (s.wrs r i l).pending = s.pending := by
  induction l generalizing s with
  | nil => rfl
  | cons e l ih => exact ih _
@[simp] theorem State.wrs_part (s : State) (r : RegName) (i : Nat) (l : List (FName × Nat)) : (s.wrs r i l).part = s.part := by
  induction l generalizing s with
  | nil => rfl
  | cons e l ih => exact ih _
@[simp] theorem State.wrs_hold (s : State) (r : RegName) (i : Nat) (l : List (FName × Nat)) : (s.wrs r i l).hold = s.hold := by
  induction l generalizing s with
  | nil => rfl
  | cons e l ih => exact ih _
@[simp] theorem State.wrs_camps (s : State) (r : RegName) (i : Nat) (l : List (FName × Nat)) : (s.wrs r i l).camps = s.camps := by
  induction l generalizing s with
  | nil => rfl
  | cons e l ih => exact ih _
@[simp] theorem State.wrs_clusters (s : State) (r : RegName) (i : Nat) (l : List (FName × Nat)) : (s.wrs r i l).clusters = s.clusters := by
  induction l generalizing s with
  | nil => rfl
  | cons e l ih => exact ih _
@[simp] theorem State.wrs_xing (s : State) (r : RegName) (i : Nat) (l : List (FName × Nat)) : (s.wrs r i l).xing = s.xing := by
  induction l generalizing s with
  | nil => rfl
  | cons e l ih => exact ih _
@[simp] theorem State.wrs_fifos (s : State) (r : RegName) (i : Nat) (l : List (FName × Nat)) : (s.wrs r i l).fifos = s.fifos := by
  induction l generalizing s with
  | nil => rfl
  | cons e l ih => exact ih _
@[simp] theorem State.wrs_host (s : State) (r : RegName) (i : Nat) (l : List (FName × Nat)) : (s.wrs r i l).host = s.host := by
  induction l generalizing s with
  | nil => rfl
  | cons e l ih => exact ih _
@[simp] theorem State.wrs_health (s : State) (r : RegName) (i : Nat) (l : List (FName × Nat)) : (s.wrs r i l).health = s.health := by
  induction l generalizing s with
  | nil => rfl
  | cons e l ih => exact ih _
@[simp] theorem State.wrs_deep (s : State) (r : RegName) (i : Nat) (l : List (FName × Nat)) : (s.wrs r i l).deep = s.deep := by
  induction l generalizing s with
  | nil => rfl
  | cons e l ih => exact ih _
@[simp] theorem State.wrs_keys (s : State) (r : RegName) (i : Nat) (l : List (FName × Nat)) : (s.wrs r i l).keys = s.keys := by
  induction l generalizing s with
  | nil => rfl
  | cons e l ih => exact ih _
@[simp] theorem State.wrs_load (s : State) (r : RegName) (i : Nat) (l : List (FName × Nat)) : (s.wrs r i l).load = s.load := by
  induction l generalizing s with
  | nil => rfl
  | cons e l ih => exact ih _
@[simp] theorem State.wrs_cores (s : State) (r : RegName) (i : Nat) (l : List (FName × Nat)) : (s.wrs r i l).cores = s.cores := by
  induction l generalizing s with
  | nil => rfl
  | cons e l ih => exact ih _
@[simp] theorem State.wrs_tasks (s : State) (r : RegName) (i : Nat) (l : List (FName × Nat)) : (s.wrs r i l).tasks = s.tasks := by
  induction l generalizing s with
  | nil => rfl
  | cons e l ih => exact ih _
@[simp] theorem State.wrs_flows (s : State) (r : RegName) (i : Nat) (l : List (FName × Nat)) : (s.wrs r i l).flows = s.flows := by
  induction l generalizing s with
  | nil => rfl
  | cons e l ih => exact ih _
@[simp] theorem State.wrs_stage (s : State) (r : RegName) (i : Nat) (l : List (FName × Nat)) : (s.wrs r i l).stage = s.stage := by
  induction l generalizing s with
  | nil => rfl
  | cons e l ih => exact ih _
@[simp] theorem State.wrs_unlisted (s : State) (r : RegName) (i : Nat) (l : List (FName × Nat)) : (s.wrs r i l).unlisted = s.unlisted := by
  induction l generalizing s with
  | nil => rfl
  | cons e l ih => exact ih _
@[simp] theorem State.wrs_chans (s : State) (r : RegName) (i : Nat) (l : List (FName × Nat)) : (s.wrs r i l).chans = s.chans := by
  induction l generalizing s with
  | nil => rfl
  | cons e l ih => exact ih _
@[simp] theorem State.wrs_trace (s : State) (r : RegName) (i : Nat) (l : List (FName × Nat)) : (s.wrs r i l).trace = s.trace := by
  induction l generalizing s with
  | nil => rfl
  | cons e l ih => exact ih _
@[simp] theorem State.wrs_acq (s : State) (r : RegName) (i : Nat) (l : List (FName × Nat)) : (s.wrs r i l).acq = s.acq := by
  induction l generalizing s with
  | nil => rfl
  | cons e l ih => exact ih _
@[simp] theorem State.wrs_time (s : State) (r : RegName) (i : Nat) (l : List (FName × Nat)) : (s.wrs r i l).time = s.time := by
  induction l generalizing s with
  | nil => rfl
  | cons e l ih => exact ih _
@[simp] theorem State.wrs_links (s : State) (r : RegName) (i : Nat) (l : List (FName × Nat)) : (s.wrs r i l).links = s.links := by
  induction l generalizing s with
  | nil => rfl
  | cons e l ih => exact ih _
@[simp] theorem State.wrs_fab (s : State) (r : RegName) (i : Nat) (l : List (FName × Nat)) : (s.wrs r i l).fab = s.fab := by
  induction l generalizing s with
  | nil => rfl
  | cons e l ih => exact ih _
@[simp] theorem State.wrs_noc (s : State) (r : RegName) (i : Nat) (l : List (FName × Nat)) : (s.wrs r i l).noc = s.noc := by
  induction l generalizing s with
  | nil => rfl
  | cons e l ih => exact ih _
@[simp] theorem State.wrs_power (s : State) (r : RegName) (i : Nat) (l : List (FName × Nat)) : (s.wrs r i l).power = s.power := by
  induction l generalizing s with
  | nil => rfl
  | cons e l ih => exact ih _
@[simp] theorem State.wrs_flash (s : State) (r : RegName) (i : Nat) (l : List (FName × Nat)) : (s.wrs r i l).flash = s.flash := by
  induction l generalizing s with
  | nil => rfl
  | cons e l ih => exact ih _
@[simp] theorem State.wrs_test (s : State) (r : RegName) (i : Nat) (l : List (FName × Nat)) : (s.wrs r i l).test = s.test := by
  induction l generalizing s with
  | nil => rfl
  | cons e l ih => exact ih _
@[simp] theorem State.wrs_now (s : State) (r : RegName) (i : Nat) (l : List (FName × Nat)) : (s.wrs r i l).now = s.now := by
  induction l generalizing s with
  | nil => rfl
  | cons e l ih => exact ih _
@[simp] theorem State.wrs_ticks (s : State) (r : RegName) (i : Nat) (l : List (FName × Nat)) : (s.wrs r i l).ticks = s.ticks := by
  induction l generalizing s with
  | nil => rfl
  | cons e l ih => exact ih _
@[simp] theorem State.wrs_out (s : State) (r : RegName) (i : Nat) (l : List (FName × Nat)) : (s.wrs r i l).out = s.out := by
  induction l generalizing s with
  | nil => rfl
  | cons e l ih => exact ih _
@[simp] theorem State.wrs_nextId (s : State) (r : RegName) (i : Nat) (l : List (FName × Nat)) : (s.wrs r i l).nextId = s.nextId := by
  induction l generalizing s with
  | nil => rfl
  | cons e l ih => exact ih _
@[simp] theorem State.wrs_draws (s : State) (r : RegName) (i : Nat) (l : List (FName × Nat)) : (s.wrs r i l).draws = s.draws := by
  induction l generalizing s with
  | nil => rfl
  | cons e l ih => exact ih _

@[simp] theorem State.msix_pending (s : State) (v : Nat) : (s.msix v).pending = s.pending := by
  simp only [State.msix]; split <;> (try split) <;> rfl
@[simp] theorem State.msix_part (s : State) (v : Nat) : (s.msix v).part = s.part := by
  simp only [State.msix]; split <;> (try split) <;> rfl
@[simp] theorem State.msix_hold (s : State) (v : Nat) : (s.msix v).hold = s.hold := by
  simp only [State.msix]; split <;> (try split) <;> rfl
@[simp] theorem State.msix_camps (s : State) (v : Nat) : (s.msix v).camps = s.camps := by
  simp only [State.msix]; split <;> (try split) <;> rfl
@[simp] theorem State.msix_clusters (s : State) (v : Nat) : (s.msix v).clusters = s.clusters := by
  simp only [State.msix]; split <;> (try split) <;> rfl
@[simp] theorem State.msix_xing (s : State) (v : Nat) : (s.msix v).xing = s.xing := by
  simp only [State.msix]; split <;> (try split) <;> rfl
@[simp] theorem State.msix_fifos (s : State) (v : Nat) : (s.msix v).fifos = s.fifos := by
  simp only [State.msix]; split <;> (try split) <;> rfl
@[simp] theorem State.msix_health (s : State) (v : Nat) : (s.msix v).health = s.health := by
  simp only [State.msix]; split <;> (try split) <;> rfl
@[simp] theorem State.msix_deep (s : State) (v : Nat) : (s.msix v).deep = s.deep := by
  simp only [State.msix]; split <;> (try split) <;> rfl
@[simp] theorem State.msix_keys (s : State) (v : Nat) : (s.msix v).keys = s.keys := by
  simp only [State.msix]; split <;> (try split) <;> rfl
@[simp] theorem State.msix_load (s : State) (v : Nat) : (s.msix v).load = s.load := by
  simp only [State.msix]; split <;> (try split) <;> rfl
@[simp] theorem State.msix_cores (s : State) (v : Nat) : (s.msix v).cores = s.cores := by
  simp only [State.msix]; split <;> (try split) <;> rfl
@[simp] theorem State.msix_tasks (s : State) (v : Nat) : (s.msix v).tasks = s.tasks := by
  simp only [State.msix]; split <;> (try split) <;> rfl
@[simp] theorem State.msix_flows (s : State) (v : Nat) : (s.msix v).flows = s.flows := by
  simp only [State.msix]; split <;> (try split) <;> rfl
@[simp] theorem State.msix_stage (s : State) (v : Nat) : (s.msix v).stage = s.stage := by
  simp only [State.msix]; split <;> (try split) <;> rfl
@[simp] theorem State.msix_unlisted (s : State) (v : Nat) : (s.msix v).unlisted = s.unlisted := by
  simp only [State.msix]; split <;> (try split) <;> rfl
@[simp] theorem State.msix_chans (s : State) (v : Nat) : (s.msix v).chans = s.chans := by
  simp only [State.msix]; split <;> (try split) <;> rfl
@[simp] theorem State.msix_trace (s : State) (v : Nat) : (s.msix v).trace = s.trace := by
  simp only [State.msix]; split <;> (try split) <;> rfl
@[simp] theorem State.msix_acq (s : State) (v : Nat) : (s.msix v).acq = s.acq := by
  simp only [State.msix]; split <;> (try split) <;> rfl
@[simp] theorem State.msix_time (s : State) (v : Nat) : (s.msix v).time = s.time := by
  simp only [State.msix]; split <;> (try split) <;> rfl
@[simp] theorem State.msix_links (s : State) (v : Nat) : (s.msix v).links = s.links := by
  simp only [State.msix]; split <;> (try split) <;> rfl
@[simp] theorem State.msix_fab (s : State) (v : Nat) : (s.msix v).fab = s.fab := by
  simp only [State.msix]; split <;> (try split) <;> rfl
@[simp] theorem State.msix_noc (s : State) (v : Nat) : (s.msix v).noc = s.noc := by
  simp only [State.msix]; split <;> (try split) <;> rfl
@[simp] theorem State.msix_power (s : State) (v : Nat) : (s.msix v).power = s.power := by
  simp only [State.msix]; split <;> (try split) <;> rfl
@[simp] theorem State.msix_flash (s : State) (v : Nat) : (s.msix v).flash = s.flash := by
  simp only [State.msix]; split <;> (try split) <;> rfl
@[simp] theorem State.msix_test (s : State) (v : Nat) : (s.msix v).test = s.test := by
  simp only [State.msix]; split <;> (try split) <;> rfl
@[simp] theorem State.msix_now (s : State) (v : Nat) : (s.msix v).now = s.now := by
  simp only [State.msix]; split <;> (try split) <;> rfl
@[simp] theorem State.msix_ticks (s : State) (v : Nat) : (s.msix v).ticks = s.ticks := by
  simp only [State.msix]; split <;> (try split) <;> rfl
@[simp] theorem State.msix_nextId (s : State) (v : Nat) : (s.msix v).nextId = s.nextId := by
  simp only [State.msix]; split <;> (try split) <;> rfl
@[simp] theorem State.msix_draws (s : State) (v : Nat) : (s.msix v).draws = s.draws := by
  simp only [State.msix]; split <;> (try split) <;> rfl
@[simp] theorem State.msix_regs (s : State) (v : Nat) : (s.msix v).regs = s.regs := by
  simp only [State.msix]; split <;> (try split) <;> rfl
@[simp] theorem State.msix_rd (s : State) (v : Nat) (r : RegName) (i : Nat) (f : FName) : (s.msix v).rd r i f = s.rd r i f := by
  simp [State.rd]

@[simp] theorem State.irq_pending (s : State) (v : Nat) : (s.irq v).pending = s.pending := by
  simp only [State.irq]; split <;> (try split) <;> simp
@[simp] theorem State.irq_part (s : State) (v : Nat) : (s.irq v).part = s.part := by
  simp only [State.irq]; split <;> (try split) <;> simp
@[simp] theorem State.irq_hold (s : State) (v : Nat) : (s.irq v).hold = s.hold := by
  simp only [State.irq]; split <;> (try split) <;> simp
@[simp] theorem State.irq_camps (s : State) (v : Nat) : (s.irq v).camps = s.camps := by
  simp only [State.irq]; split <;> (try split) <;> simp
@[simp] theorem State.irq_clusters (s : State) (v : Nat) : (s.irq v).clusters = s.clusters := by
  simp only [State.irq]; split <;> (try split) <;> simp
@[simp] theorem State.irq_xing (s : State) (v : Nat) : (s.irq v).xing = s.xing := by
  simp only [State.irq]; split <;> (try split) <;> simp
@[simp] theorem State.irq_fifos (s : State) (v : Nat) : (s.irq v).fifos = s.fifos := by
  simp only [State.irq]; split <;> (try split) <;> simp
@[simp] theorem State.irq_health (s : State) (v : Nat) : (s.irq v).health = s.health := by
  simp only [State.irq]; split <;> (try split) <;> simp
@[simp] theorem State.irq_deep (s : State) (v : Nat) : (s.irq v).deep = s.deep := by
  simp only [State.irq]; split <;> (try split) <;> simp
@[simp] theorem State.irq_keys (s : State) (v : Nat) : (s.irq v).keys = s.keys := by
  simp only [State.irq]; split <;> (try split) <;> simp
@[simp] theorem State.irq_load (s : State) (v : Nat) : (s.irq v).load = s.load := by
  simp only [State.irq]; split <;> (try split) <;> simp
@[simp] theorem State.irq_cores (s : State) (v : Nat) : (s.irq v).cores = s.cores := by
  simp only [State.irq]; split <;> (try split) <;> simp
@[simp] theorem State.irq_tasks (s : State) (v : Nat) : (s.irq v).tasks = s.tasks := by
  simp only [State.irq]; split <;> (try split) <;> simp
@[simp] theorem State.irq_flows (s : State) (v : Nat) : (s.irq v).flows = s.flows := by
  simp only [State.irq]; split <;> (try split) <;> simp
@[simp] theorem State.irq_stage (s : State) (v : Nat) : (s.irq v).stage = s.stage := by
  simp only [State.irq]; split <;> (try split) <;> simp
@[simp] theorem State.irq_unlisted (s : State) (v : Nat) : (s.irq v).unlisted = s.unlisted := by
  simp only [State.irq]; split <;> (try split) <;> simp
@[simp] theorem State.irq_chans (s : State) (v : Nat) : (s.irq v).chans = s.chans := by
  simp only [State.irq]; split <;> (try split) <;> simp
@[simp] theorem State.irq_trace (s : State) (v : Nat) : (s.irq v).trace = s.trace := by
  simp only [State.irq]; split <;> (try split) <;> simp
@[simp] theorem State.irq_acq (s : State) (v : Nat) : (s.irq v).acq = s.acq := by
  simp only [State.irq]; split <;> (try split) <;> simp
@[simp] theorem State.irq_time (s : State) (v : Nat) : (s.irq v).time = s.time := by
  simp only [State.irq]; split <;> (try split) <;> simp
@[simp] theorem State.irq_links (s : State) (v : Nat) : (s.irq v).links = s.links := by
  simp only [State.irq]; split <;> (try split) <;> simp
@[simp] theorem State.irq_fab (s : State) (v : Nat) : (s.irq v).fab = s.fab := by
  simp only [State.irq]; split <;> (try split) <;> simp
@[simp] theorem State.irq_noc (s : State) (v : Nat) : (s.irq v).noc = s.noc := by
  simp only [State.irq]; split <;> (try split) <;> simp
@[simp] theorem State.irq_power (s : State) (v : Nat) : (s.irq v).power = s.power := by
  simp only [State.irq]; split <;> (try split) <;> simp
@[simp] theorem State.irq_flash (s : State) (v : Nat) : (s.irq v).flash = s.flash := by
  simp only [State.irq]; split <;> (try split) <;> simp
@[simp] theorem State.irq_test (s : State) (v : Nat) : (s.irq v).test = s.test := by
  simp only [State.irq]; split <;> (try split) <;> simp
@[simp] theorem State.irq_now (s : State) (v : Nat) : (s.irq v).now = s.now := by
  simp only [State.irq]; split <;> (try split) <;> simp
@[simp] theorem State.irq_ticks (s : State) (v : Nat) : (s.irq v).ticks = s.ticks := by
  simp only [State.irq]; split <;> (try split) <;> simp
@[simp] theorem State.irq_nextId (s : State) (v : Nat) : (s.irq v).nextId = s.nextId := by
  simp only [State.irq]; split <;> (try split) <;> simp
@[simp] theorem State.irq_draws (s : State) (v : Nat) : (s.irq v).draws = s.draws := by
  simp only [State.irq]; split <;> (try split) <;> simp
theorem State.irq_rd (s : State) (v : Nat) {r : RegName} (i : Nat) (f : FName) (h : r ≠ .HI_IRQ_CAUSE) : (s.irq v).rd r i f = s.rd r i f := by
  simp only [State.irq]; split <;> (try split) <;> simp [State.rd_wr, Ne.symm h]

@[simp] theorem State.campIrq_pending (s : State) (c : Nat) (b : CampBit) : (s.campIrq c b).pending = s.pending := by
  simp only [State.campIrq]; split <;> (try split) <;> simp
@[simp] theorem State.campIrq_part (s : State) (c : Nat) (b : CampBit) : (s.campIrq c b).part = s.part := by
  simp only [State.campIrq]; split <;> (try split) <;> simp
@[simp] theorem State.campIrq_hold (s : State) (c : Nat) (b : CampBit) : (s.campIrq c b).hold = s.hold := by
  simp only [State.campIrq]; split <;> (try split) <;> simp
@[simp] theorem State.campIrq_camps (s : State) (c : Nat) (b : CampBit) : (s.campIrq c b).camps = s.camps := by
  simp only [State.campIrq]; split <;> (try split) <;> simp
@[simp] theorem State.campIrq_clusters (s : State) (c : Nat) (b : CampBit) : (s.campIrq c b).clusters = s.clusters := by
  simp only [State.campIrq]; split <;> (try split) <;> simp
@[simp] theorem State.campIrq_xing (s : State) (c : Nat) (b : CampBit) : (s.campIrq c b).xing = s.xing := by
  simp only [State.campIrq]; split <;> (try split) <;> simp
@[simp] theorem State.campIrq_fifos (s : State) (c : Nat) (b : CampBit) : (s.campIrq c b).fifos = s.fifos := by
  simp only [State.campIrq]; split <;> (try split) <;> simp
@[simp] theorem State.campIrq_health (s : State) (c : Nat) (b : CampBit) : (s.campIrq c b).health = s.health := by
  simp only [State.campIrq]; split <;> (try split) <;> simp
@[simp] theorem State.campIrq_deep (s : State) (c : Nat) (b : CampBit) : (s.campIrq c b).deep = s.deep := by
  simp only [State.campIrq]; split <;> (try split) <;> simp
@[simp] theorem State.campIrq_keys (s : State) (c : Nat) (b : CampBit) : (s.campIrq c b).keys = s.keys := by
  simp only [State.campIrq]; split <;> (try split) <;> simp
@[simp] theorem State.campIrq_load (s : State) (c : Nat) (b : CampBit) : (s.campIrq c b).load = s.load := by
  simp only [State.campIrq]; split <;> (try split) <;> simp
@[simp] theorem State.campIrq_cores (s : State) (c : Nat) (b : CampBit) : (s.campIrq c b).cores = s.cores := by
  simp only [State.campIrq]; split <;> (try split) <;> simp
@[simp] theorem State.campIrq_tasks (s : State) (c : Nat) (b : CampBit) : (s.campIrq c b).tasks = s.tasks := by
  simp only [State.campIrq]; split <;> (try split) <;> simp
@[simp] theorem State.campIrq_flows (s : State) (c : Nat) (b : CampBit) : (s.campIrq c b).flows = s.flows := by
  simp only [State.campIrq]; split <;> (try split) <;> simp
@[simp] theorem State.campIrq_stage (s : State) (c : Nat) (b : CampBit) : (s.campIrq c b).stage = s.stage := by
  simp only [State.campIrq]; split <;> (try split) <;> simp
@[simp] theorem State.campIrq_unlisted (s : State) (c : Nat) (b : CampBit) : (s.campIrq c b).unlisted = s.unlisted := by
  simp only [State.campIrq]; split <;> (try split) <;> simp
@[simp] theorem State.campIrq_chans (s : State) (c : Nat) (b : CampBit) : (s.campIrq c b).chans = s.chans := by
  simp only [State.campIrq]; split <;> (try split) <;> simp
@[simp] theorem State.campIrq_trace (s : State) (c : Nat) (b : CampBit) : (s.campIrq c b).trace = s.trace := by
  simp only [State.campIrq]; split <;> (try split) <;> simp
@[simp] theorem State.campIrq_acq (s : State) (c : Nat) (b : CampBit) : (s.campIrq c b).acq = s.acq := by
  simp only [State.campIrq]; split <;> (try split) <;> simp
@[simp] theorem State.campIrq_time (s : State) (c : Nat) (b : CampBit) : (s.campIrq c b).time = s.time := by
  simp only [State.campIrq]; split <;> (try split) <;> simp
@[simp] theorem State.campIrq_links (s : State) (c : Nat) (b : CampBit) : (s.campIrq c b).links = s.links := by
  simp only [State.campIrq]; split <;> (try split) <;> simp
@[simp] theorem State.campIrq_fab (s : State) (c : Nat) (b : CampBit) : (s.campIrq c b).fab = s.fab := by
  simp only [State.campIrq]; split <;> (try split) <;> simp
@[simp] theorem State.campIrq_noc (s : State) (c : Nat) (b : CampBit) : (s.campIrq c b).noc = s.noc := by
  simp only [State.campIrq]; split <;> (try split) <;> simp
@[simp] theorem State.campIrq_power (s : State) (c : Nat) (b : CampBit) : (s.campIrq c b).power = s.power := by
  simp only [State.campIrq]; split <;> (try split) <;> simp
@[simp] theorem State.campIrq_flash (s : State) (c : Nat) (b : CampBit) : (s.campIrq c b).flash = s.flash := by
  simp only [State.campIrq]; split <;> (try split) <;> simp
@[simp] theorem State.campIrq_test (s : State) (c : Nat) (b : CampBit) : (s.campIrq c b).test = s.test := by
  simp only [State.campIrq]; split <;> (try split) <;> simp
@[simp] theorem State.campIrq_now (s : State) (c : Nat) (b : CampBit) : (s.campIrq c b).now = s.now := by
  simp only [State.campIrq]; split <;> (try split) <;> simp
@[simp] theorem State.campIrq_ticks (s : State) (c : Nat) (b : CampBit) : (s.campIrq c b).ticks = s.ticks := by
  simp only [State.campIrq]; split <;> (try split) <;> simp
@[simp] theorem State.campIrq_nextId (s : State) (c : Nat) (b : CampBit) : (s.campIrq c b).nextId = s.nextId := by
  simp only [State.campIrq]; split <;> (try split) <;> simp
@[simp] theorem State.campIrq_draws (s : State) (c : Nat) (b : CampBit) : (s.campIrq c b).draws = s.draws := by
  simp only [State.campIrq]; split <;> (try split) <;> simp
theorem State.campIrq_rd (s : State) (c : Nat) (b : CampBit) {r : RegName} (i : Nat) (f : FName) (h : r ≠ .HI_CAMP_IRQ) : (s.campIrq c b).rd r i f = s.rd r i f := by
  simp only [State.campIrq]; split <;> (try split) <;> simp [State.rd_wr, Ne.symm h]

theorem State.logEvent_pending (s : State) (r : RegName) (i : Nat) (fs : List (FName × Nat)) (more : State → State) (h : ∀ t, (more t).pending = t.pending) :
    (s.logEvent r i fs more).pending = s.pending := by
  simp only [State.logEvent]; split <;> (try split) <;> simp [h]
theorem State.logEvent_part (s : State) (r : RegName) (i : Nat) (fs : List (FName × Nat)) (more : State → State) (h : ∀ t, (more t).part = t.part) :
    (s.logEvent r i fs more).part = s.part := by
  simp only [State.logEvent]; split <;> (try split) <;> simp [h]
theorem State.logEvent_hold (s : State) (r : RegName) (i : Nat) (fs : List (FName × Nat)) (more : State → State) (h : ∀ t, (more t).hold = t.hold) :
    (s.logEvent r i fs more).hold = s.hold := by
  simp only [State.logEvent]; split <;> (try split) <;> simp [h]
theorem State.logEvent_camps (s : State) (r : RegName) (i : Nat) (fs : List (FName × Nat)) (more : State → State) (h : ∀ t, (more t).camps = t.camps) :
    (s.logEvent r i fs more).camps = s.camps := by
  simp only [State.logEvent]; split <;> (try split) <;> simp [h]
theorem State.logEvent_clusters (s : State) (r : RegName) (i : Nat) (fs : List (FName × Nat)) (more : State → State) (h : ∀ t, (more t).clusters = t.clusters) :
    (s.logEvent r i fs more).clusters = s.clusters := by
  simp only [State.logEvent]; split <;> (try split) <;> simp [h]
theorem State.logEvent_xing (s : State) (r : RegName) (i : Nat) (fs : List (FName × Nat)) (more : State → State) (h : ∀ t, (more t).xing = t.xing) :
    (s.logEvent r i fs more).xing = s.xing := by
  simp only [State.logEvent]; split <;> (try split) <;> simp [h]
theorem State.logEvent_fifos (s : State) (r : RegName) (i : Nat) (fs : List (FName × Nat)) (more : State → State) (h : ∀ t, (more t).fifos = t.fifos) :
    (s.logEvent r i fs more).fifos = s.fifos := by
  simp only [State.logEvent]; split <;> (try split) <;> simp [h]
theorem State.logEvent_health (s : State) (r : RegName) (i : Nat) (fs : List (FName × Nat)) (more : State → State) (h : ∀ t, (more t).health = t.health) :
    (s.logEvent r i fs more).health = s.health := by
  simp only [State.logEvent]; split <;> (try split) <;> simp [h]
theorem State.logEvent_deep (s : State) (r : RegName) (i : Nat) (fs : List (FName × Nat)) (more : State → State) (h : ∀ t, (more t).deep = t.deep) :
    (s.logEvent r i fs more).deep = s.deep := by
  simp only [State.logEvent]; split <;> (try split) <;> simp [h]
theorem State.logEvent_keys (s : State) (r : RegName) (i : Nat) (fs : List (FName × Nat)) (more : State → State) (h : ∀ t, (more t).keys = t.keys) :
    (s.logEvent r i fs more).keys = s.keys := by
  simp only [State.logEvent]; split <;> (try split) <;> simp [h]
theorem State.logEvent_load (s : State) (r : RegName) (i : Nat) (fs : List (FName × Nat)) (more : State → State) (h : ∀ t, (more t).load = t.load) :
    (s.logEvent r i fs more).load = s.load := by
  simp only [State.logEvent]; split <;> (try split) <;> simp [h]
theorem State.logEvent_cores (s : State) (r : RegName) (i : Nat) (fs : List (FName × Nat)) (more : State → State) (h : ∀ t, (more t).cores = t.cores) :
    (s.logEvent r i fs more).cores = s.cores := by
  simp only [State.logEvent]; split <;> (try split) <;> simp [h]
theorem State.logEvent_tasks (s : State) (r : RegName) (i : Nat) (fs : List (FName × Nat)) (more : State → State) (h : ∀ t, (more t).tasks = t.tasks) :
    (s.logEvent r i fs more).tasks = s.tasks := by
  simp only [State.logEvent]; split <;> (try split) <;> simp [h]
theorem State.logEvent_flows (s : State) (r : RegName) (i : Nat) (fs : List (FName × Nat)) (more : State → State) (h : ∀ t, (more t).flows = t.flows) :
    (s.logEvent r i fs more).flows = s.flows := by
  simp only [State.logEvent]; split <;> (try split) <;> simp [h]
theorem State.logEvent_stage (s : State) (r : RegName) (i : Nat) (fs : List (FName × Nat)) (more : State → State) (h : ∀ t, (more t).stage = t.stage) :
    (s.logEvent r i fs more).stage = s.stage := by
  simp only [State.logEvent]; split <;> (try split) <;> simp [h]
theorem State.logEvent_unlisted (s : State) (r : RegName) (i : Nat) (fs : List (FName × Nat)) (more : State → State) (h : ∀ t, (more t).unlisted = t.unlisted) :
    (s.logEvent r i fs more).unlisted = s.unlisted := by
  simp only [State.logEvent]; split <;> (try split) <;> simp [h]
theorem State.logEvent_chans (s : State) (r : RegName) (i : Nat) (fs : List (FName × Nat)) (more : State → State) (h : ∀ t, (more t).chans = t.chans) :
    (s.logEvent r i fs more).chans = s.chans := by
  simp only [State.logEvent]; split <;> (try split) <;> simp [h]
theorem State.logEvent_trace (s : State) (r : RegName) (i : Nat) (fs : List (FName × Nat)) (more : State → State) (h : ∀ t, (more t).trace = t.trace) :
    (s.logEvent r i fs more).trace = s.trace := by
  simp only [State.logEvent]; split <;> (try split) <;> simp [h]
theorem State.logEvent_acq (s : State) (r : RegName) (i : Nat) (fs : List (FName × Nat)) (more : State → State) (h : ∀ t, (more t).acq = t.acq) :
    (s.logEvent r i fs more).acq = s.acq := by
  simp only [State.logEvent]; split <;> (try split) <;> simp [h]
theorem State.logEvent_time (s : State) (r : RegName) (i : Nat) (fs : List (FName × Nat)) (more : State → State) (h : ∀ t, (more t).time = t.time) :
    (s.logEvent r i fs more).time = s.time := by
  simp only [State.logEvent]; split <;> (try split) <;> simp [h]
theorem State.logEvent_links (s : State) (r : RegName) (i : Nat) (fs : List (FName × Nat)) (more : State → State) (h : ∀ t, (more t).links = t.links) :
    (s.logEvent r i fs more).links = s.links := by
  simp only [State.logEvent]; split <;> (try split) <;> simp [h]
theorem State.logEvent_fab (s : State) (r : RegName) (i : Nat) (fs : List (FName × Nat)) (more : State → State) (h : ∀ t, (more t).fab = t.fab) :
    (s.logEvent r i fs more).fab = s.fab := by
  simp only [State.logEvent]; split <;> (try split) <;> simp [h]
theorem State.logEvent_noc (s : State) (r : RegName) (i : Nat) (fs : List (FName × Nat)) (more : State → State) (h : ∀ t, (more t).noc = t.noc) :
    (s.logEvent r i fs more).noc = s.noc := by
  simp only [State.logEvent]; split <;> (try split) <;> simp [h]
theorem State.logEvent_power (s : State) (r : RegName) (i : Nat) (fs : List (FName × Nat)) (more : State → State) (h : ∀ t, (more t).power = t.power) :
    (s.logEvent r i fs more).power = s.power := by
  simp only [State.logEvent]; split <;> (try split) <;> simp [h]
theorem State.logEvent_flash (s : State) (r : RegName) (i : Nat) (fs : List (FName × Nat)) (more : State → State) (h : ∀ t, (more t).flash = t.flash) :
    (s.logEvent r i fs more).flash = s.flash := by
  simp only [State.logEvent]; split <;> (try split) <;> simp [h]
theorem State.logEvent_test (s : State) (r : RegName) (i : Nat) (fs : List (FName × Nat)) (more : State → State) (h : ∀ t, (more t).test = t.test) :
    (s.logEvent r i fs more).test = s.test := by
  simp only [State.logEvent]; split <;> (try split) <;> simp [h]
theorem State.logEvent_now (s : State) (r : RegName) (i : Nat) (fs : List (FName × Nat)) (more : State → State) (h : ∀ t, (more t).now = t.now) :
    (s.logEvent r i fs more).now = s.now := by
  simp only [State.logEvent]; split <;> (try split) <;> simp [h]
theorem State.logEvent_ticks (s : State) (r : RegName) (i : Nat) (fs : List (FName × Nat)) (more : State → State) (h : ∀ t, (more t).ticks = t.ticks) :
    (s.logEvent r i fs more).ticks = s.ticks := by
  simp only [State.logEvent]; split <;> (try split) <;> simp [h]
theorem State.logEvent_nextId (s : State) (r : RegName) (i : Nat) (fs : List (FName × Nat)) (more : State → State) (h : ∀ t, (more t).nextId = t.nextId) :
    (s.logEvent r i fs more).nextId = s.nextId := by
  simp only [State.logEvent]; split <;> (try split) <;> simp [h]
theorem State.logEvent_draws (s : State) (r : RegName) (i : Nat) (fs : List (FName × Nat)) (more : State → State) (h : ∀ t, (more t).draws = t.draws) :
    (s.logEvent r i fs more).draws = s.draws := by
  simp only [State.logEvent]; split <;> (try split) <;> simp [h]

theorem State.logEvent_rd (s : State) {r r' : RegName} (i i' : Nat) (fs : List (FName × Nat)) (more : State → State) (f : FName) (hr : r ≠ r')
    (hi : r' ≠ .HI_IRQ_CAUSE) (h : ∀ t, (more t).rd r' i' f = t.rd r' i' f) : (s.logEvent r i fs more).rd r' i' f = s.rd r' i' f := by
  simp only [State.logEvent]; split <;> (try split) <;> simp [h, State.irq_rd, hi, State.rd_wr, hr, State.wrs_rd_reg]

/-- A log that holds nothing takes the event: VALID 1 and the fields given. -/
theorem State.logEvent_fresh (s : State) {r : RegName} (i : Nat) (fs : List (FName × Nat)) (more : State → State) (f : FName)
    (hv : s.rd r i .VALID = 0) (hi : r ≠ .HI_IRQ_CAUSE) (h : ∀ t, (more t).rd r i f = t.rd r i f) :
    (s.logEvent r i fs more).rd r i f = ((s.wrs r i fs).wr r i .VALID 1).rd r i f := by
  simp only [State.logEvent, hv, if_true]; split <;> simp [h, State.irq_rd, hi]

/-- A log that holds an event keeps it and sets MORE. -/
theorem State.logEvent_full (s : State) {r : RegName} (i : Nat) (fs : List (FName × Nat)) (more : State → State)
    (hv : s.rd r i .VALID ≠ 0) : s.logEvent r i fs more = s.wr r i .MORE 1 := by
  simp only [State.logEvent, hv, if_false]

/-- What the registers and the interrupts do not touch, a log leaves alone. -/
theorem State.logIn_same {α : Type} (p : State → α) (s : State) (r : RegName) (i : Nat) (now : List Nat) (fs : List (FName × Nat)) (same before : Bool)
    (more : State → State) (hw : ∀ t r i f v, p (State.wr t r i f v) = p t) (hq : ∀ t k, p (State.irq t k) = p t)
    (hl : ∀ (t : State) f, p (State.modLogAt t f) = p t) (hm : ∀ t, p (more t) = p t) : p (s.logIn r i now fs same before more) = p s := by
  have hws : ∀ (l : List (FName × Nat)) (t : State), p (t.wrs r i l) = p t := by
    intro l
    induction l with
    | nil => exact fun _ => rfl
    | cons e l ih => intro t; rw [State.wrs_cons, ih, hw]
  have he : p (s.logEvent r i fs more) = p s := by
    simp only [State.logEvent]; split <;> (try split) <;> simp only [hw, hq, hm, hws]
  simp only [State.logIn]
  split
  · split
    · rfl
    · split <;> simp only [hw, hm, hws]
  · split
    · rw [hl, he]
    · exact he

/-- A log leaves the registers but its own, those written with it, the interrupt causes alone. -/
theorem State.logIn_rd (s : State) {r r' : RegName} (i i' : Nat) (now : List Nat) (fs : List (FName × Nat)) (same before : Bool) (more : State → State)
    (f : FName) (hr : r ≠ r') (hi : r' ≠ .HI_IRQ_CAUSE) (h : ∀ t, (more t).rd r' i' f = t.rd r' i' f) :
    (s.logIn r i now fs same before more).rd r' i' f = s.rd r' i' f := by
  have he := s.logEvent_rd i i' fs more f hr hi h
  simp only [State.logIn]
  split
  · split
    · rfl
    · split <;> simp [h, State.rd_wr, hr, State.wrs_rd_reg]
  · split
    · rw [← he]; rfl
    · exact he

/-- A log that holds nothing takes the event: VALID 1 and the fields given. -/
theorem State.logIn_fresh (s : State) {r : RegName} (i : Nat) (now : List Nat) (fs : List (FName × Nat)) (same before : Bool) (more : State → State)
    (f : FName) (hv : s.rd r i .VALID = 0) (hi : r ≠ .HI_IRQ_CAUSE) (h : ∀ t, (more t).rd r i f = t.rd r i f) :
    (s.logIn r i now fs same before more).rd r i f = ((s.wrs r i fs).wr r i .VALID 1).rd r i f := by
  have h1 : s.logsNow r i now = false := by simp [State.logsNow, hv]
  rw [← s.logEvent_fresh i fs more f hv hi h]
  simp only [State.logIn, h1, hv, if_true, Bool.false_eq_true, if_false]
  rfl

end Sys2Proof.Machine
end

