-- ==== Sys2Proof/Laws/Cores.lean ====
section
/-! SUPPORT. What issuing an instruction of a channel core comes to. -/

namespace Sys2Proof.Machine

set_option Elab.async false

/-- An instruction that issues, is fetched from the instruction cache, meets no interlock and completes at `pc` (R410, R411, R415). -/
theorem State.issue_go (s : State) (k : Nat) (r : Run) (uses : List Nat) (body : State → Run → Issue) (u : State) (pc : Nat)
    (h1 : s.pstate k = 0) (h2 : (s.core k).trapDue = none) (h3 : (s.core k).run = some r) (h4 : s.rd .TR_CTRL 0 .STALL ≠ 1)
    (h5 : (s.core k).pc < 2 ^ 38) (h6 : r.allows (fun w => w.ex) (s.core k).pc 8 = true) (h7 : ((s.core k).pc / 64, r.key) ∈ (s.core k).icache)
    (h8 : ∀ x ∈ uses, (s.core k).pendingReg x = false) (hb : body (s.traceBoundary k) r = .go u pc) :
    s.issue k true uses body = (u.modCore k fun x => { x with pc := pc % 2 ^ 40 }).bump .CC_RETIRED k .COUNT 1 := by
  have hi : s.issuing k = some r := by simp [State.issuing, h1, h2, h3]
  have hf : s.fetch k r = some (none, s) := by
    simp only [State.fetch, h6]
    rw [if_neg (by simp; omega), if_pos (by simpa using h7)]
  have hu : uses.any (s.core k).pendingReg = false := by simpa using h8
  simp only [State.issue, hi, hf, hu, hb]
  simp [h4]

/-- An instruction that issues with no access pending and traps: for its form, or by its own effect (R415, R425). -/
theorem State.issue_trap (s : State) (k : Nat) (r : Run) (form : Bool) (uses : List Nat) (body : State → Run → Issue) (e : Trap)
    (h1 : s.pstate k = 0) (h2 : (s.core k).trapDue = none) (h3 : (s.core k).run = some r) (h4 : s.rd .TR_CTRL 0 .STALL ≠ 1)
    (h5 : (s.core k).pc < 2 ^ 38) (h6 : r.allows (fun w => w.ex) (s.core k).pc 8 = true) (h7 : ((s.core k).pc / 64, r.key) ∈ (s.core k).icache)
    (h8 : (s.core k).mem = []) (hb : (form = false ∧ e = ⟨1, 0, 0, 0, (s.core k).pc⟩) ∨ (form = true ∧ body (s.traceBoundary k) r = .trap e)) :
    s.issue k form uses body = (s.traceBoundary k).takeTrap k e := by
  have hi : s.issuing k = some r := by simp [State.issuing, h1, h2, h3]
  have hf : s.fetch k r = some (none, s) := by
    simp only [State.fetch, h6]
    rw [if_neg (by simp; omega), if_pos (by simpa using h7)]
  have hu : uses.any (s.core k).pendingReg = false := by simp [Core.pendingReg, h8]
  rcases hb with ⟨rfl, rfl⟩ | ⟨rfl, hb⟩
  · simp only [State.issue, hi, hf, hu]
    simp [h4, h8]
  · simp only [State.issue, hi, hf, hu, hb]
    simp [h4, h8]

/-- An instruction that issues, is fetched from the instruction cache, meets no interlock and takes its task off the core. -/
theorem State.issue_left (s : State) (k : Nat) (r : Run) (uses : List Nat) (body : State → Run → Issue) (u : State)
    (h1 : s.pstate k = 0) (h2 : (s.core k).trapDue = none) (h3 : (s.core k).run = some r) (h4 : s.rd .TR_CTRL 0 .STALL ≠ 1)
    (h5 : (s.core k).pc < 2 ^ 38) (h6 : r.allows (fun w => w.ex) (s.core k).pc 8 = true) (h7 : ((s.core k).pc / 64, r.key) ∈ (s.core k).icache)
    (h8 : ∀ x ∈ uses, (s.core k).pendingReg x = false) (hb : body (s.traceBoundary k) r = .left u) :
    s.issue k true uses body = u.bump .CC_RETIRED k .COUNT 1 := by
  have hi : s.issuing k = some r := by simp [State.issuing, h1, h2, h3]
  have hf : s.fetch k r = some (none, s) := by
    simp only [State.fetch, h6]
    rw [if_neg (by simp; omega), if_pos (by simpa using h7)]
  have hu : uses.any (s.core k).pendingReg = false := by simpa using h8
  simp only [State.issue, hi, hf, hu, hb]
  simp [h4]

end Sys2Proof.Machine
end

