-- ==== Sys2Proof/Laws/DeepBytes.lean ====
section
/-! SUPPORT. Which bytes of deep memory a store, a clear, a loss of contents and a lost row change, and that every other byte reads as before. -/

namespace Sys2Proof.Machine

set_option Elab.async false

/-- An interval taken out of the unknown ones leaves what lies outside it. -/
theorem openRange_find_out (l : List Sealed) (lo hi a : Nat) (hlh : lo ≤ hi) (h : a < lo ∨ hi ≤ a) :
    (match (openRange l lo hi).find? fun e => e.covers a with | some e => Config.sealedByte e.draw a | none => (0:Byte)) =
    (match l.find? fun e => e.covers a with | some e => Config.sealedByte e.draw a | none => (0:Byte)) ∧
    (((openRange l lo hi).find? fun e => e.covers a).isSome = (l.find? fun e => e.covers a).isSome) := by
  induction l with
  | nil => exact ⟨rfl, rfl⟩
  | cons e l ih =>
    have ho : openRange (e :: l) lo hi = ((if e.lo < min e.hi lo then [{ e with hi := min e.hi lo }] else []) ++ (if max e.lo hi < e.hi then [{ e with lo := max e.lo hi }] else [])) ++ openRange l lo hi := by
      simp [openRange]
    rw [ho, List.find?_append, List.find?_cons]
    by_cases hc : e.covers a = true
    · simp only [hc]
      simp only [Sealed.covers, Bool.and_eq_true, decide_eq_true_eq] at hc
      obtain ⟨⟨h1, h2⟩, h3⟩ := hc
      rcases h with h | h
      · have hlt : e.lo < min e.hi lo := by omega
        rw [if_pos hlt]
        have : (Sealed.covers { e with hi := min e.hi lo } a) = true := by
          simp only [Sealed.covers, Bool.and_eq_true, decide_eq_true_eq]
          exact ⟨⟨h1, by omega⟩, h3⟩
        simp [this]
      · have hlt : max e.lo hi < e.hi := by omega
        rw [if_pos hlt]
        have hy : (Sealed.covers { e with lo := max e.lo hi } a) = true := by
          simp only [Sealed.covers, Bool.and_eq_true, decide_eq_true_eq]
          exact ⟨⟨by omega, h2⟩, h3⟩
        have hx : ((if e.lo < min e.hi lo then [{ e with hi := min e.hi lo }] else []).find? fun e : Sealed => e.covers a) = none := by
          split
          · have : (Sealed.covers { e with hi := min e.hi lo } a) = false := by
              simp only [Sealed.covers, Bool.and_eq_false_iff, decide_eq_false_iff_not]
              left; right; omega
            simp [this]
          · rfl
        rw [List.find?_append, hx]
        simp [hy]
    · have hc : e.covers a = false := by simpa using hc
      have h1 : (((if e.lo < min e.hi lo then [{ e with hi := min e.hi lo }] else []) ++ (if max e.lo hi < e.hi then [{ e with lo := max e.lo hi }] else [])).find? fun e : Sealed => e.covers a) = none := by
        have ha : e.lo < min e.hi lo → (Sealed.covers { e with hi := min e.hi lo } a) = false := by
          intro _
          cases hq : (Sealed.covers { e with hi := min e.hi lo } a)
          · rfl
          · simp only [Sealed.covers, Bool.and_eq_true, decide_eq_true_eq] at hq
            have : e.covers a = true := by
              simp only [Sealed.covers, Bool.and_eq_true, decide_eq_true_eq]
              exact ⟨⟨hq.1.1, Nat.lt_of_lt_of_le hq.1.2 (Nat.min_le_left _ _)⟩, hq.2⟩
            rw [hc] at this; exact absurd this (by decide)
        have hb : max e.lo hi < e.hi → (Sealed.covers { e with lo := max e.lo hi } a) = false := by
          intro _
          cases hq : (Sealed.covers { e with lo := max e.lo hi } a)
          · rfl
          · simp only [Sealed.covers, Bool.and_eq_true, decide_eq_true_eq] at hq
            have : e.covers a = true := by
              simp only [Sealed.covers, Bool.and_eq_true, decide_eq_true_eq]
              exact ⟨⟨Nat.le_trans (Nat.le_max_left _ _) hq.1.1, hq.1.2⟩, hq.2⟩
            rw [hc] at this; exact absurd this (by decide)
        rw [List.find?_append]
        split <;> split <;> rename_i p q <;> simp [ha, hb, p, q]
      rw [h1, hc]
      exact ih

/-- Inside the interval taken out nothing is unknown. -/
theorem openRange_find_in (l : List Sealed) (lo hi a : Nat) (h : lo ≤ a ∧ a < hi) : (openRange l lo hi).find? (fun e => e.covers a) = none := by
  simp only [List.find?_eq_none, openRange, List.mem_flatMap, List.mem_append]
  rintro x ⟨e, _, hx | hx⟩
  · split at hx
    · simp only [List.mem_singleton] at hx
      subst hx
      simp only [Sealed.covers, Bool.and_eq_true, decide_eq_true_eq]
      omega
    · exact absurd hx List.not_mem_nil
  · split at hx
    · simp only [List.mem_singleton] at hx
      subst hx
      simp only [Sealed.covers, Bool.and_eq_true, decide_eq_true_eq]
      omega
    · exact absurd hx List.not_mem_nil

/-- What a run of bytes stored reads as. -/
theorem mread_put (m : List (Nat × Byte)) (hm : mcanon 0 m = true) (a b : Nat) (bs : List Byte) (k : Nat) :
    mread 0 ((bs.zipIdx k).foldl (fun l e => mwrite 0 l (a + e.2) e.1) m) b = if h : a + k ≤ b ∧ b < a + k + bs.length then bs[b - a - k] else mread 0 m b := by
  induction bs generalizing m k with
  | nil => simp <;> omega
  | cons x bs ih =>
    simp only [List.zipIdx_cons, List.foldl_cons]
    rw [ih _ (mcanon_mwrite _ _ hm), mread_mwrite 0 m hm]
    simp only [List.length_cons]
    by_cases h1 : a + (k + 1) ≤ b ∧ b < a + (k + 1) + bs.length
    · rw [dif_pos h1, dif_pos (by omega)]
      have : b - a - k = (b - a - (k + 1)) + 1 := by omega
      simp [this]
    · rw [dif_neg h1]
      by_cases h2 : a + k = b
      · subst h2
        rw [if_pos rfl, dif_pos (by omega)]
        simp
      · rw [if_neg h2, dif_neg (by omega)]

/-- An interval taken out of the ciphertext leaves what lies outside it. -/
theorem openCipher_find_out (l : List Cipher) (lo hi a : Nat) (hlh : lo ≤ hi) (h : a < lo ∨ hi ≤ a) :
    (match (openCipher l lo hi).find? (fun c => decide (c.lo ≤ a) && decide (a < c.hi)) with | some c => some (c.byte a) | none => none) =
    (match l.find? (fun c => decide (c.lo ≤ a) && decide (a < c.hi)) with | some c => some (c.byte a) | none => none) := by
  have hf : ∀ x : Cipher, ¬ (x.lo ≤ a ∧ a < x.hi) → [x].find? (fun c : Cipher => decide (c.lo ≤ a) && decide (a < c.hi)) = none := by
    intro x hx
    rw [List.find?_cons, show (decide (x.lo ≤ a) && decide (a < x.hi)) = false from by simpa using hx]
    rfl
  induction l with
  | nil => rfl
  | cons e l ih =>
    have ho : openCipher (e :: l) lo hi = ((if e.lo < min e.hi lo then [{ e with hi := min e.hi lo }] else []) ++ (if max e.lo hi < e.hi then [{ e with lo := max e.lo hi }] else [])) ++ openCipher l lo hi := by
      simp [openCipher]
    rw [ho, List.find?_append, List.find?_cons]
    have hb1 : (Cipher.byte { e with hi := min e.hi lo } a) = e.byte a := rfl
    have hb2 : (Cipher.byte { e with lo := max e.lo hi } a) = e.byte a := rfl
    by_cases hc : e.lo ≤ a ∧ a < e.hi
    · rw [show (decide (e.lo ≤ a) && decide (a < e.hi)) = true from by simp [hc]]
      rcases h with h | h
      · rw [if_pos (by omega : e.lo < min e.hi lo)]
        rw [List.find?_append, List.find?_cons]
        rw [show (decide (e.lo ≤ a) && decide (a < min e.hi lo)) = true from by simp; omega]
        simp [hb1]
      · have hx : ((if e.lo < min e.hi lo then [{ e with hi := min e.hi lo }] else []).find? fun c : Cipher => decide (c.lo ≤ a) && decide (a < c.hi)) = none := by
          split
          · exact hf _ (by show ¬ (e.lo ≤ a ∧ a < min e.hi lo); omega)
          · rfl
        rw [if_pos (by omega : max e.lo hi < e.hi), List.find?_append, hx, List.find?_cons]
        rw [show (decide (max e.lo hi ≤ a) && decide (a < e.hi)) = true from by simp; omega]
        simp [hb2]
    · rw [show (decide (e.lo ≤ a) && decide (a < e.hi)) = false from by simp; omega]
      have hx : (((if e.lo < min e.hi lo then [{ e with hi := min e.hi lo }] else []) ++ (if max e.lo hi < e.hi then [{ e with lo := max e.lo hi }] else [])).find? fun c : Cipher => decide (c.lo ≤ a) && decide (a < c.hi)) = none := by
        rw [List.find?_append]
        have h1 : ¬ (e.lo ≤ a ∧ a < min e.hi lo) := by omega
        have h2 : ¬ (max e.lo hi ≤ a ∧ a < e.hi) := by omega
        split <;> split <;> simp only [hf { e with hi := min e.hi lo } h1, hf { e with lo := max e.lo hi } h2, List.find?_nil, Option.or_none]
      rw [hx]
      exact ih

/-- Inside the interval taken out there is no ciphertext. -/
theorem openCipher_find_in (l : List Cipher) (lo hi a : Nat) (h : lo ≤ a ∧ a < hi) :
    (openCipher l lo hi).find? (fun c => decide (c.lo ≤ a) && decide (a < c.hi)) = none := by
  simp only [List.find?_eq_none, openCipher, List.mem_flatMap, List.mem_append]
  rintro x ⟨e, _, hx | hx⟩ <;>
  · split at hx
    · simp only [List.mem_singleton] at hx
      subst hx
      simp only [Bool.and_eq_true, decide_eq_true_eq]
      omega
    · exact absurd hx List.not_mem_nil

/-- Bytes stored read back, and every other byte reads as before. -/
theorem Deep.putBytes_byte (m : Deep) (a b : Nat) (bs : List Byte) (hm : mcanon 0 m.bytes = true) :
    (∀ i (h : i < bs.length), (m.putBytes a bs).byte (a + i) = bs[i]) ∧ (b < a ∨ a + bs.length ≤ b → (m.putBytes a bs).byte b = m.byte b) := by
  constructor
  · intro i h
    simp only [Deep.byte, Deep.putBytes]
    rw [openRange_find_in _ _ _ _ ⟨by omega, by omega⟩]
    simp only
    rw [openCipher_find_in _ _ _ _ ⟨by omega, by omega⟩]
    simp only
    rw [mread_put _ hm, dif_pos (by omega)]
    simp
  · intro h
    have h4 := openCipher_find_out m.ciphers a (a + bs.length) b (by omega) h
    have h1 := openRange_find_out m.sealed a (a + bs.length) b (by omega) h
    simp only [Deep.byte, Deep.putBytes]
    have h2 := h1.1
    have h3 := h1.2
    cases hx : (openRange m.sealed a (a + bs.length)).find? fun e => e.covers b <;> cases hy : m.sealed.find? fun e => e.covers b <;> rw [hx, hy] at h2 h3
    · simp only
      cases hu : (openCipher m.ciphers a (a + bs.length)).find? (fun c => decide (c.lo ≤ b) && decide (b < c.hi)) <;>
        cases hv : m.ciphers.find? (fun c => decide (c.lo ≤ b) && decide (b < c.hi)) <;> rw [hu, hv] at h4
      · simp only
        rw [mread_put _ hm, dif_neg (by omega)]
      · simp at h4
      · simp at h4
      · simpa using h4
    · simp at h3
    · simp at h3
    · exact h2

/-- Bytes within one line make one part. -/
theorem linesOf_one (addr n : Nat) (h : 0 < n) (h2 : addr % 64 + n ≤ 64) : linesOf addr n = [(addr, n)] := by
  simp only [linesOf]
  have hn : n / 64 + 2 = 2 ∨ n / 64 + 2 = 3 := by omega
  have e0 : (List.range 2) = [0, 1] := rfl
  have e1 : (List.range 3) = [0, 1, 2] := rfl
  rcases hn with hn | hn <;> rw [hn] <;> simp only [e0, e1, List.filterMap_cons, List.filterMap_nil] <;>
    rw [if_pos (by omega), if_neg (by omega)] <;> simp only [List.cons.injEq, Prod.mk.injEq, and_true] <;> (try rw [if_neg (by omega)]) <;> simp <;> omega

/-- What is left of a list of cells after a filter that keeps an address reads there as before. -/
theorem mread_filter (l : List (Nat × Byte)) (p : Nat × Byte → Bool) (b : Nat) (h : ∀ v, p (b, v) = true) : mread 0 (l.filter p) b = mread 0 l b := by
  induction l with
  | nil => rfl
  | cons e l ih =>
    obtain ⟨a, v⟩ := e
    by_cases ha : a = b
    · subst ha
      rw [List.filter_cons_of_pos (h v)]
      simp [mread]
    · by_cases hp : p (a, v) = true
      · rw [List.filter_cons_of_pos hp]
        simp only [mread, ha, if_false]; exact ih
      · rw [List.filter_cons_of_neg hp]
        simp only [mread, ha, if_false]; exact ih

/-- Bytes outside an interval that is cleared read as before. -/
theorem Deep.clear_byte (m : Deep) (lo hi b : Nat) (hlh : lo ≤ hi) (h : b < lo ∨ hi ≤ b) : (m.clear lo hi).byte b = m.byte b := by
  have h1 := openRange_find_out m.sealed lo hi b hlh h
  have h4 := openCipher_find_out m.ciphers lo hi b hlh h
  have hb : mread 0 (m.bytes.filter fun c => !(decide (lo ≤ c.1) && decide (c.1 < hi))) b = mread 0 m.bytes b :=
    mread_filter _ _ _ fun v => by simp; omega
  simp only [Deep.byte, Deep.clear]
  have h2 := h1.1
  have h3 := h1.2
  cases hx : (openRange m.sealed lo hi).find? fun e => e.covers b <;> cases hy : m.sealed.find? fun e => e.covers b <;> rw [hx, hy] at h2 h3
  · cases hu : (openCipher m.ciphers lo hi).find? (fun c => decide (c.lo ≤ b) && decide (b < c.hi)) <;>
      cases hv : m.ciphers.find? (fun c => decide (c.lo ≤ b) && decide (b < c.hi)) <;> rw [hu, hv] at h4
    · exact hb
    · simp at h4
    · simp at h4
    · simpa using h4
  · simp at h3
  · simp at h3
  · exact h2

/-- Bytes cleared read zero. -/
theorem Deep.clear_byte_in (m : Deep) (lo hi b : Nat) (h : lo ≤ b ∧ b < hi) : (m.clear lo hi).byte b = 0 := by
  simp only [Deep.byte, Deep.clear]
  rw [openRange_find_in _ _ _ _ h, openCipher_find_in _ _ _ _ h]
  simp only
  generalize m.bytes = l
  induction l with
  | nil => rfl
  | cons e l ih =>
    obtain ⟨a, v⟩ := e
    by_cases hp : lo ≤ a ∧ a < hi
    · rw [List.filter_cons_of_neg (by simp [hp])]; exact ih
    · rw [List.filter_cons_of_pos (by simp only [Bool.not_eq_true', Bool.and_eq_false_iff, decide_eq_false_iff_not]; omega)]
      have : a ≠ b := by omega
      simp only [mread, this, if_false]; exact ih

/-- An interval that loses its contents reads as the free value of its draw; every other byte reads as before. -/
theorem State.sealBytes_byte (s : State) (lo hi b : Nat) (hlh : lo ≤ hi) :
    (lo ≤ b ∧ b < hi → (s.sealBytes lo hi).deep.byte b = Config.sealedByte s.draws b) ∧
    (b < lo ∨ hi ≤ b → (s.sealBytes lo hi).deep.byte b = s.deep.byte b) := by
  have hcov : Sealed.covers ⟨lo, hi, s.draws, [], 0⟩ b = (decide (lo ≤ b) && decide (b < hi)) := by simp [Sealed.covers]
  constructor
  · intro h
    simp only [State.sealBytes, Deep.byte, List.find?_cons]
    rw [show Sealed.covers ⟨lo, hi, s.draws, [], 0⟩ b = true from by rw [hcov]; simp [h]]
  · intro h
    rw [← Deep.clear_byte s.deep lo hi b hlh h]
    simp only [State.sealBytes, Deep.byte, List.find?_cons]
    rw [show Sealed.covers ⟨lo, hi, s.draws, [], 0⟩ b = false from by rw [hcov]; simp; omega]

/-- One line of a row that loses its contents. -/
def State.loseLine (t : State) (a : Nat) : State :=
  let u := t.sealBytes a (a + 64)
  if t.pageOwner (a / 4096) = 0 then u else u.modDeep fun d => { d with badLines := tset d.badLines (a / 64) 1 }

theorem State.loseRow_lines (s : State) (b : BankId) (row : Nat) : s.loseRow b row = s.forEach (s.rowLines b row) State.loseLine := rfl

theorem State.loseLine_eq (t : State) (a : Nat) :
    (t.loseLine a).regs = t.regs ∧ (t.loseLine a).camps = t.camps ∧ (t.loseLine a).deep.repairing = t.deep.repairing ∧ (t.loseLine a).deep.soft = t.deep.soft ∧
    (t.loseLine a).draws = t.draws + 1 ∧ ∀ b, (t.loseLine a).deep.byte b = (t.sealBytes a (a + 64)).deep.byte b := by
  simp only [State.loseLine]
  split <;> exact ⟨rfl, rfl, rfl, rfl, rfl, fun _ => rfl⟩

/-- Lines that lose their contents: each of their bytes is a free value, and every other byte reads as before. -/
theorem State.loseLines_frame (l : List Nat) (s : State) (hl : ∀ a ∈ l, a % 64 = 0) :
    (s.forEach l State.loseLine).regs = s.regs ∧ (s.forEach l State.loseLine).camps = s.camps ∧
    (s.forEach l State.loseLine).deep.repairing = s.deep.repairing ∧ (s.forEach l State.loseLine).deep.soft = s.deep.soft ∧
    (∀ a ∈ l, ∀ k < 64, ∃ n, s.draws ≤ n ∧ (s.forEach l State.loseLine).deep.byte (a + k) = Config.sealedByte n (a + k)) ∧
    (∀ b, (∀ a ∈ l, b < a ∨ a + 64 ≤ b) → (s.forEach l State.loseLine).deep.byte b = s.deep.byte b) := by
  induction l generalizing s with
  | nil => exact ⟨rfl, rfl, rfl, rfl, fun a h => absurd h List.not_mem_nil, fun _ _ => rfl⟩
  | cons x l ih =>
    rw [State.forEach_cons]
    obtain ⟨e1, e2, e3, e4, e5, e6⟩ := s.loseLine_eq x
    obtain ⟨i1, i2, i3, i4, i5, i6⟩ := ih (s.loseLine x) fun a h => hl a (List.mem_cons_of_mem _ h)
    have hx := hl x List.mem_cons_self
    refine ⟨i1.trans e1, i2.trans e2, i3.trans e3, i4.trans e4, fun a ha k hk => ?_, fun b hb => ?_⟩
    · by_cases h : a ∈ l
      · obtain ⟨n, h1, h2⟩ := i5 a h k hk
        exact ⟨n, by omega, h2⟩
      · rcases List.mem_cons.mp ha with rfl | ha
        · refine ⟨s.draws, Nat.le_refl _, ?_⟩
          rw [i6 (a + k) fun c hc => ?_, e6]
          · exact (s.sealBytes_byte a (a + 64) (a + k) (by omega)).1 ⟨by omega, by omega⟩
          · have h2 := hl c (List.mem_cons_of_mem _ hc)
            have h3 : c ≠ a := fun e => h (e ▸ hc)
            omega
        · exact absurd ha h
    · rw [i6 b fun a ha => hb a (List.mem_cons_of_mem _ ha), e6]
      exact (s.sealBytes_byte x (x + 64) b (by omega)).2 (hb x List.mem_cons_self)

/-- The lines of a row lie at line borders. -/
theorem State.rowLines_aligned (s : State) (b : BankId) (row a : Nat) (h : a ∈ s.rowLines b row) : a % 64 = 0 := by
  simp only [State.rowLines, List.mem_filterMap] at h
  obtain ⟨i, _, hi⟩ := h
  split at hi
  · injection hi with hi; omega
  · exact absurd hi (by simp)

end Sys2Proof.Machine
end

