-- ==== Sys2Proof/Laws/Ecc.lean ====
section
/-! SUPPORT. Laws of the cluster memory's code (R147, R148): what one wrong bit and what two wrong bits decode as, for every code that the configuration gives. -/

namespace Sys2Proof.Machine

set_option Elab.async false

/-- The columns of the model's own code. -/
theorem eccOdd_columns : eccColumns eccOdd =
    [7#8, 11#8, 13#8, 14#8, 19#8, 21#8, 22#8, 25#8, 26#8, 28#8, 31#8, 35#8, 37#8, 38#8, 41#8, 42#8, 44#8, 47#8, 49#8, 50#8, 52#8, 55#8, 56#8, 59#8, 61#8, 62#8, 67#8, 69#8, 70#8, 73#8, 74#8, 76#8, 79#8, 81#8, 82#8, 84#8, 87#8, 88#8, 91#8, 93#8, 1#8, 2#8, 4#8, 8#8, 16#8, 32#8, 64#8, 128#8] := by decide +kernel

/-- The lowest `n` bits of a check-byte difference have an odd number of set bits. -/
def oddBits (x : BitVec 8) : Nat → Bool
  | 0 => false
  | n + 1 => oddBits x n ^^ x.getLsbD n

/-- Weights add up modulo 2. -/
theorem oddBits_xor (x y : BitVec 8) (n : Nat) : oddBits (x ^^^ y) n = (oddBits x n ^^ oddBits y n) := by
  induction n with
  | zero => rfl
  | succ n ih =>
    simp only [oddBits, ih, BitVec.getLsbD_xor]
    cases oddBits x n <;> cases oddBits y n <;> cases x.getLsbD n <;> cases y.getLsbD n <;> rfl

/-- A check-byte difference has an odd number of set bits. -/
def oddWeight (x : BitVec 8) : Bool := oddBits x 8

/-- Columns of odd weight that differ make a SEC-DED code. -/
theorem eccValid_of_odd (f : Nat → BitVec 8) (h1 : (eccColumns f).Nodup) (h2 : (eccColumns f).all oddWeight = true) : eccValid f = true := by
  unfold eccValid
  revert h1 h2
  generalize eccColumns f = l
  intro h1 h2
  simp only [Bool.and_eq_true, decide_eq_true_eq, Bool.not_eq_true', List.contains_eq_mem, decide_eq_false_iff_not, List.all_eq_true,
    Bool.or_eq_true, beq_iff_eq]
  have odd := List.all_eq_true.1 h2
  refine ⟨⟨h1, fun h => absurd (odd _ h) (by decide)⟩, fun x hx y hy => Or.inr fun h => ?_⟩
  have := odd _ h
  rw [oddWeight, oddBits_xor, ← oddWeight, ← oddWeight, odd x hx, odd y hy] at this
  exact absurd this (by decide)

/-- The model's own code is SEC-DED. -/
theorem eccOdd_valid : eccValid eccOdd = true := by
  apply eccValid_of_odd <;> rw [eccOdd_columns] <;> decide +kernel

/-- The code in force is SEC-DED, whatever the configuration gives (R147). -/
theorem eccColumn_valid : eccValid eccColumn = true := by
  by_cases h : eccValid Config.eccColumn = true
  · have : eccColumn = Config.eccColumn := by funext i; simp [eccColumn, h]
    rw [this]; exact h
  · have : eccColumn = eccOdd := by funext i; simp [eccColumn, h]
    rw [this]; exact eccOdd_valid

/-- A word with one bit inverted. -/
def flipBit (x : Word) (i : Nat) : Word := x ^^^ (1#40 <<< i)

theorem flipBit_bit (x : Word) (i k : Nat) (hk : k < 40) : (flipBit x i).getLsbD k = ((x.getLsbD k) ^^ (decide (k = i))) := by
  have : (1#40 <<< i).getLsbD k = decide (k = i) := by
    simp [BitVec.getLsbD_shiftLeft, BitVec.getLsbD_one]
    by_cases h : k = i
    · subst h; simp [hk]
    · simp [h]; omega
  simp [flipBit, BitVec.getLsbD_xor, this]

theorem fold_flipBit (col : Nat → BitVec 8) (x : Word) (i : Nat) : ∀ n, n ≤ 40 →
    (List.range n).foldl (fun c k => if (flipBit x i).getLsbD k then c ^^^ col k else c) 0 =
      (List.range n).foldl (fun c k => if x.getLsbD k then c ^^^ col k else c) 0 ^^^ (if i < n then col i else 0)
  | 0, _ => by simp
  | n + 1, h => by
    rw [List.range_succ, List.foldl_append, List.foldl_append, fold_flipBit col x i n (by omega)]
    simp only [List.foldl_cons, List.foldl_nil, flipBit_bit x i n (by omega)]
    generalize (List.range n).foldl (fun c k => if x.getLsbD k then c ^^^ col k else c) 0 = A
    by_cases hi : n = i
    · subst hi
      cases x.getLsbD n
      · simp
      · simp [BitVec.xor_assoc]
    · have e : (i < n + 1) = (i < n) := by apply propext; omega
      cases x.getLsbD n
      · simp [hi, e]
      · simp only [hi, e, decide_false, Bool.xor_false, if_true]
        generalize (if i < n then col i else 0) = B
        rw [BitVec.xor_assoc, BitVec.xor_assoc, BitVec.xor_comm B]

/-- One inverted data bit changes the check byte by its column. -/
theorem checkByte_flipBit (x : Word) (i : Nat) (h : i < 40) : checkByte (flipBit x i) = checkByte x ^^^ eccColumn i := by
  unfold checkByte
  rw [fold_flipBit eccColumn x i 40 (Nat.le_refl _), if_pos h]

theorem synWeight_one (s : BitVec 8) : synWeight s = 1 → ∃ k, k < 8 ∧ s = 1#8 <<< k := by
  have h : ∀ n, n < 256 → synWeight (BitVec.ofNat 8 n) = 1 → ∃ k, k < 8 ∧ BitVec.ofNat 8 n = 1#8 <<< k := by decide +kernel
  have := h s.toNat s.isLt
  simpa using this

theorem synWeight_unit : ∀ k, k < 8 → synWeight (1#8 <<< k) = 1 := by decide

/-- What SEC-DED says of the columns: distinct, not zero, no two of them adding up to a third. -/
theorem eccColumn_facts : (eccColumns eccColumn).Nodup ∧ 0 ∉ eccColumns eccColumn ∧ ∀ x ∈ eccColumns eccColumn, ∀ y ∈ eccColumns eccColumn, x = y ∨ (x ^^^ y) ∉ eccColumns eccColumn := by
  have := eccColumn_valid
  simpa [eccValid, and_assoc] using this

theorem eccColumn_mem {i : Nat} (h : i < 40) : eccColumn i ∈ eccColumns eccColumn := by
  simp only [eccColumns, List.mem_append, List.mem_map, List.mem_range]
  exact Or.inl ⟨i, h, rfl⟩

theorem eccUnit_mem {i : Nat} (h : i < 8) : (1#8 <<< i) ∈ eccColumns eccColumn := by
  simp only [eccColumns, List.mem_append, List.mem_map, List.mem_range]
  exact Or.inr ⟨i, h, rfl⟩

theorem eccColumn_inj {i j : Nat} (hi : i < 40) (hj : j < 40) (h : eccColumn i = eccColumn j) : i = j := by
  have := (List.nodup_append.1 eccColumn_facts.1).1
  have := List.pairwise_iff_getElem.1 this
  by_cases e : i = j
  · exact e
  · exfalso
    rcases Nat.lt_or_gt_of_ne e with l | l
    · have := this i j (by simpa using hi) (by simpa using hj) l
      simp at this
      exact this h
    · have := this j i (by simpa using hj) (by simpa using hi) l
      simp at this
      exact this h.symm

theorem eccUnit_inj : ∀ i, i < 8 → ∀ j, j < 8 → 1#8 <<< i = 1#8 <<< j → i = j := by decide

theorem eccColumn_ne_unit {i j : Nat} (hi : i < 40) (hj : j < 8) : eccColumn i ≠ 1#8 <<< j := by
  intro h
  have := (List.nodup_append.1 eccColumn_facts.1).2.2
  refine this _ ?_ _ ?_ h
  · exact List.mem_map.2 ⟨i, List.mem_range.2 hi, rfl⟩
  · exact List.mem_map.2 ⟨j, List.mem_range.2 hj, rfl⟩

/-- The column of a data bit as the difference: that bit is corrected (R148). -/
theorem MemWord.decode_column (d : Word) {i : Nat} (hi : i < 40) : (⟨d, eccColumn i⟩ : MemWord).decode = (flipBit d i, .ce) := by
  unfold MemWord.decode
  have h0 : eccColumn i ≠ 0 := fun h => eccColumn_facts.2.1 (h ▸ eccColumn_mem hi)
  have h1 : synWeight (eccColumn i) ≠ 1 := by
    intro h
    obtain ⟨k, hk, e⟩ := synWeight_one _ h
    exact eccColumn_ne_unit hi hk e
  have h2 : (⟨d, eccColumn i⟩ : MemWord).badBit = some i := by
    unfold MemWord.badBit
    simp only
    cases hf : (List.range 40).find? fun k => eccColumn k == eccColumn i with
    | none =>
      have := List.find?_eq_none.1 hf i (List.mem_range.2 hi)
      simp at this
    | some k =>
      have a := List.find?_some hf
      have b := List.mem_of_find?_eq_some hf
      rw [eccColumn_inj (List.mem_range.1 b) hi (by simpa using a)]
  simp only
  rw [if_neg h0, if_neg h1, h2]
  rfl

/-- A difference that is no column is uncorrectable (R148). -/
theorem MemWord.decode_other (d : Word) (s : BitVec 8) (h0 : s ≠ 0) (h : s ∉ eccColumns eccColumn) : (⟨d, s⟩ : MemWord).decode.2 = .ue := by
  unfold MemWord.decode
  have h1 : synWeight s ≠ 1 := by
    intro e
    obtain ⟨k, hk, e⟩ := synWeight_one _ e
    exact h (e ▸ eccUnit_mem hk)
  have h2 : (⟨d, s⟩ : MemWord).badBit = none := by
    unfold MemWord.badBit
    apply List.find?_eq_none.2
    intro k hk hc
    simp only [beq_iff_eq] at hc
    exact h (hc ▸ eccColumn_mem (List.mem_range.1 hk))
  simp only
  rw [if_neg h0, if_neg h1, h2]

/-- Two wrong bits are uncorrectable (R147). -/
theorem MemWord.decode_sum (d : Word) {x y : BitVec 8} (hx : x ∈ eccColumns eccColumn) (hy : y ∈ eccColumns eccColumn) (hn : x ≠ y) : (⟨d, x ^^^ y⟩ : MemWord).decode.2 = .ue := by
  apply MemWord.decode_other
  · intro h
    exact hn (BitVec.xor_eq_zero_iff.1 h)
  · rcases eccColumn_facts.2.2 x hx y hy with h | h
    · exact absurd h hn
    · exact h

end Sys2Proof.Machine
end

