-- ==== Sys2Proof/Laws/Frames.lean ====
section
/-! SUPPORT. What a message on a port, a halt and the rows of the boundary leave alone: any part of the state that the registers, the ports and what is sent do not touch. -/

namespace Sys2Proof.Machine

set_option Elab.async false

/-- A part of the state that register writes, changes of a port, what is sent and the interrupts that wait leave alone. -/
structure Apart {α : Type} (p : State → α) : Prop where
  wr : ∀ (t : State) r i f v, p (t.wr r i f v) = p t
  hn : ∀ (t : State) k f, p (t.modHn k f) = p t
  out : ∀ (t : State) o, p (t.emit o) = p t
  host : ∀ (t : State) x, p { t with host := x } = p t

theorem apart_clusters : Apart State.clusters := ⟨fun _ _ _ _ _ => rfl, fun _ _ _ => rfl, fun _ _ => rfl, fun _ _ => rfl⟩
theorem apart_camps : Apart State.camps := ⟨fun _ _ _ _ _ => rfl, fun _ _ _ => rfl, fun _ _ => rfl, fun _ _ => rfl⟩
theorem apart_deep : Apart State.deep := ⟨fun _ _ _ _ _ => rfl, fun _ _ _ => rfl, fun _ _ => rfl, fun _ _ => rfl⟩
theorem apart_cores : Apart State.cores := ⟨fun _ _ _ _ _ => rfl, fun _ _ _ => rfl, fun _ _ => rfl, fun _ _ => rfl⟩
theorem apart_chans : Apart State.chans := ⟨fun _ _ _ _ _ => rfl, fun _ _ _ => rfl, fun _ _ => rfl, fun _ _ => rfl⟩
theorem apart_xing : Apart State.xing := ⟨fun _ _ _ _ _ => rfl, fun _ _ _ => rfl, fun _ _ => rfl, fun _ _ => rfl⟩
theorem apart_now : Apart State.now := ⟨fun _ _ _ _ _ => rfl, fun _ _ _ => rfl, fun _ _ => rfl, fun _ _ => rfl⟩

theorem Apart.wrs {α : Type} {p : State → α} (h : Apart p) (s : State) (r : RegName) (i : Nat) (l : List (FName × Nat)) : p (s.wrs r i l) = p s := by
  induction l generalizing s with
  | nil => rfl
  | cons e l ih => rw [State.wrs_cons, ih, h.wr]

theorem State.msix_apart {α : Type} {p : State → α} (h : Apart p) (s : State) (v : Nat) : p (s.msix v) = p s := by
  unfold State.msix; split <;> (try split) <;> first | rfl | exact h.out .. | exact h.host ..

theorem State.irq_apart {α : Type} {p : State → α} (h : Apart p) (s : State) (k : Nat) : p (s.irq k) = p s := by
  simp only [State.irq]; split <;> (try split) <;> simp only [h.wr, State.msix_apart h]

theorem State.campIrq_apart {α : Type} {p : State → α} (h : Apart p) (s : State) (c : Nat) (b : CampBit) : p (s.campIrq c b) = p s := by
  simp only [State.campIrq]; split <;> (try split) <;> simp only [h.wr, State.msix_apart h]

theorem State.logEvent_apart {α : Type} {p : State → α} (h : Apart p) (s : State) (r : RegName) (i : Nat) (fs : List (FName × Nat)) (more : State → State)
    (hm : ∀ t, p (more t) = p t) : p (s.logEvent r i fs more) = p s := by
  simp only [State.logEvent]; split <;> (try split) <;> simp only [h.wr, State.irq_apart h, hm, h.wrs]

/-- The event of a log, and the moment of its record, leave a part alone that they do not name. -/
theorem State.logIn_apart {α : Type} {p : State → α} (h : Apart p) (hl : ∀ (t : State) f, p (t.modLogAt f) = p t) (s : State) (r : RegName) (i : Nat)
    (now : List Nat) (fs : List (FName × Nat)) (same before : Bool) (more : State → State) (hm : ∀ t, p (more t) = p t) :
    p (s.logIn r i now fs same before more) = p s :=
  State.logIn_same p s r i now fs same before more h.wr (State.irq_apart h) hl hm

theorem State.sendTx_apart {α : Type} {p : State → α} (h : Apart p) (s : State) (k : Nat) (nak : Bool) (e : TxFlit) : p (s.sendTx k nak e) = p s := h.out ..

theorem State.launch_apart {α : Type} {p : State → α} (h : Apart p) (s : State) (k : Nat) (nak : Bool) (f : OutFlit) : p (s.launch k nak f) = p s := by
  simp only [State.launch, State.setKeys]; split <;> simp only [h.wr, h.hn, State.sendTx_apart h]

theorem State.pumpPort_apart {α : Type} {p : State → α} (h : Apart p) (s : State) (k n : Nat) : p (s.pumpPort k n) = p s := by
  induction n generalizing s with
  | zero => rfl
  | succ n ih =>
    simp only [State.pumpPort]
    split
    · rfl
    · split
      · rw [ih, State.launch_apart h, h.hn]
      · rfl

theorem State.exitIdle_apart {α : Type} {p : State → α} (h : Apart p) (s : State) (k : Nat) : p (s.exitIdle k) = p s := by
  simp only [State.exitIdle]; split <;> simp only [h.out, h.hn]

theorem State.sendFlit_apart {α : Type} {p : State → α} (h : Apart p) (s : State) (k : Nat) (f : OutFlit) : p (s.sendFlit k f) = p s := by
  simp only [State.sendFlit]; split <;> simp only [State.exitIdle_apart h, State.pumpPort_apart h, h.hn]

/-- A guyline message goes out on ports and changes nothing else. -/
theorem State.guylineOut_apart {α : Type} {p : State → α} (h : Apart p) (s : State) (c : Nat) (a : Option Nat) (m : Guy) : p (s.guylineOut c a m) = p s := by
  simp only [State.guylineOut, State.sendSlot]
  split
  · exact State.forEach_same p (fun t x => State.sendFlit_apart h t x _) _ _
  · rfl

/-- A camp enters a state by its status alone. -/
theorem State.enter_apart {α : Type} {p : State → α} (h : Apart p) (s : State) (c k : Nat) : p (s.enter c k) = p s := by
  simp only [State.enter]; split <;> simp only [State.campIrq_apart h, h.wr]

theorem State.contractEvent_apart {α : Type} {p : State → α} (h : Apart p) (hl : ∀ (t : State) f, p (t.modLogAt f) = p t) (s : State) (c cyc code island step : Nat)
    (more : State → State) (hm : ∀ t, p (more t) = p t) : p (s.contractEvent c cyc code island step more) = p s := by
  simp only [State.contractEvent]
  rw [State.logIn_apart h hl _ _ _ _ _ _ _ _ fun t => by rw [hm, h.wr]]
  exact h.wr ..

/-- What a change of one cluster of a list keeps of a BP, the walk over the list keeps. -/
theorem State.forEach_modCluster_bp (P : Bp → Prop) (g : Cluster → Cluster) (l : List Nat) (k j : Nat) (hg : ∀ cl : Cluster, P (cl.bp j) → P ((g cl).bp j))
    (s : State) (h : P ((s.cluster k).bp j)) : P (((s.forEach l fun t x => t.modCluster x g).cluster k).bp j) := by
  induction l generalizing s with
  | nil => exact h
  | cons x l ih =>
    refine ih (s.modCluster x g) ?_
    by_cases hx : x = k
    · subst hx; rw [State.cluster_modCluster_self]; exact hg _ h
    · rw [State.cluster_modCluster_ne _ _ hx]; exact h

theorem tget_map_snd {ν : Type} (l : List (Nat × ν)) (d : ν) (f : ν → ν) (hd : f d = d) (k : Nat) : tget d (l.map fun e => (e.1, f e.2)) k = f (tget d l k) := by
  induction l with
  | nil => simp [tget, hd]
  | cons e l ih =>
    obtain ⟨a, v⟩ := e
    simp only [List.map_cons, tget]
    split
    · rfl
    · exact ih

/-- A change of every BP of a cluster that leaves an empty one empty changes each of them. -/
theorem Cluster.bp_modAllBps (cl : Cluster) (f : Bp → Bp) (hf : f Bp.reset = Bp.reset) (j : Nat) : (cl.modAllBps f).bp j = f (cl.bp j) :=
  tget_map_snd _ _ f hf _

theorem Cluster.bp_modBp_self (cl : Cluster) (j : Nat) (f : Bp → Bp) : (cl.modBp j f).bp j = f (cl.bp j) := by
  exact tget_tmod_self ..

/-- A change of one BP that keeps a property keeps it of every BP. -/
theorem Cluster.bp_modBp (P : Bp → Prop) (cl : Cluster) (i j : Nat) (f : Bp → Bp) (hf : ∀ b, P b → P (f b)) (h : P (cl.bp j)) : P ((cl.modBp i f).bp j) := by
  have e : (cl.modBp i f).bp j = tget Bp.reset (tmod Bp.reset cl.bps (cl.physBp i) f) (cl.physBp j) := rfl
  rw [e]
  by_cases hij : cl.physBp i = cl.physBp j
  · rw [hij, tget_tmod_self]; exact hf _ h
  · rw [tget_tmod_ne _ _ _ hij]; exact h

theorem Cluster.bp_startDrain (P : Bp → Prop) (hP : ∀ b d, P b → P { b with drain := d }) (cl : Cluster) (j : Nat) (h : P (cl.bp j)) : P (cl.startDrain.bp j) := by
  simp only [Cluster.startDrain]
  split
  · split
    · exact Cluster.bp_modBp P cl _ j _ (fun b hb => hP b _ hb) h
    · exact h
  · exact h

/-- The drains of a halted camp go on, and nothing else of a BP changes. -/
theorem Cluster.bp_fallback (P : Bp → Prop) (hP : ∀ b d, P b → P { b with drain := d }) (cl : Cluster) (j : Nat) (h : P (cl.bp j)) : P (cl.fallback.bp j) := by
  have e1 : ∀ (l : List Nat) (y : Cluster), P (y.bp j) →
      P ((l.foldl (fun x i => x.modBp i fun b => if b.drain = .armed then { b with drain := .queued (2 ^ 20 + i) } else b) y).bp j) := by
    intro l
    induction l with
    | nil => exact fun _ h => h
    | cons i l ih =>
      intro y hy
      exact ih _ (Cluster.bp_modBp P y i j (fun b => if b.drain = .armed then { b with drain := .queued (2 ^ 20 + i) } else b)
        (fun b hb => by split; exact hP b _ hb; exact hb) hy)
  have e2 : ∀ (l : List Nat) (y : Cluster), P (y.bp j) → P ((l.foldl (fun x _ => x.startDrain) y).bp j) := by
    intro l
    induction l with
    | nil => exact fun _ h => h
    | cons i l ih => exact fun y hy => ih _ (Cluster.bp_startDrain P hP y j hy)
  exact e2 _ _ (e1 _ _ h)

/-- What a halt keeps of a BP: what a change of its drain keeps, and, inside a design cycle, the discard of its shadow values, marks and lines (R56). -/
theorem State.haltNow_bp (P : Bp → Prop) (hP : ∀ b d, P b → P { b with drain := d }) (hd : ∀ b, P b → P { b with shadow := 0, marks := 0, line := none, drive := none })
    (s : State) (c cause : Nat) (mid : Bool) (k j : Nat) (h : P ((s.cluster k).bp j)) : P (((s.haltNow c cause mid).cluster k).bp j) := by
  have hrest : ∀ u : State, P ((u.cluster k).bp j) → P (((u.restDrains c).cluster k).bp j) := by
    intro u hu
    simp only [State.restDrains]
    split
    · exact State.forEach_modCluster_bp P _ _ k j (fun cl hc => Cluster.bp_fallback P hP cl j hc) u hu
    · exact hu
  have e : ∀ u : State, (((u.restDrains c).enter c 5).guylineOut c none (.halt s.ownAddr cause)).cluster k = (u.restDrains c).cluster k := by
    intro u
    have := (State.guylineOut_apart apart_clusters ((u.restDrains c).enter c 5) c none (.halt s.ownAddr cause)).trans (State.enter_apart apart_clusters (u.restDrains c) c 5)
    simp only [State.cluster, this]
  simp only [State.haltNow]
  rw [e]
  apply hrest
  split
  · refine State.forEach_modCluster_bp P _ _ k j (fun cl hc => ?_) _ h
    have : (cl.discard).bp j = (fun b : Bp => { b with shadow := 0, marks := 0, line := none, drive := none }) (cl.bp j) :=
      Cluster.bp_modAllBps cl (fun b => { b with shadow := 0, marks := 0, line := none, drive := none }) (by decide +kernel) j
    rw [this]; exact hd _ hc
  · exact h

/-- The same of a halt that is taken where the camp stands frozen. -/
theorem State.haltIfFrozen_bp (P : Bp → Prop) (hP : ∀ b d, P b → P { b with drain := d }) (hd : ∀ b, P b → P { b with shadow := 0, marks := 0, line := none, drive := none })
    (s : State) (c k j : Nat) (h : P ((s.cluster k).bp j)) : P (((s.haltIfFrozen c).cluster k).bp j) := by
  rcases s.haltIfFrozen_cases c with e | ⟨n, _, _, _, e⟩
  · rw [e]; exact h
  · rw [e]; exact State.haltNow_bp P hP hd s c n true k j h

end Sys2Proof.Machine
end

