-- ==== Sys2Proof/Laws/Keeps.lean ====
section
/-! SUPPORT. How `Keeps` is passed on: through a register write, an emission, a record update, a walk over a list, a choice; the lemmas of every operation (the other files of this folder) are put together from these. -/

namespace Sys2Proof.Machine

set_option Elab.async false

/-- `Keeps` for an operation that also answers something. -/
def Keeps2 {α : Type} (a : State) (p : α × State) : Prop := Keeps a p.2

/-- `Keeps` for a command's outcome. -/
def KeepsO (a : State) (o : Host.Outcome State Fault Refusal) : Prop := ∀ t, o = .next t → Keeps a t

/-- `Keeps` for what an issued instruction comes to. -/
def KeepsI (a : State) : Issue → Prop
  | .go t _ => Keeps a t
  | .left t => Keeps a t
  | _ => True

theorem KeepsI.go {a s : State} {pc : Nat} (h : Keeps a s) : KeepsI a (.go s pc) := h
theorem KeepsI.left {a s : State} (h : Keeps a s) : KeepsI a (.left s) := h
theorem KeepsI.trap {a : State} {t : Trap} : KeepsI a (.trap t) := trivial
theorem KeepsI.wait {a : State} : KeepsI a .wait := trivial

theorem KeepsI.ite {a : State} {x y : Issue} {c : Prop} [Decidable c] (hx : c → KeepsI a x) (hy : ¬c → KeepsI a y) : KeepsI a (if c then x else y) := by
  split
  · exact hx ‹_›
  · exact hy ‹_›

theorem privOr_keeps {a : State} {i : Issue} (h : KeepsI a i) {r : Run} {pc : Nat} : KeepsI a (privOr r pc i) :=
  KeepsI.ite (fun _ => h) fun _ => KeepsI.trap

theorem Keeps.refl (a : State) : Keeps a a :=
  ⟨rfl, rfl, rfl, List.suffix_rfl, Nat.le_refl _, Nat.le_refl _, id⟩

theorem Keeps2.mk {α : Type} {a s : State} {x : α} (h : Keeps a s) : Keeps2 a (x, s) := h

theorem Keeps2.snd {α : Type} {a : State} {p : α × State} (h : Keeps2 a p) : Keeps a p.2 := h

theorem KeepsO.next {a s : State} (h : Keeps a s) : KeepsO a (.next s) := by
  intro t e; cases e; exact h

theorem Keeps.ite {a x y : State} {c : Prop} [Decidable c] (hx : c → Keeps a x) (hy : ¬c → Keeps a y) : Keeps a (if c then x else y) := by
  split
  · exact hx ‹_›
  · exact hy ‹_›

theorem Keeps2.ite {α : Type} {a : State} {x y : α × State} {c : Prop} [Decidable c] (hx : c → Keeps2 a x) (hy : ¬c → Keeps2 a y) :
    Keeps2 a (if c then x else y) := by
  split
  · exact hx ‹_›
  · exact hy ‹_›

theorem KeepsO.ite {a : State} {x y : Host.Outcome State Fault Refusal} {c : Prop} [Decidable c] (hx : c → KeepsO a x) (hy : ¬c → KeepsO a y) :
    KeepsO a (if c then x else y) := by
  split
  · exact hx ‹_›
  · exact hy ‹_›

/-- A record update that leaves registers, deep memory's bytes and fabric time alone. -/
theorem Keeps.frame {a s t : State} (h : Keeps a s) (e1 : t.pending = s.pending) (e2 : t.part = s.part) (e3 : t.ticks = s.ticks)
    (e4 : t.out = s.out) (e5 : s.nextId ≤ t.nextId) (e6 : s.draws ≤ t.draws) (e7 : t.regs = s.regs) (e8 : t.deep.bytes = s.deep.bytes)
    (e9 : t.now = s.now) : Keeps a t :=
  ⟨e1.trans h.pending, e2.trans h.part, e3.trans h.ticks, e4 ▸ h.out, Nat.le_trans h.ids e5, Nat.le_trans h.draws e6,
    fun ha => let i := h.inv ha
      ⟨by intro e he; exact i.fits e (e7 ▸ he), by intro e he; exact i.codes e (e7 ▸ he), by rw [e8]; exact i.mem, by rw [e9]; exact i.time⟩⟩

/-- A change of deep memory that keeps its bytes canonical. -/
theorem Keeps.deepBytes {a s t : State} (h : Keeps a s) (e1 : t.pending = s.pending) (e2 : t.part = s.part) (e3 : t.ticks = s.ticks)
    (e4 : t.out = s.out) (e5 : s.nextId ≤ t.nextId) (e6 : s.draws ≤ t.draws) (e7 : t.regs = s.regs)
    (e8 : Memory.wf s.deep.bytes = true → Memory.wf t.deep.bytes = true) (e9 : t.now = s.now) : Keeps a t :=
  ⟨e1.trans h.pending, e2.trans h.part, e3.trans h.ticks, e4 ▸ h.out, Nat.le_trans h.ids e5, Nat.le_trans h.draws e6,
    fun ha => let i := h.inv ha
      ⟨by intro e he; exact i.fits e (e7 ▸ he), by intro e he; exact i.codes e (e7 ▸ he), e8 i.mem, by rw [e9]; exact i.time⟩⟩

/-- Registers are forgotten. -/
theorem Keeps.fewer {a s t : State} (h : Keeps a s) (e1 : t.pending = s.pending) (e2 : t.part = s.part) (e3 : t.ticks = s.ticks)
    (e4 : t.out = s.out) (e5 : s.nextId ≤ t.nextId) (e6 : s.draws ≤ t.draws) (e7 : ∀ e ∈ t.regs, e ∈ s.regs)
    (e8 : t.deep.bytes = s.deep.bytes) (e9 : t.now = s.now) : Keeps a t :=
  ⟨e1.trans h.pending, e2.trans h.part, e3.trans h.ticks, e4 ▸ h.out, Nat.le_trans h.ids e5, Nat.le_trans h.draws e6,
    fun ha => let i := h.inv ha
      ⟨by intro e he; exact i.fits e (e7 e he), by intro e he; exact i.codes e (e7 e he), by rw [e8]; exact i.mem, by rw [e9]; exact i.time⟩⟩

/-- Fabric time is set within its 96 bits. -/
theorem Keeps.setNow {a s : State} (h : Keeps a s) {n : Nat} (hn : n < 2 ^ 96) : Keeps a { s with now := n } :=
  ⟨h.pending, h.part, h.ticks, h.out, h.ids, h.draws, fun ha => let i := h.inv ha; ⟨i.fits, i.codes, i.mem, hn⟩⟩

/-- Free values are drawn. -/
theorem Keeps.drawOne {a s : State} (h : Keeps a s) : Keeps a { s with draws := s.draws + 1 } :=
  Keeps.frame h rfl rfl rfl rfl (Nat.le_refl _) (Nat.le_succ _) rfl rfl rfl

/-- A value may be written to a register field: a camp's STATE is one of R46. -/
def legal (r : RegName) (f : FName) (v : Nat) : Prop := r = .RUN_CAMP_STATUS → f = .STATE → v ≤ 5

theorem legal.reg {r : RegName} {f : FName} {v : Nat} (h : (r == .RUN_CAMP_STATUS) = false) : legal r f v := by
  intro h1; subst h1; cases h

theorem legal.fld {r : RegName} {f : FName} {v : Nat} (h : (f == .STATE) = false) : legal r f v := by
  intro _ h1; subst h1; cases h

theorem legal.list {r : RegName} {l : List (FName × Nat)} (h : (l.all fun e => e.1 != .STATE || decide (e.2 ≤ 5)) = true) :
    ∀ e ∈ l, legal r e.1 e.2 := by
  intro e he _ hf
  have := List.all_eq_true.mp h e he
  simpa [hf] using this

theorem Keeps.elim {α : Type} {a s : State} (h : Keeps a s) {o : Option α} {f : α → State} (hf : ∀ {x}, Keeps a (f x)) : Keeps a (o.elim s f) := by
  cases o with
  | none => exact h
  | some x => exact hf

/-- The table makes a camp's STATE read-only (R46). -/
theorem legal.table {r : RegName} {x : FieldSpec} (hx : x ∈ fieldsOf r) (ha : (x.acc == .ro) = false) {v : Nat} : legal r x.name v := by
  intro hr hf
  subst hr
  simp only [fieldsOf, List.mem_cons, List.not_mem_nil, or_false] at hx
  rcases hx with e | e | e | e | e | e | e | e | e | e <;> subst e <;> first | (cases ha; done) | (cases hf; done)

/-- A walk over a register's fields that writes them. -/
theorem State.forFields_keeps {a s : State} (h : Keeps a s) {r : RegName} {i : Nat} {p : FieldSpec → Bool} {v : State → FieldSpec → Nat}
    (hp : ∀ x ∈ fieldsOf r, p x = true → ∀ w, legal r x.name w) (hw : ∀ {t x w}, Keeps a t → legal r x w → Keeps a (t.wr r i x w)) :
    Keeps a (s.forEach ((fieldsOf r).filter p) fun t x => t.wr r i x.name (v t x)) := by
  have key : ∀ (l : List FieldSpec), (∀ x ∈ l, ∀ w, legal r x.name w) → ∀ {t : State}, Keeps a t →
      Keeps a (t.forEach l fun t x => t.wr r i x.name (v t x)) := by
    intro l
    induction l with
    | nil => intro _ t ht; exact ht
    | cons x l ih => intro hx t ht; exact ih (fun y hy => hx y (List.mem_cons_of_mem _ hy)) (hw ht (hx x List.mem_cons_self _))
  exact key _ (fun x hx w => hp x (List.mem_filter.mp hx).1 (List.mem_filter.mp hx).2 w) h

theorem State.wr_keeps {a s : State} (h : Keeps a s) {r : RegName} {i : Nat} {f : FName} {v : Nat} (hl : legal r f v) : Keeps a (s.wr r i f v) :=
  ⟨h.pending, h.part, h.ticks, h.out, h.ids, h.draws, fun ha => let n := h.inv ha
    ⟨by intro e he
        rcases mem_tset he with e1 | e1
        · subst e1; exact Nat.mod_lt _ (Nat.two_pow_pos _)
        · exact n.fits e e1,
     by intro e he hr hf
        rcases mem_tset he with e1 | e1
        · subst e1; exact Nat.le_trans (Nat.mod_le _ _) (hl hr hf)
        · exact n.codes e e1 hr hf,
     n.mem, n.time⟩⟩

theorem State.wrs_keeps {a s : State} (h : Keeps a s) {r : RegName} {i : Nat} {l : List (FName × Nat)} (hl : ∀ e ∈ l, legal r e.1 e.2) :
    Keeps a (s.wrs r i l) := by
  induction l generalizing s with
  | nil => exact h
  | cons e l ih => exact ih (State.wr_keeps h (hl e List.mem_cons_self)) fun x hx => hl x (List.mem_cons_of_mem _ hx)

theorem State.emit_keeps {a s : State} (h : Keeps a s) {o : Out} : Keeps a (s.emit o) :=
  ⟨h.pending, h.part, h.ticks, h.out.trans (List.suffix_cons _ _), h.ids, h.draws,
    fun ha => let n := h.inv ha; ⟨n.fits, n.codes, n.mem, n.time⟩⟩

theorem foldl_keeps {α : Type} {a : State} {f : State → α → State} (hf : ∀ {t x}, Keeps a t → Keeps a (f t x)) {s : State}
    (h : Keeps a s) {l : List α} : Keeps a (l.foldl f s) := by
  induction l generalizing s with
  | nil => exact h
  | cons x l ih => exact ih (hf h)

theorem foldl_keeps2 {α β : Type} {a : State} {f : β × State → α → β × State} (hf : ∀ {t x}, Keeps2 a t → Keeps2 a (f t x)) {s : β × State}
    (h : Keeps2 a s) {l : List α} : Keeps2 a (l.foldl f s) := by
  induction l generalizing s with
  | nil => exact h
  | cons x l ih => exact ih (hf h)

theorem State.forEach_keeps {a s : State} (h : Keeps a s) {α : Type} {l : List α} {f : State → α → State}
    (hf : ∀ {t x}, Keeps a t → Keeps a (f t x)) : Keeps a (s.forEach l f) := foldl_keeps hf h

theorem State.bump_keeps {a s : State} (h : Keeps a s) {r : RegName} {i : Nat} {f : FName} {n : Nat} (hl : (f == .STATE) = false) :
    Keeps a (s.bump r i f n) := State.wr_keeps h (legal.fld hl)

theorem State.putFields_keeps {a s : State} (h : Keeps a s) {r : RegName} {i v : Nat} {p : FieldSpec → Bool}
    (hl : ∀ x ∈ fieldsOf r, p x = true → ∀ w, legal r x.name w) : Keeps a (s.putFields r i v p) := by
  have key : ∀ (l : List FieldSpec), (∀ x ∈ l, ∀ w, legal r x.name w) → ∀ {t : State}, Keeps a t →
      Keeps a (l.foldl (fun t x => t.wr r i x.name (bitsOf v x.lo x.width)) t) := by
    intro l
    induction l with
    | nil => intro _ t ht; exact ht
    | cons x l ih => intro hx t ht; exact ih (fun y hy => hx y (List.mem_cons_of_mem _ hy)) (State.wr_keeps ht (hx x List.mem_cons_self _))
  exact key _ (fun x hx w => hl x (List.mem_filter.mp hx).1 (List.mem_filter.mp hx).2 w) h

theorem State.sendMsix_keeps {a s : State} (h : Keeps a s) {v : Nat} : Keeps a (s.sendMsix v) := State.emit_keeps h

theorem State.msix_keeps {a s : State} (h : Keeps a s) {v : Nat} : Keeps a (s.msix v) := by
  unfold State.msix
  refine Keeps.ite (fun _ => Keeps.ite (fun _ => ?_) fun _ => State.sendMsix_keeps h) fun _ => h
  exact Keeps.frame h rfl rfl rfl rfl (Nat.le_refl _) (Nat.le_refl _) rfl rfl rfl

theorem State.irq_keeps {a s : State} (h : Keeps a s) {v : Nat} : Keeps a (s.irq v) := by
  unfold State.irq
  refine Keeps.ite (fun _ => h) fun _ => ?_
  have h1 : Keeps a (s.wr .HI_IRQ_CAUSE 0 .CAUSE (s.rd .HI_IRQ_CAUSE 0 .CAUSE + 2 ^ v)) := State.wr_keeps h (legal.reg rfl)
  exact Keeps.ite (fun _ => State.msix_keeps h1) fun _ => h1

theorem State.logEvent_keeps {a s : State} (h : Keeps a s) {r : RegName} {i : Nat} {fs : List (FName × Nat)} {more : State → State}
    (hl : (r == .RUN_CAMP_STATUS) = false) (hm : ∀ {t}, Keeps a t → Keeps a (more t)) :
    Keeps a (s.logEvent r i fs more) := by
  unfold State.logEvent
  have h1 := hm (State.wr_keeps (State.wrs_keeps h (r := r) (i := i) (l := fs) fun _ _ => legal.reg hl) (f := .VALID) (v := 1) (i := i) (r := r) (legal.reg hl))
  refine Keeps.ite (fun _ => ?_) fun _ => State.wr_keeps h (legal.reg hl)
  exact Keeps.ite (fun _ => h1) fun _ => State.irq_keeps h1

theorem State.logIn_keeps {a s : State} (h : Keeps a s) {r : RegName} {i : Nat} {now : List Nat} {fs : List (FName × Nat)} {same before : Bool}
    {more : State → State} (hl : (r == .RUN_CAMP_STATUS) = false) (hm : ∀ {t}, Keeps a t → Keeps a (more t)) :
    Keeps a (s.logIn r i now fs same before more) := by
  unfold State.logIn
  have h1 : Keeps a (s.logEvent r i fs more) := State.logEvent_keeps h hl hm
  refine Keeps.ite (fun _ => Keeps.ite (fun _ => h) fun _ => Keeps.ite (fun _ => ?_) fun _ => State.wr_keeps h (legal.reg hl)) fun _ => ?_
  · exact State.wr_keeps (hm (State.wrs_keeps h fun _ _ => legal.reg hl)) (legal.reg hl)
  · exact Keeps.ite (fun _ => Keeps.frame h1 rfl rfl rfl rfl (Nat.le_refl _) (Nat.le_refl _) rfl rfl rfl) fun _ => h1

theorem Deep.putBytes_wf {d : Deep} {a : Nat} {bs : List Byte} (h : Memory.wf d.bytes = true) : Memory.wf (d.putBytes a bs).bytes = true :=
  mcanon_foldl_mwrite bs.zipIdx (fun e => a + e.2) (fun e => e.1) h

theorem Deep.clear_wf {d : Deep} {lo hi : Nat} (h : Memory.wf d.bytes = true) : Memory.wf (d.clear lo hi).bytes = true :=
  mcanon_filter _ h

end Sys2Proof.Machine
end

