-- ==== Sys2Proof/Laws/KeepsPlace.lean ====
section
/-! SUPPORT. Every operation and command of registers, places, links, stalls, broadcast processors, deep memory, wear and cluster memory passes `Keeps` on. -/

namespace Sys2Proof.Machine

set_option Elab.async false

theorem State.campIrq_keeps {a s : State} {c : Nat} {b : CampBit} (h1 : Keeps a s) : Keeps a (State.campIrq s c b) := by
  unfold State.campIrq
  extract_lets +onlyGivenNames x100
  refine Keeps.ite (fun _ => h1) (fun _ => ?_)
  extract_lets +onlyGivenNames x101
  have h101 : Keeps a x101 := by
    unfold x101
    exact State.wr_keeps h1 (legal.reg rfl)
  clear_value x101
  exact Keeps.ite (fun _ => State.msix_keeps h101) (fun _ => h101)

theorem State.modLogAt_keeps {a s : State} {f : List ((RegName × Nat) × List Nat) → List ((RegName × Nat) × List Nat)} (h1 : Keeps a s) : Keeps a (State.modLogAt s f) := by
  unfold State.modLogAt
  exact Keeps.frame (s := s) h1 rfl rfl rfl rfl (Nat.le_refl _) (Nat.le_refl _) rfl rfl rfl

theorem State.idError_keeps {a s : State} {kind : Nat} {bar : Nat} {off : Nat} {cause : Nat} (h1 : Keeps a s) : Keeps a (State.idError s kind bar off cause) := by
  unfold State.idError
  extract_lets +onlyGivenNames x100
  exact State.logIn_keeps (State.bump_keeps h1 rfl) rfl (@fun t101 h102 => State.wr_keeps h102 (legal.reg rfl))

theorem State.unhold_keeps {a s : State} {r : RegName} {i : Nat} (h1 : Keeps a s) : Keeps a (State.unhold s r i) := by
  unfold State.unhold
  exact Keeps.frame (s := s) h1 rfl rfl rfl rfl (Nat.le_refl _) (Nat.le_refl _) rfl rfl rfl

theorem State.asWriteAt_keeps {a s : State} {off : Nat} {r : RegName} {i : Nat} {f : State → Host.Outcome State Fault Refusal} (h1 : Keeps a s) (h5 : ∀ { v0}, Keeps a v0 → KeepsO a (f v0)) : KeepsO a (State.asWriteAt s off r i f) := by
  unfold State.asWriteAt
  split
  · exact h5 (State.unhold_keeps h1)
  · exact KeepsO.next h1
  · exact KeepsO.next (State.idError_keeps h1)

theorem State.asWrite_keeps {a s : State} {r : RegName} {i : Nat} {f : State → Host.Outcome State Fault Refusal} (h1 : Keeps a s) (h4 : ∀ { v0}, Keeps a v0 → KeepsO a (f v0)) : KeepsO a (State.asWrite s r i f) := by
  unfold State.asWrite
  exact State.asWriteAt_keeps h1 (@fun t100 h101 => h4 h101)

theorem State.modCamp_keeps {a s : State} {c : Nat} {f : Camp → Camp} (h1 : Keeps a s) : Keeps a (State.modCamp s c f) := by
  unfold State.modCamp
  exact Keeps.frame (s := s) h1 rfl rfl rfl rfl (Nat.le_refl _) (Nat.le_refl _) rfl rfl rfl

theorem State.modCluster_keeps {a s : State} {k : Nat} {f : Cluster → Cluster} (h1 : Keeps a s) : Keeps a (State.modCluster s k f) := by
  unfold State.modCluster
  exact Keeps.frame (s := s) h1 rfl rfl rfl rfl (Nat.le_refl _) (Nat.le_refl _) rfl rfl rfl

theorem State.modGroup_keeps {a s : State} {c : Nat} {d : Nat} {f : Group → Group} (h1 : Keeps a s) : Keeps a (State.modGroup s c d f) := by
  unfold State.modGroup
  exact State.modCamp_keeps h1

theorem State.clearPitch_keeps {a s : State} {p : Nat} (h1 : Keeps a s) : Keeps a (State.clearPitch s p) := by
  unfold State.clearPitch
  exact State.forEach_keeps h1 (@fun t100 t101 h102 => State.wr_keeps (State.modCluster_keeps h102) (legal.reg rfl))

theorem State.clearEnd_keeps {a s : State} {p : Nat} (h1 : Keeps a s) : Keeps a (State.clearEnd s p) := by
  unfold State.clearEnd
  exact State.forEach_keeps h1 (@fun t100 t101 h102 => State.wr_keeps h102 (legal.reg rfl))

theorem State.modHn_keeps {a s : State} {p : Nat} {f : HnPort → HnPort} (h1 : Keeps a s) : Keeps a (State.modHn s p f) := by
  unfold State.modHn
  exact Keeps.frame (s := s) h1 rfl rfl rfl rfl (Nat.le_refl _) (Nat.le_refl _) rfl rfl rfl

theorem State.modFab_keeps {a s : State} {f : FabUnit → FabUnit} (h1 : Keeps a s) : Keeps a (State.modFab s f) := by
  unfold State.modFab
  exact Keeps.frame (s := s) h1 rfl rfl rfl rfl (Nat.le_refl _) (Nat.le_refl _) rfl rfl rfl

theorem State.sendTx_keeps {a s : State} {p : Nat} {nak : Bool} {e : TxFlit} (h1 : Keeps a s) : Keeps a (State.sendTx s p nak e) := by
  unfold State.sendTx
  extract_lets +onlyGivenNames x100
  exact State.emit_keeps h1

theorem State.setKeys_keeps {a s : State} {p : Nat} (h1 : Keeps a s) : Keeps a (State.setKeys s p) := by
  unfold State.setKeys
  extract_lets +onlyGivenNames x100
  extract_lets +onlyGivenNames x101
  exact State.modHn_keeps h1

theorem State.launch_keeps {a s : State} {p : Nat} {nak : Bool} {f : OutFlit} (h1 : Keeps a s) : Keeps a (State.launch s p nak f) := by
  unfold State.launch
  extract_lets +onlyGivenNames x100
  extract_lets +onlyGivenNames x101
  extract_lets +onlyGivenNames x102
  have h102 : Keeps a x102 := by
    unfold x102
    exact State.sendTx_keeps (State.modHn_keeps h1)
  clear_value x102
  exact Keeps.ite (fun _ => State.setKeys_keeps (State.wr_keeps (State.modHn_keeps h102) (legal.reg rfl))) (fun _ => h102)

theorem State.pumpPort_keeps {a s : State} (h : Keeps a s) {p n : Nat} : Keeps a (s.pumpPort p n) := by
  induction n generalizing s with
  | zero => exact h
  | succ n ih =>
    unfold State.pumpPort
    split
    · exact h
    · exact Keeps.ite (fun _ => ih (State.launch_keeps (State.modHn_keeps h))) (fun _ => h)

theorem State.exitIdle_keeps {a s : State} {p : Nat} (h1 : Keeps a s) : Keeps a (State.exitIdle s p) := by
  unfold State.exitIdle
  exact Keeps.ite (fun _ => State.emit_keeps (State.modHn_keeps h1)) (fun _ => h1)

theorem State.sendFlit_keeps {a s : State} {p : Nat} {f : OutFlit} (h1 : Keeps a s) : Keeps a (State.sendFlit s p f) := by
  unfold State.sendFlit
  extract_lets +onlyGivenNames x100
  have h100 : Keeps a x100 := by
    unfold x100
    exact State.modHn_keeps h1
  clear_value x100
  exact Keeps.ite (fun _ => State.exitIdle_keeps h100) (fun _ => State.pumpPort_keeps h100)

theorem State.sendSlot_keeps {a s : State} {p : Nat} {slot : Nat} (h1 : Keeps a s) : Keeps a (State.sendSlot s p slot) := by
  unfold State.sendSlot
  exact State.sendFlit_keeps h1

theorem State.fbDrop_keeps {a s : State} {n : Nat} (h1 : Keeps a s) : Keeps a (State.fbDrop s n) := by
  unfold State.fbDrop
  exact State.bump_keeps h1 rfl

theorem State.keepFlow_keeps {a s : State} {arrival : Option Nat} {pk : Packet} {outs : List Nat} (h1 : Keeps a s) : Keeps a (State.keepFlow s arrival pk outs) := by
  unfold State.keepFlow
  extract_lets +onlyGivenNames x100
  exact State.modFab_keeps h1

theorem State.routePacket_keeps {a s : State} {arrival : Option Nat} {pk : Packet} (h1 : Keeps a s) : Keeps2 a (State.routePacket s arrival pk) := by
  unfold State.routePacket
  refine Keeps2.ite (fun _ => Keeps2.mk (State.fbDrop_keeps h1)) (fun _ => ?_)
  extract_lets +onlyGivenNames x100
  extract_lets +onlyGivenNames x101
  have h101 : Keeps a x101 := by
    unfold x101
    exact State.keepFlow_keeps h1
  clear_value x101
  extract_lets +onlyGivenNames x102
  extract_lets +onlyGivenNames x103
  extract_lets +onlyGivenNames x104
  have h104 : Keeps a x104 := by
    unfold x104
    exact State.fbDrop_keeps h101
  clear_value x104
  exact Keeps2.mk (State.forEach_keeps h104 (@fun t105 t106 h107 => State.sendFlit_keeps h107))

theorem State.sendOne_keeps {a s : State} {pk : Packet} (h1 : Keeps a s) : Keeps a (State.sendOne s pk) := by
  unfold State.sendOne
  extract_lets +onlyGivenNames x100
  have h100 : Keeps2 a x100 := by
    unfold x100
    exact State.routePacket_keeps h1
  clear_value x100
  exact Keeps.ite (fun _ => State.emit_keeps (Keeps2.snd h100)) (fun _ => Keeps2.snd h100)

theorem State.originate_keeps {a s : State} {dst : Nat} {kind : Nat} {d : PktData} (h1 : Keeps a s) : Keeps a (State.originate s dst kind d) := by
  unfold State.originate
  extract_lets +onlyGivenNames x100
  split
  · extract_lets +onlyGivenNames x101
    exact State.forEach_keeps h1 (@fun t102 t103 h104 => State.sendOne_keeps h104)
  · exact State.sendOne_keeps h1

theorem State.enter_keeps {a s : State} (h : Keeps a s) {c code : Nat} (hl : code ≤ 5) : Keeps a (State.enter s c code) := by
  unfold State.enter
  extract_lets +onlyGivenNames s1
  have h1 : Keeps a s1 := State.wr_keeps h (fun _ _ => hl)
  refine Keeps.ite (fun _ => ?_) (fun _ => ?_)
  · exact State.campIrq_keeps h1
  · exact h1

theorem State.guylineOut_keeps {a s : State} {c : Nat} {arrival : Option Nat} {m : Guy} (h1 : Keeps a s) : Keeps a (State.guylineOut s c arrival m) := by
  unfold State.guylineOut
  exact Keeps.ite (fun _ => State.forEach_keeps h1 (@fun t100 t101 h102 => State.sendSlot_keeps h102)) (fun _ => h1)

theorem State.restDrains_keeps {a s : State} {c : Nat} (h1 : Keeps a s) : Keeps a (State.restDrains s c) := by
  unfold State.restDrains
  exact Keeps.ite (fun _ => State.forEach_keeps h1 (@fun t100 t101 h102 => State.modCluster_keeps h102)) (fun _ => h1)

theorem State.haltNow_keeps {a s : State} {c : Nat} {cause : Nat} {mid : Bool} (h1 : Keeps a s) : Keeps a (State.haltNow s c cause mid) := by
  unfold State.haltNow
  extract_lets +onlyGivenNames x100
  have h100 : Keeps a x100 := by
    unfold x100
    exact State.wrs_keeps (State.modCamp_keeps h1) (legal.list rfl)
  clear_value x100
  extract_lets +onlyGivenNames x101
  have h101 : Keeps a x101 := by
    unfold x101
    exact Keeps.ite (fun _ => State.modCamp_keeps (State.forEach_keeps (State.wr_keeps h100 (legal.reg rfl)) (@fun t102 t103 h104 => State.modCluster_keeps h104))) (fun _ => h100)
  clear_value x101
  refine State.guylineOut_keeps ?_
  refine State.enter_keeps (State.restDrains_keeps h101) ?_
  decide

theorem State.haltIfFrozen_keeps {a s : State} {c : Nat} (h1 : Keeps a s) : Keeps a (State.haltIfFrozen s c) := by
  unfold State.haltIfFrozen
  refine Keeps.ite (fun _ => ?_) (fun _ => h1)
  split
  · exact State.haltNow_keeps h1
  · exact h1

theorem State.haltCond_keeps {a s : State} {c : Nat} {cause : Nat} (h1 : Keeps a s) : Keeps a (State.haltCond s c cause) := by
  unfold State.haltCond
  exact Keeps.ite (fun _ => Keeps.ite (fun _ => State.haltNow_keeps h1) (fun _ => Keeps.ite (fun _ => State.haltNow_keeps h1) (fun _ => State.modCamp_keeps h1))) (fun _ => h1)

theorem State.haltHeard_keeps {a s : State} {c : Nat} {cause : Nat} (h1 : Keeps a s) : Keeps a (State.haltHeard s c cause) := by
  unfold State.haltHeard
  exact Keeps.ite (fun _ => State.haltNow_keeps h1) (fun _ => State.haltCond_keeps h1)

theorem State.applyStall_keeps {a s : State} {c : Nat} {st : Stall} (h1 : Keeps a s) : Keeps a (State.applyStall s c st) := by
  unfold State.applyStall
  extract_lets +onlyGivenNames x100
  extract_lets +onlyGivenNames x101
  have h101 : Keeps a x101 := by
    unfold x101
    exact State.wrs_keeps (State.bump_keeps h1 rfl) (fun _ _ => legal.reg rfl)
  clear_value x101
  refine Keeps.ite (fun _ => ?_) (fun _ => h101)
  extract_lets +onlyGivenNames x102
  extract_lets +onlyGivenNames x103
  have h103 : Keeps a x103 := by
    unfold x103
    exact State.modCamp_keeps h101
  clear_value x103
  extract_lets +onlyGivenNames x104
  have h104 : Keeps a x104 := by
    unfold x104
    exact State.forEach_keeps h103 (@fun t105 t106 h107 => State.modGroup_keeps h107)
  clear_value x104
  extract_lets +onlyGivenNames x108
  have h108 : Keeps a x108 := by
    unfold x108
    exact State.wr_keeps h104 (legal.reg rfl)
  clear_value x108
  exact State.haltIfFrozen_keeps h108

theorem State.raiseStall_keeps {a s : State} {c : Nat} {cause : Nat} {island : Nat} {pos : Option (Nat × Pos)} (h1 : Keeps a s) : Keeps a (State.raiseStall s c cause island pos) := by
  unfold State.raiseStall
  extract_lets +onlyGivenNames x100
  extract_lets +onlyGivenNames x101
  have h101 : Keeps a x101 := by
    unfold x101
    refine State.applyStall_keeps ?_
    exact Keeps.frame (s := s) h1 rfl rfl rfl rfl (Nat.le_add_right _ _) (Nat.le_refl _) rfl rfl rfl
  clear_value x101
  exact State.guylineOut_keeps h101

theorem State.applyRelease_keeps {a s : State} {c : Nat} {module : Nat} {id : Nat} {frozen : Nat} (h1 : Keeps a s) : Keeps a (State.applyRelease s c module id frozen) := by
  unfold State.applyRelease
  split
  · exact h1
  · refine Keeps.ite (fun _ => ?_) (fun _ => h1)
    extract_lets +onlyGivenNames x100
    extract_lets +onlyGivenNames x101
    have h101 : Keeps a x101 := by
      unfold x101
      exact State.bump_keeps h1 rfl
    clear_value x101
    extract_lets +onlyGivenNames x102
    have h102 : Keeps a x102 := by
      unfold x102
      exact State.modCamp_keeps h101
    clear_value x102
    exact State.wr_keeps h102 (legal.reg rfl)

theorem State.releaseStall_keeps {a s : State} {c : Nat} {st : Stall} {frozen : Nat} (h1 : Keeps a s) : Keeps a (State.releaseStall s c st frozen) := by
  unfold State.releaseStall
  exact State.guylineOut_keeps (State.applyRelease_keeps h1)

theorem State.releaseStalls_keeps {a s : State} {c : Nat} {l : List Stall} {frozen : Nat} (h1 : Keeps a s) : Keeps a (State.releaseStalls s c l frozen) := by
  unfold State.releaseStalls
  exact foldl_keeps (@fun t100 t101 h102 => State.releaseStall_keeps h102) h1

theorem State.releaseCause_keeps {a s : State} {c : Nat} {cause : Nat} {island : Option Nat} {frozen : Nat} (h1 : Keeps a s) : Keeps a (State.releaseCause s c cause island frozen) := by
  unfold State.releaseCause
  exact State.releaseStalls_keeps h1

theorem State.chargeSteps_keeps {a s : State} {c : Nat} {n : Nat} (h1 : Keeps a s) : Keeps a (State.chargeSteps s c n) := by
  unfold State.chargeSteps
  extract_lets +onlyGivenNames x100
  extract_lets +onlyGivenNames x101
  refine Keeps.ite (fun _ => h1) (fun _ => ?_)
  extract_lets +onlyGivenNames x102
  extract_lets +onlyGivenNames x103
  extract_lets +onlyGivenNames x104
  exact State.modCamp_keeps (State.bump_keeps h1 rfl)

theorem State.campFault_keeps {a s : State} {c : Nat} {d : Nat} (h1 : Keeps a s) : Keeps a (State.campFault s c d) := by
  unfold State.campFault
  exact State.modGroup_keeps h1

theorem State.faultArrives_keeps {a s : State} {c : Nat} {d : Nat} (h1 : Keeps a s) : Keeps a (State.faultArrives s c d) := by
  unfold State.faultArrives
  extract_lets +onlyGivenNames x100
  have h100 : Keeps a x100 := by
    unfold x100
    exact State.campFault_keeps h1
  clear_value x100
  exact Keeps.ite (fun _ => State.haltNow_keeps h100) (fun _ => h100)

theorem State.logFault_keeps {a s : State} {c : Nat} {k : Nat} {code : Nat} {bp : Nat} {step : Nat} {opnd : Nat} (h1 : Keeps a s) : Keeps a (State.logFault s c k code bp step opnd) := by
  unfold State.logFault
  extract_lets +onlyGivenNames x100
  have h100 : Keeps a x100 := by
    unfold x100
    exact State.bump_keeps h1 rfl
  clear_value x100
  extract_lets +onlyGivenNames x101
  have h101 : Keeps a x101 := by
    unfold x101
    exact State.logIn_keeps h100 rfl (@fun t102 h103 => State.wr_keeps h103 (legal.reg rfl))
  clear_value x101
  exact State.campFault_keeps h101

theorem State.logConflict_keeps {a s : State} {c : Nat} {k : Nat} {step : Nat} {wire : Nat} {index : Nat} (h1 : Keeps a s) : Keeps a (State.logConflict s c k step wire index) := by
  unfold State.logConflict
  extract_lets +onlyGivenNames x100
  extract_lets +onlyGivenNames x101
  have h101 : Keeps a x101 := by
    unfold x101
    exact State.bump_keeps h1 rfl
  clear_value x101
  extract_lets +onlyGivenNames x102
  extract_lets +onlyGivenNames x103
  extract_lets +onlyGivenNames x104
  extract_lets +onlyGivenNames x105
  have h105 : Keeps a x105 := by
    unfold x105
    exact State.logIn_keeps h101 rfl (@fun t106 h107 => State.wr_keeps h107 (legal.reg rfl))
  clear_value x105
  exact State.campFault_keeps h105

theorem State.bpFaulted_keeps {a s : State} {c : Nat} {k : Nat} {n : Nat} {b : Nat} {code : Nat} {opnd : Nat} (h1 : Keeps a s) : Keeps a (State.bpFaulted s c k n b code opnd) := by
  unfold State.bpFaulted
  exact State.logFault_keeps (State.modCluster_keeps h1)

theorem State.beatRoutes_keeps {a s : State} {c : Nat} {k : Nat} {n : Nat} {b : Nat} {z5 : Nat} (h1 : Keeps a s) : Keeps a (State.beatRoutes s c k n b z5) := by
  unfold State.beatRoutes
  exact State.forEach_keeps h1 (@fun t100 t101 h102 => State.logConflict_keeps (State.logFault_keeps (State.modCluster_keeps h102)))

theorem State.beatUnpack_keeps {a s : State} {c : Nat} {k : Nat} {n : Nat} {b : Nat} (h1 : Keeps a s) : Keeps a (State.beatUnpack s c k n b) := by
  unfold State.beatUnpack
  exact Keeps.ite (fun _ => State.logFault_keeps (State.modCluster_keeps h1)) (fun _ => h1)

theorem State.bpTurn_keeps {a s : State} {c : Nat} {k : Nat} {n : Nat} {b : Nat} {op : Option BpOp} {f : BpFields} (h1 : Keeps a s) : Keeps a (State.bpTurn s c k n b op f) := by
  unfold State.bpTurn
  extract_lets +onlyGivenNames x100
  split
  · exact State.bpFaulted_keeps h1
  · split
    · exact State.bpFaulted_keeps h1
    · extract_lets +onlyGivenNames x101
      have h101 : Keeps a x101 := by
        unfold x101
        exact Keeps.ite (fun _ => State.beatUnpack_keeps h1) (fun _ => h1)
      clear_value x101
      split
      · exact Keeps.ite (fun _ => State.logConflict_keeps (State.bpFaulted_keeps h1)) (fun _ => State.modCluster_keeps (State.beatRoutes_keeps h101))
      · exact State.modCluster_keeps h101

theorem State.runBp_keeps {a s : State} {loc : BpSite} {op : BpOp} {f : BpFields} (h1 : Keeps a s) : Keeps a (State.runBp s loc op f) := by
  unfold State.runBp
  extract_lets +onlyGivenNames x100
  split
  · exact h1
  · exact State.haltIfFrozen_keeps (State.bpTurn_keeps h1)

theorem execBpNop_keeps {a : State} {loc : BpSite} {f : BpFields} {s : State} (h3 : Keeps a s) : KeepsO a (execBpNop loc f s) := by
  unfold execBpNop
  exact KeepsO.next (State.runBp_keeps h3)

theorem execLut4_keeps {a : State} {loc : BpSite} {f : BpFields} {s : State} (h3 : Keeps a s) : KeepsO a (execLut4 loc f s) := by
  unfold execLut4
  exact KeepsO.next (State.runBp_keeps h3)

theorem execLut4e_keeps {a : State} {loc : BpSite} {f : BpFields} {s : State} (h3 : Keeps a s) : KeepsO a (execLut4e loc f s) := by
  unfold execLut4e
  exact KeepsO.next (State.runBp_keeps h3)

theorem execRoute_keeps {a : State} {loc : BpSite} {f : BpFields} {s : State} (h3 : Keeps a s) : KeepsO a (execRoute loc f s) := by
  unfold execRoute
  exact KeepsO.next (State.runBp_keeps h3)

theorem execHold_keeps {a : State} {loc : BpSite} {f : BpFields} {s : State} (h3 : Keeps a s) : KeepsO a (execHold loc f s) := by
  unfold execHold
  exact KeepsO.next (State.runBp_keeps h3)

theorem execCkpt_keeps {a : State} {loc : BpSite} {f : BpFields} {s : State} (h3 : Keeps a s) : KeepsO a (execCkpt loc f s) := by
  unfold execCkpt
  exact KeepsO.next (State.runBp_keeps h3)

theorem execDrainStart_keeps {a : State} {loc : ClusterSite} {s : State} (h2 : Keeps a s) : KeepsO a (execDrainStart loc s) := by
  unfold execDrainStart
  extract_lets +onlyGivenNames x100
  exact KeepsO.next (Keeps.ite (fun _ => State.modCluster_keeps h2) (fun _ => h2))

theorem execDrainEnd_keeps {a : State} {loc : BpSite} {s : State} (h2 : Keeps a s) : KeepsO a (execDrainEnd loc s) := by
  unfold execDrainEnd
  extract_lets +onlyGivenNames x100
  extract_lets +onlyGivenNames x101
  split
  · exact KeepsO.ite (fun _ => KeepsO.next (State.modCluster_keeps h2)) (fun _ => KeepsO.next h2)
  · exact KeepsO.next h2

theorem State.modDeep_keeps {a s : State} (h : Keeps a s) {f : Deep → Deep} (hf : Memory.wf s.deep.bytes = true → Memory.wf (f s.deep).bytes = true) :
    Keeps a (s.modDeep f) :=
  Keeps.deepBytes h rfl rfl rfl rfl (Nat.le_refl _) (Nat.le_refl _) rfl hf rfl

theorem State.sealBytes_keeps {a s : State} {lo : Nat} {hi : Nat} (h1 : Keeps a s) : Keeps a (State.sealBytes s lo hi) := by
  unfold State.sealBytes
  extract_lets +onlyGivenNames x100
  exact Keeps.deepBytes (s := s) h1 rfl rfl rfl rfl (Nat.le_refl _) (Nat.le_add_right _ _) rfl (fun h => Deep.clear_wf h) rfl

theorem State.leaveCipher_keeps {a s : State} {lo : Nat} {hi : Nat} {key : Nat} (h1 : Keeps a s) : Keeps a (State.leaveCipher s lo hi key) := by
  unfold State.leaveCipher
  extract_lets +onlyGivenNames x100
  extract_lets +onlyGivenNames x101
  extract_lets +onlyGivenNames x102
  exact Keeps.deepBytes (s := s) h1 rfl rfl rfl rfl (Nat.le_refl _) (Nat.le_add_right _ _) rfl (fun h => Deep.clear_wf h) rfl

theorem State.sealLines_keeps {a s : State} {ks : List Nat} {code : Nat} (h1 : Keeps a s) : Keeps a (State.sealLines s ks code) := by
  unfold State.sealLines
  extract_lets +onlyGivenNames x100
  exact Keeps.deepBytes (s := s) h1 rfl rfl rfl rfl (Nat.le_refl _) (Nat.le_add_right _ _) rfl (fun h => mcanon_filter _ h) rfl

theorem State.sealPair_keeps {a s : State} {k : Nat} (h1 : Keeps a s) : Keeps a (State.sealPair s k) := by
  unfold State.sealPair
  exact State.sealLines_keeps h1

theorem State.sealChan_keeps {a s : State} {c : Nat} (h1 : Keeps a s) : Keeps a (State.sealChan s c) := by
  unfold State.sealChan
  exact State.sealLines_keeps h1

theorem State.leaveRegion_keeps {a s : State} {c : Nat} (h1 : Keeps a s) : Keeps a (State.leaveRegion s c) := by
  unfold State.leaveRegion
  extract_lets +onlyGivenNames x100
  exact Keeps.ite (fun _ => h1) (fun _ => State.leaveCipher_keeps h1)

theorem State.showXing_keeps {a s : State} (h1 : Keeps a s) : Keeps a (State.showXing s) := by
  unfold State.showXing
  exact State.wr_keeps h1 (legal.reg rfl)

theorem State.releaseCamp_keeps {a s : State} (h : Keeps a s) {c : Nat} : Keeps a (s.releaseCamp c) := by
  unfold State.releaseCamp
  extract_lets x s1
  have h1 : Keeps a s1 := State.forEach_keeps (State.leaveRegion_keeps h) fun ht =>
    State.forEach_keeps ht fun hu =>
      Keeps.fewer hu rfl rfl rfl rfl (Nat.le_refl _) (Nat.le_refl _) (fun _ he => (List.mem_filter.mp he).1) rfl rfl
  exact State.showXing_keeps (Keeps.fewer h1 rfl rfl rfl rfl (Nat.le_refl _) (Nat.le_refl _) (fun _ he => (List.mem_filter.mp he).1) rfl rfl)

theorem State.loadRelease_keeps {a s : State} (h1 : Keeps a s) : Keeps a (State.loadRelease s) := by
  unfold State.loadRelease
  extract_lets +onlyGivenNames x100
  exact Keeps.ite (fun _ => State.modDeep_keeps (State.releaseCamp_keeps h1) (fun h => h)) (fun _ => h1)

theorem State.loadFail_keeps {a s : State} {f : LoadFailure} {tell : Bool} (h1 : Keeps a s) : Keeps a (State.loadFail s f tell) := by
  unfold State.loadFail
  extract_lets +onlyGivenNames x100
  refine Keeps.ite (fun _ => ?_) (fun _ => h1)
  extract_lets +onlyGivenNames x101
  have h101 : Keeps a x101 := by
    unfold x101
    refine State.wrs_keeps ?_ (fun _ _ => legal.reg rfl)
    refine State.wrs_keeps ?_ (fun _ _ => legal.reg rfl)
    refine State.wr_keeps ?_ (legal.reg rfl)
    exact Keeps.frame (s := s) h1 rfl rfl rfl rfl (Nat.le_refl _) (Nat.le_refl _) rfl rfl rfl
  clear_value x101
  extract_lets +onlyGivenNames x102
  have h102 : Keeps a x102 := by
    unfold x102
    exact State.forEach_keeps h101 (@fun t103 t104 h105 => State.clearPitch_keeps h105)
  clear_value x102
  extract_lets +onlyGivenNames x106
  have h106 : Keeps a x106 := by
    unfold x106
    exact State.loadRelease_keeps h102
  clear_value x106
  extract_lets +onlyGivenNames x107
  extract_lets +onlyGivenNames x108
  have h108 : Keeps a x108 := by
    unfold x108
    refine State.forEach_keeps ?_ (@fun t109 t110 h111 => State.exitIdle_keeps h111)
    exact Keeps.frame (s := x106) h106 rfl rfl rfl rfl (Nat.le_refl _) (Nat.le_refl _) rfl rfl rfl
  clear_value x108
  exact Keeps.ite (fun _ => Keeps.ite (fun _ => h108) (fun _ => State.forEach_keeps h108 (@fun t112 t113 h114 => State.originate_keeps h114))) (fun _ => Keeps.ite (fun _ => State.originate_keeps h108) (fun _ => h108))

theorem State.loadFailHere_keeps {a s : State} {err : Nat} (h1 : Keeps a s) : Keeps a (State.loadFailHere s err) := by
  unfold State.loadFailHere
  exact State.loadFail_keeps h1

theorem State.loadKeyEvent_keeps {a s : State} {keys : List Nat} (h1 : Keeps a s) : Keeps a (State.loadKeyEvent s keys) := by
  unfold State.loadKeyEvent
  exact Keeps.ite (fun _ => State.loadFailHere_keeps h1) (fun _ => h1)

theorem State.alarmLog_keeps {a s : State} {cls : Nat} {cause : Nat} {level : Nat} {addr : Nat} {keys : List Nat} (h1 : Keeps a s) : Keeps a (State.alarmLog s cls cause level addr keys) := by
  unfold State.alarmLog
  extract_lets +onlyGivenNames x100
  extract_lets +onlyGivenNames x101
  extract_lets +onlyGivenNames x102
  have h102 : Keeps a x102 := by
    unfold x102
    exact State.logIn_keeps (State.bump_keeps h1 rfl) rfl (@fun t103 h104 => State.irq_keeps (State.wr_keeps h104 (legal.reg rfl)))
  clear_value x102
  exact State.forEach_keeps h102 (@fun t105 t106 h107 => State.wr_keeps h107 (legal.reg rfl))

theorem State.alarm_keeps {a s : State} {cls : Nat} {cause : Nat} {level : Nat} {addr : Nat} {keys : List Nat} (h1 : Keeps a s) : Keeps a (State.alarm s cls cause level addr keys) := by
  unfold State.alarm
  extract_lets +onlyGivenNames x100
  have h100 : Keeps a x100 := by
    unfold x100
    exact State.alarmLog_keeps h1
  clear_value x100
  exact State.loadKeyEvent_keeps (State.forEach_keeps h100 (@fun t101 t102 h103 => State.haltCond_keeps h103))

theorem State.newDamage_keeps {a s : State} {n : Node} (h1 : Keeps a s) : Keeps a (State.newDamage s n) := by
  unfold State.newDamage
  exact Keeps.frame (s := s) h1 rfl rfl rfl rfl (Nat.le_refl _) (Nat.le_refl _) rfl rfl rfl

theorem State.freezeNode_keeps {a s : State} {n : Node} (h1 : Keeps a s) : Keeps a (State.freezeNode s n) := by
  unfold State.freezeNode
  refine Keeps.ite (fun _ => h1) (fun _ => ?_)
  refine State.alarm_keeps ?_
  refine State.newDamage_keeps ?_
  exact Keeps.frame (s := s) h1 rfl rfl rfl rfl (Nat.le_refl _) (Nat.le_refl _) rfl rfl rfl

theorem State.poisonNode_keeps {a s : State} {n : Node} {cause : Nat} (h1 : Keeps a s) : Keeps a (State.poisonNode s n cause) := by
  unfold State.poisonNode
  extract_lets +onlyGivenNames x100
  extract_lets +onlyGivenNames x101
  have h101 : Keeps a x101 := by
    unfold x101
    refine Keeps.ite (fun _ => h1) (fun _ => ?_)
    refine Keeps.ite (fun _ => ?_) (fun _ => ?_)
    · refine State.wr_keeps ?_ (legal.reg rfl)
      refine State.newDamage_keeps ?_
      exact Keeps.frame (s := s) h1 rfl rfl rfl rfl (Nat.le_refl _) (Nat.le_refl _) rfl rfl rfl
    · refine State.wr_keeps ?_ (legal.reg rfl)
      refine State.newDamage_keeps ?_
      exact Keeps.frame (s := s) h1 rfl rfl rfl rfl (Nat.le_refl _) (Nat.le_refl _) rfl rfl rfl
  clear_value x101
  exact State.alarm_keeps h101

theorem State.backNode_keeps {a s : State} {n : Node} (h1 : Keeps a s) : Keeps a (State.backNode s n) := by
  unfold State.backNode
  extract_lets +onlyGivenNames x100
  refine Keeps.ite (fun _ => h1) (fun _ => ?_)
  refine Keeps.ite (fun _ => State.freezeNode_keeps h1) (fun _ => ?_)
  exact Keeps.frame (s := s) h1 rfl rfl rfl rfl (Nat.le_refl _) (Nat.le_refl _) rfl rfl rfl

theorem State.raiseReenc_keeps {a s : State} {p : Nat} (h1 : Keeps a s) : Keeps a (State.raiseReenc s p) := by
  unfold State.raiseReenc
  refine State.forEach_keeps h1 ?_
  intro t100 t101 h102
  extract_lets +onlyGivenNames x103
  extract_lets +onlyGivenNames x104
  extract_lets +onlyGivenNames x105
  have h105 : Keeps a x105 := by
    unfold x105
    exact State.raiseStall_keeps h102
  clear_value x105
  exact Keeps.frame (s := x105) h105 rfl rfl rfl rfl (Nat.le_refl _) (Nat.le_refl _) rfl rfl rfl

theorem State.endReenc_keeps {a s : State} {p : Nat} {frozen : Nat} (h1 : Keeps a s) : Keeps a (State.endReenc s p frozen) := by
  unfold State.endReenc
  extract_lets +onlyGivenNames x100
  have h100 : Keeps a x100 := by
    unfold x100
    exact State.forEach_keeps h1 (@fun t101 t102 h103 => State.releaseStall_keeps h103)
  clear_value x100
  exact Keeps.frame (s := x100) h100 rfl rfl rfl rfl (Nat.le_refl _) (Nat.le_refl _) rfl rfl rfl

theorem State.startReenc_keeps {a s : State} {p : Nat} {l : Nat} (h1 : Keeps a s) : Keeps a (State.startReenc s p l) := by
  unfold State.startReenc
  extract_lets +onlyGivenNames x100
  extract_lets +onlyGivenNames x101
  have h101 : Keeps a x101 := by
    unfold x101
    exact Keeps.frame (s := s) h1 rfl rfl rfl rfl (Nat.le_refl _) (Nat.le_refl _) rfl rfl rfl
  clear_value x101
  extract_lets +onlyGivenNames x102
  have h102 : Keeps a x102 := by
    unfold x102
    exact State.raiseReenc_keeps (State.bump_keeps h101 rfl)
  clear_value x102
  exact State.forEach_keeps h102 (@fun t103 t104 h105 => State.alarm_keeps h105)

theorem State.putLine_keeps {a s : State} (h : Keeps a s) {l : Nat} {bs : List Byte} : Keeps2 a (s.putLine l bs) := by
  unfold State.putLine
  extract_lets p q put
  have hp : ∀ {t}, Keeps a t → Keeps a (put t) := fun ht =>
    Keeps.deepBytes ht rfl rfl rfl rfl (Nat.le_refl _) (Nat.le_refl _) rfl (fun w => Deep.putBytes_wf w) rfl
  refine Keeps2.ite (fun _ => Keeps2.mk (hp h)) fun _ => Keeps2.ite (fun _ => Keeps2.mk h) fun _ => ?_
  extract_lets _
  refine Keeps2.ite (fun _ => Keeps2.ite (fun _ => Keeps2.mk (State.endReenc_keeps (State.freezeNode_keeps (State.raiseReenc_keeps h)))) fun _ => Keeps2.mk (hp (State.startReenc_keeps h))) fun _ => ?_
  exact Keeps2.mk (hp (Keeps.frame (s := s) h rfl rfl rfl rfl (Nat.le_refl _) (Nat.le_refl _) rfl rfl rfl))

theorem State.faultAlarm_keeps {a s : State} {cause : Nat} {addr : Nat} (h1 : Keeps a s) : Keeps a (State.faultAlarm s cause addr) := by
  unfold State.faultAlarm
  exact Keeps.ite (fun _ => State.alarm_keeps h1) (fun _ => h1)

theorem State.activateRow_keeps {a s : State} {b : BankId} {row : Nat} {src : Nat} (h1 : Keeps a s) : Keeps a (State.activateRow s b row src) := by
  unfold State.activateRow
  extract_lets +onlyGivenNames x100
  extract_lets +onlyGivenNames x101
  extract_lets +onlyGivenNames x102
  extract_lets +onlyGivenNames x103
  have h103 : Keeps a x103 := by
    unfold x103
    exact Keeps.frame (s := s) h1 rfl rfl rfl rfl (Nat.le_refl _) (Nat.le_refl _) rfl rfl rfl
  clear_value x103
  split
  · exact h103
  · refine Keeps.ite (fun _ => ?_) (fun _ => h103)
    extract_lets +onlyGivenNames x104
    have h104 : Keeps a x104 := by
      unfold x104
      refine State.logIn_keeps (State.bump_keeps h103 rfl) rfl ?_
      intro t105 h106
      unfold id
      exact h106
    clear_value x104
    extract_lets +onlyGivenNames x107
    exact Keeps.frame (s := x104) h104 rfl rfl rfl rfl (Nat.le_refl _) (Nat.le_refl _) rfl rfl rfl

theorem State.dropPosted_keeps {a s : State} {r : DeepReq} {cause : Nat} (h1 : Keeps a s) : Keeps a (State.dropPosted s r cause) := by
  unfold State.dropPosted
  exact Keeps.ite (fun _ => Keeps.ite (fun _ => State.bump_keeps h1 rfl) (fun _ => Keeps.ite (fun _ => State.bump_keeps h1 rfl) (fun _ => h1))) (fun _ => h1)

theorem State.checkNodes_keeps {a s : State} {p : Nat} {o : DeepObs} (h1 : Keeps a s) : Keeps2 a (State.checkNodes s p o) := by
  unfold State.checkNodes
  extract_lets +onlyGivenNames x100
  have h100 : Keeps a x100 := by
    unfold x100
    exact State.bump_keeps h1 rfl
  clear_value x100
  extract_lets +onlyGivenNames x101
  split
  · exact Keeps2.mk (State.poisonNode_keeps (Keeps.ite (fun _ => State.bump_keeps h100 rfl) (fun _ => h100)))
  · extract_lets +onlyGivenNames x102
    extract_lets +onlyGivenNames x103
    have h103 : Keeps a x103 := by
      unfold x103
      exact Keeps.frame (s := x100) h100 rfl rfl rfl rfl (Nat.le_refl _) (Nat.le_refl _) rfl rfl rfl
    clear_value x103
    extract_lets +onlyGivenNames x104
    have h104 : Keeps a x104 := by
      unfold x104
      exact State.forEach_keeps h103 (@fun t105 t106 h107 => State.backNode_keeps h107)
    clear_value x104
    refine Keeps2.mk ?_
    refine State.forEach_keeps h104 ?_
    intro t108 t109 h110
    exact Keeps.frame (s := t108) h110 rfl rfl rfl rfl (Nat.le_refl _) (Nat.le_refl _) rfl rfl rfl

theorem State.checkLine_keeps {a s : State} {z1 : Nat} {owner : Nat} {o : DeepObs} (h1 : Keeps a s) : Keeps2 a (State.checkLine s z1 owner o) := by
  unfold State.checkLine
  extract_lets +onlyGivenNames x100
  extract_lets +onlyGivenNames x101
  split
  · exact Keeps2.mk (State.alarm_keeps (Keeps.ite (fun _ => State.bump_keeps h1 rfl) (fun _ => h1)))
  · extract_lets +onlyGivenNames x102
    have h102 : ∀ { v0 v1}, Keeps a v0 → Keeps a (x102 v0 v1) := by
      intro t103 t104 h105
      unfold x102
      refine State.alarm_keeps ?_
      exact Keeps.frame (s := t103) h105 rfl rfl rfl rfl (Nat.le_refl _) (Nat.le_refl _) rfl rfl rfl
    clear_value x102
    exact Keeps2.ite (fun _ => Keeps2.mk (State.bump_keeps h1 rfl)) (fun _ => Keeps2.ite (fun _ => Keeps2.mk (h102 (State.bump_keeps h1 rfl))) (fun _ => Keeps2.ite (fun _ => Keeps2.mk (h102 h1)) (fun _ => Keeps2.mk h1)))

theorem State.serveLine_keeps {a s : State} {r : DeepReq} {o : DeepObs} {z3 : Nat} {n : Nat} {bs : Option (List Byte)} (h1 : Keeps a s) : Keeps2 a (State.serveLine s r o z3 n bs) := by
  unfold State.serveLine
  split
  · exact Keeps2.mk (State.faultAlarm_keeps h1)
  · split
    · exact Keeps2.mk (State.dropPosted_keeps h1)
    · extract_lets +onlyGivenNames x100
      have h100 : Keeps a x100 := by
        unfold x100
        exact Keeps.ite (fun _ => State.activateRow_keeps h1) (fun _ => h1)
      clear_value x100
      extract_lets +onlyGivenNames x101
      have h101 : Keeps2 a x101 := by
        unfold x101
        exact Keeps2.ite (fun _ => Keeps2.mk h100) (fun _ => State.checkNodes_keeps h100)
      clear_value x101
      split
      · exact Keeps2.mk (Keeps2.snd h101)
      · extract_lets +onlyGivenNames x102
        extract_lets +onlyGivenNames x103
        have h103 : Keeps2 a x103 := by
          unfold x103
          exact Keeps2.ite (fun _ => Keeps2.mk (Keeps2.snd h101)) (fun _ => State.checkLine_keeps (Keeps2.snd h101))
        clear_value x103
        split
        · exact Keeps2.mk (Keeps2.snd h103)
        · split
          · exact Keeps2.mk (Keeps2.snd h103)
          · extract_lets +onlyGivenNames x104
            have h104 : Keeps2 a x104 := by
              unfold x104
              exact State.putLine_keeps (Keeps2.snd h103)
            clear_value x104
            exact Keeps2.mk (Keeps2.snd h104)

theorem State.serveWith_keeps {a s : State} {r : DeepReq} {obs : State → Nat → DeepObs} (h1 : Keeps a s) : Keeps2 a (State.serveWith s r obs) := by
  unfold State.serveWith
  extract_lets +onlyGivenNames x100
  refine foldl_keeps2 ?_ (Keeps2.mk h1)
  intro t101 t102 h103
  split
  · exact h103
  · extract_lets +onlyGivenNames x104
    have h104 : Keeps2 a x104 := by
      unfold x104
      exact State.serveLine_keeps (Keeps2.snd h103)
    clear_value x104
    exact Keeps2.mk (Keeps2.snd h104)

theorem State.serve_keeps {a s : State} {r : DeepReq} {o : DeepObs} (h1 : Keeps a s) : Keeps2 a (State.serve s r o) := by
  unfold State.serve
  exact State.serveWith_keeps h1

theorem State.engine_keeps {a s : State} {r : DeepReq} (h1 : Keeps a s) : Keeps2 a (State.engine s r) := by
  unfold State.engine
  exact State.serveWith_keeps h1

theorem State.submit_keeps {a s : State} {r : DeepReq} {o : DeepObs} (h1 : Keeps a s) : Keeps2 a (State.submit s r o) := by
  unfold State.submit
  refine Keeps2.ite (fun _ => Keeps2.mk (State.modDeep_keeps h1 (fun h => h))) (fun _ => ?_)
  extract_lets +onlyGivenNames x100
  have h100 : Keeps2 a x100 := by
    unfold x100
    exact State.serve_keeps h1
  clear_value x100
  exact Keeps2.mk (Keeps2.snd h100)

theorem State.deepWrite_keeps {a s : State} {src : Nat} {key : Nat} {z3 : Nat} {bs : List Byte} (h1 : Keeps a s) : Keeps2 a (State.deepWrite s src key z3 bs) := by
  unfold State.deepWrite
  extract_lets +onlyGivenNames x100
  have h100 : Keeps2 a x100 := by
    unfold x100
    exact State.engine_keeps h1
  clear_value x100
  exact Keeps2.mk (Keeps2.snd h100)

theorem State.deepFetch_keeps {a s : State} {src : Nat} {key : Nat} {z3 : Nat} {n : Nat} (h1 : Keeps a s) : Keeps2 a (State.deepFetch s src key z3 n) := by
  unfold State.deepFetch
  extract_lets +onlyGivenNames x100
  have h100 : Keeps2 a x100 := by
    unfold x100
    exact State.engine_keeps h1
  clear_value x100
  exact Keeps2.mk (Keeps2.snd h100)

theorem State.wearPut_keeps {a s : State} {e : WearEntry} (h1 : Keeps a s) : Keeps a (State.wearPut s e) := by
  unfold State.wearPut
  refine Keeps.ite (fun _ => ?_) (fun _ => ?_)
  · exact Keeps.frame (s := s) h1 rfl rfl rfl rfl (Nat.le_refl _) (Nat.le_refl _) rfl rfl rfl
  · extract_lets +onlyGivenNames x100
    extract_lets +onlyGivenNames x101
    have h101 : Keeps a x101 := by
      unfold x101
      exact Keeps.frame (s := s) h1 rfl rfl rfl rfl (Nat.le_refl _) (Nat.le_refl _) rfl rfl rfl
    clear_value x101
    extract_lets +onlyGivenNames x102
    extract_lets +onlyGivenNames x103
    have h103 : Keeps a x103 := by
      unfold x103
      exact State.wr_keeps h101 (legal.reg rfl)
    clear_value x103
    exact Keeps.ite (fun _ => State.wr_keeps h103 (legal.reg rfl)) (fun _ => h103)

theorem State.wearAdd_keeps {a s : State} {kind : Nat} {u : UnitId} {count : Nat} (h1 : Keeps a s) : Keeps a (State.wearAdd s kind u count) := by
  unfold State.wearAdd
  exact State.wearPut_keeps h1

theorem State.refreshPitch_keeps {a s : State} {p : Nat} (h1 : Keeps a s) : Keeps a (State.refreshPitch s p) := by
  unfold State.refreshPitch
  exact State.wr_keeps h1 (legal.reg rfl)

theorem State.pendMap_keeps {a s : State} {r : RegName} {i : Nat} (h1 : Keeps a s) : Keeps a (State.pendMap s r i) := by
  unfold State.pendMap
  extract_lets +onlyGivenNames x100
  extract_lets +onlyGivenNames x101
  have h101 : Keeps a x101 := by
    unfold x101
    exact State.wr_keeps h1 (legal.fld rfl)
  clear_value x101
  refine Keeps.ite (fun _ => ?_) (fun _ => h101)
  exact Keeps.frame (s := x101) h101 rfl rfl rfl rfl (Nat.le_refl _) (Nat.le_refl _) rfl rfl rfl

theorem State.selectColumn_keeps {a s : State} {u : UnitId} {k : Nat} (h1 : Keeps a s) : Keeps a (State.selectColumn s u k) := by
  unfold State.selectColumn
  extract_lets +onlyGivenNames x100
  extract_lets +onlyGivenNames x101
  extract_lets +onlyGivenNames x102
  exact Keeps.ite (fun _ => h1) (fun _ => State.wearAdd_keeps (State.pendMap_keeps (State.wr_keeps h1 (legal.reg rfl))))

theorem State.failSlot_keeps {a s : State} {u : UnitId} {k : Nat} (h1 : Keeps a s) : Keeps a (State.failSlot s u k) := by
  unfold State.failSlot
  exact State.selectColumn_keeps (Keeps.ite (fun _ => h1) (fun _ => State.wearAdd_keeps (State.wr_keeps h1 (legal.reg rfl))))

theorem State.selectSpare_keeps {a s : State} {u : UnitId} (h1 : Keeps a s) : Keeps a (State.selectSpare s u) := by
  unfold State.selectSpare
  extract_lets +onlyGivenNames x100
  extract_lets +onlyGivenNames x101
  extract_lets +onlyGivenNames x102
  extract_lets +onlyGivenNames x103
  extract_lets +onlyGivenNames x104
  extract_lets +onlyGivenNames x105
  extract_lets +onlyGivenNames x106
  extract_lets +onlyGivenNames x107
  have h107 : Keeps a x107 := by
    unfold x107
    exact Keeps.ite (fun _ => h1) (fun _ => Keeps.ite (fun _ => Keeps.ite (fun _ => h1) (fun _ => Keeps.ite (fun _ => State.wearAdd_keeps (State.wr_keeps h1 (legal.reg rfl))) (fun _ => Keeps.ite (fun _ => State.wearAdd_keeps (State.wr_keeps h1 (legal.reg rfl))) (fun _ => State.failSlot_keeps h1)))) (fun _ => Keeps.ite (fun _ => Keeps.ite (fun _ => h1) (fun _ => Keeps.ite (fun _ => State.wearAdd_keeps (State.pendMap_keeps (State.wr_keeps h1 (legal.reg rfl)))) (fun _ => Keeps.ite (fun _ => State.wearAdd_keeps (State.pendMap_keeps (State.wr_keeps h1 (legal.reg rfl)))) (fun _ => State.failSlot_keeps h1)))) (fun _ => State.failSlot_keeps h1)))
  clear_value x107
  exact Keeps.ite (fun _ => State.refreshPitch_keeps h107) (fun _ => h107)

theorem State.markFailed_keeps {a s : State} {u : UnitId} (h1 : Keeps a s) : Keeps a (State.markFailed s u) := by
  unfold State.markFailed
  refine Keeps.ite (fun _ => h1) (fun _ => ?_)
  extract_lets +onlyGivenNames x100
  extract_lets +onlyGivenNames x101
  have h101 : Keeps a x101 := by
    unfold x101
    exact Keeps.frame (s := s) h1 rfl rfl rfl rfl (Nat.le_refl _) (Nat.le_refl _) rfl rfl rfl
  clear_value x101
  extract_lets +onlyGivenNames x102
  have h102 : Keeps a x102 := by
    unfold x102
    exact State.irq_keeps (State.wearAdd_keeps h101)
  clear_value x102
  exact Keeps.ite (fun _ => State.selectSpare_keeps h102) (fun _ => Keeps.ite (fun _ => State.refreshPitch_keeps h102) (fun _ => h102))

theorem State.countUnit_keeps {a s : State} {u : UnitId} {ue : Bool} (h1 : Keeps a s) : Keeps a (State.countUnit s u ue) := by
  unfold State.countUnit
  extract_lets +onlyGivenNames x100
  extract_lets +onlyGivenNames x101
  have h101 : Keeps a x101 := by
    unfold x101
    exact Keeps.frame (s := s) h1 rfl rfl rfl rfl (Nat.le_refl _) (Nat.le_refl _) rfl rfl rfl
  exact Keeps.ite (fun _ => State.markFailed_keeps h101) (fun _ => h101)

theorem State.scError_keeps {a s : State} {k : Nat} {kind : Nat} {unit : Nat} {addr : Nat} {src : Nat} {ue : Bool} (h1 : Keeps a s) : Keeps a (State.scError s k kind unit addr src ue) := by
  unfold State.scError
  extract_lets +onlyGivenNames x100
  refine Keeps.ite (fun _ => ?_) (fun _ => State.bump_keeps h1 rfl)
  extract_lets +onlyGivenNames x101
  have h101 : Keeps a x101 := by
    unfold x101
    exact State.bump_keeps h1 rfl
  clear_value x101
  extract_lets +onlyGivenNames x102
  extract_lets +onlyGivenNames x103
  refine Keeps.ite (fun _ => Keeps.ite (fun _ => State.wr_keeps h101 (legal.reg rfl)) (fun _ => h101)) (fun _ => ?_)
  refine State.logIn_keeps h101 rfl ?_
  intro t104 h105
  unfold id
  exact h105

theorem State.fetchUpset_keeps {a s : State} {c : Nat} {u : Upset} (h1 : Keeps a s) : Keeps a (State.fetchUpset s c u) := by
  unfold State.fetchUpset
  extract_lets +onlyGivenNames x100
  have h100 : Keeps a x100 := by
    unfold x100
    exact State.countUnit_keeps (State.scError_keeps h1)
  clear_value x100
  exact Keeps.ite (fun _ => State.campFault_keeps h100) (fun _ => h100)

theorem State.voteEvent_keeps {a s : State} {c : Nat} {v : VoteEvent} (h1 : Keeps a s) : Keeps a (State.voteEvent s c v) := by
  unfold State.voteEvent
  exact Keeps.ite (fun _ => State.campFault_keeps (State.scError_keeps h1)) (fun _ => State.bump_keeps h1 rfl)

theorem State.logEccAt_keeps {a s : State} {k : Nat} {src : Nat} {z3 : Nat} {ue : Nat} (h1 : Keeps a s) : Keeps a (State.logEccAt s k src z3 ue) := by
  unfold State.logEccAt
  refine State.logIn_keeps h1 rfl ?_
  intro t100 h101
  unfold id
  exact h101

theorem State.logEcc_keeps {a s : State} {k : Nat} {src : Nat} {z3 : Nat} {e : Ecc} (h1 : Keeps a s) : Keeps a (State.logEcc s k src z3 e) := by
  unfold State.logEcc
  extract_lets +onlyGivenNames x100
  split
  · exact h1
  · exact State.countUnit_keeps (State.logEccAt_keeps (State.bump_keeps h1 rfl))
  · extract_lets +onlyGivenNames x101
    have h101 : Keeps a x101 := by
      unfold x101
      exact State.countUnit_keeps (State.logEccAt_keeps (State.bump_keeps h1 rfl))
    clear_value x101
    refine Keeps.ite (fun _ => ?_) (fun _ => h101)
    split
    · exact State.campFault_keeps h101
    · exact h101

theorem State.abandonSnap_keeps {a s : State} {c : Nat} {err : Nat} (h1 : Keeps a s) : Keeps a (State.abandonSnap s c err) := by
  unfold State.abandonSnap
  extract_lets +onlyGivenNames x100
  have h100 : Keeps a x100 := by
    unfold x100
    exact State.wrs_keeps h1 (fun _ _ => legal.reg rfl)
  clear_value x100
  extract_lets +onlyGivenNames x101
  have h101 : Keeps a x101 := by
    unfold x101
    exact State.forEach_keeps h100 (@fun t102 t103 h104 => State.modCluster_keeps h104)
  clear_value x101
  exact State.campIrq_keeps (State.modCamp_keeps h101)

theorem State.abandon_keeps {a s : State} {c : Nat} {err : Nat} (h1 : Keeps a s) : Keeps a (State.abandon s c err) := by
  unfold State.abandon
  extract_lets +onlyGivenNames x100
  have h100 : Keeps a x100 := by
    unfold x100
    exact State.abandonSnap_keeps h1
  clear_value x100
  exact Keeps.ite (fun _ => State.originate_keeps h100) (fun _ => h100)

theorem State.abandonErr_keeps {a s : State} {c : Nat} {err : Nat} (h1 : Keeps a s) : Keeps a (State.abandonErr s c err) := by
  unfold State.abandonErr
  extract_lets +onlyGivenNames x100
  exact Keeps.ite (fun _ => State.modLogAt_keeps (State.abandon_keeps h1)) (fun _ => Keeps.ite (fun _ => State.wr_keeps h1 (legal.reg rfl)) (fun _ => h1))

theorem State.saveWord_keeps {a s : State} {k : Nat} {z2 : Nat} (h1 : Keeps a s) : Keeps a (State.saveWord s k z2) := by
  unfold State.saveWord
  extract_lets +onlyGivenNames x100
  refine Keeps.ite (fun _ => ?_) (fun _ => h1)
  split
  · exact h1
  · refine Keeps.ite (fun _ => State.abandonErr_keeps h1) (fun _ => ?_)
    extract_lets +onlyGivenNames x101
    have h101 : Keeps a x101 := by
      unfold x101
      exact State.modCluster_keeps h1
    clear_value x101
    exact State.wr_keeps h101 (legal.reg rfl)

theorem State.wuRead_keeps {a s : State} {k : Nat} {z2 : Nat} (h1 : Keeps a s) : Keeps2 a (State.wuRead s k z2) := by
  unfold State.wuRead
  extract_lets +onlyGivenNames x100
  exact Keeps2.mk (State.logEcc_keeps h1)

theorem State.wuWrite_keeps {a s : State} {k : Nat} {z2 : Nat} {x : Word} (h1 : Keeps a s) : Keeps a (State.wuWrite s k z2 x) := by
  unfold State.wuWrite
  exact State.modCluster_keeps (State.saveWord_keeps h1)

theorem State.wuAlias_keeps {a s : State} {k : Nat} {z2 : Nat} {set : Bool} {x : Word} (h1 : Keeps a s) : Keeps a (State.wuAlias s k z2 set x) := by
  unfold State.wuAlias
  extract_lets +onlyGivenNames x100
  extract_lets +onlyGivenNames x101
  have h101 : Keeps a x101 := by
    unfold x101
    exact State.logEcc_keeps h1
  clear_value x101
  exact Keeps.ite (fun _ => h101) (fun _ => State.modCluster_keeps (State.saveWord_keeps h101))

theorem State.snapRead_keeps {a s : State} {k : Nat} {bank : Nat} (h1 : Keeps a s) : Keeps a (State.snapRead s k bank) := by
  unfold State.snapRead
  extract_lets +onlyGivenNames x100
  extract_lets +onlyGivenNames x101
  exact Keeps.ite (fun _ => h1) (fun _ => State.logEcc_keeps h1)

theorem State.bankAccess_keeps {a s : State} {k : Nat} {r : BankReq} (h1 : Keeps a s) : Keeps a (State.bankAccess s k r) := by
  unfold State.bankAccess
  extract_lets +onlyGivenNames x100
  extract_lets +onlyGivenNames x101
  split
  · exact State.logEcc_keeps h1
  · exact h1
  · exact State.modCluster_keeps h1
  · exact State.modCluster_keeps h1
  · extract_lets +onlyGivenNames x102
    have h102 : Keeps a x102 := by
      unfold x102
      exact State.logEcc_keeps h1
    clear_value x102
    split
    · exact h102
    · exact State.scError_keeps (State.modCluster_keeps h102)
    · exact State.scError_keeps h102
  · extract_lets +onlyGivenNames x103
    have h103 : Keeps a x103 := by
      unfold x103
      exact State.logEcc_keeps h1
    clear_value x103
    exact Keeps.ite (fun _ => h103) (fun _ => State.modCluster_keeps h103)
  · extract_lets +onlyGivenNames x104
    have h104 : Keeps a x104 := by
      unfold x104
      exact State.logEcc_keeps h1
    clear_value x104
    exact Keeps.ite (fun _ => h104) (fun _ => State.modCluster_keeps h104)

theorem State.mgmtFinish_keeps {a s : State} {k : Nat} {r : BankReq} (h1 : Keeps a s) : Keeps a (State.mgmtFinish s k r) := by
  unfold State.mgmtFinish
  extract_lets +onlyGivenNames x100
  extract_lets +onlyGivenNames x101
  extract_lets +onlyGivenNames x102
  extract_lets +onlyGivenNames x103
  extract_lets +onlyGivenNames x104
  split
  · exact State.wr_keeps (State.wr_keeps (State.wr_keeps h1 (legal.reg rfl)) (legal.reg rfl)) (legal.reg rfl)
  · exact State.wr_keeps h1 (legal.reg rfl)
  · exact State.wr_keeps h1 (legal.reg rfl)
  · exact State.wr_keeps h1 (legal.reg rfl)

theorem State.grantBank_keeps {a s : State} {k : Nat} {bank : Nat} (h1 : Keeps a s) : Keeps a (State.grantBank s k bank) := by
  unfold State.grantBank
  extract_lets +onlyGivenNames x100
  extract_lets +onlyGivenNames x101
  clear_value x101
  split
  · exact h1
  · extract_lets +onlyGivenNames x102
    have h102 : Keeps a x102 := by
      unfold x102
      exact State.modCluster_keeps h1
    clear_value x102
    refine Keeps.ite (fun _ => State.modCluster_keeps (State.snapRead_keeps h102)) (fun _ => ?_)
    split
    · exact h102
    · extract_lets +onlyGivenNames x103
      have h103 : Keeps a x103 := by
        unfold x103
        exact Keeps.ite (fun _ => State.mgmtFinish_keeps h102) (fun _ => h102)
      clear_value x103
      extract_lets +onlyGivenNames x104
      have h104 : Keeps a x104 := by
        unfold x104
        exact State.bankAccess_keeps h103
      clear_value x104
      exact State.modCluster_keeps h104

theorem execBankGrant_keeps {a : State} {loc : ClusterSite} {bank : Nat} {s : State} (h3 : Keeps a s) : KeepsO a (execBankGrant loc bank s) := by
  unfold execBankGrant
  extract_lets +onlyGivenNames x100
  exact KeepsO.ite (fun _ => KeepsO.next (State.grantBank_keeps h3)) (fun _ => KeepsO.next h3)

theorem State.serveReq_keeps {a s : State} (h : Keeps a s) {k : Nat} {r : BankReq} {n : Nat} : Keeps a (s.serveReq k r n) := by
  induction n generalizing s with
  | zero => exact h
  | succ n ih => exact Keeps.ite (fun _ => ih (State.grantBank_keeps h)) fun _ => h

theorem State.loadWord_keeps {a s : State} {k : Nat} {z2 : Nat} {x : Word} (h1 : Keeps a s) : Keeps a (State.loadWord s k z2 x) := by
  unfold State.loadWord
  extract_lets +onlyGivenNames x100
  extract_lets +onlyGivenNames x101
  have h101 : Keeps a x101 := by
    unfold x101
    exact State.modCluster_keeps h1
  clear_value x101
  exact State.serveReq_keeps h101

theorem execMgmtAccessGo_keeps {a : State} {die : Nat} {s : State} (h2 : Keeps a s) : KeepsO a (execMgmtAccessGo die s) := by
  unfold execMgmtAccessGo
  refine State.asWrite_keeps h2 ?_
  intro t100 h101
  refine KeepsO.ite (fun _ => KeepsO.next h101) (fun _ => ?_)
  refine KeepsO.ite (fun _ => KeepsO.next (State.wr_keeps h101 (legal.reg rfl))) (fun _ => ?_)
  extract_lets +onlyGivenNames x102
  extract_lets +onlyGivenNames x103
  exact KeepsO.next (State.modCluster_keeps (State.wr_keeps h101 (legal.reg rfl)))

theorem execMgmtAccessDone_keeps {a : State} {die : Nat} {s : State} (h2 : Keeps a s) : KeepsO a (execMgmtAccessDone die s) := by
  unfold execMgmtAccessDone
  exact KeepsO.ite (fun _ => KeepsO.next h2) (fun _ => KeepsO.next (State.wr_keeps h2 (legal.reg rfl)))

end Sys2Proof.Machine
end

