-- ==== Sys2Proof/Laws/KeepsAcq.lean ====
section
/-! SUPPORT. Every operation and command of acquisition, the random generator, trace and the step schedule's islands passes `Keeps` on. -/

namespace Sys2Proof.Machine

set_option Elab.async false

theorem State.draw_keeps {a s : State} (h1 : Keeps a s) : Keeps a (State.draw s) := by
  unfold State.draw
  exact Keeps.frame (s := s) h1 rfl rfl rfl rfl (Nat.le_refl _) (Nat.le_add_right _ _) rfl rfl rfl

theorem State.modAcq_keeps {a s : State} {f : Acq → Acq} (h1 : Keeps a s) : Keeps a (State.modAcq s f) := by
  unfold State.modAcq
  exact Keeps.frame (s := s) h1 rfl rfl rfl rfl (Nat.le_refl _) (Nat.le_refl _) rfl rfl rfl

theorem State.modUnit_keeps {a s : State} {u : Nat} {f : AcqUnit → AcqUnit} (h1 : Keeps a s) : Keeps a (State.modUnit s u f) := by
  unfold State.modUnit
  exact State.modAcq_keeps h1

theorem State.cmpHits_keeps {a s : State} {c : Nat} (h1 : Keeps a s) : Keeps2 a (State.cmpHits s c) := by
  unfold State.cmpHits
  extract_lets +onlyGivenNames x100
  extract_lets +onlyGivenNames x101
  exact Keeps2.mk (State.modAcq_keeps h1)

theorem State.runDec_keeps {a s : State} {c : Nat} {j : Nat} (h1 : Keeps a s) : Keeps2 a (State.runDec s c j) := by
  unfold State.runDec
  extract_lets +onlyGivenNames x100
  extract_lets +onlyGivenNames x101
  have h101 : Keeps a x101 := by
    unfold x101
    exact State.modAcq_keeps h1
  clear_value x101
  split
  · exact Keeps2.mk h101
  · exact Keeps2.mk (State.wr_keeps h101 (legal.reg rfl))

theorem State.decHits_keeps {a s : State} {c : Nat} (h1 : Keeps a s) : Keeps2 a (State.decHits s c) := by
  unfold State.decHits
  refine foldl_keeps2 ?_ (Keeps2.mk h1)
  intro t100 t101 h102
  extract_lets +onlyGivenNames x103
  have h103 : Keeps2 a x103 := by
    unfold x103
    exact State.runDec_keeps (Keeps2.snd h102)
  clear_value x103
  exact Keeps2.mk (Keeps2.snd h103)

theorem State.enterSeq_keeps {a s : State} {u : Nat} {st : Nat} (h1 : Keeps a s) : Keeps a (State.enterSeq s u st) := by
  unfold State.enterSeq
  exact State.wr_keeps (State.forEach_keeps h1 (@fun t100 t101 h102 => State.wr_keeps h102 (legal.reg rfl))) (legal.reg rfl)

theorem State.seqStep_keeps {a s : State} {u : Nat} {m : Nat} (h1 : Keeps a s) : Keeps2 a (State.seqStep s u m) := by
  unfold State.seqStep
  split
  · exact Keeps2.mk h1
  · extract_lets +onlyGivenNames x100
    extract_lets +onlyGivenNames x101
    exact Keeps2.ite (fun _ => Keeps2.mk (State.enterSeq_keeps h1)) (fun _ => Keeps2.mk (State.wr_keeps h1 (legal.reg rfl)))

theorem State.writeRec_keeps {a s : State} {u : Nat} {r : AcqRec} (h1 : Keeps a s) : Keeps2 a (State.writeRec s u r) := by
  unfold State.writeRec
  exact State.deepWrite_keeps h1

theorem State.flushRecs_keeps {a s : State} {u : Nat} (h1 : Keeps a s) : Keeps2 a (State.flushRecs s u) := by
  unfold State.flushRecs
  extract_lets +onlyGivenNames x100
  have h100 : Keeps2 a x100 := by
    unfold x100
    refine foldl_keeps2 ?_ (Keeps2.mk h1)
    intro t101 t102 h103
    refine Keeps2.ite (fun _ => h103) (fun _ => ?_)
    extract_lets +onlyGivenNames x104
    have h104 : Keeps2 a x104 := by
      unfold x104
      exact State.writeRec_keeps (Keeps2.snd h103)
    clear_value x104
    split
    · exact Keeps2.mk (Keeps2.snd h104)
    · exact Keeps2.mk (Keeps2.snd h104)
  clear_value x100
  exact Keeps2.mk (State.modUnit_keeps (Keeps2.snd h100))

theorem State.closeWith_keeps {a s : State} {u : Nat} {code : Nat} (h1 : Keeps a s) : Keeps2 a (State.closeWith s u code) := by
  unfold State.closeWith
  split
  · exact Keeps2.mk (State.modUnit_keeps h1)
  · refine Keeps2.ite (fun _ => Keeps2.mk (State.campIrq_keeps (State.modUnit_keeps h1))) (fun _ => ?_)
    extract_lets +onlyGivenNames x100
    have h100 : Keeps2 a x100 := by
      unfold x100
      exact State.flushRecs_keeps h1
    clear_value x100
    extract_lets +onlyGivenNames x101
    extract_lets +onlyGivenNames x102
    extract_lets +onlyGivenNames x103
    have h103 : Keeps2 a x103 := by
      unfold x103
      exact State.deepWrite_keeps (Keeps2.snd h100)
    clear_value x103
    extract_lets +onlyGivenNames x104
    have h104 : Keeps a x104 := by
      unfold x104
      exact Keeps.ite (fun _ => Keeps2.snd h103) (fun _ => Keeps2.snd (State.deepWrite_keeps (Keeps2.snd h103)))
    clear_value x104
    extract_lets +onlyGivenNames x105
    exact Keeps2.mk (State.campIrq_keeps (Keeps.ite (fun _ => State.wr_keeps h104 (legal.reg rfl)) (fun _ => h104)))

theorem State.closeBuf_keeps {a s : State} {u : Nat} {code : Nat} (h1 : Keeps a s) : Keeps a (State.closeBuf s u code) := by
  unfold State.closeBuf
  exact Keeps2.snd (State.closeWith_keeps h1)

theorem State.armUnit_keeps {a s : State} {u : Nat} {buf : Nat} (h1 : Keeps a s) : Keeps a (State.armUnit s u buf) := by
  unfold State.armUnit
  extract_lets +onlyGivenNames x100
  have h100 : Keeps a x100 := by
    unfold x100
    exact State.enterSeq_keeps (State.wrs_keeps (State.wr_keeps h1 (legal.reg rfl)) (fun _ _ => legal.reg rfl))
  clear_value x100
  exact State.modUnit_keeps h100

theorem State.afterClose_keeps {a s : State} {u : Nat} (h1 : Keeps a s) : Keeps a (State.afterClose s u) := by
  unfold State.afterClose
  extract_lets +onlyGivenNames x100
  exact Keeps.ite (fun _ => State.modUnit_keeps (State.wr_keeps h1 (legal.reg rfl))) (fun _ => State.wr_keeps h1 (legal.reg rfl))

theorem State.closeNext_keeps {a s : State} {u : Nat} {code : Nat} (h1 : Keeps a s) : Keeps a (State.closeNext s u code) := by
  unfold State.closeNext
  extract_lets +onlyGivenNames x100
  have h100 : Keeps2 a x100 := by
    unfold x100
    exact State.closeWith_keeps h1
  clear_value x100
  exact Keeps.ite (fun _ => State.wr_keeps (Keeps2.snd h100) (legal.reg rfl)) (fun _ => State.afterClose_keeps (Keeps2.snd h100))

theorem State.trigOutHigh_keeps {a s : State} {u : Nat} (h1 : Keeps a s) : Keeps a (State.trigOutHigh s u) := by
  unfold State.trigOutHigh
  exact Keeps.ite (fun _ => State.modAcq_keeps h1) (fun _ => h1)

theorem State.missTrigger_keeps {a s : State} {u : Nat} {cyc : Nat} (h1 : Keeps a s) : Keeps a (State.missTrigger s u cyc) := by
  unfold State.missTrigger
  extract_lets +onlyGivenNames x100
  have h100 : Keeps a x100 := by
    unfold x100
    exact State.bump_keeps h1 rfl
  clear_value x100
  refine Keeps.ite (fun _ => ?_) (fun _ => h100)
  refine State.logEvent_keeps h100 rfl ?_
  intro t101 h102
  unfold id
  exact h102

theorem State.showK_keeps {a s : State} {u : Nat} (h1 : Keeps a s) : Keeps a (State.showK s u) := by
  unfold State.showK
  exact State.wr_keeps h1 (legal.reg rfl)

theorem State.keepPre_keeps {a s : State} {u : Nat} (h1 : Keeps a s) : Keeps a (State.keepPre s u) := by
  unfold State.keepPre
  extract_lets +onlyGivenNames x100
  exact State.modUnit_keeps h1

theorem State.takeTrigger_keeps {a s : State} {u : Nat} {cyc : Nat} {m : Nat} (h1 : Keeps a s) : Keeps a (State.takeTrigger s u cyc m) := by
  unfold State.takeTrigger
  extract_lets +onlyGivenNames x100
  have h100 : Keeps a x100 := by
    unfold x100
    exact State.keepPre_keeps (State.wr_keeps (State.wr_keeps h1 (legal.reg rfl)) (legal.reg rfl))
  clear_value x100
  exact State.trigOutHigh_keeps (State.modUnit_keeps h100)

theorem State.storeAll_keeps {a s : State} {u : Nat} {c : Nat} {cyc : Nat} {trig : Option (Nat × Nat × Bool)} (h1 : Keeps a s) : Keeps a (State.storeAll s u c cyc trig) := by
  unfold State.storeAll
  extract_lets +onlyGivenNames x100
  extract_lets +onlyGivenNames x101
  extract_lets +onlyGivenNames x102
  extract_lets +onlyGivenNames x103
  extract_lets +onlyGivenNames x104
  extract_lets +onlyGivenNames x105
  extract_lets +onlyGivenNames x106
  extract_lets +onlyGivenNames x107
  extract_lets +onlyGivenNames x108
  exact State.showK_keeps (State.bump_keeps (State.modUnit_keeps h1) rfl)

theorem State.unitSample_keeps {a s : State} {u : Nat} {c : Nat} {cyc : Nat} {cmps : List Nat} {decs : List Nat} (h1 : Keeps a s) : Keeps a (State.unitSample s u c cyc cmps decs) := by
  unfold State.unitSample
  extract_lets +onlyGivenNames x100
  refine Keeps.ite (fun _ => ?_) (fun _ => h1)
  extract_lets +onlyGivenNames x101
  extract_lets +onlyGivenNames x102
  extract_lets +onlyGivenNames x103
  extract_lets +onlyGivenNames x104
  have h104 : Keeps a x104 := by
    unfold x104
    exact Keeps.ite (fun _ => h1) (fun _ => State.wr_keeps h1 (legal.reg rfl))
  clear_value x104
  extract_lets +onlyGivenNames x105
  have h105 : Keeps2 a x105 := by
    unfold x105
    exact State.seqStep_keeps h104
  clear_value x105
  extract_lets +onlyGivenNames x106
  have h106 : Keeps a x106 := by
    unfold x106
    exact State.modUnit_keeps (Keeps2.snd h105)
  clear_value x106
  extract_lets +onlyGivenNames x107
  refine Keeps.ite (fun _ => Keeps.ite (fun _ => State.missTrigger_keeps h106) (fun _ => h106)) (fun _ => ?_)
  refine Keeps.ite (fun _ => ?_) (fun _ => Keeps.ite (fun _ => State.storeAll_keeps h106) (fun _ => h106))
  extract_lets +onlyGivenNames x108
  have h108 : Keeps a x108 := by
    unfold x108
    exact State.storeAll_keeps (State.takeTrigger_keeps h106)
  clear_value x108
  exact State.wr_keeps h108 (legal.reg rfl)

theorem State.raiseReads_keeps {a s : State} {c : Nat} (h1 : Keeps a s) : Keeps a (State.raiseReads s c) := by
  unfold State.raiseReads
  refine State.forEach_keeps h1 ?_
  intro t100 t101 h102
  extract_lets +onlyGivenNames x103
  exact State.modCluster_keeps h102

theorem State.acqSample_keeps {a s : State} {c : Nat} (h1 : Keeps a s) : Keeps a (State.acqSample s c) := by
  unfold State.acqSample
  extract_lets +onlyGivenNames x100
  extract_lets +onlyGivenNames x101
  have h101 : Keeps2 a x101 := by
    unfold x101
    exact State.cmpHits_keeps h1
  clear_value x101
  extract_lets +onlyGivenNames x102
  have h102 : Keeps2 a x102 := by
    unfold x102
    exact State.decHits_keeps (Keeps2.snd h101)
  clear_value x102
  extract_lets +onlyGivenNames x103
  have h103 : Keeps a x103 := by
    unfold x103
    exact State.forEach_keeps (Keeps2.snd h102) (@fun t104 t105 h106 => State.unitSample_keeps h106)
  clear_value x103
  exact State.raiseReads_keeps h103

theorem State.acqStart_keeps {a s : State} {c : Nat} (h1 : Keeps a s) : Keeps a (State.acqStart s c) := by
  unfold State.acqStart
  exact State.modAcq_keeps h1

theorem State.latchEvent_keeps {a s : State} {e : AcqEvent} (h1 : Keeps a s) : Keeps a (State.latchEvent s e) := by
  unfold State.latchEvent
  exact State.forEach_keeps h1 (@fun t100 t101 h102 => State.modUnit_keeps h102)

theorem State.acqErr_keeps {a s : State} (h1 : Keeps a s) : Keeps a (State.acqErr s) := by
  unfold State.acqErr
  exact State.wr_keeps h1 (legal.reg rfl)

theorem State.acqCtrl_keeps {a s : State} {u : Nat} {f : AcqFields} (h1 : Keeps a s) : Keeps a (State.acqCtrl s u f) := by
  unfold State.acqCtrl
  extract_lets +onlyGivenNames x100
  exact Keeps.ite (fun _ => State.wrs_keeps h1 (fun _ _ => legal.reg rfl)) (fun _ => Keeps.ite (fun _ => h1) (fun _ => State.acqErr_keeps h1))

theorem execAcqArm_keeps {a : State} {unit : Nat} {f : AcqFields} {s : State} (h3 : Keeps a s) : KeepsO a (execAcqArm unit f s) := by
  unfold execAcqArm
  refine State.asWrite_keeps h3 ?_
  intro t100 h101
  extract_lets +onlyGivenNames x102
  have h102 : Keeps a x102 := by
    unfold x102
    exact State.acqCtrl_keeps h101
  clear_value x102
  exact KeepsO.ite (fun _ => KeepsO.next (State.armUnit_keeps h102)) (fun _ => KeepsO.next h102)

theorem State.stopUnit_keeps {a s : State} {u : Nat} {code : Nat} (h1 : Keeps a s) : Keeps a (State.stopUnit s u code) := by
  unfold State.stopUnit
  extract_lets +onlyGivenNames x100
  exact Keeps.ite (fun _ => State.wr_keeps (State.closeBuf_keeps h1) (legal.reg rfl)) (fun _ => Keeps.ite (fun _ => State.wr_keeps h1 (legal.reg rfl)) (fun _ => h1))

theorem execAcqStop_keeps {a : State} {unit : Nat} {f : AcqFields} {s : State} (h3 : Keeps a s) : KeepsO a (execAcqStop unit f s) := by
  unfold execAcqStop
  exact State.asWrite_keeps h3 (@fun t100 h101 => KeepsO.next (State.stopUnit_keeps (State.acqCtrl_keeps h101)))

theorem execAcqForce_keeps {a : State} {unit : Nat} {f : AcqFields} {s : State} (h3 : Keeps a s) : KeepsO a (execAcqForce unit f s) := by
  unfold execAcqForce
  exact State.asWrite_keeps h3 (@fun t100 h101 => KeepsO.next (State.modUnit_keeps (State.acqCtrl_keeps h101)))

theorem State.decCtrl_keeps {a s : State} {j : Nat} {format : Nat} {host : Bool} (h1 : Keeps a s) : Keeps a (State.decCtrl s j format host) := by
  unfold State.decCtrl
  extract_lets +onlyGivenNames x100
  exact Keeps.ite (fun _ => State.wrs_keeps h1 (fun _ _ => legal.reg rfl)) (fun _ => State.acqErr_keeps h1)

theorem execDecForce_keeps {a : State} {dec : Nat} {format : Nat} {host : Bool} {s : State} (h4 : Keeps a s) : KeepsO a (execDecForce dec format host s) := by
  unfold execDecForce
  refine State.asWrite_keeps h4 ?_
  intro t100 h101
  extract_lets +onlyGivenNames x102
  extract_lets +onlyGivenNames x103
  have h103 : Keeps a x103 := by
    unfold x103
    exact State.decCtrl_keeps h101
  clear_value x103
  exact KeepsO.ite (fun _ => KeepsO.next (Keeps.ite (fun _ => State.latchEvent_keeps h103) (fun _ => h103))) (fun _ => KeepsO.next h103)

theorem execPostCyclesEnd_keeps {a : State} {unit : Nat} {s : State} (h2 : Keeps a s) : KeepsO a (execPostCyclesEnd unit s) := by
  unfold execPostCyclesEnd
  extract_lets +onlyGivenNames x100
  exact KeepsO.ite (fun _ => KeepsO.next (State.closeNext_keeps h2)) (fun _ => KeepsO.next h2)

theorem execHoldoffEnd_keeps {a : State} {unit : Nat} {s : State} (h2 : Keeps a s) : KeepsO a (execHoldoffEnd unit s) := by
  unfold execHoldoffEnd
  refine KeepsO.ite (fun _ => ?_) (fun _ => KeepsO.next h2)
  extract_lets +onlyGivenNames x100
  exact KeepsO.next (State.armUnit_keeps h2)

theorem State.captureError_keeps {a s : State} {u : Nat} (h1 : Keeps a s) : Keeps a (State.captureError s u) := by
  unfold State.captureError
  extract_lets +onlyGivenNames x100
  have h100 : Keeps a x100 := by
    unfold x100
    exact State.wr_keeps h1 (legal.reg rfl)
  clear_value x100
  extract_lets +onlyGivenNames x101
  exact Keeps.ite (fun _ => State.wr_keeps (State.closeBuf_keeps (State.modUnit_keeps h100)) (legal.reg rfl)) (fun _ => State.wr_keeps h100 (legal.reg rfl))

theorem execCaptureWriteDone_keeps {a : State} {unit : Nat} {s : State} (h2 : Keeps a s) : KeepsO a (execCaptureWriteDone unit s) := by
  unfold execCaptureWriteDone
  split
  · exact KeepsO.next (Keeps.ite (fun _ => State.closeNext_keeps h2) (fun _ => h2))
  · extract_lets +onlyGivenNames x100
    have h100 : Keeps2 a x100 := by
      unfold x100
      exact State.writeRec_keeps h2
    clear_value x100
    split
    · exact KeepsO.next (State.captureError_keeps (Keeps2.snd h100))
    · extract_lets +onlyGivenNames x101
      extract_lets +onlyGivenNames x102
      extract_lets +onlyGivenNames x103
      extract_lets +onlyGivenNames x104
      have h104 : Keeps a x104 := by
        unfold x104
        exact State.modUnit_keeps (Keeps2.snd h100)
      clear_value x104
      extract_lets +onlyGivenNames x105
      have h105 : Keeps a x105 := by
        unfold x105
        exact State.showK_keeps h104
      clear_value x105
      exact KeepsO.ite (fun _ => KeepsO.next (State.closeNext_keeps h105)) (fun _ => KeepsO.next h105)

theorem execCaptureBusError_keeps {a : State} {unit : Nat} {s : State} (h2 : Keeps a s) : KeepsO a (execCaptureBusError unit s) := by
  unfold execCaptureBusError
  exact KeepsO.ite (fun _ => KeepsO.next h2) (fun _ => KeepsO.next (State.captureError_keeps h2))

theorem execTrigoutWidthEnd_keeps {a s : State} (h1 : Keeps a s) : KeepsO a (execTrigoutWidthEnd s) := by
  unfold execTrigoutWidthEnd
  exact KeepsO.next (State.modAcq_keeps h1)

theorem State.probeStep_keeps {a s : State} {c : Nat} {d : Nat} (h1 : Keeps a s) : Keeps a (State.probeStep s c d) := by
  unfold State.probeStep
  refine State.forEach_keeps h1 ?_
  intro t100 t101 h102
  extract_lets +onlyGivenNames x103
  exact State.modAcq_keeps h102

theorem State.lanternDrive_keeps {a s : State} {c : Nat} (h1 : Keeps a s) : Keeps a (State.lanternDrive s c) := by
  unfold State.lanternDrive
  extract_lets +onlyGivenNames x100
  extract_lets +onlyGivenNames x101
  have h101 : Keeps a x101 := by
    unfold x101
    exact State.modAcq_keeps h1
  clear_value x101
  exact State.modAcq_keeps h101

theorem State.acqFree_keeps {a s : State} {c : Nat} (h1 : Keeps a s) : Keeps a (State.acqFree s c) := by
  unfold State.acqFree
  extract_lets +onlyGivenNames x100
  extract_lets +onlyGivenNames x101
  have h101 : Keeps a x101 := by
    unfold x101
    refine State.forEach_keeps h1 ?_
    intro t102 t103 h104
    extract_lets +onlyGivenNames x105
    have h105 : Keeps a x105 := by
      unfold x105
      exact Keeps.ite (fun _ => State.closeBuf_keeps h104) (fun _ => h104)
    clear_value x105
    extract_lets +onlyGivenNames x106
    have h106 : Keeps a x106 := by
      unfold x106
      exact Keeps.ite (fun _ => State.modAcq_keeps h105) (fun _ => h105)
    clear_value x106
    exact State.modUnit_keeps (State.wrs_keeps h106 (fun _ _ => legal.reg rfl))
  clear_value x101
  extract_lets +onlyGivenNames x107
  extract_lets +onlyGivenNames x108
  have h108 : Keeps a x108 := by
    unfold x108
    exact State.forEach_keeps h101 (@fun t109 t110 h111 => State.wrs_keeps h111 (fun _ _ => legal.reg rfl))
  clear_value x108
  extract_lets +onlyGivenNames x112
  have h112 : Keeps a x112 := by
    unfold x112
    exact State.forEach_keeps h108 (@fun t113 t114 h115 => State.wrs_keeps h115 (fun _ _ => legal.reg rfl))
  clear_value x112
  extract_lets +onlyGivenNames x116
  have h116 : Keeps a x116 := by
    unfold x116
    exact State.forEach_keeps h112 (@fun t117 t118 h119 => State.wrs_keeps h119 (fun _ _ => legal.reg rfl))
  clear_value x116
  exact State.modAcq_keeps h116

theorem State.modIn_keeps {a s : State} {i : Nat} {f : AcqIn → AcqIn} (h1 : Keeps a s) : Keeps a (State.modIn s i f) := by
  unfold State.modIn
  exact State.modAcq_keeps h1

theorem State.stampEdge_keeps {a s : State} {i : Nat} {level : Bool} (h1 : Keeps a s) : Keeps a (State.stampEdge s i level) := by
  unfold State.stampEdge
  extract_lets +onlyGivenNames x100
  extract_lets +onlyGivenNames x101
  refine Keeps.ite (fun _ => ?_) (fun _ => h1)
  extract_lets +onlyGivenNames x102
  refine Keeps.ite (fun _ => State.wr_keeps h1 (legal.reg rfl)) (fun _ => ?_)
  exact Keeps.frame (s := s) h1 rfl rfl rfl rfl (Nat.le_refl _) (Nat.le_refl _) rfl rfl rfl

theorem State.passEdge_keeps {a s : State} {i : Nat} (h1 : Keeps a s) : Keeps a (State.passEdge s i) := by
  unfold State.passEdge
  extract_lets +onlyGivenNames x100
  extract_lets +onlyGivenNames x101
  have h101 : Keeps a x101 := by
    unfold x101
    exact State.modIn_keeps h1
  clear_value x101
  exact Keeps.ite (fun _ => State.latchEvent_keeps h101) (fun _ => State.stampEdge_keeps h101)

theorem execTriggerInEdge_keeps {a s : State} (h1 : Keeps a s) : KeepsO a (execTriggerInEdge s) := by
  unfold execTriggerInEdge
  exact KeepsO.next (Keeps.ite (fun _ => State.passEdge_keeps h1) (fun _ => h1))

theorem execCaptureInputEdge_keeps {a : State} {input : Nat} {s : State} (h2 : Keeps a s) : KeepsO a (execCaptureInputEdge input s) := by
  unfold execCaptureInputEdge
  exact KeepsO.ite (fun _ => KeepsO.next (State.passEdge_keeps h2)) (fun _ => KeepsO.next h2)

theorem execInputLevelChange_keeps {a : State} {input : Nat} {level : Bool} {short : Bool} {s : State} (h4 : Keeps a s) : KeepsO a (execInputLevelChange input level short s) := by
  unfold execInputLevelChange
  refine KeepsO.ite (fun _ => KeepsO.next h4) (fun _ => ?_)
  extract_lets +onlyGivenNames x100
  extract_lets +onlyGivenNames x101
  have h101 : Keeps a x101 := by
    unfold x101
    exact State.modIn_keeps h4
  clear_value x101
  exact KeepsO.ite (fun _ => KeepsO.next (State.bump_keeps h101 rfl)) (fun _ => KeepsO.next h101)

theorem execConditionerWindowEnd_keeps {a : State} {input : Nat} {s : State} (h2 : Keeps a s) : KeepsO a (execConditionerWindowEnd input s) := by
  unfold execConditionerWindowEnd
  extract_lets +onlyGivenNames x100
  have h100 : Keeps a x100 := by
    unfold x100
    exact State.modIn_keeps h2
  clear_value x100
  exact KeepsO.next (Keeps.ite (fun _ => State.passEdge_keeps h100) (fun _ => h100))

theorem execInputStuck_keeps {a : State} {input : Nat} {s : State} (h2 : Keeps a s) : KeepsO a (execInputStuck input s) := by
  unfold execInputStuck
  exact KeepsO.ite (fun _ => KeepsO.next (State.modIn_keeps (State.wrs_keeps h2 (fun _ _ => legal.reg rfl)))) (fun _ => KeepsO.next h2)

theorem execStuckMaskRelease_keeps {a : State} {input : Nat} {s : State} (h2 : Keeps a s) : KeepsO a (execStuckMaskRelease input s) := by
  unfold execStuckMaskRelease
  exact KeepsO.ite (fun _ => KeepsO.next (State.modIn_keeps (State.wr_keeps h2 (legal.reg rfl)))) (fun _ => KeepsO.next h2)

theorem State.modCore_keeps {a s : State} {k : Nat} {f : Core → Core} (h1 : Keeps a s) : Keeps a (State.modCore s k f) := by
  unfold State.modCore
  exact Keeps.frame (s := s) h1 rfl rfl rfl rfl (Nat.le_refl _) (Nat.le_refl _) rfl rfl rfl

theorem State.modTr_keeps {a s : State} {k : Nat} {f : TraceCore → TraceCore} (h1 : Keeps a s) : Keeps a (State.modTr s k f) := by
  unfold State.modTr
  exact State.modCore_keeps h1

theorem State.modTrace_keeps {a s : State} {f : TraceUnit → TraceUnit} (h1 : Keeps a s) : Keeps a (State.modTrace s f) := by
  unfold State.modTrace
  exact Keeps.frame (s := s) h1 rfl rfl rfl rfl (Nat.le_refl _) (Nat.le_refl _) rfl rfl rfl

theorem State.traceRoute_keeps {a s : State} (h1 : Keeps a s) : Keeps a (State.traceRoute s) := by
  unfold State.traceRoute
  extract_lets +onlyGivenNames x100
  refine Keeps.ite (fun _ => h1) (fun _ => ?_)
  extract_lets +onlyGivenNames x101
  have h101 : Keeps a x101 := by
    unfold x101
    exact State.modTrace_keeps h1
  clear_value x101
  exact State.forEach_keeps h101 (@fun t102 t103 h104 => State.modTr_keeps h104)

theorem State.closeFrame_keeps {a s : State} {k : Nat} (h1 : Keeps a s) : Keeps a (State.closeFrame s k) := by
  unfold State.closeFrame
  extract_lets +onlyGivenNames x100
  refine Keeps.ite (fun _ => h1) (fun _ => ?_)
  extract_lets +onlyGivenNames x101
  exact State.modTr_keeps (State.modTrace_keeps h1)

theorem State.traceAppend_keeps {a s : State} {k : Nat} {p : List Byte} {cairn : Bool} {f : TraceCore → TraceCore} (h1 : Keeps a s) : Keeps a (State.traceAppend s k p cairn f) := by
  unfold State.traceAppend
  extract_lets +onlyGivenNames x100
  exact Keeps.ite (fun _ => State.bump_keeps (State.modTr_keeps h1) rfl) (fun _ => State.modTr_keeps h1)

theorem State.cairn_keeps {a s : State} {k : Nat} {reason : Nat} {pc : Nat} {daddr : Nat} {task : Nat} {pl : Nat} {dom : Nat} (h1 : Keeps a s) : Keeps a (State.cairn s k reason pc daddr task pl dom) := by
  unfold State.cairn
  extract_lets +onlyGivenNames x100
  have h100 : Keeps a x100 := by
    unfold x100
    exact Keeps.ite (fun _ => State.closeFrame_keeps h1) (fun _ => h1)
  clear_value x100
  exact State.traceAppend_keeps h100

theorem State.cairnNow_keeps {a s : State} {k : Nat} {reason : Nat} {daddr : Nat} (h1 : Keeps a s) : Keeps a (State.cairnNow s k reason daddr) := by
  unfold State.cairnNow
  split
  · exact State.cairn_keeps h1
  · exact State.cairn_keeps h1

theorem State.packetRaw_keeps {a s : State} {k : Nat} {p : TraceCore → List Byte} {f : TraceCore → TraceCore} (h1 : Keeps a s) : Keeps a (State.packetRaw s k p f) := by
  unfold State.packetRaw
  extract_lets +onlyGivenNames x100
  have h100 : Keeps a x100 := by
    unfold x100
    exact Keeps.ite (fun _ => State.closeFrame_keeps h1) (fun _ => h1)
  clear_value x100
  extract_lets +onlyGivenNames x101
  extract_lets +onlyGivenNames x102
  have h102 : Keeps a x102 := by
    unfold x102
    refine Keeps.ite (fun _ => ?_) (fun _ => h100)
    refine State.cairnNow_keeps ?_
    exact Keeps.frame (s := x100) h100 rfl rfl rfl rfl (Nat.le_refl _) (Nat.le_add_right _ _) rfl rfl rfl
  clear_value x102
  exact State.traceAppend_keeps h102

theorem State.flushTaken_keeps {a s : State} {k : Nat} (h1 : Keeps a s) : Keeps a (State.flushTaken s k) := by
  unfold State.flushTaken
  extract_lets +onlyGivenNames x100
  exact Keeps.ite (fun _ => h1) (fun _ => State.packetRaw_keeps (State.modTr_keeps h1))

theorem State.packet_keeps {a s : State} {k : Nat} {p : TraceCore → List Byte} {f : TraceCore → TraceCore} (h1 : Keeps a s) : Keeps a (State.packet s k p f) := by
  unfold State.packet
  exact State.packetRaw_keeps (State.flushTaken_keeps h1)

theorem State.traceBoundary_keeps {a : State} {s0 : State} {k : Nat} (h1 : Keeps a s0) : Keeps a (State.traceBoundary s0 k) := by
  unfold State.traceBoundary
  extract_lets +onlyGivenNames x100
  have h100 : Keeps a x100 := by
    unfold x100
    exact State.traceRoute_keeps h1
  clear_value x100
  split
  · exact h100
  · refine Keeps.ite (fun _ => ?_) (fun _ => h100)
    extract_lets +onlyGivenNames x101
    refine Keeps.ite (fun _ => ?_) (fun _ => ?_)
    · extract_lets +onlyGivenNames x102
      have h102 : Keeps a x102 := by
        unfold x102
        exact Keeps.ite (fun _ => State.packetRaw_keeps (State.modTr_keeps h100)) (fun _ => h100)
      clear_value x102
      extract_lets +onlyGivenNames x103
      have h103 : Keeps a x103 := by
        unfold x103
        exact State.modTr_keeps h102
      clear_value x103
      extract_lets +onlyGivenNames x104
      refine Keeps.ite (fun _ => h103) (fun _ => ?_)
      extract_lets +onlyGivenNames x105
      exact State.cairnNow_keeps (State.modTr_keeps (State.flushTaken_keeps h103))
    · refine Keeps.ite (fun _ => State.modTr_keeps h100) (fun _ => ?_)
      extract_lets +onlyGivenNames x106
      have h106 : Keeps a x106 := by
        unfold x106
        exact State.cairn_keeps (State.flushTaken_keeps h100)
      clear_value x106
      exact State.bump_keeps (State.modTr_keeps h106) rfl

theorem State.traceBranch_keeps {a s : State} {k : Nat} {arg : Nat} {target : Nat} (h1 : Keeps a s) : Keeps a (State.traceBranch s k arg target) := by
  unfold State.traceBranch
  exact Keeps.ite (fun _ => State.packet_keeps h1) (fun _ => h1)

theorem State.traceNotTaken_keeps {a s : State} {k : Nat} (h1 : Keeps a s) : Keeps a (State.traceNotTaken s k) := by
  unfold State.traceNotTaken
  refine Keeps.ite (fun _ => ?_) (fun _ => h1)
  extract_lets +onlyGivenNames x100
  have h100 : Keeps a x100 := by
    unfold x100
    exact State.modTr_keeps h1
  clear_value x100
  exact Keeps.ite (fun _ => State.flushTaken_keeps h100) (fun _ => h100)

theorem State.traceData_keeps {a s : State} {k : Nat} {store : Bool} {atomic : Bool} {ea : Nat} {size : Nat} {v : Word} (h1 : Keeps a s) : Keeps a (State.traceData s k store atomic ea size v) := by
  unfold State.traceData
  refine Keeps.ite (fun _ => ?_) (fun _ => h1)
  extract_lets +onlyGivenNames x100
  exact State.packet_keeps h1

theorem State.traceTrap_keeps {a s : State} {k : Nat} {cause : Nat} (h1 : Keeps a s) : Keeps a (State.traceTrap s k cause) := by
  unfold State.traceTrap
  exact Keeps.ite (fun _ => State.packet_keeps h1) (fun _ => h1)

theorem State.traceEnd_keeps {a s : State} {k : Nat} {arg : Nat} (h1 : Keeps a s) : Keeps a (State.traceEnd s k arg) := by
  unfold State.traceEnd
  exact Keeps.ite (fun _ => State.packet_keeps h1) (fun _ => h1)

theorem State.traceSleep_keeps {a s : State} {k : Nat} (h1 : Keeps a s) : Keeps a (State.traceSleep s k) := by
  unfold State.traceSleep
  extract_lets +onlyGivenNames x100
  have h100 : Keeps a x100 := by
    unfold x100
    exact Keeps.ite (fun _ => State.cairn_keeps (State.flushTaken_keeps h1)) (fun _ => h1)
  clear_value x100
  exact State.modTr_keeps (State.closeFrame_keeps h100)

theorem State.toFallback_keeps {a s : State} {f : Frame} (h1 : Keeps a s) : Keeps a (State.toFallback s f) := by
  unfold State.toFallback
  exact Keeps.ite (fun _ => State.modTrace_keeps h1) (fun _ => State.bump_keeps (State.modTrace_keeps h1) rfl)

theorem State.traceBusErr_keeps {a s : State} (h1 : Keeps a s) : Keeps a (State.traceBusErr s) := by
  unfold State.traceBusErr
  exact State.traceRoute_keeps (State.modTrace_keeps (State.wr_keeps h1 (legal.reg rfl)))

theorem State.toRing_keeps {a s : State} {f : Frame} (h1 : Keeps a s) : Keeps2 a (State.toRing s f) := by
  unfold State.toRing
  extract_lets +onlyGivenNames x100
  extract_lets +onlyGivenNames x101
  extract_lets +onlyGivenNames x102
  refine Keeps2.ite (fun _ => Keeps2.mk (State.bump_keeps h1 rfl)) (fun _ => ?_)
  extract_lets +onlyGivenNames x103
  have h103 : Keeps2 a x103 := by
    unfold x103
    exact State.deepWrite_keeps h1
  clear_value x103
  split
  · exact Keeps2.mk (State.traceBusErr_keeps (Keeps2.snd h103))
  · extract_lets +onlyGivenNames x104
    have h104 : Keeps a x104 := by
      unfold x104
      exact Keeps.ite (fun _ => State.wr_keeps (Keeps2.snd h103) (legal.reg rfl)) (fun _ => Keeps2.snd h103)
    clear_value x104
    exact Keeps2.mk (Keeps.ite (fun _ => State.wr_keeps h104 (legal.reg rfl)) (fun _ => State.modTrace_keeps (State.wr_keeps h104 (legal.reg rfl))))

theorem execTrFlush_keeps {a s : State} (h1 : Keeps a s) : KeepsO a (execTrFlush s) := by
  unfold execTrFlush
  exact State.asWrite_keeps h1 (@fun t100 h101 => KeepsO.next (State.forEach_keeps h101 (@fun t102 t103 h104 => State.closeFrame_keeps h104)))

theorem execTrRoute_keeps {a s : State} (h1 : Keeps a s) : KeepsO a (execTrRoute s) := by
  unfold execTrRoute
  exact State.asWrite_keeps h1 (@fun t100 h101 => KeepsO.next (State.traceRoute_keeps (State.modTrace_keeps h101)))

theorem execClearFb_keeps {a s : State} (h1 : Keeps a s) : KeepsO a (execClearFb s) := by
  unfold execClearFb
  exact State.asWrite_keeps h1 (@fun t100 h101 => KeepsO.next (State.modTrace_keeps h101))

theorem execFrameFlushTimer_keeps {a : State} {core : Nat} {s : State} (h2 : Keeps a s) : KeepsO a (execFrameFlushTimer core s) := by
  unfold execFrameFlushTimer
  exact KeepsO.next (State.closeFrame_keeps h2)

theorem execCairnTimer_keeps {a : State} {core : Nat} {s : State} (h2 : Keeps a s) : KeepsO a (execCairnTimer core s) := by
  unfold execCairnTimer
  exact KeepsO.ite (fun _ => KeepsO.next (State.modTr_keeps h2)) (fun _ => KeepsO.next h2)

theorem execTraceFrameWrite_keeps {a : State} {s0 : State} (h1 : Keeps a s0) : KeepsO a (execTraceFrameWrite s0) := by
  unfold execTraceFrameWrite
  extract_lets +onlyGivenNames x100
  have h100 : Keeps a x100 := by
    unfold x100
    exact State.traceRoute_keeps h1
  clear_value x100
  split
  · exact KeepsO.next h100
  · refine KeepsO.ite (fun _ => KeepsO.next h100) (fun _ => ?_)
    extract_lets +onlyGivenNames x101
    have h101 : Keeps a x101 := by
      unfold x101
      exact State.modTrace_keeps h100
    clear_value x101
    exact KeepsO.ite (fun _ => KeepsO.next (Keeps2.snd (State.toRing_keeps h101))) (fun _ => KeepsO.next (State.toFallback_keeps h101))

theorem execTraceBusError_keeps {a s : State} (h1 : Keeps a s) : KeepsO a (execTraceBusError s) := by
  unfold execTraceBusError
  exact KeepsO.next (State.traceBusErr_keeps (State.modTrace_keeps h1))

theorem State.drainFrames_keeps {a s : State} (h : Keeps a s) {l : List Frame} : Keeps a (s.drainFrames l) := by
  induction l generalizing s with
  | nil => exact h
  | cons f l ih =>
    unfold State.drainFrames
    have hw := Keeps2.snd (State.toRing_keeps h (f := f))
    exact Keeps.ite (fun _ => hw) fun _ => ih (State.modTrace_keeps hw)

theorem execFallbackDrainDone_keeps {a : State} {s0 : State} (h1 : Keeps a s0) : KeepsO a (execFallbackDrainDone s0) := by
  unfold execFallbackDrainDone
  extract_lets +onlyGivenNames x100
  have h100 : Keeps a x100 := by
    unfold x100
    exact State.traceRoute_keeps h1
  clear_value x100
  exact KeepsO.ite (fun _ => KeepsO.next (State.modTrace_keeps (State.drainFrames_keeps h100))) (fun _ => KeepsO.next h100)

theorem State.dropToken_keeps {a s : State} {t : Nat} (h1 : Keeps a s) : Keeps a (State.dropToken s t) := by
  unfold State.dropToken
  exact State.modTrace_keeps (State.wrs_keeps h1 (fun _ _ => legal.reg rfl))

theorem State.lapseTokens_keeps {a s : State} {key : Nat} (h1 : Keeps a s) : Keeps a (State.lapseTokens s key) := by
  unfold State.lapseTokens
  exact State.forEach_keeps h1 (@fun t100 t101 h102 => State.dropToken_keeps h102)

theorem execTokenLoad_keeps {a : State} {slot : Nat} {s : State} (h2 : Keeps a s) : KeepsO a (execTokenLoad slot s) := by
  unfold execTokenLoad
  exact State.asWrite_keeps h2 (@fun t100 h101 => KeepsO.ite (fun _ => KeepsO.next h101) (fun _ => KeepsO.next (State.emit_keeps (State.modTrace_keeps (State.wrs_keeps h101 (fun _ _ => legal.reg rfl))))))

theorem execTokenLoadDone_keeps {a : State} {ok : Bool} {bytes : List Byte} {s : State} (h3 : Keeps a s) : KeepsO a (execTokenLoadDone ok bytes s) := by
  unfold execTokenLoadDone
  split
  · exact KeepsO.next h3
  · extract_lets +onlyGivenNames x100
    extract_lets +onlyGivenNames x101
    have h101 : Keeps a x101 := by
      unfold x101
      exact State.modTrace_keeps (State.wrs_keeps h3 (fun _ _ => legal.reg rfl))
    clear_value x101
    refine KeepsO.ite (fun _ => ?_) (fun _ => KeepsO.next h101)
    extract_lets +onlyGivenNames x102
    exact KeepsO.next (State.modTrace_keeps (State.wrs_keeps h101 (fun _ _ => legal.reg rfl)))

theorem execTokenRevoke_keeps {a : State} {slot : Nat} {s : State} (h2 : Keeps a s) : KeepsO a (execTokenRevoke slot s) := by
  unfold execTokenRevoke
  exact State.asWrite_keeps h2 (@fun t100 h101 => KeepsO.ite (fun _ => KeepsO.next h101) (fun _ => KeepsO.next (State.dropToken_keeps (State.wrs_keeps h101 (fun _ _ => legal.reg rfl)))))

theorem State.modTask_keeps {a s : State} {i : Nat} {f : Task → Task} (h1 : Keeps a s) : Keeps a (State.modTask s i f) := by
  unfold State.modTask
  exact Keeps.frame (s := s) h1 rfl rfl rfl rfl (Nat.le_refl _) (Nat.le_refl _) rfl rfl rfl

theorem State.modFlow_keeps {a s : State} {f : Nat} {g : Flow → Flow} (h1 : Keeps a s) : Keeps a (State.modFlow s f g) := by
  unfold State.modFlow
  exact Keeps.frame (s := s) h1 rfl rfl rfl rfl (Nat.le_refl _) (Nat.le_refl _) rfl rfl rfl

theorem State.fillSlot_keeps {a s : State} {k : Nat} (h1 : Keeps a s) : Keeps a (State.fillSlot s k) := by
  unfold State.fillSlot
  split
  · exact State.modTask_keeps (State.modCore_keeps h1)
  · exact h1

theorem State.listTask_keeps {a s : State} {i : Nat} (h1 : Keeps a s) : Keeps a (State.listTask s i) := by
  unfold State.listTask
  split
  · exact Keeps.frame (s := s) h1 rfl rfl rfl rfl (Nat.le_refl _) (Nat.le_refl _) rfl rfl rfl
  · exact State.fillSlot_keeps (State.modTask_keeps (State.modCore_keeps h1))

theorem State.makeReady_keeps {a s : State} {i : Nat} (h1 : Keeps a s) : Keeps a (State.makeReady s i) := by
  unfold State.makeReady
  exact State.listTask_keeps (State.modTask_keeps h1)

theorem State.judge_keeps {a s : State} {i : Nat} (h1 : Keeps a s) : Keeps a (State.judge s i) := by
  unfold State.judge
  extract_lets +onlyGivenNames x100
  exact Keeps.ite (fun _ => State.makeReady_keeps h1) (fun _ => h1)

theorem State.setFlags_keeps {a s : State} {i : Nat} {x : Word} (h1 : Keeps a s) : Keeps a (State.setFlags s i x) := by
  unfold State.setFlags
  exact State.judge_keeps (State.modTask_keeps h1)

theorem State.relist_keeps {a s : State} (h1 : Keeps a s) : Keeps a (State.relist s) := by
  unfold State.relist
  refine foldl_keeps (@fun t100 t101 h102 => State.listTask_keeps h102) ?_
  exact Keeps.frame (s := s) h1 rfl rfl rfl rfl (Nat.le_refl _) (Nat.le_refl _) rfl rfl rfl

theorem State.unlist_keeps {a s : State} {k : Nat} (h1 : Keeps a s) : Keeps a (State.unlist s k) := by
  unfold State.unlist
  extract_lets +onlyGivenNames x100
  have h100 : Keeps a x100 := by
    unfold x100
    exact foldl_keeps (@fun t100 t101 h102 => State.makeReady_keeps h102) (State.modCore_keeps h1)
  clear_value x100
  exact Keeps.ite (fun _ => State.wr_keeps h100 (legal.reg rfl)) (fun _ => h100)

theorem State.taskErr_keeps {a s : State} (h1 : Keeps a s) : Keeps a (State.taskErr s) := by
  unfold State.taskErr
  exact State.wr_keeps h1 (legal.reg rfl)

theorem execTaskArm_keeps {a s : State} (h1 : Keeps a s) : KeepsO a (execTaskArm s) := by
  unfold execTaskArm
  refine State.asWrite_keeps h1 ?_
  intro t100 h101
  extract_lets +onlyGivenNames x102
  extract_lets +onlyGivenNames x103
  refine KeepsO.ite (fun _ => ?_) (fun _ => KeepsO.next (State.taskErr_keeps h101))
  extract_lets +onlyGivenNames x104
  extract_lets +onlyGivenNames x105
  have h105 : Keeps a x105 := by
    unfold x105
    exact Keeps.ite (fun _ => h101) (fun _ => State.modFlow_keeps h101)
  clear_value x105
  exact KeepsO.next (State.judge_keeps (State.modTask_keeps h105))

theorem execTaskFree_keeps {a s : State} (h1 : Keeps a s) : KeepsO a (execTaskFree s) := by
  unfold execTaskFree
  refine State.asWrite_keeps h1 ?_
  intro t100 h101
  extract_lets +onlyGivenNames x102
  extract_lets +onlyGivenNames x103
  exact KeepsO.ite (fun _ => KeepsO.next (State.modTask_keeps h101)) (fun _ => KeepsO.next (State.taskErr_keeps h101))

theorem execTsTaskFlagsWrite_keeps {a : State} {x : Word} {s : State} (h2 : Keeps a s) : KeepsO a (execTsTaskFlagsWrite x s) := by
  unfold execTsTaskFlagsWrite
  exact State.asWrite_keeps h2 (@fun t100 h101 => KeepsO.next (State.setFlags_keeps h101))

theorem execBivouacLoadDone_keeps {a : State} {core : Nat} {s : State} (h2 : Keeps a s) : KeepsO a (execBivouacLoadDone core s) := by
  unfold execBivouacLoadDone
  split
  · extract_lets +onlyGivenNames x100
    extract_lets +onlyGivenNames x101
    extract_lets +onlyGivenNames x102
    have h102 : Keeps2 a x102 := by
      unfold x102
      exact State.deepFetch_keeps h2
    clear_value x102
    exact KeepsO.next (State.modCore_keeps (Keeps2.snd h102))
  · exact KeepsO.next h2

end Sys2Proof.Machine
end

