-- ==== Sys2Proof/Laws/KeepsChan.lean ====
section
/-! SUPPORT. Every operation and command of channels and the exchange between cycles passes `Keeps` on. -/

namespace Sys2Proof.Machine

set_option Elab.async false

theorem State.modChan_keeps {a s : State} {z1 : Nat} {f : Chan → Chan} (h1 : Keeps a s) : Keeps a (State.modChan s z1 f) := by
  unfold State.modChan
  exact Keeps.frame (s := s) h1 rfl rfl rfl rfl (Nat.le_refl _) (Nat.le_refl _) rfl rfl rfl

theorem State.chError_keeps {a s : State} {z1 : Nat} {code : Nat} {off : Nat} {seq : Nat} {cyc : Nat} (h1 : Keeps a s) : Keeps a (State.chError s z1 code off seq cyc) := by
  unfold State.chError
  extract_lets +onlyGivenNames x100
  have h100 : Keeps a x100 := by
    unfold x100
    split
    · exact State.bump_keeps h1 rfl
    · exact State.bump_keeps h1 rfl
    · exact State.bump_keeps h1 rfl
    · exact State.bump_keeps h1 rfl
    · exact h1
  clear_value x100
  exact State.logIn_keeps h100 rfl (@fun t101 h102 => State.wr_keeps (State.wr_keeps h102 (legal.reg rfl)) (legal.reg rfl))

theorem State.partnerError_keeps {a s : State} {z1 : Nat} {code : Nat} {off : Nat} {seq : Nat} (h1 : Keeps a s) : Keeps a (State.partnerError s z1 code off seq) := by
  unfold State.partnerError
  extract_lets +onlyGivenNames x100
  extract_lets +onlyGivenNames x101
  extract_lets +onlyGivenNames x102
  have h102 : Keeps a x102 := by
    unfold x102
    exact State.chError_keeps h1
  clear_value x102
  exact Keeps.ite (fun _ => h102) (fun _ => State.modCamp_keeps h102)

theorem State.chEvent_keeps {a s : State} {z1 : Nat} {bitNo : Nat} (h1 : Keeps a s) : Keeps a (State.chEvent s z1 bitNo) := by
  unfold State.chEvent
  exact State.setFlags_keeps h1

theorem State.mirrorError_keeps {a s : State} {z1 : Nat} {seq : Nat} (h1 : Keeps a s) : Keeps a (State.mirrorError s z1 seq) := by
  unfold State.mirrorError
  extract_lets +onlyGivenNames x100
  have h100 : Keeps a x100 := by
    unfold x100
    exact State.chError_keeps h1
  clear_value x100
  exact State.modChan_keeps (State.wr_keeps h100 (legal.reg rfl))

theorem State.toPartner_keeps {a s : State} {z1 : Nat} {m : Msg} (h1 : Keeps a s) : Keeps2 a (State.toPartner s z1 m) := by
  unfold State.toPartner
  refine Keeps2.ite (fun _ => Keeps2.mk (State.originate_keeps h1)) (fun _ => ?_)
  extract_lets +onlyGivenNames x100
  extract_lets +onlyGivenNames x101
  extract_lets +onlyGivenNames x102
  have h102 : Keeps2 a x102 := by
    unfold x102
    exact State.deepWrite_keeps h1
  clear_value x102
  split
  · exact Keeps2.mk (State.mirrorError_keeps (Keeps2.snd h102))
  · exact Keeps2.ite (fun _ => Keeps2.mk (State.msix_keeps (State.wr_keeps (Keeps2.snd h102) (legal.reg rfl)))) (fun _ => Keeps2.mk (State.modChan_keeps (Keeps2.snd h102)))

theorem State.sendData_keeps {a s : State} {z1 : Nat} {type : Nat} {payload : List Word} (h1 : Keeps a s) : Keeps2 a (State.sendData s z1 type payload) := by
  unfold State.sendData
  extract_lets +onlyGivenNames x100
  refine Keeps2.ite (fun _ => State.toPartner_keeps h1) (fun _ => ?_)
  extract_lets +onlyGivenNames x101
  have h101 : Keeps2 a x101 := by
    unfold x101
    exact State.toPartner_keeps h1
  clear_value x101
  exact Keeps2.ite (fun _ => Keeps2.mk (State.modChan_keeps (State.wr_keeps (Keeps2.snd h101) (legal.reg rfl)))) (fun _ => h101)

theorem State.pumpData_keeps {a s : State} (h : Keeps a s) {c n : Nat} : Keeps a (s.pumpData c n) := by
  induction n generalizing s with
  | zero => exact h
  | succ n ih =>
    unfold State.pumpData
    split
    · exact h
    · rename_i m rest _
      refine Keeps.ite (fun _ => ?_) fun _ => h
      have hw := Keeps2.snd (State.sendData_keeps h (z1 := c) (type := m.type) (payload := m.payload))
      exact Keeps.ite (fun _ => ih (State.modChan_keeps hw)) fun _ => hw

theorem State.pumpCredit_keeps {a s : State} {z1 : Nat} (h1 : Keeps a s) : Keeps a (State.pumpCredit s z1) := by
  unfold State.pumpCredit
  exact Keeps.ite (fun _ => State.modChan_keeps (Keeps2.snd (State.toPartner_keeps h1))) (fun _ => h1)

theorem State.pump_keeps {a s : State} {z1 : Nat} (h1 : Keeps a s) : Keeps a (State.pump s z1) := by
  unfold State.pump
  exact State.pumpCredit_keeps (State.pumpData_keeps h1)

theorem State.afterRoom_keeps {a s : State} {z1 : Nat} {before : Bool} (h1 : Keeps a s) : Keeps a (State.afterRoom s z1 before) := by
  unfold State.afterRoom
  extract_lets +onlyGivenNames x100
  have h100 : Keeps a x100 := by
    unfold x100
    exact State.pump_keeps h1
  clear_value x100
  exact Keeps.ite (fun _ => State.chEvent_keeps h100) (fun _ => h100)

theorem State.advanceExpect_keeps {a s : State} {z1 : Nat} (h1 : Keeps a s) : Keeps a (State.advanceExpect s z1) := by
  unfold State.advanceExpect
  exact State.pumpCredit_keeps (State.modChan_keeps (State.wr_keeps h1 (legal.reg rfl)))

theorem State.enqueueIn_keeps {a s : State} {z1 : Nat} {m : Msg} (h1 : Keeps a s) : Keeps a (State.enqueueIn s z1 m) := by
  unfold State.enqueueIn
  extract_lets +onlyGivenNames x100
  have h100 : Keeps a x100 := by
    unfold x100
    exact State.modChan_keeps h1
  clear_value x100
  exact Keeps.ite (fun _ => State.chEvent_keeps h100) (fun _ => h100)

theorem State.followHeld_keeps {a s : State} (h : Keeps a s) {c n : Nat} : Keeps a (s.followHeld c n) := by
  induction n generalizing s with
  | zero => exact h
  | succ n ih =>
    unfold State.followHeld
    split
    · exact h
    · exact ih (State.advanceExpect_keeps (State.enqueueIn_keeps (State.modChan_keeps h)))

theorem State.showHeld_keeps {a s : State} {z1 : Nat} (h1 : Keeps a s) : Keeps a (State.showHeld s z1) := by
  unfold State.showHeld
  exact State.wr_keeps h1 (legal.reg rfl)

theorem State.takeCredit_keeps {a s : State} {z1 : Nat} {credit : Nat} (h1 : Keeps a s) : Keeps a (State.takeCredit s z1 credit) := by
  unfold State.takeCredit
  exact Keeps.ite (fun _ => State.wr_keeps h1 (legal.reg rfl)) (fun _ => h1)

theorem State.takeData_keeps {a s : State} {z1 : Nat} {m : Msg} (h1 : Keeps a s) : Keeps a (State.takeData s z1 m) := by
  unfold State.takeData
  extract_lets +onlyGivenNames x100
  refine Keeps.ite (fun _ => State.partnerError_keeps h1) (fun _ => ?_)
  refine Keeps.ite (fun _ => State.showHeld_keeps (State.followHeld_keeps (State.advanceExpect_keeps (State.enqueueIn_keeps h1)))) (fun _ => ?_)
  refine Keeps.ite (fun _ => ?_) (fun _ => State.partnerError_keeps h1)
  extract_lets +onlyGivenNames x101
  have h101 : Keeps a x101 := by
    unfold x101
    exact Keeps.ite (fun _ => State.partnerError_keeps h1) (fun _ => h1)
  clear_value x101
  exact State.showHeld_keeps (State.modChan_keeps h101)

theorem State.receive_keeps {a s : State} {z1 : Nat} {b : List Byte} (h1 : Keeps a s) : Keeps a (State.receive s z1 b) := by
  unfold State.receive
  split
  · exact State.partnerError_keeps h1
  · extract_lets +onlyGivenNames x100
    extract_lets +onlyGivenNames x101
    extract_lets +onlyGivenNames x102
    have h102 : Keeps a x102 := by
      unfold x102
      exact State.takeCredit_keeps h1
    clear_value x102
    extract_lets +onlyGivenNames x103
    have h103 : Keeps a x103 := by
      unfold x103
      exact Keeps.ite (fun _ => State.takeData_keeps h102) (fun _ => h102)
    clear_value x103
    exact State.afterRoom_keeps h103

theorem State.dropIn_keeps {a s : State} {z1 : Nat} (h1 : Keeps a s) : Keeps a (State.dropIn s z1) := by
  unfold State.dropIn
  extract_lets +onlyGivenNames x100
  have h100 : Keeps a x100 := by
    unfold x100
    exact State.modChan_keeps h1
  clear_value x100
  extract_lets +onlyGivenNames x101
  have h101 : Keeps a x101 := by
    unfold x101
    exact Keeps.ite (fun _ => State.showHeld_keeps (State.followHeld_keeps (State.modChan_keeps h100))) (fun _ => h100)
  clear_value x101
  exact Keeps.ite (fun _ => State.chEvent_keeps h101) (fun _ => State.pump_keeps h101)

theorem State.readWords_keeps {a s : State} (h : Keeps a s) {k : Nat} {l : List Nat} : Keeps2 a (s.readWords k l) := by
  induction l generalizing s with
  | nil => exact h
  | cons x l ih => exact ih (Keeps2.snd (State.wuRead_keeps h))

theorem State.writeWords_keeps {a s : State} {k : Nat} {z2 : Nat} {ws : List Word} (h1 : Keeps a s) : Keeps a (State.writeWords s k z2 ws) := by
  unfold State.writeWords
  exact State.forEach_keeps h1 (@fun t100 t101 h102 => State.wuWrite_keeps h102)

theorem State.outWords_keeps {a s : State} {p : Port} (h1 : Keeps a s) : Keeps2 a (State.outWords s p) := by
  unfold State.outWords
  exact State.readWords_keeps h1

theorem State.portSend_keeps {a s : State} {z1 : Nat} {ws : List Word} (h1 : Keeps a s) : Keeps2 a (State.portSend s z1 ws) := by
  unfold State.portSend
  exact Keeps2.ite (fun _ => Keeps2.mk (State.chEvent_keeps (State.modChan_keeps h1))) (fun _ => State.sendData_keeps h1)

theorem State.closeTurn_keeps {a s : State} {p : Port} {t : PortTurn} (h1 : Keeps a s) : Keeps a (State.closeTurn s p t) := by
  unfold State.closeTurn
  extract_lets +onlyGivenNames x100
  extract_lets +onlyGivenNames x101
  have h101 : Keeps a x101 := by
    unfold x101
    exact Keeps.ite (fun _ => State.writeWords_keeps h1) (fun _ => h1)
  clear_value x101
  extract_lets +onlyGivenNames x102
  have h102 : Keeps a x102 := by
    unfold x102
    exact State.wuWrite_keeps h101
  clear_value x102
  exact Keeps.ite (fun _ => State.modCluster_keeps h102) (fun _ => h102)

theorem State.tryTurn_keeps {a s : State} {c : Nat} {p : Port} {t : PortTurn} (h1 : Keeps a s) : Keeps2 a (State.tryTurn s c p t) := by
  unfold State.tryTurn
  extract_lets +onlyGivenNames x100
  extract_lets +onlyGivenNames x101
  have h101 : Keeps2 a x101 := by
    unfold x101
    exact State.outWords_keeps h1
  clear_value x101
  extract_lets +onlyGivenNames x102
  have h102 : Keeps2 a x102 := by
    unfold x102
    refine Keeps2.ite (fun _ => ?_) (fun _ => Keeps2.mk h1)
    split
    · extract_lets +onlyGivenNames x103
      have h103 : Keeps2 a x103 := by
        unfold x103
        exact State.portSend_keeps (Keeps2.snd h101)
      clear_value x103
      exact Keeps2.ite (fun _ => Keeps2.mk (Keeps2.snd h103)) (fun _ => Keeps2.mk (Keeps2.snd h103))
    · exact Keeps2.mk h1
  clear_value x102
  refine Keeps2.ite (fun _ => ?_) (fun _ => h102)
  split
  · exact Keeps2.mk (State.dropIn_keeps (Keeps2.snd h102))
  · exact Keeps2.mk (Keeps2.snd h102)

theorem State.setTurn_keeps {a s : State} {c : Nat} {t : PortTurn} (h1 : Keeps a s) : Keeps a (State.setTurn s c t) := by
  unfold State.setTurn
  exact State.modCamp_keeps h1

theorem State.writeSlots_keeps {a s : State} (h : Keeps a s) {c p : Nat} {l : List Nat} : Keeps2 a (s.writeSlots c p l) := by
  induction l generalizing s p with
  | nil => exact h
  | cons x l ih =>
    unfold State.writeSlots
    have hw := Keeps2.snd (State.deepWrite_keeps h (src := 86) (key := s.rd .RUN_CAMP_STATUS c .KEY_ID) (z3 := s.logAddr c p) (bs := leBytes x 8))
    dsimp only
    split
    · exact Keeps2.mk hw
    · exact ih hw

theorem State.writeLog_keeps {a s : State} (h : Keeps a s) {c : Nat} {l : List LogEntry} : Keeps a (s.writeLog c l) := by
  induction l generalizing s with
  | nil => exact State.modCamp_keeps h
  | cons e l ih =>
    unfold State.writeLog
    refine Keeps.ite (fun _ => State.modCamp_keeps h) fun _ => Keeps.ite (fun _ => State.modCamp_keeps h) fun _ => ?_
    have hw := Keeps2.snd (State.writeSlots_keeps h (c := c) (p := (s.camp c).logPos) (l := e.slots))
    dsimp only
    split
    · exact State.campIrq_keeps (State.modCamp_keeps (State.wr_keeps hw (legal.reg rfl)))
    · exact ih (State.modCamp_keeps hw)

theorem State.logStall_keeps {a s : State} {c : Nat} (h1 : Keeps a s) : Keeps a (State.logStall s c) := by
  unfold State.logStall
  exact Keeps.ite (fun _ => h1) (fun _ => State.raiseStall_keeps (State.campIrq_keeps (State.wr_keeps h1 (legal.reg rfl))))

theorem State.advance_keeps {a s : State} {c : Nat} {n : Nat} (h1 : Keeps a s) : Keeps a (State.advance s c n) := by
  unfold State.advance
  exact State.chargeSteps_keeps (State.forEach_keeps h1 (@fun t100 t101 h102 => State.modCluster_keeps h102))

theorem State.toBnd_keeps {a s : State} {c : Nat} {n : Nat} (h1 : Keeps a s) : Keeps a (State.toBnd s c n) := by
  unfold State.toBnd
  exact State.haltIfFrozen_keeps (State.forEach_keeps h1 (@fun t100 t101 h102 => State.modGroup_keeps h102))

theorem State.leaveB10_keeps {a s : State} {c : Nat} (h1 : Keeps a s) : Keeps a (State.leaveB10 s c) := by
  unfold State.leaveB10
  exact Keeps.ite (fun _ => State.toBnd_keeps (State.advance_keeps h1)) (fun _ => h1)

theorem State.finishExchange_keeps {a s : State} {c : Nat} (h1 : Keeps a s) : Keeps a (State.finishExchange s c) := by
  unfold State.finishExchange
  extract_lets +onlyGivenNames x100
  extract_lets +onlyGivenNames x101
  extract_lets +onlyGivenNames x102
  have h102 : Keeps a x102 := by
    unfold x102
    exact State.modCamp_keeps h1
  clear_value x102
  exact State.leaveB10_keeps (State.logStall_keeps (State.writeLog_keeps h102))

theorem State.tryTurns_keeps {a s : State} (h : Keeps a s) {c : Nat} : Keeps2 a (s.tryTurns c) := by
  unfold State.tryTurns
  generalize (s.camp c).turns.getD [] = l
  suffices hl : ∀ (b : List Stall × State), Keeps2 a b → Keeps2 a (l.foldl _ b) from hl _ (Keeps2.mk h)
  induction l with
  | nil => exact fun _ hb => hb
  | cons u l ih =>
    refine fun b hb => ih _ ?_
    refine Keeps2.ite (fun _ => hb) fun _ => ?_
    split
    · exact hb
    · rename_i p _
      have hr := Keeps2.snd (State.tryTurn_keeps (Keeps2.snd hb) (c := c) (p := p) (t := u))
      exact Keeps2.ite (fun _ => Keeps2.mk (State.setTurn_keeps hr)) fun _ => Keeps2.mk (State.setTurn_keeps hr)

theorem State.closeTurns_keeps {a s : State} {c : Nat} (h1 : Keeps a s) : Keeps a (State.closeTurns s c) := by
  unfold State.closeTurns
  refine Keeps.ite (fun _ => h1) (fun _ => ?_)
  refine foldl_keeps ?_ h1
  intro t100 t101 h102
  refine Keeps.ite (fun _ => h102) (fun _ => ?_)
  split
  · exact h102
  · exact State.setTurn_keeps (State.closeTurn_keeps h102)

theorem State.settle_keeps {a s : State} {c : Nat} {frozen : Nat} (h1 : Keeps a s) : Keeps a (State.settle s c frozen) := by
  unfold State.settle
  split
  · exact h1
  · extract_lets +onlyGivenNames x100
    have h100 : Keeps2 a x100 := by
      unfold x100
      exact State.tryTurns_keeps h1
    clear_value x100
    extract_lets +onlyGivenNames x101
    have h101 : Keeps a x101 := by
      unfold x101
      exact State.closeTurns_keeps (State.releaseStalls_keeps (Keeps2.snd h100))
    clear_value x101
    exact Keeps.ite (fun _ => State.finishExchange_keeps h101) (fun _ => h101)

theorem State.stallTurns_keeps {a s : State} {c : Nat} (h1 : Keeps a s) : Keeps a (State.stallTurns s c) := by
  unfold State.stallTurns
  refine foldl_keeps ?_ h1
  intro t100 t101 h102
  refine Keeps.ite (fun _ => h102) (fun _ => ?_)
  extract_lets +onlyGivenNames x103
  exact State.raiseStall_keeps (State.setTurn_keeps h102)

theorem State.clearExch_keeps {a s : State} {c : Nat} (h1 : Keeps a s) : Keeps a (State.clearExch s c) := by
  unfold State.clearExch
  exact State.forEach_keeps h1 (@fun t100 t101 h102 => State.modCluster_keeps h102)

theorem State.openTurns_keeps {a s : State} (h : Keeps a s) {c : Nat} {l : List Port} : Keeps2 a (s.openTurns c l) := by
  induction l generalizing s with
  | nil => exact h
  | cons x l ih => exact ih (Keeps2.snd (State.wuRead_keeps h))

theorem State.endReplay_keeps {a s : State} {c : Nat} {err : Bool} (h1 : Keeps a s) : Keeps a (State.endReplay s c err) := by
  unfold State.endReplay
  extract_lets +onlyGivenNames x100
  have h100 : Keeps a x100 := by
    unfold x100
    exact State.wr_keeps h1 (legal.reg rfl)
  clear_value x100
  exact Keeps.ite (fun _ => State.wr_keeps h100 (legal.reg rfl)) (fun _ => h100)

theorem State.diverge_keeps {a s : State} {c : Nat} (h1 : Keeps a s) : Keeps a (State.diverge s c) := by
  unfold State.diverge
  exact Keeps.ite (fun _ => h1) (fun _ => State.wr_keeps (State.wr_keeps h1 (legal.reg rfl)) (legal.reg rfl))

theorem State.replayTurn_keeps {a s : State} {c : Nat} {es : List LogEntry} {p : Port} {t : PortTurn} (h1 : Keeps a s) : Keeps a (State.replayTurn s c es p t) := by
  unfold State.replayTurn
  extract_lets +onlyGivenNames x100
  extract_lets +onlyGivenNames x101
  extract_lets +onlyGivenNames x102
  have h102 : Keeps2 a x102 := by
    unfold x102
    exact State.outWords_keeps h1
  clear_value x102
  extract_lets +onlyGivenNames x103
  extract_lets +onlyGivenNames x104
  extract_lets +onlyGivenNames x105
  extract_lets +onlyGivenNames x106
  extract_lets +onlyGivenNames x107
  have h107 : Keeps a x107 := by
    unfold x107
    exact State.closeTurn_keeps (Keeps.ite (fun _ => Keeps2.snd h102) (fun _ => h1))
  clear_value x107
  exact Keeps.ite (fun _ => State.diverge_keeps h107) (fun _ => h107)

theorem State.replayEntry_keeps {a s : State} {c : Nat} {e : LogEntry} (h1 : Keeps a s) : Keeps a (State.replayEntry s c e) := by
  unfold State.replayEntry
  extract_lets +onlyGivenNames x100
  split
  · exact State.chError_keeps h1
  · extract_lets +onlyGivenNames x101
    have h101 : Keeps a x101 := by
      unfold x101
      exact State.chError_keeps h1
    clear_value x101
    exact Keeps.ite (fun _ => State.haltCond_keeps h101) (fun _ => h101)
  · exact State.modCamp_keeps h1
  · exact State.modCamp_keeps h1
  · exact h1

theorem State.logTouch_keeps {a s : State} {c : Nat} {pos : Nat} {n : Nat} (h1 : Keeps a s) : Keeps a (State.logTouch s c pos n) := by
  unfold State.logTouch
  exact State.forEach_keeps h1 (@fun t100 t101 h102 => Keeps2.snd (State.deepFetch_keeps h102))

theorem State.replayExchange_keeps {a s : State} {c : Nat} (h1 : Keeps a s) : Keeps a (State.replayExchange s c) := by
  unfold State.replayExchange
  extract_lets +onlyGivenNames x100
  extract_lets +onlyGivenNames x101
  extract_lets +onlyGivenNames x102
  have h102 : Keeps2 a x102 := by
    unfold x102
    exact State.openTurns_keeps h1
  clear_value x102
  extract_lets +onlyGivenNames x103
  have h103 : Keeps a x103 := by
    unfold x103
    exact foldl_keeps (@fun t104 t105 h106 => State.replayTurn_keeps h106) (State.clearExch_keeps (Keeps2.snd h102))
  clear_value x103
  extract_lets +onlyGivenNames x107
  have h107 : Keeps a x107 := by
    unfold x107
    exact foldl_keeps (@fun t108 t109 h110 => State.replayEntry_keeps h110) h103
  clear_value x107
  extract_lets +onlyGivenNames x111
  have h111 : Keeps a x111 := by
    unfold x111
    exact State.modCamp_keeps (State.logTouch_keeps h107)
  clear_value x111
  extract_lets +onlyGivenNames x112
  have h112 : Keeps a x112 := by
    unfold x112
    split
    · exact State.endReplay_keeps h111
    · exact h111
  clear_value x112
  exact State.leaveB10_keeps (State.toBnd_keeps h112)

theorem State.liveExchange_keeps {a s : State} {c : Nat} (h1 : Keeps a s) : Keeps a (State.liveExchange s c) := by
  unfold State.liveExchange
  extract_lets +onlyGivenNames x100
  have h100 : Keeps2 a x100 := by
    unfold x100
    exact State.openTurns_keeps h1
  clear_value x100
  extract_lets +onlyGivenNames x101
  have h101 : Keeps a x101 := by
    unfold x101
    exact State.toBnd_keeps (State.modCamp_keeps (Keeps2.snd h100))
  clear_value x101
  exact Keeps.ite (fun _ => State.stallTurns_keeps (State.settle_keeps (State.clearExch_keeps h101))) (fun _ => h101)

theorem State.keepWritten_keeps {a s : State} {c : Nat} {frozen : Nat} (h1 : Keeps a s) : Keeps a (State.keepWritten s c frozen) := by
  unfold State.keepWritten
  refine Keeps.ite (fun _ => h1) (fun _ => ?_)
  extract_lets +onlyGivenNames x100
  have h100 : Keeps a x100 := by
    unfold x100
    exact State.writeLog_keeps h1
  clear_value x100
  exact Keeps.ite (fun _ => State.leaveB10_keeps (State.releaseCause_keeps (State.wr_keeps h100 (legal.reg rfl)))) (fun _ => h100)

theorem State.settleChan_keeps {a s : State} {z1 : Nat} {frozen : Nat} (h1 : Keeps a s) : Keeps a (State.settleChan s z1 frozen) := by
  unfold State.settleChan
  exact Keeps.ite (fun _ => h1) (fun _ => State.settle_keeps h1)

theorem State.chErr_keeps {a s : State} {z1 : Nat} (h1 : Keeps a s) : Keeps a (State.chErr s z1) := by
  unfold State.chErr
  exact State.wr_keeps h1 (legal.reg rfl)

theorem execChEnable_keeps {a : State} {chan : Nat} {frozen : Nat} {s : State} (h3 : Keeps a s) : KeepsO a (execChEnable chan frozen s) := by
  unfold execChEnable
  exact State.asWrite_keeps h3 (@fun t100 h101 => KeepsO.ite (fun _ => KeepsO.next (State.settleChan_keeps (State.pump_keeps (State.modChan_keeps (State.wr_keeps h101 (legal.reg rfl)))))) (fun _ => KeepsO.next (State.chErr_keeps h101)))

theorem execChQuiesce_keeps {a : State} {chan : Nat} {s : State} (h2 : Keeps a s) : KeepsO a (execChQuiesce chan s) := by
  unfold execChQuiesce
  exact State.asWrite_keeps h2 (@fun t100 h101 => KeepsO.ite (fun _ => KeepsO.next (State.wr_keeps h101 (legal.reg rfl))) (fun _ => KeepsO.next (State.chErr_keeps h101)))

theorem execChannelQuiesced_keeps {a : State} {chan : Nat} {s : State} (h2 : Keeps a s) : KeepsO a (execChannelQuiesced chan s) := by
  unfold execChannelQuiesced
  exact KeepsO.ite (fun _ => KeepsO.next (State.wr_keeps h2 (legal.reg rfl))) (fun _ => KeepsO.next h2)

theorem State.chDisable_keeps {a s : State} {z1 : Nat} (h1 : Keeps a s) : Keeps a (State.chDisable s z1) := by
  unfold State.chDisable
  exact State.modChan_keeps (State.wr_keeps (State.wr_keeps h1 (legal.reg rfl)) (legal.reg rfl))

theorem execChDisable_keeps {a : State} {chan : Nat} {s : State} (h2 : Keeps a s) : KeepsO a (execChDisable chan s) := by
  unfold execChDisable
  exact State.asWrite_keeps h2 (@fun t100 h101 => KeepsO.ite (fun _ => KeepsO.next (State.chDisable_keeps h101)) (fun _ => KeepsO.next (State.chErr_keeps h101)))

theorem State.doorbell_keeps {a : State} {s0 : State} {chan : Nat} {value : BitVec 32} {merged : Bool} {frozen : Nat} (h1 : Keeps a s0) : Keeps a (State.doorbell s0 chan value merged frozen) := by
  unfold State.doorbell
  extract_lets +onlyGivenNames x100
  have h100 : Keeps a x100 := by
    unfold x100
    exact Keeps.ite (fun _ => State.bump_keeps h1 rfl) (fun _ => h1)
  clear_value x100
  extract_lets +onlyGivenNames x101
  extract_lets +onlyGivenNames x102
  refine Keeps.ite (fun _ => ?_) (fun _ => State.idError_keeps h100)
  extract_lets +onlyGivenNames x103
  exact State.settleChan_keeps (State.afterRoom_keeps (State.wr_keeps (State.wr_keeps h100 (legal.reg rfl)) (legal.reg rfl)))

theorem execChannelDoorbell_keeps {a : State} {chan : Nat} {value : BitVec 32} {merged : Bool} {frozen : Nat} {s : State} (h5 : Keeps a s) : KeepsO a (execChannelDoorbell chan value merged frozen s) := by
  unfold execChannelDoorbell
  refine KeepsO.ite (fun _ => KeepsO.next (State.doorbell_keeps h5)) (fun _ => ?_)
  refine KeepsO.next ?_
  exact Keeps.frame (s := s) h5 rfl rfl rfl rfl (Nat.le_refl _) (Nat.le_refl _) rfl rfl rfl

theorem State.consume_keeps {a s : State} {z1 : Nat} (h1 : Keeps a s) : Keeps a (State.consume s z1) := by
  unfold State.consume
  extract_lets +onlyGivenNames x100
  have h100 : Keeps a x100 := by
    unfold x100
    exact State.wr_keeps h1 (legal.reg rfl)
  clear_value x100
  exact Keeps.ite (fun _ => h100) (fun _ => State.emit_keeps h100)

theorem State.slotFetched_keeps {a s : State} {z1 : Nat} {b : List Byte} (h1 : Keeps a s) : Keeps a (State.slotFetched s z1 b) := by
  unfold State.slotFetched
  extract_lets +onlyGivenNames x100
  extract_lets +onlyGivenNames x101
  extract_lets +onlyGivenNames x102
  have h102 : Keeps2 a x102 := by
    unfold x102
    exact State.deepWrite_keeps h1
  clear_value x102
  split
  · exact State.mirrorError_keeps (Keeps2.snd h102)
  · exact State.receive_keeps (State.consume_keeps (Keeps2.snd h102))

theorem State.slotAssisted_keeps {a s : State} {z1 : Nat} (h1 : Keeps a s) : Keeps a (State.slotAssisted s z1) := by
  unfold State.slotAssisted
  extract_lets +onlyGivenNames x100
  extract_lets +onlyGivenNames x101
  have h101 : Keeps2 a x101 := by
    unfold x101
    exact State.deepFetch_keeps h1
  clear_value x101
  split
  · exact State.mirrorError_keeps (Keeps2.snd h101)
  · extract_lets +onlyGivenNames x102
    extract_lets +onlyGivenNames x103
    have h103 : Keeps a x103 := by
      unfold x103
      exact State.consume_keeps (Keeps2.snd h101)
    clear_value x103
    exact Keeps.ite (fun _ => State.partnerError_keeps h103) (fun _ => State.enqueueIn_keeps h103)

theorem execInboundSlotFetched_keeps {a : State} {chan : Nat} {bytes : List Byte} {frozen : Nat} {s : State} (h4 : Keeps a s) : KeepsO a (execInboundSlotFetched chan bytes frozen s) := by
  unfold execInboundSlotFetched
  exact KeepsO.ite (fun _ => KeepsO.next (State.settleChan_keeps (Keeps.ite (fun _ => State.slotAssisted_keeps h4) (fun _ => State.slotFetched_keeps h4)))) (fun _ => KeepsO.next h4)

theorem State.peerMessage_keeps {a s : State} {z1 : Nat} {b : List Byte} {frozen : Nat} (h1 : Keeps a s) : Keeps a (State.peerMessage s z1 b frozen) := by
  unfold State.peerMessage
  exact Keeps.ite (fun _ => State.settleChan_keeps (State.receive_keeps h1)) (fun _ => h1)

theorem execDataMessage_keeps {a : State} {chan : Nat} {bytes : List Byte} {frozen : Nat} {s : State} (h4 : Keeps a s) : KeepsO a (execDataMessage chan bytes frozen s) := by
  unfold execDataMessage
  exact KeepsO.next (State.peerMessage_keeps h4)

theorem execCreditMessage_keeps {a : State} {chan : Nat} {bytes : List Byte} {frozen : Nat} {s : State} (h4 : Keeps a s) : KeepsO a (execCreditMessage chan bytes frozen s) := by
  unfold execCreditMessage
  exact KeepsO.next (State.peerMessage_keeps h4)

theorem execOutboundCopyDone_keeps {a : State} {chan : Nat} {s : State} (h2 : Keeps a s) : KeepsO a (execOutboundCopyDone chan s) := by
  unfold execOutboundCopyDone
  split
  · exact KeepsO.next h2
  · refine KeepsO.ite (fun _ => ?_) (fun _ => KeepsO.next h2)
    extract_lets +onlyGivenNames x100
    extract_lets +onlyGivenNames x101
    extract_lets +onlyGivenNames x102
    have h102 : Keeps a x102 := by
      unfold x102
      exact State.emit_keeps h2
    clear_value x102
    extract_lets +onlyGivenNames x103
    have h103 : Keeps a x103 := by
      unfold x103
      exact State.modChan_keeps (State.wr_keeps h102 (legal.reg rfl))
    clear_value x103
    exact KeepsO.next (State.msix_keeps (State.emit_keeps h103))

theorem execMirrorBusError_keeps {a : State} {chan : Nat} {out : Bool} {cause : Nat} {seq : Nat} {s : State} (h5 : Keeps a s) : KeepsO a (execMirrorBusError chan out cause seq s) := by
  unfold execMirrorBusError
  refine KeepsO.ite (fun _ => ?_) (fun _ => KeepsO.next h5)
  extract_lets +onlyGivenNames x100
  exact KeepsO.next (State.mirrorError_keeps (State.faultAlarm_keeps h5))

theorem State.errorRecord_keeps {a s : State} {z1 : Nat} (h1 : Keeps a s) : Keeps a (State.errorRecord s z1) := by
  unfold State.errorRecord
  extract_lets +onlyGivenNames x100
  extract_lets +onlyGivenNames x101
  extract_lets +onlyGivenNames x102
  have h102 : Keeps a x102 := by
    unfold x102
    exact State.enqueueIn_keeps (State.modChan_keeps h1)
  clear_value x102
  exact State.advanceExpect_keeps h102

theorem State.giveUpOut_keeps {a s : State} {z1 : Nat} (h1 : Keeps a s) : Keeps a (State.giveUpOut s z1) := by
  unfold State.giveUpOut
  split
  · exact Keeps.ite (fun _ => State.setTurn_keeps h1) (fun _ => h1)
  · exact State.pump_keeps (State.chEvent_keeps (State.modChan_keeps h1))

theorem execChannelTimeout_keeps {a : State} {chan : Nat} {byMs : Bool} {frozen : Nat} {s : State} (h4 : Keeps a s) : KeepsO a (execChannelTimeout chan byMs frozen s) := by
  unfold execChannelTimeout
  extract_lets +onlyGivenNames x100
  extract_lets +onlyGivenNames x101
  extract_lets +onlyGivenNames x102
  extract_lets +onlyGivenNames x103
  extract_lets +onlyGivenNames x104
  refine KeepsO.ite (fun _ => ?_) (fun _ => KeepsO.next h4)
  extract_lets +onlyGivenNames x105
  extract_lets +onlyGivenNames x106
  extract_lets +onlyGivenNames x107
  have h107 : Keeps a x107 := by
    unfold x107
    exact State.modCamp_keeps (State.chError_keeps h4)
  clear_value x107
  extract_lets +onlyGivenNames x108
  have h108 : Keeps a x108 := by
    unfold x108
    exact State.modChan_keeps h107
  clear_value x108
  clear_value x104
  split
  · exact KeepsO.next h108
  · extract_lets +onlyGivenNames x109
    have h109 : Keeps a x109 := by
      unfold x109
      exact Keeps.ite (fun _ => State.errorRecord_keeps h108) (fun _ => h108)
    clear_value x109
    extract_lets +onlyGivenNames x110
    have h110 : Keeps a x110 := by
      unfold x110
      exact Keeps.ite (fun _ => State.giveUpOut_keeps h109) (fun _ => h109)
    clear_value x110
    exact KeepsO.next (State.settleChan_keeps (State.modChan_keeps h110))
  · exact KeepsO.next (State.haltCond_keeps h108)

theorem State.setKeep_keeps {a s : State} {camp : Nat} {keep : Nat} {frozen : Nat} (h1 : Keeps a s) : Keeps a (State.setKeep s camp keep frozen) := by
  unfold State.setKeep
  exact State.keepWritten_keeps (State.wr_keeps (State.wr_keeps h1 (legal.reg rfl)) (legal.reg rfl))

theorem execTsLogKeepWrite_keeps {a : State} {camp : Nat} {keep : Nat} {frozen : Nat} {s : State} (h4 : Keeps a s) : KeepsO a (execTsLogKeepWrite camp keep frozen s) := by
  unfold execTsLogKeepWrite
  exact State.asWrite_keeps h4 (@fun t100 h101 => KeepsO.next (State.setKeep_keeps (State.unhold_keeps h101)))

end Sys2Proof.Machine
end

