-- ==== Sys2Proof/Laws/KeepsCores.lean ====
section
/-! SUPPORT. Every operation and command of the channel cores passes `Keeps` on. -/

namespace Sys2Proof.Machine

set_option Elab.async false

theorem State.setReg_keeps {a s : State} {k : Nat} {r : Nat} {v : Word} (h1 : Keeps a s) : Keeps a (State.setReg s k r v) := by
  unfold State.setReg
  exact State.modCore_keeps h1

theorem State.showRun_keeps {a s : State} {k : Nat} (h1 : Keeps a s) : Keeps a (State.showRun s k) := by
  unfold State.showRun
  split
  · exact State.wrs_keeps h1 (fun _ _ => legal.reg rfl)
  · exact State.wrs_keeps h1 (fun _ _ => legal.reg rfl)

theorem State.freeCore_keeps {a s : State} {k : Nat} (h1 : Keeps a s) : Keeps a (State.freeCore s k) := by
  unfold State.freeCore
  extract_lets +onlyGivenNames x100
  have h100 : Keeps a x100 := by
    unfold x100
    exact State.showRun_keeps (State.modCore_keeps h1)
  clear_value x100
  exact Keeps.ite (fun _ => State.wr_keeps h100 (legal.reg rfl)) (fun _ => h100)

theorem State.saveCtx_keeps {a s : State} {k : Nat} {r : Run} {pc : Nat} (h1 : Keeps a s) : Keeps2 a (State.saveCtx s k r pc) := by
  unfold State.saveCtx
  exact State.deepWrite_keeps h1

theorem State.logTrap_keeps {a s : State} {k : Nat} {r : Run} {t : Trap} (h1 : Keeps a s) : Keeps a (State.logTrap s k r t) := by
  unfold State.logTrap
  exact State.irq_keeps (State.logEvent_keeps (State.bump_keeps h1 rfl) rfl (@fun t100 h101 => State.wr_keeps h101 (legal.reg rfl)))

theorem State.takeTrap_keeps {a : State} {s0 : State} {k : Nat} {t0 : Trap} (h1 : Keeps a s0) : Keeps a (State.takeTrap s0 k t0) := by
  unfold State.takeTrap
  split
  · exact h1
  · extract_lets +onlyGivenNames x100
    have h100 : Keeps2 a x100 := by
      unfold x100
      exact Keeps2.ite (fun _ => State.saveCtx_keeps h1) (fun _ => Keeps2.mk h1)
    clear_value x100
    extract_lets +onlyGivenNames x101
    extract_lets +onlyGivenNames x102
    have h102 : Keeps a x102 := by
      unfold x102
      exact State.traceTrap_keeps (State.logTrap_keeps (Keeps2.snd h100))
    clear_value x102
    refine Keeps.ite (fun _ => State.modCore_keeps (State.wr_keeps h102 (legal.reg rfl))) (fun _ => ?_)
    extract_lets +onlyGivenNames x103
    have h103 : Keeps a x103 := by
      unfold x103
      exact State.modCore_keeps h102
    clear_value x103
    exact State.traceBoundary_keeps (State.showRun_keeps h103)

theorem State.showStage_keeps {a s : State} (h1 : Keeps a s) : Keeps a (State.showStage s) := by
  unfold State.showStage
  extract_lets +onlyGivenNames x100
  exact State.wrs_keeps h1 (fun _ _ => legal.reg rfl)

theorem State.sendStaged_keeps {a s : State} {r : Staged} {frozen : Nat} (h1 : Keeps a s) : Keeps a (State.sendStaged s r frozen) := by
  unfold State.sendStaged
  exact Keeps.ite (fun _ => State.settleChan_keeps (State.enqueueIn_keeps h1)) (fun _ => State.pump_keeps (State.modChan_keeps h1))

theorem State.flushFlow_keeps {a s : State} (h : Keeps a s) {f frozen n : Nat} : Keeps a (s.flushFlow f frozen n) := by
  induction n generalizing s with
  | zero => exact h
  | succ n ih =>
    unfold State.flushFlow
    split
    · exact h
    · rename_i r _
      exact ih (State.sendStaged_keeps (Keeps.frame (s := s) h rfl rfl rfl rfl (Nat.le_refl _) (Nat.le_refl _) rfl rfl rfl))

theorem State.stageOpens_keeps {a s : State} (h1 : Keeps a s) : Keeps a (State.stageOpens s) := by
  unfold State.stageOpens
  exact State.forEach_keeps h1 (@fun t100 t101 h102 => State.chEvent_keeps (State.modChan_keeps h102))

theorem State.flush_keeps {a s : State} {f : Nat} {frozen : Nat} (h1 : Keeps a s) : Keeps a (State.flush s f frozen) := by
  unfold State.flush
  extract_lets +onlyGivenNames x100
  have h100 : Keeps a x100 := by
    unfold x100
    exact State.showStage_keeps (State.flushFlow_keeps h1)
  clear_value x100
  exact Keeps.ite (fun _ => State.stageOpens_keeps h100) (fun _ => h100)

theorem State.endTask_keeps {a s : State} {i : Nat} {cancelled : Bool} {cause : Nat} {frozen : Nat} (h1 : Keeps a s) : Keeps a (State.endTask s i cancelled cause frozen) := by
  unfold State.endTask
  extract_lets +onlyGivenNames x100
  extract_lets +onlyGivenNames x101
  have h101 : Keeps a x101 := by
    unfold x101
    exact State.modTask_keeps h1
  clear_value x101
  refine Keeps.ite (fun _ => h101) (fun _ => ?_)
  extract_lets +onlyGivenNames x102
  have h102 : Keeps a x102 := by
    unfold x102
    exact State.modFlow_keeps h101
  clear_value x102
  extract_lets +onlyGivenNames x103
  have h103 : Keeps a x103 := by
    unfold x103
    refine Keeps.ite (fun _ => ?_) (fun _ => h102)
    exact Keeps.frame (s := x102) h102 rfl rfl rfl rfl (Nat.le_refl _) (Nat.le_refl _) rfl rfl rfl
  clear_value x103
  exact State.flush_keeps h103

theorem execTaskCancel_keeps {a : State} {frozen : Nat} {s : State} (h2 : Keeps a s) : KeepsO a (execTaskCancel frozen s) := by
  unfold execTaskCancel
  refine State.asWrite_keeps h2 ?_
  intro t100 h101
  extract_lets +onlyGivenNames x102
  extract_lets +onlyGivenNames x103
  split
  · exact KeepsO.next (State.endTask_keeps h101)
  · refine KeepsO.next ?_
    refine State.endTask_keeps ?_
    refine State.modCore_keeps ?_
    exact Keeps.frame (s := t100) h101 rfl rfl rfl rfl (Nat.le_refl _) (Nat.le_refl _) rfl rfl rfl
  · exact KeepsO.next (State.fillSlot_keeps (State.endTask_keeps (State.modCore_keeps h101)))
  · exact KeepsO.next (State.modTask_keeps h101)
  · exact KeepsO.next (State.taskErr_keeps h101)

theorem State.fetch_keeps {a s : State} (h : Keeps a s) {k : Nat} {r : Run} {q : Option Trap × State} (e : s.fetch k r = some q) : Keeps2 a q := by
  unfold State.fetch at e
  extract_lets pc line at e
  split at e
  · cases e; exact h
  · split at e
    · cases e; exact h
    · split at e
      · cases e
      · have hw := Keeps2.snd (State.deepFetch_keeps h (src := 64 + k) (key := r.key) (z3 := pc) (n := 8))
        split at e
        · cases e; exact hw
        · cases e; exact State.modCore_keeps hw

theorem State.issue_keeps {a s : State} (h : Keeps a s) {k : Nat} {formOk : Bool} {uses : List Nat} {body : State → Run → Issue}
    (hb : ∀ {t r}, Keeps a t → KeepsI a (body t r)) : Keeps a (s.issue k formOk uses body) := by
  unfold State.issue
  split
  · exact h
  · rename_i r _
    extract_lets idle
    have hf : ∀ {q}, s.fetch k r = some q → Keeps2 a q := fun e => State.fetch_keeps h e
    split
    · exact h
    · rename_i e
      exact Keeps.ite (fun _ => State.takeTrap_keeps (hf e)) fun _ => h
    · rename_i e
      refine Keeps.ite (fun _ => h) fun _ => ?_
      extract_lets s2 res out
      have h2 : Keeps a s2 := State.traceBoundary_keeps (hf e)
      have hr : KeepsI a res := by
        unfold res
        split
        · exact hb h2
        · exact KeepsI.trap
      have ho : Keeps a out := by
        unfold out
        clear_value res
        cases res with
        | wait => exact h
        | trap t => exact Keeps.ite (fun _ => State.takeTrap_keeps h2) fun _ => h
        | go t pc => exact State.bump_keeps (State.modCore_keeps (show Keeps a t from hr)) rfl
        | left t => exact State.bump_keeps (show Keeps a t from hr) rfl
      exact Keeps.ite (fun _ => h) fun _ => ho

theorem State.issueT_keeps {a s : State} {k : Nat} {f : FmtT} {op : Word → Word → Word} (h1 : Keeps a s) : Keeps a (State.issueT s k f op) := by
  unfold State.issueT
  exact State.issue_keeps h1 (@fun t100 t101 h102 => KeepsI.go (State.setReg_keeps h102))

theorem State.issueK_keeps {a s : State} {k : Nat} {f : FmtK} {op : Word → BitVec 24 → Word} (h1 : Keeps a s) : Keeps a (State.issueK s k f op) := by
  unfold State.issueK
  exact State.issue_keeps h1 (@fun t100 t101 h102 => KeepsI.go (State.setReg_keeps h102))

theorem execAdd_keeps {a : State} {core : Nat} {f : FmtT} {s : State} (h3 : Keeps a s) : KeepsO a (execAdd core f s) := by
  unfold execAdd
  exact KeepsO.next (State.issueT_keeps h3)

theorem execSub_keeps {a : State} {core : Nat} {f : FmtT} {s : State} (h3 : Keeps a s) : KeepsO a (execSub core f s) := by
  unfold execSub
  exact KeepsO.next (State.issueT_keeps h3)

theorem execAnd_keeps {a : State} {core : Nat} {f : FmtT} {s : State} (h3 : Keeps a s) : KeepsO a (execAnd core f s) := by
  unfold execAnd
  exact KeepsO.next (State.issueT_keeps h3)

theorem execOr_keeps {a : State} {core : Nat} {f : FmtT} {s : State} (h3 : Keeps a s) : KeepsO a (execOr core f s) := by
  unfold execOr
  exact KeepsO.next (State.issueT_keeps h3)

theorem execXor_keeps {a : State} {core : Nat} {f : FmtT} {s : State} (h3 : Keeps a s) : KeepsO a (execXor core f s) := by
  unfold execXor
  exact KeepsO.next (State.issueT_keeps h3)

theorem execShl_keeps {a : State} {core : Nat} {f : FmtT} {s : State} (h3 : Keeps a s) : KeepsO a (execShl core f s) := by
  unfold execShl
  exact KeepsO.next (State.issueT_keeps h3)

theorem execShr_keeps {a : State} {core : Nat} {f : FmtT} {s : State} (h3 : Keeps a s) : KeepsO a (execShr core f s) := by
  unfold execShr
  exact KeepsO.next (State.issueT_keeps h3)

theorem execSar_keeps {a : State} {core : Nat} {f : FmtT} {s : State} (h3 : Keeps a s) : KeepsO a (execSar core f s) := by
  unfold execSar
  exact KeepsO.next (State.issueT_keeps h3)

theorem execCmp_keeps {a : State} {core : Nat} {f : FmtT} {s : State} (h3 : Keeps a s) : KeepsO a (execCmp core f s) := by
  unfold execCmp
  exact KeepsO.next (State.issue_keeps h3 (@fun t100 t101 h102 => KeepsI.go (State.setReg_keeps h102)))

theorem execMullo_keeps {a : State} {core : Nat} {f : FmtT} {s : State} (h3 : Keeps a s) : KeepsO a (execMullo core f s) := by
  unfold execMullo
  exact KeepsO.next (State.issueT_keeps h3)

theorem execMulhiu_keeps {a : State} {core : Nat} {f : FmtT} {s : State} (h3 : Keeps a s) : KeepsO a (execMulhiu core f s) := by
  unfold execMulhiu
  exact KeepsO.next (State.issueT_keeps h3)

theorem execAddi_keeps {a : State} {core : Nat} {f : FmtK} {s : State} (h3 : Keeps a s) : KeepsO a (execAddi core f s) := by
  unfold execAddi
  exact KeepsO.next (State.issueK_keeps h3)

theorem execAndi_keeps {a : State} {core : Nat} {f : FmtK} {s : State} (h3 : Keeps a s) : KeepsO a (execAndi core f s) := by
  unfold execAndi
  exact KeepsO.next (State.issueK_keeps h3)

theorem execOri_keeps {a : State} {core : Nat} {f : FmtK} {s : State} (h3 : Keeps a s) : KeepsO a (execOri core f s) := by
  unfold execOri
  exact KeepsO.next (State.issueK_keeps h3)

theorem execXori_keeps {a : State} {core : Nat} {f : FmtK} {s : State} (h3 : Keeps a s) : KeepsO a (execXori core f s) := by
  unfold execXori
  exact KeepsO.next (State.issueK_keeps h3)

theorem execShli_keeps {a : State} {core : Nat} {f : FmtK} {s : State} (h3 : Keeps a s) : KeepsO a (execShli core f s) := by
  unfold execShli
  exact KeepsO.next (State.issueK_keeps h3)

theorem execShri_keeps {a : State} {core : Nat} {f : FmtK} {s : State} (h3 : Keeps a s) : KeepsO a (execShri core f s) := by
  unfold execShri
  exact KeepsO.next (State.issueK_keeps h3)

theorem execSari_keeps {a : State} {core : Nat} {f : FmtK} {s : State} (h3 : Keeps a s) : KeepsO a (execSari core f s) := by
  unfold execSari
  exact KeepsO.next (State.issueK_keeps h3)

theorem execCmpiLt_keeps {a : State} {core : Nat} {f : FmtK} {s : State} (h3 : Keeps a s) : KeepsO a (execCmpiLt core f s) := by
  unfold execCmpiLt
  exact KeepsO.next (State.issueK_keeps h3)

theorem execCmpiLo_keeps {a : State} {core : Nat} {f : FmtK} {s : State} (h3 : Keeps a s) : KeepsO a (execCmpiLo core f s) := by
  unfold execCmpiLo
  exact KeepsO.next (State.issueK_keeps h3)

theorem execOrh_keeps {a : State} {core : Nat} {f : FmtK} {s : State} (h3 : Keeps a s) : KeepsO a (execOrh core f s) := by
  unfold execOrh
  exact KeepsO.next (State.issueK_keeps h3)

theorem execCall_keeps {a : State} {core : Nat} {f : FmtP} {s : State} (h3 : Keeps a s) : KeepsO a (execCall core f s) := by
  unfold execCall
  refine KeepsO.next ?_
  refine State.issue_keeps h3 ?_
  intro t100 t101 h102
  extract_lets +onlyGivenNames x103
  exact KeepsI.go (State.setReg_keeps (State.traceBranch_keeps h102))

theorem execCallr_keeps {a : State} {core : Nat} {f : FmtK} {s : State} (h3 : Keeps a s) : KeepsO a (execCallr core f s) := by
  unfold execCallr
  refine KeepsO.next ?_
  refine State.issue_keeps h3 ?_
  intro t100 t101 h102
  extract_lets +onlyGivenNames x103
  extract_lets +onlyGivenNames x104
  exact KeepsI.go (State.setReg_keeps (State.traceBranch_keeps h102))

theorem execGate_keeps {a : State} {core : Nat} {f : FmtK} {s : State} (h3 : Keeps a s) : KeepsO a (execGate core f s) := by
  unfold execGate
  exact KeepsO.next (State.issue_keeps h3 (@fun t100 t101 h102 => KeepsI.trap))

theorem execCodesync_keeps {a : State} {core : Nat} {f : FmtT} {s : State} (h3 : Keeps a s) : KeepsO a (execCodesync core f s) := by
  unfold execCodesync
  exact KeepsO.next (State.issue_keeps h3 (@fun t100 t101 h102 => KeepsI.ite (fun _ => KeepsI.go (State.modCore_keeps h102)) (fun _ => KeepsI.wait)))

theorem State.issueBr_keeps {a s : State} {k : Nat} {cond : Nat} {f : FmtP} (h1 : Keeps a s) : Keeps a (State.issueBr s k cond f) := by
  unfold State.issueBr
  refine State.issue_keeps h1 ?_
  intro t100 t101 h102
  extract_lets +onlyGivenNames x103
  exact KeepsI.ite (fun _ => KeepsI.go (State.traceBranch_keeps h102)) (fun _ => KeepsI.go (State.traceNotTaken_keeps h102))

theorem execBrEq_keeps {a : State} {core : Nat} {f : FmtP} {s : State} (h3 : Keeps a s) : KeepsO a (execBrEq core f s) := by
  unfold execBrEq
  exact KeepsO.next (State.issueBr_keeps h3)

theorem execBrNe_keeps {a : State} {core : Nat} {f : FmtP} {s : State} (h3 : Keeps a s) : KeepsO a (execBrNe core f s) := by
  unfold execBrNe
  exact KeepsO.next (State.issueBr_keeps h3)

theorem execBrLt_keeps {a : State} {core : Nat} {f : FmtP} {s : State} (h3 : Keeps a s) : KeepsO a (execBrLt core f s) := by
  unfold execBrLt
  exact KeepsO.next (State.issueBr_keeps h3)

theorem execBrGe_keeps {a : State} {core : Nat} {f : FmtP} {s : State} (h3 : Keeps a s) : KeepsO a (execBrGe core f s) := by
  unfold execBrGe
  exact KeepsO.next (State.issueBr_keeps h3)

theorem execBrLo_keeps {a : State} {core : Nat} {f : FmtP} {s : State} (h3 : Keeps a s) : KeepsO a (execBrLo core f s) := by
  unfold execBrLo
  exact KeepsO.next (State.issueBr_keeps h3)

theorem execBrHs_keeps {a : State} {core : Nat} {f : FmtP} {s : State} (h3 : Keeps a s) : KeepsO a (execBrHs core f s) := by
  unfold execBrHs
  exact KeepsO.next (State.issueBr_keeps h3)

theorem execBrBs_keeps {a : State} {core : Nat} {f : FmtP} {s : State} (h3 : Keeps a s) : KeepsO a (execBrBs core f s) := by
  unfold execBrBs
  exact KeepsO.next (State.issueBr_keeps h3)

theorem execBrBc_keeps {a : State} {core : Nat} {f : FmtP} {s : State} (h3 : Keeps a s) : KeepsO a (execBrBc core f s) := by
  unfold execBrBc
  exact KeepsO.next (State.issueBr_keeps h3)

theorem State.sendRecord_keeps {a s : State} {z1 : Nat} {task : Nat} {type : Nat} {ws : List Word} {frozen : Nat} (h1 : Keeps a s) : Keeps2 a (State.sendRecord s z1 task type ws frozen) := by
  unfold State.sendRecord
  extract_lets +onlyGivenNames x100
  extract_lets +onlyGivenNames x101
  refine Keeps2.ite (fun _ => ?_) (fun _ => ?_)
  · refine Keeps2.ite (fun _ => Keeps2.mk (State.modChan_keeps h1)) (fun _ => ?_)
    refine Keeps2.mk ?_
    refine State.showStage_keeps ?_
    exact Keeps.frame (s := s) h1 rfl rfl rfl rfl (Nat.le_refl _) (Nat.le_refl _) rfl rfl rfl
  · refine Keeps2.ite (fun _ => Keeps2.mk h1) (fun _ => ?_)
    refine Keeps2.ite (fun _ => Keeps2.mk (State.settleChan_keeps (State.enqueueIn_keeps h1))) (fun _ => ?_)
    extract_lets +onlyGivenNames x102
    have h102 : Keeps2 a x102 := by
      unfold x102
      exact State.sendData_keeps h1
    clear_value x102
    exact Keeps2.mk (Keeps2.snd h102)

theorem execCsend_keeps {a : State} {core : Nat} {f : FmtT} {frozen : Nat} {s : State} (h4 : Keeps a s) : KeepsO a (execCsend core f frozen s) := by
  unfold execCsend
  refine KeepsO.next ?_
  refine State.issue_keeps h4 ?_
  intro t100 t101 h102
  extract_lets +onlyGivenNames x103
  extract_lets +onlyGivenNames x104
  extract_lets +onlyGivenNames x105
  extract_lets +onlyGivenNames x106
  have h106 : ∀ { v0}, Keeps2 a v0 → KeepsI a (x106 v0) := by
    intro t107 h108
    unfold x106
    exact KeepsI.go (State.setReg_keeps (Keeps2.snd h108))
  clear_value x106
  extract_lets +onlyGivenNames x109
  refine KeepsI.ite (fun _ => h106 (Keeps2.mk h102)) (fun _ => ?_)
  split
  · exact KeepsI.trap
  · refine KeepsI.ite (fun _ => KeepsI.wait) (fun _ => ?_)
    extract_lets +onlyGivenNames x110
    have h110 : Keeps2 a x110 := by
      unfold x110
      exact State.deepFetch_keeps h102
    clear_value x110
    refine KeepsI.ite (fun _ => h106 (Keeps2.mk (Keeps2.snd h110))) (fun _ => ?_)
    extract_lets +onlyGivenNames x111
    exact h106 (State.sendRecord_keeps (Keeps2.snd h110))

theorem State.taskTaken_keeps {a s : State} {z1 : Nat} {frozen : Nat} (h1 : Keeps a s) : Keeps a (State.taskTaken s z1 frozen) := by
  unfold State.taskTaken
  exact Keeps.ite (fun _ => State.settleChan_keeps (State.modChan_keeps h1)) (fun _ => State.dropIn_keeps h1)

theorem execCrecv_keeps {a : State} {core : Nat} {f : FmtT} {frozen : Nat} {s : State} (h4 : Keeps a s) : KeepsO a (execCrecv core f frozen s) := by
  unfold execCrecv
  refine KeepsO.next ?_
  refine State.issue_keeps h4 ?_
  intro t100 t101 h102
  extract_lets +onlyGivenNames x103
  extract_lets +onlyGivenNames x104
  extract_lets +onlyGivenNames x105
  extract_lets +onlyGivenNames x106
  have h106 : ∀ { v0}, Keeps2 a v0 → KeepsI a (x106 v0) := by
    intro t107 h108
    unfold x106
    exact KeepsI.go (State.setReg_keeps (Keeps2.snd h108))
  clear_value x106
  refine KeepsI.ite (fun _ => h106 (Keeps2.mk h102)) (fun _ => ?_)
  split
  · exact h106 (Keeps2.mk h102)
  · extract_lets +onlyGivenNames x109
    split
    · exact KeepsI.trap
    · refine KeepsI.ite (fun _ => KeepsI.wait) (fun _ => ?_)
      extract_lets +onlyGivenNames x110
      have h110 : Keeps2 a x110 := by
        unfold x110
        exact State.deepWrite_keeps h102
      clear_value x110
      exact KeepsI.ite (fun _ => h106 (Keeps2.mk (Keeps2.snd h110))) (fun _ => h106 (Keeps2.mk (State.taskTaken_keeps (Keeps2.snd h110))))

theorem execEvset_keeps {a : State} {core : Nat} {f : FmtT} {s : State} (h3 : Keeps a s) : KeepsO a (execEvset core f s) := by
  unfold execEvset
  refine KeepsO.next ?_
  refine State.issue_keeps h3 ?_
  intro t100 t101 h102
  extract_lets +onlyGivenNames x103
  extract_lets +onlyGivenNames x104
  exact KeepsI.ite (fun _ => KeepsI.go (State.setReg_keeps h102)) (fun _ => KeepsI.go (State.setReg_keeps (State.setFlags_keeps h102)))

theorem State.yieldCtx_keeps {a s : State} {k : Nat} {r : Run} {pc : Nat} (h1 : Keeps a s) : Keeps2 a (State.yieldCtx s k r pc) := by
  unfold State.yieldCtx
  split
  · exact State.saveCtx_keeps h1
  · exact Keeps2.ite (fun _ => Keeps2.mk h1) (fun _ => State.saveCtx_keeps h1)

theorem State.leave_keeps {a s : State} {k : Nat} {r : Run} {mask : Option Word} {frozen : Nat} (h1 : Keeps a s) : KeepsI a (State.leave s k r mask frozen) := by
  unfold State.leave
  extract_lets +onlyGivenNames x100
  extract_lets +onlyGivenNames x101
  refine KeepsI.ite (fun _ => ?_) (fun _ => KeepsI.wait)
  refine KeepsI.ite (fun _ => KeepsI.left (State.endTask_keeps (State.freeCore_keeps (State.traceEnd_keeps h1)))) (fun _ => ?_)
  extract_lets +onlyGivenNames x102
  have h102 : Keeps2 a x102 := by
    unfold x102
    exact State.yieldCtx_keeps h1
  clear_value x102
  split
  · exact KeepsI.trap
  · split
    · exact KeepsI.left (State.makeReady_keeps (State.freeCore_keeps (State.traceEnd_keeps (Keeps2.snd h102))))
    · exact KeepsI.left (State.judge_keeps (State.modTask_keeps (State.freeCore_keeps (State.traceEnd_keeps (Keeps2.snd h102)))))

theorem execCwait_keeps {a : State} {core : Nat} {f : FmtT} {frozen : Nat} {s : State} (h4 : Keeps a s) : KeepsO a (execCwait core f frozen s) := by
  unfold execCwait
  refine KeepsO.next ?_
  refine State.issue_keeps h4 ?_
  intro t100 t101 h102
  extract_lets +onlyGivenNames x103
  exact KeepsI.ite (fun _ => KeepsI.go (State.modTask_keeps h102)) (fun _ => State.leave_keeps h102)

theorem execYield_keeps {a : State} {core : Nat} {f : FmtT} {frozen : Nat} {s : State} (h4 : Keeps a s) : KeepsO a (execYield core f frozen s) := by
  unfold execYield
  exact KeepsO.next (State.issue_keeps h4 (@fun t100 t101 h102 => State.leave_keeps h102))

theorem execDone_keeps {a : State} {core : Nat} {f : FmtT} {frozen : Nat} {s : State} (h4 : Keeps a s) : KeepsO a (execDone core f frozen s) := by
  unfold execDone
  refine KeepsO.next ?_
  refine State.issue_keeps h4 ?_
  intro t100 t101 h102
  refine KeepsI.ite (fun _ => ?_) (fun _ => KeepsI.wait)
  extract_lets +onlyGivenNames x103
  extract_lets +onlyGivenNames x104
  exact KeepsI.ite (fun _ => KeepsI.left (State.endTask_keeps (State.freeCore_keeps (State.traceEnd_keeps h102)))) (fun _ => KeepsI.left (State.endTask_keeps (State.freeCore_keeps (State.traceEnd_keeps h102))))

theorem execOrder_keeps {a : State} {core : Nat} {f : FmtK} {s : State} (h3 : Keeps a s) : KeepsO a (execOrder core f s) := by
  unfold execOrder
  exact KeepsO.next (State.issue_keeps h3 (@fun t100 t101 h102 => KeepsI.ite (fun _ => KeepsI.wait) (fun _ => KeepsI.go h102)))

theorem execRdcw_keeps {a : State} {core : Nat} {f : FmtQ} {s : State} (h3 : Keeps a s) : KeepsO a (execRdcw core f s) := by
  unfold execRdcw
  exact KeepsO.next (State.issue_keeps h3 (@fun t100 t101 h102 => privOr_keeps (KeepsI.go (State.setReg_keeps h102))))

theorem execWrcw_keeps {a : State} {core : Nat} {f : FmtQ} {s : State} (h3 : Keeps a s) : KeepsO a (execWrcw core f s) := by
  unfold execWrcw
  refine KeepsO.next ?_
  refine State.issue_keeps h3 ?_
  intro t100 t101 h102
  extract_lets +onlyGivenNames x103
  extract_lets +onlyGivenNames x104
  exact privOr_keeps (KeepsI.go (State.modCore_keeps h102))

theorem State.back_keeps {a s : State} {k : Nat} (h1 : Keeps a s) : KeepsI a (State.back s k) := by
  unfold State.back
  split
  · refine KeepsI.ite (fun _ => ?_) (fun _ => KeepsI.go (State.showRun_keeps (State.modCore_keeps (State.traceBranch_keeps h1))))
    extract_lets +onlyGivenNames x100
    extract_lets +onlyGivenNames x101
    have h101 : Keeps2 a x101 := by
      unfold x101
      exact State.deepFetch_keeps h1
    clear_value x101
    split
    · extract_lets +onlyGivenNames x102
      have h102 : Keeps a x102 := by
        unfold x102
        exact State.modCore_keeps (State.logTrap_keeps (Keeps2.snd h101))
      clear_value x102
      exact KeepsI.go h102
    · extract_lets +onlyGivenNames x103
      extract_lets +onlyGivenNames x104
      exact KeepsI.go (State.showRun_keeps (State.modCore_keeps (State.traceBranch_keeps (Keeps2.snd h101))))
  · exact KeepsI.go h1

theorem execBack_keeps {a : State} {core : Nat} {f : FmtQ} {s : State} (h3 : Keeps a s) : KeepsO a (execBack core f s) := by
  unfold execBack
  exact KeepsO.next (State.issue_keeps h3 (@fun t100 t101 h102 => privOr_keeps (KeepsI.ite (fun _ => State.back_keeps h102) (fun _ => KeepsI.wait))))

theorem State.enterSleep_keeps {a s : State} {k : Nat} (h1 : Keeps a s) : Keeps a (State.enterSleep s k) := by
  unfold State.enterSleep
  exact State.modCore_keeps (State.bump_keeps (State.wr_keeps (State.traceSleep_keeps h1) (legal.reg rfl)) rfl)

theorem execDoze_keeps {a : State} {core : Nat} {f : FmtQ} {s : State} (h3 : Keeps a s) : KeepsO a (execDoze core f s) := by
  unfold execDoze
  exact KeepsO.next (State.issue_keeps h3 (@fun t100 t101 h102 => privOr_keeps (KeepsI.go (State.enterSleep_keeps h102))))

theorem execSliceExpire_keeps {a : State} {core : Nat} {s : State} (h2 : Keeps a s) : KeepsO a (execSliceExpire core s) := by
  unfold execSliceExpire
  split
  · extract_lets +onlyGivenNames x100
    exact KeepsO.ite (fun _ => KeepsO.ite (fun _ => KeepsO.next (State.takeTrap_keeps (State.traceBoundary_keeps h2))) (fun _ => KeepsO.next (State.modCore_keeps h2))) (fun _ => KeepsO.next h2)
  · exact KeepsO.next h2

theorem execSleepEntry_keeps {a : State} {core : Nat} {s : State} (h2 : Keeps a s) : KeepsO a (execSleepEntry core s) := by
  unfold execSleepEntry
  exact KeepsO.ite (fun _ => KeepsO.next (State.enterSleep_keeps h2)) (fun _ => KeepsO.next h2)

theorem execCoreWakeDone_keeps {a : State} {core : Nat} {s : State} (h2 : Keeps a s) : KeepsO a (execCoreWakeDone core s) := by
  unfold execCoreWakeDone
  extract_lets +onlyGivenNames x100
  exact KeepsO.ite (fun _ => KeepsO.next (State.modCore_keeps (State.wr_keeps h2 (legal.reg rfl)))) (fun _ => KeepsO.next h2)

theorem execCcCtrlWake_keeps {a : State} {core : Nat} {s : State} (h2 : Keeps a s) : KeepsO a (execCcCtrlWake core s) := by
  unfold execCcCtrlWake
  exact State.asWrite_keeps h2 (@fun t100 h101 => KeepsO.ite (fun _ => KeepsO.next (State.modCore_keeps h101)) (fun _ => KeepsO.next h101))

theorem execCcEnableWrite_keeps {a : State} {core : Nat} {enable : Bool} {s : State} (h3 : Keeps a s) : KeepsO a (execCcEnableWrite core enable s) := by
  unfold execCcEnableWrite
  refine State.asWrite_keeps h3 ?_
  intro t100 h101
  extract_lets +onlyGivenNames x102
  have h102 : Keeps a x102 := by
    unfold x102
    exact State.wr_keeps h101 (legal.reg rfl)
  clear_value x102
  refine KeepsO.ite (fun _ => ?_) (fun _ => KeepsO.next (State.unlist_keeps (State.modCore_keeps h102)))
  extract_lets +onlyGivenNames x103
  have h103 : Keeps a x103 := by
    unfold x103
    exact Keeps.ite (fun _ => State.freeCore_keeps (State.wr_keeps h102 (legal.reg rfl))) (fun _ => h102)
  clear_value x103
  exact KeepsO.next (Keeps.ite (fun _ => State.relist_keeps h103) (fun _ => h103))

theorem State.domErr_keeps {a s : State} {d : Nat} (h1 : Keeps a s) : Keeps a (State.domErr s d) := by
  unfold State.domErr
  exact State.wr_keeps h1 (legal.reg rfl)

theorem execCcDomWrite_keeps {a : State} {dom : Nat} {w : DomWrite} {s : State} (h3 : Keeps a s) : KeepsO a (execCcDomWrite dom w s) := by
  unfold execCcDomWrite
  refine State.asWrite_keeps h3 ?_
  intro t100 h101
  refine KeepsO.ite (fun _ => KeepsO.next (State.domErr_keeps h101)) (fun _ => ?_)
  split
  · exact KeepsO.ite (fun _ => KeepsO.next (State.domErr_keeps h101)) (fun _ => KeepsO.next (State.wrs_keeps h101 (fun _ _ => legal.reg rfl)))
  · exact KeepsO.next (State.wrs_keeps h101 (fun _ _ => legal.reg rfl))
  · exact KeepsO.next (State.wr_keeps h101 (legal.reg rfl))

theorem execTaskDispatch_keeps {a : State} {core : Nat} {s : State} (h2 : Keeps a s) : KeepsO a (execTaskDispatch core s) := by
  unfold execTaskDispatch
  extract_lets +onlyGivenNames x100
  split
  · extract_lets +onlyGivenNames x101
    refine KeepsO.ite (fun _ => ?_) (fun _ => KeepsO.next h2)
    extract_lets +onlyGivenNames x102
    have h102 : Keeps a x102 := by
      unfold x102
      exact State.modCore_keeps h2
    clear_value x102
    extract_lets +onlyGivenNames x103
    have h103 : Keeps a x103 := by
      unfold x103
      exact State.modTask_keeps h102
    clear_value x103
    extract_lets +onlyGivenNames x104
    have h104 : Keeps a x104 := by
      unfold x104
      exact State.fillSlot_keeps (State.showRun_keeps (State.wr_keeps h103 (legal.reg rfl)))
    clear_value x104
    split
    · exact KeepsO.next (State.takeTrap_keeps h104)
    · exact KeepsO.next h104
  · exact KeepsO.next h2

end Sys2Proof.Machine
end

