-- ==== Sys2Proof/Laws/KeepsTime.lean ====
section
/-! SUPPORT. Every operation and command of fabric time, work units and the fetched schedule passes `Keeps` on. -/

namespace Sys2Proof.Machine

set_option Elab.async false

theorem State.modTime_keeps {a s : State} {f : TimeUnit → TimeUnit} (h1 : Keeps a s) : Keeps a (State.modTime s f) := by
  unfold State.modTime
  exact Keeps.frame (s := s) h1 rfl rfl rfl rfl (Nat.le_refl _) (Nat.le_refl _) rfl rfl rfl

theorem State.tmFlag_keeps {a s : State} {f : FName} (h1 : Keeps a s) : Keeps a (State.tmFlag s f) := by
  unfold State.tmFlag
  exact Keeps.ite (fun _ => h1) (fun _ => State.irq_keeps (State.wr_keeps h1 (legal.reg rfl)))

theorem State.follow_keeps {a s : State} {o : Nat × Nat × Nat × Nat} (h1 : Keeps a s) : Keeps a (State.follow s o) := by
  unfold State.follow
  exact State.wrs_keeps h1 (fun _ _ => legal.reg rfl)

theorem State.reparent_keeps {a s : State} (h1 : Keeps a s) : Keeps a (State.reparent s) := by
  unfold State.reparent
  refine Keeps.ite (fun _ => ?_) (fun _ => h1)
  split
  · exact State.follow_keeps h1
  · exact State.wrs_keeps h1 (fun _ _ => legal.reg rfl)

theorem State.offerGone_keeps {a s : State} {p : Nat} (h1 : Keeps a s) : Keeps a (State.offerGone s p) := by
  unfold State.offerGone
  exact Keeps.ite (fun _ => State.reparent_keeps (State.modTime_keeps h1)) (fun _ => h1)

theorem State.servo_keeps {a s : State} {e : Int} (h1 : Keeps a s) : Keeps a (State.servo s e) := by
  unfold State.servo
  extract_lets +onlyGivenNames x100
  extract_lets +onlyGivenNames x101
  extract_lets +onlyGivenNames x102
  exact State.wr_keeps (State.modTime_keeps h1) (legal.reg rfl)

theorem State.postOffset_keeps {a s : State} {e : Int} (h1 : Keeps a s) : Keeps a (State.postOffset s e) := by
  unfold State.postOffset
  exact State.bump_keeps (State.wr_keeps h1 (legal.reg rfl)) rfl

theorem State.lockStep_keeps {a s : State} {e : Int} (h1 : Keeps a s) : Keeps a (State.lockStep s e) := by
  unfold State.lockStep
  extract_lets +onlyGivenNames x100
  refine Keeps.ite (fun _ => ?_) (fun _ => Keeps.ite (fun _ => Keeps.ite (fun _ => State.tmFlag_keeps h1) (fun _ => State.wr_keeps h1 (legal.reg rfl))) (fun _ => h1))
  extract_lets +onlyGivenNames x101
  extract_lets +onlyGivenNames x102
  have h102 : Keeps a x102 := by
    unfold x102
    exact State.modTime_keeps h1
  clear_value x102
  exact Keeps.ite (fun _ => State.wr_keeps h102 (legal.reg rfl)) (fun _ => h102)

theorem State.sync_keeps {a s : State} {p : Nat} {offer : Bool} {root : Nat} {hops : Nat} {ns : Nat} {frac : Nat} (h1 : Keeps a s) : Keeps a (State.sync s p offer root hops ns frac) := by
  unfold State.sync
  extract_lets +onlyGivenNames x100
  have h100 : Keeps a x100 := by
    unfold x100
    exact State.modTime_keeps h1
  clear_value x100
  refine Keeps.ite (fun _ => State.offerGone_keeps h100) (fun _ => ?_)
  extract_lets +onlyGivenNames x101
  extract_lets +onlyGivenNames x102
  refine Keeps.ite (fun _ => State.tmFlag_keeps (State.bump_keeps (State.offerGone_keeps h100) rfl)) (fun _ => ?_)
  extract_lets +onlyGivenNames x103
  have h103 : Keeps a x103 := by
    unfold x103
    exact State.reparent_keeps (State.modTime_keeps h100)
  clear_value x103
  refine Keeps.ite (fun _ => ?_) (fun _ => h103)
  extract_lets +onlyGivenNames x104
  extract_lets +onlyGivenNames x105
  have h105 : Keeps a x105 := by
    unfold x105
    exact State.postOffset_keeps h103
  clear_value x105
  extract_lets +onlyGivenNames x106
  have h106 : Keeps a x106 := by
    unfold x106
    exact Keeps.ite (fun _ => State.servo_keeps h105) (fun _ => h105)
  clear_value x106
  exact State.lockStep_keeps h106

theorem execSync_keeps {a : State} {port : Nat} {offer : Bool} {root : Nat} {hops : Nat} {ns : Nat} {frac : Nat} {s : State} (h7 : Keeps a s) : KeepsO a (execSync port offer root hops ns frac s) := by
  unfold execSync
  exact KeepsO.next (Keeps.ite (fun _ => State.sync_keeps h7) (fun _ => h7))

theorem State.pair_keeps {a s : State} (h : Keeps a s) {p nsHi : Nat} {w : SyncWait} : Keeps a (s.pair p nsHi w) := by
  unfold State.pair
  extract_lets t
  refine Keeps.ite (fun _ => h) fun _ => Keeps.ite (fun _ => ?_) fun _ => Keeps.ite (fun _ => ?_) fun _ => h
  · exact State.modTime_keeps (State.follow_keeps (State.wr_keeps (Keeps.setNow h (Nat.mod_lt _ (by decide))) (legal.reg rfl)))
  · exact Keeps.ite (fun _ => State.modTime_keeps (State.follow_keeps (State.wr_keeps h (legal.reg rfl)))) fun _ => State.tmFlag_keeps (State.modTime_keeps h)

theorem execHigh_keeps {a : State} {port : Nat} {ns : Nat} {s : State} (h3 : Keeps a s) : KeepsO a (execHigh port ns s) := by
  unfold execHigh
  split
  · exact KeepsO.next h3
  · exact KeepsO.next (State.pair_keeps (State.modTime_keeps h3))

theorem execSyncTimer_keeps {a s : State} (h1 : Keeps a s) : KeepsO a (execSyncTimer s) := by
  unfold execSyncTimer
  exact KeepsO.ite (fun _ => KeepsO.next (State.forEach_keeps h1 (@fun t100 t101 h102 => State.sendSlot_keeps (State.sendSlot_keeps h102)))) (fun _ => KeepsO.next h1)

theorem State.becomeRoot_keeps {a s : State} (h1 : Keeps a s) : Keeps a (State.becomeRoot s) := by
  unfold State.becomeRoot
  exact State.wrs_keeps h1 (fun _ _ => legal.reg rfl)

theorem execAutoRootTimeout_keeps {a s : State} (h1 : Keeps a s) : KeepsO a (execAutoRootTimeout s) := by
  unfold execAutoRootTimeout
  exact KeepsO.ite (fun _ => KeepsO.next (State.becomeRoot_keeps h1)) (fun _ => KeepsO.next h1)

theorem State.tmCtrl_keeps {a s : State} {f : TmFields} (h1 : Keeps a s) : Keeps a (State.tmCtrl s f) := by
  unfold State.tmCtrl
  exact State.wrs_keeps h1 (fun _ _ => legal.reg rfl)

theorem State.tmErr_keeps {a s : State} (h1 : Keeps a s) : Keeps a (State.tmErr s) := by
  unfold State.tmErr
  exact State.wr_keeps h1 (legal.reg rfl)

theorem execTmRoot_keeps {a : State} {f : TmFields} {s : State} (h2 : Keeps a s) : KeepsO a (execTmRoot f s) := by
  unfold execTmRoot
  refine State.asWrite_keeps h2 ?_
  intro t100 h101
  extract_lets +onlyGivenNames x102
  have h102 : Keeps a x102 := by
    unfold x102
    exact State.tmCtrl_keeps h101
  clear_value x102
  exact KeepsO.next (Keeps.ite (fun _ => State.becomeRoot_keeps h102) (fun _ => State.tmErr_keeps h102))

theorem execTmReset_keeps {a : State} {f : TmFields} {s : State} (h2 : Keeps a s) : KeepsO a (execTmReset f s) := by
  unfold execTmReset
  exact State.asWrite_keeps h2 (@fun t100 h101 => KeepsO.next (State.modTime_keeps (State.wrs_keeps (State.tmCtrl_keeps h101) (fun _ _ => legal.reg rfl))))

theorem execTmLoad_keeps {a s : State} (h : Keeps a s) {f : TmFields} : KeepsO a (execTmLoad f s) :=
  State.asWrite_keeps h fun ht => KeepsO.next
    (Keeps.ite (fun _ => Keeps.setNow (State.tmCtrl_keeps ht) (Nat.mod_lt _ (by decide))) fun _ => State.tmErr_keeps (State.tmCtrl_keeps ht))

theorem execTmRateWrite_keeps {a : State} {value : Nat} {s : State} (h2 : Keeps a s) : KeepsO a (execTmRateWrite value s) := by
  unfold execTmRateWrite
  refine State.asWrite_keeps h2 ?_
  intro t100 h101
  refine KeepsO.ite (fun _ => ?_) (fun _ => KeepsO.next (State.tmErr_keeps h101))
  extract_lets +onlyGivenNames x102
  exact KeepsO.next (State.wr_keeps h101 (legal.reg rfl))

theorem execTmDtIncHiWrite_keeps {a : State} {camp : Nat} {hi : Nat} {s : State} (h3 : Keeps a s) : KeepsO a (execTmDtIncHiWrite camp hi s) := by
  unfold execTmDtIncHiWrite
  refine State.asWrite_keeps h3 ?_
  intro t100 h101
  refine KeepsO.ite (fun _ => KeepsO.next (State.wr_keeps h101 (legal.reg rfl))) (fun _ => ?_)
  extract_lets +onlyGivenNames x102
  extract_lets +onlyGivenNames x103
  have h103 : Keeps a x103 := by
    unfold x103
    exact State.modCamp_keeps (State.wr_keeps h101 (legal.reg rfl))
  clear_value x103
  refine KeepsO.ite (fun _ => ?_) (fun _ => KeepsO.next h103)
  extract_lets +onlyGivenNames x104
  have h104 : Keeps a x104 := by
    unfold x104
    exact State.wr_keeps (State.modCamp_keeps h103) (legal.reg rfl)
  clear_value x104
  exact KeepsO.next (State.forEach_keeps h104 (@fun t105 t106 h107 => State.originate_keeps h107))

theorem State.fireCmp_keeps {a s : State} {k : Nat} (h1 : Keeps a s) : Keeps a (State.fireCmp s k) := by
  unfold State.fireCmp
  extract_lets +onlyGivenNames x100
  have h100 : Keeps a x100 := by
    unfold x100
    exact State.wr_keeps h1 (legal.reg rfl)
  clear_value x100
  extract_lets +onlyGivenNames x101
  extract_lets +onlyGivenNames x102
  have h102 : Keeps a x102 := by
    unfold x102
    exact State.modTime_keeps h100
  clear_value x102
  extract_lets +onlyGivenNames x103
  have h103 : Keeps a x103 := by
    unfold x103
    exact Keeps.ite (fun _ => State.latchEvent_keeps h102) (fun _ => h102)
  clear_value x103
  extract_lets +onlyGivenNames x104
  have h104 : Keeps a x104 := by
    unfold x104
    exact Keeps.ite (fun _ => State.irq_keeps h103) (fun _ => h103)
  clear_value x104
  refine Keeps.ite (fun _ => ?_) (fun _ => State.wr_keeps h104 (legal.reg rfl))
  extract_lets +onlyGivenNames x105
  exact State.wr_keeps (State.wr_keeps h104 (legal.reg rfl)) (legal.reg rfl)

theorem execComparatorFire_keeps {a : State} {k : Nat} {s : State} (h2 : Keeps a s) : KeepsO a (execComparatorFire k s) := by
  unfold execComparatorFire
  exact KeepsO.next (Keeps.ite (fun _ => State.fireCmp_keeps h2) (fun _ => h2))

theorem execPulseWidthEnd_keeps {a : State} {pin : Nat} {s : State} (h2 : Keeps a s) : KeepsO a (execPulseWidthEnd pin s) := by
  unfold execPulseWidthEnd
  exact KeepsO.next (State.modTime_keeps h2)

theorem State.showTopo_keeps {a s : State} (h1 : Keeps a s) : Keeps a (State.showTopo s) := by
  unfold State.showTopo
  exact State.wrs_keeps h1 (fun _ _ => legal.reg rfl)

theorem State.topoChanged_keeps {a s : State} (h1 : Keeps a s) : Keeps a (State.topoChanged s) := by
  unfold State.topoChanged
  exact Keeps.ite (fun _ => State.irq_keeps (State.wr_keeps h1 (legal.reg rfl))) (fun _ => h1)

theorem State.putTopo_keeps {a s : State} {z1 : Nat} {t : Topo} (h1 : Keeps a s) : Keeps a (State.putTopo s z1 t) := by
  unfold State.putTopo
  extract_lets +onlyGivenNames x100
  extract_lets +onlyGivenNames x101
  have h101 : Keeps a x101 := by
    unfold x101
    exact State.showTopo_keeps (State.modFab_keeps h1)
  clear_value x101
  exact Keeps.ite (fun _ => h101) (fun _ => State.topoChanged_keeps h101)

theorem State.dropTopo_keeps {a s : State} {z1 : Nat} (h1 : Keeps a s) : Keeps a (State.dropTopo s z1) := by
  unfold State.dropTopo
  exact Keeps.ite (fun _ => State.topoChanged_keeps (State.showTopo_keeps (State.modFab_keeps h1))) (fun _ => h1)

theorem State.flood_keeps {a s : State} (h1 : Keeps a s) : Keeps a (State.flood s) := by
  unfold State.flood
  refine Keeps.ite (fun _ => ?_) (fun _ => h1)
  extract_lets +onlyGivenNames x100
  extract_lets +onlyGivenNames x101
  have h101 : Keeps a x101 := by
    unfold x101
    exact State.putTopo_keeps (State.modFab_keeps h1)
  clear_value x101
  exact State.forEach_keeps h101 (@fun t102 t103 h104 => State.sendFlit_keeps h104)

theorem State.setNbr_keeps {a s : State} {p : Nat} {st : Nat} (h1 : Keeps a s) : Keeps a (State.setNbr s p st) := by
  unfold State.setNbr
  extract_lets +onlyGivenNames x100
  refine Keeps.ite (fun _ => h1) (fun _ => ?_)
  extract_lets +onlyGivenNames x101
  have h101 : Keeps a x101 := by
    unfold x101
    exact State.wr_keeps h1 (legal.reg rfl)
  clear_value x101
  extract_lets +onlyGivenNames x102
  have h102 : Keeps a x102 := by
    unfold x102
    exact Keeps.ite (fun _ => State.irq_keeps (State.wr_keeps h101 (legal.reg rfl))) (fun _ => h101)
  clear_value x102
  exact State.flood_keeps (Keeps.ite (fun _ => State.offerGone_keeps h102) (fun _ => h102))

theorem State.sendHello_keeps {a s : State} {p : Nat} (h1 : Keeps a s) : Keeps a (State.sendHello s p) := by
  unfold State.sendHello
  exact Keeps.ite (fun _ => State.sendSlot_keeps h1) (fun _ => h1)

theorem State.setFbId_keeps {a s : State} {addr : Nat} {valid : Bool} (h1 : Keeps a s) : Keeps a (State.setFbId s addr valid) := by
  unfold State.setFbId
  extract_lets +onlyGivenNames x100
  have h100 : Keeps a x100 := by
    unfold x100
    exact State.wrs_keeps h1 (fun _ _ => legal.reg rfl)
  clear_value x100
  extract_lets +onlyGivenNames x101
  have h101 : Keeps a x101 := by
    unfold x101
    exact State.forEach_keeps h100 (@fun t102 t103 h104 => State.setNbr_keeps h104)
  clear_value x101
  extract_lets +onlyGivenNames x105
  have h105 : Keeps a x105 := by
    unfold x105
    exact State.forEach_keeps h101 (@fun t106 t107 h108 => State.sendHello_keeps h108)
  clear_value x105
  exact Keeps.ite (fun _ => h105) (fun _ => State.flood_keeps h105)

theorem State.wuEffect_keeps {a s : State} {k : Nat} {pre : Cluster} {op : WuOp} {f : WuFields} (h1 : Keeps a s) : Keeps a (State.wuEffect s k pre op f) := by
  unfold State.wuEffect
  extract_lets +onlyGivenNames x100
  have h100 : Keeps a x100 := by
    unfold x100
    exact State.modCluster_keeps h1
  clear_value x100
  split
  · exact h100
  · extract_lets +onlyGivenNames x101
    have h101 : Keeps2 a x101 := by
      unfold x101
      exact State.wuRead_keeps h100
    clear_value x101
    exact State.modCluster_keeps (Keeps2.snd h101)
  · refine Keeps.ite (fun _ => h100) (fun _ => ?_)
    extract_lets +onlyGivenNames x102
    extract_lets +onlyGivenNames x103
    split
    · exact State.wuWrite_keeps h100
    · exact State.wuAlias_keeps h100
    · exact State.wuAlias_keeps h100
  · exact State.modCluster_keeps h100
  · exact State.modCluster_keeps h100
  · split
    · exact State.modCluster_keeps h100
    · exact h100
  · extract_lets +onlyGivenNames x104
    extract_lets +onlyGivenNames x105
    extract_lets +onlyGivenNames x106
    have h106 : Keeps2 a x106 := by
      unfold x106
      exact State.wuRead_keeps h100
    clear_value x106
    extract_lets +onlyGivenNames x107
    have h107 : Keeps a x107 := by
      unfold x107
      exact State.modCluster_keeps (State.wuWrite_keeps (Keeps2.snd h106))
    clear_value x107
    exact State.wr_keeps h107 (legal.reg rfl)
  · exact State.modCluster_keeps h100

theorem State.wuTurn_keeps {a s : State} {c : Nat} {k : Nat} {n : Nat} {op : Option WuOp} {f : WuFields} (h1 : Keeps a s) : Keeps a (State.wuTurn s c k n op f) := by
  unfold State.wuTurn
  extract_lets +onlyGivenNames x100
  extract_lets +onlyGivenNames x101
  have h101 : Keeps a x101 := by
    unfold x101
    exact State.modCluster_keeps h1
  clear_value x101
  split
  · exact State.logFault_keeps h101
  · split
    · exact State.logFault_keeps h101
    · exact State.wuEffect_keeps h101

theorem State.runWu_keeps {a s : State} {loc : ClusterSite} {op : WuOp} {f : WuFields} (h1 : Keeps a s) : Keeps a (State.runWu s loc op f) := by
  unfold State.runWu
  extract_lets +onlyGivenNames x100
  split
  · exact h1
  · exact State.haltIfFrozen_keeps (State.wuTurn_keeps h1)

theorem execMulResultWrite_keeps {a : State} {loc : ClusterSite} {s : State} (h2 : Keeps a s) : KeepsO a (execMulResultWrite loc s) := by
  unfold execMulResultWrite
  extract_lets +onlyGivenNames x100
  split
  · exact KeepsO.next h2
  · exact KeepsO.next (State.modCluster_keeps h2)

theorem execWuNop_keeps {a : State} {loc : ClusterSite} {f : WuFields} {s : State} (h3 : Keeps a s) : KeepsO a (execWuNop loc f s) := by
  unfold execWuNop
  exact KeepsO.next (State.runWu_keeps h3)

theorem execWuAdd_keeps {a : State} {loc : ClusterSite} {f : WuFields} {s : State} (h3 : Keeps a s) : KeepsO a (execWuAdd loc f s) := by
  unfold execWuAdd
  exact KeepsO.next (State.runWu_keeps h3)

theorem execWuSub_keeps {a : State} {loc : ClusterSite} {f : WuFields} {s : State} (h3 : Keeps a s) : KeepsO a (execWuSub loc f s) := by
  unfold execWuSub
  exact KeepsO.next (State.runWu_keeps h3)

theorem execWuCarry_keeps {a : State} {loc : ClusterSite} {f : WuFields} {s : State} (h3 : Keeps a s) : KeepsO a (execWuCarry loc f s) := by
  unfold execWuCarry
  exact KeepsO.next (State.runWu_keeps h3)

theorem execWuBorrow_keeps {a : State} {loc : ClusterSite} {f : WuFields} {s : State} (h3 : Keeps a s) : KeepsO a (execWuBorrow loc f s) := by
  unfold execWuBorrow
  exact KeepsO.next (State.runWu_keeps h3)

theorem execWuAnd_keeps {a : State} {loc : ClusterSite} {f : WuFields} {s : State} (h3 : Keeps a s) : KeepsO a (execWuAnd loc f s) := by
  unfold execWuAnd
  exact KeepsO.next (State.runWu_keeps h3)

theorem execWuOr_keeps {a : State} {loc : ClusterSite} {f : WuFields} {s : State} (h3 : Keeps a s) : KeepsO a (execWuOr loc f s) := by
  unfold execWuOr
  exact KeepsO.next (State.runWu_keeps h3)

theorem execWuXor_keeps {a : State} {loc : ClusterSite} {f : WuFields} {s : State} (h3 : Keeps a s) : KeepsO a (execWuXor loc f s) := by
  unfold execWuXor
  exact KeepsO.next (State.runWu_keeps h3)

theorem execWuAndn_keeps {a : State} {loc : ClusterSite} {f : WuFields} {s : State} (h3 : Keeps a s) : KeepsO a (execWuAndn loc f s) := by
  unfold execWuAndn
  exact KeepsO.next (State.runWu_keeps h3)

theorem execWuShl_keeps {a : State} {loc : ClusterSite} {f : WuFields} {s : State} (h3 : Keeps a s) : KeepsO a (execWuShl loc f s) := by
  unfold execWuShl
  exact KeepsO.next (State.runWu_keeps h3)

theorem execWuShr_keeps {a : State} {loc : ClusterSite} {f : WuFields} {s : State} (h3 : Keeps a s) : KeepsO a (execWuShr loc f s) := by
  unfold execWuShr
  exact KeepsO.next (State.runWu_keeps h3)

theorem execWuSar_keeps {a : State} {loc : ClusterSite} {f : WuFields} {s : State} (h3 : Keeps a s) : KeepsO a (execWuSar loc f s) := by
  unfold execWuSar
  exact KeepsO.next (State.runWu_keeps h3)

theorem execWuRol_keeps {a : State} {loc : ClusterSite} {f : WuFields} {s : State} (h3 : Keeps a s) : KeepsO a (execWuRol loc f s) := by
  unfold execWuRol
  exact KeepsO.next (State.runWu_keeps h3)

theorem execWuRor_keeps {a : State} {loc : ClusterSite} {f : WuFields} {s : State} (h3 : Keeps a s) : KeepsO a (execWuRor loc f s) := by
  unfold execWuRor
  exact KeepsO.next (State.runWu_keeps h3)

theorem execWuCmpeq_keeps {a : State} {loc : ClusterSite} {f : WuFields} {s : State} (h3 : Keeps a s) : KeepsO a (execWuCmpeq loc f s) := by
  unfold execWuCmpeq
  exact KeepsO.next (State.runWu_keeps h3)

theorem execWuCmpltu_keeps {a : State} {loc : ClusterSite} {f : WuFields} {s : State} (h3 : Keeps a s) : KeepsO a (execWuCmpltu loc f s) := by
  unfold execWuCmpltu
  exact KeepsO.next (State.runWu_keeps h3)

theorem execWuCmplts_keeps {a : State} {loc : ClusterSite} {f : WuFields} {s : State} (h3 : Keeps a s) : KeepsO a (execWuCmplts loc f s) := by
  unfold execWuCmplts
  exact KeepsO.next (State.runWu_keeps h3)

theorem execWuSel_keeps {a : State} {loc : ClusterSite} {f : WuFields} {s : State} (h3 : Keeps a s) : KeepsO a (execWuSel loc f s) := by
  unfold execWuSel
  exact KeepsO.next (State.runWu_keeps h3)

theorem execWuBsel_keeps {a : State} {loc : ClusterSite} {f : WuFields} {s : State} (h3 : Keeps a s) : KeepsO a (execWuBsel loc f s) := by
  unfold execWuBsel
  exact KeepsO.next (State.runWu_keeps h3)

theorem execWuExt_keeps {a : State} {loc : ClusterSite} {f : WuFields} {s : State} (h3 : Keeps a s) : KeepsO a (execWuExt loc f s) := by
  unfold execWuExt
  exact KeepsO.next (State.runWu_keeps h3)

theorem execWuDep_keeps {a : State} {loc : ClusterSite} {f : WuFields} {s : State} (h3 : Keeps a s) : KeepsO a (execWuDep loc f s) := by
  unfold execWuDep
  exact KeepsO.next (State.runWu_keeps h3)

theorem execWuMullo_keeps {a : State} {loc : ClusterSite} {f : WuFields} {s : State} (h3 : Keeps a s) : KeepsO a (execWuMullo loc f s) := by
  unfold execWuMullo
  exact KeepsO.next (State.runWu_keeps h3)

theorem execWuMulhiu_keeps {a : State} {loc : ClusterSite} {f : WuFields} {s : State} (h3 : Keeps a s) : KeepsO a (execWuMulhiu loc f s) := by
  unfold execWuMulhiu
  exact KeepsO.next (State.runWu_keeps h3)

theorem execWuMulhis_keeps {a : State} {loc : ClusterSite} {f : WuFields} {s : State} (h3 : Keeps a s) : KeepsO a (execWuMulhis loc f s) := by
  unfold execWuMulhis
  exact KeepsO.next (State.runWu_keeps h3)

theorem execWuLdm_keeps {a : State} {loc : ClusterSite} {f : WuFields} {s : State} (h3 : Keeps a s) : KeepsO a (execWuLdm loc f s) := by
  unfold execWuLdm
  exact KeepsO.next (State.runWu_keeps h3)

theorem execWuStm_keeps {a : State} {loc : ClusterSite} {f : WuFields} {s : State} (h3 : Keeps a s) : KeepsO a (execWuStm loc f s) := by
  unfold execWuStm
  exact KeepsO.next (State.runWu_keeps h3)

theorem execWuPack_keeps {a : State} {loc : ClusterSite} {f : WuFields} {s : State} (h3 : Keeps a s) : KeepsO a (execWuPack loc f s) := by
  unfold execWuPack
  exact KeepsO.next (State.runWu_keeps h3)

theorem execWuUnpack_keeps {a : State} {loc : ClusterSite} {f : WuFields} {s : State} (h3 : Keeps a s) : KeepsO a (execWuUnpack loc f s) := by
  unfold execWuUnpack
  exact KeepsO.next (State.runWu_keeps h3)

theorem execWuXec_keeps {a : State} {loc : ClusterSite} {f : WuFields} {s : State} (h3 : Keeps a s) : KeepsO a (execWuXec loc f s) := by
  unfold execWuXec
  exact KeepsO.next (State.runWu_keeps h3)

theorem execWuShift_keeps {a : State} {loc : ClusterSite} {f : WuFields} {s : State} (h3 : Keeps a s) : KeepsO a (execWuShift loc f s) := by
  unfold execWuShift
  exact KeepsO.next (State.runWu_keeps h3)

theorem State.noteHolds_keeps {a s : State} (h1 : Keeps a s) : Keeps a (State.noteHolds s) := by
  unfold State.noteHolds
  exact Keeps.frame (s := s) h1 rfl rfl rfl rfl (Nat.le_refl _) (Nat.le_refl _) rfl rfl rfl

theorem State.beginCycle_keeps {a s : State} {c : Nat} {d : Nat} (h1 : Keeps a s) : Keeps a (State.beginCycle s c d) := by
  unfold State.beginCycle
  extract_lets +onlyGivenNames x100
  extract_lets +onlyGivenNames x101
  split
  · refine Keeps.ite (fun _ => ?_) (fun _ => State.raiseStall_keeps h1)
    extract_lets +onlyGivenNames x102
    extract_lets +onlyGivenNames x103
    have h103 : Keeps a x103 := by
      unfold x103
      exact State.modGroup_keeps h1
    clear_value x103
    exact State.wrs_keeps h103 (fun _ _ => legal.reg rfl)
  · exact State.raiseStall_keeps h1

theorem State.fetchBp_keeps {a s : State} {c : Nat} {n : Nat} {obs : StepObs} {k : Nat} {b : Nat} (h1 : Keeps a s) : Keeps a (State.fetchBp s c n obs k b) := by
  unfold State.fetchBp
  extract_lets +onlyGivenNames x100
  exact Keeps.ite (fun _ => State.modCluster_keeps h1) (fun _ => State.bpTurn_keeps h1)

theorem State.fetchWu_keeps {a s : State} {c : Nat} {n : Nat} {obs : StepObs} {k : Nat} (h1 : Keeps a s) : Keeps a (State.fetchWu s c n obs k) := by
  unfold State.fetchWu
  extract_lets +onlyGivenNames x100
  extract_lets +onlyGivenNames x101
  exact Keeps.ite (fun _ => State.modCluster_keeps h1) (fun _ => State.wuTurn_keeps h1)

theorem State.stepCluster_keeps {a s : State} {c : Nat} {n : Nat} {obs : StepObs} {k : Nat} (h1 : Keeps a s) : Keeps a (State.stepCluster s c n obs k) := by
  unfold State.stepCluster
  extract_lets +onlyGivenNames x100
  extract_lets +onlyGivenNames x101
  have h101 : Keeps a x101 := by
    unfold x101
    exact State.forEach_keeps h1 (@fun t102 t103 h104 => State.fetchBp_keeps h104)
  clear_value x101
  extract_lets +onlyGivenNames x105
  have h105 : Keeps a x105 := by
    unfold x105
    exact Keeps.ite (fun _ => h101) (fun _ => State.fetchWu_keeps h101)
  clear_value x105
  exact State.modCluster_keeps h105

theorem State.applyDrive_keeps {a s : State} {c : Nat} {n : Nat} {e : Drive} (h1 : Keeps a s) : Keeps a (State.applyDrive s c n e) := by
  unfold State.applyDrive
  split
  · exact Keeps.ite (fun _ => State.modCluster_keeps h1) (fun _ => h1)
  · exact h1
  · split
    · exact h1
    · exact State.modCluster_keeps h1

theorem State.routerDrives_keeps {a s : State} {c : Nat} {d : Nat} {n : Nat} {obs : StepObs} (h1 : Keeps a s) : Keeps2 a (State.routerDrives s c d n obs) := by
  unfold State.routerDrives
  refine foldl_keeps2 ?_ (Keeps2.mk h1)
  intro t100 t101 h102
  extract_lets +onlyGivenNames x103
  extract_lets +onlyGivenNames x104
  extract_lets +onlyGivenNames x105
  have h105 : Keeps a x105 := by
    unfold x105
    exact State.forEach_keeps (Keeps2.snd h102) (@fun t106 t107 h108 => State.logConflict_keeps h108)
  clear_value x105
  exact Keeps2.mk h105

theorem State.logXing_keeps {a s : State} {c : Nat} {d : Nat} {n : Nat} {e : Nat × Xing} (h1 : Keeps a s) : Keeps a (State.logXing s c d n e) := by
  unfold State.logXing
  extract_lets +onlyGivenNames x100
  extract_lets +onlyGivenNames x101
  have h101 : Keeps a x101 := by
    unfold x101
    exact State.bump_keeps h1 rfl
  clear_value x101
  extract_lets +onlyGivenNames x102
  have h102 : Keeps a x102 := by
    unfold x102
    exact State.logIn_keeps h101 rfl (@fun t103 h104 => State.wr_keeps h104 (legal.reg rfl))
  clear_value x102
  exact State.campFault_keeps h102

theorem State.departXings_keeps {a s : State} {c : Nat} {d : Nat} {n : Nat} {drives : List Drive} (h1 : Keeps a s) : Keeps a (State.departXings s c d n drives) := by
  unfold State.departXings
  refine State.forEach_keeps h1 ?_
  intro t100 t101 h102
  extract_lets +onlyGivenNames x103
  exact State.modCamp_keeps h102

theorem State.sendReady_keeps {a s : State} (h : Keeps a s) {c n : Nat} : Keeps a (s.sendReady c n) := by
  induction n generalizing s with
  | zero => exact h
  | succ n ih =>
    unfold State.sendReady
    split
    · exact h
    · exact ih (Keeps.ite (fun _ => State.sendFlit_keeps (State.modCamp_keeps h)) fun _ => State.modCamp_keeps h)

theorem State.portItems_keeps {a s : State} {c : Nat} {p : Nat} {d : DataPay} {v : BitVec 16} (h1 : Keeps a s) : Keeps a (State.portItems s c p d v) := by
  unfold State.portItems
  extract_lets +onlyGivenNames x100
  have h100 : Keeps a x100 := by
    unfold x100
    exact State.forEach_keeps h1 (@fun t101 t102 h103 => State.modCamp_keeps h103)
  clear_value x100
  exact State.sendReady_keeps h100

theorem State.takeEarly_keeps {a s : State} {c : Nat} (h1 : Keeps a s) : Keeps a (State.takeEarly s c) := by
  unfold State.takeEarly
  split
  · exact h1
  · extract_lets +onlyGivenNames x100
    extract_lets +onlyGivenNames x101
    exact State.forEach_keeps (State.modCamp_keeps h1) (@fun t102 t103 h104 => State.portItems_keeps h104)

theorem State.arriveXings_keeps {a s : State} {c : Nat} {d : Nat} {n : Nat} (h1 : Keeps a s) : Keeps a (State.arriveXings s c d n) := by
  unfold State.arriveXings
  exact State.modCamp_keeps h1

theorem State.contractEvent_keeps {a s : State} {c : Nat} {cyc : Nat} {code : Nat} {island : Nat} {step : Nat} {more : State → State} (h1 : Keeps a s) (h7 : ∀ { v0}, Keeps a v0 → Keeps a (more v0)) : Keeps a (State.contractEvent s c cyc code island step more) := by
  unfold State.contractEvent
  extract_lets +onlyGivenNames x100
  exact State.logIn_keeps (State.bump_keeps h1 rfl) rfl (@fun t101 h102 => h7 (State.wr_keeps h102 (legal.reg rfl)))

theorem State.issueDeep_keeps {a s : State} {c : Nat} {p : Nat} {idx : Nat} {n : Nat} {f : DeepFields} (h1 : Keeps a s) : Keeps a (State.issueDeep s c p idx n f) := by
  unfold State.issueDeep
  extract_lets +onlyGivenNames x100
  extract_lets +onlyGivenNames x101
  extract_lets +onlyGivenNames x102
  refine Keeps.ite (fun _ => ?_) (fun _ => ?_)
  · extract_lets +onlyGivenNames x103
    have h103 : Keeps a x103 := by
      unfold x103
      refine State.campFault_keeps ?_
      refine State.contractEvent_keeps h1 ?_
      intro t104 h105
      unfold id
      exact h105
    clear_value x103
    exact Keeps.ite (fun _ => h103) (fun _ => State.modCamp_keeps h103)
  · extract_lets +onlyGivenNames x106
    extract_lets +onlyGivenNames x107
    extract_lets +onlyGivenNames x108
    have h108 : Keeps a x108 := by
      unfold x108
      exact State.modCamp_keeps h1
    clear_value x108
    exact Keeps.ite (fun _ => h108) (fun _ => State.modCamp_keeps h108)

theorem State.issueDeeps_keeps {a s : State} {c : Nat} {d : Nat} {n : Nat} (h1 : Keeps a s) : Keeps a (State.issueDeeps s c d n) := by
  unfold State.issueDeeps
  refine State.forEach_keeps h1 ?_
  intro t100 t101 h102
  refine State.forEach_keeps h102 ?_
  intro t103 t104 h105
  extract_lets +onlyGivenNames x106
  exact Keeps.ite (fun _ => State.issueDeep_keeps h105) (fun _ => h105)

theorem State.deliverDeep_keeps {a s : State} {c : Nat} {n : Nat} {drives : List Drive} {before : List DeepRead} {r : DeepRead} (h1 : Keeps a s) : Keeps a (State.deliverDeep s c n drives before r) := by
  unfold State.deliverDeep
  extract_lets +onlyGivenNames x100
  extract_lets +onlyGivenNames x101
  refine State.forEach_keeps h1 ?_
  intro t102 t103 h104
  extract_lets +onlyGivenNames x105
  extract_lets +onlyGivenNames x106
  exact Keeps.ite (fun _ => State.logConflict_keeps h104) (fun _ => State.modCluster_keeps h104)

theorem State.deliverDeeps_keeps {a s : State} {c : Nat} {d : Nat} {n : Nat} {drives : List Drive} (h1 : Keeps a s) : Keeps a (State.deliverDeeps s c d n drives) := by
  unfold State.deliverDeeps
  extract_lets +onlyGivenNames x100
  extract_lets +onlyGivenNames x101
  have h101 : Keeps a x101 := by
    unfold x101
    exact State.forEach_keeps h1 (@fun t102 t103 h104 => State.deliverDeep_keeps h104)
  clear_value x101
  exact State.modCamp_keeps h101

theorem State.setHigh_keeps {a s : State} {c : Nat} {sh : Share} {z3 : Option Stall} (h1 : Keeps a s) : Keeps a (State.setHigh s c sh z3) := by
  unfold State.setHigh
  exact State.modCamp_keeps h1

theorem State.raiseHigh_keeps {a s : State} {c : Nat} {d : Nat} {edge : Nat} (h1 : Keeps a s) : Keeps a (State.raiseHigh s c d edge) := by
  unfold State.raiseHigh
  refine State.forEach_keeps h1 ?_
  intro t100 t101 h102
  refine Keeps.ite (fun _ => ?_) (fun _ => h102)
  extract_lets +onlyGivenNames x103
  exact State.raiseStall_keeps (State.setHigh_keeps h102)

theorem State.releaseHigh_keeps {a s : State} {c : Nat} {d : Nat} {frozen : Nat} (h1 : Keeps a s) : Keeps a (State.releaseHigh s c d frozen) := by
  unfold State.releaseHigh
  extract_lets +onlyGivenNames x100
  exact State.releaseStalls_keeps (foldl_keeps (@fun t101 t102 h103 => State.setHigh_keeps h103) h1)

theorem State.doStep_keeps {a s : State} {c : Nat} {d : Nat} {n : Nat} {obs : StepObs} (h1 : Keeps a s) : Keeps a (State.doStep s c d n obs) := by
  unfold State.doStep
  extract_lets +onlyGivenNames x100
  extract_lets +onlyGivenNames x101
  have h101 : Keeps a x101 := by
    unfold x101
    exact State.forEach_keeps h1 (@fun t102 t103 h104 => Keeps.ite (fun _ => State.fetchUpset_keeps h104) (fun _ => h104))
  clear_value x101
  extract_lets +onlyGivenNames x105
  have h105 : Keeps a x105 := by
    unfold x105
    exact State.forEach_keeps h101 (@fun t106 t107 h108 => State.forEach_keeps h108 (@fun t109 t110 h111 => State.voteEvent_keeps h111))
  clear_value x105
  extract_lets +onlyGivenNames x112
  have h112 : Keeps a x112 := by
    unfold x112
    exact State.forEach_keeps h105 (@fun t113 t114 h115 => State.stepCluster_keeps h115)
  clear_value x112
  extract_lets +onlyGivenNames x116
  have h116 : Keeps2 a x116 := by
    unfold x116
    exact State.routerDrives_keeps h112
  clear_value x116
  extract_lets +onlyGivenNames x117
  have h117 : Keeps a x117 := by
    unfold x117
    exact State.forEach_keeps (Keeps2.snd h116) (@fun t118 t119 h120 => State.applyDrive_keeps h120)
  clear_value x117
  extract_lets +onlyGivenNames x121
  have h121 : Keeps a x121 := by
    unfold x121
    exact State.forEach_keeps (State.arriveXings_keeps (State.departXings_keeps h117)) (@fun t122 t123 h124 => State.logXing_keeps h124)
  clear_value x121
  extract_lets +onlyGivenNames x125
  have h125 : Keeps a x125 := by
    unfold x125
    exact State.deliverDeeps_keeps (State.issueDeeps_keeps h121)
  clear_value x125
  extract_lets +onlyGivenNames x126
  have h126 : Keeps a x126 := by
    unfold x126
    exact State.forEach_keeps (State.probeStep_keeps (State.sendReady_keeps h125)) (@fun t127 t128 h129 => State.modCluster_keeps h129)
  clear_value x126
  extract_lets +onlyGivenNames x130
  have h130 : Keeps a x130 := by
    unfold x130
    exact State.modGroup_keeps h126
  clear_value x130
  extract_lets +onlyGivenNames x131
  have h131 : Keeps a x131 := by
    unfold x131
    exact Keeps.ite (fun _ => State.chargeSteps_keeps h130) (fun _ => h130)
  clear_value x131
  exact State.haltIfFrozen_keeps (State.releaseHigh_keeps h131)

theorem State.raiseLate_keeps {a s : State} {c : Nat} {n : Nat} {e : Late} (h1 : Keeps a s) : Keeps a (State.raiseLate s c n e) := by
  unfold State.raiseLate
  extract_lets +onlyGivenNames x100
  split
  · exact Keeps.ite (fun _ => h1) (fun _ => State.raiseStall_keeps h1)
  · exact Keeps.ite (fun _ => h1) (fun _ => State.raiseStall_keeps (State.modCamp_keeps (State.bump_keeps h1 rfl)))

theorem State.lateFrozen_keeps {a s : State} {c : Nat} {d : Nat} (h1 : Keeps a s) : Keeps a (State.lateFrozen s c d) := by
  unfold State.lateFrozen
  extract_lets +onlyGivenNames x100
  split
  · exact h1
  · exact Keeps.ite (fun _ => State.forEach_keeps h1 (@fun t101 t102 h103 => State.raiseLate_keeps h103)) (fun _ => Keeps.ite (fun _ => h1) (fun _ => State.raiseLate_keeps h1))

theorem State.scheduleStep_keeps {a s : State} {c : Nat} {d : Nat} {obs : StepObs} (h1 : Keeps a s) : Keeps a (State.scheduleStep s c d obs) := by
  unfold State.scheduleStep
  refine Keeps.ite (fun _ => ?_) (fun _ => h1)
  refine Keeps.ite (fun _ => State.lateFrozen_keeps h1) (fun _ => ?_)
  extract_lets +onlyGivenNames x100
  have h100 : Keeps a x100 := by
    unfold x100
    split
    · exact Keeps.ite (fun _ => h1) (fun _ => State.takeEarly_keeps (State.beginCycle_keeps h1))
    · exact h1
  clear_value x100
  split
  · exact h100
  · refine Keeps.ite (fun _ => ?_) (fun _ => h100)
    split
    · exact State.doStep_keeps h100
    · exact State.forEach_keeps h100 (@fun t101 t102 h103 => State.raiseLate_keeps h103)

theorem execScheduleStep_keeps {a : State} {camp : Nat} {die : Nat} {obs : StepObs} {s : State} (h4 : Keeps a s) : KeepsO a (execScheduleStep camp die obs s) := by
  unfold execScheduleStep
  exact KeepsO.next (State.scheduleStep_keeps h4)

end Sys2Proof.Machine
end

