-- ==== Sys2Proof/Laws/KeepsLinks.lean ====
section
/-! SUPPORT. Every operation and command of Halnal, the NoC, snapshots and the deep memory units passes `Keeps` on. -/

namespace Sys2Proof.Machine

set_option Elab.async false

theorem State.showHop_keeps {a s : State} {c : Nat} (h1 : Keeps a s) : Keeps a (State.showHop s c) := by
  unfold State.showHop
  split
  · exact h1
  · extract_lets +onlyGivenNames x100
    exact State.wrs_keeps h1 (fun _ _ => legal.reg rfl)

theorem State.logLoss_keeps {a s : State} {p : Nat} {peer : Nat} {reason : Nat} {camps : List Nat} (h1 : Keeps a s) : Keeps a (State.logLoss s p peer reason camps) := by
  unfold State.logLoss
  refine State.irq_keeps ?_
  refine State.logIn_keeps (State.bump_keeps h1 rfl) rfl ?_
  intro t100 h101
  unfold id
  exact h101

theorem State.loseHops_keeps {a s : State} {p : Nat} {reason : Nat} {camps : List Nat} (h1 : Keeps a s) : Keeps a (State.loseHops s p reason camps) := by
  unfold State.loseHops
  extract_lets +onlyGivenNames x100
  exact State.logLoss_keeps (State.forEach_keeps h1 (@fun t101 t102 h103 => State.haltCond_keeps h103))

theorem State.linkLost_keeps {a s : State} {p : Nat} {reason : Nat} (h1 : Keeps a s) : Keeps a (State.linkLost s p reason) := by
  unfold State.linkLost
  extract_lets +onlyGivenNames x100
  extract_lets +onlyGivenNames x101
  have h101 : Keeps a x101 := by
    unfold x101
    exact State.loseHops_keeps h1
  clear_value x101
  extract_lets +onlyGivenNames x102
  have h102 : Keeps a x102 := by
    unfold x102
    exact Keeps.ite (fun _ => State.loadFail_keeps h101) (fun _ => h101)
  clear_value x102
  extract_lets +onlyGivenNames x103
  have h103 : Keeps a x103 := by
    unfold x103
    exact State.fbDrop_keeps h102
  clear_value x103
  exact State.setNbr_keeps (State.modHn_keeps h103)

theorem State.startTraining_keeps {a s : State} {p : Nat} {again : Bool} (h1 : Keeps a s) : Keeps a (State.startTraining s p again) := by
  unfold State.startTraining
  extract_lets +onlyGivenNames x100
  have h100 : Keeps a x100 := by
    unfold x100
    exact State.bump_keeps (State.wrs_keeps h1 (fun _ _ => legal.reg rfl)) rfl
  clear_value x100
  extract_lets +onlyGivenNames x101
  have h101 : Keeps a x101 := by
    unfold x101
    exact State.wrs_keeps h100 (fun _ _ => legal.reg rfl)
  clear_value x101
  extract_lets +onlyGivenNames x102
  extract_lets +onlyGivenNames x103
  exact State.setNbr_keeps (State.draw_keeps (State.modHn_keeps h101))

theorem State.failTraining_keeps {a s : State} {p : Nat} {code : Nat} (h1 : Keeps a s) : Keeps a (State.failTraining s p code) := by
  unfold State.failTraining
  extract_lets +onlyGivenNames x100
  have h100 : Keeps a x100 := by
    unfold x100
    exact State.wrs_keeps h1 (fun _ _ => legal.reg rfl)
  clear_value x100
  exact Keeps.ite (fun _ => State.modHn_keeps h100) (fun _ => h100)

theorem State.retrain_keeps {a s : State} {p : Nat} (h1 : Keeps a s) : Keeps a (State.retrain s p) := by
  unfold State.retrain
  extract_lets +onlyGivenNames x100
  exact Keeps.ite (fun _ => State.startTraining_keeps h1) (fun _ => State.setNbr_keeps (State.wr_keeps h1 (legal.reg rfl)))

theorem execTrainingRetry_keeps {a : State} {port : Nat} {s : State} (h2 : Keeps a s) : KeepsO a (execTrainingRetry port s) := by
  unfold execTrainingRetry
  exact KeepsO.next (Keeps.ite (fun _ => State.startTraining_keeps h2) (fun _ => h2))

theorem execCapabilityWord_keeps {a : State} {port : Nat} {word : Nat} {s : State} (h3 : Keeps a s) : KeepsO a (execCapabilityWord port word s) := by
  unfold execCapabilityWord
  refine KeepsO.ite (fun _ => KeepsO.next h3) (fun _ => ?_)
  refine KeepsO.ite (fun _ => KeepsO.next (State.failTraining_keeps h3)) (fun _ => ?_)
  split
  · exact KeepsO.next (State.failTraining_keeps h3)
  · extract_lets +onlyGivenNames x100
    have h100 : Keeps a x100 := by
      unfold x100
      exact State.wr_keeps (State.wr_keeps h3 (legal.reg rfl)) (legal.reg rfl)
    clear_value x100
    extract_lets +onlyGivenNames x101
    have h101 : Keeps a x101 := by
      unfold x101
      exact State.wrs_keeps h100 (fun _ _ => legal.reg rfl)
    clear_value x101
    exact KeepsO.next (State.modHn_keeps h101)

theorem State.eqApply_keeps {a s : State} {p : Nat} {q : EqReq} (h1 : Keeps a s) : Keeps a (State.eqApply s p q) := by
  unfold State.eqApply
  extract_lets +onlyGivenNames x100
  exact State.emit_keeps (State.modHn_keeps h1)

theorem State.judgeHops_keeps {a s : State} {p : Nat} (h1 : Keeps a s) : Keeps a (State.judgeHops s p) := by
  unfold State.judgeHops
  extract_lets +onlyGivenNames x100
  refine State.forEach_keeps h1 ?_
  intro t101 t102 h103
  extract_lets +onlyGivenNames x104
  extract_lets +onlyGivenNames x105
  extract_lets +onlyGivenNames x106
  have h106 : Keeps a x106 := by
    unfold x106
    exact State.showHop_keeps (State.modCamp_keeps h103)
  clear_value x106
  exact Keeps.ite (fun _ => State.modCamp_keeps (State.loseHops_keeps h106)) (fun _ => h106)

theorem State.enterUp_keeps {a s : State} {p : Nat} (h1 : Keeps a s) : Keeps a (State.enterUp s p) := by
  unfold State.enterUp
  extract_lets +onlyGivenNames x100
  have h100 : Keeps a x100 := by
    unfold x100
    exact State.wrs_keeps h1 (fun _ _ => legal.reg rfl)
  clear_value x100
  extract_lets +onlyGivenNames x101
  extract_lets +onlyGivenNames x102
  extract_lets +onlyGivenNames x103
  have h103 : Keeps a x103 := by
    unfold x103
    exact State.modHn_keeps (Keeps.ite (fun _ => State.linkLost_keeps h100) (fun _ => h100))
  clear_value x103
  extract_lets +onlyGivenNames x104
  have h104 : Keeps a x104 := by
    unfold x104
    exact State.judgeHops_keeps h103
  clear_value x104
  extract_lets +onlyGivenNames x105
  have h105 : Keeps a x105 := by
    unfold x105
    exact State.sendSlot_keeps h104
  clear_value x105
  exact State.pumpPort_keeps h105

theorem State.trainStep_keeps {a s : State} {p : Nat} {o : TrainObs} (h1 : Keeps a s) : Keeps a (State.trainStep s p o) := by
  unfold State.trainStep
  extract_lets +onlyGivenNames x100
  split
  · refine Keeps.ite (fun _ => ?_) (fun _ => State.failTraining_keeps h1)
    extract_lets +onlyGivenNames x101
    have h101 : Keeps a x101 := by
      unfold x101
      exact State.modHn_keeps (State.wr_keeps h1 (legal.reg rfl))
    clear_value x101
    exact State.emit_keeps h101
  · exact Keeps.ite (fun _ => State.failTraining_keeps h1) (fun _ => Keeps.ite (fun _ => State.wr_keeps h1 (legal.reg rfl)) (fun _ => h1))
  · extract_lets +onlyGivenNames x102
    exact State.modHn_keeps (State.wr_keeps h1 (legal.reg rfl))
  · extract_lets +onlyGivenNames x103
    refine Keeps.ite (fun _ => h1) (fun _ => ?_)
    refine Keeps.ite (fun _ => ?_) (fun _ => State.failTraining_keeps h1)
    extract_lets +onlyGivenNames x104
    have h104 : Keeps a x104 := by
      unfold x104
      exact State.wr_keeps (State.forEach_keeps h1 (@fun t105 t106 h107 => State.eqApply_keeps h107)) (legal.reg rfl)
    clear_value x104
    split
    · exact State.wrs_keeps h104 (fun _ _ => legal.reg rfl)
    · exact h104
  · exact State.wr_keeps (State.forEach_keeps h1 (@fun t108 t109 h110 => State.sendSlot_keeps h110)) (legal.reg rfl)
  · exact Keeps.ite (fun _ => State.wr_keeps h1 (legal.reg rfl)) (fun _ => h1)
  · split
    · exact State.enterUp_keeps (State.wr_keeps (State.setKeys_keeps (State.modHn_keeps h1)) (legal.reg rfl))
    · exact h1
  · exact h1

theorem execTrainingStateDone_keeps {a : State} {port : Nat} {obs : TrainObs} {s : State} (h3 : Keeps a s) : KeepsO a (execTrainingStateDone port obs s) := by
  unfold execTrainingStateDone
  extract_lets +onlyGivenNames x100
  have h100 : Keeps a x100 := by
    unfold x100
    exact State.trainStep_keeps h3
  clear_value x100
  exact KeepsO.next (Keeps.ite (fun _ => State.pumpPort_keeps h100) (fun _ => h100))

theorem execTrainingStateTimeout_keeps {a : State} {port : Nat} {s : State} (h2 : Keeps a s) : KeepsO a (execTrainingStateTimeout port s) := by
  unfold execTrainingStateTimeout
  split
  · exact KeepsO.next (State.failTraining_keeps h2)
  · exact KeepsO.next (State.failTraining_keeps h2)
  · exact KeepsO.next (State.draw_keeps (State.wrs_keeps h2 (fun _ _ => legal.reg rfl)))
  · exact KeepsO.next (State.failTraining_keeps h2)
  · exact KeepsO.next (State.failTraining_keeps h2)
  · exact KeepsO.next (State.draw_keeps (State.wrs_keeps h2 (fun _ _ => legal.reg rfl)))
  · exact KeepsO.next (State.enterUp_keeps h2)
  · exact KeepsO.next h2

theorem execEqRequest_keeps {a : State} {port : Nat} {tap : Nat} {op : Nat} {preset : Nat} {s : State} (h5 : Keeps a s) : KeepsO a (execEqRequest port tap op preset s) := by
  unfold execEqRequest
  refine State.asWrite_keeps h5 ?_
  intro t100 h101
  extract_lets +onlyGivenNames x102
  have h102 : Keeps a x102 := by
    unfold x102
    exact State.wrs_keeps h101 (fun _ _ => legal.reg rfl)
  clear_value x102
  exact KeepsO.ite (fun _ => KeepsO.next (State.emit_keeps (State.modHn_keeps (State.wr_keeps h102 (legal.reg rfl))))) (fun _ => KeepsO.next h102)

theorem execEqResponse_keeps {a : State} {port : Nat} {resp : Nat} {height : Nat} {width : Nat} {s : State} (h5 : Keeps a s) : KeepsO a (execEqResponse port resp height width s) := by
  unfold execEqResponse
  refine KeepsO.ite (fun _ => ?_) (fun _ => KeepsO.next h5)
  extract_lets +onlyGivenNames x100
  have h100 : Keeps a x100 := by
    unfold x100
    exact State.wrs_keeps (State.wrs_keeps h5 (fun _ _ => legal.reg rfl)) (fun _ _ => legal.reg rfl)
  clear_value x100
  exact KeepsO.next (Keeps.ite (fun _ => State.modHn_keeps h100) (fun _ => h100))

theorem State.resend_keeps {a s : State} {p : Nat} (h1 : Keeps a s) : Keeps a (State.resend s p) := by
  unfold State.resend
  exact State.forEach_keeps h1 (@fun t100 t101 h102 => State.sendTx_keeps h102)

theorem State.takeAck_keeps {a s : State} {p : Nat} {f : Flit} (h1 : Keeps a s) : Keeps a (State.takeAck s p f) := by
  unfold State.takeAck
  extract_lets +onlyGivenNames x100
  have h100 : Keeps a x100 := by
    unfold x100
    exact State.modHn_keeps h1
  clear_value x100
  extract_lets +onlyGivenNames x101
  have h101 : Keeps a x101 := by
    unfold x101
    exact Keeps.ite (fun _ => State.resend_keeps h100) (fun _ => h100)
  clear_value x101
  exact State.pumpPort_keeps h101

theorem State.sendNak_keeps {a s : State} {p : Nat} (h1 : Keeps a s) : Keeps a (State.sendNak s p) := by
  unfold State.sendNak
  exact State.bump_keeps (State.launch_keeps h1) rfl

theorem State.linkTamper_keeps {a s : State} {p : Nat} (h1 : Keeps a s) : Keeps a (State.linkTamper s p) := by
  unfold State.linkTamper
  extract_lets +onlyGivenNames x100
  extract_lets +onlyGivenNames x101
  extract_lets +onlyGivenNames x102
  have h102 : Keeps a x102 := by
    unfold x102
    exact Keeps.ite (fun _ => h1) (fun _ => State.draw_keeps (State.alarmLog_keeps h1))
  clear_value x102
  exact State.loadKeyEvent_keeps (State.forEach_keeps h102 (@fun t103 t104 h105 => State.haltCond_keeps h105))

theorem State.flitFails_keeps {a s : State} {p : Nat} {tag : Option Nat} (h1 : Keeps a s) : Keeps a (State.flitFails s p tag) := by
  unfold State.flitFails
  extract_lets +onlyGivenNames x100
  extract_lets +onlyGivenNames x101
  have h101 : Keeps a x101 := by
    unfold x101
    exact State.modHn_keeps (State.wr_keeps h1 (legal.reg rfl))
  clear_value x101
  extract_lets +onlyGivenNames x102
  exact Keeps.ite (fun _ => State.retrain_keeps (State.linkTamper_keeps h101)) (fun _ => Keeps.ite (fun _ => State.retrain_keeps h101) (fun _ => State.sendNak_keeps h101))

theorem State.startSpare_keeps {a s : State} {p : Nat} {lane : Nat} (h1 : Keeps a s) : Keeps a (State.startSpare s p lane) := by
  unfold State.startSpare
  exact Keeps.ite (fun _ => State.retrain_keeps h1) (fun _ => State.sendSlot_keeps (State.modHn_keeps h1))

theorem State.countSym_keeps {a s : State} {p : Nat} {lane : Nat} {n : Nat} (h1 : Keeps a s) : Keeps a (State.countSym s p lane n) := by
  unfold State.countSym
  extract_lets +onlyGivenNames x100
  extract_lets +onlyGivenNames x101
  split
  split
  extract_lets +onlyGivenNames x102
  extract_lets +onlyGivenNames x103
  have h103 : Keeps a x103 := by
    unfold x103
    exact State.modHn_keeps h1
  clear_value x103
  exact Keeps.ite (fun _ => State.startSpare_keeps (State.modHn_keeps h103)) (fun _ => h103)

theorem State.takeSpare_keeps {a s : State} {p : Nat} (h1 : Keeps a s) : Keeps a (State.takeSpare s p) := by
  unfold State.takeSpare
  split
  · exact h1
  · exact State.wearAdd_keeps (State.sendSlot_keeps (State.modHn_keeps (State.wrs_keeps h1 (fun _ _ => legal.reg rfl))))

theorem State.judgeFlit_keeps {a s : State} {p : Nat} {f : Flit} {o : FlitObs} (h1 : Keeps a s) : Keeps a (State.judgeFlit s p f o) := by
  unfold State.judgeFlit
  extract_lets +onlyGivenNames x100
  refine Keeps.ite (fun _ => State.flitFails_keeps (State.bump_keeps h1 rfl)) (fun _ => ?_)
  extract_lets +onlyGivenNames x101
  have h101 : Keeps a x101 := by
    unfold x101
    exact Keeps.ite (fun _ => State.bump_keeps h1 rfl) (fun _ => h1)
  clear_value x101
  refine Keeps.ite (fun _ => State.flitFails_keeps (State.bump_keeps h101 rfl)) (fun _ => ?_)
  refine Keeps.ite (fun _ => State.flitFails_keeps (State.bump_keeps h101 rfl)) (fun _ => ?_)
  refine Keeps.ite (fun _ => Keeps.ite (fun _ => h101) (fun _ => State.flitFails_keeps h101)) (fun _ => ?_)
  extract_lets +onlyGivenNames x102
  have h102 : Keeps a x102 := by
    unfold x102
    exact State.modHn_keeps (State.wr_keeps h101 (legal.reg rfl))
  clear_value x102
  exact State.takeAck_keeps h102

theorem execFlitReceive_keeps {a : State} {port : Nat} {f : Flit} {obs : FlitObs} {s : State} (h4 : Keeps a s) : KeepsO a (execFlitReceive port f obs s) := by
  unfold execFlitReceive
  refine KeepsO.ite (fun _ => ?_) (fun _ => KeepsO.next h4)
  extract_lets +onlyGivenNames x100
  have h100 : Keeps a x100 := by
    unfold x100
    exact State.forEach_keeps h4 (@fun t101 t102 h103 => State.countSym_keeps h103)
  clear_value x100
  extract_lets +onlyGivenNames x104
  have h104 : Keeps a x104 := by
    unfold x104
    exact Keeps.ite (fun _ => State.takeSpare_keeps h100) (fun _ => h100)
  clear_value x104
  exact KeepsO.next (Keeps.ite (fun _ => State.judgeFlit_keeps h104) (fun _ => h104))

theorem State.dataArrives_keeps {a s : State} {p : Nat} {d : DataPay} (h1 : Keeps a s) : Keeps a (State.dataArrives s p d) := by
  unfold State.dataArrives
  split
  · exact h1
  · extract_lets +onlyGivenNames x100
    extract_lets +onlyGivenNames x101
    have h101 : Keeps a x101 := by
      unfold x101
      exact State.modCamp_keeps h1
    clear_value x101
    refine Keeps.ite (fun _ => ?_) (fun _ => Keeps.ite (fun _ => State.forEach_keeps h101 (@fun t102 t103 h104 => State.raiseHigh_keeps h104)) (fun _ => h1))
    refine Keeps.ite (fun _ => h1) (fun _ => ?_)
    split
    · exact State.portItems_keeps h1
    · exact h101

theorem execDataFlit_keeps {a : State} {port : Nat} {d : DataPay} {s : State} (h3 : Keeps a s) : KeepsO a (execDataFlit port d s) := by
  unfold execDataFlit
  exact KeepsO.next (Keeps.ite (fun _ => State.dataArrives_keeps h3) (fun _ => h3))

theorem execReplayTimeout_keeps {a : State} {port : Nat} {s : State} (h2 : Keeps a s) : KeepsO a (execReplayTimeout port s) := by
  unfold execReplayTimeout
  exact KeepsO.next (Keeps.ite (fun _ => State.resend_keeps h2) (fun _ => h2))

theorem State.hnCtrl_keeps {a s : State} {p : Nat} {f : HnFields} (h1 : Keeps a s) : Keeps a (State.hnCtrl s p f) := by
  unfold State.hnCtrl
  exact State.wrs_keeps h1 (fun _ _ => legal.reg rfl)

theorem execRetrain_keeps {a : State} {port : Nat} {f : HnFields} {s : State} (h3 : Keeps a s) : KeepsO a (execRetrain port f s) := by
  unfold execRetrain
  exact State.asWrite_keeps h3 (@fun t100 h101 => KeepsO.next (State.retrain_keeps (State.hnCtrl_keeps h101)))

theorem execHnSpareCmd_keeps {a : State} {port : Nat} {f : HnFields} {s : State} (h3 : Keeps a s) : KeepsO a (execHnSpareCmd port f s) := by
  unfold execHnSpareCmd
  refine State.asWrite_keeps h3 ?_
  intro t100 h101
  extract_lets +onlyGivenNames x102
  have h102 : Keeps a x102 := by
    unfold x102
    exact State.hnCtrl_keeps h101
  clear_value x102
  extract_lets +onlyGivenNames x103
  exact KeepsO.ite (fun _ => KeepsO.next (State.wr_keeps h102 (legal.reg rfl))) (fun _ => KeepsO.ite (fun _ => KeepsO.next (State.startSpare_keeps h102)) (fun _ => KeepsO.next h102))

theorem execExitIdle_keeps {a : State} {port : Nat} {f : HnFields} {s : State} (h3 : Keeps a s) : KeepsO a (execExitIdle port f s) := by
  unfold execExitIdle
  exact State.asWrite_keeps h3 (@fun t100 h101 => KeepsO.next (State.exitIdle_keeps (State.hnCtrl_keeps h101)))

theorem execIdleTimer_keeps {a : State} {port : Nat} {s : State} (h2 : Keeps a s) : KeepsO a (execIdleTimer port s) := by
  unfold execIdleTimer
  exact KeepsO.ite (fun _ => KeepsO.next (State.wr_keeps (State.sendSlot_keeps h2) (legal.reg rfl))) (fun _ => KeepsO.next h2)

theorem execIdleEnter_keeps {a : State} {port : Nat} {s : State} (h2 : Keeps a s) : KeepsO a (execIdleEnter port s) := by
  unfold execIdleEnter
  refine KeepsO.ite (fun _ => ?_) (fun _ => KeepsO.next h2)
  extract_lets +onlyGivenNames x100
  have h100 : Keeps a x100 := by
    unfold x100
    exact State.wr_keeps h2 (legal.reg rfl)
  clear_value x100
  exact KeepsO.next (Keeps.ite (fun _ => h100) (fun _ => State.exitIdle_keeps h100))

theorem execIdleExitBurst_keeps {a : State} {port : Nat} {s : State} (h2 : Keeps a s) : KeepsO a (execIdleExitBurst port s) := by
  unfold execIdleExitBurst
  refine KeepsO.ite (fun _ => ?_) (fun _ => KeepsO.next h2)
  extract_lets +onlyGivenNames x100
  have h100 : Keeps a x100 := by
    unfold x100
    exact Keeps.ite (fun _ => h2) (fun _ => State.emit_keeps h2)
  clear_value x100
  extract_lets +onlyGivenNames x101
  have h101 : Keeps a x101 := by
    unfold x101
    exact State.modHn_keeps (State.wr_keeps h100 (legal.reg rfl))
  clear_value x101
  exact KeepsO.next (State.pumpPort_keeps h101)

theorem execIdleLockTimeout_keeps {a : State} {port : Nat} {s : State} (h2 : Keeps a s) : KeepsO a (execIdleLockTimeout port s) := by
  unfold execIdleLockTimeout
  exact KeepsO.next (Keeps.ite (fun _ => State.retrain_keeps h2) (fun _ => h2))

theorem execLaneLockLoss_keeps {a : State} {port : Nat} {lane : Nat} {s : State} (h3 : Keeps a s) : KeepsO a (execLaneLockLoss port lane s) := by
  unfold execLaneLockLoss
  exact KeepsO.ite (fun _ => KeepsO.next h3) (fun _ => KeepsO.ite (fun _ => KeepsO.next (Keeps.ite (fun _ => State.retrain_keeps h3) (fun _ => h3))) (fun _ => KeepsO.ite (fun _ => KeepsO.next h3) (fun _ => KeepsO.ite (fun _ => KeepsO.next h3) (fun _ => KeepsO.next (State.startSpare_keeps h3)))))

theorem execSpareReq_keeps {a : State} {port : Nat} {lane : Nat} {s : State} (h3 : Keeps a s) : KeepsO a (execSpareReq port lane s) := by
  unfold execSpareReq
  exact KeepsO.ite (fun _ => KeepsO.next (State.emit_keeps (State.modHn_keeps h3))) (fun _ => KeepsO.next h3)

theorem execSpareDone_keeps {a : State} {port : Nat} {lane : Nat} {s : State} (h3 : Keeps a s) : KeepsO a (execSpareDone port lane s) := by
  unfold execSpareDone
  exact KeepsO.ite (fun _ => KeepsO.next (State.modHn_keeps (State.wrs_keeps h3 (fun _ _ => legal.reg rfl)))) (fun _ => KeepsO.next h3)

theorem execSparingTimeout_keeps {a : State} {port : Nat} {s : State} (h2 : Keeps a s) : KeepsO a (execSparingTimeout port s) := by
  unfold execSparingTimeout
  exact KeepsO.next (Keeps.ite (fun _ => State.retrain_keeps h2) (fun _ => h2))

theorem execEpoch_keeps {a : State} {port : Nat} {s : State} (h2 : Keeps a s) : KeepsO a (execEpoch port s) := by
  unfold execEpoch
  refine KeepsO.ite (fun _ => ?_) (fun _ => KeepsO.next h2)
  extract_lets +onlyGivenNames x100
  have h100 : Keeps a x100 := by
    unfold x100
    exact State.modHn_keeps h2
  clear_value x100
  exact KeepsO.next (State.setKeys_keeps (State.wr_keeps h100 (legal.reg rfl)))

theorem execEpochLimit_keeps {a : State} {port : Nat} {s : State} (h2 : Keeps a s) : KeepsO a (execEpochLimit port s) := by
  unfold execEpochLimit
  exact KeepsO.ite (fun _ => KeepsO.next (State.sendSlot_keeps h2)) (fun _ => KeepsO.next h2)

theorem execProbe_keeps {a : State} {port : Nat} {turnaround : Nat} {s : State} (h3 : Keeps a s) : KeepsO a (execProbe port turnaround s) := by
  unfold execProbe
  exact KeepsO.next (Keeps.ite (fun _ => State.sendSlot_keeps h3) (fun _ => h3))

theorem execEcho_keeps {a : State} {port : Nat} {turnaround : Nat} {roundTrip : Nat} {s : State} (h4 : Keeps a s) : KeepsO a (execEcho port turnaround roundTrip s) := by
  unfold execEcho
  refine KeepsO.ite (fun _ => ?_) (fun _ => KeepsO.next h4)
  extract_lets +onlyGivenNames x100
  extract_lets +onlyGivenNames x101
  have h101 : Keeps a x101 := by
    unfold x101
    exact State.modHn_keeps h4
  clear_value x101
  exact KeepsO.next (Keeps.ite (fun _ => State.wr_keeps h101 (legal.reg rfl)) (fun _ => h101))

theorem execLinkLoss_keeps {a : State} {port : Nat} {s : State} (h2 : Keeps a s) : KeepsO a (execLinkLoss port s) := by
  unfold execLinkLoss
  exact KeepsO.ite (fun _ => KeepsO.next h2) (fun _ => KeepsO.next (State.modHn_keeps (State.linkLost_keeps h2)))

theorem State.modLoad_keeps {a s : State} {f : Load → Load} (h1 : Keeps a s) : Keeps a (State.modLoad s f) := by
  unfold State.modLoad
  exact Keeps.frame (s := s) h1 rfl rfl rfl rfl (Nat.le_refl _) (Nat.le_refl _) rfl rfl rfl

theorem State.modNoc_keeps {a s : State} {f : Noc → Noc} (h1 : Keeps a s) : Keeps a (State.modNoc s f) := by
  unfold State.modNoc
  exact Keeps.frame (s := s) h1 rfl rfl rfl rfl (Nat.le_refl _) (Nat.le_refl _) rfl rfl rfl

theorem State.nocPush_keeps {a s : State} {router : Nat} {net : Nat} {input : Nat} {cls : Nat} {z5 : NocHeld} (h1 : Keeps a s) : Keeps a (State.nocPush s router net input cls z5) := by
  unfold State.nocPush
  exact State.modNoc_keeps h1

theorem State.nocEnter_keeps {a s : State} {p : NocPkt} (h1 : Keeps a s) : Keeps a (State.nocEnter s p) := by
  unfold State.nocEnter
  extract_lets +onlyGivenNames x100
  have h100 : Keeps a x100 := by
    unfold x100
    exact Keeps.ite (fun _ => State.modNoc_keeps h1) (fun _ => h1)
  clear_value x100
  exact Keeps.ite (fun _ => State.nocPush_keeps h100) (fun _ => State.nocPush_keeps h100)

theorem State.nocOffer_keeps {a s : State} {p : NocPkt} (h1 : Keeps a s) : Keeps a (State.nocOffer s p) := by
  unfold State.nocOffer
  exact Keeps.ite (fun _ => h1) (fun _ => Keeps.ite (fun _ => State.bump_keeps (State.modNoc_keeps h1) rfl) (fun _ => State.nocEnter_keeps h1))

theorem State.nocRelease_keeps {a s : State} (h1 : Keeps a s) : Keeps a (State.nocRelease s) := by
  unfold State.nocRelease
  exact foldl_keeps (@fun t100 t101 h102 => Keeps.ite (fun _ => State.nocEnter_keeps h102) (fun _ => State.modNoc_keeps h102)) (State.modNoc_keeps h1)

theorem State.answerOff_keeps {a s : State} {p : NocPkt} (h1 : Keeps a s) : Keeps a (State.answerOff s p) := by
  unfold State.answerOff
  exact State.nocPush_keeps h1

theorem State.logPd_keeps {a s : State} {p : NocPkt} {forced : Nat} (h1 : Keeps a s) : Keeps a (State.logPd s p forced) := by
  unfold State.logPd
  extract_lets +onlyGivenNames x100
  refine State.logIn_keeps h1 rfl ?_
  intro t101 h102
  unfold id
  exact h102

theorem State.dropPacket_keeps {a s : State} {p : NocPkt} (h1 : Keeps a s) : Keeps a (State.dropPacket s p) := by
  unfold State.dropPacket
  exact State.logPd_keeps (State.bump_keeps h1 rfl)

theorem State.refusePacket_keeps {a s : State} {p : NocPkt} (h1 : Keeps a s) : Keeps a (State.refusePacket s p) := by
  unfold State.refusePacket
  exact Keeps.ite (fun _ => State.answerOff_keeps h1) (fun _ => State.dropPacket_keeps h1)

theorem State.deliverPacket_keeps {a s : State} {z1 : NocHeld} (h1 : Keeps a s) : Keeps a (State.deliverPacket s z1) := by
  unfold State.deliverPacket
  extract_lets +onlyGivenNames x100
  have h100 : Keeps a x100 := by
    unfold x100
    exact State.emit_keeps h1
  clear_value x100
  exact Keeps.ite (fun _ => State.bump_keeps h100 rfl) (fun _ => h100)

theorem State.showRing_keeps {a s : State} {i : Nat} (h1 : Keeps a s) : Keeps a (State.showRing s i) := by
  unfold State.showRing
  extract_lets +onlyGivenNames x100
  extract_lets +onlyGivenNames x101
  have h101 : Keeps a x101 := by
    unfold x101
    exact State.wr_keeps h1 (legal.reg rfl)
  clear_value x101
  clear_value x100
  split
  · exact State.wr_keeps (State.wrs_keeps h101 (fun _ _ => legal.reg rfl)) (legal.reg rfl)
  · exact State.wr_keeps (State.wrs_keeps h101 (fun _ _ => legal.reg rfl)) (legal.reg rfl)

theorem State.probe_keeps {a s : State} {i : Nat} {z2 : NocHeld} (h1 : Keeps a s) : Keeps a (State.probe s i z2) := by
  unfold State.probe
  refine Keeps.ite (fun _ => ?_) (fun _ => h1)
  split
  · extract_lets +onlyGivenNames x100
    refine Keeps.ite (fun _ => State.wr_keeps h1 (legal.reg rfl)) (fun _ => ?_)
    extract_lets +onlyGivenNames x101
    exact State.showRing_keeps (State.modNoc_keeps h1)
  · extract_lets +onlyGivenNames x102
    have h102 : Keeps a x102 := by
      unfold x102
      exact State.bump_keeps h1 rfl
    clear_value x102
    exact State.wr_keeps h102 (legal.reg rfl)
  · exact State.bump_keeps h1 rfl

theorem State.nocMove_keeps {a s : State} {router : Nat} {out : Nat} {z3 : NocHeld} (h1 : Keeps a s) : Keeps a (State.nocMove s router out z3) := by
  unfold State.nocMove
  extract_lets +onlyGivenNames x100
  refine Keeps.ite (fun _ => State.refusePacket_keeps h1) (fun _ => ?_)
  split
  · exact State.nocPush_keeps h1
  · exact State.deliverPacket_keeps h1

theorem State.nocArbitrate_keeps {a s : State} {router : Nat} {out : Nat} {net : Nat} (h1 : Keeps a s) : Keeps a (State.nocArbitrate s router out net) := by
  unfold State.nocArbitrate
  split
  · exact h1
  · extract_lets +onlyGivenNames x100
    have h100 : Keeps a x100 := by
      unfold x100
      exact State.modNoc_keeps h1
    clear_value x100
    extract_lets +onlyGivenNames x101
    have h101 : Keeps a x101 := by
      unfold x101
      exact Keeps.ite (fun _ => State.modNoc_keeps h100) (fun _ => h100)
    clear_value x101
    exact State.nocMove_keeps (State.probe_keeps h101)

theorem execNocPacket_keeps {a : State} {router : Nat} {out : Nat} {net : Nat} {injected : List NocPkt} {s : State} (h5 : Keeps a s) : KeepsO a (execNocPacket router out net injected s) := by
  unfold execNocPacket
  exact KeepsO.next (State.nocArbitrate_keeps (State.forEach_keeps (State.nocRelease_keeps h5) (@fun t100 t101 h102 => State.nocOffer_keeps h102)))

theorem execCriticalWindowEnd_keeps {a : State} {router : Nat} {s : State} (h2 : Keeps a s) : KeepsO a (execCriticalWindowEnd router s) := by
  unfold execCriticalWindowEnd
  extract_lets +onlyGivenNames x100
  extract_lets +onlyGivenNames x101
  have h101 : Keeps a x101 := by
    unfold x101
    exact State.modNoc_keeps h2
  clear_value x101
  extract_lets +onlyGivenNames x102
  exact KeepsO.next (Keeps.ite (fun _ => State.wr_keeps h101 (legal.reg rfl)) (fun _ => h101))

theorem State.showFences_keeps {a s : State} (h1 : Keeps a s) : Keeps a (State.showFences s) := by
  unfold State.showFences
  exact State.wr_keeps h1 (legal.reg rfl)

theorem execFenceDoorbell_keeps {a : State} {token : Nat} {s : State} (h2 : Keeps a s) : KeepsO a (execFenceDoorbell token s) := by
  unfold execFenceDoorbell
  refine KeepsO.ite (fun _ => KeepsO.next (State.wr_keeps h2 (legal.reg rfl))) (fun _ => ?_)
  extract_lets +onlyGivenNames x100
  exact KeepsO.next (State.showFences_keeps (State.modNoc_keeps h2))

theorem execFenceComplete_keeps {a : State} {frozen : Nat} {s : State} (h2 : Keeps a s) : KeepsO a (execFenceComplete frozen s) := by
  unfold execFenceComplete
  split
  · exact KeepsO.next h2
  · refine KeepsO.ite (fun _ => KeepsO.next h2) (fun _ => ?_)
    extract_lets +onlyGivenNames x100
    extract_lets +onlyGivenNames x101
    have h101 : Keeps a x101 := by
      unfold x101
      exact State.emit_keeps (State.showFences_keeps (State.modNoc_keeps h2))
    clear_value x101
    exact KeepsO.next (State.forEach_keeps (State.irq_keeps (State.wr_keeps h101 (legal.reg rfl))) (@fun t102 t103 h104 => State.doorbell_keeps h104))

theorem execProbePop_keeps {a : State} {probe : Nat} {s : State} (h2 : Keeps a s) : KeepsO a (execProbePop probe s) := by
  unfold execProbePop
  exact State.asWrite_keeps h2 (@fun t100 h101 => KeepsO.next (State.showRing_keeps (State.modNoc_keeps h101)))

theorem State.copyPage_keeps {a s : State} {c : Nat} {p : Nat} (h1 : Keeps a s) : Keeps a (State.copyPage s c p) := by
  unfold State.copyPage
  refine Keeps.ite (fun _ => ?_) (fun _ => h1)
  extract_lets +onlyGivenNames x100
  have h100 : Keeps2 a x100 := by
    unfold x100
    exact State.deepFetch_keeps h1
  clear_value x100
  exact Keeps.ite (fun _ => State.abandonErr_keeps (Keeps2.snd h100)) (fun _ => State.modCamp_keeps (Keeps2.snd h100))

theorem State.takePoint_keeps {a s : State} {c : Nat} {paused : Bool} (h1 : Keeps a s) : Keeps a (State.takePoint s c paused) := by
  unfold State.takePoint
  extract_lets +onlyGivenNames x100
  extract_lets +onlyGivenNames x101
  extract_lets +onlyGivenNames x102
  extract_lets +onlyGivenNames x103
  extract_lets +onlyGivenNames x104
  extract_lets +onlyGivenNames x105
  extract_lets +onlyGivenNames x106
  extract_lets +onlyGivenNames x107
  have h107 : Keeps a x107 := by
    unfold x107
    exact State.wr_keeps (State.wr_keeps h1 (legal.reg rfl)) (legal.reg rfl)
  clear_value x107
  extract_lets +onlyGivenNames x108
  have h108 : Keeps a x108 := by
    unfold x108
    exact State.modCamp_keeps h107
  clear_value x108
  exact State.forEach_keeps h108 (@fun t109 t110 h111 => State.modCluster_keeps h111)

theorem State.snapAbort_keeps {a s : State} {c : Nat} (h1 : Keeps a s) : Keeps a (State.snapAbort s c) := by
  unfold State.snapAbort
  exact Keeps.ite (fun _ => State.abandon_keeps h1) (fun _ => h1)

theorem State.takeArm_keeps {a s : State} {c : Nat} {target : Nat} {next : Bool} {deep : Bool} (h1 : Keeps a s) : Keeps a (State.takeArm s c target next deep) := by
  unfold State.takeArm
  extract_lets +onlyGivenNames x100
  have h100 : Keeps a x100 := by
    unfold x100
    exact State.wrs_keeps (State.wrs_keeps h1 (fun _ _ => legal.reg rfl)) (fun _ _ => legal.reg rfl)
  clear_value x100
  extract_lets +onlyGivenNames x101
  extract_lets +onlyGivenNames x102
  have h102 : Keeps a x102 := by
    unfold x102
    exact State.modCamp_keeps h100
  clear_value x102
  extract_lets +onlyGivenNames x103
  have h103 : Keeps a x103 := by
    unfold x103
    exact Keeps.ite (fun _ => State.forEach_keeps h102 (@fun t104 t105 h106 => State.originate_keeps h106)) (fun _ => h102)
  clear_value x103
  exact Keeps.ite (fun _ => State.takePoint_keeps h103) (fun _ => h103)

theorem State.snapArm_keeps {a s : State} {c : Nat} {next : Bool} {deep : Bool} (h1 : Keeps a s) : Keeps a (State.snapArm s c next deep) := by
  unfold State.snapArm
  extract_lets +onlyGivenNames x100
  extract_lets +onlyGivenNames x101
  exact Keeps.ite (fun _ => State.wr_keeps h1 (legal.reg rfl)) (fun _ => State.takeArm_keeps h1)

theorem execSnapArm_keeps {a : State} {camp : Nat} {next : Bool} {deep : Bool} {abort : Bool} {s : State} (h5 : Keeps a s) : KeepsO a (execSnapArm camp next deep abort s) := by
  unfold execSnapArm
  exact State.asWrite_keeps h5 (@fun t100 h101 => KeepsO.next (State.snapArm_keeps (Keeps.ite (fun _ => State.snapAbort_keeps h101) (fun _ => h101))))

theorem execSnapAbort_keeps {a : State} {camp : Nat} {next : Bool} {deep : Bool} {s : State} (h4 : Keeps a s) : KeepsO a (execSnapAbort camp next deep s) := by
  unfold execSnapAbort
  exact State.asWrite_keeps h4 (@fun t100 h101 => KeepsO.next (State.snapAbort_keeps (State.wrs_keeps h101 (fun _ _ => legal.reg rfl))))

theorem State.writeParts_keeps {a s : State} (h : Keeps a s) {key : Nat} {l : List (Nat × List Byte)} : Keeps2 a (s.writeParts key l) := by
  induction l generalizing s with
  | nil => exact h
  | cons x l ih =>
    have hw := Keeps2.snd (State.deepWrite_keeps h (src := 80) (key := key) (z3 := x.1) (bs := x.2))
    exact Keeps2.ite (fun _ => hw) fun _ => ih hw

theorem State.snapClose_keeps {a s : State} {c : Nat} (h1 : Keeps a s) : Keeps a (State.snapClose s c) := by
  unfold State.snapClose
  extract_lets +onlyGivenNames x100
  exact Keeps.ite (fun _ => State.campIrq_keeps (State.wr_keeps h1 (legal.reg rfl))) (fun _ => Keeps.ite (fun _ => Keeps.ite (fun _ => State.campIrq_keeps (State.wr_keeps h1 (legal.reg rfl))) (fun _ => h1)) (fun _ => State.originate_keeps (State.campIrq_keeps (State.wr_keeps h1 (legal.reg rfl)))))

theorem State.drainWords_keeps {a s : State} {c : Nat} (h1 : Keeps a s) : Keeps a (State.drainWords s c) := by
  unfold State.drainWords
  exact Keeps.ite (fun _ => State.forEach_keeps h1 (@fun t100 t101 h102 => State.modCluster_keeps h102)) (fun _ => h1)

theorem execSnapshotDone_keeps {a : State} {camp : Nat} {s : State} (h2 : Keeps a s) : KeepsO a (execSnapshotDone camp s) := by
  unfold execSnapshotDone
  extract_lets +onlyGivenNames x100
  have h100 : Keeps a x100 := by
    unfold x100
    exact Keeps.ite (fun _ => foldl_keeps (@fun t101 t102 h103 => State.copyPage_keeps h103) (State.drainWords_keeps h2)) (fun _ => h2)
  clear_value x100
  refine KeepsO.ite (fun _ => ?_) (fun _ => KeepsO.next h100)
  extract_lets +onlyGivenNames x104
  have h104 : Keeps2 a x104 := by
    unfold x104
    exact State.writeParts_keeps h100
  clear_value x104
  split
  · exact KeepsO.next (State.abandonErr_keeps (Keeps2.snd h104))
  · exact KeepsO.next (State.snapClose_keeps (State.modCamp_keeps (Keeps2.snd h104)))

theorem execSnapshotBusError_keeps {a : State} {camp : Nat} {onRead : Bool} {s : State} (h3 : Keeps a s) : KeepsO a (execSnapshotBusError camp onRead s) := by
  unfold execSnapshotBusError
  exact KeepsO.next (State.abandonErr_keeps h3)

theorem execDcSnapSelWrite_keeps {a : State} {camp : Nat} {page : Nat} {s : State} (h3 : Keeps a s) : KeepsO a (execDcSnapSelWrite camp page s) := by
  unfold execDcSnapSelWrite
  exact State.asWrite_keeps h3 (@fun t100 h101 => KeepsO.next (State.wrs_keeps h101 (fun _ _ => legal.reg rfl)))

theorem execSnapSelCheckDone_keeps {a : State} {camp : Nat} {busErr : Bool} {s : State} (h3 : Keeps a s) : KeepsO a (execSnapSelCheckDone camp busErr s) := by
  unfold execSnapSelCheckDone
  extract_lets +onlyGivenNames x100
  extract_lets +onlyGivenNames x101
  have h101 : Keeps2 a x101 := by
    unfold x101
    exact Keeps2.ite (fun _ => Keeps2.mk h3) (fun _ => State.deepFetch_keeps h3)
  clear_value x101
  extract_lets +onlyGivenNames x102
  exact KeepsO.next (State.wrs_keeps (Keeps2.snd h101) (fun _ _ => legal.reg rfl))

theorem State.restoreCluster_keeps {a s : State} {c : Nat} {base : Nat} {l : Nat} (h1 : Keeps a s) : Keeps a (State.restoreCluster s c base l) := by
  unfold State.restoreCluster
  extract_lets +onlyGivenNames x100
  extract_lets +onlyGivenNames x101
  exact State.wr_keeps (State.modCluster_keeps h1) (legal.reg rfl)

theorem State.restoreStep_keeps {a s : State} {c : Nat} {base : Nat} {i : Nat} (h1 : Keeps a s) : Keeps2 a (State.restoreStep s c base i) := by
  unfold State.restoreStep
  extract_lets +onlyGivenNames x100
  extract_lets +onlyGivenNames x101
  refine Keeps2.ite (fun _ => ?_) (fun _ => ?_)
  · extract_lets +onlyGivenNames x102
    have h102 : Keeps2 a x102 := by
      unfold x102
      exact State.deepFetch_keeps h1
    clear_value x102
    exact Keeps2.ite (fun _ => h102) (fun _ => Keeps2.mk (State.restoreCluster_keeps (Keeps2.snd h102)))
  · extract_lets +onlyGivenNames x103
    extract_lets +onlyGivenNames x104
    have h104 : Keeps2 a x104 := by
      unfold x104
      exact State.deepFetch_keeps h1
    clear_value x104
    exact Keeps2.ite (fun _ => h104) (fun _ => State.deepWrite_keeps (Keeps2.snd h104))

theorem State.restoreRun_keeps {a s : State} {c : Nat} {base : Nat} {n : Nat} (h1 : Keeps a s) : Keeps2 a (State.restoreRun s c base n) := by
  unfold State.restoreRun
  exact foldl_keeps2 (@fun t100 t101 h102 => Keeps2.ite (fun _ => h102) (fun _ => State.restoreStep_keeps (Keeps2.snd h102))) (Keeps2.mk h1)

theorem State.restoreTag_keeps {a s : State} {c : Nat} {base : Nat} {k : Nat} (h1 : Keeps a s) : Keeps a (State.restoreTag s c base k) := by
  unfold State.restoreTag
  extract_lets +onlyGivenNames x100
  exact State.wr_keeps (State.wrs_keeps h1 (fun _ _ => legal.reg rfl)) (legal.reg rfl)

theorem State.nextVector_keeps {a s : State} {c : Nat} (h1 : Keeps a s) : Keeps2 a (State.nextVector s c) := by
  unfold State.nextVector
  refine foldl_keeps2 ?_ (Keeps2.mk h1)
  intro t100 t101 h102
  extract_lets +onlyGivenNames x103
  extract_lets +onlyGivenNames x104
  exact Keeps2.mk (State.wr_keeps (Keeps2.snd h102) (legal.reg rfl))

theorem State.applyClock_keeps {a s : State} {c : Nat} {e : LogEntry} (h1 : Keeps a s) : Keeps a (State.applyClock s c e) := by
  unfold State.applyClock
  refine State.forEach_keeps h1 ?_
  intro t100 t101 h102
  extract_lets +onlyGivenNames x103
  exact State.wr_keeps (State.wrs_keeps h102 (fun _ _ => legal.reg rfl)) (legal.reg rfl)

theorem State.makeVector_keeps {a s : State} {c : Nat} {m : Nat} (h1 : Keeps a s) : Keeps2 a (State.makeVector s c m) := by
  unfold State.makeVector
  extract_lets +onlyGivenNames x100
  have h100 : Keeps a x100 := by
    unfold x100
    exact foldl_keeps (@fun t101 t102 h103 => State.applyClock_keeps h103) h1
  clear_value x100
  extract_lets +onlyGivenNames x104
  have h104 : Keeps2 a x104 := by
    unfold x104
    exact State.nextVector_keeps h100
  clear_value x104
  exact Keeps2.mk (State.modCamp_keeps (Keeps2.snd h104))

theorem State.queueVector_keeps {a s : State} {c : Nat} {m : Nat} {v : BitVec 16} (h1 : Keeps a s) : Keeps a (State.queueVector s c m v) := by
  unfold State.queueVector
  exact State.forEach_keeps h1 (@fun t100 t101 h102 => State.modGroup_keeps h102)

theorem State.makeVectors_keeps {a s : State} (h : Keeps a s) {c m n : Nat} : Keeps a (s.makeVectors c m n) := by
  induction n generalizing s m with
  | zero => exact h
  | succ n ih => exact ih (State.queueVector_keeps (Keeps2.snd (State.makeVector_keeps h)))

theorem State.restoreEnd_keeps {a s : State} {c : Nat} {base : Nat} (h1 : Keeps a s) : Keeps a (State.restoreEnd s c base) := by
  unfold State.restoreEnd
  extract_lets +onlyGivenNames x100
  extract_lets +onlyGivenNames x101
  extract_lets +onlyGivenNames x102
  have h102 : Keeps a x102 := by
    unfold x102
    exact foldl_keeps (@fun t103 t104 h105 => State.restoreTag_keeps h105) h1
  clear_value x102
  extract_lets +onlyGivenNames x106
  extract_lets +onlyGivenNames x107
  extract_lets +onlyGivenNames x108
  have h108 : Keeps a x108 := by
    unfold x108
    exact State.modCamp_keeps h102
  clear_value x108
  exact State.makeVectors_keeps h108

theorem State.restore_keeps {a s : State} {c : Nat} (h1 : Keeps a s) : Keeps2 a (State.restore s c) := by
  unfold State.restore
  extract_lets +onlyGivenNames x100
  extract_lets +onlyGivenNames x101
  have h101 : Keeps2 a x101 := by
    unfold x101
    exact State.deepFetch_keeps h1
  clear_value x101
  refine Keeps2.ite (fun _ => h101) (fun _ => ?_)
  extract_lets +onlyGivenNames x102
  have h102 : Keeps2 a x102 := by
    unfold x102
    exact State.restoreRun_keeps (Keeps2.snd h101)
  clear_value x102
  exact Keeps2.ite (fun _ => h102) (fun _ => Keeps2.mk (State.restoreEnd_keeps (Keeps2.snd h102)))

theorem State.restorePart_keeps {a s : State} {c : Nat} {written : Nat} (h1 : Keeps a s) : Keeps a (State.restorePart s c written) := by
  unfold State.restorePart
  extract_lets +onlyGivenNames x100
  exact Keeps2.snd (State.restoreRun_keeps h1)

theorem State.dcErr_keeps {a s : State} {c : Nat} (h1 : Keeps a s) : Keeps a (State.dcErr s c) := by
  unfold State.dcErr
  exact State.wr_keeps h1 (legal.reg rfl)

theorem State.clockSet_keeps {a s : State} {c : Nat} (h1 : Keeps a s) : Keeps a (State.clockSet s c) := by
  unfold State.clockSet
  exact State.modCamp_keeps h1

theorem execDcTagWrite_keeps {a : State} {camp : Nat} {k : Nat} {num : Nat} {den : Nat} {en : Bool} {s : State} (h6 : Keeps a s) : KeepsO a (execDcTagWrite camp k num den en s) := by
  unfold execDcTagWrite
  exact State.asWrite_keeps h6 (@fun t100 h101 => KeepsO.ite (fun _ => KeepsO.next (State.dcErr_keeps h101)) (fun _ => KeepsO.ite (fun _ => KeepsO.next h101) (fun _ => KeepsO.ite (fun _ => KeepsO.next (State.clockSet_keeps (State.wrs_keeps h101 (fun _ _ => legal.reg rfl)))) (fun _ => KeepsO.next (State.dcErr_keeps h101)))))

theorem execDcAccWrite_keeps {a : State} {camp : Nat} {k : Nat} {acc : Nat} {s : State} (h4 : Keeps a s) : KeepsO a (execDcAccWrite camp k acc s) := by
  unfold execDcAccWrite
  refine State.asWrite_keeps h4 ?_
  intro t100 h101
  extract_lets +onlyGivenNames x102
  exact KeepsO.ite (fun _ => KeepsO.next (State.dcErr_keeps h101)) (fun _ => KeepsO.ite (fun _ => KeepsO.next h101) (fun _ => KeepsO.ite (fun _ => KeepsO.next (State.clockSet_keeps (State.wr_keeps h101 (legal.reg rfl)))) (fun _ => KeepsO.next (State.dcErr_keeps h101))))

theorem State.dmErr_keeps {a s : State} {ch : Nat} (h1 : Keeps a s) : Keeps a (State.dmErr s ch) := by
  unfold State.dmErr
  exact State.wr_keeps h1 (legal.reg rfl)

theorem State.trainHost_keeps {a s : State} {ch : Nat} {host : Bool} (h1 : Keeps a s) : Keeps a (State.trainHost s ch host) := by
  unfold State.trainHost
  exact Keeps.ite (fun _ => h1) (fun _ => Keeps.ite (fun _ => State.wr_keeps h1 (legal.reg rfl)) (fun _ => State.dmErr_keeps h1))

theorem State.loseRow_keeps {a s : State} {b : BankId} {row : Nat} (h1 : Keeps a s) : Keeps a (State.loseRow s b row) := by
  unfold State.loseRow
  refine State.forEach_keeps h1 ?_
  intro t100 t101 h102
  extract_lets +onlyGivenNames x103
  have h103 : Keeps a x103 := by
    unfold x103
    exact State.sealBytes_keeps h102
  clear_value x103
  exact Keeps.ite (fun _ => h103) (fun _ => State.modDeep_keeps h103 (fun h => h))

theorem State.startInit_keeps {a s : State} {ch : Nat} (h1 : Keeps a s) : Keeps a (State.startInit s ch) := by
  unfold State.startInit
  exact State.modDeep_keeps (State.forEach_keeps h1 (@fun t100 t101 h102 => State.loseRow_keeps h102)) (fun h => h)

theorem execDmInit_keeps {a : State} {chan : Nat} {host : Bool} {s : State} (h3 : Keeps a s) : KeepsO a (execDmInit chan host s) := by
  unfold execDmInit
  refine State.asWrite_keeps h3 ?_
  intro t100 h101
  extract_lets +onlyGivenNames x102
  have h102 : Keeps a x102 := by
    unfold x102
    exact State.trainHost_keeps h101
  clear_value x102
  extract_lets +onlyGivenNames x103
  exact KeepsO.ite (fun _ => KeepsO.next (State.wr_keeps (State.startInit_keeps h102) (legal.reg rfl))) (fun _ => KeepsO.next (State.dmErr_keeps h102))

theorem execDmInitDone_keeps {a : State} {chan : Nat} {ok : Bool} {s : State} (h3 : Keeps a s) : KeepsO a (execDmInitDone chan ok s) := by
  unfold execDmInitDone
  exact KeepsO.ite (fun _ => KeepsO.next (State.wr_keeps (State.modDeep_keeps h3 (fun h => h)) (legal.reg rfl))) (fun _ => KeepsO.next h3)

theorem execDmActivate_keeps {a : State} {chan : Nat} {host : Bool} {s : State} (h3 : Keeps a s) : KeepsO a (execDmActivate chan host s) := by
  unfold execDmActivate
  refine State.asWrite_keeps h3 ?_
  intro t100 h101
  extract_lets +onlyGivenNames x102
  have h102 : Keeps a x102 := by
    unfold x102
    exact State.trainHost_keeps h101
  clear_value x102
  exact KeepsO.ite (fun _ => KeepsO.next (State.wr_keeps h102 (legal.reg rfl))) (fun _ => KeepsO.next (State.dmErr_keeps h102))

theorem execDmQuiesce_keeps {a : State} {chan : Nat} {host : Bool} {s : State} (h3 : Keeps a s) : KeepsO a (execDmQuiesce chan host s) := by
  unfold execDmQuiesce
  refine State.asWrite_keeps h3 ?_
  intro t100 h101
  extract_lets +onlyGivenNames x102
  have h102 : Keeps a x102 := by
    unfold x102
    exact State.trainHost_keeps h101
  clear_value x102
  exact KeepsO.ite (fun _ => KeepsO.next (State.modDeep_keeps h102 (fun h => h))) (fun _ => KeepsO.next (State.dmErr_keeps h102))

theorem execQuiesceDone_keeps {a : State} {chan : Nat} {s : State} (h2 : Keeps a s) : KeepsO a (execQuiesceDone chan s) := by
  unfold execQuiesceDone
  exact KeepsO.ite (fun _ => KeepsO.next (State.wr_keeps (State.modDeep_keeps h2 (fun h => h)) (legal.reg rfl))) (fun _ => KeepsO.next h2)

theorem execDmPpr_keeps {a : State} {chan : Nat} {host : Bool} {s : State} (h3 : Keeps a s) : KeepsO a (execDmPpr chan host s) := by
  unfold execDmPpr
  refine State.asWrite_keeps h3 ?_
  intro t100 h101
  extract_lets +onlyGivenNames x102
  have h102 : Keeps a x102 := by
    unfold x102
    exact State.trainHost_keeps h101
  clear_value x102
  exact KeepsO.ite (fun _ => KeepsO.next (State.modDeep_keeps h102 (fun h => h))) (fun _ => KeepsO.next (State.dmErr_keeps h102))

theorem execPprDone_keeps {a : State} {chan : Nat} {ok : Bool} {s : State} (h3 : Keeps a s) : KeepsO a (execPprDone chan ok s) := by
  unfold execPprDone
  refine KeepsO.ite (fun _ => ?_) (fun _ => KeepsO.next h3)
  extract_lets +onlyGivenNames x100
  have h100 : Keeps a x100 := by
    unfold x100
    exact State.modDeep_keeps h3 (fun h => h)
  clear_value x100
  extract_lets +onlyGivenNames x101
  extract_lets +onlyGivenNames x102
  exact KeepsO.ite (fun _ => KeepsO.next (State.loseRow_keeps (State.modDeep_keeps h100 (fun h => h)))) (fun _ => KeepsO.next (State.wr_keeps (State.wr_keeps h100 (legal.reg rfl)) (legal.reg rfl)))

theorem State.trainOp_keeps {a s : State} {ch : Nat} {op : Nat} {sub : Nat} {mr : Nat} {data : Nat} {fw : Bool} (h1 : Keeps a s) : Keeps a (State.trainOp s ch op sub mr data fw) := by
  unfold State.trainOp
  exact Keeps.ite (fun _ => State.wrs_keeps (State.modDeep_keeps h1 (fun h => h)) (fun _ _ => legal.reg rfl)) (fun _ => State.dmErr_keeps h1)

theorem execMrw_keeps {a : State} {chan : Nat} {sub : Nat} {mr : Nat} {data : Nat} {s : State} (h5 : Keeps a s) : KeepsO a (execMrw chan sub mr data s) := by
  unfold execMrw
  exact State.asWrite_keeps h5 (@fun t100 h101 => KeepsO.next (State.trainOp_keeps h101))

theorem execMrr_keeps {a : State} {chan : Nat} {sub : Nat} {mr : Nat} {data : Nat} {s : State} (h5 : Keeps a s) : KeepsO a (execMrr chan sub mr data s) := by
  unfold execMrr
  exact State.asWrite_keeps h5 (@fun t100 h101 => KeepsO.next (State.trainOp_keeps h101))

theorem execMpc_keeps {a : State} {chan : Nat} {sub : Nat} {mr : Nat} {data : Nat} {s : State} (h5 : Keeps a s) : KeepsO a (execMpc chan sub mr data s) := by
  unfold execMpc
  exact State.asWrite_keeps h5 (@fun t100 h101 => KeepsO.next (State.trainOp_keeps h101))

theorem execTrainOpDone_keeps {a : State} {chan : Nat} {data : Nat} {s : State} (h3 : Keeps a s) : KeepsO a (execTrainOpDone chan data s) := by
  unfold execTrainOpDone
  refine KeepsO.ite (fun _ => ?_) (fun _ => KeepsO.next h3)
  extract_lets +onlyGivenNames x100
  extract_lets +onlyGivenNames x101
  have h101 : Keeps a x101 := by
    unfold x101
    exact State.wr_keeps h3 (legal.reg rfl)
  clear_value x101
  split
  · exact KeepsO.next (State.modDeep_keeps h101 (fun h => h))
  · exact KeepsO.next (State.wr_keeps h101 (legal.reg rfl))
  · exact KeepsO.next h101

theorem execDmMapWrite_keeps {a : State} {chan : Nat} {k : Nat} {mask : Nat} {s : State} (h4 : Keeps a s) : KeepsO a (execDmMapWrite chan k mask s) := by
  unfold execDmMapWrite
  exact State.asWriteAt_keeps h4 (@fun t100 h101 => KeepsO.ite (fun _ => KeepsO.next (State.forEach_keeps h101 (@fun t102 t103 h104 => State.dmErr_keeps h104))) (fun _ => KeepsO.ite (fun _ => KeepsO.next (State.wr_keeps h101 (legal.reg rfl))) (fun _ => KeepsO.next (State.dmErr_keeps h101))))

theorem State.issueRefresh_keeps {a s : State} {r : Refresh} (h1 : Keeps a s) : Keeps a (State.issueRefresh s r) := by
  unfold State.issueRefresh
  exact State.modDeep_keeps h1 (fun h => h)

theorem execRefreshDue_keeps {a : State} {chan : Nat} {sub : Nat} {bank : Option Nat} {s0 : State} (h4 : Keeps a s0) : KeepsO a (execRefreshDue chan sub bank s0) := by
  unfold execRefreshDue
  extract_lets +onlyGivenNames x100
  refine KeepsO.ite (fun _ => ?_) (fun _ => KeepsO.next h4)
  extract_lets +onlyGivenNames x101
  have h101 : Keeps a x101 := by
    unfold x101
    exact State.modDeep_keeps h4 (fun h => h)
  clear_value x101
  extract_lets +onlyGivenNames x102
  extract_lets +onlyGivenNames x103
  exact KeepsO.ite (fun _ => KeepsO.next (State.modDeep_keeps h101 (fun h => h))) (fun _ => KeepsO.ite (fun _ => KeepsO.next (State.wr_keeps h101 (legal.reg rfl))) (fun _ => KeepsO.next (State.issueRefresh_keeps h101)))

theorem execPostponedRefreshIssue_keeps {a : State} {chan : Nat} {sub : Nat} {bank : Option Nat} {s : State} (h4 : Keeps a s) : KeepsO a (execPostponedRefreshIssue chan sub bank s) := by
  unfold execPostponedRefreshIssue
  refine KeepsO.ite (fun _ => ?_) (fun _ => KeepsO.next h4)
  extract_lets +onlyGivenNames x100
  extract_lets +onlyGivenNames x101
  extract_lets +onlyGivenNames x102
  exact KeepsO.ite (fun _ => KeepsO.next (State.issueRefresh_keeps (State.wr_keeps h4 (legal.reg rfl)))) (fun _ => KeepsO.ite (fun _ => KeepsO.next (State.issueRefresh_keeps (State.modDeep_keeps h4 (fun h => h)))) (fun _ => KeepsO.next h4))

theorem State.reply_keeps {a s : State} {r : DeepReq} {v : Served} (h1 : Keeps a s) : Keeps a (State.reply s r v) := by
  unfold State.reply
  extract_lets +onlyGivenNames x100
  have h100 : Keeps a x100 := by
    unfold x100
    split
    · exact Keeps.ite (fun _ => State.idError_keeps h1) (fun _ => h1)
    · exact h1
  clear_value x100
  exact State.emit_keeps h100

theorem State.serveHeld_keeps {a s : State} (h1 : Keeps a s) : Keeps a (State.serveHeld s) := by
  unfold State.serveHeld
  refine foldl_keeps ?_ h1
  intro t100 t101 h102
  refine Keeps.ite (fun _ => h102) (fun _ => ?_)
  extract_lets +onlyGivenNames x103
  have h103 : Keeps2 a x103 := by
    unfold x103
    exact State.serve_keeps (State.modDeep_keeps h102 (fun h => h))
  clear_value x103
  exact State.reply_keeps (Keeps2.snd h103)

/-- A tick keeps everything but the tick count. -/
theorem State.tick_keeps (s : State) : Keeps { s with ticks := s.ticks + 1 } s.tick := by
  unfold State.tick
  extract_lets s1 s2
  have h1 : Keeps s s1 := Keeps.ite (fun _ => Keeps.refl s) fun _ => State.noteHolds_keeps (Keeps.refl s)
  have h2 : Keeps { s with ticks := s.ticks + 1 } s2 :=
    ⟨h1.pending, h1.part, congrArg (· + 1) h1.ticks, h1.out, h1.ids, h1.draws, fun ha =>
      let i := h1.inv ⟨ha.fits, ha.codes, ha.mem, ha.time⟩
      ⟨i.fits, i.codes, i.mem, Nat.mod_lt _ (Nat.two_pow_pos 96)⟩⟩
  exact Keeps.ite (fun _ => h2) fun _ => State.serveHeld_keeps h2

theorem execRefreshDone_keeps {a : State} {chan : Nat} {sub : Nat} {bank : Option Nat} {s : State} (h4 : Keeps a s) : KeepsO a (execRefreshDone chan sub bank s) := by
  unfold execRefreshDone
  exact KeepsO.next (State.serveHeld_keeps (State.modDeep_keeps (State.noteHolds_keeps h4) (fun h => h)))

theorem execRhWindowClear_keeps {a : State} {chan : Nat} {s : State} (h2 : Keeps a s) : KeepsO a (execRhWindowClear chan s) := by
  unfold execRhWindowClear
  exact KeepsO.next (State.serveHeld_keeps (State.modDeep_keeps (State.noteHolds_keeps h2) (fun h => h)))

theorem execRfmDone_keeps {a : State} {chan : Nat} {sub : Nat} {bank : Nat} {row : Nat} {s : State} (h5 : Keeps a s) : KeepsO a (execRfmDone chan sub bank row s) := by
  unfold execRfmDone
  extract_lets +onlyGivenNames x100
  split
  · exact KeepsO.next h5
  · exact KeepsO.ite (fun _ => KeepsO.next h5) (fun _ => KeepsO.next (State.serveHeld_keeps (State.modDeep_keeps (State.noteHolds_keeps h5) (fun h => h))))

theorem State.deepBus_keeps {a s : State} {c : Nat} {alarmed : Bool} {i : DeepIssue} (h1 : Keeps a s) : Keeps a (State.deepBus s c alarmed i) := by
  unfold State.deepBus
  refine Keeps.ite (fun _ => ?_) (fun _ => h1)
  refine State.faultArrives_keeps ?_
  refine State.contractEvent_keeps h1 ?_
  intro t100 h101
  unfold id
  exact h101

theorem State.serveScheduled_keeps {a s : State} {c : Nat} {ch : Nat} {o : DeepObs} (h1 : Keeps a s) : Keeps a (State.serveScheduled s c ch o) := by
  unfold State.serveScheduled
  split
  · exact h1
  · extract_lets +onlyGivenNames x100
    extract_lets +onlyGivenNames x101
    have h101 : Keeps2 a x101 := by
      unfold x101
      exact State.serve_keeps (Keeps.ite (fun _ => State.copyPage_keeps h1) (fun _ => h1))
    clear_value x101
    extract_lets +onlyGivenNames x102
    have h102 : Keeps a x102 := by
      unfold x102
      exact State.modCamp_keeps (Keeps2.snd h101)
    clear_value x102
    extract_lets +onlyGivenNames x103
    have h103 : Keeps a x103 := by
      unfold x103
      split
      · exact h102
      · exact State.deepBus_keeps h102
    clear_value x103
    extract_lets +onlyGivenNames x104
    exact State.modCamp_keeps h103

theorem execDeepRequest_keeps {a : State} {req : DeepReq} {obs : DeepObs} {s : State} (h3 : Keeps a s) : KeepsO a (execDeepRequest req obs s) := by
  unfold execDeepRequest
  refine KeepsO.ite (fun _ => KeepsO.next (State.serveHeld_keeps (State.serveScheduled_keeps h3))) (fun _ => ?_)
  extract_lets +onlyGivenNames x100
  have h100 : Keeps2 a x100 := by
    unfold x100
    exact State.submit_keeps h3
  clear_value x100
  split
  · exact KeepsO.next (Keeps2.snd h100)
  · exact KeepsO.next (State.reply_keeps (Keeps2.snd h100))

theorem execDeepReadDataArrive_keeps {a : State} {camp : Nat} {pitch : Nat} {entry : Nat} {frozen : Nat} {s : State} (h5 : Keeps a s) : KeepsO a (execDeepReadDataArrive camp pitch entry frozen s) := by
  unfold execDeepReadDataArrive
  split
  · exact KeepsO.next h5
  · extract_lets +onlyGivenNames x100
    have h100 : Keeps a x100 := by
      unfold x100
      exact State.modCamp_keeps h5
    clear_value x100
    exact KeepsO.next (State.releaseStalls_keeps h100)

theorem execReencryptDone_keeps {a : State} {page : Nat} {frozen : Nat} {s : State} (h3 : Keeps a s) : KeepsO a (execReencryptDone page frozen s) := by
  unfold execReencryptDone
  exact KeepsO.ite (fun _ => KeepsO.next (State.serveHeld_keeps (State.endReenc_keeps (State.noteHolds_keeps h3)))) (fun _ => KeepsO.next h3)

end Sys2Proof.Machine
end

