-- ==== Sys2Proof/Laws/KeepsPower.lean ====
section
/-! SUPPORT. Every operation and command of power, boot, the guyline, boundaries and keys passes `Keeps` on. -/

namespace Sys2Proof.Machine

set_option Elab.async false

theorem State.modPower_keeps {a s : State} {f : Power → Power} (h1 : Keeps a s) : Keeps a (State.modPower s f) := by
  unfold State.modPower
  exact Keeps.frame (s := s) h1 rfl rfl rfl rfl (Nat.le_refl _) (Nat.le_refl _) rfl rfl rfl

theorem State.domOn_keeps {a s : State} {d : Nat} (h1 : Keeps a s) : Keeps a (State.domOn s d) := by
  unfold State.domOn
  exact Keeps.ite (fun _ => h1) (fun _ => Keeps.ite (fun _ => State.modPower_keeps (State.wr_keeps h1 (legal.reg rfl))) (fun _ => Keeps.ite (fun _ => State.modPower_keeps h1) (fun _ => h1)))

theorem execDomainOn_keeps {a : State} {dom : Nat} {s : State} (h2 : Keeps a s) : KeepsO a (execDomainOn dom s) := by
  unfold execDomainOn
  exact State.asWrite_keeps h2 (@fun t100 h101 => KeepsO.next (State.domOn_keeps h101))

theorem execDomainOnStart_keeps {a : State} {sinceLast : Nat} {s : State} (h2 : Keeps a s) : KeepsO a (execDomainOnStart sinceLast s) := by
  unfold execDomainOnStart
  split
  · exact KeepsO.next h2
  · exact KeepsO.ite (fun _ => KeepsO.next (State.modPower_keeps h2)) (fun _ => KeepsO.next h2)

theorem State.enterDram_keeps {a s : State} {delays : List (TrainKey × Nat)} (h1 : Keeps a s) : Keeps a (State.enterDram s delays) := by
  unfold State.enterDram
  extract_lets +onlyGivenNames x100
  have h100 : Keeps a x100 := by
    unfold x100
    exact State.wr_keeps h1 (legal.reg rfl)
  clear_value x100
  exact Keeps.ite (fun _ => h100) (fun _ => State.forEach_keeps (State.modDeep_keeps h100 (fun h => h)) (@fun t101 t102 h103 => State.startInit_keeps h103))

theorem State.resetCores_keeps {a s : State} (h1 : Keeps a s) : Keeps a (State.resetCores s) := by
  unfold State.resetCores
  extract_lets +onlyGivenNames x100
  have h100 : Keeps a x100 := by
    unfold x100
    exact State.forEach_keeps h1 (@fun t101 t102 h103 => State.wr_keeps (State.wr_keeps h103 (legal.reg rfl)) (legal.reg rfl))
  clear_value x100
  exact Keeps.frame (s := x100) h100 rfl rfl rfl rfl (Nat.le_refl _) (Nat.le_refl _) rfl rfl rfl

theorem State.bootGoesOn_keeps {a s : State} (h1 : Keeps a s) : Keeps a (State.bootGoesOn s) := by
  unfold State.bootGoesOn
  exact Keeps.ite (fun _ => State.enterDram_keeps h1) (fun _ => h1)

theorem execDomainOnDone_keeps {a : State} {dom : Nat} {s : State} (h2 : Keeps a s) : KeepsO a (execDomainOnDone dom s) := by
  unfold execDomainOnDone
  refine KeepsO.ite (fun _ => ?_) (fun _ => KeepsO.next h2)
  extract_lets +onlyGivenNames x100
  have h100 : Keeps a x100 := by
    unfold x100
    exact State.wr_keeps (State.modPower_keeps h2) (legal.reg rfl)
  clear_value x100
  extract_lets +onlyGivenNames x101
  have h101 : Keeps a x101 := by
    unfold x101
    exact Keeps.ite (fun _ => State.clearPitch_keeps h100) (fun _ => Keeps.ite (fun _ => State.traceRoute_keeps (State.modTrace_keeps (State.forEach_keeps h100 (@fun t102 t103 h104 => State.wr_keeps h104 (legal.reg rfl))))) (fun _ => Keeps.ite (fun _ => State.forEach_keeps h100 (@fun t105 t106 h107 => State.startTraining_keeps h107)) (fun _ => Keeps.ite (fun _ => State.resetCores_keeps h100) (fun _ => h100))))
  clear_value x101
  exact KeepsO.next (State.bootGoesOn_keeps h101)

theorem execWakeClearEnd_keeps {a : State} {pitch : Nat} {s : State} (h2 : Keeps a s) : KeepsO a (execWakeClearEnd pitch s) := by
  unfold execWakeClearEnd
  extract_lets +onlyGivenNames x100
  exact KeepsO.ite (fun _ => KeepsO.next (State.clearEnd_keeps h2)) (fun _ => KeepsO.next h2)

theorem State.writeBack_keeps {a s : State} (h : Keeps a s) {k : Nat} {d : DLine} {o : DeepObs} : Keeps a (s.writeBack k d o) := by
  unfold State.writeBack
  split
  · exact h
  · rename_i old _
    extract_lets w t
    have ht : Keeps a t := State.modCore_keeps (Keeps2.snd (State.serve_keeps h))
    refine Keeps.ite (fun _ => ?_) fun _ => ht
    exact Keeps.deepBytes ht rfl rfl rfl rfl (Nat.le_refl _) (Nat.le_refl _) rfl (fun w => Deep.putBytes_wf w) rfl

theorem State.writeBackAll_keeps {a s : State} (h1 : Keeps a s) : Keeps a (State.writeBackAll s) := by
  unfold State.writeBackAll
  exact State.forEach_keeps h1 (@fun t100 t101 h102 => State.forEach_keeps h102 (@fun t103 t104 h105 => State.writeBack_keeps h105))

theorem State.beginDrain_keeps {a s : State} {d : Nat} (h1 : Keeps a s) : Keeps a (State.beginDrain s d) := by
  unfold State.beginDrain
  extract_lets +onlyGivenNames x100
  have h100 : Keeps a x100 := by
    unfold x100
    exact Keeps.ite (fun _ => State.writeBackAll_keeps h1) (fun _ => h1)
  clear_value x100
  extract_lets +onlyGivenNames x101
  have h101 : Keeps a x101 := by
    unfold x101
    exact State.modNoc_keeps (State.wr_keeps h100 (legal.reg rfl))
  clear_value x101
  extract_lets +onlyGivenNames x102
  have h102 : Keeps a x102 := by
    unfold x102
    exact State.modPower_keeps h101
  clear_value x102
  exact Keeps.ite (fun _ => State.traceRoute_keeps (State.modTrace_keeps h102)) (fun _ => h102)

theorem State.powerErr_keeps {a s : State} (h1 : Keeps a s) : Keeps a (State.powerErr s) := by
  unfold State.powerErr
  exact State.irq_keeps (State.wr_keeps h1 (legal.reg rfl))

theorem State.domOff_keeps {a s : State} {d : Nat} {side : Bool} (h1 : Keeps a s) : Keeps a (State.domOff s d side) := by
  unfold State.domOff
  exact Keeps.ite (fun _ => h1) (fun _ => Keeps.ite (fun _ => State.powerErr_keeps h1) (fun _ => Keeps.ite (fun _ => State.beginDrain_keeps h1) (fun _ => h1)))

theorem execDomainOff_keeps {a : State} {dom : Nat} {side : Bool} {s : State} (h3 : Keeps a s) : KeepsO a (execDomainOff dom side s) := by
  unfold execDomainOff
  exact State.asWrite_keeps h3 (@fun t100 h101 => KeepsO.next (State.domOff_keeps h101))

theorem State.resetHostIf_keeps {a s : State} (h : Keeps a s) : Keeps a s.resetHostIf := by
  unfold State.resetHostIf
  refine State.wr_keeps (State.modNoc_keeps ?_) (legal.reg rfl)
  exact Keeps.fewer h rfl rfl rfl rfl (Nat.le_refl _) (Nat.le_refl _) (fun _ he => (List.mem_filter.mp he).1) rfl rfl

theorem State.domLoses_keeps {a s : State} {d : Nat} (h1 : Keeps a s) : Keeps a (State.domLoses s d) := by
  unfold State.domLoses
  refine Keeps.ite (fun _ => State.forEach_keeps h1 (@fun t100 t101 h102 => State.wr_keeps (State.modCluster_keeps h102) (legal.reg rfl))) (fun _ => ?_)
  refine Keeps.ite (fun _ => ?_) (fun _ => Keeps.ite (fun _ => State.resetHostIf_keeps h1) (fun _ => Keeps.ite (fun _ => State.forEach_keeps h1 (@fun t108 t109 h110 => State.setNbr_keeps (State.modHn_keeps (State.wrs_keeps (State.wrs_keeps h110 (fun _ _ => legal.reg rfl)) (fun _ _ => legal.reg rfl))))) (fun _ => Keeps.ite (fun _ => State.resetCores_keeps h1) (fun _ => h1))))
  extract_lets +onlyGivenNames x103
  have h103 : Keeps a x103 := by
    unfold x103
    exact State.sealPair_keeps (State.forEach_keeps h1 (@fun t104 t105 h106 => State.wrs_keeps h106 (fun _ _ => legal.reg rfl)))
  clear_value x103
  extract_lets +onlyGivenNames x107
  exact State.modDeep_keeps h103 (fun h => h)

theorem State.domIsOff_keeps {a s : State} {d : Nat} (h1 : Keeps a s) : Keeps a (State.domIsOff s d) := by
  unfold State.domIsOff
  extract_lets +onlyGivenNames x100
  have h100 : Keeps a x100 := by
    unfold x100
    exact State.wr_keeps (State.domLoses_keeps h1) (legal.reg rfl)
  clear_value x100
  exact Keeps.ite (fun _ => State.domOn_keeps (State.modPower_keeps h100)) (fun _ => h100)

theorem execPowerDownDrainDone_keeps {a : State} {dom : Nat} {s : State} (h2 : Keeps a s) : KeepsO a (execPowerDownDrainDone dom s) := by
  unfold execPowerDownDrainDone
  exact KeepsO.ite (fun _ => KeepsO.next (State.domIsOff_keeps h2)) (fun _ => KeepsO.next h2)

theorem execPdTimeout_keeps {a : State} {dom : Nat} {s : State} (h2 : Keeps a s) : KeepsO a (execPdTimeout dom s) := by
  unfold execPdTimeout
  refine KeepsO.ite (fun _ => ?_) (fun _ => KeepsO.next h2)
  extract_lets +onlyGivenNames x100
  extract_lets +onlyGivenNames x101
  have h101 : Keeps a x101 := by
    unfold x101
    exact State.modNoc_keeps h2
  clear_value x101
  extract_lets +onlyGivenNames x102
  have h102 : Keeps a x102 := by
    unfold x102
    exact State.bump_keeps (State.forEach_keeps h101 (@fun t103 t104 h105 => State.answerOff_keeps h105)) rfl
  clear_value x102
  extract_lets +onlyGivenNames x106
  have h106 : Keeps a x106 := by
    unfold x106
    exact State.forEach_keeps h102 (@fun t107 t108 h109 => State.logPd_keeps h109)
  clear_value x106
  extract_lets +onlyGivenNames x110
  extract_lets +onlyGivenNames x111
  have h111 : Keeps a x111 := by
    unfold x111
    exact State.forEach_keeps h106 (@fun t112 t113 h114 => State.emit_keeps (State.bump_keeps (State.modDeep_keeps h114 (fun h => h)) rfl))
  clear_value x111
  exact KeepsO.next (State.domIsOff_keeps h111)

theorem State.showHealth_keeps {a s : State} (h1 : Keeps a s) : Keeps a (State.showHealth s) := by
  unfold State.showHealth
  extract_lets +onlyGivenNames x100
  extract_lets +onlyGivenNames x101
  have h101 : Keeps a x101 := by
    unfold x101
    exact State.wrs_keeps h1 (fun _ _ => legal.reg rfl)
  clear_value x101
  exact State.forEach_keeps h101 (@fun t102 t103 h104 => State.refreshPitch_keeps h104)

theorem State.pickRef_keeps {a s : State} {present : Bool} (h1 : Keeps a s) : Keeps a (State.pickRef s present) := by
  unfold State.pickRef
  exact State.wrs_keeps h1 (fun _ _ => legal.reg rfl)

theorem State.wipe_keeps {a s : State} (h : Keeps a s) {keep : RegKey → Bool} : Keeps a (s.wipe keep) :=
  ⟨h.pending, h.part, h.ticks, h.out, h.ids, Nat.le_trans h.draws (Nat.le_succ _), fun ha => let i := h.inv ha
    ⟨fun e he => i.fits e (List.mem_filter.mp he).1, fun e he => i.codes e (List.mem_filter.mp he).1, rfl, Nat.two_pow_pos 96⟩⟩

theorem State.moduleReset_keeps {a s : State} {last : Nat} (h1 : Keeps a s) : Keeps a (State.moduleReset s last) := by
  unfold State.moduleReset
  refine Keeps.ite (fun _ => h1) (fun _ => ?_)
  extract_lets +onlyGivenNames x100
  have h100 : Keeps a x100 := by
    unfold x100
    exact State.pickRef_keeps (State.wipe_keeps h1)
  clear_value x100
  exact State.wrs_keeps (State.showHealth_keeps h100) (fun _ _ => legal.reg rfl)

theorem State.shutOff_keeps {a s : State} {last : Nat} (h1 : Keeps a s) : Keeps a (State.shutOff s last) := by
  unfold State.shutOff
  exact Keeps.ite (fun _ => h1) (fun _ => State.modPower_keeps (State.showHealth_keeps (State.wipe_keeps h1)))

theorem execInputBrownout_keeps {a s : State} (h1 : Keeps a s) : KeepsO a (execInputBrownout s) := by
  unfold execInputBrownout
  exact KeepsO.next (State.shutOff_keeps h1)

theorem execInputOvervoltage_keeps {a s : State} (h1 : Keeps a s) : KeepsO a (execInputOvervoltage s) := by
  unfold execInputOvervoltage
  exact KeepsO.next (State.shutOff_keeps h1)

theorem execThermalShutdown_keeps {a s : State} (h1 : Keeps a s) : KeepsO a (execThermalShutdown s) := by
  unfold execThermalShutdown
  exact KeepsO.next (State.shutOff_keeps h1)

theorem execInputRecovery_keeps {a s : State} (h1 : Keeps a s) : KeepsO a (execInputRecovery s) := by
  unfold execInputRecovery
  split
  · exact KeepsO.next (Keeps.ite (fun _ => State.moduleReset_keeps h1) (fun _ => h1))
  · exact KeepsO.next h1

theorem execThermalCooldown_keeps {a s : State} (h1 : Keeps a s) : KeepsO a (execThermalCooldown s) := by
  unfold execThermalCooldown
  exact KeepsO.next (Keeps.ite (fun _ => State.moduleReset_keeps h1) (fun _ => h1))

theorem execInputPowerRemoved_keeps {a s : State} (h : Keeps a s) : KeepsO a (execInputPowerRemoved s) :=
  KeepsO.next ⟨h.pending, h.part, h.ticks, h.out, h.ids, Nat.le_trans h.draws (Nat.le_succ _), fun _ =>
    ⟨fun _ he => (nomatch he), fun _ he => (nomatch he), rfl, Nat.two_pow_pos 96⟩⟩

theorem execPowerOn_keeps {a : State} {refin : Bool} {s : State} (h2 : Keeps a s) : KeepsO a (execPowerOn refin s) := by
  unfold execPowerOn
  refine KeepsO.ite (fun _ => ?_) (fun _ => KeepsO.next h2)
  extract_lets +onlyGivenNames x100
  extract_lets +onlyGivenNames x101
  extract_lets +onlyGivenNames x102
  extract_lets +onlyGivenNames x103
  have h103 : Keeps a x103 := by
    unfold x103
    exact Keeps.frame (s := s) h2 rfl rfl rfl rfl (Nat.le_refl _) (Nat.le_add_right _ _) rfl rfl rfl
  clear_value x103
  exact KeepsO.next (State.wrs_keeps (State.showHealth_keeps (State.pickRef_keeps h103)) (fun _ _ => legal.reg rfl))

theorem execPwReset_keeps {a : State} {_f : PwFields} {s : State} (h2 : Keeps a s) : KeepsO a (execPwReset _f s) := by
  unfold execPwReset
  exact State.asWrite_keeps h2 (@fun t100 h101 => KeepsO.next (State.moduleReset_keeps h101))

theorem State.applySpares_keeps {a s : State} (h1 : Keeps a s) : Keeps a (State.applySpares s) := by
  unfold State.applySpares
  refine Keeps.ite (fun _ => h1) (fun _ => ?_)
  extract_lets +onlyGivenNames x100
  have h100 : Keeps a x100 := by
    unfold x100
    exact State.forEach_keeps h1 (@fun t101 t102 h103 => State.selectSpare_keeps h103)
  clear_value x100
  refine State.showHealth_keeps ?_
  exact Keeps.frame (s := x100) h100 rfl rfl rfl rfl (Nat.le_refl _) (Nat.le_refl _) rfl rfl rfl

theorem State.startFirmware_keeps {a s : State} {slot : Nat} {rev : Nat} (h1 : Keeps a s) : Keeps a (State.startFirmware s slot rev) := by
  unfold State.startFirmware
  extract_lets +onlyGivenNames x100
  have h100 : Keeps a x100 := by
    unfold x100
    exact State.wrs_keeps (State.wr_keeps h1 (legal.reg rfl)) (fun _ _ => legal.reg rfl)
  clear_value x100
  extract_lets +onlyGivenNames x101
  extract_lets +onlyGivenNames x102
  have h102 : Keeps a x102 := by
    unfold x102
    exact State.wr_keeps (State.wr_keeps (State.setFbId_keeps h100) (legal.reg rfl)) (legal.reg rfl)
  clear_value x102
  extract_lets +onlyGivenNames x103
  extract_lets +onlyGivenNames x104
  have h104 : Keeps a x104 := by
    unfold x104
    exact State.forEach_keeps (State.forEach_keeps h102 (@fun t105 t106 h107 => State.wr_keeps h107 (legal.reg rfl))) (@fun t108 t109 h110 => State.wr_keeps h110 (legal.reg rfl))
  clear_value x104
  extract_lets +onlyGivenNames x111
  have h111 : Keeps a x111 := by
    unfold x111
    exact State.wrs_keeps (State.wr_keeps (State.wr_keeps h104 (legal.reg rfl)) (legal.reg rfl)) (fun _ _ => legal.reg rfl)
  clear_value x111
  exact State.bootGoesOn_keeps (State.forEach_keeps (State.applySpares_keeps h111) (@fun t112 t113 h114 => State.domOn_keeps h114))

theorem State.enterRecovery_keeps {a s : State} (h1 : Keeps a s) : Keeps a (State.enterRecovery s) := by
  unfold State.enterRecovery
  exact State.irq_keeps (State.domOn_keeps (State.wr_keeps h1 (legal.reg rfl)))

theorem execRomVerifyDone_keeps {a s : State} (h1 : Keeps a s) : KeepsO a (execRomVerifyDone s) := by
  unfold execRomVerifyDone
  refine KeepsO.ite (fun _ => ?_) (fun _ => KeepsO.next h1)
  extract_lets +onlyGivenNames x100
  split
  · exact KeepsO.next (State.startFirmware_keeps h1)
  · exact KeepsO.next (State.startFirmware_keeps h1)
  · exact KeepsO.next (State.enterRecovery_keeps h1)

theorem State.putConf_keeps {a s : State} {o : Nat} {b : List Byte} (h1 : Keeps a s) : Keeps a (State.putConf s o b) := by
  unfold State.putConf
  extract_lets +onlyGivenNames x100
  extract_lets +onlyGivenNames x101
  exact Keeps.frame (s := s) h1 rfl rfl rfl rfl (Nat.le_refl _) (Nat.le_refl _) rfl rfl rfl

theorem State.bootRepairs_keeps {a s : State} (h1 : Keeps a s) : Keeps a (State.bootRepairs s) := by
  unfold State.bootRepairs
  refine Keeps.ite (fun _ => h1) (fun _ => ?_)
  extract_lets +onlyGivenNames x100
  have h100 : Keeps a x100 := by
    unfold x100
    exact State.forEach_keeps h1 (@fun t101 t102 h103 => State.wearAdd_keeps (State.loseRow_keeps h103))
  clear_value x100
  exact Keeps.frame (s := x100) h100 rfl rfl rfl rfl (Nat.le_refl _) (Nat.le_refl _) rfl rfl rfl

theorem State.bootActivate_keeps {a s : State} {c : Nat} {bound : Nat} (h1 : Keeps a s) : Keeps a (State.bootActivate s c bound) := by
  unfold State.bootActivate
  extract_lets +onlyGivenNames x100
  have h100 : Keeps a x100 := by
    unfold x100
    exact Keeps.ite (fun _ => State.wr_keeps h1 (legal.reg rfl)) (fun _ => h1)
  clear_value x100
  exact Keeps.ite (fun _ => State.wr_keeps h100 (legal.reg rfl)) (fun _ => h100)

theorem execDramPhaseDone_keeps {a : State} {delays : List Nat} {bounds : List Nat} {s : State} (h3 : Keeps a s) : KeepsO a (execDramPhaseDone delays bounds s) := by
  unfold execDramPhaseDone
  extract_lets +onlyGivenNames x100
  refine KeepsO.ite (fun _ => KeepsO.next h3) (fun _ => ?_)
  refine KeepsO.ite (fun _ => KeepsO.next (State.irq_keeps (State.wr_keeps h3 (legal.reg rfl)))) (fun _ => ?_)
  refine KeepsO.ite (fun _ => KeepsO.next (Keeps.ite (fun _ => State.wr_keeps h3 (legal.reg rfl)) (fun _ => h3))) (fun _ => ?_)
  refine KeepsO.ite (fun _ => KeepsO.next h3) (fun _ => ?_)
  extract_lets +onlyGivenNames x101
  extract_lets +onlyGivenNames x102
  have h102 : Keeps a x102 := by
    unfold x102
    exact Keeps.ite (fun _ => h3) (fun _ => State.putConf_keeps (State.modDeep_keeps h3 (fun h => h)))
  clear_value x102
  extract_lets +onlyGivenNames x103
  have h103 : Keeps a x103 := by
    unfold x103
    exact Keeps.ite (fun _ => h102) (fun _ => State.putConf_keeps h102)
  clear_value x103
  extract_lets +onlyGivenNames x104
  have h104 : Keeps a x104 := by
    unfold x104
    exact State.forEach_keeps (State.bootRepairs_keeps h103) (@fun t105 t106 h107 => State.bootActivate_keeps h107)
  clear_value x104
  exact KeepsO.next (Keeps.ite (fun _ => State.wr_keeps h104 (legal.reg rfl)) (fun _ => h104))

theorem State.sensePin_keeps {a s : State} {i : Nat} {t : Option Nat} (h1 : Keeps a s) : Keeps a (State.sensePin s i t) := by
  unfold State.sensePin
  split
  · exact State.wrs_keeps h1 (fun _ _ => legal.reg rfl)
  · extract_lets +onlyGivenNames x100
    exact State.wrs_keeps h1 (fun _ _ => legal.reg rfl)

theorem execPinsPhaseDone_keeps {a : State} {times : List (Option Nat)} {s : State} (h2 : Keeps a s) : KeepsO a (execPinsPhaseDone times s) := by
  unfold execPinsPhaseDone
  exact KeepsO.ite (fun _ => KeepsO.next (State.irq_keeps (State.wrs_keeps (State.forEach_keeps h2 (@fun t100 t101 h102 => State.sensePin_keeps h102)) (fun _ _ => legal.reg rfl)))) (fun _ => KeepsO.next h2)

theorem execRecoveryStreamVerified_keeps {a s : State} (h1 : Keeps a s) : KeepsO a (execRecoveryStreamVerified s) := by
  unfold execRecoveryStreamVerified
  split
  · extract_lets +onlyGivenNames x100
    extract_lets +onlyGivenNames x101
    have h101 : Keeps a x101 := by
      unfold x101
      refine State.modLoad_keeps ?_
      refine State.putConf_keeps ?_
      exact Keeps.frame (s := s) h1 rfl rfl rfl rfl (Nat.le_refl _) (Nat.le_refl _) rfl rfl rfl
    clear_value x101
    exact KeepsO.next (State.wr_keeps h101 (legal.reg rfl))
  · exact KeepsO.next h1

theorem State.pwFields_keeps {a s : State} {f : PwFields} (h1 : Keeps a s) : Keeps a (State.pwFields s f) := by
  unfold State.pwFields
  exact State.wrs_keeps h1 (fun _ _ => legal.reg rfl)

theorem execFwProgram_keeps {a : State} {f : PwFields} {s : State} (h2 : Keeps a s) : KeepsO a (execFwProgram f s) := by
  unfold execFwProgram
  refine State.asWrite_keeps h2 ?_
  intro t100 h101
  extract_lets +onlyGivenNames x102
  extract_lets +onlyGivenNames x103
  have h103 : Keeps a x103 := by
    unfold x103
    exact State.pwFields_keeps h101
  clear_value x103
  refine KeepsO.ite (fun _ => ?_) (fun _ => KeepsO.next h103)
  extract_lets +onlyGivenNames x104
  extract_lets +onlyGivenNames x105
  exact KeepsO.next (State.emit_keeps (State.modPower_keeps (State.wr_keeps h103 (legal.reg rfl))))

theorem State.putSlot_keeps {a s : State} {i : Nat} {b : List Byte} (h1 : Keeps a s) : Keeps a (State.putSlot s i b) := by
  unfold State.putSlot
  exact Keeps.frame (s := s) h1 rfl rfl rfl rfl (Nat.le_refl _) (Nat.le_refl _) rfl rfl rfl

theorem execFwProgramDone_keeps {a s : State} (h : Keeps a s) {ok : Bool} {bytes : List Byte} {flash : Bool} :
    KeepsO a (execFwProgramDone ok bytes flash s) := by
  unfold execFwProgramDone
  split
  · exact KeepsO.next h
  · rename_i len _
    extract_lets s1 b slot done
    have h1 : Keeps a s1 := State.wr_keeps (State.modPower_keeps h) (legal.reg rfl)
    have hd : ∀ {t r}, Keeps a t → Keeps a (done t r) := fun ht => State.wr_keeps ht (legal.reg rfl)
    refine KeepsO.ite (fun _ => KeepsO.next (hd h1)) fun _ => ?_
    refine KeepsO.ite (fun _ => KeepsO.next (hd h1)) fun _ => ?_
    split
    · exact KeepsO.next (hd h1)
    · refine KeepsO.ite (fun _ => KeepsO.next (hd (State.putConf_keeps (State.putSlot_keeps h1)))) fun _ => KeepsO.next (hd ?_)
      have h2 := State.putSlot_keeps h1 (i := slot) (b := (List.range b.length).map (Config.sealedByte s.draws))
      have hs : s1.draws = s.draws := rfl
      exact Keeps.frame h2 rfl rfl rfl rfl (Nat.le_refl _) (hs ▸ Nat.le_succ _) rfl rfl rfl

theorem execRefinLoss_keeps {a s : State} (h1 : Keeps a s) : KeepsO a (execRefinLoss s) := by
  unfold execRefinLoss
  extract_lets +onlyGivenNames x100
  have h100 : Keeps a x100 := by
    unfold x100
    exact State.wr_keeps h1 (legal.reg rfl)
  clear_value x100
  exact KeepsO.ite (fun _ => KeepsO.next (State.forEach_keeps (State.wrs_keeps h100 (fun _ _ => legal.reg rfl)) (@fun t101 t102 h103 => State.failTraining_keeps h103))) (fun _ => KeepsO.next h100)

theorem execRefinReturn_keeps {a s : State} (h1 : Keeps a s) : KeepsO a (execRefinReturn s) := by
  unfold execRefinReturn
  exact KeepsO.next (State.wr_keeps h1 (legal.reg rfl))

theorem execUseIn_keeps {a : State} {outEn : Bool} {s : State} (h2 : Keeps a s) : KeepsO a (execUseIn outEn s) := by
  unfold execUseIn
  refine State.asWrite_keeps h2 ?_
  intro t100 h101
  extract_lets +onlyGivenNames x102
  have h102 : Keeps a x102 := by
    unfold x102
    exact State.wr_keeps h101 (legal.reg rfl)
  clear_value x102
  exact KeepsO.next (Keeps.ite (fun _ => State.wr_keeps h102 (legal.reg rfl)) (fun _ => State.wr_keeps h102 (legal.reg rfl)))

theorem execUseLocal_keeps {a : State} {outEn : Bool} {s : State} (h2 : Keeps a s) : KeepsO a (execUseLocal outEn s) := by
  unfold execUseLocal
  exact State.asWrite_keeps h2 (@fun t100 h101 => KeepsO.next (State.wr_keeps (State.wr_keeps h101 (legal.reg rfl)) (legal.reg rfl)))

theorem execMr4TemperatureChange_keeps {a : State} {chan : Nat} {hot : Bool} {s : State} (h3 : Keeps a s) : KeepsO a (execMr4TemperatureChange chan hot s) := by
  unfold execMr4TemperatureChange
  exact KeepsO.next (State.wr_keeps h3 (legal.reg rfl))

theorem State.setLevel_keeps {a s : State} {c : Nat} {j : Nat} (h1 : Keeps a s) : Keeps a (State.setLevel s c j) := by
  unfold State.setLevel
  exact State.raiseStall_keeps (State.bump_keeps (State.wr_keeps h1 (legal.reg rfl)) rfl)

theorem State.showSensors_keeps {a s : State} {o : PowerObs} (h1 : Keeps a s) : Keeps a (State.showSensors s o) := by
  unfold State.showSensors
  extract_lets +onlyGivenNames x100
  extract_lets +onlyGivenNames x101
  have h101 : Keeps a x101 := by
    unfold x101
    exact State.wrs_keeps (State.wrs_keeps h1 (fun _ _ => legal.reg rfl)) (fun _ _ => legal.reg rfl)
  clear_value x101
  extract_lets +onlyGivenNames x102
  have h102 : Keeps a x102 := by
    unfold x102
    exact State.wrs_keeps h101 (fun _ _ => legal.reg rfl)
  clear_value x102
  exact State.modPower_keeps (State.forEach_keeps h102 (@fun t103 t104 h105 => State.wrs_keeps h105 (fun _ _ => legal.reg rfl)))

theorem execPowerControlInterval_keeps {a : State} {o : PowerObs} {s : State} (h2 : Keeps a s) : KeepsO a (execPowerControlInterval o s) := by
  unfold execPowerControlInterval
  extract_lets +onlyGivenNames x100
  have h100 : Keeps a x100 := by
    unfold x100
    exact State.showSensors_keeps h2
  clear_value x100
  extract_lets +onlyGivenNames x101
  extract_lets +onlyGivenNames x102
  extract_lets +onlyGivenNames x103
  extract_lets +onlyGivenNames x104
  exact KeepsO.ite (fun _ => KeepsO.next (State.modPower_keeps (State.forEach_keeps h100 (@fun t105 t106 h107 => State.setLevel_keeps h107)))) (fun _ => KeepsO.ite (fun _ => KeepsO.ite (fun _ => KeepsO.next (State.modPower_keeps (State.forEach_keeps h100 (@fun t108 t109 h110 => State.setLevel_keeps h110)))) (fun _ => KeepsO.next (State.modPower_keeps h100))) (fun _ => KeepsO.next (State.modPower_keeps h100)))

theorem State.modFifo_keeps {a s : State} {f : FifoId} {g : Fifo → Fifo} (h1 : Keeps a s) : Keeps a (State.modFifo s f g) := by
  unfold State.modFifo
  exact Keeps.frame (s := s) h1 rfl rfl rfl rfl (Nat.le_refl _) (Nat.le_refl _) rfl rfl rfl

theorem State.itemsLost_keeps {a s : State} {c : Nat} {d : Nat} {f : FifoId} (h1 : Keeps a s) : Keeps a (State.itemsLost s c d f) := by
  unfold State.itemsLost
  extract_lets +onlyGivenNames x100
  have h100 : Keeps a x100 := by
    unfold x100
    exact State.faultArrives_keeps (State.modCamp_keeps h1)
  clear_value x100
  exact Keeps.ite (fun _ => State.wr_keeps h100 (legal.reg rfl)) (fun _ => h100)

theorem State.releaseLate_keeps {a s : State} {c : Nat} {d : Nat} {frozen : Nat} (h1 : Keeps a s) : Keeps a (State.releaseLate s c d frozen) := by
  unfold State.releaseLate
  split
  · extract_lets +onlyGivenNames x100
    exact State.releaseStalls_keeps h1
  · exact h1

theorem execCrossingItemArrive_keeps {a : State} {camp : Nat} {dst : Nat} {arr : Nat} {frozen : Nat} {s : State} (h5 : Keeps a s) : KeepsO a (execCrossingItemArrive camp dst arr frozen s) := by
  unfold execCrossingItemArrive
  split
  · exact KeepsO.next h5
  · extract_lets +onlyGivenNames x100
    extract_lets +onlyGivenNames x101
    extract_lets +onlyGivenNames x102
    have h102 : Keeps a x102 := by
      unfold x102
      exact State.modCamp_keeps h5
    clear_value x102
    refine KeepsO.ite (fun _ => KeepsO.next (State.itemsLost_keeps h102)) (fun _ => ?_)
    extract_lets +onlyGivenNames x103
    extract_lets +onlyGivenNames x104
    have h104 : Keeps a x104 := by
      unfold x104
      exact State.modCamp_keeps h102
    clear_value x104
    exact KeepsO.next (State.releaseLate_keeps (State.raiseHigh_keeps h104))

theorem State.fifoOverrun_keeps {a s : State} {id : FifoId} (h1 : Keeps a s) : Keeps a (State.fifoOverrun s id) := by
  unfold State.fifoOverrun
  exact State.logEvent_keeps (State.bump_keeps (State.modFifo_keeps h1) rfl) rfl (@fun t100 h101 => h101)

theorem execFifoWrite_keeps {a : State} {id : FifoId} {x : Nat} {late : Bool} {s : State} (h4 : Keeps a s) : KeepsO a (execFifoWrite id x late s) := by
  unfold execFifoWrite
  extract_lets +onlyGivenNames x100
  extract_lets +onlyGivenNames x101
  have h101 : Keeps a x101 := by
    unfold x101
    exact State.modFifo_keeps h4
  clear_value x101
  extract_lets +onlyGivenNames x102
  exact KeepsO.ite (fun _ => KeepsO.ite (fun _ => KeepsO.next h101) (fun _ => KeepsO.ite (fun _ => KeepsO.next (State.fifoOverrun_keeps h101)) (fun _ => KeepsO.next (State.modFifo_keeps h101)))) (fun _ => KeepsO.ite (fun _ => KeepsO.next (State.fifoOverrun_keeps h101)) (fun _ => KeepsO.next (State.modFifo_keeps h101)))

theorem execFifoRead_keeps {a : State} {id : FifoId} {late : Bool} {s : State} (h3 : Keeps a s) : KeepsO a (execFifoRead id late s) := by
  unfold execFifoRead
  extract_lets +onlyGivenNames x100
  have h100 : Keeps a x100 := by
    unfold x100
    exact State.modFifo_keeps h3
  clear_value x100
  exact KeepsO.next (State.modFifo_keeps h100)

theorem State.resetFor_keeps {a s : State} {f : FifoId} {isl : Nat} {c : Nat} (h1 : Keeps a s) : Keeps a (State.resetFor s f isl c) := by
  unfold State.resetFor
  extract_lets +onlyGivenNames x100
  extract_lets +onlyGivenNames x101
  have h101 : Keeps a x101 := by
    unfold x101
    exact State.modFifo_keeps (State.raiseStall_keeps h1)
  clear_value x101
  refine Keeps.ite (fun _ => ?_) (fun _ => h101)
  extract_lets +onlyGivenNames x102
  extract_lets +onlyGivenNames x103
  have h103 : Keeps a x103 := by
    unfold x103
    exact State.modCamp_keeps h101
  clear_value x103
  exact Keeps.ite (fun _ => State.itemsLost_keeps h103) (fun _ => h103)

theorem execFifoPtrMismatch_keeps {a : State} {id : FifoId} {side : Bool} {s : State} (h3 : Keeps a s) : KeepsO a (execFifoPtrMismatch id side s) := by
  unfold execFifoPtrMismatch
  extract_lets +onlyGivenNames x100
  extract_lets +onlyGivenNames x101
  extract_lets +onlyGivenNames x102
  extract_lets +onlyGivenNames x103
  have h103 : Keeps a x103 := by
    unfold x103
    exact State.modFifo_keeps h3
  clear_value x103
  extract_lets +onlyGivenNames x104
  have h104 : Keeps a x104 := by
    unfold x104
    exact State.logEvent_keeps (State.bump_keeps h103 rfl) rfl (@fun t105 h106 => State.wr_keeps h106 (legal.reg rfl))
  clear_value x104
  extract_lets +onlyGivenNames x107
  have h107 : Keeps a x107 := by
    unfold x107
    exact State.draw_keeps (State.forEach_keeps h104 (@fun t108 t109 h110 => State.resetFor_keeps h110))
  clear_value x107
  exact KeepsO.ite (fun _ => KeepsO.next (State.sendNak_keeps (State.wr_keeps (State.modHn_keeps h107) (legal.reg rfl)))) (fun _ => KeepsO.next h107)

theorem execFifoReprime_keeps {a : State} {id : FifoId} {frozen : Nat} {s : State} (h3 : Keeps a s) : KeepsO a (execFifoReprime id frozen s) := by
  unfold execFifoReprime
  extract_lets +onlyGivenNames x100
  refine KeepsO.ite (fun _ => ?_) (fun _ => KeepsO.next h3)
  extract_lets +onlyGivenNames x101
  have h101 : Keeps a x101 := by
    unfold x101
    exact State.modFifo_keeps h3
  clear_value x101
  extract_lets +onlyGivenNames x102
  have h102 : Keeps a x102 := by
    unfold x102
    exact Keeps.ite (fun _ => State.bump_keeps h101 rfl) (fun _ => h101)
  clear_value x102
  extract_lets +onlyGivenNames x103
  have h103 : Keeps a x103 := by
    unfold x103
    exact Keeps.ite (fun _ => State.forEach_keeps h102 (@fun t104 t105 h106 => State.modCamp_keeps h106)) (fun _ => h102)
  clear_value x103
  exact KeepsO.next (State.forEach_keeps h103 (@fun t107 t108 h109 => State.releaseStall_keeps h109))

theorem State.hear_keeps {a s : State} {c : Nat} {kind : Nat} {origin : Nat} {id : Nat} (h1 : Keeps a s) : Keeps a (State.hear s c kind origin id) := by
  unfold State.hear
  exact State.modCamp_keeps h1

theorem execStall_keeps {a : State} {camp : Nat} {st : Stall} {port : Option Nat} {s : State} (h4 : Keeps a s) : KeepsO a (execStall camp st port s) := by
  unfold execStall
  exact KeepsO.ite (fun _ => KeepsO.next h4) (fun _ => KeepsO.next (State.applyStall_keeps (State.guylineOut_keeps (State.hear_keeps h4))))

theorem execRelease_keeps {a : State} {camp : Nat} {module : Nat} {id : Nat} {port : Option Nat} {frozen : Nat} {s : State} (h6 : Keeps a s) : KeepsO a (execRelease camp module id port frozen s) := by
  unfold execRelease
  exact KeepsO.ite (fun _ => KeepsO.next h6) (fun _ => KeepsO.next (State.applyRelease_keeps (State.guylineOut_keeps (State.hear_keeps h6))))

theorem State.stepMismatch_keeps {a s : State} {c : Nat} {cyc : Nat} {island : Nat} {own : Nat} {other : Nat} {module : Nat} (h1 : Keeps a s) : Keeps a (State.stepMismatch s c cyc island own other module) := by
  unfold State.stepMismatch
  exact State.contractEvent_keeps h1 (@fun t100 h101 => State.wrs_keeps h101 (fun _ _ => legal.reg rfl))

theorem State.summaryFault_keeps {a s : State} {c : Nat} (h1 : Keeps a s) : Keeps a (State.summaryFault s c) := by
  unfold State.summaryFault
  exact Keeps.ite (fun _ => State.campIrq_keeps h1) (fun _ => State.modCamp_keeps h1)

theorem State.releaseSync_keeps {a s : State} {c : Nat} {frozen : Nat} (h1 : Keeps a s) : Keeps a (State.releaseSync s c frozen) := by
  unfold State.releaseSync
  extract_lets +onlyGivenNames x100
  extract_lets +onlyGivenNames x101
  exact Keeps.ite (fun _ => State.releaseCause_keeps h1) (fun _ => h1)

theorem State.applyBoundary_keeps {a s : State} {c : Nat} {m : BoundaryMsg} {frozen : Nat} (h1 : Keeps a s) : Keeps a (State.applyBoundary s c m frozen) := by
  unfold State.applyBoundary
  extract_lets +onlyGivenNames x100
  extract_lets +onlyGivenNames x101
  extract_lets +onlyGivenNames x102
  extract_lets +onlyGivenNames x103
  have h103 : Keeps a x103 := by
    unfold x103
    exact State.modCamp_keeps h1
  clear_value x103
  extract_lets +onlyGivenNames x104
  have h104 : Keeps a x104 := by
    unfold x104
    split
    · exact State.queueVector_keeps h103
    · exact h103
  clear_value x104
  extract_lets +onlyGivenNames x105
  have h105 : Keeps a x105 := by
    unfold x105
    exact Keeps.ite (fun _ => State.stepMismatch_keeps h104) (fun _ => h104)
  clear_value x105
  extract_lets +onlyGivenNames x106
  have h106 : Keeps a x106 := by
    unfold x106
    exact Keeps.ite (fun _ => State.summaryFault_keeps h105) (fun _ => h105)
  clear_value x106
  extract_lets +onlyGivenNames x107
  exact Keeps.ite (fun _ => State.haltNow_keeps h106) (fun _ => State.haltIfFrozen_keeps (State.releaseSync_keeps h106))

theorem execBoundary_keeps {a : State} {camp : Nat} {msg : BoundaryMsg} {port : Option Nat} {frozen : Nat} {s : State} (h5 : Keeps a s) : KeepsO a (execBoundary camp msg port frozen s) := by
  unfold execBoundary
  exact KeepsO.ite (fun _ => KeepsO.next h5) (fun _ => KeepsO.next (State.applyBoundary_keeps (State.guylineOut_keeps (State.hear_keeps h5))))

theorem execGuylineHalt_keeps {a : State} {camp : Nat} {cause : Nat} {module : Nat} {port : Option Nat} {s : State} (h5 : Keeps a s) : KeepsO a (execGuylineHalt camp cause module port s) := by
  unfold execGuylineHalt
  extract_lets +onlyGivenNames x100
  exact KeepsO.ite (fun _ => KeepsO.next h5) (fun _ => KeepsO.next (State.haltHeard_keeps (State.guylineOut_keeps (State.hear_keeps h5))))

theorem execRelockDone_keeps {a : State} {camp : Nat} {frozen : Nat} {s : State} (h3 : Keeps a s) : KeepsO a (execRelockDone camp frozen s) := by
  unfold execRelockDone
  exact KeepsO.next (State.releaseCause_keeps h3)

theorem State.commitCycle_keeps {a s : State} {c : Nat} (h1 : Keeps a s) : Keeps a (State.commitCycle s c) := by
  unfold State.commitCycle
  extract_lets +onlyGivenNames x100
  extract_lets +onlyGivenNames x101
  extract_lets +onlyGivenNames x102
  have h102 : Keeps a x102 := by
    unfold x102
    exact State.chargeSteps_keeps (State.forEach_keeps h1 (@fun t103 t104 h105 => State.modCluster_keeps h105))
  clear_value x102
  extract_lets +onlyGivenNames x106
  extract_lets +onlyGivenNames x107
  have h107 : Keeps a x107 := by
    unfold x107
    clear_value x106
    split
    · exact State.stepMismatch_keeps h102
    · exact h102
  clear_value x107
  extract_lets +onlyGivenNames x108
  extract_lets +onlyGivenNames x109
  have h109 : Keeps a x109 := by
    unfold x109
    exact Keeps.ite (fun _ => State.summaryFault_keeps h107) (fun _ => h107)
  clear_value x109
  extract_lets +onlyGivenNames x110
  extract_lets +onlyGivenNames x111
  have h111 : Keeps2 a x111 := by
    unfold x111
    exact State.makeVector_keeps h109
  clear_value x111
  extract_lets +onlyGivenNames x112
  have h112 : Keeps a x112 := by
    unfold x112
    exact Keeps.ite (fun _ => State.queueVector_keeps (Keeps2.snd h111)) (fun _ => Keeps2.snd h111)
  clear_value x112
  extract_lets +onlyGivenNames x113
  have h113 : Keeps a x113 := by
    unfold x113
    exact State.forEach_keeps (State.modCamp_keeps h112) (@fun t114 t115 h116 => State.modGroup_keeps h116)
  clear_value x113
  exact State.toBnd_keeps (State.guylineOut_keeps h113)

theorem execShadowCommit_keeps {a : State} {camp : Nat} {s : State} (h2 : Keeps a s) : KeepsO a (execShadowCommit camp s) := by
  unfold execShadowCommit
  exact KeepsO.next (Keeps.ite (fun _ => State.commitCycle_keeps h2) (fun _ => h2))

theorem execFaultFlagsClose_keeps {a : State} {camp : Nat} {s : State} (h2 : Keeps a s) : KeepsO a (execFaultFlagsClose camp s) := by
  unfold execFaultFlagsClose
  exact KeepsO.next (Keeps.ite (fun _ => State.toBnd_keeps (State.advance_keeps h2)) (fun _ => h2))

theorem execAcquisitionSample_keeps {a : State} {camp : Nat} {s : State} (h2 : Keeps a s) : KeepsO a (execAcquisitionSample camp s) := by
  unfold execAcquisitionSample
  exact KeepsO.next (Keeps.ite (fun _ => State.toBnd_keeps (State.advance_keeps (State.acqSample_keeps h2))) (fun _ => h2))

theorem execRecordExchange_keeps {a : State} {camp : Nat} {s : State} (h2 : Keeps a s) : KeepsO a (execRecordExchange camp s) := by
  unfold execRecordExchange
  refine KeepsO.ite (fun _ => ?_) (fun _ => KeepsO.next (Keeps.ite (fun _ => State.leaveB10_keeps (State.settle_keeps h2)) (fun _ => h2)))
  extract_lets +onlyGivenNames x100
  have h100 : Keeps a x100 := by
    unfold x100
    exact State.advance_keeps h2
  clear_value x100
  exact KeepsO.next (Keeps.ite (fun _ => State.replayExchange_keeps h100) (fun _ => State.liveExchange_keeps h100))

theorem execSnapshotPoint_keeps {a : State} {camp : Nat} {s : State} (h2 : Keeps a s) : KeepsO a (execSnapshotPoint camp s) := by
  unfold execSnapshotPoint
  refine KeepsO.ite (fun _ => ?_) (fun _ => KeepsO.next h2)
  extract_lets +onlyGivenNames x100
  have h100 : Keeps a x100 := by
    unfold x100
    exact State.advance_keeps h2
  clear_value x100
  exact KeepsO.next (State.toBnd_keeps (Keeps.ite (fun _ => State.takePoint_keeps h100) (fun _ => h100)))

theorem State.pauseNow_keeps {a s : State} {c : Nat} (h1 : Keeps a s) : Keeps a (State.pauseNow s c) := by
  unfold State.pauseNow
  extract_lets +onlyGivenNames x100
  extract_lets +onlyGivenNames x101
  have h101 : Keeps a x101 := by
    unfold x101
    refine State.enter_keeps (State.restDrains_keeps (State.wr_keeps (State.modCamp_keeps h1) (legal.fld rfl))) ?_
    decide
  clear_value x101
  split
  · exact State.wrs_keeps h101 (fun _ _ => legal.reg rfl)
  · exact h101

theorem State.boundaryEffect_keeps {a s : State} {c : Nat} {cyc : Nat} (h1 : Keeps a s) : Keeps a (State.boundaryEffect s c cyc) := by
  unfold State.boundaryEffect
  extract_lets +onlyGivenNames x100
  split
  · exact State.haltNow_keeps h1
  · refine Keeps.ite (fun _ => State.pauseNow_keeps h1) (fun _ => ?_)
    split
    · exact State.pauseNow_keeps h1
    · exact State.modCamp_keeps (State.wr_keeps h1 (legal.fld rfl))
    · split
      · exact Keeps.ite (fun _ => State.pauseNow_keeps h1) (fun _ => State.modCamp_keeps h1)
      · exact h1

theorem State.endCycle_keeps {a s : State} {c : Nat} (h1 : Keeps a s) : Keeps a (State.endCycle s c) := by
  unfold State.endCycle
  extract_lets +onlyGivenNames x100
  extract_lets +onlyGivenNames x101
  extract_lets +onlyGivenNames x102
  have h102 : Keeps a x102 := by
    unfold x102
    exact Keeps.ite (fun _ => State.forEach_keeps h1 (@fun t103 t104 h105 => State.modCluster_keeps h105)) (fun _ => h1)
  clear_value x102
  extract_lets +onlyGivenNames x106
  extract_lets +onlyGivenNames x107
  have h107 : Keeps a x107 := by
    unfold x107
    exact State.modCamp_keeps (State.advance_keeps h102)
  clear_value x107
  extract_lets +onlyGivenNames x108
  have h108 : Keeps a x108 := by
    unfold x108
    exact State.forEach_keeps h107 (@fun t109 t110 h111 => State.modGroup_keeps h111)
  clear_value x108
  extract_lets +onlyGivenNames x112
  have h112 : Keeps a x112 := by
    unfold x112
    exact State.boundaryEffect_keeps (State.lanternDrive_keeps h108)
  clear_value x112
  exact Keeps.ite (fun _ => h112) (fun _ => State.takeEarly_keeps h112)

theorem execCycleEnd_keeps {a : State} {camp : Nat} {s : State} (h2 : Keeps a s) : KeepsO a (execCycleEnd camp s) := by
  unfold execCycleEnd
  exact KeepsO.next (Keeps.ite (fun _ => State.endCycle_keeps h2) (fun _ => h2))

theorem State.modKeys_keeps {a s : State} {f : KeyStore → KeyStore} (h1 : Keeps a s) : Keeps a (State.modKeys s f) := by
  unfold State.modKeys
  exact Keeps.frame (s := s) h1 rfl rfl rfl rfl (Nat.le_refl _) (Nat.le_refl _) rfl rfl rfl

theorem State.keyDone_keeps {a s : State} {result : Nat} (h1 : Keeps a s) : Keeps a (State.keyDone s result) := by
  unfold State.keyDone
  exact State.modKeys_keeps (State.wrs_keeps h1 (fun _ _ => legal.reg rfl))

theorem State.initPages_keeps {a s : State} {base : Nat} {pages : Nat} {key : Nat} {roll : Bool} (h1 : Keeps a s) : Keeps a (State.initPages s base pages key roll) := by
  unfold State.initPages
  extract_lets +onlyGivenNames x100
  exact State.modDeep_keeps h1 (fun h => Deep.clear_wf h)

theorem State.startRoll_keeps {a s : State} {k : Nat} (h1 : Keeps a s) : Keeps a (State.startRoll s k) := by
  unfold State.startRoll
  extract_lets +onlyGivenNames x100
  extract_lets +onlyGivenNames x101
  have h101 : Keeps a x101 := by
    unfold x101
    exact State.modKeys_keeps (State.wr_keeps (State.draw_keeps (State.draw_keeps h1)) (legal.reg rfl))
  clear_value x101
  extract_lets +onlyGivenNames x102
  have h102 : Keeps a x102 := by
    unfold x102
    exact State.forEach_keeps h101 (@fun t103 t104 h105 => State.endReenc_keeps h105)
  clear_value x102
  extract_lets +onlyGivenNames x106
  have h106 : Keeps a x106 := by
    unfold x106
    exact State.forEach_keeps h102 (@fun t107 t108 h109 => State.initPages_keeps h109)
  clear_value x106
  extract_lets +onlyGivenNames x110
  have h110 : Keeps a x110 := by
    unfold x110
    exact State.forEach_keeps h106 (@fun t111 t112 h113 => State.modCore_keeps h113)
  clear_value x110
  exact State.serveHeld_keeps (State.lapseTokens_keeps (State.loadKeyEvent_keeps h110))

theorem execInstall_keeps {a : State} {target : Nat} {s : State} (h2 : Keeps a s) : KeepsO a (execInstall target s) := by
  unfold execInstall
  refine State.asWrite_keeps h2 ?_
  intro t100 h101
  extract_lets +onlyGivenNames x102
  refine KeepsO.ite (fun _ => KeepsO.next h101) (fun _ => ?_)
  extract_lets +onlyGivenNames x103
  have h103 : Keeps a x103 := by
    unfold x103
    exact State.wr_keeps h101 (legal.reg rfl)
  clear_value x103
  exact KeepsO.ite (fun _ => KeepsO.next (State.wr_keeps h103 (legal.reg rfl))) (fun _ => KeepsO.next (State.emit_keeps (State.modKeys_keeps (State.wr_keeps h103 (legal.reg rfl)))))

theorem State.installKeys_keeps {a s : State} {k : Nat} {u : List Byte} (h1 : Keeps a s) : Keeps a (State.installKeys s k u) := by
  unfold State.installKeys
  refine Keeps.ite (fun _ => State.keyDone_keeps (State.modKeys_keeps h1)) (fun _ => ?_)
  extract_lets +onlyGivenNames x100
  extract_lets +onlyGivenNames x101
  have h101 : Keeps a x101 := by
    unfold x101
    exact State.wr_keeps (State.modKeys_keeps h1) (legal.reg rfl)
  clear_value x101
  exact Keeps.ite (fun _ => State.keyDone_keeps (State.lapseTokens_keeps h101)) (fun _ => State.startRoll_keeps h101)

theorem execKeyBlobReadDone_keeps {a : State} {ok : Bool} {blob : List Byte} {s : State} (h3 : Keeps a s) : KeepsO a (execKeyBlobReadDone ok blob s) := by
  unfold execKeyBlobReadDone
  split
  · refine KeepsO.ite (fun _ => KeepsO.next (State.keyDone_keeps h3)) (fun _ => ?_)
    refine KeepsO.ite (fun _ => KeepsO.next (State.keyDone_keeps h3)) (fun _ => ?_)
    split
    · exact KeepsO.next (State.keyDone_keeps h3)
    · exact KeepsO.next (State.installKeys_keeps h3)
  · exact KeepsO.next h3

theorem execRoll_keeps {a : State} {target : Nat} {s : State} (h2 : Keeps a s) : KeepsO a (execRoll target s) := by
  unfold execRoll
  refine State.asWrite_keeps h2 ?_
  intro t100 h101
  extract_lets +onlyGivenNames x102
  refine KeepsO.ite (fun _ => KeepsO.next h101) (fun _ => ?_)
  extract_lets +onlyGivenNames x103
  have h103 : Keeps a x103 := by
    unfold x103
    exact State.wr_keeps h101 (legal.reg rfl)
  clear_value x103
  exact KeepsO.ite (fun _ => KeepsO.next (State.wr_keeps h103 (legal.reg rfl))) (fun _ => KeepsO.ite (fun _ => KeepsO.next (State.wr_keeps h103 (legal.reg rfl))) (fun _ => KeepsO.next (State.startRoll_keeps (State.modKeys_keeps (State.wr_keeps h103 (legal.reg rfl))))))

theorem State.mendNode_keeps {a s : State} {k : Nat} {n : Node} (h1 : Keeps a s) : Keeps a (State.mendNode s k n) := by
  unfold State.mendNode
  extract_lets +onlyGivenNames x100
  extract_lets +onlyGivenNames x101
  exact Keeps.ite (fun _ => State.modDeep_keeps h1 (fun h => h)) (fun _ => State.modDeep_keeps h1 (fun h => h))

theorem State.mendOverflow_keeps {a s : State} {k : Nat} (h1 : Keeps a s) : Keeps a (State.mendOverflow s k) := by
  unfold State.mendOverflow
  extract_lets +onlyGivenNames x100
  extract_lets +onlyGivenNames x101
  have h101 : Keeps a x101 := by
    unfold x101
    exact State.modDeep_keeps h1 (fun h => h)
  clear_value x101
  exact Keeps.ite (fun _ => State.wr_keeps h101 (legal.reg rfl)) (fun _ => h101)

theorem execRollDone_keeps {a : State} {key : Nat} {s : State} (h2 : Keeps a s) : KeepsO a (execRollDone key s) := by
  unfold execRollDone
  split
  · exact KeepsO.next h2
  · refine KeepsO.ite (fun _ => KeepsO.next h2) (fun _ => ?_)
    extract_lets +onlyGivenNames x100
    have h100 : Keeps a x100 := by
      unfold x100
      exact State.modKeys_keeps (State.modDeep_keeps h2 (fun h => h))
    clear_value x100
    extract_lets +onlyGivenNames x101
    have h101 : Keeps a x101 := by
      unfold x101
      exact State.forEach_keeps h100 (@fun t102 t103 h104 => State.mendNode_keeps h104)
    clear_value x101
    extract_lets +onlyGivenNames x105
    have h105 : Keeps a x105 := by
      unfold x105
      exact Keeps.ite (fun _ => State.mendOverflow_keeps h101) (fun _ => h101)
    clear_value x105
    extract_lets +onlyGivenNames x106
    have h106 : Keeps a x106 := by
      unfold x106
      exact State.wr_keeps (State.wr_keeps h105 (legal.reg rfl)) (legal.reg rfl)
    clear_value x106
    exact KeepsO.next (State.keyDone_keeps (State.serveHeld_keeps h106))

theorem State.leavePages_keeps {a s : State} {key : Nat} {l : List (Nat × Nat)} (h1 : Keeps a s) : Keeps a (State.leavePages s key l) := by
  unfold State.leavePages
  exact State.forEach_keeps h1 (@fun t100 t101 h102 => State.modDeep_keeps (State.leaveCipher_keeps h102) (fun h => h))

theorem execRemove_keeps {a : State} {target : Nat} {s : State} (h2 : Keeps a s) : KeepsO a (execRemove target s) := by
  unfold execRemove
  refine State.asWrite_keeps h2 ?_
  intro t100 h101
  extract_lets +onlyGivenNames x102
  refine KeepsO.ite (fun _ => KeepsO.next h101) (fun _ => ?_)
  extract_lets +onlyGivenNames x103
  have h103 : Keeps a x103 := by
    unfold x103
    exact State.wr_keeps h101 (legal.reg rfl)
  clear_value x103
  refine KeepsO.ite (fun _ => KeepsO.next (State.wr_keeps h103 (legal.reg rfl))) (fun _ => ?_)
  refine KeepsO.ite (fun _ => KeepsO.next (State.wr_keeps h103 (legal.reg rfl))) (fun _ => ?_)
  extract_lets +onlyGivenNames x104
  have h104 : Keeps a x104 := by
    unfold x104
    exact State.wr_keeps (State.modKeys_keeps (State.leavePages_keeps h103)) (legal.reg rfl)
  clear_value x104
  extract_lets +onlyGivenNames x105
  have h105 : Keeps a x105 := by
    unfold x105
    exact State.forEach_keeps h104 (@fun t106 t107 h108 => State.wr_keeps h108 (legal.reg rfl))
  clear_value x105
  exact KeepsO.next (State.keyDone_keeps (State.lapseTokens_keeps (State.loadKeyEvent_keeps h105)))

theorem execMpRangeWrite_keeps {a : State} {r : Nat} {w : RangeWrite} {s : State} (h3 : Keeps a s) : KeepsO a (execMpRangeWrite r w s) := by
  unfold execMpRangeWrite
  refine State.asWrite_keeps h3 ?_
  intro t100 h101
  extract_lets +onlyGivenNames x102
  extract_lets +onlyGivenNames x103
  refine KeepsO.ite (fun _ => KeepsO.next (State.wr_keeps h101 (legal.reg rfl))) (fun _ => ?_)
  extract_lets +onlyGivenNames x104
  extract_lets +onlyGivenNames x105
  extract_lets +onlyGivenNames x106
  extract_lets +onlyGivenNames x107
  have h107 : Keeps a x107 := by
    unfold x107
    exact State.wr_keeps (State.wrs_keeps h101 (fun _ _ => legal.reg rfl)) (legal.reg rfl)
  clear_value x107
  exact KeepsO.next (State.forEach_keeps (State.leavePages_keeps h107) (@fun t108 t109 h110 => State.initPages_keeps h110))

end Sys2Proof.Machine
end

