-- ==== Sys2Proof/Laws/KeepsRun.lean ====
section
/-! SUPPORT. Every operation and command of running a camp, loading, the fabric's packets and health passes `Keeps` on. -/

namespace Sys2Proof.Machine

set_option Elab.async false

theorem State.runErr_keeps {a s : State} {c : Nat} (h1 : Keeps a s) : Keeps a (State.runErr s c) := by
  unfold State.runErr
  exact State.wr_keeps h1 (legal.fld rfl)

theorem State.runFields_keeps {a s : State} {c : Nat} {f : RunFields} (h1 : Keeps a s) : Keeps a (State.runFields s c f) := by
  unfold State.runFields
  exact State.wrs_keeps h1 (fun _ _ => legal.reg rfl)

theorem State.await_keeps {a s : State} {c : Nat} {p : Pend} (h1 : Keeps a s) : Keeps a (State.await s c p) := by
  unfold State.await
  exact State.wr_keeps (State.modCamp_keeps h1) (legal.fld rfl)

theorem State.beginStart_keeps {a s : State} {c : Nat} (h1 : Keeps a s) : Keeps a (State.beginStart s c) := by
  unfold State.beginStart
  extract_lets +onlyGivenNames x100
  extract_lets +onlyGivenNames x101
  extract_lets +onlyGivenNames x102
  have h102 : Keeps a x102 := by
    unfold x102
    exact State.modCamp_keeps (State.forEach_keeps h1 (@fun t103 t104 h105 => State.modCluster_keeps h105))
  clear_value x102
  extract_lets +onlyGivenNames x106
  have h106 : Keeps a x106 := by
    unfold x106
    exact State.wrs_keeps h102 (legal.list rfl)
  clear_value x106
  extract_lets +onlyGivenNames x107
  exact State.acqStart_keeps (State.wr_keeps (State.wr_keeps (State.wr_keeps (State.modLogAt_keeps h106) (legal.reg rfl)) (legal.reg rfl)) (legal.reg rfl))

theorem State.start_keeps {a s : State} {c : Nat} {f : RunFields} (h1 : Keeps a s) : Keeps a (State.start s c f) := by
  unfold State.start
  refine Keeps.ite (fun _ => ?_) (fun _ => State.runErr_keeps h1)
  extract_lets +onlyGivenNames x100
  have h100 : Keeps a x100 := by
    unfold x100
    exact State.runFields_keeps h1
  clear_value x100
  exact Keeps.ite (fun _ => Keeps.ite (fun _ => State.wrs_keeps (State.await_keeps h100) (legal.list rfl)) (fun _ => State.beginStart_keeps (Keeps.ite (fun _ => State.abandon_keeps h100) (fun _ => h100)))) (fun _ => State.beginStart_keeps h100)

theorem execStart_keeps {a : State} {camp : Nat} {f : RunFields} {s : State} (h3 : Keeps a s) : KeepsO a (execStart camp f s) := by
  unfold execStart
  exact State.asWrite_keeps h3 (@fun t100 h101 => KeepsO.next (State.start_keeps h101))

theorem State.pause_keeps {a s : State} {c : Nat} {f : RunFields} (h1 : Keeps a s) : Keeps a (State.pause s c f) := by
  unfold State.pause
  exact Keeps.ite (fun _ => State.await_keeps (State.runFields_keeps h1)) (fun _ => State.runErr_keeps h1)

theorem execPause_keeps {a : State} {camp : Nat} {f : RunFields} {s : State} (h3 : Keeps a s) : KeepsO a (execPause camp f s) := by
  unfold execPause
  exact State.asWrite_keeps h3 (@fun t100 h101 => KeepsO.next (State.pause_keeps h101))

theorem State.resume_keeps {a s : State} {c : Nat} {f : RunFields} (h1 : Keeps a s) : Keeps a (State.resume s c f) := by
  unfold State.resume
  exact Keeps.ite (fun _ => State.wr_keeps (State.runFields_keeps h1) (fun _ _ => by decide)) (fun _ => State.runErr_keeps h1)

theorem execResume_keeps {a : State} {camp : Nat} {f : RunFields} {s : State} (h3 : Keeps a s) : KeepsO a (execResume camp f s) := by
  unfold execResume
  exact State.asWrite_keeps h3 (@fun t100 h101 => KeepsO.next (State.resume_keeps h101))

theorem State.stepCycles_keeps {a s : State} {c : Nat} {f : RunFields} (h1 : Keeps a s) : Keeps a (State.stepCycles s c f) := by
  unfold State.stepCycles
  extract_lets +onlyGivenNames x100
  exact Keeps.ite (fun _ => State.runErr_keeps h1) (fun _ => Keeps.ite (fun _ => State.modCamp_keeps (State.wr_keeps (State.runFields_keeps h1) (fun _ _ => by decide))) (fun _ => Keeps.ite (fun _ => State.await_keeps (State.runFields_keeps h1)) (fun _ => State.runErr_keeps h1)))

theorem execStep_keeps {a : State} {camp : Nat} {f : RunFields} {s : State} (h3 : Keeps a s) : KeepsO a (execStep camp f s) := by
  unfold execStep
  exact State.asWrite_keeps h3 (@fun t100 h101 => KeepsO.next (State.stepCycles_keeps h101))

theorem State.halt_keeps {a s : State} {c : Nat} {f : RunFields} (h1 : Keeps a s) : Keeps a (State.halt s c f) := by
  unfold State.halt
  extract_lets +onlyGivenNames x100
  have h100 : Keeps a x100 := by
    unfold x100
    exact State.runFields_keeps h1
  clear_value x100
  exact Keeps.ite (fun _ => State.runErr_keeps h1) (fun _ => Keeps.ite (fun _ => Keeps.ite (fun _ => State.haltNow_keeps h100) (fun _ => Keeps.ite (fun _ => State.haltNow_keeps h100) (fun _ => State.await_keeps h100))) (fun _ => Keeps.ite (fun _ => State.haltNow_keeps h100) (fun _ => Keeps.ite (fun _ => State.wr_keeps (State.modCamp_keeps h100) (legal.fld rfl)) (fun _ => State.runErr_keeps h1))))

theorem execHalt_keeps {a : State} {camp : Nat} {f : RunFields} {s : State} (h3 : Keeps a s) : KeepsO a (execHalt camp f s) := by
  unfold execHalt
  exact State.asWrite_keeps h3 (@fun t100 h101 => KeepsO.next (State.halt_keeps h101))

theorem State.unload_keeps {a s : State} {c : Nat} {f : RunFields} (h1 : Keeps a s) : Keeps a (State.unload s c f) := by
  unfold State.unload
  extract_lets +onlyGivenNames x100
  refine Keeps.ite (fun _ => ?_) (fun _ => State.runErr_keeps h1)
  extract_lets +onlyGivenNames x101
  have h101 : Keeps a x101 := by
    unfold x101
    exact State.runFields_keeps h1
  clear_value x101
  extract_lets +onlyGivenNames x102
  have h102 : Keeps a x102 := by
    unfold x102
    exact Keeps.ite (fun _ => State.abandon_keeps h101) (fun _ => h101)
  clear_value x102
  extract_lets +onlyGivenNames x103
  have h103 : Keeps a x103 := by
    unfold x103
    exact State.modCamp_keeps (State.wrs_keeps h102 (legal.list rfl))
  clear_value x103
  exact State.forEach_keeps h103 (@fun t104 t105 h106 => State.clearPitch_keeps h106)

theorem execUnload_keeps {a : State} {camp : Nat} {f : RunFields} {s : State} (h3 : Keeps a s) : KeepsO a (execUnload camp f s) := by
  unfold execUnload
  exact State.asWrite_keeps h3 (@fun t100 h101 => KeepsO.next (State.unload_keeps h101))

theorem execUnloadDone_keeps {a : State} {camp : Nat} {s : State} (h2 : Keeps a s) : KeepsO a (execUnloadDone camp s) := by
  unfold execUnloadDone
  refine KeepsO.ite (fun _ => ?_) (fun _ => KeepsO.next h2)
  extract_lets +onlyGivenNames x100
  have h100 : Keeps a x100 := by
    unfold x100
    exact State.forEach_keeps (State.acqFree_keeps h2) (@fun t101 t102 h103 => State.chDisable_keeps h103)
  clear_value x100
  exact KeepsO.next (State.releaseCamp_keeps (State.forEach_keeps h100 (@fun t104 t105 h106 => State.clearEnd_keeps h106)))

theorem execRampStart_keeps {a : State} {camp : Nat} {sinceOther : Nat} {s : State} (h3 : Keeps a s) : KeepsO a (execRampStart camp sinceOther s) := by
  unfold execRampStart
  extract_lets +onlyGivenNames x100
  exact KeepsO.ite (fun _ => KeepsO.next (State.modCamp_keeps h3)) (fun _ => KeepsO.next h3)

theorem execRampStep_keeps {a : State} {camp : Nat} {s : State} (h2 : Keeps a s) : KeepsO a (execRampStep camp s) := by
  unfold execRampStep
  exact KeepsO.next (State.modCamp_keeps h2)

theorem execFirstDesignCycleStart_keeps {a : State} {camp : Nat} {s : State} (h2 : Keeps a s) : KeepsO a (execFirstDesignCycleStart camp s) := by
  unfold execFirstDesignCycleStart
  exact KeepsO.ite (fun _ => KeepsO.next (State.modCamp_keeps (State.wr_keeps (State.wr_keeps h2 (legal.fld rfl)) (legal.reg rfl)))) (fun _ => KeepsO.next h2)

theorem execHeldStartRelease_keeps {a : State} {camp : Nat} {s : State} (h2 : Keeps a s) : KeepsO a (execHeldStartRelease camp s) := by
  unfold execHeldStartRelease
  exact KeepsO.next (Keeps.ite (fun _ => State.beginStart_keeps h2) (fun _ => h2))

theorem State.restoreFails_keeps {a s : State} {c : Nat} {alarm : Bool} (h1 : Keeps a s) : Keeps a (State.restoreFails s c alarm) := by
  unfold State.restoreFails
  extract_lets +onlyGivenNames x100
  have h100 : Keeps a x100 := by
    unfold x100
    exact State.wrs_keeps (State.modCamp_keeps h1) (fun _ _ => legal.reg rfl)
  clear_value x100
  exact Keeps.ite (fun _ => State.haltNow_keeps h100) (fun _ => h100)

theorem execRestoreDone_keeps {a : State} {camp : Nat} {s : State} (h2 : Keeps a s) : KeepsO a (execRestoreDone camp s) := by
  unfold execRestoreDone
  refine KeepsO.ite (fun _ => ?_) (fun _ => KeepsO.next h2)
  extract_lets +onlyGivenNames x100
  have h100 : Keeps2 a x100 := by
    unfold x100
    exact State.restore_keeps h2
  clear_value x100
  refine KeepsO.ite (fun _ => KeepsO.next (State.restoreFails_keeps (Keeps2.snd h100))) (fun _ => ?_)
  extract_lets +onlyGivenNames x101
  have h101 : Keeps a x101 := by
    unfold x101
    exact State.modCamp_keeps (Keeps2.snd h100)
  clear_value x101
  refine KeepsO.ite (fun _ => ?_) (fun _ => KeepsO.next h101)
  split
  · exact KeepsO.next (State.pauseNow_keeps (State.wr_keeps (State.endReplay_keeps h101) (legal.fld rfl)))
  · exact KeepsO.next h101

theorem execRestoreBusError_keeps {a : State} {camp : Nat} {written : Nat} {alarm : Bool} {s : State} (h4 : Keeps a s) : KeepsO a (execRestoreBusError camp written alarm s) := by
  unfold execRestoreBusError
  exact KeepsO.next (Keeps.ite (fun _ => State.restoreFails_keeps (State.restorePart_keeps h4)) (fun _ => h4))

theorem State.loadErr_keeps {a s : State} (h1 : Keeps a s) : Keeps a (State.loadErr s) := by
  unfold State.loadErr
  exact State.wr_keeps h1 (legal.reg rfl)

theorem State.holdFail_keeps {a s : State} {order : Nat} {seg : Nat} (h1 : Keeps a s) : Keeps a (State.holdFail s order seg) := by
  unfold State.holdFail
  exact State.modLoad_keeps h1

theorem State.beginLoad_keeps {a s : State} (h1 : Keeps a s) : Keeps a (State.beginLoad s) := by
  unfold State.beginLoad
  extract_lets +onlyGivenNames x100
  extract_lets +onlyGivenNames x101
  refine Keeps.ite (fun _ => ?_) (fun _ => State.holdFail_keeps h1)
  extract_lets +onlyGivenNames x102
  have h102 : Keeps a x102 := by
    unfold x102
    exact State.wr_keeps (State.wr_keeps h1 (fun _ _ => by decide)) (legal.reg rfl)
  clear_value x102
  extract_lets +onlyGivenNames x103
  have h103 : Keeps a x103 := by
    unfold x103
    exact State.wr_keeps h102 (legal.reg rfl)
  clear_value x103
  exact Keeps.frame (s := x103) h103 rfl rfl rfl rfl (Nat.le_refl _) (Nat.le_refl _) rfl rfl rfl

theorem State.joinLoad_keeps {a s : State} {entry : Bool} {origin : Nat} {src : Nat} {ps : List PlaceEntry} {m : Option Nat} (h1 : Keeps a s) : Keeps a (State.joinLoad s entry origin src ps m) := by
  unfold State.joinLoad
  extract_lets +onlyGivenNames x100
  extract_lets +onlyGivenNames x101
  extract_lets +onlyGivenNames x102
  extract_lets +onlyGivenNames x103
  extract_lets +onlyGivenNames x104
  extract_lets +onlyGivenNames x105
  have h105 : Keeps a x105 := by
    unfold x105
    refine State.wr_keeps ?_ (legal.reg rfl)
    refine State.wr_keeps ?_ (legal.reg rfl)
    refine State.wrs_keeps ?_ (fun _ _ => legal.reg rfl)
    exact Keeps.frame (s := s) h1 rfl rfl rfl rfl (Nat.le_refl _) (Nat.le_refl _) rfl rfl rfl
  clear_value x105
  extract_lets +onlyGivenNames x106
  have h106 : Keeps a x106 := by
    unfold x106
    exact Keeps.ite (fun _ => State.beginLoad_keeps h105) (fun _ => h105)
  clear_value x106
  exact Keeps.ite (fun _ => h106) (fun _ => State.forEach_keeps h106 (@fun t107 t108 h109 => State.domOn_keeps h109))

theorem execLoad_keeps {a : State} {src : Nat} {modules : Nat} {grades : List Nat} {s : State} (h4 : Keeps a s) : KeepsO a (execLoad src modules grades s) := by
  unfold execLoad
  refine State.asWrite_keeps h4 ?_
  intro t100 h101
  extract_lets +onlyGivenNames x102
  extract_lets +onlyGivenNames x103
  extract_lets +onlyGivenNames x104
  extract_lets +onlyGivenNames x105
  refine KeepsO.ite (fun _ => KeepsO.next (State.loadErr_keeps h101)) (fun _ => ?_)
  extract_lets +onlyGivenNames x106
  extract_lets +onlyGivenNames x107
  have h107 : Keeps a x107 := by
    unfold x107
    exact State.joinLoad_keeps (State.wrs_keeps h101 (fun _ _ => legal.reg rfl))
  clear_value x107
  exact KeepsO.next (Keeps.ite (fun _ => State.loadFailHere_keeps h107) (fun _ => State.forEach_keeps h107 (@fun t108 t109 h110 => State.originate_keeps h110)))

theorem execLdAbort_keeps {a s : State} (h1 : Keeps a s) : KeepsO a (execLdAbort s) := by
  unfold execLdAbort
  exact State.asWrite_keeps h1 (@fun t100 h101 => KeepsO.next (Keeps.ite (fun _ => State.loadFailHere_keeps h101) (fun _ => State.loadErr_keeps h101)))

theorem execLdDmaPush_keeps {a : State} {len : Nat} {s : State} (h2 : Keeps a s) : KeepsO a (execLdDmaPush len s) := by
  unfold execLdDmaPush
  refine State.asWrite_keeps h2 ?_
  intro t100 h101
  extract_lets +onlyGivenNames x102
  refine KeepsO.ite (fun _ => KeepsO.next (State.loadErr_keeps h101)) (fun _ => ?_)
  refine KeepsO.ite (fun _ => KeepsO.next h101) (fun _ => ?_)
  extract_lets +onlyGivenNames x103
  exact KeepsO.next (State.emit_keeps (State.wr_keeps (State.modLoad_keeps h101) (legal.reg rfl)))

theorem State.settleLoad_keeps {a s : State} (h1 : Keeps a s) : Keeps a (State.settleLoad s) := by
  unfold State.settleLoad
  extract_lets +onlyGivenNames x100
  refine Keeps.ite (fun _ => ?_) (fun _ => h1)
  split
  · exact State.loadFail_keeps h1
  · exact h1

theorem State.report_keeps {a s : State} {f : Option LoadFailure} (h1 : Keeps a s) : Keeps a (State.report s f) := by
  unfold State.report
  extract_lets +onlyGivenNames x100
  refine Keeps.ite (fun _ => State.settleLoad_keeps (State.modLoad_keeps h1)) (fun _ => ?_)
  split
  · exact State.loadFail_keeps h1
  · exact State.originate_keeps (State.modLoad_keeps h1)

theorem State.conclude_keeps {a s : State} (h1 : Keeps a s) : Keeps a (State.conclude s) := by
  unfold State.conclude
  extract_lets +onlyGivenNames x100
  extract_lets +onlyGivenNames x101
  exact Keeps.ite (fun _ => State.report_keeps h1) (fun _ => h1)

theorem execRegionInitDone_keeps {a : State} {base : Nat} {s : State} (h2 : Keeps a s) : KeepsO a (execRegionInitDone base s) := by
  unfold execRegionInitDone
  exact KeepsO.ite (fun _ => KeepsO.next h2) (fun _ => KeepsO.next (State.conclude_keeps (State.serveHeld_keeps (State.modDeep_keeps h2 (fun h => h)))))

theorem State.writePitch_keeps {a s : State} {seg : Nat} {part : Nat} {lpitch : Nat} {b : List Byte} (h1 : Keeps a s) : Keeps a (State.writePitch s seg part lpitch b) := by
  unfold State.writePitch
  extract_lets +onlyGivenNames x100
  extract_lets +onlyGivenNames x101
  extract_lets +onlyGivenNames x102
  extract_lets +onlyGivenNames x103
  extract_lets +onlyGivenNames x104
  extract_lets +onlyGivenNames x105
  have h105 : Keeps a x105 := by
    unfold x105
    exact State.modLoad_keeps h1
  clear_value x105
  extract_lets +onlyGivenNames x106
  have h106 : Keeps a x106 := by
    unfold x106
    exact State.modLoad_keeps h105
  clear_value x106
  exact Keeps.ite (fun _ => h106) (fun _ => Keeps.ite (fun _ => State.forEach_keeps h106 (@fun t107 t108 h109 => State.loadWord_keeps h109)) (fun _ => State.modCluster_keeps h106))

theorem State.takePlace_keeps {a s : State} {seg : Nat} {b : List Byte} (h1 : Keeps a s) : Keeps a (State.takePlace s seg b) := by
  unfold State.takePlace
  extract_lets +onlyGivenNames x100
  extract_lets +onlyGivenNames x101
  extract_lets +onlyGivenNames x102
  have h102 : Keeps a x102 := by
    unfold x102
    exact State.modLoad_keeps h1
  clear_value x102
  refine Keeps.ite (fun _ => State.holdFail_keeps h102) (fun _ => ?_)
  split
  · exact State.modLoad_keeps h102
  · exact State.holdFail_keeps h102

theorem State.takeAcq_keeps {a s : State} {seg : Nat} {b : List Byte} (h1 : Keeps a s) : Keeps a (State.takeAcq s seg b) := by
  unfold State.takeAcq
  extract_lets +onlyGivenNames x100
  extract_lets +onlyGivenNames x101
  extract_lets +onlyGivenNames x102
  have h102 : Keeps a x102 := by
    unfold x102
    exact State.modLoad_keeps h1
  clear_value x102
  exact Keeps.ite (fun _ => h102) (fun _ => State.holdFail_keeps h102)

theorem State.takeEnd_keeps {a s : State} {b : List Byte} (h1 : Keeps a s) : Keeps a (State.takeEnd s b) := by
  unfold State.takeEnd
  extract_lets +onlyGivenNames x100
  extract_lets +onlyGivenNames x101
  have h101 : Keeps a x101 := by
    unfold x101
    exact State.wr_keeps (State.modLoad_keeps h1) (legal.reg rfl)
  clear_value x101
  split
  · exact Keeps.ite (fun _ => State.conclude_keeps h101) (fun _ => State.report_keeps h101)
  · exact State.report_keeps h101
  · exact State.loadFailHere_keeps h1

theorem State.takeRecord_keeps {a s : State} {z1 : SecHead} {b : List Byte} (h1 : Keeps a s) : Keeps a (State.takeRecord s z1 b) := by
  unfold State.takeRecord
  extract_lets +onlyGivenNames x100
  extract_lets +onlyGivenNames x101
  extract_lets +onlyGivenNames x102
  extract_lets +onlyGivenNames x103
  have h103 : Keeps a x103 := by
    unfold x103
    exact State.modLoad_keeps h1
  clear_value x103
  split
  · exact Keeps.ite (fun _ => State.takePlace_keeps h103) (fun _ => h103)
  · refine Keeps.ite (fun _ => ?_) (fun _ => h103)
    extract_lets +onlyGivenNames x104
    have h104 : Keeps a x104 := by
      unfold x104
      split
      · exact State.holdFail_keeps h103
      · exact h103
    clear_value x104
    exact State.writePitch_keeps h104
  · extract_lets +onlyGivenNames x105
    exact State.modLoad_keeps h103
  · exact Keeps.ite (fun _ => State.takeAcq_keeps h103) (fun _ => h103)
  · exact State.takeEnd_keeps h103

theorem State.takeRecords_keeps {a s : State} (h : Keeps a s) {n : Nat} : Keeps a (s.takeRecords n) := by
  induction n generalizing s with
  | zero => exact h
  | succ n ih =>
    unfold State.takeRecords
    exact Keeps.ite (fun _ => h) fun _ => Keeps.ite (fun _ => State.loadFailHere_keeps h) fun _ => Keeps.ite (fun _ => h) fun _ =>
      Keeps.ite (fun _ => ih (State.takeRecord_keeps h)) fun _ => State.loadFailHere_keeps h

theorem State.acceptFirst_keeps {a s : State} (h1 : Keeps a s) : Keeps a (State.acceptFirst s) := by
  unfold State.acceptFirst
  extract_lets +onlyGivenNames x100
  have h100 : Keeps a x100 := by
    unfold x100
    exact Keeps.ite (fun _ => h1) (fun _ => State.beginLoad_keeps h1)
  clear_value x100
  extract_lets +onlyGivenNames x101
  have h101 : Keeps a x101 := by
    unfold x101
    exact State.modLoad_keeps h100
  clear_value x101
  extract_lets +onlyGivenNames x102
  extract_lets +onlyGivenNames x103
  have h103 : Keeps a x103 := by
    unfold x103
    exact State.wr_keeps h101 (legal.reg rfl)
  clear_value x103
  refine Keeps.ite (fun _ => ?_) (fun _ => h103)
  extract_lets +onlyGivenNames x104
  have h104 : Keeps a x104 := by
    unfold x104
    exact State.modCamp_keeps (State.wr_keeps h103 (legal.fld rfl))
  clear_value x104
  extract_lets +onlyGivenNames x105
  have h105 : Keeps a x105 := by
    unfold x105
    exact Keeps.ite (fun _ => h104) (fun _ => State.initPages_keeps h104)
  clear_value x105
  exact State.forEach_keeps h105 (@fun t106 t107 h108 => State.modCluster_keeps h108)

theorem State.streamEnds_keeps {a s : State} (h1 : Keeps a s) : Keeps a (State.streamEnds s) := by
  unfold State.streamEnds
  exact Keeps.ite (fun _ => State.loadFailHere_keeps h1) (fun _ => h1)

theorem State.takeFirst_keeps {a s : State} {b : List Byte} (h1 : Keeps a s) : Keeps a (State.takeFirst s b) := by
  unfold State.takeFirst
  extract_lets +onlyGivenNames x100
  extract_lets +onlyGivenNames x101
  extract_lets +onlyGivenNames x102
  refine Keeps.ite (fun _ => State.loadFailHere_keeps h1) (fun _ => ?_)
  split
  · exact State.loadFailHere_keeps h1
  · extract_lets +onlyGivenNames x103
    split
    · exact State.loadFailHere_keeps h1
    · exact Keeps.ite (fun _ => State.loadFailHere_keeps h1) (fun _ => Keeps.ite (fun _ => State.loadFailHere_keeps h1) (fun _ => Keeps.ite (fun _ => State.loadFailHere_keeps h1) (fun _ => State.streamEnds_keeps (State.acceptFirst_keeps (State.modLoad_keeps h1)))))

theorem State.takeLater_keeps {a s : State} {b : List Byte} (h1 : Keeps a s) : Keeps a (State.takeLater s b) := by
  unfold State.takeLater
  extract_lets +onlyGivenNames x100
  split
  · exact State.loadFailHere_keeps h1
  · extract_lets +onlyGivenNames x101
    have h101 : Keeps a x101 := by
      unfold x101
      exact State.modLoad_keeps h1
    clear_value x101
    extract_lets +onlyGivenNames x102
    have h102 : Keeps a x102 := by
      unfold x102
      exact State.takeRecords_keeps h101
    clear_value x102
    exact Keeps.ite (fun _ => State.loadFailHere_keeps h102) (fun _ => h102)

theorem State.takeSegment_keeps {a s : State} {b : List Byte} (h1 : Keeps a s) : Keeps a (State.takeSegment s b) := by
  unfold State.takeSegment
  extract_lets +onlyGivenNames x100
  extract_lets +onlyGivenNames x101
  refine Keeps.ite (fun _ => State.loadFailHere_keeps h1) (fun _ => ?_)
  extract_lets +onlyGivenNames x102
  have h102 : Keeps a x102 := by
    unfold x102
    exact Keeps.ite (fun _ => State.wr_keeps h1 (legal.reg rfl)) (fun _ => h1)
  clear_value x102
  extract_lets +onlyGivenNames x103
  have h103 : Keeps a x103 := by
    unfold x103
    exact Keeps.ite (fun _ => State.wr_keeps (State.modLoad_keeps h102) (legal.reg rfl)) (fun _ => Keeps.ite (fun _ => State.takeFirst_keeps h102) (fun _ => State.takeLater_keeps h102))
  clear_value x103
  refine Keeps.ite (fun _ => h103) (fun _ => ?_)
  extract_lets +onlyGivenNames x104
  have h104 : Keeps a x104 := by
    unfold x104
    exact State.wr_keeps (State.modLoad_keeps h103) (legal.reg rfl)
  clear_value x104
  exact Keeps.ite (fun _ => State.originate_keeps h104) (fun _ => h104)

theorem execLoadSegment_keeps {a : State} {bytes : List Byte} {s : State} (h2 : Keeps a s) : KeepsO a (execLoadSegment bytes s) := by
  unfold execLoadSegment
  extract_lets +onlyGivenNames x100
  refine KeepsO.ite (fun _ => ?_) (fun _ => KeepsO.next h2)
  extract_lets +onlyGivenNames x101
  have h101 : ∀ { v0 v1}, Keeps a v0 → Keeps a (x101 v0 v1) := by
    intro t102 t103 h104
    unfold x101
    exact Keeps.ite (fun _ => State.originate_keeps h104) (fun _ => h104)
  clear_value x101
  refine KeepsO.ite (fun _ => ?_) (fun _ => ?_)
  · split
    · exact KeepsO.next h2
    · extract_lets +onlyGivenNames x105
      extract_lets +onlyGivenNames x106
      have h106 : Keeps a x106 := by
        unfold x106
        exact State.wr_keeps (State.modLoad_keeps h2) (legal.reg rfl)
      clear_value x106
      exact KeepsO.next (State.takeSegment_keeps (h101 h106))
  · split
    · exact KeepsO.next h2
    · exact KeepsO.next (State.takeSegment_keeps (h101 (State.modLoad_keeps h2)))

theorem State.placementArrives_keeps {a s : State} {src : Nat} {ps : List PlaceEntry} (h1 : Keeps a s) : Keeps a (State.placementArrives s src ps) := by
  unfold State.placementArrives
  split
  · exact h1
  · exact Keeps.ite (fun _ => h1) (fun _ => Keeps.ite (fun _ => Keeps.ite (fun _ => h1) (fun _ => State.originate_keeps h1)) (fun _ => State.joinLoad_keeps h1))

theorem execPlacementEntryArrive_keeps {a : State} {src : Nat} {modules : Nat} {ps : List PlaceEntry} {s : State} (h4 : Keeps a s) : KeepsO a (execPlacementEntryArrive src modules ps s) := by
  unfold execPlacementEntryArrive
  exact KeepsO.next (State.placementArrives_keeps h4)

theorem State.ackArrives_keeps {a s : State} {m : Nat} {z2 : LoadAck} (h1 : Keeps a s) : Keeps a (State.ackArrives s m z2) := by
  unfold State.ackArrives
  extract_lets +onlyGivenNames x100
  refine Keeps.ite (fun _ => ?_) (fun _ => h1)
  extract_lets +onlyGivenNames x101
  split
  · exact Keeps.ite (fun _ => State.modLoad_keeps h1) (fun _ => h1)
  · exact State.settleLoad_keeps (State.modLoad_keeps h1)
  · extract_lets +onlyGivenNames x102
    exact Keeps.ite (fun _ => State.settleLoad_keeps (State.modLoad_keeps h1)) (fun _ => State.loadFail_keeps h1)

theorem execLoadAck_keeps {a : State} {lmod : Nat} {ack : LoadAck} {s : State} (h3 : Keeps a s) : KeepsO a (execLoadAck lmod ack s) := by
  unfold execLoadAck
  exact KeepsO.next (State.ackArrives_keeps h3)

theorem State.abortArrives_keeps {a s : State} (h1 : Keeps a s) : Keeps a (State.abortArrives s) := by
  unfold State.abortArrives
  exact Keeps.ite (fun _ => h1) (fun _ => State.loadFail_keeps h1)

theorem execAbort_keeps {a s : State} (h1 : Keeps a s) : KeepsO a (execAbort s) := by
  unfold execAbort
  exact KeepsO.next (State.abortArrives_keeps h1)

theorem execLoadTimeout_keeps {a : State} {lmod : Option Nat} {s : State} (h2 : Keeps a s) : KeepsO a (execLoadTimeout lmod s) := by
  unfold execLoadTimeout
  extract_lets +onlyGivenNames x100
  extract_lets +onlyGivenNames x101
  split
  · exact KeepsO.next (Keeps.ite (fun _ => h2) (fun _ => State.loadFailHere_keeps h2))
  · extract_lets +onlyGivenNames x102
    refine KeepsO.ite (fun _ => ?_) (fun _ => KeepsO.next h2)
    extract_lets +onlyGivenNames x103
    exact KeepsO.next (Keeps.ite (fun _ => State.settleLoad_keeps (State.modLoad_keeps h2)) (fun _ => State.loadFail_keeps h2))

theorem execLoadClearDone_keeps {a s : State} (h1 : Keeps a s) : KeepsO a (execLoadClearDone s) := by
  unfold execLoadClearDone
  refine KeepsO.ite (fun _ => ?_) (fun _ => KeepsO.next h1)
  extract_lets +onlyGivenNames x100
  have h100 : Keeps a x100 := by
    unfold x100
    exact State.forEach_keeps h1 (@fun t101 t102 h103 => State.clearEnd_keeps h103)
  clear_value x100
  refine KeepsO.next ?_
  refine State.irq_keeps ?_
  refine State.wrs_keeps ?_ (fun _ _ => legal.reg rfl)
  exact Keeps.frame (s := x100) h100 rfl rfl rfl rfl (Nat.le_refl _) (Nat.le_refl _) rfl rfl rfl

theorem State.acqFresh_keeps {a s : State} (h : Keeps a s) {pl : AcqPlan} {cmps decs : List Nat} : Keeps a (s.acqFresh pl cmps decs) :=
  Keeps.fewer h rfl rfl rfl rfl (Nat.le_refl _) (Nat.le_refl _) (fun _ he => (List.mem_filter.mp he).1) rfl rfl

theorem State.putCmp_keeps {a s : State} {b : AcqBlock} {i : Nat} {v : Nat} (h1 : Keeps a s) : Keeps a (State.putCmp s b i v) := by
  unfold State.putCmp
  extract_lets +onlyGivenNames x100
  have h100 : Keeps a x100 := by
    unfold x100
    exact State.putFields_keeps h1 (fun _ _ _ _ => legal.reg rfl)
  clear_value x100
  exact State.wr_keeps h100 (legal.reg rfl)

theorem State.applyAcq_keeps {a s : State} (h : Keeps a s) {pl : AcqPlan} {e : AcqEntry} : Keeps a (s.applyAcq pl e) := by
  unfold State.applyAcq
  extract_lets l v onBlock onUnit cmp mode dec
  have hb : ∀ {n f}, (∀ {b}, Keeps a (f b)) → Keeps a (onBlock n f) := fun hf => Keeps.elim h hf
  have hu : ∀ {f}, (∀ {u}, Keeps a (f u)) → Keeps a (onUnit f) := fun hf => Keeps.elim h hf
  have hd : ∀ {r}, (r == .RUN_CAMP_STATUS) = false → Keeps a (dec r) := fun hr => State.putFields_keeps h fun _ _ _ _ => legal.reg hr
  split
  · exact hb (State.modAcq_keeps h)
  · exact hb (State.modAcq_keeps h)
  · exact hu (State.modUnit_keeps h)
  · exact hu (State.modUnit_keeps h)
  · exact hb (State.putCmp_keeps h)
  · exact hb (State.putFields_keeps h fun _ _ _ _ => legal.reg rfl)
  · exact hb (State.putFields_keeps h fun _ _ _ _ => legal.reg rfl)
  · exact hu (State.wr_keeps h (legal.reg rfl))
  · exact hu (State.wr_keeps h (legal.reg rfl))
  · exact hu (State.putFields_keeps h fun _ _ _ _ => by split <;> exact legal.reg rfl)
  · exact hu (State.wrs_keeps h fun _ _ => legal.reg rfl)
  · exact hu (State.putFields_keeps h fun _ _ _ _ => legal.reg rfl)
  · exact hd rfl
  · exact hd rfl
  · exact State.wrs_keeps h fun _ _ => legal.reg rfl
  · exact State.wr_keeps h (legal.reg rfl)
  · exact hd rfl
  · exact hd rfl
  · exact State.wrs_keeps h fun _ _ => legal.reg rfl

theorem State.setupAcq_keeps {a s : State} (h1 : Keeps a s) : Keeps a (State.setupAcq s) := by
  unfold State.setupAcq
  split
  · exact h1
  · extract_lets +onlyGivenNames x100
    extract_lets +onlyGivenNames x101
    extract_lets +onlyGivenNames x102
    extract_lets +onlyGivenNames x103
    extract_lets +onlyGivenNames x104
    have h104 : Keeps a x104 := by
      unfold x104
      exact State.modAcq_keeps (State.acqFresh_keeps h1)
    clear_value x104
    extract_lets +onlyGivenNames x105
    extract_lets +onlyGivenNames x106
    extract_lets +onlyGivenNames x107
    have h107 : Keeps a x107 := by
      unfold x107
      split
      · exact State.modUnit_keeps (State.wrs_keeps h104 (fun _ _ => legal.reg rfl))
      · exact h104
    clear_value x107
    extract_lets +onlyGivenNames x108
    have h108 : Keeps a x108 := by
      unfold x108
      exact State.forEach_keeps h107 (@fun t109 t110 h111 => State.wrs_keeps h111 (fun _ _ => legal.reg rfl))
    clear_value x108
    extract_lets +onlyGivenNames x112
    have h112 : Keeps a x112 := by
      unfold x112
      exact State.forEach_keeps h108 (@fun t113 t114 h115 => State.wrs_keeps h115 (fun _ _ => legal.reg rfl))
    clear_value x112
    exact State.forEach_keeps h112 (@fun t116 t117 h118 => State.applyAcq_keeps h118)

theorem State.commitCluster_keeps {a s : State} {lcl : Nat} (h1 : Keeps a s) : Keeps a (State.commitCluster s lcl) := by
  unfold State.commitCluster
  extract_lets +onlyGivenNames x100
  extract_lets +onlyGivenNames x101
  extract_lets +onlyGivenNames x102
  extract_lets +onlyGivenNames x103
  extract_lets +onlyGivenNames x104
  extract_lets +onlyGivenNames x105
  have h105 : Keeps a x105 := by
    unfold x105
    exact State.wr_keeps (State.putFields_keeps (State.putFields_keeps (State.putFields_keeps h1 (fun _ _ _ _ => legal.reg rfl)) (fun _ _ _ _ => legal.reg rfl)) (fun _ _ _ _ => legal.reg rfl)) (legal.reg rfl)
  clear_value x105
  exact Keeps.ite (fun _ => State.wr_keeps h105 (legal.reg rfl)) (fun _ => h105)

theorem State.commitMaps_keeps {a s : State} {p : Nat} (h1 : Keeps a s) : Keeps a (State.commitMaps s p) := by
  unfold State.commitMaps
  extract_lets +onlyGivenNames x100
  extract_lets +onlyGivenNames x101
  have h101 : Keeps a x101 := by
    unfold x101
    exact State.wrs_keeps h1 (fun _ _ => legal.reg rfl)
  clear_value x101
  exact State.forEach_keeps h101 (@fun t102 t103 h104 => State.wrs_keeps h104 (fun _ _ => legal.reg rfl))

theorem State.commitXings_keeps {a s : State} {hops : List Hop} {xbase : Nat} (h1 : Keeps a s) : Keeps a (State.commitXings s hops xbase) := by
  unfold State.commitXings
  extract_lets +onlyGivenNames x100
  refine State.showXing_keeps ?_
  exact Keeps.frame (s := s) h1 rfl rfl rfl rfl (Nat.le_refl _) (Nat.le_refl _) rfl rfl rfl

theorem State.commitRegs_keeps {a s : State} (h1 : Keeps a s) : Keeps a (State.commitRegs s) := by
  unfold State.commitRegs
  extract_lets +onlyGivenNames x100
  extract_lets +onlyGivenNames x101
  extract_lets +onlyGivenNames x102
  extract_lets +onlyGivenNames x103
  extract_lets +onlyGivenNames x104
  extract_lets +onlyGivenNames x105
  have h105 : Keeps a x105 := by
    unfold x105
    exact State.wrs_keeps (State.wrs_keeps h1 (fun _ _ => legal.reg rfl)) (legal.list rfl)
  clear_value x105
  extract_lets +onlyGivenNames x106
  have h106 : Keeps a x106 := by
    unfold x106
    exact State.wrs_keeps (State.wrs_keeps (State.wrs_keeps h105 (fun _ _ => legal.reg rfl)) (fun _ _ => legal.reg rfl)) (fun _ _ => legal.reg rfl)
  clear_value x106
  extract_lets +onlyGivenNames x107
  have h107 : Keeps a x107 := by
    unfold x107
    exact State.wrs_keeps h106 (fun _ _ => legal.reg rfl)
  clear_value x107
  extract_lets +onlyGivenNames x108
  have h108 : Keeps a x108 := by
    unfold x108
    exact State.forEach_keeps h107 (@fun t109 t110 h111 => State.wr_keeps (State.putFields_keeps h111 (fun _ _ _ _ => legal.reg rfl)) (legal.reg rfl))
  clear_value x108
  exact State.wr_keeps (State.forEach_keeps h108 (@fun t112 t113 h114 => State.commitCluster_keeps h114)) (legal.reg rfl)

theorem State.commitHere_keeps {a s : State} (h1 : Keeps a s) : Keeps a (State.commitHere s) := by
  unfold State.commitHere
  extract_lets +onlyGivenNames x100
  extract_lets +onlyGivenNames x101
  extract_lets +onlyGivenNames x102
  extract_lets +onlyGivenNames x103
  extract_lets +onlyGivenNames x104
  have h104 : Keeps a x104 := by
    unfold x104
    exact State.forEach_keeps (State.modCamp_keeps (State.commitXings_keeps (State.commitRegs_keeps h1))) (@fun t105 t106 h107 => State.commitMaps_keeps h107)
  clear_value x104
  extract_lets +onlyGivenNames x108
  have h108 : Keeps a x108 := by
    unfold x108
    exact State.showHop_keeps (State.makeVectors_keeps (State.setupAcq_keeps h104))
  clear_value x108
  exact State.forEach_keeps h108 (@fun t109 t110 h111 => State.exitIdle_keeps h111)

theorem State.loadDone_keeps {a s : State} (h1 : Keeps a s) : Keeps a (State.loadDone s) := by
  unfold State.loadDone
  refine State.irq_keeps ?_
  refine State.wr_keeps ?_ (legal.reg rfl)
  exact Keeps.frame (s := s) h1 rfl rfl rfl rfl (Nat.le_refl _) (Nat.le_refl _) rfl rfl rfl

theorem State.commitArrives_keeps {a s : State} (h1 : Keeps a s) : Keeps a (State.commitArrives s) := by
  unfold State.commitArrives
  extract_lets +onlyGivenNames x100
  extract_lets +onlyGivenNames x101
  refine Keeps.ite (fun _ => ?_) (fun _ => h1)
  extract_lets +onlyGivenNames x102
  have h102 : Keeps a x102 := by
    unfold x102
    exact Keeps.ite (fun _ => State.forEach_keeps h1 (@fun t103 t104 h105 => State.originate_keeps h105)) (fun _ => h1)
  clear_value x102
  exact State.loadDone_keeps (Keeps.ite (fun _ => State.commitHere_keeps h102) (fun _ => h102))

theorem execCommit_keeps {a s : State} (h1 : Keeps a s) : KeepsO a (execCommit s) := by
  unfold execCommit
  exact KeepsO.next (State.commitArrives_keeps h1)

theorem execHello_keeps {a : State} {port : Nat} {addr : Nat} {valid : Bool} {peerPort : Nat} {s : State} (h5 : Keeps a s) : KeepsO a (execHello port addr valid peerPort s) := by
  unfold execHello
  refine KeepsO.ite (fun _ => ?_) (fun _ => KeepsO.next h5)
  extract_lets +onlyGivenNames x100
  have h100 : Keeps a x100 := by
    unfold x100
    exact State.wrs_keeps h5 (fun _ _ => legal.reg rfl)
  clear_value x100
  exact KeepsO.next (Keeps.ite (fun _ => h100) (fun _ => State.setNbr_keeps h100))

theorem execHelloTimer_keeps {a : State} {port : Nat} {s : State} (h2 : Keeps a s) : KeepsO a (execHelloTimer port s) := by
  unfold execHelloTimer
  exact KeepsO.next (State.sendHello_keeps h2)

theorem execFbIdWrite_keeps {a : State} {addr : Nat} {valid : Bool} {s : State} (h3 : Keeps a s) : KeepsO a (execFbIdWrite addr valid s) := by
  unfold execFbIdWrite
  exact State.asWrite_keeps h3 (@fun t100 h101 => KeepsO.next (State.setFbId_keeps h101))

theorem State.joinParts_keeps {a s : State} {pk : Packet} {b : List Byte} (h1 : Keeps a s) : Keeps2 a (State.joinParts s pk b) := by
  unfold State.joinParts
  extract_lets +onlyGivenNames x100
  extract_lets +onlyGivenNames x101
  exact Keeps2.ite (fun _ => Keeps2.mk (State.modFab_keeps h1)) (fun _ => Keeps2.mk (State.modFab_keeps h1))

theorem State.loadPacket_keeps {a s : State} (h : Keeps a s) {pk : Packet} : Keeps a (s.loadPacket pk) := by
  unfold State.loadPacket
  extract_lets mine
  refine Keeps.ite (fun _ => h) fun _ => ?_
  split
  · exact State.placementArrives_keeps h
  · rename_i b _
    refine Keeps.ite (fun _ => ?_) fun _ => h
    have hj : Keeps2 a (s.joinParts pk b) := State.joinParts_keeps h
    split
    · rename_i e; rw [e] at hj; exact State.modLoad_keeps hj
    · rename_i e; rw [e] at hj; exact hj
  · exact Keeps.ite (fun _ => State.commitArrives_keeps h) fun _ => h
  · exact Keeps.ite (fun _ => State.abortArrives_keeps h) fun _ => h
  · exact h

theorem State.mgmtPacket_keeps {a s : State} {src : Nat} {m : Mgmt} (h1 : Keeps a s) : Keeps a (State.mgmtPacket s src m) := by
  unfold State.mgmtPacket
  split
  · split
    · exact State.originate_keeps (State.modCamp_keeps h1)
    · exact h1
  · split
    · extract_lets +onlyGivenNames x100
      have h100 : Keeps a x100 := by
        unfold x100
        exact State.modCamp_keeps h1
      clear_value x100
      exact Keeps.ite (fun _ => State.wr_keeps h100 (legal.reg rfl)) (fun _ => h100)
    · exact h1
  · split
    · extract_lets +onlyGivenNames x101
      exact Keeps.ite (fun _ => State.takeArm_keeps h1) (fun _ => State.originate_keeps (State.wr_keeps h1 (legal.reg rfl)))
    · exact h1
  · split
    · exact Keeps.ite (fun _ => h1) (fun _ => Keeps.ite (fun _ => State.snapClose_keeps (State.modCamp_keeps h1)) (fun _ => State.abandonSnap_keeps h1))
    · exact h1

theorem State.channelPacket_keeps {a s : State} (h : Keeps a s) {pk : Packet} {frozen : Nat} : Keeps a (s.channelPacket pk frozen) := by
  unfold State.channelPacket
  split
  · rename_i b _
    have hj : Keeps2 a (s.joinParts pk b) := State.joinParts_keeps h
    split
    · rename_i e; rw [e] at hj; exact State.peerMessage_keeps hj
    · rename_i e; rw [e] at hj; exact hj
  · exact h

theorem State.deliver_keeps {a s : State} {pk : Packet} {frozen : Nat} (h1 : Keeps a s) : Keeps a (State.deliver s pk frozen) := by
  unfold State.deliver
  split
  · exact State.loadPacket_keeps h1
  · exact State.ackArrives_keeps h1
  · exact State.channelPacket_keeps h1
  · exact State.mgmtPacket_keeps h1
  · exact h1

theorem State.packetIn_keeps {a s : State} {port : Option Nat} {pk : Packet} {frozen : Nat} (h1 : Keeps a s) : Keeps a (State.packetIn s port pk frozen) := by
  unfold State.packetIn
  split
  · exact State.deliver_keeps h1
  · refine Keeps.ite (fun _ => ?_) (fun _ => State.fbDrop_keeps h1)
    extract_lets +onlyGivenNames x100
    have h100 : Keeps2 a x100 := by
      unfold x100
      exact State.routePacket_keeps h1
    clear_value x100
    exact Keeps.ite (fun _ => State.deliver_keeps (Keeps2.snd h100)) (fun _ => Keeps2.snd h100)

theorem execLoadPacket_keeps {a : State} {port : Option Nat} {pkt : Packet} {s : State} (h3 : Keeps a s) : KeepsO a (execLoadPacket port pkt s) := by
  unfold execLoadPacket
  exact KeepsO.next (Keeps.ite (fun _ => h3) (fun _ => State.packetIn_keeps h3))

theorem execChannelPacket_keeps {a : State} {port : Option Nat} {pkt : Packet} {frozen : Nat} {s : State} (h4 : Keeps a s) : KeepsO a (execChannelPacket port pkt frozen s) := by
  unfold execChannelPacket
  exact KeepsO.next (Keeps.ite (fun _ => State.packetIn_keeps h4) (fun _ => h4))

theorem execMgmt_keeps {a : State} {port : Option Nat} {pkt : Packet} {s : State} (h3 : Keeps a s) : KeepsO a (execMgmt port pkt s) := by
  unfold execMgmt
  exact KeepsO.next (Keeps.ite (fun _ => State.packetIn_keeps h3) (fun _ => h3))

theorem State.topoArrives_keeps {a s : State} {p : Nat} {pk : Packet} {t : Topo} (h1 : Keeps a s) : Keeps a (State.topoArrives s p pk t) := by
  unfold State.topoArrives
  refine Keeps.ite (fun _ => Keeps.ite (fun _ => h1) (fun _ => State.setNbr_keeps h1)) (fun _ => ?_)
  extract_lets +onlyGivenNames x100
  refine Keeps.ite (fun _ => ?_) (fun _ => h1)
  extract_lets +onlyGivenNames x101
  have h101 : Keeps a x101 := by
    unfold x101
    exact State.putTopo_keeps h1
  clear_value x101
  extract_lets +onlyGivenNames x102
  exact Keeps.ite (fun _ => Keeps.ite (fun _ => h101) (fun _ => State.fbDrop_keeps h101)) (fun _ => State.forEach_keeps h101 (@fun t103 t104 h105 => State.sendFlit_keeps h105))

theorem execTopo_keeps {a : State} {port : Nat} {pkt : Packet} {s : State} (h3 : Keeps a s) : KeepsO a (execTopo port pkt s) := by
  unfold execTopo
  refine KeepsO.ite (fun _ => ?_) (fun _ => KeepsO.next h3)
  split
  · exact KeepsO.next (State.topoArrives_keeps h3)
  · exact KeepsO.next h3

theorem execTopoTimer_keeps {a s : State} (h1 : Keeps a s) : KeepsO a (execTopoTimer s) := by
  unfold execTopoTimer
  exact KeepsO.next (State.flood_keeps h1)

theorem execTopoRecordExpire_keeps {a : State} {addr : Nat} {s : State} (h2 : Keeps a s) : KeepsO a (execTopoRecordExpire addr s) := by
  unfold execTopoRecordExpire
  exact KeepsO.next (Keeps.ite (fun _ => h2) (fun _ => State.dropTopo_keeps h2))

theorem execRouteCompute_keeps {a s : State} (h1 : Keeps a s) : KeepsO a (execRouteCompute s) := by
  unfold execRouteCompute
  refine KeepsO.ite (fun _ => ?_) (fun _ => KeepsO.next h1)
  extract_lets +onlyGivenNames x100
  extract_lets +onlyGivenNames x101
  extract_lets +onlyGivenNames x102
  have h102 : Keeps a x102 := by
    unfold x102
    exact State.modFab_keeps h1
  clear_value x102
  extract_lets +onlyGivenNames x103
  exact KeepsO.next (State.forEach_keeps (State.wr_keeps h102 (legal.reg rfl)) (@fun t104 t105 h106 => State.wr_keeps h106 (legal.reg rfl)))

theorem State.fbErr_keeps {a s : State} (h1 : Keeps a s) : Keeps a (State.fbErr s) := by
  unfold State.fbErr
  exact State.wr_keeps h1 (legal.reg rfl)

theorem execFbActiveWrite_keeps {a : State} {active : Nat} {s : State} (h2 : Keeps a s) : KeepsO a (execFbActiveWrite active s) := by
  unfold execFbActiveWrite
  exact State.asWrite_keeps h2 (@fun t100 h101 => KeepsO.next (Keeps.ite (fun _ => State.wr_keeps h101 (legal.reg rfl)) (fun _ => State.fbErr_keeps h101)))

theorem execRouteHostWrite_keeps {a : State} {host : Bool} {s : State} (h2 : Keeps a s) : KeepsO a (execRouteHostWrite host s) := by
  unfold execRouteHostWrite
  exact State.asWrite_keeps h2 (@fun t100 h101 => KeepsO.next (Keeps.ite (fun _ => State.fbErr_keeps h101) (fun _ => State.wr_keeps h101 (legal.reg rfl))))

theorem execScrubRead_keeps {a : State} {loc : ClusterSite} {kind : Nat} {unit : Nat} {addr : Nat} {err : Nat} {s : State} (h6 : Keeps a s) : KeepsO a (execScrubRead loc kind unit addr err s) := by
  unfold execScrubRead
  extract_lets +onlyGivenNames x100
  exact KeepsO.ite (fun _ => KeepsO.ite (fun _ => KeepsO.next (Keeps.ite (fun _ => h6) (fun _ => State.modCluster_keeps h6))) (fun _ => KeepsO.ite (fun _ => KeepsO.next h6) (fun _ => KeepsO.ite (fun _ => KeepsO.next (State.bump_keeps h6 rfl)) (fun _ => KeepsO.next (State.countUnit_keeps (State.scError_keeps h6)))))) (fun _ => KeepsO.next h6)

theorem execScrubGo_keeps {a : State} {die : Nat} {kind : Nat} {slot : Nat} {s : State} (h4 : Keeps a s) : KeepsO a (execScrubGo die kind slot s) := by
  unfold execScrubGo
  refine State.asWrite_keeps h4 ?_
  intro t100 h101
  extract_lets +onlyGivenNames x102
  have h102 : Keeps a x102 := by
    unfold x102
    exact State.wrs_keeps h101 (fun _ _ => legal.reg rfl)
  clear_value x102
  refine KeepsO.ite (fun _ => ?_) (fun _ => KeepsO.next h102)
  refine KeepsO.next ?_
  extract_lets +onlyGivenNames x103
  have h103 : Keeps a x103 := by
    unfold x103
    exact State.wr_keeps h102 (legal.reg rfl)
  clear_value x103
  exact Keeps.frame (s := x103) h103 rfl rfl rfl rfl (Nat.le_refl _) (Nat.le_refl _) rfl rfl rfl

theorem execScrubPassDone_keeps {a : State} {die : Nat} {s : State} (h2 : Keeps a s) : KeepsO a (execScrubPassDone die s) := by
  unfold execScrubPassDone
  extract_lets +onlyGivenNames x100
  refine KeepsO.ite (fun _ => KeepsO.next h2) (fun _ => ?_)
  extract_lets +onlyGivenNames x101
  have h101 : Keeps a x101 := by
    unfold x101
    exact State.wr_keeps (State.bump_keeps h2 rfl) (legal.reg rfl)
  clear_value x101
  refine KeepsO.next ?_
  exact Keeps.frame (s := x101) h101 rfl rfl rfl rfl (Nat.le_refl _) (Nat.le_refl _) rfl rfl rfl

theorem State.reloadScrub_keeps {a s : State} {d : Nat} (h1 : Keeps a s) : Keeps a (State.reloadScrub s d) := by
  unfold State.reloadScrub
  refine Keeps.ite (fun _ => h1) (fun _ => ?_)
  extract_lets +onlyGivenNames x100
  have h100 : Keeps a x100 := by
    unfold x100
    refine State.logEvent_keeps (State.bump_keeps (State.wr_keeps h1 (legal.reg rfl)) rfl) rfl ?_
    intro t101 h102
    unfold id
    exact h102
  clear_value x100
  exact Keeps.ite (fun _ => State.irq_keeps h100) (fun _ => h100)

theorem execSupervisorCheck_keeps {a : State} {bad : List Nat} {s : State} (h2 : Keeps a s) : KeepsO a (execSupervisorCheck bad s) := by
  unfold execSupervisorCheck
  extract_lets +onlyGivenNames x100
  extract_lets +onlyGivenNames x101
  have h101 : Keeps a x101 := by
    unfold x101
    exact State.draw_keeps (State.forEach_keeps h2 (@fun t102 t103 h104 => State.wr_keeps h104 (legal.reg rfl)))
  clear_value x101
  exact KeepsO.next (State.forEach_keeps h101 (@fun t105 t106 h107 => State.reloadScrub_keeps h107))

theorem execScrubReloadDone_keeps {a : State} {die : Nat} {s : State} (h2 : Keeps a s) : KeepsO a (execScrubReloadDone die s) := by
  unfold execScrubReloadDone
  exact KeepsO.next (State.wr_keeps h2 (legal.reg rfl))

theorem execBist_keeps {a : State} {target : Nat} {index : Nat} {s : State} (h3 : Keeps a s) : KeepsO a (execBist target index s) := by
  unfold execBist
  refine State.asWrite_keeps h3 ?_
  intro t100 h101
  refine KeepsO.ite (fun _ => KeepsO.next h101) (fun _ => ?_)
  extract_lets +onlyGivenNames x102
  extract_lets +onlyGivenNames x103
  extract_lets +onlyGivenNames x104
  have h104 : Keeps a x104 := by
    unfold x104
    exact State.wrs_keeps h101 (fun _ _ => legal.reg rfl)
  clear_value x104
  refine KeepsO.ite (fun _ => ?_) (fun _ => KeepsO.next (State.wr_keeps h104 (legal.reg rfl)))
  extract_lets +onlyGivenNames x105
  have h105 : Keeps a x105 := by
    unfold x105
    exact State.wr_keeps h104 (legal.reg rfl)
  clear_value x105
  extract_lets +onlyGivenNames x106
  extract_lets +onlyGivenNames x107
  have h107 : Keeps a x107 := by
    unfold x107
    exact Keeps.frame (s := x105) h105 rfl rfl rfl rfl (Nat.le_refl _) (Nat.le_refl _) rfl rfl rfl
  clear_value x107
  clear_value x102
  split
  · exact KeepsO.next (State.domOn_keeps h107)
  · exact KeepsO.next h107
  · exact KeepsO.next (State.setNbr_keeps (State.wr_keeps h107 (legal.reg rfl)))

theorem execBistDone_keeps {a : State} {fails : List UnitId} {rows : List (Nat × Nat × Nat)} {s : State} (h3 : Keeps a s) : KeepsO a (execBistDone fails rows s) := by
  unfold execBistDone
  split
  · exact KeepsO.next h3
  · extract_lets +onlyGivenNames x100
    extract_lets +onlyGivenNames x101
    have h101 : Keeps a x101 := by
      unfold x101
      exact foldl_keeps (@fun t102 t103 h104 => State.markFailed_keeps (State.wearAdd_keeps h104)) h3
    clear_value x101
    extract_lets +onlyGivenNames x105
    extract_lets +onlyGivenNames x106
    have h106 : Keeps a x106 := by
      unfold x106
      refine Keeps.ite (fun _ => ?_) (fun _ => h101)
      exact Keeps.frame (s := x101) h101 rfl rfl rfl rfl (Nat.le_refl _) (Nat.le_refl _) rfl rfl rfl
    clear_value x106
    extract_lets +onlyGivenNames x107
    have h107 : Keeps a x107 := by
      unfold x107
      exact State.irq_keeps (State.wrs_keeps h106 (fun _ _ => legal.reg rfl))
    clear_value x107
    extract_lets +onlyGivenNames x108
    extract_lets +onlyGivenNames x109
    have h109 : Keeps a x109 := by
      unfold x109
      exact Keeps.frame (s := x107) h107 rfl rfl rfl rfl (Nat.le_refl _) (Nat.le_refl _) rfl rfl rfl
    clear_value x109
    split
    · exact KeepsO.next (State.clearPitch_keeps h109)
    · exact KeepsO.next (State.sealChan_keeps h109)
    · exact KeepsO.next (State.retrain_keeps h109)

theorem State.flushWear_keeps {a s : State} (h1 : Keeps a s) : Keeps a (State.flushWear s) := by
  unfold State.flushWear
  extract_lets +onlyGivenNames x100
  extract_lets +onlyGivenNames x101
  have h101 : Keeps a x101 := by
    unfold x101
    exact State.forEach_keeps h1 (@fun t102 t103 h104 => State.wearAdd_keeps h104)
  clear_value x101
  extract_lets +onlyGivenNames x105
  have h105 : Keeps a x105 := by
    unfold x105
    exact State.forEach_keeps h101 (@fun t106 t107 h108 => State.wearAdd_keeps h108)
  clear_value x105
  exact Keeps.frame (s := x105) h105 rfl rfl rfl rfl (Nat.le_refl _) (Nat.le_refl _) rfl rfl rfl

theorem execFlushWear_keeps {a : State} {target : Nat} {index : Nat} {s : State} (h3 : Keeps a s) : KeepsO a (execFlushWear target index s) := by
  unfold execFlushWear
  exact State.asWrite_keeps h3 (@fun t100 h101 => KeepsO.next (Keeps.ite (fun _ => h101) (fun _ => State.flushWear_keeps (State.wrs_keeps h101 (fun _ _ => legal.reg rfl)))))

theorem execWearFlushTimer_keeps {a s : State} (h1 : Keeps a s) : KeepsO a (execWearFlushTimer s) := by
  unfold execWearFlushTimer
  exact KeepsO.next (State.flushWear_keeps h1)

theorem execWearCompactDone_keeps {a s : State} (h1 : Keeps a s) : KeepsO a (execWearCompactDone s) := by
  unfold execWearCompactDone
  refine KeepsO.ite (fun _ => ?_) (fun _ => KeepsO.next h1)
  extract_lets +onlyGivenNames x100
  extract_lets +onlyGivenNames x101
  extract_lets +onlyGivenNames x102
  extract_lets +onlyGivenNames x103
  extract_lets +onlyGivenNames x104
  have h104 : Keeps a x104 := by
    unfold x104
    exact Keeps.frame (s := s) h1 rfl rfl rfl rfl (Nat.le_refl _) (Nat.le_refl _) rfl rfl rfl
  clear_value x104
  extract_lets +onlyGivenNames x105
  have h105 : Keeps a x105 := by
    unfold x105
    exact State.wrs_keeps h104 (fun _ _ => legal.reg rfl)
  clear_value x105
  exact KeepsO.next (State.forEach_keeps h105 (@fun t106 t107 h108 => State.wearPut_keeps h108))

theorem State.hsErr_keeps {a s : State} (h1 : Keeps a s) : Keeps a (State.hsErr s) := by
  unfold State.hsErr
  exact State.wr_keeps h1 (legal.reg rfl)

theorem execHsPitchMapWrite_keeps {a : State} {pitch : Nat} {spareCol : Nat} {s : State} (h3 : Keeps a s) : KeepsO a (execHsPitchMapWrite pitch spareCol s) := by
  unfold execHsPitchMapWrite
  exact State.asWrite_keeps h3 (@fun t100 h101 => KeepsO.next (Keeps.ite (fun _ => State.hsErr_keeps h101) (fun _ => State.refreshPitch_keeps (State.pendMap_keeps (State.wr_keeps h101 (legal.reg rfl))))))

theorem execHsBpMapWrite_keeps {a : State} {loc : ClusterSite} {spare0 : Nat} {spare1 : Nat} {failed : Bool} {s : State} (h5 : Keeps a s) : KeepsO a (execHsBpMapWrite loc spare0 spare1 failed s) := by
  unfold execHsBpMapWrite
  refine State.asWrite_keeps h5 ?_
  intro t100 h101
  extract_lets +onlyGivenNames x102
  exact KeepsO.next (Keeps.ite (fun _ => State.hsErr_keeps h101) (fun _ => State.refreshPitch_keeps (State.wrs_keeps h101 (fun _ _ => legal.reg rfl))))

theorem execHsColMapWrite_keeps {a : State} {loc : ClusterSite} {col0 : Nat} {col1 : Nat} {s : State} (h4 : Keeps a s) : KeepsO a (execHsColMapWrite loc col0 col1 s) := by
  unfold execHsColMapWrite
  refine State.asWrite_keeps h4 ?_
  intro t100 h101
  extract_lets +onlyGivenNames x102
  exact KeepsO.next (Keeps.ite (fun _ => State.hsErr_keeps h101) (fun _ => State.refreshPitch_keeps (State.pendMap_keeps (State.wrs_keeps h101 (fun _ _ => legal.reg rfl)))))

end Sys2Proof.Machine
end

