-- ==== Sys2Proof/Laws/KeepsHost.lean ====
section
/-! SUPPORT. Every operation and command of the host interface, the other ports and the cores' accesses to memory passes `Keeps` on. -/

namespace Sys2Proof.Machine

set_option Elab.async false

theorem State.clearRc_keeps {a s : State} {r : RegName} {i : Nat} (h1 : Keeps a s) : Keeps a (State.clearRc s r i) := by
  unfold State.clearRc
  split
  · exact State.modHn_keeps h1
  · exact Keeps.frame (s := s) h1 rfl rfl rfl rfl (Nat.le_refl _) (Nat.le_refl _) rfl rfl rfl
  · exact State.forEach_keeps h1 (@fun t100 t101 h102 => State.wr_keeps h102 (fun _ _ => by decide))

theorem State.readLatch_keeps {a s : State} {r : RegName} {i : Nat} (h1 : Keeps a s) : Keeps a (State.readLatch s r i) := by
  unfold State.readLatch
  split
  · exact State.wr_keeps h1 (legal.reg rfl)
  · exact State.wr_keeps h1 (legal.reg rfl)
  · exact State.wr_keeps (State.wr_keeps h1 (legal.reg rfl)) (legal.reg rfl)
  · extract_lets +onlyGivenNames x100
    exact State.wr_keeps (State.wr_keeps h1 (legal.reg rfl)) (legal.reg rfl)
  · split
    · exact State.wr_keeps (State.wr_keeps h1 (legal.reg rfl)) (legal.reg rfl)
    · exact h1
  · exact State.wr_keeps h1 (legal.reg rfl)
  · exact State.wr_keeps h1 (legal.reg rfl)
  · exact h1

theorem State.readReg_keeps {a s : State} {r : RegName} {i : Nat} {part : Nat} (h1 : Keeps a s) : Keeps2 a (State.readReg s r i part) := by
  unfold State.readReg
  extract_lets +onlyGivenNames x100
  extract_lets +onlyGivenNames x101
  have h101 : Keeps a x101 := by
    unfold x101
    exact State.unhold_keeps h1
  clear_value x101
  refine Keeps2.ite (fun _ => ?_) (fun _ => ?_)
  · split
    · exact Keeps2.mk h101
    · exact Keeps2.mk h1
  · extract_lets +onlyGivenNames x102
    have h102 : Keeps a x102 := by
      unfold x102
      exact State.clearRc_keeps (State.readLatch_keeps h101)
    clear_value x102
    refine Keeps2.ite (fun _ => Keeps2.mk h102) (fun _ => ?_)
    refine Keeps2.mk ?_
    exact Keeps.frame (s := x102) h102 rfl rfl rfl rfl (Nat.le_refl _) (Nat.le_refl _) rfl rfl rfl

theorem State.badAccess_keeps {a s : State} {off : Nat} {write : Bool} (h1 : Keeps a s) : Keeps a (State.badAccess s off write) := by
  unfold State.badAccess
  extract_lets +onlyGivenNames x100
  have h100 : Keeps a x100 := by
    unfold x100
    exact State.idError_keeps h1
  clear_value x100
  exact Keeps.ite (fun _ => h100) (fun _ => State.emit_keeps h100)

theorem State.bar0Read_keeps {a s : State} {off : Nat} {part : Nat} (h1 : Keeps a s) : Keeps2 a (State.bar0Read s off part) := by
  unfold State.bar0Read
  split
  · exact Keeps2.mk h1
  · exact Keeps2.mk (State.idError_keeps h1)
  · split
    · exact Keeps2.mk h1
    · exact State.readReg_keeps h1

theorem State.hostRead_keeps {a s : State} {z1 : RegSpace} {wide : Bool} (h1 : Keeps a s) : Keeps a (State.hostRead s z1 wide) := by
  unfold State.hostRead
  split
  · refine Keeps.ite (fun _ => ?_) (fun _ => State.badAccess_keeps h1)
    extract_lets +onlyGivenNames x100
    have h100 : Keeps2 a x100 := by
      unfold x100
      exact State.bar0Read_keeps h1
    clear_value x100
    exact State.emit_keeps (Keeps2.snd h100)
  · exact Keeps.ite (fun _ => State.emit_keeps h1) (fun _ => State.badAccess_keeps h1)
  · exact State.emit_keeps h1

theorem execRcRead_keeps {a : State} {place : RegSpace} {wide : Bool} {s : State} (h3 : Keeps a s) : KeepsO a (execRcRead place wide s) := by
  unfold execRcRead
  exact KeepsO.next (State.hostRead_keeps h3)

theorem execHoldingRegisterRead_keeps {a : State} {slot : Nat} {s : State} (h2 : Keeps a s) : KeepsO a (execHoldingRegisterRead slot s) := by
  unfold execHoldingRegisterRead
  exact KeepsO.next (State.hostRead_keeps h2)

theorem State.namedRead_keeps {a s : State} {r : RegName} {stride : Nat} {i : Nat} {wide : Bool} (h1 : Keeps a s) : Keeps a (State.namedRead s r stride i wide) := by
  unfold State.namedRead
  exact State.hostRead_keeps h1

theorem execRunCampCycleLoRead_keeps {a : State} {camp : Nat} {wide : Bool} {s : State} (h3 : Keeps a s) : KeepsO a (execRunCampCycleLoRead camp wide s) := by
  unfold execRunCampCycleLoRead
  exact KeepsO.next (State.namedRead_keeps h3)

theorem execTsLogPosLoRead_keeps {a : State} {camp : Nat} {wide : Bool} {s : State} (h3 : Keeps a s) : KeepsO a (execTsLogPosLoRead camp wide s) := by
  unfold execTsLogPosLoRead
  exact KeepsO.next (State.namedRead_keeps h3)

theorem execTmNowFracRead_keeps {a : State} {wide : Bool} {s : State} (h2 : Keeps a s) : KeepsO a (execTmNowFracRead wide s) := by
  unfold execTmNowFracRead
  exact KeepsO.next (State.namedRead_keeps h2)

theorem execTmDtFracRead_keeps {a : State} {camp : Nat} {wide : Bool} {s : State} (h3 : Keeps a s) : KeepsO a (execTmDtFracRead camp wide s) := by
  unfold execTmDtFracRead
  exact KeepsO.next (State.namedRead_keeps h3)

theorem execTmCapFracRead_keeps {a : State} {input : Nat} {wide : Bool} {s : State} (h3 : Keeps a s) : KeepsO a (execTmCapFracRead input wide s) := by
  unfold execTmCapFracRead
  exact KeepsO.next (State.namedRead_keeps h3)

theorem execTrFbDataRead_keeps {a : State} {wide : Bool} {s : State} (h2 : Keeps a s) : KeepsO a (execTrFbDataRead wide s) := by
  unfold execTrFbDataRead
  exact KeepsO.next (State.namedRead_keeps h2)

theorem execIdKeyDataRead_keeps {a : State} {wide : Bool} {s : State} (h2 : Keeps a s) : KeepsO a (execIdKeyDataRead wide s) := by
  unfold execIdKeyDataRead
  exact KeepsO.next (State.namedRead_keeps h2)

theorem execBarBadAccess_keeps {a : State} {off : Nat} {write : Bool} {s : State} (h3 : Keeps a s) : KeepsO a (execBarBadAccess off write s) := by
  unfold execBarBadAccess
  exact KeepsO.next (State.badAccess_keeps h3)

theorem State.storeRw_keeps {a s : State} (h : Keeps a s) {r : RegName} {i : Nat} {w : RegWrite} : Keeps a (s.storeRw r i w) :=
  State.forFields_keeps h (fun x hx hp _ => legal.table hx (by cases e : x.acc <;> simp_all)) fun ht hl => State.wr_keeps ht hl

theorem State.clearW1c_keeps {a s : State} (h : Keeps a s) {r : RegName} {i : Nat} {w : RegWrite} : Keeps a (s.clearW1c r i w) := by
  unfold State.clearW1c
  extract_lets s1
  have h1 : Keeps a s1 := State.forFields_keeps h (fun x hx hp _ => legal.table hx (by cases e : x.acc <;> simp_all)) fun ht hl => State.wr_keeps ht hl
  exact Keeps.ite (fun _ => State.wr_keeps h1 (legal.fld rfl)) fun _ => h1

theorem State.plainWrite_keeps {a s : State} {r : RegName} {i : Nat} {w : RegWrite} (h1 : Keeps a s) : Keeps a (State.plainWrite s r i w) := by
  unfold State.plainWrite
  exact State.storeRw_keeps (State.clearW1c_keeps h1)

theorem afterCmd_keeps {a s : State} (h : Keeps a s) {o : Host.Outcome State Fault Refusal} (ho : KeepsO a o) : Keeps a (afterCmd s o) := by
  cases o with
  | next t => exact ho t rfl
  | fault _ => exact h
  | refused _ => exact h

theorem State.writeLoader_keeps {a s : State} {r : RegName} {i : Nat} {w : RegWrite} {o : WriteObs} (h1 : Keeps a s) : Keeps a (State.writeLoader s r i w o) := by
  unfold State.writeLoader
  refine Keeps.ite (fun _ => State.loadErr_keeps h1) (fun _ => ?_)
  split
  · extract_lets +onlyGivenNames x100
    extract_lets +onlyGivenNames x101
    split
    · exact Keeps.ite (fun _ => State.loadErr_keeps h1) (fun _ => State.plainWrite_keeps h1)
    · exact afterCmd_keeps h1 (execLoad_keeps h1)
    · exact afterCmd_keeps h1 (execLdAbort_keeps h1)
    · exact State.loadErr_keeps h1
  · exact State.clearW1c_keeps h1
  · exact Keeps.ite (fun _ => afterCmd_keeps h1 (execLdDmaPush_keeps h1)) (fun _ => h1)
  · exact State.plainWrite_keeps h1
  · exact State.plainWrite_keeps h1
  · exact Keeps.ite (fun _ => State.loadErr_keeps h1) (fun _ => State.plainWrite_keeps h1)

theorem State.writeRun_keeps {a s : State} {c : Nat} {w : RegWrite} (h1 : Keeps a s) : Keeps a (State.writeRun s c w) := by
  unfold State.writeRun
  extract_lets +onlyGivenNames x100
  extract_lets +onlyGivenNames x101
  split
  · exact State.runFields_keeps h1
  · exact afterCmd_keeps h1 (execStart_keeps h1)
  · exact afterCmd_keeps h1 (execPause_keeps h1)
  · exact afterCmd_keeps h1 (execResume_keeps h1)
  · exact afterCmd_keeps h1 (execStep_keeps h1)
  · exact afterCmd_keeps h1 (execHalt_keeps h1)
  · exact afterCmd_keeps h1 (execUnload_keeps h1)
  · exact State.runErr_keeps h1

theorem State.writeClock_keeps {a s : State} {r : RegName} {i : Nat} {w : RegWrite} (h1 : Keeps a s) : Keeps a (State.writeClock s r i w) := by
  unfold State.writeClock
  extract_lets +onlyGivenNames x100
  split
  · exact afterCmd_keeps h1 (execDcTagWrite_keeps h1)
  · exact Keeps.ite (fun _ => afterCmd_keeps h1 (execDcAccWrite_keeps h1)) (fun _ => h1)
  · extract_lets +onlyGivenNames x101
    exact Keeps.ite (fun _ => afterCmd_keeps h1 (execSnapArm_keeps h1)) (fun _ => Keeps.ite (fun _ => afterCmd_keeps h1 (execSnapAbort_keeps h1)) (fun _ => State.plainWrite_keeps h1))
  · exact Keeps.ite (fun _ => afterCmd_keeps h1 (execDcSnapSelWrite_keeps h1)) (fun _ => h1)
  · exact State.plainWrite_keeps h1

theorem State.writeDram_keeps {a s : State} {r : RegName} {i : Nat} {chan : Nat} {w : RegWrite} {by' : Writer} (h1 : Keeps a s) : Keeps a (State.writeDram s r i chan w by') := by
  unfold State.writeDram
  extract_lets +onlyGivenNames x100
  extract_lets +onlyGivenNames x101
  extract_lets +onlyGivenNames x102
  split
  · extract_lets +onlyGivenNames x103
    split
    · exact State.trainHost_keeps h1
    · exact afterCmd_keeps h1 (execDmInit_keeps h1)
    · exact afterCmd_keeps h1 (execDmActivate_keeps h1)
    · exact afterCmd_keeps h1 (execDmQuiesce_keeps h1)
    · exact afterCmd_keeps h1 (execDmPpr_keeps h1)
    · exact State.dmErr_keeps (State.trainHost_keeps h1)
  · exact Keeps.ite (fun _ => State.dmErr_keeps h1) (fun _ => State.modDeep_keeps h1 (fun h => h))
  · exact Keeps.ite (fun _ => State.dmErr_keeps h1) (fun _ => Keeps.ite (fun _ => State.plainWrite_keeps h1) (fun _ => State.trainOp_keeps h1))
  · exact Keeps.ite (fun _ => State.dmErr_keeps h1) (fun _ => State.plainWrite_keeps h1)
  · exact Keeps.ite (fun _ => afterCmd_keeps h1 (execDmMapWrite_keeps h1)) (fun _ => h1)
  · exact State.plainWrite_keeps h1

theorem State.writeKeys_keeps {a s : State} {r : RegName} {i : Nat} {w : RegWrite} (h1 : Keeps a s) : Keeps a (State.writeKeys s r i w) := by
  unfold State.writeKeys
  extract_lets +onlyGivenNames x100
  split
  · split
    · exact afterCmd_keeps h1 (execInstall_keeps h1)
    · exact afterCmd_keeps h1 (execRoll_keeps h1)
    · exact afterCmd_keeps h1 (execRemove_keeps h1)
    · exact State.plainWrite_keeps h1
  · exact afterCmd_keeps h1 (execMpRangeWrite_keeps h1)
  · exact Keeps.ite (fun _ => afterCmd_keeps h1 (execMpRangeWrite_keeps h1)) (fun _ => h1)
  · exact State.plainWrite_keeps h1

theorem State.writeCore_keeps {a s : State} {r : RegName} {i : Nat} {w : RegWrite} (h1 : Keeps a s) : Keeps a (State.writeCore s r i w) := by
  unfold State.writeCore
  extract_lets +onlyGivenNames x100
  split
  · extract_lets +onlyGivenNames x101
    have h101 : Keeps a x101 := by
      unfold x101
      exact State.wrs_keeps h1 (fun _ _ => legal.reg rfl)
    clear_value x101
    extract_lets +onlyGivenNames x102
    have h102 : Keeps a x102 := by
      unfold x102
      exact Keeps.ite (fun _ => afterCmd_keeps h101 (execCcEnableWrite_keeps h101)) (fun _ => h101)
    clear_value x102
    exact Keeps.ite (fun _ => afterCmd_keeps h102 (execCcCtrlWake_keeps h102)) (fun _ => h102)
  · extract_lets +onlyGivenNames x103
    have h103 : Keeps a x103 := by
      unfold x103
      exact State.clearW1c_keeps h1
    clear_value x103
    exact Keeps.ite (fun _ => h103) (fun _ => afterCmd_keeps h103 (execCcDomWrite_keeps h103))
  · exact afterCmd_keeps h1 (execCcDomWrite_keeps h1)
  · exact Keeps.ite (fun _ => afterCmd_keeps h1 (execCcDomWrite_keeps h1)) (fun _ => h1)
  · exact State.plainWrite_keeps h1

theorem State.writeChan_keeps {a s : State} {r : RegName} {i : Nat} {w : RegWrite} {o : WriteObs} (h1 : Keeps a s) : Keeps a (State.writeChan s r i w o) := by
  unfold State.writeChan
  extract_lets +onlyGivenNames x100
  split
  · extract_lets +onlyGivenNames x101
    have h101 : Keeps a x101 := by
      unfold x101
      exact State.clearW1c_keeps h1
    clear_value x101
    extract_lets +onlyGivenNames x102
    have h102 : Keeps a x102 := by
      unfold x102
      exact Keeps.ite (fun _ => h101) (fun _ => Keeps.ite (fun _ => State.storeRw_keeps h101) (fun _ => State.chErr_keeps h101))
    clear_value x102
    split
    · exact afterCmd_keeps h102 (execChEnable_keeps h102)
    · exact afterCmd_keeps h102 (execChQuiesce_keeps h102)
    · exact afterCmd_keeps h102 (execChDisable_keeps h102)
    · exact h102
  · exact State.clearW1c_keeps h1
  · exact Keeps.ite (fun _ => State.plainWrite_keeps h1) (fun _ => Keeps.ite (fun _ => State.chErr_keeps h1) (fun _ => h1))

theorem State.writeTask_keeps {a s : State} {r : RegName} {i : Nat} {w : RegWrite} {o : WriteObs} (h1 : Keeps a s) : Keeps a (State.writeTask s r i w o) := by
  unfold State.writeTask
  extract_lets +onlyGivenNames x100
  extract_lets +onlyGivenNames x101
  extract_lets +onlyGivenNames x102
  split
  · exact afterCmd_keeps h1 (execTsTaskFlagsWrite_keeps h1)
  · exact Keeps.ite (fun _ => State.modTask_keeps h1) (fun _ => State.taskErr_keeps h1)
  · exact Keeps.ite (fun _ => State.modTask_keeps h1) (fun _ => State.taskErr_keeps h1)
  · exact Keeps.ite (fun _ => State.modTask_keeps h1) (fun _ => State.taskErr_keeps h1)
  · extract_lets +onlyGivenNames x103
    have h103 : Keeps a x103 := by
      unfold x103
      exact State.clearW1c_keeps h1
    clear_value x103
    split
    · exact afterCmd_keeps h103 (execTaskArm_keeps h103)
    · exact afterCmd_keeps h103 (execTaskCancel_keeps h103)
    · exact afterCmd_keeps h103 (execTaskFree_keeps h103)
    · exact h103
  · exact Keeps.ite (fun _ => State.plainWrite_keeps h1) (fun _ => h1)
  · exact Keeps.ite (fun _ => State.plainWrite_keeps h1) (fun _ => h1)
  · exact State.setKeep_keeps h1
  · exact Keeps.ite (fun _ => State.setKeep_keeps h1) (fun _ => h1)
  · exact State.plainWrite_keeps h1

theorem State.writeHn_keeps {a s : State} {r : RegName} {i : Nat} {w : RegWrite} (h1 : Keeps a s) : Keeps a (State.writeHn s r i w) := by
  unfold State.writeHn
  extract_lets +onlyGivenNames x100
  split
  · extract_lets +onlyGivenNames x101
    split
    · exact afterCmd_keeps h1 (execRetrain_keeps h1)
    · exact afterCmd_keeps h1 (execHnSpareCmd_keeps h1)
    · exact afterCmd_keeps h1 (execExitIdle_keeps h1)
    · exact State.hnCtrl_keeps h1
  · exact Keeps.ite (fun _ => afterCmd_keeps h1 (execEqRequest_keeps h1)) (fun _ => State.plainWrite_keeps h1)
  · exact State.plainWrite_keeps h1

theorem State.writeFab_keeps {a s : State} {r : RegName} {i : Nat} {w : RegWrite} (h1 : Keeps a s) : Keeps a (State.writeFab s r i w) := by
  unfold State.writeFab
  extract_lets +onlyGivenNames x100
  split
  · exact afterCmd_keeps h1 (execFbIdWrite_keeps h1)
  · extract_lets +onlyGivenNames x101
    have h101 : Keeps a x101 := by
      unfold x101
      exact State.wr_keeps h1 (legal.reg rfl)
    clear_value x101
    extract_lets +onlyGivenNames x102
    have h102 : Keeps a x102 := by
      unfold x102
      exact Keeps.ite (fun _ => h101) (fun _ => afterCmd_keeps h101 (execRouteHostWrite_keeps h101))
    clear_value x102
    exact Keeps.ite (fun _ => h102) (fun _ => afterCmd_keeps h102 (execFbActiveWrite_keeps h102))
  · extract_lets +onlyGivenNames x103
    extract_lets +onlyGivenNames x104
    exact Keeps.ite (fun _ => h1) (fun _ => Keeps.ite (fun _ => State.fbErr_keeps h1) (fun _ => State.modFab_keeps h1))
  · exact State.plainWrite_keeps h1

theorem State.writeTime_keeps {a s : State} {r : RegName} {i : Nat} {w : RegWrite} (h1 : Keeps a s) : Keeps a (State.writeTime s r i w) := by
  unfold State.writeTime
  extract_lets +onlyGivenNames x100
  extract_lets +onlyGivenNames x101
  extract_lets +onlyGivenNames x102
  have h102 : ∀ { v0 v1 v2}, Keeps a (x102 v0 v1 v2) := by
    intro t103 t104 t105
    unfold x102
    exact Keeps.frame (s := s) h1 rfl rfl rfl rfl (Nat.le_refl _) (Nat.le_refl _) rfl rfl rfl
  clear_value x102
  extract_lets +onlyGivenNames x106
  split
  · extract_lets +onlyGivenNames x107
    split
    · exact afterCmd_keeps h1 (execTmRoot_keeps h1)
    · exact afterCmd_keeps h1 (execTmReset_keeps h1)
    · exact afterCmd_keeps h1 (execTmLoad_keeps h1)
    · exact State.tmCtrl_keeps h1
  · exact h102
  · exact h102
  · exact h102
  · exact afterCmd_keeps h1 (execTmRateWrite_keeps h1)
  · exact Keeps.ite (fun _ => afterCmd_keeps h1 (execTmDtIncHiWrite_keeps h1)) (fun _ => h1)
  · exact State.plainWrite_keeps h1

theorem State.writeAcq_keeps {a s : State} {r : RegName} {i : Nat} {w : RegWrite} (h1 : Keeps a s) : Keeps a (State.writeAcq s r i w) := by
  unfold State.writeAcq
  extract_lets +onlyGivenNames x100
  extract_lets +onlyGivenNames x101
  have h101 : ∀ { v0 v1}, Keeps a (x101 v0 v1) := by
    intro t102 t103
    unfold x101
    exact Keeps.ite (fun _ => State.clearW1c_keeps h1) (fun _ => Keeps.ite (fun _ => State.plainWrite_keeps h1) (fun _ => State.acqErr_keeps (State.clearW1c_keeps h1)))
  clear_value x101
  split
  · extract_lets +onlyGivenNames x104
    have h104 : Keeps a x104 := by
      unfold x104
      exact State.clearW1c_keeps h1
    clear_value x104
    extract_lets +onlyGivenNames x105
    split
    · exact afterCmd_keeps h104 (execAcqArm_keeps h104)
    · exact afterCmd_keeps h104 (execAcqStop_keeps h104)
    · exact afterCmd_keeps h104 (execAcqForce_keeps h104)
    · exact State.acqCtrl_keeps h104
  · exact h101
  · exact h101
  · extract_lets +onlyGivenNames x106
    extract_lets +onlyGivenNames x107
    exact h101
  · exact Keeps.ite (fun _ => afterCmd_keeps h1 (execDecForce_keeps h1)) (fun _ => h101)
  · exact h101
  · extract_lets +onlyGivenNames x108
    extract_lets +onlyGivenNames x109
    exact h101
  · extract_lets +onlyGivenNames x110
    exact h101
  · exact h101
  · exact h101
  · extract_lets +onlyGivenNames x111
    exact h101
  · exact h101
  · exact h101
  · extract_lets +onlyGivenNames x112
    extract_lets +onlyGivenNames x113
    refine Keeps.ite (fun _ => h1) (fun _ => ?_)
    refine Keeps.ite (fun _ => ?_) (fun _ => State.acqErr_keeps h1)
    extract_lets +onlyGivenNames x114
    have h114 : Keeps a x114 := by
      unfold x114
      exact State.wrs_keeps h1 (fun _ _ => legal.reg rfl)
    clear_value x114
    exact Keeps.ite (fun _ => State.wr_keeps h114 (legal.reg rfl)) (fun _ => h114)
  · exact Keeps.ite (fun _ => State.clearW1c_keeps h1) (fun _ => State.plainWrite_keeps h1)
  · exact State.plainWrite_keeps h1

theorem State.writeTrace_keeps {a s : State} {r : RegName} {i : Nat} {w : RegWrite} (h1 : Keeps a s) : Keeps a (State.writeTrace s r i w) := by
  unfold State.writeTrace
  extract_lets +onlyGivenNames x100
  extract_lets +onlyGivenNames x101
  have h101 : Keeps a x101 := by
    unfold x101
    exact Keeps.ite (fun _ => State.wr_keeps h1 (legal.reg rfl)) (fun _ => State.traceRoute_keeps (State.modTrace_keeps (State.wr_keeps (State.plainWrite_keeps h1) (legal.reg rfl))))
  clear_value x101
  split
  · extract_lets +onlyGivenNames x102
    have h102 : Keeps a x102 := by
      unfold x102
      exact State.storeRw_keeps h1
    clear_value x102
    extract_lets +onlyGivenNames x103
    have h103 : Keeps a x103 := by
      unfold x103
      exact Keeps.ite (fun _ => State.forEach_keeps h102 (@fun t104 t105 h106 => State.modTr_keeps h106)) (fun _ => h102)
    clear_value x103
    split
    · exact afterCmd_keeps h103 (execTrFlush_keeps h103)
    · exact afterCmd_keeps h103 (execTrRoute_keeps h103)
    · exact afterCmd_keeps h103 (execClearFb_keeps h103)
    · exact h103
  · exact h101
  · exact h101
  · split
    · exact afterCmd_keeps h1 (execTokenLoad_keeps h1)
    · exact afterCmd_keeps h1 (execTokenRevoke_keeps h1)
    · exact State.plainWrite_keeps h1
  · exact State.plainWrite_keeps h1

theorem State.writePower_keeps {a s : State} {r : RegName} {i : Nat} {w : RegWrite} {by' : Writer} (h1 : Keeps a s) : Keeps a (State.writePower s r i w by') := by
  unfold State.writePower
  extract_lets +onlyGivenNames x100
  split
  · extract_lets +onlyGivenNames x101
    split
    · exact afterCmd_keeps h1 (execPwReset_keeps h1)
    · exact afterCmd_keeps h1 (execFwProgram_keeps h1)
    · exact State.powerErr_keeps (State.pwFields_keeps h1)
    · exact State.pwFields_keeps h1
  · split
    · exact afterCmd_keeps h1 (execDomainOn_keeps h1)
    · exact afterCmd_keeps h1 (execDomainOff_keeps h1)
    · exact h1
  · extract_lets +onlyGivenNames x102
    have h102 : Keeps a x102 := by
      unfold x102
      exact State.clearW1c_keeps h1
    clear_value x102
    split
    · exact afterCmd_keeps h102 (execUseIn_keeps h102)
    · exact afterCmd_keeps h102 (execUseLocal_keeps h102)
    · exact State.storeRw_keeps h102
  · exact State.plainWrite_keeps h1

theorem State.writeHealth_keeps {a s : State} {r : RegName} {i : Nat} {w : RegWrite} (h1 : Keeps a s) : Keeps a (State.writeHealth s r i w) := by
  unfold State.writeHealth
  extract_lets +onlyGivenNames x100
  extract_lets +onlyGivenNames x101
  split
  · exact afterCmd_keeps h1 (execHsPitchMapWrite_keeps h1)
  · exact afterCmd_keeps h1 (execHsBpMapWrite_keeps h1)
  · exact afterCmd_keeps h1 (execHsColMapWrite_keeps h1)
  · split
    · exact afterCmd_keeps h1 (execBist_keeps h1)
    · exact afterCmd_keeps h1 (execFlushWear_keeps h1)
    · exact State.plainWrite_keeps h1
  · exact Keeps.ite (fun _ => afterCmd_keeps h1 (execScrubGo_keeps h1)) (fun _ => State.plainWrite_keeps h1)
  · exact State.plainWrite_keeps h1

theorem State.writeVec_keeps {a s : State} {z1 : Nat} {vec : Nat} {off : Nat} (h1 : Keeps a s) : Keeps a (State.writeVec s z1 vec off) := by
  unfold State.writeVec
  exact Keeps.ite (fun _ => State.idError_keeps h1) (fun _ => State.wr_keeps h1 (legal.reg rfl))

theorem State.writeReg_keeps {a s : State} {r : RegName} {i : Nat} {off : Nat} {w : RegWrite} {o : WriteObs} {by' : Writer} (h1 : Keeps a s) : Keeps a (State.writeReg s r i off w o by') := by
  unfold State.writeReg
  refine Keeps.ite (fun _ => State.writeLoader_keeps h1) (fun _ => ?_)
  split
  · exact State.writeRun_keeps h1
  · exact Keeps.ite (fun _ => afterCmd_keeps h1 (execMgmtAccessGo_keeps h1)) (fun _ => h1)
  · exact State.writeClock_keeps h1
  · exact State.writeClock_keeps h1
  · exact State.writeClock_keeps h1
  · exact State.writeClock_keeps h1
  · exact State.writeDram_keeps h1
  · exact State.writeDram_keeps h1
  · exact State.writeDram_keeps h1
  · exact State.writeDram_keeps h1
  · exact State.writeDram_keeps h1
  · exact State.writeKeys_keeps h1
  · exact State.writeKeys_keeps h1
  · exact State.writeKeys_keeps h1
  · exact State.writeCore_keeps h1
  · exact State.writeCore_keeps h1
  · exact State.writeCore_keeps h1
  · exact State.writeCore_keeps h1
  · exact State.writeChan_keeps h1
  · exact State.writeChan_keeps h1
  · exact State.writeChan_keeps h1
  · exact State.writeChan_keeps h1
  · exact State.writeChan_keeps h1
  · exact State.writeChan_keeps h1
  · exact State.writeChan_keeps h1
  · exact State.writeChan_keeps h1
  · exact State.writeChan_keeps h1
  · exact State.writeChan_keeps h1
  · exact State.writeTask_keeps h1
  · exact State.writeTask_keeps h1
  · exact State.writeTask_keeps h1
  · exact State.writeTask_keeps h1
  · exact State.writeTask_keeps h1
  · exact State.writeTask_keeps h1
  · exact State.writeTask_keeps h1
  · exact State.writeTask_keeps h1
  · exact State.writeTask_keeps h1
  · extract_lets +onlyGivenNames x100
    have h100 : Keeps a x100 := by
      unfold x100
      exact State.clearW1c_keeps h1
    clear_value x100
    exact Keeps.ite (fun _ => afterCmd_keeps h100 (execProbePop_keeps h100)) (fun _ => h100)
  · exact State.writeHn_keeps h1
  · exact State.writeHn_keeps h1
  · exact State.writeFab_keeps h1
  · exact State.writeFab_keeps h1
  · exact State.writeFab_keeps h1
  · exact State.writeTime_keeps h1
  · exact State.writeTime_keeps h1
  · exact State.writeTime_keeps h1
  · exact State.writeTime_keeps h1
  · exact State.writeTime_keeps h1
  · exact State.writeTime_keeps h1
  · exact State.writeAcq_keeps h1
  · exact State.writeAcq_keeps h1
  · exact State.writeAcq_keeps h1
  · exact State.writeAcq_keeps h1
  · exact State.writeAcq_keeps h1
  · exact State.writeAcq_keeps h1
  · exact State.writeAcq_keeps h1
  · exact State.writeAcq_keeps h1
  · exact State.writeAcq_keeps h1
  · exact State.writeAcq_keeps h1
  · exact State.writeAcq_keeps h1
  · exact State.writeAcq_keeps h1
  · exact State.writeAcq_keeps h1
  · exact State.writeAcq_keeps h1
  · exact State.writeAcq_keeps h1
  · exact State.writeTrace_keeps h1
  · exact State.writeTrace_keeps h1
  · exact State.writeTrace_keeps h1
  · exact State.writeTrace_keeps h1
  · exact State.writePower_keeps h1
  · exact State.writePower_keeps h1
  · exact State.writePower_keeps h1
  · exact State.writeHealth_keeps h1
  · exact State.writeHealth_keeps h1
  · exact State.writeHealth_keeps h1
  · exact State.writeHealth_keeps h1
  · exact State.writeHealth_keeps h1
  · exact Keeps.ite (fun _ => State.writeVec_keeps h1) (fun _ => h1)
  · exact State.plainWrite_keeps h1

theorem State.bar0Write_keeps {a s : State} {off : Nat} {part : Nat} {v : Nat} {o : WriteObs} {by' : Writer} (h1 : Keeps a s) : Keeps a (State.bar0Write s off part v o by') := by
  unfold State.bar0Write
  split
  · exact h1
  · exact State.idError_keeps h1
  · split
    · exact h1
    · exact State.writeReg_keeps (State.unhold_keeps h1)

theorem State.setMsixMask_keeps {a s : State} {v : Nat} {masked : Bool} (h1 : Keeps a s) : Keeps a (State.setMsixMask s v masked) := by
  unfold State.setMsixMask
  extract_lets +onlyGivenNames x100
  extract_lets +onlyGivenNames x101
  have h101 : Keeps a x101 := by
    unfold x101
    exact Keeps.frame (s := s) h1 rfl rfl rfl rfl (Nat.le_refl _) (Nat.le_refl _) rfl rfl rfl
  clear_value x101
  refine Keeps.ite (fun _ => ?_) (fun _ => h101)
  refine State.sendMsix_keeps ?_
  exact Keeps.frame (s := x101) h101 rfl rfl rfl rfl (Nat.le_refl _) (Nat.le_refl _) rfl rfl rfl

theorem State.writeMsixWord_keeps {a s : State} {n : Nat} {x : Nat} (h1 : Keeps a s) : Keeps a (State.writeMsixWord s n x) := by
  unfold State.writeMsixWord
  refine Keeps.ite (fun _ => State.setMsixMask_keeps h1) (fun _ => ?_)
  exact Keeps.frame (s := s) h1 rfl rfl rfl rfl (Nat.le_refl _) (Nat.le_refl _) rfl rfl rfl

theorem State.writeBar4_keeps {a s : State} {off : Nat} {x : Nat} {o : WriteObs} (h1 : Keeps a s) : Keeps a (State.writeBar4 s off x o) := by
  unfold State.writeBar4
  exact Keeps.ite (fun _ => Keeps.ite (fun _ => afterCmd_keeps h1 (execChannelDoorbell_keeps h1)) (fun _ => h1)) (fun _ => Keeps.ite (fun _ => afterCmd_keeps h1 (execFenceDoorbell_keeps h1)) (fun _ => Keeps.ite (fun _ => State.writeMsixWord_keeps h1) (fun _ => h1)))

theorem State.writeMsixControl_keeps {a s : State} {x : Nat} (h1 : Keeps a s) : Keeps a (State.writeMsixControl s x) := by
  unfold State.writeMsixControl
  extract_lets +onlyGivenNames x100
  extract_lets +onlyGivenNames x101
  have h101 : Keeps a x101 := by
    unfold x101
    exact Keeps.frame (s := s) h1 rfl rfl rfl rfl (Nat.le_refl _) (Nat.le_refl _) rfl rfl rfl
  clear_value x101
  exact State.forEach_keeps h101 (@fun t102 t103 h104 => State.setMsixMask_keeps h104)

theorem execRegisterWrite_keeps {a : State} {place : RegSpace} {wide : Bool} {value : Nat} {obs : WriteObs} {s : State} (h5 : Keeps a s) : KeepsO a (execRegisterWrite place wide value obs s) := by
  unfold execRegisterWrite
  split
  · exact KeepsO.next (Keeps.ite (fun _ => State.bar0Write_keeps h5) (fun _ => State.badAccess_keeps h5))
  · refine KeepsO.ite (fun _ => ?_) (fun _ => KeepsO.next (State.badAccess_keeps h5))
    extract_lets +onlyGivenNames x100
    have h100 : Keeps a x100 := by
      unfold x100
      exact State.writeBar4_keeps h5
    clear_value x100
    exact KeepsO.next (Keeps.ite (fun _ => State.writeBar4_keeps h100) (fun _ => h100))
  · exact KeepsO.next (State.writeMsixControl_keeps h5)

theorem execHiChVecWrite_keeps {a : State} {chan : Nat} {vec : Nat} {s : State} (h3 : Keeps a s) : KeepsO a (execHiChVecWrite chan vec s) := by
  unfold execHiChVecWrite
  exact State.asWrite_keeps h3 (@fun t100 h101 => KeepsO.next (State.writeVec_keeps h101))

theorem execMsixUnmask_keeps {a : State} {vector : Nat} {s : State} (h2 : Keeps a s) : KeepsO a (execMsixUnmask vector s) := by
  unfold execMsixUnmask
  exact KeepsO.next (State.setMsixMask_keeps h2)

theorem execPcieReset_keeps {a s : State} (h1 : Keeps a s) : KeepsO a (execPcieReset s) := by
  unfold execPcieReset
  exact KeepsO.next (State.resetHostIf_keeps h1)

theorem State.sendMem_keeps {a s : State} {k : Nat} {m : MemOp} (h1 : Keeps a s) : Keeps a (State.sendMem s k m) := by
  unfold State.sendMem
  exact State.modCore_keeps h1

theorem State.storeHit_keeps {a s : State} (h : Keeps a s) {k l : Nat} {bs : List Byte} : Keeps a (s.storeHit k l bs) :=
  Keeps.deepBytes (State.modCore_keeps h) rfl rfl rfl rfl (Nat.le_refl _) (Nat.le_refl _) rfl (fun w => Deep.putBytes_wf w) rfl

theorem State.loadMem_keeps {a s : State} {k : Nat} {n : Nat} {f : FmtK} (h1 : Keeps a s) : Keeps a (State.loadMem s k n f) := by
  unfold State.loadMem
  refine State.issue_keeps h1 ?_
  intro t100 t101 h102
  extract_lets +onlyGivenNames x103
  extract_lets +onlyGivenNames x104
  split
  · exact KeepsI.trap
  · refine KeepsI.ite (fun _ => KeepsI.wait) (fun _ => ?_)
    extract_lets +onlyGivenNames x105
    have h105 : Keeps a x105 := by
      unfold x105
      exact State.traceData_keeps h102
    clear_value x105
    exact KeepsI.ite (fun _ => KeepsI.go (State.setReg_keeps h105)) (fun _ => KeepsI.go (State.sendMem_keeps h105))

theorem State.storeMem_keeps {a s : State} {k : Nat} {n : Nat} {f : FmtK} (h1 : Keeps a s) : Keeps a (State.storeMem s k n f) := by
  unfold State.storeMem
  refine State.issue_keeps h1 ?_
  intro t100 t101 h102
  extract_lets +onlyGivenNames x103
  extract_lets +onlyGivenNames x104
  extract_lets +onlyGivenNames x105
  split
  · exact KeepsI.trap
  · refine KeepsI.ite (fun _ => KeepsI.wait) (fun _ => ?_)
    extract_lets +onlyGivenNames x106
    have h106 : Keeps a x106 := by
      unfold x106
      exact State.traceData_keeps h102
    clear_value x106
    exact KeepsI.ite (fun _ => KeepsI.go (State.storeHit_keeps h106)) (fun _ => KeepsI.go (State.sendMem_keeps h106))

theorem State.localRead_keeps {a s : State} {z1 : Nat} (h1 : Keeps a s) : Keeps2 a (State.localRead s z1) := by
  unfold State.localRead
  split
  · exact State.readReg_keeps h1
  · exact Keeps2.mk h1

theorem State.localWrite_keeps {a s : State} {z1 : Nat} {v : Word} {o : WriteObs} (h1 : Keeps a s) : Keeps a (State.localWrite s z1 v o) := by
  unfold State.localWrite
  split
  · exact State.writeReg_keeps (State.unhold_keeps h1)
  · exact h1

theorem execLd8_keeps {a : State} {core : Nat} {f : FmtK} {s : State} (h3 : Keeps a s) : KeepsO a (execLd8 core f s) := by
  unfold execLd8
  exact KeepsO.next (State.loadMem_keeps h3)

theorem execLd16_keeps {a : State} {core : Nat} {f : FmtK} {s : State} (h3 : Keeps a s) : KeepsO a (execLd16 core f s) := by
  unfold execLd16
  exact KeepsO.next (State.loadMem_keeps h3)

theorem execLd32_keeps {a : State} {core : Nat} {f : FmtK} {s : State} (h3 : Keeps a s) : KeepsO a (execLd32 core f s) := by
  unfold execLd32
  exact KeepsO.next (State.loadMem_keeps h3)

theorem execLds_keeps {a : State} {core : Nat} {f : FmtK} {s : State} (h3 : Keeps a s) : KeepsO a (execLds core f s) := by
  unfold execLds
  split
  · refine KeepsO.ite (fun _ => ?_) (fun _ => KeepsO.next (State.loadMem_keeps h3))
    refine KeepsO.next ?_
    refine State.issue_keeps h3 ?_
    intro t100 t101 h102
    extract_lets +onlyGivenNames x103
    refine KeepsI.ite (fun _ => KeepsI.trap) (fun _ => ?_)
    extract_lets +onlyGivenNames x104
    have h104 : Keeps2 a x104 := by
      unfold x104
      exact State.localRead_keeps (State.traceData_keeps h102)
    clear_value x104
    exact KeepsI.go (State.setReg_keeps (Keeps2.snd h104))
  · exact KeepsO.next h3

theorem execSt8_keeps {a : State} {core : Nat} {f : FmtK} {s : State} (h3 : Keeps a s) : KeepsO a (execSt8 core f s) := by
  unfold execSt8
  exact KeepsO.next (State.storeMem_keeps h3)

theorem execSt16_keeps {a : State} {core : Nat} {f : FmtK} {s : State} (h3 : Keeps a s) : KeepsO a (execSt16 core f s) := by
  unfold execSt16
  exact KeepsO.next (State.storeMem_keeps h3)

theorem execSt32_keeps {a : State} {core : Nat} {f : FmtK} {s : State} (h3 : Keeps a s) : KeepsO a (execSt32 core f s) := by
  unfold execSt32
  exact KeepsO.next (State.storeMem_keeps h3)

theorem execSts_keeps {a : State} {core : Nat} {f : FmtK} {obs : WriteObs} {s : State} (h4 : Keeps a s) : KeepsO a (execSts core f obs s) := by
  unfold execSts
  split
  · refine KeepsO.ite (fun _ => ?_) (fun _ => KeepsO.next (State.storeMem_keeps h4))
    refine KeepsO.next ?_
    refine State.issue_keeps h4 ?_
    intro t100 t101 h102
    extract_lets +onlyGivenNames x103
    extract_lets +onlyGivenNames x104
    exact KeepsI.ite (fun _ => KeepsI.trap) (fun _ => KeepsI.go (State.localWrite_keeps (State.traceData_keeps h102)))
  · exact KeepsO.next h4

theorem State.atomic_keeps {a s : State} {k : Nat} {kind : Nat} {f : FmtT} (h1 : Keeps a s) : Keeps a (State.atomic s k kind f) := by
  unfold State.atomic
  refine State.issue_keeps h1 ?_
  intro t100 t101 h102
  extract_lets +onlyGivenNames x103
  extract_lets +onlyGivenNames x104
  split
  · exact KeepsI.trap
  · exact KeepsI.ite (fun _ => KeepsI.wait) (fun _ => KeepsI.go (State.sendMem_keeps h102))

theorem execAswap_keeps {a : State} {core : Nat} {f : FmtT} {s : State} (h3 : Keeps a s) : KeepsO a (execAswap core f s) := by
  unfold execAswap
  exact KeepsO.next (State.atomic_keeps h3)

theorem execAadd_keeps {a : State} {core : Nat} {f : FmtT} {s : State} (h3 : Keeps a s) : KeepsO a (execAadd core f s) := by
  unfold execAadd
  exact KeepsO.next (State.atomic_keeps h3)

theorem State.fillLine_keeps {a s : State} {k : Nat} {z2 : Nat} {key : Nat} {victim : Nat} (h1 : Keeps a s) : Keeps a (State.fillLine s k z2 key victim) := by
  unfold State.fillLine
  extract_lets +onlyGivenNames x100
  extract_lets +onlyGivenNames x101
  extract_lets +onlyGivenNames x102
  have h102 : ∀ { v0 v1}, Keeps a v1 → Keeps a (x102 v0 v1) := by
    intro t103 t104 h105
    unfold x102
    exact State.modCore_keeps h105
  clear_value x102
  split
  · exact h102 (State.writeBack_keeps h1)
  · refine Keeps.ite (fun _ => h102 h1) (fun _ => ?_)
    split
    · exact h102 (State.writeBack_keeps h1)
    · exact h102 h1

theorem State.serveMem_keeps {a s : State} {k : Nat} {m : MemOp} {o : DeepObs} (h1 : Keeps a s) : Keeps2 a (State.serveMem s k m o) := by
  unfold State.serveMem
  extract_lets +onlyGivenNames x100
  have h100 : ∀ { v0 v1}, Keeps a v0 → Keeps2 a (x100 v0 v1) := by
    intro t101 t102 h103
    unfold x100
    exact State.serve_keeps h103
  clear_value x100
  split
  · exact h100 h1
  · exact h100 h1
  · extract_lets +onlyGivenNames x104
    have h104 : Keeps2 a x104 := by
      unfold x104
      exact h100 h1
    clear_value x104
    split
    · exact h104
    · extract_lets +onlyGivenNames x105
      extract_lets +onlyGivenNames x106
      have h106 : Keeps2 a x106 := by
        unfold x106
        exact h100 (Keeps2.snd h104)
      clear_value x106
      exact Keeps2.mk (Keeps2.snd h106)

theorem State.trapIfDue_keeps {a s : State} {k : Nat} (h1 : Keeps a s) : Keeps a (State.trapIfDue s k) := by
  unfold State.trapIfDue
  split
  · exact Keeps.ite (fun _ => State.takeTrap_keeps h1) (fun _ => h1)
  · exact h1

theorem execCcMemoryResponse_keeps {a : State} {core : Nat} {n : Nat} {victim : Nat} {obs : DeepObs} {s : State} (h5 : Keeps a s) : KeepsO a (execCcMemoryResponse core n victim obs s) := by
  unfold execCcMemoryResponse
  split
  · exact KeepsO.next h5
  · refine KeepsO.ite (fun _ => KeepsO.next h5) (fun _ => ?_)
    extract_lets +onlyGivenNames x100
    have h100 : Keeps2 a x100 := by
      unfold x100
      exact State.serveMem_keeps h5
    clear_value x100
    extract_lets +onlyGivenNames x101
    have h101 : Keeps a x101 := by
      unfold x101
      exact State.modCore_keeps (Keeps2.snd h100)
    clear_value x101
    split
    · exact KeepsO.next (State.trapIfDue_keeps (State.modCore_keeps h101))
    · extract_lets +onlyGivenNames x102
      extract_lets +onlyGivenNames x103
      have h103 : Keeps a x103 := by
        unfold x103
        exact Keeps.ite (fun _ => h101) (fun _ => State.setReg_keeps h101)
      clear_value x103
      extract_lets +onlyGivenNames x104
      have h104 : Keeps a x104 := by
        unfold x104
        split
        · exact State.fillLine_keeps h103
        · exact h103
        · exact State.traceData_keeps h103
        · exact State.traceData_keeps h103
      clear_value x104
      exact KeepsO.next (State.trapIfDue_keeps h104)

theorem State.bar2_keeps {a s : State} {off : Nat} {len : Nat} {data : Option (List Byte)} {obs : DeepObs} (h1 : Keeps a s) : Keeps a (State.bar2 s off len data obs) := by
  unfold State.bar2
  extract_lets +onlyGivenNames x100
  extract_lets +onlyGivenNames x101
  have h101 : ∀ { v0 v1}, Keeps a v0 → Keeps a (x101 v0 v1) := by
    intro t102 t103 h104
    unfold x101
    exact Keeps.ite (fun _ => h104) (fun _ => State.emit_keeps h104)
  clear_value x101
  refine Keeps.ite (fun _ => h101 (State.idError_keeps h1)) (fun _ => ?_)
  refine Keeps.ite (fun _ => h101 (State.idError_keeps h1)) (fun _ => ?_)
  extract_lets +onlyGivenNames x105
  have h105 : Keeps2 a x105 := by
    unfold x105
    exact State.submit_keeps h1
  clear_value x105
  split
  · exact Keeps2.snd h105
  · split
    · exact h101 (State.idError_keeps (Keeps2.snd h105))
    · exact h101 (Keeps2.snd h105)

theorem execBar2Read_keeps {a : State} {off : Nat} {len : Nat} {obs : DeepObs} {s : State} (h4 : Keeps a s) : KeepsO a (execBar2Read off len obs s) := by
  unfold execBar2Read
  exact KeepsO.next (State.bar2_keeps h4)

theorem execBar2Write_keeps {a : State} {off : Nat} {bytes : List Byte} {obs : DeepObs} {s : State} (h4 : Keeps a s) : KeepsO a (execBar2Write off bytes obs s) := by
  unfold execBar2Write
  exact KeepsO.next (State.bar2_keeps h4)

theorem State.loadIr_keeps {a s : State} {code : Nat} (h1 : Keeps a s) : Keeps a (State.loadIr s code) := by
  unfold State.loadIr
  extract_lets +onlyGivenNames x100
  have h100 : Keeps a x100 := by
    unfold x100
    exact State.emit_keeps h1
  clear_value x100
  exact Keeps.frame (s := x100) h100 rfl rfl rfl rfl (Nat.le_refl _) (Nat.le_refl _) rfl rfl rfl

theorem State.loadPinIr_keeps {a s : State} {code : Nat} (h1 : Keeps a s) : Keeps a (State.loadPinIr s code) := by
  unfold State.loadPinIr
  refine Keeps.ite (fun _ => State.loadIr_keeps h1) (fun _ => ?_)
  extract_lets +onlyGivenNames x100
  have h100 : Keeps a x100 := by
    unfold x100
    exact State.loadIr_keeps h1
  clear_value x100
  exact Keeps.frame (s := x100) h100 rfl rfl rfl rfl (Nat.le_refl _) (Nat.le_refl _) rfl rfl rfl

theorem execTestLogicReset_keeps {a s : State} (h1 : Keeps a s) : KeepsO a (execTestLogicReset s) := by
  unfold execTestLogicReset
  refine KeepsO.next ?_
  exact Keeps.frame (s := s) h1 rfl rfl rfl rfl (Nat.le_refl _) (Nat.le_refl _) rfl rfl rfl

theorem execExtest_keeps {a : State} {shift : List Bool} {s : State} (h2 : Keeps a s) : KeepsO a (execExtest shift s) := by
  unfold execExtest
  extract_lets +onlyGivenNames x100
  have h100 : Keeps a x100 := by
    unfold x100
    exact State.loadPinIr_keeps h2
  clear_value x100
  refine KeepsO.next ?_
  refine Keeps.ite (fun _ => h100) (fun _ => ?_)
  exact Keeps.frame (s := x100) h100 rfl rfl rfl rfl (Nat.le_refl _) (Nat.le_refl _) rfl rfl rfl

theorem execSamplePreload_keeps {a : State} {pins : List Bool} {shift : List Bool} {s : State} (h3 : Keeps a s) : KeepsO a (execSamplePreload pins shift s) := by
  unfold execSamplePreload
  extract_lets +onlyGivenNames x100
  have h100 : Keeps a x100 := by
    unfold x100
    exact State.emit_keeps (State.loadIr_keeps h3)
  clear_value x100
  refine KeepsO.next ?_
  exact Keeps.frame (s := x100) h100 rfl rfl rfl rfl (Nat.le_refl _) (Nat.le_refl _) rfl rfl rfl

theorem execIdcode_keeps {a s : State} (h1 : Keeps a s) : KeepsO a (execIdcode s) := by
  unfold execIdcode
  exact KeepsO.next (State.emit_keeps (State.loadIr_keeps h1))

theorem execClamp_keeps {a s : State} (h1 : Keeps a s) : KeepsO a (execClamp s) := by
  unfold execClamp
  exact KeepsO.next (State.loadPinIr_keeps h1)

theorem execHighz_keeps {a s : State} (h1 : Keeps a s) : KeepsO a (execHighz s) := by
  unfold execHighz
  exact KeepsO.next (State.loadPinIr_keeps h1)

theorem execBypass_keeps {a s : State} (h1 : Keeps a s) : KeepsO a (execBypass s) := by
  unfold execBypass
  exact KeepsO.next (State.loadIr_keeps h1)

theorem execModuleReset_keeps {a s : State} (h1 : Keeps a s) : KeepsO a (execModuleReset s) := by
  unfold execModuleReset
  exact KeepsO.next (State.moduleReset_keeps (State.loadIr_keeps h1))

theorem State.setResult_keeps {a s : State} {data : Nat} {err : Bool} (h1 : Keeps a s) : Keeps a (State.setResult s data err) := by
  unfold State.setResult
  exact Keeps.frame (s := s) h1 rfl rfl rfl rfl (Nat.le_refl _) (Nat.le_refl _) rfl rfl rfl

theorem execRegAccess_keeps {a : State} {dr : Nat} {obs : WriteObs} {s : State} (h3 : Keeps a s) : KeepsO a (execRegAccess dr obs s) := by
  unfold execRegAccess
  extract_lets +onlyGivenNames x100
  have h100 : Keeps a x100 := by
    unfold x100
    exact State.emit_keeps (State.loadIr_keeps h3)
  clear_value x100
  extract_lets +onlyGivenNames x101
  refine KeepsO.ite (fun _ => KeepsO.next (State.setResult_keeps h100)) (fun _ => ?_)
  refine KeepsO.ite (fun _ => KeepsO.next (State.bar0Write_keeps (State.setResult_keeps h100))) (fun _ => ?_)
  extract_lets +onlyGivenNames x102
  have h102 : Keeps2 a x102 := by
    unfold x102
    exact State.bar0Read_keeps h100
  clear_value x102
  exact KeepsO.next (State.setResult_keeps (Keeps2.snd h102))

theorem execLoadStream_keeps {a : State} {dr : Nat} {s : State} (h2 : Keeps a s) : KeepsO a (execLoadStream dr s) := by
  unfold execLoadStream
  extract_lets +onlyGivenNames x100
  extract_lets +onlyGivenNames x101
  extract_lets +onlyGivenNames x102
  have h102 : Keeps a x102 := by
    unfold x102
    exact State.emit_keeps (State.loadIr_keeps h2)
  clear_value x102
  extract_lets +onlyGivenNames x103
  exact KeepsO.ite (fun _ => KeepsO.next (State.modLoad_keeps h102)) (fun _ => KeepsO.next h102)

theorem State.smb_keeps {a s : State} {o : Out} (h1 : Keeps a s) : KeepsO a (State.smb s o) := by
  unfold State.smb
  exact KeepsO.next (State.emit_keeps h1)

theorem execSmbPhase_keeps {a s : State} (h1 : Keeps a s) : KeepsO a (execSmbPhase s) := by
  unfold execSmbPhase
  exact State.smb_keeps h1

theorem execSmbVin_keeps {a s : State} (h1 : Keeps a s) : KeepsO a (execSmbVin s) := by
  unfold execSmbVin
  exact State.smb_keeps h1

theorem execSmbIin_keeps {a s : State} (h1 : Keeps a s) : KeepsO a (execSmbIin s) := by
  unfold execSmbIin
  exact State.smb_keeps h1

theorem execSmbPin_keeps {a s : State} (h1 : Keeps a s) : KeepsO a (execSmbPin s) := by
  unfold execSmbPin
  exact State.smb_keeps h1

theorem execSmbTemp_keeps {a s : State} (h1 : Keeps a s) : KeepsO a (execSmbTemp s) := by
  unfold execSmbTemp
  exact State.smb_keeps h1

theorem execSmbIdent_keeps {a s : State} (h1 : Keeps a s) : KeepsO a (execSmbIdent s) := by
  unfold execSmbIdent
  exact State.smb_keeps h1

theorem execSmbAlarm_keeps {a s : State} (h1 : Keeps a s) : KeepsO a (execSmbAlarm s) := by
  unfold execSmbAlarm
  exact State.smb_keeps h1

theorem execSmbDomains_keeps {a s : State} (h1 : Keeps a s) : KeepsO a (execSmbDomains s) := by
  unfold execSmbDomains
  exact State.smb_keeps h1

theorem execSmbReset_keeps {a : State} {value : Nat} {s : State} (h2 : Keeps a s) : KeepsO a (execSmbReset value s) := by
  unfold execSmbReset
  exact KeepsO.next (Keeps.ite (fun _ => State.moduleReset_keeps h2) (fun _ => h2))

theorem execHostif_keeps {a : State} {value : Nat} {s : State} (h2 : Keeps a s) : KeepsO a (execHostif value s) := by
  unfold execHostif
  exact KeepsO.next (Keeps.ite (fun _ => h2) (fun _ => Keeps.ite (fun _ => State.domOn_keeps h2) (fun _ => Keeps.ite (fun _ => State.domOff_keeps h2) (fun _ => h2))))

end Sys2Proof.Machine
end

