-- ==== Sys2Proof/WellFormed.lean ====
section
/-! DEFINITION. When a command's operands are ones the spec can name: every index within what is fitted on a QSR-M8, every field within its width. `exec` is total and does not ask for it. -/

namespace Sys2Proof

/-- A number fits a field of `w` bits. -/
def fits (w x : Nat) : Bool := decide (x < 2 ^ w)

/-- A physical cluster: E-die 0 to 7, cluster slot 0 to 71 (R6). -/
def ClusterSite.wf (x : ClusterSite) : Bool := decide (x.die < 8) && decide (x.slot < 72)

/-- A BP: logical index 0 to 63 within its cluster (R6). -/
def BpSite.wf (x : BpSite) : Bool := decide (x.die < 8) && decide (x.slot < 72) && decide (x.bp < 64)

/-- The fields of a BP instruction within their widths (R62). -/
def BpFields.wf (x : BpFields) : Bool :=
  fits 2 x.dest && fits 4 x.pred && fits 4 x.res && fits 12 x.a && fits 12 x.b && fits 12 x.c && fits 12 x.d

/-- The fields of a word-unit instruction within their widths (R109). -/
def WuFields.wf (x : WuFields) : Bool := fits 4 x.pred && fits 4 x.dst && fits 4 x.sa && fits 4 x.sb

/-- STEP_COUNT within its width (R51). -/
def RunFields.wf (x : RunFields) : Bool := fits 24 x.steps

/-- A FIFO identity of a class that is not reserved (R211). -/
def FifoId.wf (x : FifoId) : Bool := decide (x.cls < 10) && fits 4 x.unit && fits 8 x.inst

/-- A position: schedule step 0 to 4,095 or boundary step B0 to B15 (R212). -/
def Pos.wf : Pos → Bool
  | .step n => decide (n < 4096)
  | .bnd b => decide (b < 16)

/-- A STALL's cause within its code (R225), its island (R226) and module address. -/
def Stall.wf (x : Stall) : Bool :=
  fits 4 x.cause && fits 8 x.island && fits 8 x.module && (match x.pos with | some p => p.2.wf | none => true)

/-- A BOUNDARY's ORIGIN and STEPS within their widths (R541). -/
def BoundaryMsg.wf (x : BoundaryMsg) : Bool := fits 8 x.module && fits 13 x.steps

/-- A T-format instruction's fields within their widths (R412). -/
def FmtT.wf (x : FmtT) : Bool := fits 5 x.rd && fits 5 x.ra && fits 5 x.rb && fits 3 x.cond && fits 16 x.zero

/-- A K-format instruction's fields within their widths (R412). -/
def FmtK.wf (x : FmtK) : Bool := fits 5 x.rd && fits 5 x.ra

/-- A P-format instruction's fields within their widths (R412). -/
def FmtP.wf (x : FmtP) : Bool := fits 5 x.ra && fits 5 x.rb

/-- A Q-format instruction's fields within their widths (R412). -/
def FmtQ.wf (x : FmtQ) : Bool := fits 5 x.rd && fits 5 x.ra && fits 8 x.zero && fits 12 x.cw

/-- A write of an MP_RANGE register within its fields (R399). -/
def RangeWrite.wf : RangeWrite → Bool
  | .base p k _ => fits 26 p && fits 8 k
  | .size n => fits 26 n

/-- A write of a domain descriptor within its fields (R430). -/
def DomWrite.wf : DomWrite → Bool
  | .cfg pl key slice _ => fits 2 pl && fits 8 key && fits 16 slice
  | .base w p _ _ _ => decide (w < 4) && fits 26 p
  | .size w n => decide (w < 4) && fits 26 n

/-- The written fields of ACQ_CTRL within their widths (R614). -/
def AcqFields.wf (x : AcqFields) : Bool := fits 4 x.bufs && fits 4 x.pre

/-- The written fields of HN_CTRL within their widths (R528). -/
def HnFields.wf (x : HnFields) : Bool := fits 2 x.rateMax && fits 3 x.preset && fits 8 x.idleAfter

/-- The written fields of PW_CTRL within their widths (R661). -/
def PwFields.wf (x : PwFields) : Bool := fits 14 x.capW && fits 10 x.hystW && fits 7 x.tempLim

/-- A packet's header within its widths (R532). -/
def Packet.wf (x : Packet) : Bool :=
  (decide (x.dst < 128) || x.dst == 255) && fits 8 x.src && fits 4 x.kind && fits 8 x.ttl && fits 16 x.frag

/-- A flit's header within its widths (R513). -/
def Flit.wf (x : Flit) : Bool := fits 4 x.type && fits 12 x.seq && fits 12 x.ack && fits 64 x.ctrl

/-- A DATA payload: header within its widths, one value and one valid bit for each of 1 to 511 slots (R514). -/
def DataPay.wf (x : DataPay) : Bool :=
  fits 16 x.tag && fits 12 x.step && fits 4 x.cyc && fits 8 x.base && decide (0 < x.bits.length) && fits 9 x.bits.length

/-- A deep-memory request: a key ID of eight bits, a deep physical address of 38 (R334). -/
def DeepReq.wf (x : DeepReq) : Bool := decide (x.src < 87) && fits 8 x.key && fits 38 x.addr

/-- A NoC packet: one of the four networks (R479), an eight-bit key ID and a 38-bit address. -/
def NocPkt.wf (x : NocPkt) : Bool := fits 2 x.net && fits 8 x.key && fits 38 x.addr

/-- A placement entry within its fields (R325). -/
def PlaceEntry.wf (x : PlaceEntry) : Bool :=
  fits 8 x.addr && fits 6 x.camp && fits 64 x.pitches && fits 26 x.base && fits 26 x.size

/-- The operands of a command lie in the ranges the spec gives them. -/
def Instr.wf : Instr → Bool
  | .scheduleStep camp die _ => decide (camp < 64) && decide (die < 8)
  | .bpNop loc f => loc.wf && f.wf
  | .lut4 loc f => loc.wf && f.wf
  | .lut4e loc f => loc.wf && f.wf
  | .route loc f => loc.wf && f.wf
  | .hold loc f => loc.wf && f.wf
  | .ckpt loc f => loc.wf && f.wf
  | .drainStart loc => loc.wf
  | .drainEnd loc => loc.wf
  | .wuNop loc f => loc.wf && f.wf
  | .wuAdd loc f => loc.wf && f.wf
  | .wuSub loc f => loc.wf && f.wf
  | .wuCarry loc f => loc.wf && f.wf
  | .wuBorrow loc f => loc.wf && f.wf
  | .wuAnd loc f => loc.wf && f.wf
  | .wuOr loc f => loc.wf && f.wf
  | .wuXor loc f => loc.wf && f.wf
  | .wuAndn loc f => loc.wf && f.wf
  | .wuShl loc f => loc.wf && f.wf
  | .wuShr loc f => loc.wf && f.wf
  | .wuSar loc f => loc.wf && f.wf
  | .wuRol loc f => loc.wf && f.wf
  | .wuRor loc f => loc.wf && f.wf
  | .wuCmpeq loc f => loc.wf && f.wf
  | .wuCmpltu loc f => loc.wf && f.wf
  | .wuCmplts loc f => loc.wf && f.wf
  | .wuSel loc f => loc.wf && f.wf
  | .wuBsel loc f => loc.wf && f.wf
  | .wuExt loc f => loc.wf && f.wf
  | .wuDep loc f => loc.wf && f.wf
  | .wuMullo loc f => loc.wf && f.wf
  | .wuMulhiu loc f => loc.wf && f.wf
  | .wuMulhis loc f => loc.wf && f.wf
  | .mulResultWrite loc => loc.wf
  | .wuLdm loc f => loc.wf && f.wf
  | .wuStm loc f => loc.wf && f.wf
  | .wuPack loc f => loc.wf && f.wf
  | .wuUnpack loc f => loc.wf && f.wf
  | .wuXec loc f => loc.wf && f.wf
  | .wuShift loc f => loc.wf && f.wf
  | .shadowCommit camp => decide (camp < 64)
  | .faultFlagsClose camp => decide (camp < 64)
  | .acquisitionSample camp => decide (camp < 64)
  | .recordExchange camp => decide (camp < 64)
  | .snapshotPoint camp => decide (camp < 64)
  | .cycleEnd camp => decide (camp < 64)
  | .start camp f => decide (camp < 64) && f.wf
  | .pause camp f => decide (camp < 64) && f.wf
  | .resume camp f => decide (camp < 64) && f.wf
  | .step camp f => decide (camp < 64) && f.wf
  | .halt camp f => decide (camp < 64) && f.wf
  | .unload camp f => decide (camp < 64) && f.wf
  | .unloadDone camp => decide (camp < 64)
  | .rampStart camp _ => decide (camp < 64)
  | .rampStep camp => decide (camp < 64)
  | .firstDesignCycleStart camp => decide (camp < 64)
  | .heldStartRelease camp => decide (camp < 64)
  | .restoreDone camp => decide (camp < 64)
  | .restoreBusError camp _ _ => decide (camp < 64)
  | .bankGrant loc bank => loc.wf && decide (bank < 8)
  | .mgmtAccessGo die => decide (die < 8)
  | .mgmtAccessDone die => decide (die < 8)
  | .wakeClearEnd pitch => decide (pitch < 64)
  | .crossingItemArrive camp dst _ _ => decide (camp < 64) && fits 13 dst
  | .fifoWrite id _ _ => id.wf
  | .fifoRead id _ => id.wf
  | .fifoPtrMismatch id _ => id.wf
  | .fifoReprime id _ => id.wf
  | .stall camp st port => decide (camp < 64) && st.wf && (match port with | some p => decide (p < 6) | none => true)
  | .release camp _ _ port _ => decide (camp < 64) && (match port with | some p => decide (p < 6) | none => true)
  | .boundary camp msg port _ => decide (camp < 64) && msg.wf && (match port with | some p => decide (p < 6) | none => true)
  | .guylineHalt camp _ _ port => decide (camp < 64) && (match port with | some p => decide (p < 6) | none => true)
  | .relockDone camp _ => decide (camp < 64)
  | .dcTagWrite camp k _ _ _ => decide (camp < 64) && decide (k < 16)
  | .dcAccWrite camp k _ => decide (camp < 64) && decide (k < 16)
  | .snapArm camp _ _ _ => decide (camp < 64)
  | .snapAbort camp _ _ => decide (camp < 64)
  | .snapshotDone camp => decide (camp < 64)
  | .snapshotBusError camp _ => decide (camp < 64)
  | .dcSnapSelWrite camp _ => decide (camp < 64)
  | .snapSelCheckDone camp _ => decide (camp < 64)
  | .load _ _ _ => true
  | .ldAbort => true
  | .ldDmaPush _ => true
  | .loadSegment _ => true
  | .placementEntryArrive _ _ ps => ps.all PlaceEntry.wf && decide (ps.length ≤ 128)
  | .loadAck _ _ => true
  | .commit => true
  | .abort => true
  | .loadTimeout _ => true
  | .loadClearDone => true
  | .dmInit chan _ => decide (chan < 8)
  | .dmInitDone chan _ => decide (chan < 8)
  | .dmActivate chan _ => decide (chan < 8)
  | .dmQuiesce chan _ => decide (chan < 8)
  | .quiesceDone chan => decide (chan < 8)
  | .dmPpr chan _ => decide (chan < 8)
  | .pprDone chan _ => decide (chan < 8)
  | .mrw chan sub' mr data => decide (chan < 8) && decide (sub' < 2) && fits 8 mr && fits 8 data
  | .mrr chan sub' mr data => decide (chan < 8) && decide (sub' < 2) && fits 8 mr && fits 8 data
  | .mpc chan sub' mr data => decide (chan < 8) && decide (sub' < 2) && fits 8 mr && fits 8 data
  | .trainOpDone chan _ => decide (chan < 8)
  | .dmMapWrite chan k _ => decide (chan < 8) && decide (k < 9)
  | .refreshDue chan sub' _ => decide (chan < 8) && decide (sub' < 2)
  | .postponedRefreshIssue chan sub' _ => decide (chan < 8) && decide (sub' < 2)
  | .refreshDone chan sub' _ => decide (chan < 8) && decide (sub' < 2)
  | .rhWindowClear chan => decide (chan < 8)
  | .rfmDone chan sub' _ _ => decide (chan < 8) && decide (sub' < 2)
  | .deepRequest req _ => req.wf
  | .deepReadDataArrive camp pitch _ _ => decide (camp < 64) && decide (pitch < 64)
  | .reencryptDone _ _ => true
  | .install _ => true
  | .keyBlobReadDone _ _ => true
  | .roll _ => true
  | .rollDone _ => true
  | .remove _ => true
  | .mpRangeWrite r w => decide (r < 64) && w.wf
  | .regionInitDone _ => true
  | .epochLimit port => decide (port < 6)
  | .add core f => decide (core < 16) && f.wf
  | .sub core f => decide (core < 16) && f.wf
  | .and core f => decide (core < 16) && f.wf
  | .or core f => decide (core < 16) && f.wf
  | .xor core f => decide (core < 16) && f.wf
  | .shl core f => decide (core < 16) && f.wf
  | .shr core f => decide (core < 16) && f.wf
  | .sar core f => decide (core < 16) && f.wf
  | .cmp core f => decide (core < 16) && f.wf
  | .mullo core f => decide (core < 16) && f.wf
  | .mulhiu core f => decide (core < 16) && f.wf
  | .addi core f => decide (core < 16) && f.wf
  | .andi core f => decide (core < 16) && f.wf
  | .ori core f => decide (core < 16) && f.wf
  | .xori core f => decide (core < 16) && f.wf
  | .shli core f => decide (core < 16) && f.wf
  | .shri core f => decide (core < 16) && f.wf
  | .sari core f => decide (core < 16) && f.wf
  | .cmpiLt core f => decide (core < 16) && f.wf
  | .cmpiLo core f => decide (core < 16) && f.wf
  | .orh core f => decide (core < 16) && f.wf
  | .ld8 core f => decide (core < 16) && f.wf
  | .ld16 core f => decide (core < 16) && f.wf
  | .ld32 core f => decide (core < 16) && f.wf
  | .lds core f => decide (core < 16) && f.wf
  | .st8 core f => decide (core < 16) && f.wf
  | .st16 core f => decide (core < 16) && f.wf
  | .st32 core f => decide (core < 16) && f.wf
  | .sts core f _ => decide (core < 16) && f.wf
  | .aswap core f => decide (core < 16) && f.wf
  | .aadd core f => decide (core < 16) && f.wf
  | .call core f => decide (core < 16) && f.wf
  | .callr core f => decide (core < 16) && f.wf
  | .gate core f => decide (core < 16) && f.wf
  | .codesync core f => decide (core < 16) && f.wf
  | .brEq core f => decide (core < 16) && f.wf
  | .brNe core f => decide (core < 16) && f.wf
  | .brLt core f => decide (core < 16) && f.wf
  | .brGe core f => decide (core < 16) && f.wf
  | .brLo core f => decide (core < 16) && f.wf
  | .brHs core f => decide (core < 16) && f.wf
  | .brBs core f => decide (core < 16) && f.wf
  | .brBc core f => decide (core < 16) && f.wf
  | .csend core f _ => decide (core < 16) && f.wf
  | .crecv core f _ => decide (core < 16) && f.wf
  | .cwait core f _ => decide (core < 16) && f.wf
  | .evset core f => decide (core < 16) && f.wf
  | .yield core f _ => decide (core < 16) && f.wf
  | .done core f _ => decide (core < 16) && f.wf
  | .order core f => decide (core < 16) && f.wf
  | .rdcw core f => decide (core < 16) && f.wf
  | .wrcw core f => decide (core < 16) && f.wf
  | .back core f => decide (core < 16) && f.wf
  | .doze core f => decide (core < 16) && f.wf
  | .ccMemoryResponse core _ _ _ => decide (core < 16)
  | .sliceExpire core => decide (core < 16)
  | .sleepEntry core => decide (core < 16)
  | .coreWakeDone core => decide (core < 16)
  | .ccCtrlWake core => decide (core < 16)
  | .ccEnableWrite core _ => decide (core < 16)
  | .ccDomWrite dom w => decide (dom < 64) && w.wf
  | .taskDispatch core => decide (core < 16)
  | .bivouacLoadDone core => decide (core < 16)
  | .taskArm => true
  | .taskCancel _ => true
  | .taskFree => true
  | .tsTaskFlagsWrite _ => true
  | .chEnable chan _ => decide (chan < 256)
  | .chQuiesce chan => decide (chan < 256)
  | .channelQuiesced chan => decide (chan < 256)
  | .chDisable chan => decide (chan < 256)
  | .channelDoorbell chan _ _ _ => decide (chan < 256)
  | .inboundSlotFetched chan _ _ => decide (chan < 256)
  | .dataMessage chan _ _ => decide (chan < 256)
  | .creditMessage chan _ _ => decide (chan < 256)
  | .outboundCopyDone chan => decide (chan < 256)
  | .mirrorBusError chan _ _ seq => decide (chan < 256) && fits 8 seq
  | .channelTimeout chan _ _ => decide (chan < 256)
  | .tsLogKeepWrite camp keep _ => decide (camp < 64) && fits 40 keep
  | .nocPacket _ _ net injected => decide (net < 4) && injected.all NocPkt.wf
  | .criticalWindowEnd _ => true
  | .fenceDoorbell _ => true
  | .fenceComplete _ => true
  | .domainOn dom => decide (dom < 80)
  | .domainOnStart _ => true
  | .domainOnDone dom => decide (dom < 80)
  | .domainOff dom _ => decide (dom < 80)
  | .powerDownDrainDone _ => true
  | .pdTimeout _ => true
  | .probePop _ => true
  | .trainingRetry port => decide (port < 6)
  | .trainingStateTimeout port => decide (port < 6)
  | .capabilityWord port _ => decide (port < 6)
  | .trainingStateDone port _ => decide (port < 6)
  | .eqRequest port tap op preset => decide (port < 6) && fits 2 tap && fits 2 op && fits 3 preset
  | .eqResponse port _ _ _ => decide (port < 6)
  | .flitReceive port f _ => decide (port < 6) && f.wf
  | .dataFlit port d => decide (port < 6) && d.wf
  | .replayTimeout port => decide (port < 6)
  | .retrain port f => decide (port < 6) && f.wf
  | .hnSpareCmd port f => decide (port < 6) && f.wf
  | .exitIdle port f => decide (port < 6) && f.wf
  | .idleTimer port => decide (port < 6)
  | .idleEnter port => decide (port < 6)
  | .idleExitBurst port => decide (port < 6)
  | .idleLockTimeout port => decide (port < 6)
  | .laneLockLoss port lane => decide (port < 6) && decide (lane < 9)
  | .spareReq port lane => decide (port < 6) && decide (lane < 9)
  | .spareDone port lane => decide (port < 6) && decide (lane < 9)
  | .sparingTimeout port => decide (port < 6)
  | .epoch port => decide (port < 6)
  | .probe port _ => decide (port < 6)
  | .echo port _ _ => decide (port < 6)
  | .hello port addr _ peerPort => decide (port < 6) && fits 8 addr && fits 3 peerPort
  | .helloTimer port => decide (port < 6)
  | .fbIdWrite addr _ => fits 8 addr
  | .loadPacket port pkt => (match port with | some p => decide (p < 6) | none => true) && pkt.wf
  | .channelPacket port pkt _ => (match port with | some p => decide (p < 6) | none => true) && pkt.wf
  | .topo port pkt => decide (port < 6) && pkt.wf
  | .mgmt port pkt => (match port with | some p => decide (p < 6) | none => true) && pkt.wf
  | .topoTimer => true
  | .topoRecordExpire _ => true
  | .routeCompute => true
  | .fbActiveWrite active => decide (active < 2)
  | .routeHostWrite _ => true
  | .linkLoss port => decide (port < 6)
  | .sync port _ _ _ _ _ => decide (port < 6)
  | .high port _ => decide (port < 6)
  | .syncTimer => true
  | .autoRootTimeout => true
  | .tmRoot _ => true
  | .tmReset _ => true
  | .tmLoad _ => true
  | .tmRateWrite value => fits 36 value
  | .tmDtIncHiWrite camp _ => decide (camp < 64)
  | .comparatorFire k => decide (k < 16)
  | .pulseWidthEnd pin => decide (pin < 4)
  | .captureInputEdge input => decide (input < 2)
  | .triggerInEdge => true
  | .conditionerWindowEnd input => decide (input < 3)
  | .inputStuck input => decide (input < 3)
  | .acqArm unit f => decide (unit < 4) && f.wf
  | .acqStop unit f => decide (unit < 4) && f.wf
  | .acqForce unit f => decide (unit < 4) && f.wf
  | .decForce dec format _ => decide (dec < 8) && fits 2 format
  | .postCyclesEnd unit => decide (unit < 4)
  | .holdoffEnd unit => decide (unit < 4)
  | .captureWriteDone unit => decide (unit < 4)
  | .captureBusError unit => decide (unit < 4)
  | .trigoutWidthEnd => true
  | .trFlush => true
  | .trRoute => true
  | .clearFb => true
  | .frameFlushTimer core => decide (core < 16)
  | .cairnTimer core => decide (core < 16)
  | .traceFrameWrite => true
  | .traceBusError => true
  | .fallbackDrainDone => true
  | .tokenLoad slot => decide (slot < 8)
  | .tokenLoadDone _ _ => true
  | .tokenRevoke slot => decide (slot < 8)
  | .powerOn _ => true
  | .inputBrownout => true
  | .inputOvervoltage => true
  | .thermalShutdown => true
  | .powerControlInterval _ => true
  | .romVerifyDone => true
  | .dramPhaseDone _ _ => true
  | .pinsPhaseDone _ => true
  | .recoveryStreamVerified => true
  | .pwReset f => f.wf
  | .fwProgram f => f.wf
  | .fwProgramDone _ _ _ => true
  | .refinLoss => true
  | .useIn _ => true
  | .useLocal _ => true
  | .scrubRead loc _ unit _ _ => loc.wf && decide (unit < 4)
  | .scrubGo die _ _ => decide (die < 8)
  | .scrubPassDone die => decide (die < 8)
  | .supervisorCheck _ => true
  | .scrubReloadDone die => decide (die < 8)
  | .bist _ _ => true
  | .bistDone _ _ => true
  | .flushWear _ _ => true
  | .wearFlushTimer => true
  | .wearCompactDone => true
  | .hsPitchMapWrite pitch spareCol => decide (pitch < 64) && fits 4 spareCol
  | .hsBpMapWrite loc spare0 spare1 _ => loc.wf && fits 7 spare0 && fits 7 spare1
  | .hsColMapWrite loc col0 col1 => loc.wf && fits 6 col0 && fits 6 col1
  | .bar2Read _ _ _ => true
  | .bar2Write _ _ _ => true
  | .barBadAccess _ _ => true
  | .msixUnmask vector => decide (vector < 256)
  | .pcieReset => true
  | .hiChVecWrite chan vec => decide (chan < 256) && decide (vec < 256)
  | .rcRead _ _ => true
  | .holdingRegisterRead _ => true
  | .runCampCycleLoRead camp _ => decide (camp < 64)
  | .tsLogPosLoRead camp _ => decide (camp < 64)
  | .tmNowFracRead _ => true
  | .tmDtFracRead camp _ => decide (camp < 64)
  | .tmCapFracRead input _ => decide (input < 2)
  | .trFbDataRead _ => true
  | .idKeyDataRead _ => true
  | .registerWrite _ _ _ _ => true
  | .testLogicReset => true
  | .extest _ => true
  | .samplePreload _ _ => true
  | .idcode => true
  | .clamp => true
  | .highz => true
  | .regAccess _ _ => true
  | .loadStream _ => true
  | .moduleReset => true
  | .bypass => true
  | .smbPhase => true
  | .smbVin => true
  | .smbIin => true
  | .smbPin => true
  | .smbTemp => true
  | .smbIdent => true
  | .smbAlarm => true
  | .smbDomains => true
  | .smbReset _ => true
  | .hostif _ => true
  | .inputRecovery => true
  | .thermalCooldown => true
  | .inputPowerRemoved => true
  | .refinReturn => true
  | .mr4TemperatureChange chan _ => decide (chan < 8)
  | .inputLevelChange input _ _ => decide (input < 3)
  | .stuckMaskRelease input => decide (input < 3)

end Sys2Proof
end

