-- ==== Sys2Proof/Laws/PerInstr.lean ====
section
/-! SUPPORT. What well-formedness says of every command's index operands: each is below the number of the things it counts on a QSR-M8. -/

namespace Sys2Proof

set_option Elab.async false

/-- The index operands of a command, each with the number it stays below (R5 to R7, R25, R438, R529, R639). -/
def Instr.indices : Instr → List (Nat × Nat)
  | .scheduleStep camp die _ => [(camp, 64), (die, 8)]
  | .bpNop loc _ => [(loc.die, 8), (loc.slot, 72), (loc.bp, 64)]
  | .lut4 loc _ => [(loc.die, 8), (loc.slot, 72), (loc.bp, 64)]
  | .lut4e loc _ => [(loc.die, 8), (loc.slot, 72), (loc.bp, 64)]
  | .route loc _ => [(loc.die, 8), (loc.slot, 72), (loc.bp, 64)]
  | .hold loc _ => [(loc.die, 8), (loc.slot, 72), (loc.bp, 64)]
  | .ckpt loc _ => [(loc.die, 8), (loc.slot, 72), (loc.bp, 64)]
  | .drainStart loc => [(loc.die, 8), (loc.slot, 72)]
  | .drainEnd loc => [(loc.die, 8), (loc.slot, 72), (loc.bp, 64)]
  | .wuNop loc _ => [(loc.die, 8), (loc.slot, 72)]
  | .wuAdd loc _ => [(loc.die, 8), (loc.slot, 72)]
  | .wuSub loc _ => [(loc.die, 8), (loc.slot, 72)]
  | .wuCarry loc _ => [(loc.die, 8), (loc.slot, 72)]
  | .wuBorrow loc _ => [(loc.die, 8), (loc.slot, 72)]
  | .wuAnd loc _ => [(loc.die, 8), (loc.slot, 72)]
  | .wuOr loc _ => [(loc.die, 8), (loc.slot, 72)]
  | .wuXor loc _ => [(loc.die, 8), (loc.slot, 72)]
  | .wuAndn loc _ => [(loc.die, 8), (loc.slot, 72)]
  | .wuShl loc _ => [(loc.die, 8), (loc.slot, 72)]
  | .wuShr loc _ => [(loc.die, 8), (loc.slot, 72)]
  | .wuSar loc _ => [(loc.die, 8), (loc.slot, 72)]
  | .wuRol loc _ => [(loc.die, 8), (loc.slot, 72)]
  | .wuRor loc _ => [(loc.die, 8), (loc.slot, 72)]
  | .wuCmpeq loc _ => [(loc.die, 8), (loc.slot, 72)]
  | .wuCmpltu loc _ => [(loc.die, 8), (loc.slot, 72)]
  | .wuCmplts loc _ => [(loc.die, 8), (loc.slot, 72)]
  | .wuSel loc _ => [(loc.die, 8), (loc.slot, 72)]
  | .wuBsel loc _ => [(loc.die, 8), (loc.slot, 72)]
  | .wuExt loc _ => [(loc.die, 8), (loc.slot, 72)]
  | .wuDep loc _ => [(loc.die, 8), (loc.slot, 72)]
  | .wuMullo loc _ => [(loc.die, 8), (loc.slot, 72)]
  | .wuMulhiu loc _ => [(loc.die, 8), (loc.slot, 72)]
  | .wuMulhis loc _ => [(loc.die, 8), (loc.slot, 72)]
  | .mulResultWrite loc => [(loc.die, 8), (loc.slot, 72)]
  | .wuLdm loc _ => [(loc.die, 8), (loc.slot, 72)]
  | .wuStm loc _ => [(loc.die, 8), (loc.slot, 72)]
  | .wuPack loc _ => [(loc.die, 8), (loc.slot, 72)]
  | .wuUnpack loc _ => [(loc.die, 8), (loc.slot, 72)]
  | .wuXec loc _ => [(loc.die, 8), (loc.slot, 72)]
  | .wuShift loc _ => [(loc.die, 8), (loc.slot, 72)]
  | .shadowCommit camp => [(camp, 64)]
  | .faultFlagsClose camp => [(camp, 64)]
  | .acquisitionSample camp => [(camp, 64)]
  | .recordExchange camp => [(camp, 64)]
  | .snapshotPoint camp => [(camp, 64)]
  | .cycleEnd camp => [(camp, 64)]
  | .start camp _ => [(camp, 64)]
  | .pause camp _ => [(camp, 64)]
  | .resume camp _ => [(camp, 64)]
  | .step camp _ => [(camp, 64)]
  | .halt camp _ => [(camp, 64)]
  | .unload camp _ => [(camp, 64)]
  | .unloadDone camp => [(camp, 64)]
  | .rampStart camp _ => [(camp, 64)]
  | .rampStep camp => [(camp, 64)]
  | .firstDesignCycleStart camp => [(camp, 64)]
  | .heldStartRelease camp => [(camp, 64)]
  | .restoreDone camp => [(camp, 64)]
  | .restoreBusError camp _ _ => [(camp, 64)]
  | .bankGrant loc bank => [(loc.die, 8), (loc.slot, 72), (bank, 8)]
  | .mgmtAccessGo die => [(die, 8)]
  | .mgmtAccessDone die => [(die, 8)]
  | .wakeClearEnd pitch => [(pitch, 64)]
  | .crossingItemArrive camp _ _ _ => [(camp, 64)]
  | .fifoWrite _ _ _ => []
  | .fifoRead _ _ => []
  | .fifoPtrMismatch _ _ => []
  | .fifoReprime _ _ => []
  | .stall camp _ _ => [(camp, 64)]
  | .release camp _ _ _ _ => [(camp, 64)]
  | .boundary camp _ _ _ => [(camp, 64)]
  | .guylineHalt camp _ _ _ => [(camp, 64)]
  | .relockDone camp _ => [(camp, 64)]
  | .dcTagWrite camp k _ _ _ => [(camp, 64), (k, 16)]
  | .dcAccWrite camp k _ => [(camp, 64), (k, 16)]
  | .snapArm camp _ _ _ => [(camp, 64)]
  | .snapAbort camp _ _ => [(camp, 64)]
  | .snapshotDone camp => [(camp, 64)]
  | .snapshotBusError camp _ => [(camp, 64)]
  | .dcSnapSelWrite camp _ => [(camp, 64)]
  | .snapSelCheckDone camp _ => [(camp, 64)]
  | .load _ _ _ => []
  | .ldAbort => []
  | .ldDmaPush _ => []
  | .loadSegment _ => []
  | .placementEntryArrive _ _ _ => []
  | .loadAck _ _ => []
  | .commit => []
  | .abort => []
  | .loadTimeout _ => []
  | .loadClearDone => []
  | .dmInit chan _ => [(chan, 8)]
  | .dmInitDone chan _ => [(chan, 8)]
  | .dmActivate chan _ => [(chan, 8)]
  | .dmQuiesce chan _ => [(chan, 8)]
  | .quiesceDone chan => [(chan, 8)]
  | .dmPpr chan _ => [(chan, 8)]
  | .pprDone chan _ => [(chan, 8)]
  | .mrw chan sub' _ _ => [(chan, 8), (sub', 2)]
  | .mrr chan sub' _ _ => [(chan, 8), (sub', 2)]
  | .mpc chan sub' _ _ => [(chan, 8), (sub', 2)]
  | .trainOpDone chan _ => [(chan, 8)]
  | .dmMapWrite chan k _ => [(chan, 8), (k, 9)]
  | .refreshDue chan sub' _ => [(chan, 8), (sub', 2)]
  | .postponedRefreshIssue chan sub' _ => [(chan, 8), (sub', 2)]
  | .refreshDone chan sub' _ => [(chan, 8), (sub', 2)]
  | .rhWindowClear chan => [(chan, 8)]
  | .rfmDone chan sub' _ _ => [(chan, 8), (sub', 2)]
  | .deepRequest _ _ => []
  | .deepReadDataArrive camp pitch _ _ => [(camp, 64), (pitch, 64)]
  | .reencryptDone _ _ => []
  | .install _ => []
  | .keyBlobReadDone _ _ => []
  | .roll _ => []
  | .rollDone _ => []
  | .remove _ => []
  | .mpRangeWrite r _ => [(r, 64)]
  | .regionInitDone _ => []
  | .epochLimit port => [(port, 6)]
  | .add core _ => [(core, 16)]
  | .sub core _ => [(core, 16)]
  | .and core _ => [(core, 16)]
  | .or core _ => [(core, 16)]
  | .xor core _ => [(core, 16)]
  | .shl core _ => [(core, 16)]
  | .shr core _ => [(core, 16)]
  | .sar core _ => [(core, 16)]
  | .cmp core _ => [(core, 16)]
  | .mullo core _ => [(core, 16)]
  | .mulhiu core _ => [(core, 16)]
  | .addi core _ => [(core, 16)]
  | .andi core _ => [(core, 16)]
  | .ori core _ => [(core, 16)]
  | .xori core _ => [(core, 16)]
  | .shli core _ => [(core, 16)]
  | .shri core _ => [(core, 16)]
  | .sari core _ => [(core, 16)]
  | .cmpiLt core _ => [(core, 16)]
  | .cmpiLo core _ => [(core, 16)]
  | .orh core _ => [(core, 16)]
  | .ld8 core _ => [(core, 16)]
  | .ld16 core _ => [(core, 16)]
  | .ld32 core _ => [(core, 16)]
  | .lds core _ => [(core, 16)]
  | .st8 core _ => [(core, 16)]
  | .st16 core _ => [(core, 16)]
  | .st32 core _ => [(core, 16)]
  | .sts core _ _ => [(core, 16)]
  | .aswap core _ => [(core, 16)]
  | .aadd core _ => [(core, 16)]
  | .call core _ => [(core, 16)]
  | .callr core _ => [(core, 16)]
  | .gate core _ => [(core, 16)]
  | .codesync core _ => [(core, 16)]
  | .brEq core _ => [(core, 16)]
  | .brNe core _ => [(core, 16)]
  | .brLt core _ => [(core, 16)]
  | .brGe core _ => [(core, 16)]
  | .brLo core _ => [(core, 16)]
  | .brHs core _ => [(core, 16)]
  | .brBs core _ => [(core, 16)]
  | .brBc core _ => [(core, 16)]
  | .csend core _ _ => [(core, 16)]
  | .crecv core _ _ => [(core, 16)]
  | .cwait core _ _ => [(core, 16)]
  | .evset core _ => [(core, 16)]
  | .yield core _ _ => [(core, 16)]
  | .done core _ _ => [(core, 16)]
  | .order core _ => [(core, 16)]
  | .rdcw core _ => [(core, 16)]
  | .wrcw core _ => [(core, 16)]
  | .back core _ => [(core, 16)]
  | .doze core _ => [(core, 16)]
  | .ccMemoryResponse core _ _ _ => [(core, 16)]
  | .sliceExpire core => [(core, 16)]
  | .sleepEntry core => [(core, 16)]
  | .coreWakeDone core => [(core, 16)]
  | .ccCtrlWake core => [(core, 16)]
  | .ccEnableWrite core _ => [(core, 16)]
  | .ccDomWrite dom _ => [(dom, 64)]
  | .taskDispatch core => [(core, 16)]
  | .bivouacLoadDone core => [(core, 16)]
  | .taskArm => []
  | .taskCancel _ => []
  | .taskFree => []
  | .tsTaskFlagsWrite _ => []
  | .chEnable chan _ => [(chan, 256)]
  | .chQuiesce chan => [(chan, 256)]
  | .channelQuiesced chan => [(chan, 256)]
  | .chDisable chan => [(chan, 256)]
  | .channelDoorbell chan _ _ _ => [(chan, 256)]
  | .inboundSlotFetched chan _ _ => [(chan, 256)]
  | .dataMessage chan _ _ => [(chan, 256)]
  | .creditMessage chan _ _ => [(chan, 256)]
  | .outboundCopyDone chan => [(chan, 256)]
  | .mirrorBusError chan _ _ _ => [(chan, 256)]
  | .channelTimeout chan _ _ => [(chan, 256)]
  | .tsLogKeepWrite camp _ _ => [(camp, 64)]
  | .nocPacket _ _ net _ => [(net, 4)]
  | .criticalWindowEnd _ => []
  | .fenceDoorbell _ => []
  | .fenceComplete _ => []
  | .domainOn dom => [(dom, 80)]
  | .domainOnStart _ => []
  | .domainOnDone dom => [(dom, 80)]
  | .domainOff dom _ => [(dom, 80)]
  | .powerDownDrainDone _ => []
  | .pdTimeout _ => []
  | .probePop _ => []
  | .trainingRetry port => [(port, 6)]
  | .trainingStateTimeout port => [(port, 6)]
  | .capabilityWord port _ => [(port, 6)]
  | .trainingStateDone port _ => [(port, 6)]
  | .eqRequest port _ _ _ => [(port, 6)]
  | .eqResponse port _ _ _ => [(port, 6)]
  | .flitReceive port _ _ => [(port, 6)]
  | .dataFlit port _ => [(port, 6)]
  | .replayTimeout port => [(port, 6)]
  | .retrain port _ => [(port, 6)]
  | .hnSpareCmd port _ => [(port, 6)]
  | .exitIdle port _ => [(port, 6)]
  | .idleTimer port => [(port, 6)]
  | .idleEnter port => [(port, 6)]
  | .idleExitBurst port => [(port, 6)]
  | .idleLockTimeout port => [(port, 6)]
  | .laneLockLoss port lane => [(port, 6), (lane, 9)]
  | .spareReq port lane => [(port, 6), (lane, 9)]
  | .spareDone port lane => [(port, 6), (lane, 9)]
  | .sparingTimeout port => [(port, 6)]
  | .epoch port => [(port, 6)]
  | .probe port _ => [(port, 6)]
  | .echo port _ _ => [(port, 6)]
  | .hello port _ _ _ => [(port, 6)]
  | .helloTimer port => [(port, 6)]
  | .fbIdWrite _ _ => []
  | .loadPacket _ _ => []
  | .channelPacket _ _ _ => []
  | .topo port _ => [(port, 6)]
  | .mgmt _ _ => []
  | .topoTimer => []
  | .topoRecordExpire _ => []
  | .routeCompute => []
  | .fbActiveWrite active => [(active, 2)]
  | .routeHostWrite _ => []
  | .linkLoss port => [(port, 6)]
  | .sync port _ _ _ _ _ => [(port, 6)]
  | .high port _ => [(port, 6)]
  | .syncTimer => []
  | .autoRootTimeout => []
  | .tmRoot _ => []
  | .tmReset _ => []
  | .tmLoad _ => []
  | .tmRateWrite _ => []
  | .tmDtIncHiWrite camp _ => [(camp, 64)]
  | .comparatorFire k => [(k, 16)]
  | .pulseWidthEnd pin => [(pin, 4)]
  | .captureInputEdge input => [(input, 2)]
  | .triggerInEdge => []
  | .conditionerWindowEnd input => [(input, 3)]
  | .inputStuck input => [(input, 3)]
  | .acqArm unit _ => [(unit, 4)]
  | .acqStop unit _ => [(unit, 4)]
  | .acqForce unit _ => [(unit, 4)]
  | .decForce dec _ _ => [(dec, 8)]
  | .postCyclesEnd unit => [(unit, 4)]
  | .holdoffEnd unit => [(unit, 4)]
  | .captureWriteDone unit => [(unit, 4)]
  | .captureBusError unit => [(unit, 4)]
  | .trigoutWidthEnd => []
  | .trFlush => []
  | .trRoute => []
  | .clearFb => []
  | .frameFlushTimer core => [(core, 16)]
  | .cairnTimer core => [(core, 16)]
  | .traceFrameWrite => []
  | .traceBusError => []
  | .fallbackDrainDone => []
  | .tokenLoad slot => [(slot, 8)]
  | .tokenLoadDone _ _ => []
  | .tokenRevoke slot => [(slot, 8)]
  | .powerOn _ => []
  | .inputBrownout => []
  | .inputOvervoltage => []
  | .thermalShutdown => []
  | .powerControlInterval _ => []
  | .romVerifyDone => []
  | .dramPhaseDone _ _ => []
  | .pinsPhaseDone _ => []
  | .recoveryStreamVerified => []
  | .pwReset _ => []
  | .fwProgram _ => []
  | .fwProgramDone _ _ _ => []
  | .refinLoss => []
  | .useIn _ => []
  | .useLocal _ => []
  | .scrubRead loc _ unit _ _ => [(loc.die, 8), (loc.slot, 72), (unit, 4)]
  | .scrubGo die _ _ => [(die, 8)]
  | .scrubPassDone die => [(die, 8)]
  | .supervisorCheck _ => []
  | .scrubReloadDone die => [(die, 8)]
  | .bist _ _ => []
  | .bistDone _ _ => []
  | .flushWear _ _ => []
  | .wearFlushTimer => []
  | .wearCompactDone => []
  | .hsPitchMapWrite pitch _ => [(pitch, 64)]
  | .hsBpMapWrite loc _ _ _ => [(loc.die, 8), (loc.slot, 72)]
  | .hsColMapWrite loc _ _ => [(loc.die, 8), (loc.slot, 72)]
  | .bar2Read _ _ _ => []
  | .bar2Write _ _ _ => []
  | .barBadAccess _ _ => []
  | .msixUnmask vector => [(vector, 256)]
  | .pcieReset => []
  | .hiChVecWrite chan vec => [(chan, 256), (vec, 256)]
  | .rcRead _ _ => []
  | .holdingRegisterRead _ => []
  | .runCampCycleLoRead camp _ => [(camp, 64)]
  | .tsLogPosLoRead camp _ => [(camp, 64)]
  | .tmNowFracRead _ => []
  | .tmDtFracRead camp _ => [(camp, 64)]
  | .tmCapFracRead input _ => [(input, 2)]
  | .trFbDataRead _ => []
  | .idKeyDataRead _ => []
  | .registerWrite _ _ _ _ => []
  | .testLogicReset => []
  | .extest _ => []
  | .samplePreload _ _ => []
  | .idcode => []
  | .clamp => []
  | .highz => []
  | .regAccess _ _ => []
  | .loadStream _ => []
  | .moduleReset => []
  | .bypass => []
  | .smbPhase => []
  | .smbVin => []
  | .smbIin => []
  | .smbPin => []
  | .smbTemp => []
  | .smbIdent => []
  | .smbAlarm => []
  | .smbDomains => []
  | .smbReset _ => []
  | .hostif _ => []
  | .inputRecovery => []
  | .thermalCooldown => []
  | .inputPowerRemoved => []
  | .refinReturn => []
  | .mr4TemperatureChange chan _ => [(chan, 8)]
  | .inputLevelChange input _ _ => [(input, 3)]
  | .stuckMaskRelease input => [(input, 3)]

namespace Laws.Operands

/-- A well-formed command's index operands are in range. -/
def Statement (i : Instr) : Prop := i.wf = true → ∀ e ∈ i.indices, e.1 < e.2

theorem inAll {l : List (Nat × Nat)} (h : l.all fun e => decide (e.1 < e.2)) : ∀ e ∈ l, e.1 < e.2 := by simpa using h

theorem scheduleStep (camp : Nat) (die : Nat) (x2 : StepObs) : Statement (.scheduleStep camp die x2) := by
  change (decide (camp < 64) && decide (die < 8)) = true → ∀ e ∈ ([(camp, 64), (die, 8)] : List (Nat × Nat)), e.1 < e.2
  intro h
  exact inAll (by simp only [Bool.and_eq_true, decide_eq_true_eq] at h; simp [h])
theorem bpNop (loc : BpSite) (f : BpFields) : Statement (.bpNop loc f) := by
  change (loc.wf && f.wf) = true → ∀ e ∈ ([(loc.die, 8), (loc.slot, 72), (loc.bp, 64)] : List (Nat × Nat)), e.1 < e.2
  intro h
  exact inAll (by simp only [Bool.and_eq_true, decide_eq_true_eq, BpSite.wf] at h; simp [h])
theorem lut4 (loc : BpSite) (f : BpFields) : Statement (.lut4 loc f) := by
  change (loc.wf && f.wf) = true → ∀ e ∈ ([(loc.die, 8), (loc.slot, 72), (loc.bp, 64)] : List (Nat × Nat)), e.1 < e.2
  intro h
  exact inAll (by simp only [Bool.and_eq_true, decide_eq_true_eq, BpSite.wf] at h; simp [h])
theorem lut4e (loc : BpSite) (f : BpFields) : Statement (.lut4e loc f) := by
  change (loc.wf && f.wf) = true → ∀ e ∈ ([(loc.die, 8), (loc.slot, 72), (loc.bp, 64)] : List (Nat × Nat)), e.1 < e.2
  intro h
  exact inAll (by simp only [Bool.and_eq_true, decide_eq_true_eq, BpSite.wf] at h; simp [h])
theorem route (loc : BpSite) (f : BpFields) : Statement (.route loc f) := by
  change (loc.wf && f.wf) = true → ∀ e ∈ ([(loc.die, 8), (loc.slot, 72), (loc.bp, 64)] : List (Nat × Nat)), e.1 < e.2
  intro h
  exact inAll (by simp only [Bool.and_eq_true, decide_eq_true_eq, BpSite.wf] at h; simp [h])
theorem hold (loc : BpSite) (f : BpFields) : Statement (.hold loc f) := by
  change (loc.wf && f.wf) = true → ∀ e ∈ ([(loc.die, 8), (loc.slot, 72), (loc.bp, 64)] : List (Nat × Nat)), e.1 < e.2
  intro h
  exact inAll (by simp only [Bool.and_eq_true, decide_eq_true_eq, BpSite.wf] at h; simp [h])
theorem ckpt (loc : BpSite) (f : BpFields) : Statement (.ckpt loc f) := by
  change (loc.wf && f.wf) = true → ∀ e ∈ ([(loc.die, 8), (loc.slot, 72), (loc.bp, 64)] : List (Nat × Nat)), e.1 < e.2
  intro h
  exact inAll (by simp only [Bool.and_eq_true, decide_eq_true_eq, BpSite.wf] at h; simp [h])
theorem drainStart (loc : ClusterSite) : Statement (.drainStart loc) := by
  change (loc.wf) = true → ∀ e ∈ ([(loc.die, 8), (loc.slot, 72)] : List (Nat × Nat)), e.1 < e.2
  intro h
  exact inAll (by simp only [Bool.and_eq_true, decide_eq_true_eq, ClusterSite.wf] at h; simp [h])
theorem drainEnd (loc : BpSite) : Statement (.drainEnd loc) := by
  change (loc.wf) = true → ∀ e ∈ ([(loc.die, 8), (loc.slot, 72), (loc.bp, 64)] : List (Nat × Nat)), e.1 < e.2
  intro h
  exact inAll (by simp only [Bool.and_eq_true, decide_eq_true_eq, BpSite.wf] at h; simp [h])
theorem wuNop (loc : ClusterSite) (f : WuFields) : Statement (.wuNop loc f) := by
  change (loc.wf && f.wf) = true → ∀ e ∈ ([(loc.die, 8), (loc.slot, 72)] : List (Nat × Nat)), e.1 < e.2
  intro h
  exact inAll (by simp only [Bool.and_eq_true, decide_eq_true_eq, ClusterSite.wf] at h; simp [h])
theorem wuAdd (loc : ClusterSite) (f : WuFields) : Statement (.wuAdd loc f) := by
  change (loc.wf && f.wf) = true → ∀ e ∈ ([(loc.die, 8), (loc.slot, 72)] : List (Nat × Nat)), e.1 < e.2
  intro h
  exact inAll (by simp only [Bool.and_eq_true, decide_eq_true_eq, ClusterSite.wf] at h; simp [h])
theorem wuSub (loc : ClusterSite) (f : WuFields) : Statement (.wuSub loc f) := by
  change (loc.wf && f.wf) = true → ∀ e ∈ ([(loc.die, 8), (loc.slot, 72)] : List (Nat × Nat)), e.1 < e.2
  intro h
  exact inAll (by simp only [Bool.and_eq_true, decide_eq_true_eq, ClusterSite.wf] at h; simp [h])
theorem wuCarry (loc : ClusterSite) (f : WuFields) : Statement (.wuCarry loc f) := by
  change (loc.wf && f.wf) = true → ∀ e ∈ ([(loc.die, 8), (loc.slot, 72)] : List (Nat × Nat)), e.1 < e.2
  intro h
  exact inAll (by simp only [Bool.and_eq_true, decide_eq_true_eq, ClusterSite.wf] at h; simp [h])
theorem wuBorrow (loc : ClusterSite) (f : WuFields) : Statement (.wuBorrow loc f) := by
  change (loc.wf && f.wf) = true → ∀ e ∈ ([(loc.die, 8), (loc.slot, 72)] : List (Nat × Nat)), e.1 < e.2
  intro h
  exact inAll (by simp only [Bool.and_eq_true, decide_eq_true_eq, ClusterSite.wf] at h; simp [h])
theorem wuAnd (loc : ClusterSite) (f : WuFields) : Statement (.wuAnd loc f) := by
  change (loc.wf && f.wf) = true → ∀ e ∈ ([(loc.die, 8), (loc.slot, 72)] : List (Nat × Nat)), e.1 < e.2
  intro h
  exact inAll (by simp only [Bool.and_eq_true, decide_eq_true_eq, ClusterSite.wf] at h; simp [h])
theorem wuOr (loc : ClusterSite) (f : WuFields) : Statement (.wuOr loc f) := by
  change (loc.wf && f.wf) = true → ∀ e ∈ ([(loc.die, 8), (loc.slot, 72)] : List (Nat × Nat)), e.1 < e.2
  intro h
  exact inAll (by simp only [Bool.and_eq_true, decide_eq_true_eq, ClusterSite.wf] at h; simp [h])
theorem wuXor (loc : ClusterSite) (f : WuFields) : Statement (.wuXor loc f) := by
  change (loc.wf && f.wf) = true → ∀ e ∈ ([(loc.die, 8), (loc.slot, 72)] : List (Nat × Nat)), e.1 < e.2
  intro h
  exact inAll (by simp only [Bool.and_eq_true, decide_eq_true_eq, ClusterSite.wf] at h; simp [h])
theorem wuAndn (loc : ClusterSite) (f : WuFields) : Statement (.wuAndn loc f) := by
  change (loc.wf && f.wf) = true → ∀ e ∈ ([(loc.die, 8), (loc.slot, 72)] : List (Nat × Nat)), e.1 < e.2
  intro h
  exact inAll (by simp only [Bool.and_eq_true, decide_eq_true_eq, ClusterSite.wf] at h; simp [h])
theorem wuShl (loc : ClusterSite) (f : WuFields) : Statement (.wuShl loc f) := by
  change (loc.wf && f.wf) = true → ∀ e ∈ ([(loc.die, 8), (loc.slot, 72)] : List (Nat × Nat)), e.1 < e.2
  intro h
  exact inAll (by simp only [Bool.and_eq_true, decide_eq_true_eq, ClusterSite.wf] at h; simp [h])
theorem wuShr (loc : ClusterSite) (f : WuFields) : Statement (.wuShr loc f) := by
  change (loc.wf && f.wf) = true → ∀ e ∈ ([(loc.die, 8), (loc.slot, 72)] : List (Nat × Nat)), e.1 < e.2
  intro h
  exact inAll (by simp only [Bool.and_eq_true, decide_eq_true_eq, ClusterSite.wf] at h; simp [h])
theorem wuSar (loc : ClusterSite) (f : WuFields) : Statement (.wuSar loc f) := by
  change (loc.wf && f.wf) = true → ∀ e ∈ ([(loc.die, 8), (loc.slot, 72)] : List (Nat × Nat)), e.1 < e.2
  intro h
  exact inAll (by simp only [Bool.and_eq_true, decide_eq_true_eq, ClusterSite.wf] at h; simp [h])
theorem wuRol (loc : ClusterSite) (f : WuFields) : Statement (.wuRol loc f) := by
  change (loc.wf && f.wf) = true → ∀ e ∈ ([(loc.die, 8), (loc.slot, 72)] : List (Nat × Nat)), e.1 < e.2
  intro h
  exact inAll (by simp only [Bool.and_eq_true, decide_eq_true_eq, ClusterSite.wf] at h; simp [h])
theorem wuRor (loc : ClusterSite) (f : WuFields) : Statement (.wuRor loc f) := by
  change (loc.wf && f.wf) = true → ∀ e ∈ ([(loc.die, 8), (loc.slot, 72)] : List (Nat × Nat)), e.1 < e.2
  intro h
  exact inAll (by simp only [Bool.and_eq_true, decide_eq_true_eq, ClusterSite.wf] at h; simp [h])
theorem wuCmpeq (loc : ClusterSite) (f : WuFields) : Statement (.wuCmpeq loc f) := by
  change (loc.wf && f.wf) = true → ∀ e ∈ ([(loc.die, 8), (loc.slot, 72)] : List (Nat × Nat)), e.1 < e.2
  intro h
  exact inAll (by simp only [Bool.and_eq_true, decide_eq_true_eq, ClusterSite.wf] at h; simp [h])
theorem wuCmpltu (loc : ClusterSite) (f : WuFields) : Statement (.wuCmpltu loc f) := by
  change (loc.wf && f.wf) = true → ∀ e ∈ ([(loc.die, 8), (loc.slot, 72)] : List (Nat × Nat)), e.1 < e.2
  intro h
  exact inAll (by simp only [Bool.and_eq_true, decide_eq_true_eq, ClusterSite.wf] at h; simp [h])
theorem wuCmplts (loc : ClusterSite) (f : WuFields) : Statement (.wuCmplts loc f) := by
  change (loc.wf && f.wf) = true → ∀ e ∈ ([(loc.die, 8), (loc.slot, 72)] : List (Nat × Nat)), e.1 < e.2
  intro h
  exact inAll (by simp only [Bool.and_eq_true, decide_eq_true_eq, ClusterSite.wf] at h; simp [h])
theorem wuSel (loc : ClusterSite) (f : WuFields) : Statement (.wuSel loc f) := by
  change (loc.wf && f.wf) = true → ∀ e ∈ ([(loc.die, 8), (loc.slot, 72)] : List (Nat × Nat)), e.1 < e.2
  intro h
  exact inAll (by simp only [Bool.and_eq_true, decide_eq_true_eq, ClusterSite.wf] at h; simp [h])
theorem wuBsel (loc : ClusterSite) (f : WuFields) : Statement (.wuBsel loc f) := by
  change (loc.wf && f.wf) = true → ∀ e ∈ ([(loc.die, 8), (loc.slot, 72)] : List (Nat × Nat)), e.1 < e.2
  intro h
  exact inAll (by simp only [Bool.and_eq_true, decide_eq_true_eq, ClusterSite.wf] at h; simp [h])
theorem wuExt (loc : ClusterSite) (f : WuFields) : Statement (.wuExt loc f) := by
  change (loc.wf && f.wf) = true → ∀ e ∈ ([(loc.die, 8), (loc.slot, 72)] : List (Nat × Nat)), e.1 < e.2
  intro h
  exact inAll (by simp only [Bool.and_eq_true, decide_eq_true_eq, ClusterSite.wf] at h; simp [h])
theorem wuDep (loc : ClusterSite) (f : WuFields) : Statement (.wuDep loc f) := by
  change (loc.wf && f.wf) = true → ∀ e ∈ ([(loc.die, 8), (loc.slot, 72)] : List (Nat × Nat)), e.1 < e.2
  intro h
  exact inAll (by simp only [Bool.and_eq_true, decide_eq_true_eq, ClusterSite.wf] at h; simp [h])
theorem wuMullo (loc : ClusterSite) (f : WuFields) : Statement (.wuMullo loc f) := by
  change (loc.wf && f.wf) = true → ∀ e ∈ ([(loc.die, 8), (loc.slot, 72)] : List (Nat × Nat)), e.1 < e.2
  intro h
  exact inAll (by simp only [Bool.and_eq_true, decide_eq_true_eq, ClusterSite.wf] at h; simp [h])
theorem wuMulhiu (loc : ClusterSite) (f : WuFields) : Statement (.wuMulhiu loc f) := by
  change (loc.wf && f.wf) = true → ∀ e ∈ ([(loc.die, 8), (loc.slot, 72)] : List (Nat × Nat)), e.1 < e.2
  intro h
  exact inAll (by simp only [Bool.and_eq_true, decide_eq_true_eq, ClusterSite.wf] at h; simp [h])
theorem wuMulhis (loc : ClusterSite) (f : WuFields) : Statement (.wuMulhis loc f) := by
  change (loc.wf && f.wf) = true → ∀ e ∈ ([(loc.die, 8), (loc.slot, 72)] : List (Nat × Nat)), e.1 < e.2
  intro h
  exact inAll (by simp only [Bool.and_eq_true, decide_eq_true_eq, ClusterSite.wf] at h; simp [h])
theorem mulResultWrite (loc : ClusterSite) : Statement (.mulResultWrite loc) := by
  change (loc.wf) = true → ∀ e ∈ ([(loc.die, 8), (loc.slot, 72)] : List (Nat × Nat)), e.1 < e.2
  intro h
  exact inAll (by simp only [Bool.and_eq_true, decide_eq_true_eq, ClusterSite.wf] at h; simp [h])
theorem wuLdm (loc : ClusterSite) (f : WuFields) : Statement (.wuLdm loc f) := by
  change (loc.wf && f.wf) = true → ∀ e ∈ ([(loc.die, 8), (loc.slot, 72)] : List (Nat × Nat)), e.1 < e.2
  intro h
  exact inAll (by simp only [Bool.and_eq_true, decide_eq_true_eq, ClusterSite.wf] at h; simp [h])
theorem wuStm (loc : ClusterSite) (f : WuFields) : Statement (.wuStm loc f) := by
  change (loc.wf && f.wf) = true → ∀ e ∈ ([(loc.die, 8), (loc.slot, 72)] : List (Nat × Nat)), e.1 < e.2
  intro h
  exact inAll (by simp only [Bool.and_eq_true, decide_eq_true_eq, ClusterSite.wf] at h; simp [h])
theorem wuPack (loc : ClusterSite) (f : WuFields) : Statement (.wuPack loc f) := by
  change (loc.wf && f.wf) = true → ∀ e ∈ ([(loc.die, 8), (loc.slot, 72)] : List (Nat × Nat)), e.1 < e.2
  intro h
  exact inAll (by simp only [Bool.and_eq_true, decide_eq_true_eq, ClusterSite.wf] at h; simp [h])
theorem wuUnpack (loc : ClusterSite) (f : WuFields) : Statement (.wuUnpack loc f) := by
  change (loc.wf && f.wf) = true → ∀ e ∈ ([(loc.die, 8), (loc.slot, 72)] : List (Nat × Nat)), e.1 < e.2
  intro h
  exact inAll (by simp only [Bool.and_eq_true, decide_eq_true_eq, ClusterSite.wf] at h; simp [h])
theorem wuXec (loc : ClusterSite) (f : WuFields) : Statement (.wuXec loc f) := by
  change (loc.wf && f.wf) = true → ∀ e ∈ ([(loc.die, 8), (loc.slot, 72)] : List (Nat × Nat)), e.1 < e.2
  intro h
  exact inAll (by simp only [Bool.and_eq_true, decide_eq_true_eq, ClusterSite.wf] at h; simp [h])
theorem wuShift (loc : ClusterSite) (f : WuFields) : Statement (.wuShift loc f) := by
  change (loc.wf && f.wf) = true → ∀ e ∈ ([(loc.die, 8), (loc.slot, 72)] : List (Nat × Nat)), e.1 < e.2
  intro h
  exact inAll (by simp only [Bool.and_eq_true, decide_eq_true_eq, ClusterSite.wf] at h; simp [h])
theorem shadowCommit (camp : Nat) : Statement (.shadowCommit camp) := by
  change (decide (camp < 64)) = true → ∀ e ∈ ([(camp, 64)] : List (Nat × Nat)), e.1 < e.2
  intro h
  exact inAll (by simp only [decide_eq_true_eq] at h; simp [h])
theorem faultFlagsClose (camp : Nat) : Statement (.faultFlagsClose camp) := by
  change (decide (camp < 64)) = true → ∀ e ∈ ([(camp, 64)] : List (Nat × Nat)), e.1 < e.2
  intro h
  exact inAll (by simp only [decide_eq_true_eq] at h; simp [h])
theorem acquisitionSample (camp : Nat) : Statement (.acquisitionSample camp) := by
  change (decide (camp < 64)) = true → ∀ e ∈ ([(camp, 64)] : List (Nat × Nat)), e.1 < e.2
  intro h
  exact inAll (by simp only [decide_eq_true_eq] at h; simp [h])
theorem recordExchange (camp : Nat) : Statement (.recordExchange camp) := by
  change (decide (camp < 64)) = true → ∀ e ∈ ([(camp, 64)] : List (Nat × Nat)), e.1 < e.2
  intro h
  exact inAll (by simp only [decide_eq_true_eq] at h; simp [h])
theorem snapshotPoint (camp : Nat) : Statement (.snapshotPoint camp) := by
  change (decide (camp < 64)) = true → ∀ e ∈ ([(camp, 64)] : List (Nat × Nat)), e.1 < e.2
  intro h
  exact inAll (by simp only [decide_eq_true_eq] at h; simp [h])
theorem cycleEnd (camp : Nat) : Statement (.cycleEnd camp) := by
  change (decide (camp < 64)) = true → ∀ e ∈ ([(camp, 64)] : List (Nat × Nat)), e.1 < e.2
  intro h
  exact inAll (by simp only [decide_eq_true_eq] at h; simp [h])
theorem start (camp : Nat) (f : RunFields) : Statement (.start camp f) := by
  change (decide (camp < 64) && f.wf) = true → ∀ e ∈ ([(camp, 64)] : List (Nat × Nat)), e.1 < e.2
  intro h
  exact inAll (by simp only [Bool.and_eq_true, decide_eq_true_eq] at h; simp [h])
theorem pause (camp : Nat) (f : RunFields) : Statement (.pause camp f) := by
  change (decide (camp < 64) && f.wf) = true → ∀ e ∈ ([(camp, 64)] : List (Nat × Nat)), e.1 < e.2
  intro h
  exact inAll (by simp only [Bool.and_eq_true, decide_eq_true_eq] at h; simp [h])
theorem resume (camp : Nat) (f : RunFields) : Statement (.resume camp f) := by
  change (decide (camp < 64) && f.wf) = true → ∀ e ∈ ([(camp, 64)] : List (Nat × Nat)), e.1 < e.2
  intro h
  exact inAll (by simp only [Bool.and_eq_true, decide_eq_true_eq] at h; simp [h])
theorem step (camp : Nat) (f : RunFields) : Statement (.step camp f) := by
  change (decide (camp < 64) && f.wf) = true → ∀ e ∈ ([(camp, 64)] : List (Nat × Nat)), e.1 < e.2
  intro h
  exact inAll (by simp only [Bool.and_eq_true, decide_eq_true_eq] at h; simp [h])
theorem halt (camp : Nat) (f : RunFields) : Statement (.halt camp f) := by
  change (decide (camp < 64) && f.wf) = true → ∀ e ∈ ([(camp, 64)] : List (Nat × Nat)), e.1 < e.2
  intro h
  exact inAll (by simp only [Bool.and_eq_true, decide_eq_true_eq] at h; simp [h])
theorem unload (camp : Nat) (f : RunFields) : Statement (.unload camp f) := by
  change (decide (camp < 64) && f.wf) = true → ∀ e ∈ ([(camp, 64)] : List (Nat × Nat)), e.1 < e.2
  intro h
  exact inAll (by simp only [Bool.and_eq_true, decide_eq_true_eq] at h; simp [h])
theorem unloadDone (camp : Nat) : Statement (.unloadDone camp) := by
  change (decide (camp < 64)) = true → ∀ e ∈ ([(camp, 64)] : List (Nat × Nat)), e.1 < e.2
  intro h
  exact inAll (by simp only [decide_eq_true_eq] at h; simp [h])
theorem rampStart (camp : Nat) (x1 : Nat) : Statement (.rampStart camp x1) := by
  change (decide (camp < 64)) = true → ∀ e ∈ ([(camp, 64)] : List (Nat × Nat)), e.1 < e.2
  intro h
  exact inAll (by simp only [decide_eq_true_eq] at h; simp [h])
theorem rampStep (camp : Nat) : Statement (.rampStep camp) := by
  change (decide (camp < 64)) = true → ∀ e ∈ ([(camp, 64)] : List (Nat × Nat)), e.1 < e.2
  intro h
  exact inAll (by simp only [decide_eq_true_eq] at h; simp [h])
theorem firstDesignCycleStart (camp : Nat) : Statement (.firstDesignCycleStart camp) := by
  change (decide (camp < 64)) = true → ∀ e ∈ ([(camp, 64)] : List (Nat × Nat)), e.1 < e.2
  intro h
  exact inAll (by simp only [decide_eq_true_eq] at h; simp [h])
theorem heldStartRelease (camp : Nat) : Statement (.heldStartRelease camp) := by
  change (decide (camp < 64)) = true → ∀ e ∈ ([(camp, 64)] : List (Nat × Nat)), e.1 < e.2
  intro h
  exact inAll (by simp only [decide_eq_true_eq] at h; simp [h])
theorem restoreDone (camp : Nat) : Statement (.restoreDone camp) := by
  change (decide (camp < 64)) = true → ∀ e ∈ ([(camp, 64)] : List (Nat × Nat)), e.1 < e.2
  intro h
  exact inAll (by simp only [decide_eq_true_eq] at h; simp [h])
theorem restoreBusError (camp : Nat) (x1 : Nat) (x2 : Bool) : Statement (.restoreBusError camp x1 x2) := by
  change (decide (camp < 64)) = true → ∀ e ∈ ([(camp, 64)] : List (Nat × Nat)), e.1 < e.2
  intro h
  exact inAll (by simp only [decide_eq_true_eq] at h; simp [h])
theorem bankGrant (loc : ClusterSite) (bank : Nat) : Statement (.bankGrant loc bank) := by
  change (loc.wf && decide (bank < 8)) = true → ∀ e ∈ ([(loc.die, 8), (loc.slot, 72), (bank, 8)] : List (Nat × Nat)), e.1 < e.2
  intro h
  exact inAll (by simp only [Bool.and_eq_true, decide_eq_true_eq, ClusterSite.wf] at h; simp [h])
theorem mgmtAccessGo (die : Nat) : Statement (.mgmtAccessGo die) := by
  change (decide (die < 8)) = true → ∀ e ∈ ([(die, 8)] : List (Nat × Nat)), e.1 < e.2
  intro h
  exact inAll (by simp only [decide_eq_true_eq] at h; simp [h])
theorem mgmtAccessDone (die : Nat) : Statement (.mgmtAccessDone die) := by
  change (decide (die < 8)) = true → ∀ e ∈ ([(die, 8)] : List (Nat × Nat)), e.1 < e.2
  intro h
  exact inAll (by simp only [decide_eq_true_eq] at h; simp [h])
theorem wakeClearEnd (pitch : Nat) : Statement (.wakeClearEnd pitch) := by
  change (decide (pitch < 64)) = true → ∀ e ∈ ([(pitch, 64)] : List (Nat × Nat)), e.1 < e.2
  intro h
  exact inAll (by simp only [decide_eq_true_eq] at h; simp [h])
theorem crossingItemArrive (camp : Nat) (dst : Nat) (x2 : Nat) (x3 : Nat) : Statement (.crossingItemArrive camp dst x2 x3) := by
  change (decide (camp < 64) && fits 13 dst) = true → ∀ e ∈ ([(camp, 64)] : List (Nat × Nat)), e.1 < e.2
  intro h
  exact inAll (by simp only [Bool.and_eq_true, decide_eq_true_eq] at h; simp [h])
theorem fifoWrite (id : FifoId) (x1 : Nat) (x2 : Bool) : Statement (.fifoWrite id x1 x2) := fun _ _ h => nomatch h
theorem fifoRead (id : FifoId) (x1 : Bool) : Statement (.fifoRead id x1) := fun _ _ h => nomatch h
theorem fifoPtrMismatch (id : FifoId) (x1 : Bool) : Statement (.fifoPtrMismatch id x1) := fun _ _ h => nomatch h
theorem fifoReprime (id : FifoId) (x1 : Nat) : Statement (.fifoReprime id x1) := fun _ _ h => nomatch h
theorem stall (camp : Nat) (st : Stall) (port : Option Nat) : Statement (.stall camp st port) := by
  change (decide (camp < 64) && st.wf && (match port with | some p => decide (p < 6) | none => true)) = true → ∀ e ∈ ([(camp, 64)] : List (Nat × Nat)), e.1 < e.2
  intro h
  exact inAll (by simp only [Bool.and_eq_true, decide_eq_true_eq] at h; simp [h])
theorem release (camp : Nat) (x1 : Nat) (x2 : Nat) (port : Option Nat) (x4 : Nat) : Statement (.release camp x1 x2 port x4) := by
  change (decide (camp < 64) && (match port with | some p => decide (p < 6) | none => true)) = true → ∀ e ∈ ([(camp, 64)] : List (Nat × Nat)), e.1 < e.2
  intro h
  exact inAll (by simp only [Bool.and_eq_true, decide_eq_true_eq] at h; simp [h])
theorem boundary (camp : Nat) (msg : BoundaryMsg) (port : Option Nat) (x3 : Nat) : Statement (.boundary camp msg port x3) := by
  change (decide (camp < 64) && msg.wf && (match port with | some p => decide (p < 6) | none => true)) = true → ∀ e ∈ ([(camp, 64)] : List (Nat × Nat)), e.1 < e.2
  intro h
  exact inAll (by simp only [Bool.and_eq_true, decide_eq_true_eq] at h; simp [h])
theorem guylineHalt (camp : Nat) (x1 : Nat) (x2 : Nat) (port : Option Nat) : Statement (.guylineHalt camp x1 x2 port) := by
  change (decide (camp < 64) && (match port with | some p => decide (p < 6) | none => true)) = true → ∀ e ∈ ([(camp, 64)] : List (Nat × Nat)), e.1 < e.2
  intro h
  exact inAll (by simp only [Bool.and_eq_true, decide_eq_true_eq] at h; simp [h])
theorem relockDone (camp : Nat) (x1 : Nat) : Statement (.relockDone camp x1) := by
  change (decide (camp < 64)) = true → ∀ e ∈ ([(camp, 64)] : List (Nat × Nat)), e.1 < e.2
  intro h
  exact inAll (by simp only [decide_eq_true_eq] at h; simp [h])
theorem dcTagWrite (camp : Nat) (k : Nat) (x2 : Nat) (x3 : Nat) (x4 : Bool) : Statement (.dcTagWrite camp k x2 x3 x4) := by
  change (decide (camp < 64) && decide (k < 16)) = true → ∀ e ∈ ([(camp, 64), (k, 16)] : List (Nat × Nat)), e.1 < e.2
  intro h
  exact inAll (by simp only [Bool.and_eq_true, decide_eq_true_eq] at h; simp [h])
theorem dcAccWrite (camp : Nat) (k : Nat) (x2 : Nat) : Statement (.dcAccWrite camp k x2) := by
  change (decide (camp < 64) && decide (k < 16)) = true → ∀ e ∈ ([(camp, 64), (k, 16)] : List (Nat × Nat)), e.1 < e.2
  intro h
  exact inAll (by simp only [Bool.and_eq_true, decide_eq_true_eq] at h; simp [h])
theorem snapArm (camp : Nat) (x1 : Bool) (x2 : Bool) (x3 : Bool) : Statement (.snapArm camp x1 x2 x3) := by
  change (decide (camp < 64)) = true → ∀ e ∈ ([(camp, 64)] : List (Nat × Nat)), e.1 < e.2
  intro h
  exact inAll (by simp only [decide_eq_true_eq] at h; simp [h])
theorem snapAbort (camp : Nat) (x1 : Bool) (x2 : Bool) : Statement (.snapAbort camp x1 x2) := by
  change (decide (camp < 64)) = true → ∀ e ∈ ([(camp, 64)] : List (Nat × Nat)), e.1 < e.2
  intro h
  exact inAll (by simp only [decide_eq_true_eq] at h; simp [h])
theorem snapshotDone (camp : Nat) : Statement (.snapshotDone camp) := by
  change (decide (camp < 64)) = true → ∀ e ∈ ([(camp, 64)] : List (Nat × Nat)), e.1 < e.2
  intro h
  exact inAll (by simp only [decide_eq_true_eq] at h; simp [h])
theorem snapshotBusError (camp : Nat) (x1 : Bool) : Statement (.snapshotBusError camp x1) := by
  change (decide (camp < 64)) = true → ∀ e ∈ ([(camp, 64)] : List (Nat × Nat)), e.1 < e.2
  intro h
  exact inAll (by simp only [decide_eq_true_eq] at h; simp [h])
theorem dcSnapSelWrite (camp : Nat) (x1 : Nat) : Statement (.dcSnapSelWrite camp x1) := by
  change (decide (camp < 64)) = true → ∀ e ∈ ([(camp, 64)] : List (Nat × Nat)), e.1 < e.2
  intro h
  exact inAll (by simp only [decide_eq_true_eq] at h; simp [h])
theorem snapSelCheckDone (camp : Nat) (x1 : Bool) : Statement (.snapSelCheckDone camp x1) := by
  change (decide (camp < 64)) = true → ∀ e ∈ ([(camp, 64)] : List (Nat × Nat)), e.1 < e.2
  intro h
  exact inAll (by simp only [decide_eq_true_eq] at h; simp [h])
theorem load (x0 : Nat) (x1 : Nat) (x2 : List Nat) : Statement (.load x0 x1 x2) := fun _ _ h => nomatch h
theorem ldAbort : Statement (.ldAbort) := fun _ _ h => nomatch h
theorem ldDmaPush (x0 : Nat) : Statement (.ldDmaPush x0) := fun _ _ h => nomatch h
theorem loadSegment (x0 : List Byte) : Statement (.loadSegment x0) := fun _ _ h => nomatch h
theorem placementEntryArrive (x0 : Nat) (x1 : Nat) (ps : List PlaceEntry) : Statement (.placementEntryArrive x0 x1 ps) := fun _ _ h => nomatch h
theorem loadAck (x0 : Nat) (x1 : LoadAck) : Statement (.loadAck x0 x1) := fun _ _ h => nomatch h
theorem commit : Statement (.commit) := fun _ _ h => nomatch h
theorem abort : Statement (.abort) := fun _ _ h => nomatch h
theorem loadTimeout (x0 : Option Nat) : Statement (.loadTimeout x0) := fun _ _ h => nomatch h
theorem loadClearDone : Statement (.loadClearDone) := fun _ _ h => nomatch h
theorem dmInit (chan : Nat) (x1 : Bool) : Statement (.dmInit chan x1) := by
  change (decide (chan < 8)) = true → ∀ e ∈ ([(chan, 8)] : List (Nat × Nat)), e.1 < e.2
  intro h
  exact inAll (by simp only [decide_eq_true_eq] at h; simp [h])
theorem dmInitDone (chan : Nat) (x1 : Bool) : Statement (.dmInitDone chan x1) := by
  change (decide (chan < 8)) = true → ∀ e ∈ ([(chan, 8)] : List (Nat × Nat)), e.1 < e.2
  intro h
  exact inAll (by simp only [decide_eq_true_eq] at h; simp [h])
theorem dmActivate (chan : Nat) (x1 : Bool) : Statement (.dmActivate chan x1) := by
  change (decide (chan < 8)) = true → ∀ e ∈ ([(chan, 8)] : List (Nat × Nat)), e.1 < e.2
  intro h
  exact inAll (by simp only [decide_eq_true_eq] at h; simp [h])
theorem dmQuiesce (chan : Nat) (x1 : Bool) : Statement (.dmQuiesce chan x1) := by
  change (decide (chan < 8)) = true → ∀ e ∈ ([(chan, 8)] : List (Nat × Nat)), e.1 < e.2
  intro h
  exact inAll (by simp only [decide_eq_true_eq] at h; simp [h])
theorem quiesceDone (chan : Nat) : Statement (.quiesceDone chan) := by
  change (decide (chan < 8)) = true → ∀ e ∈ ([(chan, 8)] : List (Nat × Nat)), e.1 < e.2
  intro h
  exact inAll (by simp only [decide_eq_true_eq] at h; simp [h])
theorem dmPpr (chan : Nat) (x1 : Bool) : Statement (.dmPpr chan x1) := by
  change (decide (chan < 8)) = true → ∀ e ∈ ([(chan, 8)] : List (Nat × Nat)), e.1 < e.2
  intro h
  exact inAll (by simp only [decide_eq_true_eq] at h; simp [h])
theorem pprDone (chan : Nat) (x1 : Bool) : Statement (.pprDone chan x1) := by
  change (decide (chan < 8)) = true → ∀ e ∈ ([(chan, 8)] : List (Nat × Nat)), e.1 < e.2
  intro h
  exact inAll (by simp only [decide_eq_true_eq] at h; simp [h])
theorem mrw (chan : Nat) (sub' : Nat) (mr : Nat) (data : Nat) : Statement (.mrw chan sub' mr data) := by
  change (decide (chan < 8) && decide (sub' < 2) && fits 8 mr && fits 8 data) = true → ∀ e ∈ ([(chan, 8), (sub', 2)] : List (Nat × Nat)), e.1 < e.2
  intro h
  exact inAll (by simp only [Bool.and_eq_true, decide_eq_true_eq] at h; simp [h])
theorem mrr (chan : Nat) (sub' : Nat) (mr : Nat) (data : Nat) : Statement (.mrr chan sub' mr data) := by
  change (decide (chan < 8) && decide (sub' < 2) && fits 8 mr && fits 8 data) = true → ∀ e ∈ ([(chan, 8), (sub', 2)] : List (Nat × Nat)), e.1 < e.2
  intro h
  exact inAll (by simp only [Bool.and_eq_true, decide_eq_true_eq] at h; simp [h])
theorem mpc (chan : Nat) (sub' : Nat) (mr : Nat) (data : Nat) : Statement (.mpc chan sub' mr data) := by
  change (decide (chan < 8) && decide (sub' < 2) && fits 8 mr && fits 8 data) = true → ∀ e ∈ ([(chan, 8), (sub', 2)] : List (Nat × Nat)), e.1 < e.2
  intro h
  exact inAll (by simp only [Bool.and_eq_true, decide_eq_true_eq] at h; simp [h])
theorem trainOpDone (chan : Nat) (x1 : Nat) : Statement (.trainOpDone chan x1) := by
  change (decide (chan < 8)) = true → ∀ e ∈ ([(chan, 8)] : List (Nat × Nat)), e.1 < e.2
  intro h
  exact inAll (by simp only [decide_eq_true_eq] at h; simp [h])
theorem dmMapWrite (chan : Nat) (k : Nat) (x2 : Nat) : Statement (.dmMapWrite chan k x2) := by
  change (decide (chan < 8) && decide (k < 9)) = true → ∀ e ∈ ([(chan, 8), (k, 9)] : List (Nat × Nat)), e.1 < e.2
  intro h
  exact inAll (by simp only [Bool.and_eq_true, decide_eq_true_eq] at h; simp [h])
theorem refreshDue (chan : Nat) (sub' : Nat) (x2 : Option Nat) : Statement (.refreshDue chan sub' x2) := by
  change (decide (chan < 8) && decide (sub' < 2)) = true → ∀ e ∈ ([(chan, 8), (sub', 2)] : List (Nat × Nat)), e.1 < e.2
  intro h
  exact inAll (by simp only [Bool.and_eq_true, decide_eq_true_eq] at h; simp [h])
theorem postponedRefreshIssue (chan : Nat) (sub' : Nat) (x2 : Option Nat) : Statement (.postponedRefreshIssue chan sub' x2) := by
  change (decide (chan < 8) && decide (sub' < 2)) = true → ∀ e ∈ ([(chan, 8), (sub', 2)] : List (Nat × Nat)), e.1 < e.2
  intro h
  exact inAll (by simp only [Bool.and_eq_true, decide_eq_true_eq] at h; simp [h])
theorem refreshDone (chan : Nat) (sub' : Nat) (x2 : Option Nat) : Statement (.refreshDone chan sub' x2) := by
  change (decide (chan < 8) && decide (sub' < 2)) = true → ∀ e ∈ ([(chan, 8), (sub', 2)] : List (Nat × Nat)), e.1 < e.2
  intro h
  exact inAll (by simp only [Bool.and_eq_true, decide_eq_true_eq] at h; simp [h])
theorem rhWindowClear (chan : Nat) : Statement (.rhWindowClear chan) := by
  change (decide (chan < 8)) = true → ∀ e ∈ ([(chan, 8)] : List (Nat × Nat)), e.1 < e.2
  intro h
  exact inAll (by simp only [decide_eq_true_eq] at h; simp [h])
theorem rfmDone (chan : Nat) (sub' : Nat) (x2 : Nat) (x3 : Nat) : Statement (.rfmDone chan sub' x2 x3) := by
  change (decide (chan < 8) && decide (sub' < 2)) = true → ∀ e ∈ ([(chan, 8), (sub', 2)] : List (Nat × Nat)), e.1 < e.2
  intro h
  exact inAll (by simp only [Bool.and_eq_true, decide_eq_true_eq] at h; simp [h])
theorem deepRequest (req : DeepReq) (x1 : DeepObs) : Statement (.deepRequest req x1) := fun _ _ h => nomatch h
theorem deepReadDataArrive (camp : Nat) (pitch : Nat) (x2 : Nat) (x3 : Nat) : Statement (.deepReadDataArrive camp pitch x2 x3) := by
  change (decide (camp < 64) && decide (pitch < 64)) = true → ∀ e ∈ ([(camp, 64), (pitch, 64)] : List (Nat × Nat)), e.1 < e.2
  intro h
  exact inAll (by simp only [Bool.and_eq_true, decide_eq_true_eq] at h; simp [h])
theorem reencryptDone (x0 : Nat) (x1 : Nat) : Statement (.reencryptDone x0 x1) := fun _ _ h => nomatch h
theorem install (x0 : Nat) : Statement (.install x0) := fun _ _ h => nomatch h
theorem keyBlobReadDone (x0 : Bool) (x1 : List Byte) : Statement (.keyBlobReadDone x0 x1) := fun _ _ h => nomatch h
theorem roll (x0 : Nat) : Statement (.roll x0) := fun _ _ h => nomatch h
theorem rollDone (x0 : Nat) : Statement (.rollDone x0) := fun _ _ h => nomatch h
theorem remove (x0 : Nat) : Statement (.remove x0) := fun _ _ h => nomatch h
theorem mpRangeWrite (r : Nat) (w : RangeWrite) : Statement (.mpRangeWrite r w) := by
  change (decide (r < 64) && w.wf) = true → ∀ e ∈ ([(r, 64)] : List (Nat × Nat)), e.1 < e.2
  intro h
  exact inAll (by simp only [Bool.and_eq_true, decide_eq_true_eq] at h; simp [h])
theorem regionInitDone (x0 : Nat) : Statement (.regionInitDone x0) := fun _ _ h => nomatch h
theorem epochLimit (port : Nat) : Statement (.epochLimit port) := by
  change (decide (port < 6)) = true → ∀ e ∈ ([(port, 6)] : List (Nat × Nat)), e.1 < e.2
  intro h
  exact inAll (by simp only [decide_eq_true_eq] at h; simp [h])
theorem add (core : Nat) (f : FmtT) : Statement (.add core f) := by
  change (decide (core < 16) && f.wf) = true → ∀ e ∈ ([(core, 16)] : List (Nat × Nat)), e.1 < e.2
  intro h
  exact inAll (by simp only [Bool.and_eq_true, decide_eq_true_eq] at h; simp [h])
theorem sub (core : Nat) (f : FmtT) : Statement (.sub core f) := by
  change (decide (core < 16) && f.wf) = true → ∀ e ∈ ([(core, 16)] : List (Nat × Nat)), e.1 < e.2
  intro h
  exact inAll (by simp only [Bool.and_eq_true, decide_eq_true_eq] at h; simp [h])
theorem and (core : Nat) (f : FmtT) : Statement (.and core f) := by
  change (decide (core < 16) && f.wf) = true → ∀ e ∈ ([(core, 16)] : List (Nat × Nat)), e.1 < e.2
  intro h
  exact inAll (by simp only [Bool.and_eq_true, decide_eq_true_eq] at h; simp [h])
theorem or (core : Nat) (f : FmtT) : Statement (.or core f) := by
  change (decide (core < 16) && f.wf) = true → ∀ e ∈ ([(core, 16)] : List (Nat × Nat)), e.1 < e.2
  intro h
  exact inAll (by simp only [Bool.and_eq_true, decide_eq_true_eq] at h; simp [h])
theorem xor (core : Nat) (f : FmtT) : Statement (.xor core f) := by
  change (decide (core < 16) && f.wf) = true → ∀ e ∈ ([(core, 16)] : List (Nat × Nat)), e.1 < e.2
  intro h
  exact inAll (by simp only [Bool.and_eq_true, decide_eq_true_eq] at h; simp [h])
theorem shl (core : Nat) (f : FmtT) : Statement (.shl core f) := by
  change (decide (core < 16) && f.wf) = true → ∀ e ∈ ([(core, 16)] : List (Nat × Nat)), e.1 < e.2
  intro h
  exact inAll (by simp only [Bool.and_eq_true, decide_eq_true_eq] at h; simp [h])
theorem shr (core : Nat) (f : FmtT) : Statement (.shr core f) := by
  change (decide (core < 16) && f.wf) = true → ∀ e ∈ ([(core, 16)] : List (Nat × Nat)), e.1 < e.2
  intro h
  exact inAll (by simp only [Bool.and_eq_true, decide_eq_true_eq] at h; simp [h])
theorem sar (core : Nat) (f : FmtT) : Statement (.sar core f) := by
  change (decide (core < 16) && f.wf) = true → ∀ e ∈ ([(core, 16)] : List (Nat × Nat)), e.1 < e.2
  intro h
  exact inAll (by simp only [Bool.and_eq_true, decide_eq_true_eq] at h; simp [h])
theorem cmp (core : Nat) (f : FmtT) : Statement (.cmp core f) := by
  change (decide (core < 16) && f.wf) = true → ∀ e ∈ ([(core, 16)] : List (Nat × Nat)), e.1 < e.2
  intro h
  exact inAll (by simp only [Bool.and_eq_true, decide_eq_true_eq] at h; simp [h])
theorem mullo (core : Nat) (f : FmtT) : Statement (.mullo core f) := by
  change (decide (core < 16) && f.wf) = true → ∀ e ∈ ([(core, 16)] : List (Nat × Nat)), e.1 < e.2
  intro h
  exact inAll (by simp only [Bool.and_eq_true, decide_eq_true_eq] at h; simp [h])
theorem mulhiu (core : Nat) (f : FmtT) : Statement (.mulhiu core f) := by
  change (decide (core < 16) && f.wf) = true → ∀ e ∈ ([(core, 16)] : List (Nat × Nat)), e.1 < e.2
  intro h
  exact inAll (by simp only [Bool.and_eq_true, decide_eq_true_eq] at h; simp [h])
theorem addi (core : Nat) (f : FmtK) : Statement (.addi core f) := by
  change (decide (core < 16) && f.wf) = true → ∀ e ∈ ([(core, 16)] : List (Nat × Nat)), e.1 < e.2
  intro h
  exact inAll (by simp only [Bool.and_eq_true, decide_eq_true_eq] at h; simp [h])
theorem andi (core : Nat) (f : FmtK) : Statement (.andi core f) := by
  change (decide (core < 16) && f.wf) = true → ∀ e ∈ ([(core, 16)] : List (Nat × Nat)), e.1 < e.2
  intro h
  exact inAll (by simp only [Bool.and_eq_true, decide_eq_true_eq] at h; simp [h])
theorem ori (core : Nat) (f : FmtK) : Statement (.ori core f) := by
  change (decide (core < 16) && f.wf) = true → ∀ e ∈ ([(core, 16)] : List (Nat × Nat)), e.1 < e.2
  intro h
  exact inAll (by simp only [Bool.and_eq_true, decide_eq_true_eq] at h; simp [h])
theorem xori (core : Nat) (f : FmtK) : Statement (.xori core f) := by
  change (decide (core < 16) && f.wf) = true → ∀ e ∈ ([(core, 16)] : List (Nat × Nat)), e.1 < e.2
  intro h
  exact inAll (by simp only [Bool.and_eq_true, decide_eq_true_eq] at h; simp [h])
theorem shli (core : Nat) (f : FmtK) : Statement (.shli core f) := by
  change (decide (core < 16) && f.wf) = true → ∀ e ∈ ([(core, 16)] : List (Nat × Nat)), e.1 < e.2
  intro h
  exact inAll (by simp only [Bool.and_eq_true, decide_eq_true_eq] at h; simp [h])
theorem shri (core : Nat) (f : FmtK) : Statement (.shri core f) := by
  change (decide (core < 16) && f.wf) = true → ∀ e ∈ ([(core, 16)] : List (Nat × Nat)), e.1 < e.2
  intro h
  exact inAll (by simp only [Bool.and_eq_true, decide_eq_true_eq] at h; simp [h])
theorem sari (core : Nat) (f : FmtK) : Statement (.sari core f) := by
  change (decide (core < 16) && f.wf) = true → ∀ e ∈ ([(core, 16)] : List (Nat × Nat)), e.1 < e.2
  intro h
  exact inAll (by simp only [Bool.and_eq_true, decide_eq_true_eq] at h; simp [h])
theorem cmpiLt (core : Nat) (f : FmtK) : Statement (.cmpiLt core f) := by
  change (decide (core < 16) && f.wf) = true → ∀ e ∈ ([(core, 16)] : List (Nat × Nat)), e.1 < e.2
  intro h
  exact inAll (by simp only [Bool.and_eq_true, decide_eq_true_eq] at h; simp [h])
theorem cmpiLo (core : Nat) (f : FmtK) : Statement (.cmpiLo core f) := by
  change (decide (core < 16) && f.wf) = true → ∀ e ∈ ([(core, 16)] : List (Nat × Nat)), e.1 < e.2
  intro h
  exact inAll (by simp only [Bool.and_eq_true, decide_eq_true_eq] at h; simp [h])
theorem orh (core : Nat) (f : FmtK) : Statement (.orh core f) := by
  change (decide (core < 16) && f.wf) = true → ∀ e ∈ ([(core, 16)] : List (Nat × Nat)), e.1 < e.2
  intro h
  exact inAll (by simp only [Bool.and_eq_true, decide_eq_true_eq] at h; simp [h])
theorem ld8 (core : Nat) (f : FmtK) : Statement (.ld8 core f) := by
  change (decide (core < 16) && f.wf) = true → ∀ e ∈ ([(core, 16)] : List (Nat × Nat)), e.1 < e.2
  intro h
  exact inAll (by simp only [Bool.and_eq_true, decide_eq_true_eq] at h; simp [h])
theorem ld16 (core : Nat) (f : FmtK) : Statement (.ld16 core f) := by
  change (decide (core < 16) && f.wf) = true → ∀ e ∈ ([(core, 16)] : List (Nat × Nat)), e.1 < e.2
  intro h
  exact inAll (by simp only [Bool.and_eq_true, decide_eq_true_eq] at h; simp [h])
theorem ld32 (core : Nat) (f : FmtK) : Statement (.ld32 core f) := by
  change (decide (core < 16) && f.wf) = true → ∀ e ∈ ([(core, 16)] : List (Nat × Nat)), e.1 < e.2
  intro h
  exact inAll (by simp only [Bool.and_eq_true, decide_eq_true_eq] at h; simp [h])
theorem lds (core : Nat) (f : FmtK) : Statement (.lds core f) := by
  change (decide (core < 16) && f.wf) = true → ∀ e ∈ ([(core, 16)] : List (Nat × Nat)), e.1 < e.2
  intro h
  exact inAll (by simp only [Bool.and_eq_true, decide_eq_true_eq] at h; simp [h])
theorem st8 (core : Nat) (f : FmtK) : Statement (.st8 core f) := by
  change (decide (core < 16) && f.wf) = true → ∀ e ∈ ([(core, 16)] : List (Nat × Nat)), e.1 < e.2
  intro h
  exact inAll (by simp only [Bool.and_eq_true, decide_eq_true_eq] at h; simp [h])
theorem st16 (core : Nat) (f : FmtK) : Statement (.st16 core f) := by
  change (decide (core < 16) && f.wf) = true → ∀ e ∈ ([(core, 16)] : List (Nat × Nat)), e.1 < e.2
  intro h
  exact inAll (by simp only [Bool.and_eq_true, decide_eq_true_eq] at h; simp [h])
theorem st32 (core : Nat) (f : FmtK) : Statement (.st32 core f) := by
  change (decide (core < 16) && f.wf) = true → ∀ e ∈ ([(core, 16)] : List (Nat × Nat)), e.1 < e.2
  intro h
  exact inAll (by simp only [Bool.and_eq_true, decide_eq_true_eq] at h; simp [h])
theorem sts (core : Nat) (f : FmtK) (x2 : WriteObs) : Statement (.sts core f x2) := by
  change (decide (core < 16) && f.wf) = true → ∀ e ∈ ([(core, 16)] : List (Nat × Nat)), e.1 < e.2
  intro h
  exact inAll (by simp only [Bool.and_eq_true, decide_eq_true_eq] at h; simp [h])
theorem aswap (core : Nat) (f : FmtT) : Statement (.aswap core f) := by
  change (decide (core < 16) && f.wf) = true → ∀ e ∈ ([(core, 16)] : List (Nat × Nat)), e.1 < e.2
  intro h
  exact inAll (by simp only [Bool.and_eq_true, decide_eq_true_eq] at h; simp [h])
theorem aadd (core : Nat) (f : FmtT) : Statement (.aadd core f) := by
  change (decide (core < 16) && f.wf) = true → ∀ e ∈ ([(core, 16)] : List (Nat × Nat)), e.1 < e.2
  intro h
  exact inAll (by simp only [Bool.and_eq_true, decide_eq_true_eq] at h; simp [h])
theorem call (core : Nat) (f : FmtP) : Statement (.call core f) := by
  change (decide (core < 16) && f.wf) = true → ∀ e ∈ ([(core, 16)] : List (Nat × Nat)), e.1 < e.2
  intro h
  exact inAll (by simp only [Bool.and_eq_true, decide_eq_true_eq] at h; simp [h])
theorem callr (core : Nat) (f : FmtK) : Statement (.callr core f) := by
  change (decide (core < 16) && f.wf) = true → ∀ e ∈ ([(core, 16)] : List (Nat × Nat)), e.1 < e.2
  intro h
  exact inAll (by simp only [Bool.and_eq_true, decide_eq_true_eq] at h; simp [h])
theorem gate (core : Nat) (f : FmtK) : Statement (.gate core f) := by
  change (decide (core < 16) && f.wf) = true → ∀ e ∈ ([(core, 16)] : List (Nat × Nat)), e.1 < e.2
  intro h
  exact inAll (by simp only [Bool.and_eq_true, decide_eq_true_eq] at h; simp [h])
theorem codesync (core : Nat) (f : FmtT) : Statement (.codesync core f) := by
  change (decide (core < 16) && f.wf) = true → ∀ e ∈ ([(core, 16)] : List (Nat × Nat)), e.1 < e.2
  intro h
  exact inAll (by simp only [Bool.and_eq_true, decide_eq_true_eq] at h; simp [h])
theorem brEq (core : Nat) (f : FmtP) : Statement (.brEq core f) := by
  change (decide (core < 16) && f.wf) = true → ∀ e ∈ ([(core, 16)] : List (Nat × Nat)), e.1 < e.2
  intro h
  exact inAll (by simp only [Bool.and_eq_true, decide_eq_true_eq] at h; simp [h])
theorem brNe (core : Nat) (f : FmtP) : Statement (.brNe core f) := by
  change (decide (core < 16) && f.wf) = true → ∀ e ∈ ([(core, 16)] : List (Nat × Nat)), e.1 < e.2
  intro h
  exact inAll (by simp only [Bool.and_eq_true, decide_eq_true_eq] at h; simp [h])
theorem brLt (core : Nat) (f : FmtP) : Statement (.brLt core f) := by
  change (decide (core < 16) && f.wf) = true → ∀ e ∈ ([(core, 16)] : List (Nat × Nat)), e.1 < e.2
  intro h
  exact inAll (by simp only [Bool.and_eq_true, decide_eq_true_eq] at h; simp [h])
theorem brGe (core : Nat) (f : FmtP) : Statement (.brGe core f) := by
  change (decide (core < 16) && f.wf) = true → ∀ e ∈ ([(core, 16)] : List (Nat × Nat)), e.1 < e.2
  intro h
  exact inAll (by simp only [Bool.and_eq_true, decide_eq_true_eq] at h; simp [h])
theorem brLo (core : Nat) (f : FmtP) : Statement (.brLo core f) := by
  change (decide (core < 16) && f.wf) = true → ∀ e ∈ ([(core, 16)] : List (Nat × Nat)), e.1 < e.2
  intro h
  exact inAll (by simp only [Bool.and_eq_true, decide_eq_true_eq] at h; simp [h])
theorem brHs (core : Nat) (f : FmtP) : Statement (.brHs core f) := by
  change (decide (core < 16) && f.wf) = true → ∀ e ∈ ([(core, 16)] : List (Nat × Nat)), e.1 < e.2
  intro h
  exact inAll (by simp only [Bool.and_eq_true, decide_eq_true_eq] at h; simp [h])
theorem brBs (core : Nat) (f : FmtP) : Statement (.brBs core f) := by
  change (decide (core < 16) && f.wf) = true → ∀ e ∈ ([(core, 16)] : List (Nat × Nat)), e.1 < e.2
  intro h
  exact inAll (by simp only [Bool.and_eq_true, decide_eq_true_eq] at h; simp [h])
theorem brBc (core : Nat) (f : FmtP) : Statement (.brBc core f) := by
  change (decide (core < 16) && f.wf) = true → ∀ e ∈ ([(core, 16)] : List (Nat × Nat)), e.1 < e.2
  intro h
  exact inAll (by simp only [Bool.and_eq_true, decide_eq_true_eq] at h; simp [h])
theorem csend (core : Nat) (f : FmtT) (x2 : Nat) : Statement (.csend core f x2) := by
  change (decide (core < 16) && f.wf) = true → ∀ e ∈ ([(core, 16)] : List (Nat × Nat)), e.1 < e.2
  intro h
  exact inAll (by simp only [Bool.and_eq_true, decide_eq_true_eq] at h; simp [h])
theorem crecv (core : Nat) (f : FmtT) (x2 : Nat) : Statement (.crecv core f x2) := by
  change (decide (core < 16) && f.wf) = true → ∀ e ∈ ([(core, 16)] : List (Nat × Nat)), e.1 < e.2
  intro h
  exact inAll (by simp only [Bool.and_eq_true, decide_eq_true_eq] at h; simp [h])
theorem cwait (core : Nat) (f : FmtT) (x2 : Nat) : Statement (.cwait core f x2) := by
  change (decide (core < 16) && f.wf) = true → ∀ e ∈ ([(core, 16)] : List (Nat × Nat)), e.1 < e.2
  intro h
  exact inAll (by simp only [Bool.and_eq_true, decide_eq_true_eq] at h; simp [h])
theorem evset (core : Nat) (f : FmtT) : Statement (.evset core f) := by
  change (decide (core < 16) && f.wf) = true → ∀ e ∈ ([(core, 16)] : List (Nat × Nat)), e.1 < e.2
  intro h
  exact inAll (by simp only [Bool.and_eq_true, decide_eq_true_eq] at h; simp [h])
theorem yield (core : Nat) (f : FmtT) (x2 : Nat) : Statement (.yield core f x2) := by
  change (decide (core < 16) && f.wf) = true → ∀ e ∈ ([(core, 16)] : List (Nat × Nat)), e.1 < e.2
  intro h
  exact inAll (by simp only [Bool.and_eq_true, decide_eq_true_eq] at h; simp [h])
theorem done (core : Nat) (f : FmtT) (x2 : Nat) : Statement (.done core f x2) := by
  change (decide (core < 16) && f.wf) = true → ∀ e ∈ ([(core, 16)] : List (Nat × Nat)), e.1 < e.2
  intro h
  exact inAll (by simp only [Bool.and_eq_true, decide_eq_true_eq] at h; simp [h])
theorem order (core : Nat) (f : FmtK) : Statement (.order core f) := by
  change (decide (core < 16) && f.wf) = true → ∀ e ∈ ([(core, 16)] : List (Nat × Nat)), e.1 < e.2
  intro h
  exact inAll (by simp only [Bool.and_eq_true, decide_eq_true_eq] at h; simp [h])
theorem rdcw (core : Nat) (f : FmtQ) : Statement (.rdcw core f) := by
  change (decide (core < 16) && f.wf) = true → ∀ e ∈ ([(core, 16)] : List (Nat × Nat)), e.1 < e.2
  intro h
  exact inAll (by simp only [Bool.and_eq_true, decide_eq_true_eq] at h; simp [h])
theorem wrcw (core : Nat) (f : FmtQ) : Statement (.wrcw core f) := by
  change (decide (core < 16) && f.wf) = true → ∀ e ∈ ([(core, 16)] : List (Nat × Nat)), e.1 < e.2
  intro h
  exact inAll (by simp only [Bool.and_eq_true, decide_eq_true_eq] at h; simp [h])
theorem back (core : Nat) (f : FmtQ) : Statement (.back core f) := by
  change (decide (core < 16) && f.wf) = true → ∀ e ∈ ([(core, 16)] : List (Nat × Nat)), e.1 < e.2
  intro h
  exact inAll (by simp only [Bool.and_eq_true, decide_eq_true_eq] at h; simp [h])
theorem doze (core : Nat) (f : FmtQ) : Statement (.doze core f) := by
  change (decide (core < 16) && f.wf) = true → ∀ e ∈ ([(core, 16)] : List (Nat × Nat)), e.1 < e.2
  intro h
  exact inAll (by simp only [Bool.and_eq_true, decide_eq_true_eq] at h; simp [h])
theorem ccMemoryResponse (core : Nat) (x1 : Nat) (x2 : Nat) (x3 : DeepObs) : Statement (.ccMemoryResponse core x1 x2 x3) := by
  change (decide (core < 16)) = true → ∀ e ∈ ([(core, 16)] : List (Nat × Nat)), e.1 < e.2
  intro h
  exact inAll (by simp only [decide_eq_true_eq] at h; simp [h])
theorem sliceExpire (core : Nat) : Statement (.sliceExpire core) := by
  change (decide (core < 16)) = true → ∀ e ∈ ([(core, 16)] : List (Nat × Nat)), e.1 < e.2
  intro h
  exact inAll (by simp only [decide_eq_true_eq] at h; simp [h])
theorem sleepEntry (core : Nat) : Statement (.sleepEntry core) := by
  change (decide (core < 16)) = true → ∀ e ∈ ([(core, 16)] : List (Nat × Nat)), e.1 < e.2
  intro h
  exact inAll (by simp only [decide_eq_true_eq] at h; simp [h])
theorem coreWakeDone (core : Nat) : Statement (.coreWakeDone core) := by
  change (decide (core < 16)) = true → ∀ e ∈ ([(core, 16)] : List (Nat × Nat)), e.1 < e.2
  intro h
  exact inAll (by simp only [decide_eq_true_eq] at h; simp [h])
theorem ccCtrlWake (core : Nat) : Statement (.ccCtrlWake core) := by
  change (decide (core < 16)) = true → ∀ e ∈ ([(core, 16)] : List (Nat × Nat)), e.1 < e.2
  intro h
  exact inAll (by simp only [decide_eq_true_eq] at h; simp [h])
theorem ccEnableWrite (core : Nat) (x1 : Bool) : Statement (.ccEnableWrite core x1) := by
  change (decide (core < 16)) = true → ∀ e ∈ ([(core, 16)] : List (Nat × Nat)), e.1 < e.2
  intro h
  exact inAll (by simp only [decide_eq_true_eq] at h; simp [h])
theorem ccDomWrite (dom : Nat) (w : DomWrite) : Statement (.ccDomWrite dom w) := by
  change (decide (dom < 64) && w.wf) = true → ∀ e ∈ ([(dom, 64)] : List (Nat × Nat)), e.1 < e.2
  intro h
  exact inAll (by simp only [Bool.and_eq_true, decide_eq_true_eq] at h; simp [h])
theorem taskDispatch (core : Nat) : Statement (.taskDispatch core) := by
  change (decide (core < 16)) = true → ∀ e ∈ ([(core, 16)] : List (Nat × Nat)), e.1 < e.2
  intro h
  exact inAll (by simp only [decide_eq_true_eq] at h; simp [h])
theorem bivouacLoadDone (core : Nat) : Statement (.bivouacLoadDone core) := by
  change (decide (core < 16)) = true → ∀ e ∈ ([(core, 16)] : List (Nat × Nat)), e.1 < e.2
  intro h
  exact inAll (by simp only [decide_eq_true_eq] at h; simp [h])
theorem taskArm : Statement (.taskArm) := fun _ _ h => nomatch h
theorem taskCancel (x0 : Nat) : Statement (.taskCancel x0) := fun _ _ h => nomatch h
theorem taskFree : Statement (.taskFree) := fun _ _ h => nomatch h
theorem tsTaskFlagsWrite (x0 : Word) : Statement (.tsTaskFlagsWrite x0) := fun _ _ h => nomatch h
theorem chEnable (chan : Nat) (x1 : Nat) : Statement (.chEnable chan x1) := by
  change (decide (chan < 256)) = true → ∀ e ∈ ([(chan, 256)] : List (Nat × Nat)), e.1 < e.2
  intro h
  exact inAll (by simp only [decide_eq_true_eq] at h; simp [h])
theorem chQuiesce (chan : Nat) : Statement (.chQuiesce chan) := by
  change (decide (chan < 256)) = true → ∀ e ∈ ([(chan, 256)] : List (Nat × Nat)), e.1 < e.2
  intro h
  exact inAll (by simp only [decide_eq_true_eq] at h; simp [h])
theorem channelQuiesced (chan : Nat) : Statement (.channelQuiesced chan) := by
  change (decide (chan < 256)) = true → ∀ e ∈ ([(chan, 256)] : List (Nat × Nat)), e.1 < e.2
  intro h
  exact inAll (by simp only [decide_eq_true_eq] at h; simp [h])
theorem chDisable (chan : Nat) : Statement (.chDisable chan) := by
  change (decide (chan < 256)) = true → ∀ e ∈ ([(chan, 256)] : List (Nat × Nat)), e.1 < e.2
  intro h
  exact inAll (by simp only [decide_eq_true_eq] at h; simp [h])
theorem channelDoorbell (chan : Nat) (x1 : BitVec 32) (x2 : Bool) (x3 : Nat) : Statement (.channelDoorbell chan x1 x2 x3) := by
  change (decide (chan < 256)) = true → ∀ e ∈ ([(chan, 256)] : List (Nat × Nat)), e.1 < e.2
  intro h
  exact inAll (by simp only [decide_eq_true_eq] at h; simp [h])
theorem inboundSlotFetched (chan : Nat) (x1 : List Byte) (x2 : Nat) : Statement (.inboundSlotFetched chan x1 x2) := by
  change (decide (chan < 256)) = true → ∀ e ∈ ([(chan, 256)] : List (Nat × Nat)), e.1 < e.2
  intro h
  exact inAll (by simp only [decide_eq_true_eq] at h; simp [h])
theorem dataMessage (chan : Nat) (x1 : List Byte) (x2 : Nat) : Statement (.dataMessage chan x1 x2) := by
  change (decide (chan < 256)) = true → ∀ e ∈ ([(chan, 256)] : List (Nat × Nat)), e.1 < e.2
  intro h
  exact inAll (by simp only [decide_eq_true_eq] at h; simp [h])
theorem creditMessage (chan : Nat) (x1 : List Byte) (x2 : Nat) : Statement (.creditMessage chan x1 x2) := by
  change (decide (chan < 256)) = true → ∀ e ∈ ([(chan, 256)] : List (Nat × Nat)), e.1 < e.2
  intro h
  exact inAll (by simp only [decide_eq_true_eq] at h; simp [h])
theorem outboundCopyDone (chan : Nat) : Statement (.outboundCopyDone chan) := by
  change (decide (chan < 256)) = true → ∀ e ∈ ([(chan, 256)] : List (Nat × Nat)), e.1 < e.2
  intro h
  exact inAll (by simp only [decide_eq_true_eq] at h; simp [h])
theorem mirrorBusError (chan : Nat) (x1 : Bool) (x2 : Nat) (seq : Nat) : Statement (.mirrorBusError chan x1 x2 seq) := by
  change (decide (chan < 256) && fits 8 seq) = true → ∀ e ∈ ([(chan, 256)] : List (Nat × Nat)), e.1 < e.2
  intro h
  exact inAll (by simp only [Bool.and_eq_true, decide_eq_true_eq] at h; simp [h])
theorem channelTimeout (chan : Nat) (x1 : Bool) (x2 : Nat) : Statement (.channelTimeout chan x1 x2) := by
  change (decide (chan < 256)) = true → ∀ e ∈ ([(chan, 256)] : List (Nat × Nat)), e.1 < e.2
  intro h
  exact inAll (by simp only [decide_eq_true_eq] at h; simp [h])
theorem tsLogKeepWrite (camp : Nat) (keep : Nat) (x2 : Nat) : Statement (.tsLogKeepWrite camp keep x2) := by
  change (decide (camp < 64) && fits 40 keep) = true → ∀ e ∈ ([(camp, 64)] : List (Nat × Nat)), e.1 < e.2
  intro h
  exact inAll (by simp only [Bool.and_eq_true, decide_eq_true_eq] at h; simp [h])
theorem nocPacket (x0 : Nat) (x1 : Nat) (net : Nat) (injected : List NocPkt) : Statement (.nocPacket x0 x1 net injected) := by
  change (decide (net < 4) && injected.all NocPkt.wf) = true → ∀ e ∈ ([(net, 4)] : List (Nat × Nat)), e.1 < e.2
  intro h
  exact inAll (by simp only [Bool.and_eq_true, decide_eq_true_eq] at h; simp [h])
theorem criticalWindowEnd (x0 : Nat) : Statement (.criticalWindowEnd x0) := fun _ _ h => nomatch h
theorem fenceDoorbell (x0 : Nat) : Statement (.fenceDoorbell x0) := fun _ _ h => nomatch h
theorem fenceComplete (x0 : Nat) : Statement (.fenceComplete x0) := fun _ _ h => nomatch h
theorem domainOn (dom : Nat) : Statement (.domainOn dom) := by
  change (decide (dom < 80)) = true → ∀ e ∈ ([(dom, 80)] : List (Nat × Nat)), e.1 < e.2
  intro h
  exact inAll (by simp only [decide_eq_true_eq] at h; simp [h])
theorem domainOnStart (x0 : Nat) : Statement (.domainOnStart x0) := fun _ _ h => nomatch h
theorem domainOnDone (dom : Nat) : Statement (.domainOnDone dom) := by
  change (decide (dom < 80)) = true → ∀ e ∈ ([(dom, 80)] : List (Nat × Nat)), e.1 < e.2
  intro h
  exact inAll (by simp only [decide_eq_true_eq] at h; simp [h])
theorem domainOff (dom : Nat) (x1 : Bool) : Statement (.domainOff dom x1) := by
  change (decide (dom < 80)) = true → ∀ e ∈ ([(dom, 80)] : List (Nat × Nat)), e.1 < e.2
  intro h
  exact inAll (by simp only [decide_eq_true_eq] at h; simp [h])
theorem powerDownDrainDone (x0 : Nat) : Statement (.powerDownDrainDone x0) := fun _ _ h => nomatch h
theorem pdTimeout (x0 : Nat) : Statement (.pdTimeout x0) := fun _ _ h => nomatch h
theorem probePop (x0 : Nat) : Statement (.probePop x0) := fun _ _ h => nomatch h
theorem trainingRetry (port : Nat) : Statement (.trainingRetry port) := by
  change (decide (port < 6)) = true → ∀ e ∈ ([(port, 6)] : List (Nat × Nat)), e.1 < e.2
  intro h
  exact inAll (by simp only [decide_eq_true_eq] at h; simp [h])
theorem trainingStateTimeout (port : Nat) : Statement (.trainingStateTimeout port) := by
  change (decide (port < 6)) = true → ∀ e ∈ ([(port, 6)] : List (Nat × Nat)), e.1 < e.2
  intro h
  exact inAll (by simp only [decide_eq_true_eq] at h; simp [h])
theorem capabilityWord (port : Nat) (x1 : Nat) : Statement (.capabilityWord port x1) := by
  change (decide (port < 6)) = true → ∀ e ∈ ([(port, 6)] : List (Nat × Nat)), e.1 < e.2
  intro h
  exact inAll (by simp only [decide_eq_true_eq] at h; simp [h])
theorem trainingStateDone (port : Nat) (x1 : TrainObs) : Statement (.trainingStateDone port x1) := by
  change (decide (port < 6)) = true → ∀ e ∈ ([(port, 6)] : List (Nat × Nat)), e.1 < e.2
  intro h
  exact inAll (by simp only [decide_eq_true_eq] at h; simp [h])
theorem eqRequest (port : Nat) (tap : Nat) (op : Nat) (preset : Nat) : Statement (.eqRequest port tap op preset) := by
  change (decide (port < 6) && fits 2 tap && fits 2 op && fits 3 preset) = true → ∀ e ∈ ([(port, 6)] : List (Nat × Nat)), e.1 < e.2
  intro h
  exact inAll (by simp only [Bool.and_eq_true, decide_eq_true_eq] at h; simp [h])
theorem eqResponse (port : Nat) (x1 : Nat) (x2 : Nat) (x3 : Nat) : Statement (.eqResponse port x1 x2 x3) := by
  change (decide (port < 6)) = true → ∀ e ∈ ([(port, 6)] : List (Nat × Nat)), e.1 < e.2
  intro h
  exact inAll (by simp only [decide_eq_true_eq] at h; simp [h])
theorem flitReceive (port : Nat) (f : Flit) (x2 : FlitObs) : Statement (.flitReceive port f x2) := by
  change (decide (port < 6) && f.wf) = true → ∀ e ∈ ([(port, 6)] : List (Nat × Nat)), e.1 < e.2
  intro h
  exact inAll (by simp only [Bool.and_eq_true, decide_eq_true_eq] at h; simp [h])
theorem dataFlit (port : Nat) (d : DataPay) : Statement (.dataFlit port d) := by
  change (decide (port < 6) && d.wf) = true → ∀ e ∈ ([(port, 6)] : List (Nat × Nat)), e.1 < e.2
  intro h
  exact inAll (by simp only [Bool.and_eq_true, decide_eq_true_eq] at h; simp [h])
theorem replayTimeout (port : Nat) : Statement (.replayTimeout port) := by
  change (decide (port < 6)) = true → ∀ e ∈ ([(port, 6)] : List (Nat × Nat)), e.1 < e.2
  intro h
  exact inAll (by simp only [decide_eq_true_eq] at h; simp [h])
theorem retrain (port : Nat) (f : HnFields) : Statement (.retrain port f) := by
  change (decide (port < 6) && f.wf) = true → ∀ e ∈ ([(port, 6)] : List (Nat × Nat)), e.1 < e.2
  intro h
  exact inAll (by simp only [Bool.and_eq_true, decide_eq_true_eq] at h; simp [h])
theorem hnSpareCmd (port : Nat) (f : HnFields) : Statement (.hnSpareCmd port f) := by
  change (decide (port < 6) && f.wf) = true → ∀ e ∈ ([(port, 6)] : List (Nat × Nat)), e.1 < e.2
  intro h
  exact inAll (by simp only [Bool.and_eq_true, decide_eq_true_eq] at h; simp [h])
theorem exitIdle (port : Nat) (f : HnFields) : Statement (.exitIdle port f) := by
  change (decide (port < 6) && f.wf) = true → ∀ e ∈ ([(port, 6)] : List (Nat × Nat)), e.1 < e.2
  intro h
  exact inAll (by simp only [Bool.and_eq_true, decide_eq_true_eq] at h; simp [h])
theorem idleTimer (port : Nat) : Statement (.idleTimer port) := by
  change (decide (port < 6)) = true → ∀ e ∈ ([(port, 6)] : List (Nat × Nat)), e.1 < e.2
  intro h
  exact inAll (by simp only [decide_eq_true_eq] at h; simp [h])
theorem idleEnter (port : Nat) : Statement (.idleEnter port) := by
  change (decide (port < 6)) = true → ∀ e ∈ ([(port, 6)] : List (Nat × Nat)), e.1 < e.2
  intro h
  exact inAll (by simp only [decide_eq_true_eq] at h; simp [h])
theorem idleExitBurst (port : Nat) : Statement (.idleExitBurst port) := by
  change (decide (port < 6)) = true → ∀ e ∈ ([(port, 6)] : List (Nat × Nat)), e.1 < e.2
  intro h
  exact inAll (by simp only [decide_eq_true_eq] at h; simp [h])
theorem idleLockTimeout (port : Nat) : Statement (.idleLockTimeout port) := by
  change (decide (port < 6)) = true → ∀ e ∈ ([(port, 6)] : List (Nat × Nat)), e.1 < e.2
  intro h
  exact inAll (by simp only [decide_eq_true_eq] at h; simp [h])
theorem laneLockLoss (port : Nat) (lane : Nat) : Statement (.laneLockLoss port lane) := by
  change (decide (port < 6) && decide (lane < 9)) = true → ∀ e ∈ ([(port, 6), (lane, 9)] : List (Nat × Nat)), e.1 < e.2
  intro h
  exact inAll (by simp only [Bool.and_eq_true, decide_eq_true_eq] at h; simp [h])
theorem spareReq (port : Nat) (lane : Nat) : Statement (.spareReq port lane) := by
  change (decide (port < 6) && decide (lane < 9)) = true → ∀ e ∈ ([(port, 6), (lane, 9)] : List (Nat × Nat)), e.1 < e.2
  intro h
  exact inAll (by simp only [Bool.and_eq_true, decide_eq_true_eq] at h; simp [h])
theorem spareDone (port : Nat) (lane : Nat) : Statement (.spareDone port lane) := by
  change (decide (port < 6) && decide (lane < 9)) = true → ∀ e ∈ ([(port, 6), (lane, 9)] : List (Nat × Nat)), e.1 < e.2
  intro h
  exact inAll (by simp only [Bool.and_eq_true, decide_eq_true_eq] at h; simp [h])
theorem sparingTimeout (port : Nat) : Statement (.sparingTimeout port) := by
  change (decide (port < 6)) = true → ∀ e ∈ ([(port, 6)] : List (Nat × Nat)), e.1 < e.2
  intro h
  exact inAll (by simp only [decide_eq_true_eq] at h; simp [h])
theorem epoch (port : Nat) : Statement (.epoch port) := by
  change (decide (port < 6)) = true → ∀ e ∈ ([(port, 6)] : List (Nat × Nat)), e.1 < e.2
  intro h
  exact inAll (by simp only [decide_eq_true_eq] at h; simp [h])
theorem probe (port : Nat) (x1 : Nat) : Statement (.probe port x1) := by
  change (decide (port < 6)) = true → ∀ e ∈ ([(port, 6)] : List (Nat × Nat)), e.1 < e.2
  intro h
  exact inAll (by simp only [decide_eq_true_eq] at h; simp [h])
theorem echo (port : Nat) (x1 : Nat) (x2 : Nat) : Statement (.echo port x1 x2) := by
  change (decide (port < 6)) = true → ∀ e ∈ ([(port, 6)] : List (Nat × Nat)), e.1 < e.2
  intro h
  exact inAll (by simp only [decide_eq_true_eq] at h; simp [h])
theorem hello (port : Nat) (addr : Nat) (x2 : Bool) (peerPort : Nat) : Statement (.hello port addr x2 peerPort) := by
  change (decide (port < 6) && fits 8 addr && fits 3 peerPort) = true → ∀ e ∈ ([(port, 6)] : List (Nat × Nat)), e.1 < e.2
  intro h
  exact inAll (by simp only [Bool.and_eq_true, decide_eq_true_eq] at h; simp [h])
theorem helloTimer (port : Nat) : Statement (.helloTimer port) := by
  change (decide (port < 6)) = true → ∀ e ∈ ([(port, 6)] : List (Nat × Nat)), e.1 < e.2
  intro h
  exact inAll (by simp only [decide_eq_true_eq] at h; simp [h])
theorem fbIdWrite (addr : Nat) (x1 : Bool) : Statement (.fbIdWrite addr x1) := fun _ _ h => nomatch h
theorem loadPacket (port : Option Nat) (pkt : Packet) : Statement (.loadPacket port pkt) := fun _ _ h => nomatch h
theorem channelPacket (port : Option Nat) (pkt : Packet) (x2 : Nat) : Statement (.channelPacket port pkt x2) := fun _ _ h => nomatch h
theorem topo (port : Nat) (pkt : Packet) : Statement (.topo port pkt) := by
  change (decide (port < 6) && pkt.wf) = true → ∀ e ∈ ([(port, 6)] : List (Nat × Nat)), e.1 < e.2
  intro h
  exact inAll (by simp only [Bool.and_eq_true, decide_eq_true_eq] at h; simp [h])
theorem mgmt (port : Option Nat) (pkt : Packet) : Statement (.mgmt port pkt) := fun _ _ h => nomatch h
theorem topoTimer : Statement (.topoTimer) := fun _ _ h => nomatch h
theorem topoRecordExpire (x0 : Nat) : Statement (.topoRecordExpire x0) := fun _ _ h => nomatch h
theorem routeCompute : Statement (.routeCompute) := fun _ _ h => nomatch h
theorem fbActiveWrite (active : Nat) : Statement (.fbActiveWrite active) := by
  change (decide (active < 2)) = true → ∀ e ∈ ([(active, 2)] : List (Nat × Nat)), e.1 < e.2
  intro h
  exact inAll (by simp only [decide_eq_true_eq] at h; simp [h])
theorem routeHostWrite (x0 : Bool) : Statement (.routeHostWrite x0) := fun _ _ h => nomatch h
theorem linkLoss (port : Nat) : Statement (.linkLoss port) := by
  change (decide (port < 6)) = true → ∀ e ∈ ([(port, 6)] : List (Nat × Nat)), e.1 < e.2
  intro h
  exact inAll (by simp only [decide_eq_true_eq] at h; simp [h])
theorem sync (port : Nat) (x1 : Bool) (x2 : Nat) (x3 : Nat) (x4 : Nat) (x5 : Nat) : Statement (.sync port x1 x2 x3 x4 x5) := by
  change (decide (port < 6)) = true → ∀ e ∈ ([(port, 6)] : List (Nat × Nat)), e.1 < e.2
  intro h
  exact inAll (by simp only [decide_eq_true_eq] at h; simp [h])
theorem high (port : Nat) (x1 : Nat) : Statement (.high port x1) := by
  change (decide (port < 6)) = true → ∀ e ∈ ([(port, 6)] : List (Nat × Nat)), e.1 < e.2
  intro h
  exact inAll (by simp only [decide_eq_true_eq] at h; simp [h])
theorem syncTimer : Statement (.syncTimer) := fun _ _ h => nomatch h
theorem autoRootTimeout : Statement (.autoRootTimeout) := fun _ _ h => nomatch h
theorem tmRoot (x0 : TmFields) : Statement (.tmRoot x0) := fun _ _ h => nomatch h
theorem tmReset (x0 : TmFields) : Statement (.tmReset x0) := fun _ _ h => nomatch h
theorem tmLoad (x0 : TmFields) : Statement (.tmLoad x0) := fun _ _ h => nomatch h
theorem tmRateWrite (value : Nat) : Statement (.tmRateWrite value) := fun _ _ h => nomatch h
theorem tmDtIncHiWrite (camp : Nat) (x1 : Nat) : Statement (.tmDtIncHiWrite camp x1) := by
  change (decide (camp < 64)) = true → ∀ e ∈ ([(camp, 64)] : List (Nat × Nat)), e.1 < e.2
  intro h
  exact inAll (by simp only [decide_eq_true_eq] at h; simp [h])
theorem comparatorFire (k : Nat) : Statement (.comparatorFire k) := by
  change (decide (k < 16)) = true → ∀ e ∈ ([(k, 16)] : List (Nat × Nat)), e.1 < e.2
  intro h
  exact inAll (by simp only [decide_eq_true_eq] at h; simp [h])
theorem pulseWidthEnd (pin : Nat) : Statement (.pulseWidthEnd pin) := by
  change (decide (pin < 4)) = true → ∀ e ∈ ([(pin, 4)] : List (Nat × Nat)), e.1 < e.2
  intro h
  exact inAll (by simp only [decide_eq_true_eq] at h; simp [h])
theorem captureInputEdge (input : Nat) : Statement (.captureInputEdge input) := by
  change (decide (input < 2)) = true → ∀ e ∈ ([(input, 2)] : List (Nat × Nat)), e.1 < e.2
  intro h
  exact inAll (by simp only [decide_eq_true_eq] at h; simp [h])
theorem triggerInEdge : Statement (.triggerInEdge) := fun _ _ h => nomatch h
theorem conditionerWindowEnd (input : Nat) : Statement (.conditionerWindowEnd input) := by
  change (decide (input < 3)) = true → ∀ e ∈ ([(input, 3)] : List (Nat × Nat)), e.1 < e.2
  intro h
  exact inAll (by simp only [decide_eq_true_eq] at h; simp [h])
theorem inputStuck (input : Nat) : Statement (.inputStuck input) := by
  change (decide (input < 3)) = true → ∀ e ∈ ([(input, 3)] : List (Nat × Nat)), e.1 < e.2
  intro h
  exact inAll (by simp only [decide_eq_true_eq] at h; simp [h])
theorem acqArm (unit : Nat) (f : AcqFields) : Statement (.acqArm unit f) := by
  change (decide (unit < 4) && f.wf) = true → ∀ e ∈ ([(unit, 4)] : List (Nat × Nat)), e.1 < e.2
  intro h
  exact inAll (by simp only [Bool.and_eq_true, decide_eq_true_eq] at h; simp [h])
theorem acqStop (unit : Nat) (f : AcqFields) : Statement (.acqStop unit f) := by
  change (decide (unit < 4) && f.wf) = true → ∀ e ∈ ([(unit, 4)] : List (Nat × Nat)), e.1 < e.2
  intro h
  exact inAll (by simp only [Bool.and_eq_true, decide_eq_true_eq] at h; simp [h])
theorem acqForce (unit : Nat) (f : AcqFields) : Statement (.acqForce unit f) := by
  change (decide (unit < 4) && f.wf) = true → ∀ e ∈ ([(unit, 4)] : List (Nat × Nat)), e.1 < e.2
  intro h
  exact inAll (by simp only [Bool.and_eq_true, decide_eq_true_eq] at h; simp [h])
theorem decForce (dec : Nat) (format : Nat) (x2 : Bool) : Statement (.decForce dec format x2) := by
  change (decide (dec < 8) && fits 2 format) = true → ∀ e ∈ ([(dec, 8)] : List (Nat × Nat)), e.1 < e.2
  intro h
  exact inAll (by simp only [Bool.and_eq_true, decide_eq_true_eq] at h; simp [h])
theorem postCyclesEnd (unit : Nat) : Statement (.postCyclesEnd unit) := by
  change (decide (unit < 4)) = true → ∀ e ∈ ([(unit, 4)] : List (Nat × Nat)), e.1 < e.2
  intro h
  exact inAll (by simp only [decide_eq_true_eq] at h; simp [h])
theorem holdoffEnd (unit : Nat) : Statement (.holdoffEnd unit) := by
  change (decide (unit < 4)) = true → ∀ e ∈ ([(unit, 4)] : List (Nat × Nat)), e.1 < e.2
  intro h
  exact inAll (by simp only [decide_eq_true_eq] at h; simp [h])
theorem captureWriteDone (unit : Nat) : Statement (.captureWriteDone unit) := by
  change (decide (unit < 4)) = true → ∀ e ∈ ([(unit, 4)] : List (Nat × Nat)), e.1 < e.2
  intro h
  exact inAll (by simp only [decide_eq_true_eq] at h; simp [h])
theorem captureBusError (unit : Nat) : Statement (.captureBusError unit) := by
  change (decide (unit < 4)) = true → ∀ e ∈ ([(unit, 4)] : List (Nat × Nat)), e.1 < e.2
  intro h
  exact inAll (by simp only [decide_eq_true_eq] at h; simp [h])
theorem trigoutWidthEnd : Statement (.trigoutWidthEnd) := fun _ _ h => nomatch h
theorem trFlush : Statement (.trFlush) := fun _ _ h => nomatch h
theorem trRoute : Statement (.trRoute) := fun _ _ h => nomatch h
theorem clearFb : Statement (.clearFb) := fun _ _ h => nomatch h
theorem frameFlushTimer (core : Nat) : Statement (.frameFlushTimer core) := by
  change (decide (core < 16)) = true → ∀ e ∈ ([(core, 16)] : List (Nat × Nat)), e.1 < e.2
  intro h
  exact inAll (by simp only [decide_eq_true_eq] at h; simp [h])
theorem cairnTimer (core : Nat) : Statement (.cairnTimer core) := by
  change (decide (core < 16)) = true → ∀ e ∈ ([(core, 16)] : List (Nat × Nat)), e.1 < e.2
  intro h
  exact inAll (by simp only [decide_eq_true_eq] at h; simp [h])
theorem traceFrameWrite : Statement (.traceFrameWrite) := fun _ _ h => nomatch h
theorem traceBusError : Statement (.traceBusError) := fun _ _ h => nomatch h
theorem fallbackDrainDone : Statement (.fallbackDrainDone) := fun _ _ h => nomatch h
theorem tokenLoad (slot : Nat) : Statement (.tokenLoad slot) := by
  change (decide (slot < 8)) = true → ∀ e ∈ ([(slot, 8)] : List (Nat × Nat)), e.1 < e.2
  intro h
  exact inAll (by simp only [decide_eq_true_eq] at h; simp [h])
theorem tokenLoadDone (x0 : Bool) (x1 : List Byte) : Statement (.tokenLoadDone x0 x1) := fun _ _ h => nomatch h
theorem tokenRevoke (slot : Nat) : Statement (.tokenRevoke slot) := by
  change (decide (slot < 8)) = true → ∀ e ∈ ([(slot, 8)] : List (Nat × Nat)), e.1 < e.2
  intro h
  exact inAll (by simp only [decide_eq_true_eq] at h; simp [h])
theorem powerOn (x0 : Bool) : Statement (.powerOn x0) := fun _ _ h => nomatch h
theorem inputBrownout : Statement (.inputBrownout) := fun _ _ h => nomatch h
theorem inputOvervoltage : Statement (.inputOvervoltage) := fun _ _ h => nomatch h
theorem thermalShutdown : Statement (.thermalShutdown) := fun _ _ h => nomatch h
theorem powerControlInterval (x0 : PowerObs) : Statement (.powerControlInterval x0) := fun _ _ h => nomatch h
theorem romVerifyDone : Statement (.romVerifyDone) := fun _ _ h => nomatch h
theorem dramPhaseDone (x0 : List Nat) (x1 : List Nat) : Statement (.dramPhaseDone x0 x1) := fun _ _ h => nomatch h
theorem pinsPhaseDone (x0 : List (Option Nat)) : Statement (.pinsPhaseDone x0) := fun _ _ h => nomatch h
theorem recoveryStreamVerified : Statement (.recoveryStreamVerified) := fun _ _ h => nomatch h
theorem pwReset (f : PwFields) : Statement (.pwReset f) := fun _ _ h => nomatch h
theorem fwProgram (f : PwFields) : Statement (.fwProgram f) := fun _ _ h => nomatch h
theorem fwProgramDone (x0 : Bool) (x1 : List Byte) (x2 : Bool) : Statement (.fwProgramDone x0 x1 x2) := fun _ _ h => nomatch h
theorem refinLoss : Statement (.refinLoss) := fun _ _ h => nomatch h
theorem useIn (x0 : Bool) : Statement (.useIn x0) := fun _ _ h => nomatch h
theorem useLocal (x0 : Bool) : Statement (.useLocal x0) := fun _ _ h => nomatch h
theorem scrubRead (loc : ClusterSite) (x1 : Nat) (unit : Nat) (x3 : Nat) (x4 : Nat) : Statement (.scrubRead loc x1 unit x3 x4) := by
  change (loc.wf && decide (unit < 4)) = true → ∀ e ∈ ([(loc.die, 8), (loc.slot, 72), (unit, 4)] : List (Nat × Nat)), e.1 < e.2
  intro h
  exact inAll (by simp only [Bool.and_eq_true, decide_eq_true_eq, ClusterSite.wf] at h; simp [h])
theorem scrubGo (die : Nat) (x1 : Nat) (x2 : Nat) : Statement (.scrubGo die x1 x2) := by
  change (decide (die < 8)) = true → ∀ e ∈ ([(die, 8)] : List (Nat × Nat)), e.1 < e.2
  intro h
  exact inAll (by simp only [decide_eq_true_eq] at h; simp [h])
theorem scrubPassDone (die : Nat) : Statement (.scrubPassDone die) := by
  change (decide (die < 8)) = true → ∀ e ∈ ([(die, 8)] : List (Nat × Nat)), e.1 < e.2
  intro h
  exact inAll (by simp only [decide_eq_true_eq] at h; simp [h])
theorem supervisorCheck (x0 : List Nat) : Statement (.supervisorCheck x0) := fun _ _ h => nomatch h
theorem scrubReloadDone (die : Nat) : Statement (.scrubReloadDone die) := by
  change (decide (die < 8)) = true → ∀ e ∈ ([(die, 8)] : List (Nat × Nat)), e.1 < e.2
  intro h
  exact inAll (by simp only [decide_eq_true_eq] at h; simp [h])
theorem bist (x0 : Nat) (x1 : Nat) : Statement (.bist x0 x1) := fun _ _ h => nomatch h
theorem bistDone (x0 : List UnitId) (x1 : List (Nat × Nat × Nat)) : Statement (.bistDone x0 x1) := fun _ _ h => nomatch h
theorem flushWear (x0 : Nat) (x1 : Nat) : Statement (.flushWear x0 x1) := fun _ _ h => nomatch h
theorem wearFlushTimer : Statement (.wearFlushTimer) := fun _ _ h => nomatch h
theorem wearCompactDone : Statement (.wearCompactDone) := fun _ _ h => nomatch h
theorem hsPitchMapWrite (pitch : Nat) (spareCol : Nat) : Statement (.hsPitchMapWrite pitch spareCol) := by
  change (decide (pitch < 64) && fits 4 spareCol) = true → ∀ e ∈ ([(pitch, 64)] : List (Nat × Nat)), e.1 < e.2
  intro h
  exact inAll (by simp only [Bool.and_eq_true, decide_eq_true_eq] at h; simp [h])
theorem hsBpMapWrite (loc : ClusterSite) (spare0 : Nat) (spare1 : Nat) (x3 : Bool) : Statement (.hsBpMapWrite loc spare0 spare1 x3) := by
  change (loc.wf && fits 7 spare0 && fits 7 spare1) = true → ∀ e ∈ ([(loc.die, 8), (loc.slot, 72)] : List (Nat × Nat)), e.1 < e.2
  intro h
  exact inAll (by simp only [Bool.and_eq_true, decide_eq_true_eq, ClusterSite.wf] at h; simp [h])
theorem hsColMapWrite (loc : ClusterSite) (col0 : Nat) (col1 : Nat) : Statement (.hsColMapWrite loc col0 col1) := by
  change (loc.wf && fits 6 col0 && fits 6 col1) = true → ∀ e ∈ ([(loc.die, 8), (loc.slot, 72)] : List (Nat × Nat)), e.1 < e.2
  intro h
  exact inAll (by simp only [Bool.and_eq_true, decide_eq_true_eq, ClusterSite.wf] at h; simp [h])
theorem bar2Read (x0 : Nat) (x1 : Nat) (x2 : DeepObs) : Statement (.bar2Read x0 x1 x2) := fun _ _ h => nomatch h
theorem bar2Write (x0 : Nat) (x1 : List Byte) (x2 : DeepObs) : Statement (.bar2Write x0 x1 x2) := fun _ _ h => nomatch h
theorem barBadAccess (x0 : Nat) (x1 : Bool) : Statement (.barBadAccess x0 x1) := fun _ _ h => nomatch h
theorem msixUnmask (vector : Nat) : Statement (.msixUnmask vector) := by
  change (decide (vector < 256)) = true → ∀ e ∈ ([(vector, 256)] : List (Nat × Nat)), e.1 < e.2
  intro h
  exact inAll (by simp only [decide_eq_true_eq] at h; simp [h])
theorem pcieReset : Statement (.pcieReset) := fun _ _ h => nomatch h
theorem hiChVecWrite (chan : Nat) (vec : Nat) : Statement (.hiChVecWrite chan vec) := by
  change (decide (chan < 256) && decide (vec < 256)) = true → ∀ e ∈ ([(chan, 256), (vec, 256)] : List (Nat × Nat)), e.1 < e.2
  intro h
  exact inAll (by simp only [Bool.and_eq_true, decide_eq_true_eq] at h; simp [h])
theorem rcRead (x0 : RegSpace) (x1 : Bool) : Statement (.rcRead x0 x1) := fun _ _ h => nomatch h
theorem holdingRegisterRead (x0 : Nat) : Statement (.holdingRegisterRead x0) := fun _ _ h => nomatch h
theorem runCampCycleLoRead (camp : Nat) (x1 : Bool) : Statement (.runCampCycleLoRead camp x1) := by
  change (decide (camp < 64)) = true → ∀ e ∈ ([(camp, 64)] : List (Nat × Nat)), e.1 < e.2
  intro h
  exact inAll (by simp only [decide_eq_true_eq] at h; simp [h])
theorem tsLogPosLoRead (camp : Nat) (x1 : Bool) : Statement (.tsLogPosLoRead camp x1) := by
  change (decide (camp < 64)) = true → ∀ e ∈ ([(camp, 64)] : List (Nat × Nat)), e.1 < e.2
  intro h
  exact inAll (by simp only [decide_eq_true_eq] at h; simp [h])
theorem tmNowFracRead (x0 : Bool) : Statement (.tmNowFracRead x0) := fun _ _ h => nomatch h
theorem tmDtFracRead (camp : Nat) (x1 : Bool) : Statement (.tmDtFracRead camp x1) := by
  change (decide (camp < 64)) = true → ∀ e ∈ ([(camp, 64)] : List (Nat × Nat)), e.1 < e.2
  intro h
  exact inAll (by simp only [decide_eq_true_eq] at h; simp [h])
theorem tmCapFracRead (input : Nat) (x1 : Bool) : Statement (.tmCapFracRead input x1) := by
  change (decide (input < 2)) = true → ∀ e ∈ ([(input, 2)] : List (Nat × Nat)), e.1 < e.2
  intro h
  exact inAll (by simp only [decide_eq_true_eq] at h; simp [h])
theorem trFbDataRead (x0 : Bool) : Statement (.trFbDataRead x0) := fun _ _ h => nomatch h
theorem idKeyDataRead (x0 : Bool) : Statement (.idKeyDataRead x0) := fun _ _ h => nomatch h
theorem registerWrite (x0 : RegSpace) (x1 : Bool) (x2 : Nat) (x3 : WriteObs) : Statement (.registerWrite x0 x1 x2 x3) := fun _ _ h => nomatch h
theorem testLogicReset : Statement (.testLogicReset) := fun _ _ h => nomatch h
theorem extest (x0 : List Bool) : Statement (.extest x0) := fun _ _ h => nomatch h
theorem samplePreload (x0 : List Bool) (x1 : List Bool) : Statement (.samplePreload x0 x1) := fun _ _ h => nomatch h
theorem idcode : Statement (.idcode) := fun _ _ h => nomatch h
theorem clamp : Statement (.clamp) := fun _ _ h => nomatch h
theorem highz : Statement (.highz) := fun _ _ h => nomatch h
theorem regAccess (x0 : Nat) (x1 : WriteObs) : Statement (.regAccess x0 x1) := fun _ _ h => nomatch h
theorem loadStream (x0 : Nat) : Statement (.loadStream x0) := fun _ _ h => nomatch h
theorem moduleReset : Statement (.moduleReset) := fun _ _ h => nomatch h
theorem bypass : Statement (.bypass) := fun _ _ h => nomatch h
theorem smbPhase : Statement (.smbPhase) := fun _ _ h => nomatch h
theorem smbVin : Statement (.smbVin) := fun _ _ h => nomatch h
theorem smbIin : Statement (.smbIin) := fun _ _ h => nomatch h
theorem smbPin : Statement (.smbPin) := fun _ _ h => nomatch h
theorem smbTemp : Statement (.smbTemp) := fun _ _ h => nomatch h
theorem smbIdent : Statement (.smbIdent) := fun _ _ h => nomatch h
theorem smbAlarm : Statement (.smbAlarm) := fun _ _ h => nomatch h
theorem smbDomains : Statement (.smbDomains) := fun _ _ h => nomatch h
theorem smbReset (x0 : Nat) : Statement (.smbReset x0) := fun _ _ h => nomatch h
theorem hostif (x0 : Nat) : Statement (.hostif x0) := fun _ _ h => nomatch h
theorem inputRecovery : Statement (.inputRecovery) := fun _ _ h => nomatch h
theorem thermalCooldown : Statement (.thermalCooldown) := fun _ _ h => nomatch h
theorem inputPowerRemoved : Statement (.inputPowerRemoved) := fun _ _ h => nomatch h
theorem refinReturn : Statement (.refinReturn) := fun _ _ h => nomatch h
theorem mr4TemperatureChange (chan : Nat) (x1 : Bool) : Statement (.mr4TemperatureChange chan x1) := by
  change (decide (chan < 8)) = true → ∀ e ∈ ([(chan, 8)] : List (Nat × Nat)), e.1 < e.2
  intro h
  exact inAll (by simp only [decide_eq_true_eq] at h; simp [h])
theorem inputLevelChange (input : Nat) (x1 : Bool) (x2 : Bool) : Statement (.inputLevelChange input x1 x2) := by
  change (decide (input < 3)) = true → ∀ e ∈ ([(input, 3)] : List (Nat × Nat)), e.1 < e.2
  intro h
  exact inAll (by simp only [decide_eq_true_eq] at h; simp [h])
theorem stuckMaskRelease (input : Nat) : Statement (.stuckMaskRelease input) := by
  change (decide (input < 3)) = true → ∀ e ∈ ([(input, 3)] : List (Nat × Nat)), e.1 < e.2
  intro h
  exact inAll (by simp only [decide_eq_true_eq] at h; simp [h])

end Laws.Operands

end Sys2Proof
end

