-- ==== Sys2Proof/Machine/CoreWord.lean ====
section
/-! DEFINITION. The instruction words of the channel cores (R411 to R414): the command that a word in memory stands for. -/

namespace Sys2Proof.Machine

/-- The fields of a word in T format (R412). -/
def wordT (w : Word) : FmtT :=
  let f := bitsOf w.toNat
  ⟨f 29 5, f 24 5, f 19 5, f 16 3, f 0 16⟩

/-- The fields of a word in K format. -/
def wordK (w : Word) : FmtK := ⟨bitsOf w.toNat 29 5, bitsOf w.toNat 24 5, w.truncate 24⟩

/-- The fields of a word in P format. -/
def wordP (w : Word) : FmtP := ⟨bitsOf w.toNat 29 5, bitsOf w.toNat 24 5, w.truncate 24⟩

/-- The fields of a word in Q format. -/
def wordQ (w : Word) : FmtQ :=
  let f := bitsOf w.toNat
  ⟨f 29 5, f 24 5, f 12 8, f 0 12⟩

/-- The command of an instruction word on core `k` (R412, R414), by its OP in [39:34] and, for CTL, its FN; none for a reserved one. What a write of the word's instruction meets outside the core stands in `obs`. DEDUCED (log 102), safe. -/
def coreCommand (k : Nat) (w : Word) (obs : WriteObs) : Option Instr :=
  match bitsOf w.toNat 34 6 with
  | 0x01 => some (.add k (wordT w))
  | 0x02 => some (.sub k (wordT w))
  | 0x03 => some (.and k (wordT w))
  | 0x04 => some (.or k (wordT w))
  | 0x05 => some (.xor k (wordT w))
  | 0x06 => some (.shl k (wordT w))
  | 0x07 => some (.shr k (wordT w))
  | 0x08 => some (.sar k (wordT w))
  | 0x09 => some (.cmp k (wordT w))
  | 0x0A => some (.mullo k (wordT w))
  | 0x0B => some (.mulhiu k (wordT w))
  | 0x10 => some (.addi k (wordK w))
  | 0x11 => some (.andi k (wordK w))
  | 0x12 => some (.ori k (wordK w))
  | 0x13 => some (.xori k (wordK w))
  | 0x14 => some (.shli k (wordK w))
  | 0x15 => some (.shri k (wordK w))
  | 0x16 => some (.sari k (wordK w))
  | 0x17 => some (.cmpiLt k (wordK w))
  | 0x18 => some (.cmpiLo k (wordK w))
  | 0x19 => some (.orh k (wordK w))
  | 0x20 => some (.ld8 k (wordK w))
  | 0x21 => some (.ld16 k (wordK w))
  | 0x22 => some (.ld32 k (wordK w))
  | 0x23 => some (.lds k (wordK w))
  | 0x24 => some (.st8 k (wordK w))
  | 0x25 => some (.st16 k (wordK w))
  | 0x26 => some (.st32 k (wordK w))
  | 0x27 => some (.sts k (wordK w) obs)
  | 0x28 => some (.aswap k (wordT w))
  | 0x29 => some (.aadd k (wordT w))
  | 0x2C => some (.call k (wordP w))
  | 0x2D => some (.callr k (wordK w))
  | 0x2E => some (.gate k (wordK w))
  | 0x2F => some (.codesync k (wordT w))
  | 0x30 => some (.brEq k (wordP w))
  | 0x31 => some (.brNe k (wordP w))
  | 0x32 => some (.brLt k (wordP w))
  | 0x33 => some (.brGe k (wordP w))
  | 0x34 => some (.brLo k (wordP w))
  | 0x35 => some (.brHs k (wordP w))
  | 0x36 => some (.brBs k (wordP w))
  | 0x37 => some (.brBc k (wordP w))
  | 0x38 => some (.csend k (wordT w) obs.frozen)
  | 0x39 => some (.crecv k (wordT w) obs.frozen)
  | 0x3A => some (.cwait k (wordT w) obs.frozen)
  | 0x3B => some (.evset k (wordT w))
  | 0x3C => some (.yield k (wordT w) obs.frozen)
  | 0x3D => some (.done k (wordT w) obs.frozen)
  | 0x3E => some (.order k (wordK w))
  | 0x3F => match bitsOf w.toNat 20 4 with
    | 0 => some (.rdcw k (wordQ w))
    | 1 => some (.wrcw k (wordQ w))
    | 2 => some (.back k (wordQ w))
    | 3 => some (.doze k (wordQ w))
    | _ => none
  | _ => none

/-- The instruction word of a slot (R411): bits [39:0]; bits [63:40] are ignored. -/
def slotWord (bs : List Byte) : Word := BitVec.ofNat 40 (leNat (bs.take 8))

/-- The command that stands in memory at a core's program counter (R411). -/
def State.nextCommand (s : State) (k : Nat) (obs : WriteObs) : Option Instr := coreCommand k (slotWord (s.deepRead (s.core k).pc 8)) obs

end Sys2Proof.Machine
end

