-- ==== Sys2Proof/Machine/Protect.lean ====
section
/-! DEFINITION. What the memory-protection engine stores beside the plaintext that State holds: a line's ciphertext and MAC (R380, R381), the nodes of the counter tree with their MACs, and the metadata area (R383, R384). -/

namespace Sys2Proof.Machine

/-- The keys of a key ID. -/
def State.keySet (s : State) (k : Nat) : Keys := tget ⟨[], [], 0, 0⟩ s.keys.keys k

/-- A drawn key of 256 bits (R376). -/
def drawnKey (draw : Nat) : List Byte := (List.range 32).map (Config.drbg draw)

/-- A line as its devices hold it (R372, R380): encrypted in an owned page, plain in any other. A line that failed its check holds something else. -/
def State.lineCipher (s : State) (l : Nat) : List Byte :=
  let plain := s.deepRead (64 * l) 64
  let k := s.pageOwner (l / 64)
  if k = 0 then plain else sealLine (s.keySet k).data l (tget 0 s.deep.minors l) (tget 0 s.deep.majors (l / 64)) plain

/-- The MAC of a line of an owned page (R381): line index, key ID, major and minor counter, ciphertext. -/
def State.lineMac (s : State) (l : Nat) : List Byte :=
  let k := s.pageOwner (l / 64)
  (cmac (drawnKey (s.keySet k).mac)
    (leBytes l 4 ++ leBytes k 1 ++ leBytes (tget 0 s.deep.majors (l / 64)) 8 ++ leBytes (tget 0 s.deep.minors l) 1 ++ s.lineCipher l)).take 7

/-- The counters of a node (R384): a leaf's major counter and 64 minor ones, or the counters of a node's 8 children. -/
def State.nodeCounters (s : State) (n : Node) : Nat :=
  if n.level = 0 then tget 0 s.deep.majors n.idx + ((List.range 64).map fun j => tget 0 s.deep.minors (64 * n.idx + j) * 2 ^ (64 + 7 * j)).sum
  else ((List.range 8).map fun c => tget 0 s.deep.nodeCtr ⟨n.level - 1, 8 * n.idx + c⟩ * 2 ^ (56 * c)).sum

/-- The MAC of a node under the tree key (R384): node index, level, its counter in its parent, its 64 bytes with the own-MAC field zero. -/
def State.nodeMac (s : State) (n : Node) : List Byte :=
  (cmac (drawnKey s.keys.tree) (leBytes n.idx 4 ++ leBytes n.level 1 ++ leBytes (tget 0 s.deep.nodeCtr n) 7 ++ leBytes (s.nodeCounters n) 64)).take 7

/-- A node's 64 bytes (R384): a node of levels 1 to 6 carries its own MAC. -/
def State.nodeBytes (s : State) (n : Node) : List Byte :=
  leBytes (s.nodeCounters n + (if n.level = 0 then 0 else 2 ^ 448 * leNat (s.nodeMac n))) 64

/-- The counters of the root (R383): one for each level-6 node. -/
def State.rootCounters (s : State) : List Nat := (List.range 220).map fun i => tget 0 s.deep.nodeCtr ⟨6, i⟩

/-- The node whose 64 bytes hold a byte of the metadata area; none among the MAC slots. -/
def nodeOf (o : Nat) : Option Node :=
  (List.range 7).reverse.findSome? fun lv =>
    let base := nodeAddr ⟨lv, 0⟩ - dataEnd
    let next := if lv = 0 then 0x7BC000000 else if lv = 6 then 0x7F6EDAF00 else nodeAddr ⟨lv + 1, 0⟩ - dataEnd
    if base ≤ o ∧ o < next then some ⟨lv, (o - base) / 64⟩ else none

/-- A byte of the metadata area (R383), by its offset, as the engine and its cache hold it; the MAC slot of a line that no key owns is free. DEDUCED (log 94), unsafe. -/
def State.metaByte (s : State) (o : Nat) : Byte :=
  if o < 0x6E0000000 then
    if s.pageOwner (o / 8 / 64) = 0 then Config.sealedByte s.keys.tree (dataEnd + o) else (s.lineMac (o / 8) ++ [0]).getD (o % 8) 0
  else if 0x7BC000000 ≤ o ∧ o < 0x7D7800000 then (s.nodeMac ⟨0, (o - 0x7BC000000) / 8⟩ ++ [0]).getD (o % 8) 0
  else match nodeOf o with
    | some n => (s.nodeBytes n).getD (o % 64) 0
    | none => 0

end Sys2Proof.Machine
end

