-- ==== Sys2Proof/Tests/Slice0.lean ====
section
/-! SUPPORT. Tests: what `Instr.wf` refuses, the manual's worked examples, and for every obligation with hypotheses a state and operands that meet them. -/

namespace Sys2Proof

set_option Elab.async false

/-! ## Ill-formed terms, one for each check -/

theorem test_wf_sites : (⟨8, 0⟩ : ClusterSite).wf = false ∧ (⟨0, 72⟩ : ClusterSite).wf = false ∧ (⟨7, 71⟩ : ClusterSite).wf = true ∧
    (⟨8, 0, 0⟩ : BpSite).wf = false ∧ (⟨0, 72, 0⟩ : BpSite).wf = false ∧ (⟨0, 0, 64⟩ : BpSite).wf = false ∧ (⟨7, 71, 63⟩ : BpSite).wf = true := by decide

theorem test_wf_bp_fields : (⟨4, true, 0, true, 0, 0, 0, 0, 0, 0⟩ : BpFields).wf = false ∧ (⟨0, true, 16, true, 0, 0, 0, 0, 0, 0⟩ : BpFields).wf = false ∧
    (⟨0, true, 0, true, 16, 0, 0, 0, 0, 0⟩ : BpFields).wf = false ∧ (⟨0, true, 0, true, 0, 0, 4096, 0, 0, 0⟩ : BpFields).wf = false ∧
    (⟨0, true, 0, true, 0, 0, 0, 4096, 0, 0⟩ : BpFields).wf = false ∧ (⟨0, true, 0, true, 0, 0, 0, 0, 4096, 0⟩ : BpFields).wf = false ∧
    (⟨0, true, 0, true, 0, 0, 0, 0, 0, 4096⟩ : BpFields).wf = false ∧ (⟨3, true, 15, true, 15, 0xFFFF, 4095, 4095, 4095, 4095⟩ : BpFields).wf = true := by decide

theorem test_wf_wu_fields : (⟨16, true, 0, 0, 0, true, 0, 0⟩ : WuFields).wf = false ∧ (⟨0, true, 16, 0, 0, true, 0, 0⟩ : WuFields).wf = false ∧
    (⟨0, true, 0, 16, 0, true, 0, 0⟩ : WuFields).wf = false ∧ (⟨0, true, 0, 0, 16, true, 0, 0⟩ : WuFields).wf = false ∧
    (⟨15, true, 15, 15, 15, true, 0, 0⟩ : WuFields).wf = true := by decide

theorem test_wf_run_and_fifo : (⟨true, true, 2 ^ 24⟩ : RunFields).wf = false ∧ (⟨10, 0, 0⟩ : FifoId).wf = false ∧ (⟨0, 16, 0⟩ : FifoId).wf = false ∧
    (⟨0, 0, 256⟩ : FifoId).wf = false ∧ (⟨9, 15, 255⟩ : FifoId).wf = true := by decide

theorem test_wf_messages : (Pos.step 4096).wf = false ∧ (Pos.bnd 16).wf = false ∧ (⟨0, 16, 0, none, 0⟩ : Stall).wf = false ∧ (⟨0, 0, 256, none, 0⟩ : Stall).wf = false ∧
    (⟨0, 0, 0, some (0, .bnd 16), 0⟩ : Stall).wf = false ∧ (⟨0, 0, 0, none, 256⟩ : Stall).wf = false ∧
    (⟨256, 0, true, 0, none⟩ : BoundaryMsg).wf = false ∧ (⟨0, 0, true, 8192, none⟩ : BoundaryMsg).wf = false := by decide

theorem test_wf_core_formats : (⟨32, 0, 0, 0, 0⟩ : FmtT).wf = false ∧ (⟨0, 32, 0, 0, 0⟩ : FmtT).wf = false ∧ (⟨0, 0, 32, 0, 0⟩ : FmtT).wf = false ∧
    (⟨0, 0, 0, 8, 0⟩ : FmtT).wf = false ∧ (⟨0, 0, 0, 0, 65536⟩ : FmtT).wf = false ∧ (⟨32, 0, 0⟩ : FmtK).wf = false ∧ (⟨0, 32, 0⟩ : FmtK).wf = false ∧
    (⟨32, 0, 0⟩ : FmtP).wf = false ∧ (⟨0, 32, 0⟩ : FmtP).wf = false ∧ (⟨32, 0, 0, 0⟩ : FmtQ).wf = false ∧ (⟨0, 32, 0, 0⟩ : FmtQ).wf = false ∧
    (⟨0, 0, 256, 0⟩ : FmtQ).wf = false ∧ (⟨0, 0, 0, 4096⟩ : FmtQ).wf = false := by decide

theorem test_wf_register_writes : (RangeWrite.base (2 ^ 26) 0 true).wf = false ∧ (RangeWrite.base 0 256 true).wf = false ∧ (RangeWrite.size (2 ^ 26)).wf = false ∧
    (DomWrite.cfg 4 0 0 true).wf = false ∧ (DomWrite.cfg 0 256 0 true).wf = false ∧ (DomWrite.cfg 0 0 65536 true).wf = false ∧
    (DomWrite.base 4 0 true true true).wf = false ∧ (DomWrite.base 0 (2 ^ 26) true true true).wf = false ∧ (DomWrite.size 4 0).wf = false ∧
    (DomWrite.size 0 (2 ^ 26)).wf = false ∧ (⟨true, true, 16, 0⟩ : AcqFields).wf = false ∧ (⟨true, true, 0, 16⟩ : AcqFields).wf = false ∧
    (⟨true, 4, true, 0, true, 0⟩ : HnFields).wf = false ∧ (⟨true, 0, true, 8, true, 0⟩ : HnFields).wf = false ∧ (⟨true, 0, true, 0, true, 256⟩ : HnFields).wf = false ∧
    (⟨2 ^ 14, 0, 0⟩ : PwFields).wf = false ∧ (⟨0, 1024, 0⟩ : PwFields).wf = false ∧ (⟨0, 0, 128⟩ : PwFields).wf = false := by decide

theorem test_wf_packets : (⟨128, 0, 0, 0, 0, true, .commit⟩ : Packet).wf = false ∧ (⟨255, 0, 0, 0, 0, true, .commit⟩ : Packet).wf = true ∧
    (⟨0, 256, 0, 0, 0, true, .commit⟩ : Packet).wf = false ∧ (⟨0, 0, 16, 0, 0, true, .commit⟩ : Packet).wf = false ∧
    (⟨0, 0, 0, 256, 0, true, .commit⟩ : Packet).wf = false ∧ (⟨0, 0, 0, 0, 65536, true, .commit⟩ : Packet).wf = false ∧
    (⟨16, 0, 0, true, 0, .empty⟩ : Flit).wf = false ∧ (⟨0, 4096, 0, true, 0, .empty⟩ : Flit).wf = false ∧ (⟨0, 0, 4096, true, 0, .empty⟩ : Flit).wf = false ∧
    (⟨0, 0, 0, true, 2 ^ 64, .empty⟩ : Flit).wf = false ∧ (⟨65536, 0, 0, 0, [(true, true)]⟩ : DataPay).wf = false ∧ (⟨0, 0, 0, 0, []⟩ : DataPay).wf = false ∧
    (⟨0, 256, 0, 1, none, true⟩ : DeepReq).wf = false ∧ (⟨0, 0, 2 ^ 38, 1, none, true⟩ : DeepReq).wf = false ∧
    (⟨4, 0, 0, 0, 0, 0, 0, 0, 0, true, 0⟩ : NocPkt).wf = false ∧ (⟨0, 0, 0, 0, 0, 0, 0, 256, 0, true, 0⟩ : NocPkt).wf = false ∧
    (⟨0, 0, 0, 0, 0, 0, 0, 0, 2 ^ 38, true, 0⟩ : NocPkt).wf = false ∧ (⟨256, 0, 0, 0, 0, 0⟩ : PlaceEntry).wf = false ∧
    (⟨0, 64, 0, 0, 0, 0⟩ : PlaceEntry).wf = false ∧ (⟨0, 0, 2 ^ 64, 0, 0, 0⟩ : PlaceEntry).wf = false ∧ (⟨0, 0, 0, 2 ^ 26, 0, 0⟩ : PlaceEntry).wf = false ∧
    (⟨0, 0, 0, 0, 2 ^ 26, 0⟩ : PlaceEntry).wf = false := by decide

theorem test_wf_indices : (Instr.unloadDone 64).wf = false ∧ (Instr.bankGrant ⟨0, 0⟩ 8).wf = false ∧ (Instr.wakeClearEnd 64).wf = false ∧
    (Instr.dcTagWrite 0 16 1 1 true).wf = false ∧ (Instr.epochLimit 6).wf = false ∧ (Instr.done 16 ⟨0, 0, 0, 0, 0⟩ 0).wf = false ∧
    (Instr.chQuiesce 256).wf = false ∧ (Instr.domainOn 80).wf = false ∧ (Instr.laneLockLoss 0 9).wf = false ∧ (Instr.fbActiveWrite 2).wf = false ∧
    (Instr.pulseWidthEnd 4).wf = false ∧ (Instr.captureInputEdge 2).wf = false ∧ (Instr.conditionerWindowEnd 3).wf = false ∧
    (Instr.holdoffEnd 4).wf = false ∧ (Instr.decForce 8 0 true).wf = false ∧ (Instr.decForce 0 4 true).wf = false ∧ (Instr.tokenLoad 8).wf = false ∧
    (Instr.msixUnmask 256).wf = false ∧ (Instr.hiChVecWrite 0 256).wf = false ∧ (Instr.unloadDone 63).wf = true := by decide

theorem test_wf_values : (Instr.tmRateWrite (2 ^ 36)).wf = false ∧ (Instr.hello 0 256 true 0).wf = false ∧ (Instr.hello 0 0 true 8).wf = false ∧
    (Instr.eqRequest 0 4 0 0).wf = false ∧ (Instr.eqRequest 0 0 4 0).wf = false ∧ (Instr.eqRequest 0 0 0 8).wf = false ∧
    (Instr.hsPitchMapWrite 0 16).wf = false ∧ (Instr.hsBpMapWrite ⟨0, 0⟩ 128 0 true).wf = false ∧ (Instr.hsBpMapWrite ⟨0, 0⟩ 0 128 true).wf = false ∧
    (Instr.hsColMapWrite ⟨0, 0⟩ 64 0).wf = false ∧ (Instr.hsColMapWrite ⟨0, 0⟩ 0 64).wf = false ∧ (Instr.tsLogKeepWrite 0 (2 ^ 64) 0).wf = false := by decide

theorem test_no_word_spells_a_command : decodeTableWord 80 0 = none ∧ Machine.State.reset.withFetchWord 80 0 = Machine.State.reset := ⟨rfl, rfl⟩

end Sys2Proof

namespace Sys2Proof.Machine

set_option Elab.async false

/-! ## The manual's worked examples -/

/-- Encoding of A XOR B into state 11 (after R65). -/
theorem test_example_bp_word : bpFieldsOf 0x1410666640A40BC0040B = ⟨1, false, 0, true, 0, 0x6666, 0x40A, 0x40B, 0xC00, 0x40B⟩ ∧ bpOpOf 1 = some .lut4 := by decide +kernel

/-- Encoding of ADD W4 = W0 + W2 (after R110). -/
theorem test_example_wu_word : wuFieldsOf 0x04280400000000000000 = ⟨0, true, 4, 0, 2, false, 0, 0⟩ ∧ wuOpOf 1 = some .add := by decide +kernel

/-- The 64-bit adder (after R113). -/
theorem test_example_adder : wuAlu .add 0xFFFFFFFFFF 1 0 0 0 = 0 ∧ wuAlu .carry 0xFFFFFFFFFF 1 0 0 0 = 1 ∧ wuAlu .add 0x12 3 0 0 0 = 0x15 ∧
    wuAlu .add 0x15 1 0 0 0 = 0x16 ∧ wuAlu .ext 0x16 0 0 0 24 = 0x16 := by decide +kernel

/-- 2^20 × (2^24 + 1) (after R117). -/
theorem test_example_product : wuAlu .mullo 0x100000 0x01000001 0 0 0 = 0x100000 ∧ wuAlu .mulhiu 0x100000 0x01000001 0 0 0 = 0x10 := by decide +kernel

/-- Logical (13, 40) on pitches 21 and 22 (after R38). -/
theorem test_example_place :
    let s := (State.reset.wr .HS_PITCH_MAP 22 .ACTIVE_COL 3).modCamp 0 fun x => { x with place := [21, 22] }
    s.physCluster 0 13 = 72 * 2 + 60 ∧ (State.reset.modCamp 0 fun x => { x with place := [21, 22] }).physCluster 0 13 = 72 * 2 + 59 ∧
    ({ Cluster.reset with spare0 := 17, spare1 := 65 } : Cluster).physBp 40 = 41 ∧ Cluster.reset.physBp 40 = 40 := by decide +kernel

/-- A reserved opcode on BP 17 at step 400 (after R98). -/
theorem test_example_fault_log : (State.reset.logFault 0 7 1 17 400 0).regValue .CL_FAULT_LOG 7 = 0x8000190441 := by decide +kernel

/-- Bank 5 goes to requester 2, the first after 1 (after R144). -/
theorem test_example_bank :
    let s := State.reset.modCluster 0 fun x => { x with bankPtr := [(5, 1)], reqs := [⟨3, 5, .scrub⟩, ⟨2, 13, .scrub⟩] }
    (match exec (.bankGrant ⟨0, 0⟩ 5) s with | .next t => tget 4 (t.cluster 0).bankPtr 5 | _ => 0) = 2 := by decide +kernel

/-- The three-cycle pattern (after R241). -/
theorem test_example_clock : tagStep 1 3 2 true = (true, 0) ∧ tagStep 1 3 0 true = (false, 1) ∧ tagStep 1 3 1 true = (false, 2) ∧
    tagStep 1 1 0 true = (true, 0) := by decide +kernel

/-- 36 A at 24 V (after R11). -/
theorem test_example_envelope : State.reset.powerLimit 2400 = 864 := by decide +kernel

/-- From probe to budget: 91.2 ns (after R512). -/
theorem test_example_latency :
    let s := (State.reset.wr .HN_STATUS 2 .STATE 6).modHn 2 fun h => { h with echoes := List.replicate 15 0 }
    (match exec (.echo 2 33000 215400) s with | .next t => t.rd .HN_LAT 2 .ONEWAY_PS | _ => 0) = 91200 := by decide +kernel

/-- A scheduled read seen from the host (after R692), and the leaf of its page (after R394). -/
theorem test_example_bar2 :
    let s := State.reset.wrs .HI_BAR2_AP 2 [(.BASE, 1), (.KEY_ID, 7), (.EN, 1)]
    (s.bar2Req 0x200040AA8 8 none).addr = 0x100040AA8 ∧ (s.bar2Req 0x200040AA8 8 none).key = 7 ∧ nodeAddr ⟨0, 0x100040⟩ = 0x3DE4001000 := by decide +kernel

/-! ## States and operands that meet each obligation's hypotheses -/

/-- A module with camp 0 RUNNING on pitch 0 of E-die 0, standing at schedule step 5 of 8 with its edge vector applied. -/
def atStep : Sys2Proof.Machine.State :=
  (((State.reset.wr .RUN_CAMP_STATUS 0 .STATE 3).wr .RUN_CAMP_STATUS 0 .SCHED_STEPS 8).wr .RUN_CAMP_PITCH_LO 0 .PITCHES 1).modGroup 0 0
    fun g => { g with pos := .step 5, applied := true }

/-- BP instruction fields that no check of R92 objects to. -/
def bpPlain : BpFields := ⟨0, true, 0, false, 0, 0xAAAA, 0xC01, 0xC00, 0xC00, 0xC00⟩

/-- `atStep` with the eight DRAM channels UP. -/
def dramOn : Sys2Proof.Machine.State := ((List.range 8).foldl (fun t ch => t.wr .DM_STATUS ch .STATE 3) atStep)

/-- Channel core 3 running task 5 at level 1 under domain 1 with one window of a page, its instruction at address 64 in its instruction cache. -/
def coreOn : Sys2Proof.Machine.State :=
  (dramOn.wr .CC_STATUS 3 .PSTATE 0).modCore 3 fun x =>
    { x with run := some ⟨5, 1, 1, 9, 0, [⟨0, 1, true, true, true⟩]⟩, pc := 64, icache := [(1, 9)] }

theorem test_wit_empty_queue : State.reset.pending = [] ∧ State.reset.deep.held = [] ∧ State.reset.deep.throttled = [] := ⟨rfl, rfl, rfl⟩

theorem test_wit_command_runs : ∃ t, exec .idcode State.reset = .next t := ⟨_, rfl⟩

theorem test_wit_inv_reset : State.reset.Inv ∧ ∃ t, step State.reset = .next t :=
  ⟨⟨fun _ he => (nomatch he), fun _ he => (nomatch he), rfl, by decide⟩, _, rfl⟩

theorem test_wit_bp_stands : atStep.stepOf 0 = some (0, 5) := by decide +kernel
theorem test_wit_bp_no_fault :
    bpFaults (atStep.ctxAt 0 0 0 5) (atStep.cluster 0).before ((atStep.cluster 0).before.bp 0) .lut4 bpPlain = [] := by decide +kernel
theorem test_wit_bp_lut4e :
    bpFaults (atStep.ctxAt 0 0 0 5) (atStep.cluster 0).before ((atStep.cluster 0).before.bp 0) .lut4e { bpPlain with dest := 2, d := 0x407 } = [] := by decide +kernel
theorem test_wit_bp_shadow :
    bpFaults (atStep.ctxAt 0 0 0 5) (atStep.cluster 0).before ((atStep.cluster 0).before.bp 0) .lut4 { bpPlain with dest := 1, d := 0x7FF } = [] := by decide +kernel
theorem test_wit_bp_route :
    bpFaults (atStep.ctxAt 0 0 0 5) (atStep.cluster 0).before ((atStep.cluster 0).before.bp 0) .route { bpPlain with d := 0x840 } = [] := by decide +kernel
theorem test_wit_bp_others :
    bpFaults (atStep.ctxAt 0 0 0 5) (atStep.cluster 0).before ((atStep.cluster 0).before.bp 63) .hold bpPlain = [] ∧
    bpFaults (atStep.ctxAt 0 0 0 5) (atStep.cluster 0).before ((atStep.cluster 0).before.bp 63) .ckpt { bpPlain with dest := 3 } = [] ∧
    bpFaults (atStep.ctxAt 0 0 0 5) (atStep.cluster 0).before ((atStep.cluster 0).before.bp 63) .nop { bpPlain with dest := 3 } = [] := by decide +kernel

theorem test_wit_bp_fault :
    bpFaults (atStep.ctxAt 0 0 0 5) (atStep.cluster 0).before ((atStep.cluster 0).before.bp 0) .lut4 { bpPlain with pred := 3 } = [(0x03, 0)] ∧
    atStep.rd .CL_FAULT_LOG 0 .VALID = 0 := by decide +kernel

theorem test_wit_wu_add :
    wuFaults (atStep.ctxAt 0 0 0 5) (atStep.cluster 0).before (atStep.rd .WU_CFG 0 .MODE) [] .add ⟨0, false, 3, 1, 2, false, 0, 0⟩ = [] := by decide +kernel
theorem test_wit_wu_dep :
    wuFaults (atStep.ctxAt 0 0 0 5) (atStep.cluster 0).before (atStep.rd .WU_CFG 0 .MODE) [] .dep ⟨0, false, 3, 1, 2, false, 0, 39 * 2 ^ 30 + 2 ^ 24⟩ = [] ∧
    wuFaults (atStep.ctxAt 0 0 0 5) (atStep.cluster 0).before (atStep.rd .WU_CFG 0 .MODE) [] .ext ⟨0, false, 3, 1, 0, false, 0, 40 * 2 ^ 24⟩ = [] ∧
    wuFaults (atStep.ctxAt 0 0 0 5) (atStep.cluster 0).before (atStep.rd .WU_CFG 0 .MODE) [] .sel ⟨0, false, 3, 1, 2, false, 0, 15 * 2 ^ 36⟩ = [] ∧
    wuFaults (atStep.ctxAt 0 0 0 5) (atStep.cluster 0).before (atStep.rd .WU_CFG 0 .MODE) [] .nop ⟨0, false, 0, 0, 0, false, 0, 0⟩ = [] := by decide +kernel

theorem test_wit_wu_mul :
    wuFaults (atStep.ctxAt 0 0 0 5) (atStep.cluster 0).before (atStep.rd .WU_CFG 0 .MODE) [] .mulhis ⟨0, false, 15, 1, 0, true, 0xFFFF, 0⟩ = [] := by decide +kernel
theorem test_wit_mul_in_flight :
    ((atStep.modCluster 0 fun y => { y with mul := [⟨3, 15, 7⟩] }).cluster 0).mul = [⟨3, 15, 7⟩] ∧
    ((atStep.modCluster 0 fun y => { y with mul := [⟨3, 15, 7⟩] }).cluster 0).ticked = none ∧
    (atStep.modCluster 0 fun y => { y with mul := [⟨3, 15, 7⟩] }).stepOf 0 = some (0, 5) ∧ State.reset.stepOf 0 = none := by decide +kernel

theorem test_wit_wu_memory :
    wuFaults (atStep.ctxAt 0 0 0 5) (atStep.cluster 0).before 0 [] .ldm ⟨0, false, 3, 1, 0, false, 0xFFFF, 8 * 2 ^ 36⟩ = [] ∧
    wuFaults (atStep.ctxAt 0 0 0 5) (atStep.cluster 0).before 0 [] .stm ⟨0, false, 0, 1, 2, false, 0xFFFF, 7 * 2 ^ 36⟩ = [] ∧
    wuFaults (atStep.ctxAt 0 0 0 5) (atStep.cluster 0).before 0 [] .stm ⟨0, false, 0, 1, 2, false, 0, 2 * 2 ^ 34 + 2 ^ 33⟩ = [] ∧
    wuFaults (atStep.ctxAt 0 0 0 5) (atStep.cluster 0).before 1 [] .shift ⟨0, false, 3, 1, 0, false, 0, 0⟩ = [] ∧
    wuFaults (atStep.ctxAt 0 0 0 5) (atStep.cluster 0).before 0 [] .pack ⟨0, false, 3, 0, 0, false, 0, 63 * 2 ^ 24 + 2 ^ 18⟩ = [] ∧
    wuFaults (atStep.ctxAt 0 0 0 5) (atStep.cluster 0).before 0 [] .unpack ⟨0, false, 0, 3, 0, false, 0, 40 * 2 ^ 18⟩ = [] ∧
    wuFaults (atStep.ctxAt 0 0 0 5) (atStep.cluster 0).before 0 [] .xec ⟨0, false, 0, 0, 0, false, 0, 0⟩ = [] ∧
    ((atStep.cluster 0).word 65535).syn = 0 ∧ 65535 / 8 < (atStep.cluster 0).snapLine := by decide +kernel
theorem test_wit_xec_entries :
    xecEntry (atStep.cluster 0) ⟨0, false, 0, 0, 0, false, 0, 0⟩ = .inr none ∧
    xecEntry { atStep.cluster 0 with micro := [(0, 2 ^ 74 + 2 ^ 70)], w := [(0, 9)] } ⟨0, false, 0, 0, 0, false, 0, 0⟩ = .inr (some ⟨.add, 1, 18⟩) := by
  decide +kernel

theorem test_wit_camp_states :
    (State.reset.wr .PW_DOM 78 .STATE 3).reaches .RUN_CAMP_CTRL 63 = true ∧ (State.reset.camp 63).pend = none ∧ (State.reset.wr .RUN_CAMP_STATUS 63 .STATE 2).campState 63 = 2 ∧
    (State.reset.wr .RUN_CAMP_STATUS 63 .STATE 4).campState 63 = 4 ∧ State.reset.rd .DC_SNAP_STATUS 63 .STATE = 0 ∧
    16777215 % 2 ^ 24 ≠ 0 := by decide +kernel
theorem test_wit_running_camps :
    atStep.campState 0 = 3 ∧ atStep.rd .RUN_CAMP_STATUS 0 .RAMPING = 0 ∧ atStep.campFrozen 0 = false ∧ (atStep.camp 0).pend = none ∧
    (atStep.wr .RUN_CAMP_STATUS 0 .RAMPING 1).rd .RUN_CAMP_STATUS 0 .RAMPING = 1 ∧
    (atStep.modGroup 0 0 fun g => { g with held := [⟨⟨0, 9, 87, none, 0⟩, false, false⟩] }).campFrozen 0 = true := by decide +kernel

theorem test_wit_rejected :
    State.reset.campState 0 = 0 ∧ (State.reset.modCamp 0 fun x => { x with pend := some .unload }).camp 0 ≠ State.reset.camp 0 ∧
    (State.reset.modCamp 0 fun x => { x with pend := some .unload }).camp 0 = { Camp.reset with pend := some .unload } ∧
    (RegWrite.of 7 2).got .RUN_CAMP_CTRL .CMD = 7 ∧ 2 ^ 24 % 2 ^ 24 = 0 := by decide +kernel

theorem test_wit_ramp :
    (((atStep.wr .RUN_CAMP_STATUS 0 .RAMPING 1)).camp 0).ramp = none ∧ (atStep.camp 0).restoring = false ∧
    max 10 (min 1000 (atStep.rd .PW_STAGGER 0 .US)) ≤ 1000 ∧
    ((atStep.modCamp 0 fun y => { y with ramp := some 64 }).camp 0).ramp = some 64 := by decide +kernel
theorem test_wit_restore :
    ((dramOn.modCamp 0 fun y => { y with restoring := true }).camp 0).restoring = true ∧
    (((dramOn.modDeep fun m => { m with sealed := [] }).modCamp 0 fun y => { y with restoring := true }).restore 0).1 = none ∧
    ((State.reset.modCamp 0 fun y => { y with restoring := true }).restore 0).1 ≠ none := by decide +kernel
theorem test_wit_unload :
    ((State.reset.modCamp 0 fun x => { x with pend := some .unload }).camp 0).issues = [] ∧
    (State.reset.wr .DC_SNAP_STATUS 0 .STATE 3).rd .DC_SNAP_STATUS 0 .STATE = 3 := by decide +kernel

theorem test_wit_step_runs :
    atStep.rd .RUN_CAMP_STATUS 0 .RAMPING = 0 ∧ 0 ∈ atStep.campDies 0 ∧ atStep.frozen 0 0 = false ∧ (atStep.group 0 0).pos = .step 5 ∧
    atStep.lates 0 0 5 = [] := by decide +kernel
theorem test_wit_step_late :
    (atStep.modCamp 0 fun x => { x with reads := [⟨0, 0, 0, 5, 64, 0, none, none, [], none⟩] }).lates 0 0 5 = [⟨4, 0, some ⟨0, 0, 0, 5, 64, 0, none, none, [], none⟩⟩] ∧ (atStep.camp 0).stalls = [] ∧
    (({ atStep with xing := [(0, 0x8_0000_0000_0005_0000_0000#80 ||| 0x80000000000000000000#80)] } : State).modCamp 0 fun x => { x with xsize := 1 }).campXings 0 ≠ [] := by decide +kernel
theorem test_wit_begin :
    (atStep.modGroup 0 0 fun g => { g with pos := .step 0, applied := false, queue := [(0, 1#16)] }).decisionHeld 0 = true ∧
    nextStep (atStep.camp 0).segs 0 0 0 = none ∧ (atStep.camp 0).early = [] ∧
    ((((atStep.modGroup 0 0 fun g => { g with pos := .step 0, applied := false }).raiseStall 0 0xA 0 (some (0, .step 0))).takeEarly 0).frozen 0 0) = true := by decide +kernel
theorem test_wit_drains :
    ((Cluster.reset.modBp 3 fun b => { b with drain := .queued 7 }).nextDrain).isSome = true ∧ Cluster.reset.activeDrains = 0 ∧
    atStep.drainsMove 0 = true ∧ (atStep.modGroup 0 0 fun g => { g with held := [⟨⟨0, 9, 87, none, 0⟩, false, false⟩] }).drainsMove 0 = false := by decide +kernel

theorem test_wit_boundary :
    (atStep.modGroup 0 0 fun g => { g with pos := .bnd 0 }).atBnd 0 0 = true ∧ (atStep.modGroup 0 0 fun g => { g with pos := .bnd 1 }).atBnd 0 1 = true ∧
    (atStep.modGroup 0 0 fun g => { g with pos := .bnd 2 }).atBnd 0 2 = true ∧ (atStep.modGroup 0 0 fun g => { g with pos := .bnd 3 }).atBnd 0 3 = true ∧
    (atStep.modGroup 0 0 fun g => { g with pos := .bnd 10 }).atBnd 0 10 = true ∧ (atStep.modGroup 0 0 fun g => { g with pos := .bnd 10 }).atBnd 0 3 = false ∧
    (atStep.modGroup 0 0 fun g => { g with pos := .bnd 11 }).atBnd 0 11 = true ∧ (atStep.modGroup 0 0 fun g => { g with pos := .bnd 12 }).atBnd 0 12 = true ∧
    atStep.atBnd 0 0 = false ∧ (atStep.campDies 0) = [0] ∧ atStep.replays 0 = false ∧
    (atStep.wr .DC_REPLAY_CTRL 0 .REPLAY 1).replays 0 = true := by decide +kernel

theorem test_wit_marks :
    ((Cluster.reset.modBp 7 fun b => { b with marks := 5, shadow := 4, state := 3 }).bp 7).commit.state = 6#1024 ∧ 0 ∈ atStep.campClusters 0 := by decide +kernel

theorem test_wit_mgmt :
    ((State.reset.wr .PW_DOM 78 .STATE 3).wr .PW_DOM 64 .STATE 3).reaches .CM_MGMT_CTRL 0 = true ∧ State.reset.rd .CM_MGMT_CTRL 7 .BUSY = 0 ∧ State.reset.mgmtRefused 7 = false ∧ (State.reset.wr .CM_MGMT_ADDR 7 .SLOT 72).mgmtRefused 7 = true ∧
    State.reset.bankFree 0 7 = true ∧ State.reset.rd .CM_STATUS 0 .CLEARING = 0 ∧ Cluster.reset.snapWants 7 = false ∧
    (((atStep.wr .DC_SNAP_STATUS 0 .STATE 2).modCluster 0 fun y => { y with snapLine := 8191 }).snapWants 0 7) = true ∧
    (State.reset.wrs .PW_DOM 78 [(.STATE, 3)]).reaches .CM_MGMT_CTRL 0 = false ∧ (MemWord.clear.decode.2 = .ok) := by decide +kernel
theorem test_wit_grant :
    (rotation 4).find? (fun w => [(⟨4, 7, .read⟩ : BankReq)].any (fun r => r.who == w && r.addr % 8 == 7) || (w == 3 && State.reset.snapWants 0 7)) = some 4 ∧
    (rotation 2).find? (fun w => [(⟨1, 7, .read⟩ : BankReq)].any (fun r => r.who == w && r.addr % 8 == 7) || (w == 3 && State.reset.snapWants 0 7)) = some 1 ∧
    (rotation 4).find? (fun w => ([] : List BankReq).any (fun r => r.who == w && r.addr % 8 == 7) || (w == 3 && State.reset.snapWants 0 7)) = none := by decide +kernel
theorem test_wit_wake :
    (State.reset.wr .PW_DOM 63 .STATE 2).powered 63 = true ∧ State.reset.load.failing = none ∧ (∀ c < 64, (State.reset.camp c).pend = some .unload → 63 ∉ State.reset.campPitches c) := by decide +kernel

theorem test_wit_fifo :
    (State.reset.fifo ⟨0, 2, 1⟩).reset = false ∧ (State.reset.fifo ⟨0, 2, 1⟩).items = [] ∧ State.reset.served ⟨0, 2, 1⟩ = [] ∧
    ¬ (gray 0 = gray ((0 + fifoDepth ⟨0, 2, 1⟩) % (2 * fifoDepth ⟨0, 2, 1⟩))) ∧
    gray 16384 = gray ((0 + fifoDepth ⟨0, 2, 1⟩) % (2 * fifoDepth ⟨0, 2, 1⟩)) ∧
    ((State.reset.modFifo ⟨6, 2, 1⟩ fun f => { f with items := [5], wptr := 1 }).fifo ⟨6, 2, 1⟩).items = [5] ∧ gray 1 ≠ gray 0 ∧
    (State.reset.modFifo ⟨7, 0, 0⟩ fun f => { f with reset := true }).fifo ⟨7, 0, 0⟩ = { State.reset.fifo ⟨7, 0, 0⟩ with reset := true } ∧
    State.reset.rd .GL_OVERRUN_LOG 0 .VALID = 0 ∧ State.reset.rd .GL_FIFO_LOG 0 .VALID = 0 := by decide +kernel
theorem test_wit_item :
    ((atStep.modCamp 0 fun x => { x with flight := [⟨0, 0, 1, 9, true, true⟩] }).camp 0).flight.find? (fun t => t.dst == 0 && t.arr == 9) = some ⟨0, 0, 1, 9, true, true⟩ ∧
    (atStep.fifo ⟨0, 0, 1⟩).reset = false ∧ (atStep.camp 0).lost = [] ∧ (atStep.camp 0).shares = [] ∧
    ((atStep.modGroup 0 0 fun g => { g with pos := .bnd 3 }).group 0 0).pos = .bnd 3 := by decide +kernel

theorem test_wit_messages :
    State.reset.heard 5 1 9 255 (some 3) = false ∧ (State.reset.wr .RUN_CAMP_STATUS 5 .STATE 4).campState 5 = 4 ∧ State.reset.spans 5 = false ∧
    (State.reset.modCamp 5 fun x => { x with modules := [0, 1] }).spans 5 = true ∧ State.reset.ownAddr ≠ 9 ∧
    ((State.reset.modCamp 5 fun x => { x with seen := [(0, 9, 0), (1, 9, 255), (2, 9, 255), (3, 9, 0)] }).heard 5 2 9 255 (some 3)) = true ∧
    ((State.reset.modCamp 5 fun x => { x with stalls := [⟨255, 1, 87, none, 9⟩] }).camp 5).stalls = [⟨255, 1, 87, none, 9⟩] := by decide +kernel

theorem test_wit_clocks :
    (State.reset.wr .RUN_CAMP_STATUS 63 .STATE 4).campState 63 = 4 ∧ tagValid 65535 65535 65534 true = true ∧ tagValid 0 1 0 true = false ∧
    tagValid 1 0 0 true = false ∧ tagValid 1 1 1 true = false := by decide +kernel
theorem test_wit_arm :
    (State.reset.wr .PW_DOM 78 .STATE 3).reaches .DC_TAG 1023 = true ∧ (State.reset.wr .PW_DOM 78 .STATE 3).reaches .DC_ACC 1023 = true ∧
    (State.reset.wr .PW_DOM 78 .STATE 3).reaches .DC_SNAP_CTRL 63 = true ∧ (State.reset.wr .PW_DOM 78 .STATE 3).reaches .DC_SNAP_SEL 63 = true ∧
    atStep.armErr 0 true 0 = 0 ∧ State.reset.armErr 0 true 0 ≠ 0 ∧ (State.reset.wr .DC_CTRL 0 .HOME 1).isHome 0 = true ∧ State.reset.isHome 0 = false := by decide +kernel
theorem test_wit_copy :
    ((dramOn.wr .DC_SNAP_STATUS 0 .STATE 2).modCamp 0 fun x => { x with lclusters := 0 }).snapDrained 0 = true ∧
    ((dramOn.wr .DC_SNAP_STATUS 0 .STATE 2).camp 0).snap.pages = [] := by decide +kernel

theorem test_wit_load :
    (let s := (State.reset.wr .PW_DOM 78 .STATE 3).wr .PW_STATUS 0 .READY 1
     s.reaches .LD_CTRL 0 = true ∧ (s.unhold .LD_CTRL 0).loading = false ∧ (s.unhold .LD_CTRL 0).rd .PW_STATUS 0 .READY ≠ 0 ∧
     (((List.range 1).map ((s.unhold .LD_CTRL 0).placeReg [])).map (·.addr)).eraseDups.length = 1 ∧
     (∀ a ∈ ((List.range 1).map ((s.unhold .LD_CTRL 0).placeReg [])).map (·.addr), a ≤ 127)) ∧
    (let s := ((State.reset.wr .PW_DOM 78 .STATE 3).wr .LD_STATUS 0 .STATE 4).modLoad fun l => { l with entry := true }
     s.reaches .LD_CTRL 0 = true ∧ (s.unhold .LD_CTRL 0).loading = true ∧ s.reaches .LD_DMA_PUSH 0 = true ∧ (s.unhold .LD_DMA_PUSH 0).loading = true ∧
     (s.unhold .LD_DMA_PUSH 0).load.entry = true ∧ (s.unhold .LD_DMA_PUSH 0).load.src = 0 ∧ (s.unhold .LD_DMA_PUSH 0).load.queue.length < 8 ∧
     (s.unhold .LD_DMA_PUSH 0).load.failing = none) ∧
    State.reset.segmentReady = false ∧ (State.reset.modLoad fun l => { l with active := true, lmod := none }).segmentReady = true ∧
    (State.reset.modLoad fun l => { l with active := true, lmod := none }).load.entry = false ∧
    (let s := State.reset.modLoad fun l => { l with active := true, entry := true, lmod := none, queue := [(0, 4096)] }
     s.segmentReady = true ∧ s.load.entry = true ∧ s.load.src = 0 ∧ s.load.queue = (0, 4096) :: []) := by decide +kernel

theorem test_wit_ack :
    (let l := { Load.reset with active := true, entry := true, places := [⟨9, 0, 0, 0, 0, 0⟩, ⟨8, 0, 0, 0, 0, 0⟩], lmod := some 0, next := 1, segCount := 2 }
     l.failing = none ∧ 1 < l.places.length ∧ l.lmod ≠ some 1 ∧ ¬ (l.next ≠ 0 ∧ l.next = l.segCount) ∧ l.reports = [] ∧ 0 + 1 = l.next) ∧
    (let l := { Load.reset with active := true, entry := true, places := [⟨9, 0, 0, 0, 0, 0⟩, ⟨8, 0, 0, 0, 0, 0⟩], lmod := some 0, next := 2, segCount := 2 }
     l.failing = none ∧ 1 < l.places.length ∧ l.lmod ≠ some 1 ∧ (l.next ≠ 0 ∧ l.next = l.segCount) ∧ (∀ x ∈ l.reports, x.1 ≠ 1)) ∧
    (let l := { Load.reset with active := true, passed := true, lmod := some 0 }
     l.failing = none ∧ l.entry = false ∧ l.passed = true ∧ l.lmod = some 0) ∧
    (let l := { Load.reset with active := true, entry := true, lmod := some 0 }
     l.failing = none ∧ l.others = [] ∧ (∀ k < l.places.length, (k, none) ∈ l.reports)) ∧
    (let l := { Load.reset with active := true, failing := some ⟨10, 0, 0, 0, 0⟩ }
     l.active = true ∧ l.failing ≠ none) ∧
    (let s := (State.reset.wr .FB_ID 0 .ADDR_VALID 1).wr .PW_STATUS 0 .READY 1
     ([⟨9, 0, 0, 0, 0, 0⟩, ⟨0, 0, 0, 0, 0, 0⟩] : List PlaceEntry).findIdx? (fun p => p.addr == s.ownAddr) = some 1 ∧
     s.rd .FB_ID 0 .ADDR_VALID ≠ 0 ∧ s.rd .PW_STATUS 0 .READY ≠ 0 ∧ s.load.active = false) := by decide +kernel

theorem test_wit_deep :
    Memory.wf dramOn.deep.bytes = true ∧ 63 + 1 ≤ dataEnd ∧ dramOn.pageOwner (63 / 4096) = 0 ∧ dramOn.chanFault (dramOn.chanOf 63) = none ∧
    dramOn.pageWaits (63 / 4096) = false ∧ dramOn.bankHolds (dramOn.bankOf 63) = false ∧ dramOn.schedFirst (dramOn.chanOf 63) = false ∧
    dramOn.deep.held = [] ∧ dramOn.deep.badLines = [] ∧ 63 % 64 + 1 ≤ 64 ∧
    dramOn.pageOwner ((dataEnd - 64) / 4096) = 0 ∧ dramOn.chanFault (dramOn.chanOf (dataEnd - 64)) = none ∧ (dataEnd - 64) % 64 + 64 ≤ 64 := by decide +kernel

theorem test_wit_dram :
    (let s := (((State.reset.wr .PW_DOM 78 .STATE 3).wr .PW_DOM 72 .STATE 3).wr .DM_STATUS 0 .STATE 2).wr .DM_BOUND 0 .NS 1
     s.reaches .DM_CTRL 0 = true ∧ s.rd .DM_STATUS 0 .STATE = 2 ∧ 0 ∉ s.deep.initing ∧ 0 ∉ s.deep.repairing ∧ 0 ∉ s.deep.quiescing ∧
     (s.unhold .DM_CTRL 0).rd .DM_BOUND 0 .NS ≠ 0 ∧ s.deepRunning = false) ∧
    (let s := (((State.reset.wr .PW_DOM 78 .STATE 3).wr .PW_DOM 73 .STATE 3).wr .DM_STATUS 3 .STATE 3).modDeep fun d => { d with repairing := [15], quiescing := [15], initing := [15] }
     s.reaches .DM_CTRL 3 = true ∧ s.rd .DM_STATUS 3 .STATE = 3 ∧ 3 ∉ s.deep.initing ∧ 15 ∈ s.deep.initing ∧ 15 ∈ s.deep.repairing ∧ 15 ∈ s.deep.quiescing ∧
     s.deep.held = [] ∧ (∀ c < 64, (s.camp c).issues = [])) := by decide +kernel

theorem test_wit_dramMaps :
    (let s := (((State.reset.wr .PW_DOM 78 .STATE 3).wr .PW_DOM 79 .STATE 3).wr .PW_DOM 72 .STATE 3).wr .DM_STATUS 0 .STATE 2
     s.reaches .DM_TRAIN_CMD 0 = true ∧ ((s.wr .DM_CTRL 0 .TRAIN_HOST 1).unhold .DM_TRAIN_CMD 0).rd .DM_CTRL 0 .TRAIN_HOST = 1 ∧ s.rd .DM_STATUS 0 .STATE = 2 ∧
     (s.unhold .DM_TRAIN_CMD 0).rd .DM_TRAIN_CMD 0 .BUSY = 0) ∧
    (let s := ((State.reset.wr .PW_DOM 78 .STATE 3).wr .PW_DOM 79 .STATE 3).wr .PW_DOM 72 .STATE 3
     s.reach (offsetOf .DM_MAP 8 + 0x2000 * 0) = .here ∧ (∀ c < 8, s.rd .DM_STATUS c .STATE = 0 ∨ s.rd .DM_STATUS c .STATE = 1)) ∧
    maskOk 8 0x4000 = true ∧ maskOk 0 0x40 = true ∧ maskOk 0 0x80 = false ∧
    (let s := (State.reset.wr .DM_TRAIN_CMD 15 .BUSY 1).modDeep fun d => { d with trainOp := [(15, 2)] }
     s.rd .DM_TRAIN_CMD 15 .BUSY = 1 ∧ tget 0 s.deep.trainOp 15 = 2) := by decide +kernel

theorem test_wit_refresh :
    (State.reset.wr .DM_STATUS 15 .STATE 3).refreshRuns 15 = true ∧ tget 0 State.reset.deep.pulled 15 = 0 ∧ State.reset.scheduledWaits 15 1 = false ∧
    (State.reset.wr .DM_STATUS 15 .OUTSTANDING 4).rd .DM_STATUS 15 .OUTSTANDING = 4 ∧
    (let s : State := { (State.reset.wr .DM_STATUS 7 .STATE 3) with ticks := 10000 }
     s.rd .DM_REF 7 .TREFI / 2 ^ (s.rd .DM_REF 7 .FGR + s.rd .DM_STATUS 7 .HOT) ≤ 2 * (s.ticks - tget 0 s.deep.dueAt (7, 1, none)) ∧ s.rd .DM_STATUS 7 .STATE = 3 ∧ s.rd .DM_REF 7 .REFSB = 0) ∧
    (dramOn.modCamp 0 fun x => { x with issues := [⟨0, 5, 0, 0, 0, 0, 0, none⟩] }).scheduledWaits 0 0 = true ∧ 3 < min 4 4 := by decide +kernel
theorem test_wit_rfm :
    [((⟨15, 1, 31⟩ : BankId), 7, 63)].find? (fun e => e.1 == ⟨15, 1, 31⟩ && e.2.1 == 7) = some (⟨15, 1, 31⟩, 7, 63) ∧ State.reset.refreshHolds ⟨15, 1, 31⟩ = false ∧
    ((atStep.modCamp 0 fun x => { x with reads := [⟨0, 3, 64, 7, 0, 0, some 9, none, [], none⟩] }).camp 0).reads.find?
      (fun q => q.pitch == 0 && q.entry == 3 && q.fetched.isSome && q.data.isNone) = some ⟨0, 3, 64, 7, 0, 0, some 9, none, [], none⟩ ∧
    5 ∈ (State.reset.modDeep fun d => { d with reenc := [5] }).deep.reenc := by decide +kernel

theorem test_wit_keys :
    (let s := State.reset.wr .PW_DOM 78 .STATE 3
     s.reaches .MP_KEY_CMD 0 = true ∧ s.rd .MP_KEY_CMD 0 .BUSY ≠ 1 ∧ (∀ c < 64, s.campState c = 0) ∧ s.reaches .MP_RANGE_BASE 63 = true ∧ s.reaches .MP_RANGE_SIZE 63 = true ∧
     (((s.wr .MP_KEYSTATE 255 .INSTALLED 1).unhold .MP_KEY_CMD 0).rd .MP_KEYSTATE 255 .INSTALLED ≠ 0) ∧
     (s.unhold .MP_RANGE_BASE 63).rangeRefused 63 (s.rangeEntry 63) ((s.rangeEntry 63).write (.base 0 5 true)) = false) ∧
    (atStep.wr .RUN_CAMP_STATUS 0 .KEY_ID 255).rd .RUN_CAMP_STATUS 0 .KEY_ID = 255 ∧ atStep.campState 0 = 3 ∧
    ([(255, [])] : List (Nat × List Node)).find? (fun e => e.1 == 255) = some (255, []) ∧ (State.reset.rangeEntry 63).valid = false ∧ State.reset.keyed 3 = false := by decide +kernel
theorem test_wit_region :
    (∀ x ∈ State.reset.deep.inits, State.reset.initServed x = true) ∧ State.reset.initServed ⟨0, 1, 5, false⟩ = false := by decide +kernel
theorem test_wit_range :
    (let s := (((State.reset.wr .PW_DOM 78 .STATE 3).wr .MP_RANGE_BASE 0 .VALID 1).wr .MP_RANGE_BASE 0 .KEY_ID 5).wr .MP_RANGE_SIZE 0 .PAGES 4
     s.reaches .MP_RANGE_SIZE 0 = true ∧ ((s.unhold .MP_RANGE_SIZE 0).rangeEntry 0).valid = true ∧
     (s.unhold .MP_RANGE_SIZE 0).rangeRefused 0 (s.rangeEntry 0) ((s.rangeEntry 0).write (.size 2)) = false) := by decide +kernel

theorem test_wit_core :
    coreOn.pstate 3 = 0 ∧ (coreOn.core 3).trapDue = none ∧ (coreOn.core 3).run = some ⟨5, 1, 1, 9, 0, [⟨0, 1, true, true, true⟩]⟩ ∧ coreOn.rd .TR_CTRL 0 .STALL ≠ 1 ∧
    (coreOn.core 3).pc < 2 ^ 38 ∧ (⟨5, 1, 1, 9, 0, [⟨0, 1, true, true, true⟩]⟩ : Run).allows (fun w => w.ex) 64 8 = true ∧ (coreOn.core 3).pc = 64 ∧
    (1, 9) ∈ (coreOn.core 3).icache ∧ (coreOn.core 3).pendingReg 31 = false ∧ (coreOn.core 3).mem = [] ∧ coreOn.traceBoundary 3 = coreOn := by decide +kernel

theorem test_wit_control :
    coreOn.pstate 3 = 0 ∧ (coreOn.core 3).trapDue = none ∧ (coreOn.core 3).run.isSome = true ∧ (coreOn.core 3).mem = [] ∧ ((coreOn.traceBoundary 3).core 3).mem = [] ∧
    (255#24).toNat < 256 ∧ (7#24).toNat < 8 ∧ ¬ ((8#24).toNat < 8) := by decide +kernel

theorem test_wit_ctl :
    let h := coreOn.modCore 3 fun x => { x with run := some ⟨5, 0, 0, 0, 0, []⟩, icache := [(1, 0)], trapped := some (⟨5, 1, 1, 9, 0, []⟩, ⟨3, 0, 0, 7, 72⟩, true) }
    (h.core 3).run = some ⟨5, 0, 0, 0, 0, []⟩ ∧ (⟨5, 0, 0, 0, 0, []⟩ : Run).allows (fun w => w.ex) 64 8 = true ∧ ((h.traceBoundary 3).core 3).trapped.isSome = true ∧
    (coreOn.task 5).pendCancel = false ∧ (coreOn.task 5).flags &&& 0#40 = 0#40 ∧ (coreOn.task 5).flags &&& 4#40 ≠ 4#40 ∧
    (coreOn.yieldCtx 3 ⟨5, 1, 1, 0, 0, []⟩ 72).1 = none ∧ (coreOn.task 4095).dom ≠ 1 ∧ (((coreOn.modTask 5 fun x => { x with dom := 1, pendCancel := true }).task 5).dom = 1) := by decide +kernel

theorem test_wit_coremem :
    ((coreOn.core 3).reg 0 + (4088#24).signExtend 40).toNat = 4088 ∧ (⟨5, 1, 1, 9, 0, [⟨0, 1, true, true, true⟩]⟩ : Run).allows (fun w => w.rd) 4088 8 = true ∧
    (⟨5, 1, 1, 9, 0, [⟨0, 1, true, true, true⟩]⟩ : Run).allows (fun w => w.wr) 4096 1 = false ∧ (coreOn.core 3).hits 4088 9 = false ∧
    ((coreOn.modCore 3 fun x => { x with dcache := [⟨63, 9, none⟩] }).core 3).hits 4088 9 = true ∧ 4087 % 8 ≠ 0 := by decide +kernel

theorem test_wit_records :
    let c := (coreOn.wr .CH_CTRL 255 .STATE 3).wrs .CH_CFG 255 [(.DOMAIN, 1)]
    let c2 := (c.wr .CH_CFG 255 .BKIND 1).modChan 255 fun x => { x with inq := [⟨0, 0, 255, 0, [7], false⟩] }
    c2.chanStatus 255 1 = 0 ∧ c2.taskHead 255 = some ⟨0, 0, 255, 0, [7], false⟩ ∧ (c.wr .CH_CFG 255 .BKIND 1).taskHead 255 = none ∧
    coreOn.lineWaits 67 0 64 false = false ∧ c.chanStatus 255 1 ≠ 0 ∧ c.taskHead 255 = none ∧ (coreOn.core 3).mem[0]? = none ∧ coreOn.pageWaits 0 = false ∧
    ((coreOn.modCore 3 fun x => { x with mem := [⟨1, 8, 8, 4, 7, 64, 9⟩] }).core 3).mem[0]? = some ⟨1, 8, 8, 4, 7, 64, 9⟩ := by decide +kernel

theorem test_wit_tasks :
    (let s := State.reset.wr .PW_DOM 78 .STATE 3
     s.reaches .TS_TASK_CMD 0 = true ∧ s.reaches .TS_TASK_FLAGS 0 = true ∧ ((s.unhold .TS_TASK_CMD 0).task 0).state = 0 ∧ ((s.unhold .TS_TASK_CMD 0).task 0).flow = 0 ∧
     (s.unhold .TS_TASK_CMD 0).rd .TS_TASK_SEL 0 .INDEX = 0) ∧
    ((State.reset.modTask 0 fun x => { x with state := 6, flow := 7, ticket := 3 }).oldest 7 3) = true ∧
    (tget Flow.reset State.reset.flows 7).next = 0 ∧
    (∀ q ∈ [1, 2, 3, 4, 5, 6], ((State.reset.modTask 0 fun x => { x with state := q, flow := 7 }).task 0).state = q) := by decide +kernel

theorem test_wit_domains :
    (let s := State.reset.wr .PW_DOM 78 .STATE 3
     s.reaches .CC_CTRL 15 = true ∧ s.reaches .CC_DOM_CFG 255 = true ∧ s.reaches .CC_DOM_WBASE 1023 = true ∧ s.reaches .CC_DOM_WSIZE 1023 = true ∧
     (s.unhold .CC_DOM_CFG 255).domLocked 255 = false ∧ (s.wr .CC_STATUS 15 .PSTATE 2).reaches .CC_CTRL 15 = true ∧
     ((s.wr .CC_STATUS 15 .PSTATE 2).unhold .CC_CTRL 15).rd .CC_STATUS 15 .PSTATE = 2) ∧
    (State.reset.core 15).ready = [] ∧ (State.reset.core 15).slot = none := by decide +kernel
theorem test_wit_dispatch :
    let c := ((dramOn.wr .CC_CTRL 3 .ENABLE 1).wr .CC_DOM_CFG 0 .VALID 1).modCore 3 fun x => { x with slot := some ⟨4, true, [], none⟩ }
    c.coreTakes 3 = true ∧ c.rd .CC_STATUS 3 .PSTATE < 2 ∧ c.rd .CC_DOM_CFG (c.task 4).dom .VALID = 1 ∧ (c.core 3).run = none ∧ (c.core 3).slot = some ⟨4, true, [], none⟩ ∧
    (c.deepFetch 67 (c.rd .CC_DOM_CFG (c.task 4).dom .KEY_ID) (64 * (c.task 4).ctx) 256).1 = none ∧
    (State.reset.deepFetch 67 0 0 256).1 ≠ none := by decide +kernel

theorem test_wit_channel :
    (State.reset.wr .PW_DOM 78 .STATE 3).reaches .CH_CTRL 255 = true ∧ (State.reset.wr .PW_DOM 78 .STATE 3).reaches .TS_LOG_KEEP_LO 63 = true ∧
    (State.reset.wr .CH_TIMEOUT 255 .MS 1).rd .CH_TIMEOUT 255 .MS ≠ 0 ∧ (State.reset.chan 255).fired = false ∧
    (State.reset.wr .CH_CTRL 255 .STATE 3).rd .CH_CTRL 255 .STATE = 3 ∧ State.reset.noc.fences = [] ∧ (State.reset.chan 255).copying = [] ∧
    (0#32).toNat % 65536 + 65536 - State.reset.rd .CH_IN_IDX 255 .CONS < 65537 ∧ State.reset.replays 0 = false ∧ (State.reset.chan 255).stuck = false := by decide +kernel
theorem test_wit_enable :
    ((atStep.wrs .CH_CFG 7 [(.BKIND, 1), (.AKIND, 1)]).wr .CH_RING 7 .LOG2 16).chOk 7 = true ∧ malformed (⟨1, 0, 7, 5, [], false⟩ : Msg).bytes 7 = none ∧
    (State.reset.modChan 7 fun x => { x with held := [⟨0, 1, 7, 5, [], false⟩] }).waitsIn 7 = true := by decide +kernel

theorem test_wit_noc :
    State.reset.noc.fences = [] ∧ State.reset.power.shut = none ∧ State.reset.domState 71 = 0 ∧ State.reset.domBusy 71 = false ∧
    (State.reset.wr .PW_DOM 71 .STATE 3).domState 71 = 3 ∧ (State.reset.wr .PW_DOM 0 .STATE 2).domState 0 = 2 ∧
    (State.reset.wr .PW_DOM 0 .STATE 2).offAllowed 0 true = true ∧ (atStep.wr .PW_DOM 0 .STATE 2).offAllowed 0 true = false ∧
    (0 : Nat) < State.reset.staggerUs ∧ State.reset.reaches .PW_DOM 79 = true ∧ (State.reset.wr .PW_DOM 78 .STATE 3).reaches .NOC_PROBE_TR_CTRL 0 = true := by decide +kernel

theorem test_wit_training :
    ((State.reset.wr .PW_DOM 78 .STATE 3).wr .PW_DOM 77 .STATE 3).reaches .HN_EQ_REQ 5 = true ∧ ((State.reset.wr .PW_DOM 78 .STATE 3).wr .PW_DOM 77 .STATE 3).reaches .HN_CTRL 5 = true ∧
    State.reset.hnState 5 = 0 ∧ ((State.reset.wr .HN_CTRL 5 .EN 1).wr .PW_DOM 77 .STATE 2).powered 77 = true ∧
    (State.reset.wr .HN_STATUS 5 .STATE 7).hnState 5 = 7 ∧ lanesOk 0xFF = true ∧ lanesOk 0 = false ∧ State.reset.keys.fabric = none ∧
    ((State.reset.modHn 5 fun h => { h with eqHost := true }).hn 5).eqHost = true ∧ State.reset.rd .HN_EQ_REQ 5 .BUSY = 0 := by decide +kernel
theorem test_wit_capability :
    let w := 0x484E + 2 ^ 16 + 2 ^ 20 * 7
    let c := w + 2 ^ 144 * crc16 (w % 2 ^ 144) 144
    bitsOf c 144 16 = crc16 (c % 2 ^ 144) 144 ∧ bitsOf c 0 16 = 0x484E ∧ bitsOf c 16 4 = 1 ∧ commonRate 5 (bitsOf c 20 3) = some 2 ∧
    commonRate 0 (bitsOf c 20 3) = none := by decide +kernel

theorem test_wit_link :
    let u := State.reset.wr .HN_STATUS 5 .STATE 8
    u.flowing 5 = true ∧ State.reset.flowing 5 = false ∧ (u.wr .MP_LINK_STATUS 5 .ENC 1).keyed 5 = true ∧ u.linkUsed 5 = false ∧ (u.hn 5).wait = [] ∧
    u.rd .HN_STATUS 5 .SPARE_RX = 0 ∧ (u.hn 5).sparing = none ∧ u.laneSel 5 < 8 ∧
    ((State.reset.modHn 5 fun y => { y with echoes := List.replicate 15 7, mirror := some 8 }).hn 5).echoes.length = 15 := by decide +kernel

theorem test_wit_fabric :
    (State.reset.wr .PW_DOM 78 .STATE 3).reaches .FB_ID 0 = true ∧ (State.reset.wr .PW_DOM 78 .STATE 3).reaches .FB_CTRL 0 = true ∧
    let u := (State.reset.wr .HN_STATUS 5 .STATE 8).wr .FB_NBR 5 .STATE 2
    (u.hnState 5 = 8 ∧ u.rd .FB_NBR 5 .STATE ≠ 3 ∧ u.nbrActive 5 = true ∧ u.nbrActive 0 = false ∧ ((u.wr .FB_ID 0 .ADDR_VALID 1).rd .FB_ID 0 .ADDR_VALID = 1) ∧
    u.ownInFlight = false ∧ ((u.modHn 5 fun h => { h with peer := some 9 }).hn 5).peer = some 9 ∧ u.rd .FB_CTRL 0 .ROUTE_HOST = 0 ∧
    (u.sendFlit 5 ⟨1, 0, .packet ⟨1, 0, 0, 255, 0, true, .commit⟩⟩).ownInFlight = true) := by decide +kernel

theorem test_wit_time :
    (State.reset.wr .PW_DOM 78 .STATE 3).reaches .TM_CTRL 0 = true ∧ (State.reset.wr .PW_DOM 78 .STATE 3).reaches .TM_RATE 0 = true ∧ (State.reset.wr .PW_DOM 78 .STATE 3).reaches .TM_DT_INC_HI 63 = true ∧
    State.reset.tmState = 0 ∧ (State.reset.wr .TM_STATUS 0 .STATE 4).tmState = 4 ∧ ((State.reset.wr .TM_CTRL 0 .AUTO_ROOT 1).rd .TM_CTRL 0 .AUTO_ROOT = 1) ∧
    (State.reset.wr .FB_ID 0 .ADDR_VALID 1).rd .FB_ID 0 .ADDR_VALID = 1 ∧ (State.reset.wr .FB_ID 0 .ADDR_VALID 1).ownAddr = (State.reset.wr .FB_ID 0 .ADDR_VALID 1).rd .FB_STATUS 0 .ROOT ∧ State.reset.time.offers = [] ∧ (State.reset.camp 63).modules.length ≤ 1 ∧
    (State.reset.modTime fun t => { t with sync := [(5, ⟨true, 0, 0, 0, 0, 0⟩)] }).time.sync.find? (fun e => e.1 == 5) = some (5, ⟨true, 0, 0, 0, 0, 0⟩) := by decide +kernel

theorem test_wit_acq :
    ((State.reset.wr .PW_DOM 78 .STATE 3).wr .PW_DOM 67 .STATE 3).reaches .ACQ_CTRL 3 = true ∧ (State.reset.wr .PW_DOM 78 .STATE 3).reaches .ACQ_DEC_CFG 0 = true ∧
    let u := State.reset.modIn 2 fun y => { y with raw := true }
    let v := u.modUnit 3 fun y => { y with since := 64, recs := [] }
    u.edgeDue 2 = true ∧ State.reset.edgeDue 0 = false ∧ (u.modIn 2 fun y => { y with window := true }).edgeDue 2 = false ∧ (u.inp 2).raw = true ∧
    (u.wr .ACQ_IN_CFG 2 .STUCK_MS 9).rd .ACQ_IN_CFG 2 .STUCK_MS = 9 ∧ v.unitState 3 = 0 ∧ (v.wr .ACQ_CTRL 3 .STATE 3).unitState 3 = 3 ∧ (v.unit 3).since = 64 ∧
    v.rd .ACQ_TIMING 3 .HOLDOFF ≤ 64 ∧ (v.wr .ACQ_TIMING 3 .POST_CYCLES 64).rd .ACQ_TIMING 3 .POST_CYCLES = 64 ∧ v.acqWritable none = true ∧ v.acqWritable (some 0) = false ∧
    v.cmpFires 0 = false ∧ (v.wr .TM_CMP_CFG 0 .EN 1).cmpFires 0 = true := by decide +kernel
theorem test_wit_acq_error :
    let u := State.reset.modUnit 0 fun y => { y with recs := [⟨0, 0, 0, []⟩] }
    (u.unit 0).recs ≠ [] := by decide +kernel

theorem test_wit_trace :
    (State.reset.wr .PW_DOM 78 .STATE 3).reaches .TR_CTRL 0 = true ∧ (State.reset.wr .PW_DOM 78 .STATE 3).reaches .TR_TOKEN_CMD 0 = true ∧
    let u := (State.reset.modTrace fun v => { v with closed := [⟨3, [], 0⟩], onRing := false, draining := false })
    (u.traceRoute.trace.closed = [⟨3, [], 0⟩] ∧ u.traceRoute.trace.draining = false ∧ State.reset.rd .TR_TOKEN_CMD 0 .BUSY = 0 ∧ State.reset.trace.loading = none ∧
    (State.reset.modTrace fun v => { v with loading := some 7 }).trace.loading = some 7 ∧
    (State.reset.modTrace fun v => { v with draining := true }).traceRoute.trace.draining = true ∧
    (((State.reset.wr .TR_CTRL 0 .EN 1).wr .TR_CORES 0 .MASK 0x8000).wr .TR_CTRL 0 .CAIRN_US 1).traceOn 15 = true) := by decide +kernel

theorem test_wit_power :
    State.reset.reaches .PW_CTRL 0 = true ∧ State.reset.reaches .PW_REFCLK 0 = true ∧
    let p := fun n => State.reset.wr .PW_STATUS 0 .PHASE n
    State.reset.rd .PW_STATUS 0 .PHASE = 0 ∧ (p 7).rd .PW_STATUS 0 .PHASE = 7 ∧ (p 1).power.shut = none ∧ (p 2).power.prog = none ∧
    (((p 3).wr .DM_STATUS 7 .STATE 4).dmState 7 = 4) ∧ (∀ ch, ch < 8 → ((List.range 8).foldl (fun t c => t.wr .DM_STATUS c .STATE 1) (p 3)).dmState ch = 1) ∧
    ((p 3).wr .DM_CTRL 0 .TRAIN_HOST 1).rd .DM_CTRL 0 .TRAIN_HOST = 1 ∧ (State.reset.modPower fun q => { q with shut := some 3, prog := some (0, 9) }).power.shut = some 3 ∧
    State.reset.rd .PW_REFCLK 0 .PRESENT = 0 ∧ ((State.reset.wr .PW_REFCLK 0 .PRESENT 1).rd .PW_REFCLK 0 .PRESENT = 1) ∧
    ((State.reset.wr .PW_REFCLK 0 .SRC 1).rd .PW_REFCLK 0 .SRC = 1) := by decide +kernel

theorem test_wit_power_limit :
    let o : PowerObs := ⟨4800, 4800, 0, 1501, false, [0, 0, 0, 0, 0, 0, 0, 0, 0], []⟩
    State.reset.powerLimit o.vavg = 1500 ∧ o.pin > 1500 ∧ State.reset.power.quiet = 0 ∧ (State.reset.modPower fun p => { p with quiet := 9 }).power.quiet = 9 ∧
    State.reset.rd .PW_CTRL 0 .HYST_W ≤ 1500 ∧ (hottest o.temps).1 ≤ State.reset.rd .PW_CTRL 0 .TEMP_LIM ∧ 0 ∈ atStep.movable := by decide +kernel

theorem test_wit_health :
    let u := State.reset.wr .PW_DOM 0 .STATE 2
    u.scrubs 0 0 = true ∧ State.reset.scrubs 0 0 = false ∧ (u.cluster 0).reqs = [] ∧ u.scrubs 0 1 = true ∧ u.scrubs 0 5 = true ∧ State.reset.rd .SC_STATUS 7 .RELOADING = 0 ∧
    (State.reset.wr .SC_STATUS 7 .RELOADING 1).rd .SC_STATUS 7 .RELOADING = 1 ∧ State.reset.rd .HS_CTRL 0 .SCRUB_HOST = 0 ∧
    State.reset.health.bist = none ∧ State.reset.health.waiting = [] ∧ State.reset.rd .HS_WEAR 0 .FULL = 0 ∧
    (State.reset.wr .HS_WEAR 0 .FULL 1).rd .HS_WEAR 0 .FULL = 1 ∧ (State.reset.wr .HS_WEAR 0 .FULL 1).health.waiting = [] := by decide +kernel

theorem test_wit_health_writes :
    let u := (State.reset.wr .PW_DOM 64 .STATE 3).wr .PW_DOM 78 .STATE 3
    let v := (u.wr .HS_CTRL 0 .SCRUB_HOST 1).unhold .SC_CTRL 0
    (u.wr .HS_CTRL 0 .SCRUB_HOST 1).reaches .SC_CTRL 0 = true ∧ v.rd .HS_CTRL 0 .SCRUB_HOST = 1 ∧ v.rd .SC_STATUS 0 .BUSY = 0 ∧
    u.reaches .SC_CTRL 0 = true ∧ u.rd .HS_CTRL 0 .SCRUB_HOST = 0 ∧ ({ u with part := { u.part with grade := 0x01 } } : State).reach (offsetOf .SC_CTRL 7) = .muted ∧
    u.reaches .HS_CMD 0 = true ∧ u.rd .HS_CMD 0 .BUSY = 0 ∧ (u.wr .HS_CMD 0 .BUSY 1).rd .HS_CMD 0 .BUSY = 1 ∧ (u.wr .HS_CMD 0 .BUSY 1).reaches .HS_CMD 0 = true ∧
    u.bistOk 3 0 = false ∧ u.bistOk 0 0 = true ∧ u.reaches .HS_PITCH_MAP 0 = true ∧ u.reaches .HS_BP_MAP 0 = true ∧ u.reaches .HS_COL_MAP 0 = true := by decide +kernel

theorem test_wit_host_read :
    let u := State.reset.wr .PW_DOM 78 .STATE 2
    u.reach 0x31000 = .here ∧ regAt 0x31000 = some (.RUN_CAMP_CTRL, 0) ∧ u.reach 0x1000000 = .off ∧ State.reset.reach 0x31000 = .off ∧ ({ u with part := { u.part with grade := 0x01 } } : State).reach (offsetOf .SC_CTRL 7) = .muted ∧ regAt 0x1FFF8 = none ∧
    u.hold.find? (fun e => e.1 == (RegName.RUN_CAMP_CTRL, 0)) = none ∧
    ({ u with hold := [((.RUN_CAMP_CTRL, 0), 7)] } : State).hold.find? (fun e => e.1 == (RegName.RUN_CAMP_CTRL, 0)) = some ((.RUN_CAMP_CTRL, 0), 7) := by decide +kernel

theorem test_wit_bar2 :
    let u := (State.reset.wr .PW_DOM 78 .STATE 2).wr .HI_BAR2_AP 3 .EN 1
    State.reset.rd .HI_BAR2_AP 0 .EN = 0 ∧ u.rd .HI_BAR2_AP 3 .EN ≠ 0 ∧ u.railed 78 = true ∧ State.reset.railed 78 = false ∧ u.pageWaits 0 = false ∧
    u.reqWaits (u.bar2Req 0x300000000 8 none) Machine.DeepObs.clean (u.deep.held.map (·.req)) = false ∧
    (let v := u.modDeep fun m => { m with held := [⟨u.bar2Req 0x300000000 8 none, Machine.DeepObs.clean⟩] }
     v.rd .HI_BAR2_AP 3 .EN ≠ 0 ∧ v.railed 78 = true ∧ v.reqWaits (v.bar2Req 0x300000000 8 none) Machine.DeepObs.clean (v.deep.held.map (·.req)) = true) ∧
    u.reaches .HI_CH_VEC 0 = true ∧ State.reset.host.msixEnable = false := by decide +kernel

theorem test_wit_port :
    State.reset.pinsFree = true ∧ atStep.pinsFree = false ∧ regAccessReaches 0x10000 = true ∧ regAccessReaches 0x31000 = false ∧
    regAccessReaches (bitsOf (8 * 0x2000) 3 23 * 8) = true ∧ regAccessReaches (bitsOf (8 * 0x8000) 3 23 * 8) = false ∧
    (State.reset.wr .PW_STATUS 0 .PHASE 6).rd .PW_STATUS 0 .PHASE = 6 ∧ State.reset.loading = false := by decide +kernel

theorem test_wit_smbus : State.reset.rd .PW_STATUS 0 .PHASE = 0 ∧ (State.reset.wr .PW_STATUS 0 .PHASE 7).rd .PW_STATUS 0 .PHASE ≠ 0 := by decide +kernel

theorem test_wit_width : 0x31000 % 8 = 0 ∧ 0x31004 % 8 = 4 := by decide

theorem test_wit_retrain :
    let u := ((State.reset.wr .HN_STATUS 5 .STATE 7).wr .PW_DOM 77 .STATE 2).wr .PW_DOM 78 .STATE 2
    u.reaches .HN_CTRL 5 = true ∧ (u.wr .HN_STATUS 5 .SPARE_RX 1).reaches .HN_CTRL 5 = true ∧ 1 ≤ u.hnState 5 ∧ u.hnState 5 ≤ 7 ∧ u.powered 77 = true ∧ u.hnState 5 ≠ 8 ∧ (u.wr .HN_STATUS 5 .SPARE_RX 1).rd .HN_STATUS 5 .SPARE_RX = 1 := by decide +kernel

theorem test_wit_active :
    let u := (State.reset.wr .PW_DOM 77 .STATE 2).wr .PW_DOM 78 .STATE 2
    u.reaches .FB_CTRL 0 = true ∧ u.rd .FB_CTRL 0 .ROUTE_HOST = 0 ∧ (match exec .routeCompute u with | .next t => t.rd .FB_CTRL 0 .ACTIVE | _ => 0) = 1 := by decide +kernel

theorem test_wit_fw_reset :
    let u := ((State.reset.wr .PW_STATUS 0 .PHASE 5).wr .PW_DOM 78 .STATE 2).modPower fun p => { p with prog := some (0, 64) }
    u.reaches .PW_CTRL 0 = true ∧ u.power.prog = some (0, 64) ∧ u.rd .PW_STATUS 0 .PHASE ≠ 0 ∧ u.power.shut = none := by decide +kernel

theorem test_wit_quiesce :
    let u := ((State.reset.wr .CH_CTRL 9 .STATE 3).wr .PW_DOM 78 .STATE 2).modChan 9 fun x => { x with held := [⟨0, 1, 9, 5, [], false⟩] }
    u.reaches .CH_CTRL 9 = true ∧ u.rd .CH_CTRL 9 .STATE = 3 ∧ u.waitsIn 9 = true ∧ u.replays (u.chCamp 9) = false ∧ (u.chan 9).fired = false ∧ u.rd .CH_CFG 9 .POLICY = 0 ∧
    (u.wr .CH_TIMEOUT 9 .MS 5).rd .CH_TIMEOUT 9 .MS ≠ 0 := by decide +kernel

theorem test_wit_sleep :
    let u := (State.reset.wr .CC_STATUS 7 .PSTATE 1).modCore 7 fun x => { x with ready := [5] }
    u.rd .CC_STATUS 7 .PSTATE = 1 ∧ (u.core 7).ready = [5] := by decide +kernel

theorem test_wit_load_first :
    let u := ((State.reset.wr .PW_DOM 78 .STATE 2).wr .PW_DOM 77 .STATE 2).modLoad fun l => { l with active := true, lmod := some 0, places := [⟨0, 0, 2 ^ 63, 0, 0, 0⟩] }
    u.reaches .HS_CMD 0 = true ∧ u.reaches .PW_DOM 63 = true ∧ u.load.active = true ∧ u.load.failing = none ∧ u.load.own.pitches.testBit 63 = true ∧ u.load.lmod = some 0 ∧ u.rd .HS_CMD 0 .BUSY = 0 ∧
    u.domState 63 ≠ 4 ∧ u.power.shut = none := by decide +kernel

theorem test_wit_spares : (State.reset.cluster 575).spare0 ≤ 65 ∧ (State.reset.cluster 575).spare1 ≤ 65 ∧ (State.reset.cluster 575).spare0 ≠ (State.reset.cluster 575).spare1 := by decide +kernel

theorem test_wit_ecc : mcanon MemWord.clear (State.reset.cluster 575).mem = true ∧ (39 < 40 ∧ 7 < 8 ∧ (39 : Nat) ≠ 38 ∧ (7 : Nat) ≠ 6) := by decide

end Sys2Proof.Machine
end

section
/-! Proofs of the statements of chapter 0: the width of the registers as the host sees them (R13). -/

namespace Sys2Proof.Machine

/-! ## The value of a register -/

/-- Fields that stand in rising order from bit `lo` on, without overlap, the last one below bit 40. -/
def fieldsRise : Nat → List FieldSpec → Bool
  | lo, [] => decide (lo ≤ 40)
  | lo, x :: l => decide (lo ≤ x.lo) && fieldsRise (x.lo + x.width) l

/-- The register tables list every register's fields from bit 0 upwards, within 40 bits. -/
theorem fieldsOf_rise (r : RegName) : fieldsRise 0 (fieldsOf r) = true := by
  cases r <;> rfl

/-- A field of `w` bits put at bit `pos`, above a number that ends at or below it, ends at bit `pos + w`. -/
theorem add_mul_two_pow_lt {a v lo pos w : Nat} (ha : a < 2 ^ lo) (hpos : lo ≤ pos) (hv : v < 2 ^ w) :
    a + v * 2 ^ pos < 2 ^ (pos + w) := by
  have hbelow : a < 2 ^ pos := Nat.lt_of_lt_of_le ha (Nat.pow_le_pow_right (by decide) hpos)
  calc a + v * 2 ^ pos < 2 ^ pos + v * 2 ^ pos := Nat.add_lt_add_right hbelow _
    _ = (v + 1) * 2 ^ pos := by rw [Nat.add_mul, Nat.one_mul, Nat.add_comm]
    _ ≤ 2 ^ w * 2 ^ pos := Nat.mul_le_mul_right _ hv
    _ = 2 ^ (pos + w) := by rw [← Nat.pow_add, Nat.add_comm]

/-- Values that fit their rising fields, put together over a number that ends below them, stay within 40 bits. -/
theorem foldl_fields_lt {v : FieldSpec → Nat} (hv : ∀ x, v x < 2 ^ x.width) {l : List FieldSpec} {lo a : Nat}
    (hl : fieldsRise lo l = true) (ha : a < 2 ^ lo) : l.foldl (fun b x => b + v x * 2 ^ x.lo) a < 2 ^ 40 := by
  induction l generalizing lo a with
  | nil => exact Nat.lt_of_lt_of_le ha (Nat.pow_le_pow_right (by decide) (of_decide_eq_true hl))
  | cons x l ih =>
    obtain ⟨hlo, hrest⟩ : lo ≤ x.lo ∧ fieldsRise (x.lo + x.width) l = true := by simpa [fieldsRise] using hl
    exact ih hrest (add_mul_two_pow_lt ha hlo (hv x))

/-- What a register reads is a 40-bit number (R13). -/
theorem State.regValue_lt (s : State) (r : RegName) (i : Nat) : s.regValue r i < 2 ^ 40 := by
  refine foldl_fields_lt (fun x => ?_) (fieldsOf_rise r) Nat.one_pos
  split
  · exact Nat.two_pow_pos _
  · exact Nat.mod_lt _ (Nat.two_pow_pos _)

/-! ## A read of a whole slot -/

/-- Whatever a slot's offset reaches, the 64-bit read of it answers 40 bits: a slot without a register answers 0. -/
theorem State.bar0Read_whole_lt (s : State) (off : Nat) : (s.bar0Read off 2).1 < 2 ^ 40 := by
  unfold State.bar0Read
  split
  next => exact Nat.two_pow_pos 40
  next => exact Nat.two_pow_pos 40
  next =>
    split
    next => exact Nat.two_pow_pos 40
    next r i _ => exact s.regValue_lt r i

/-- An aligned read of BAR0 gives the next state and the answer of `bar0Read`. -/
theorem exec_rcRead_bar0 {off : Nat} {wide : Bool} (h : aligned off wide = true) (s : State) :
    exec (.rcRead (.bar0 off) wide) s =
      .next ((s.bar0Read off (partOf off wide)).2.emit (.answer (s.bar0Read off (partOf off wide)).1 false)) := by
  show Host.Outcome.next (if aligned off wide then _ else _) = _
  rw [if_pos h]

/-! ## The bits of a write that a slot takes -/

theorem RegWrite.of_whole_mod (v : Nat) : RegWrite.of (v % 2 ^ 40) 2 = RegWrite.of v 2 := by
  simp [RegWrite.of]

theorem RegWrite.of_upper_mod (v : Nat) : RegWrite.of (v % 2 ^ 8) 1 = RegWrite.of v 1 := by
  simp [RegWrite.of]

/-- A write of BAR0 depends on the value only by the write that it makes of the slot. -/
theorem State.bar0Write_congr {part v v' : Nat} (h : RegWrite.of v part = RegWrite.of v' part) (s : State) (off : Nat)
    (o : WriteObs) (by' : Writer) : s.bar0Write off part v o by' = s.bar0Write off part v' o by' := by
  unfold State.bar0Write
  rw [h]

/-- Two values that make the same write of the slot give the same REGISTER_WRITE of BAR0, aligned or not. -/
theorem exec_registerWrite_bar0_congr {off v v' : Nat} {wide : Bool}
    (h : RegWrite.of v (partOf off wide) = RegWrite.of v' (partOf off wide)) (s : State) (o : WriteObs) :
    exec (.registerWrite (.bar0 off) wide v o) s = exec (.registerWrite (.bar0 off) wide v' o) s := by
  show Host.Outcome.next (if aligned off wide then s.bar0Write off (partOf off wide) v o .host else _) = _
  rw [State.bar0Write_congr h]
  rfl

/-- Settles O50: the fields of every register lie within 40 bits, and a write keeps of its value only the bits of the register
that the access reaches. -/
theorem registersAreFortyBitsWide : Obligations.RegistersAreFortyBitsWide := by
  refine ⟨State.regValue_lt, fun s off h => ?_, fun s off v o => ?_, fun s off v o h => ?_⟩
  · exact ⟨_, _, exec_rcRead_bar0 (wide := true) (beq_iff_eq.mpr h) s, s.bar0Read_whole_lt off⟩
  · exact exec_registerWrite_bar0_congr (wide := true) (RegWrite.of_whole_mod v).symm s o
  · have hpart : partOf off false = 1 := by simp [partOf, h]
    refine exec_registerWrite_bar0_congr ?_ s o
    rw [hpart, RegWrite.of_upper_mod]

end Sys2Proof.Machine
end

section
/-! Proofs of the statements of chapter 1: the run commands of a camp that R52 and R54 reject. -/

namespace Sys2Proof.Machine

/-! ## The run commands as host writes -/

section
variable {s : State} {c : Nat} (h : s.reaches .RUN_CAMP_CTRL c = true) (f : RunFields)
include h

/-- A run command whose write reaches RUN_CAMP_CTRL acts on the state with the holding register emptied (R20, R51). -/
theorem exec_start_reached : exec (.start c f) s = .next ((s.unhold .RUN_CAMP_CTRL c).start c f) :=
  State.asWrite_reached h fun s => .next (s.start c f)

theorem exec_pause_reached : exec (.pause c f) s = .next ((s.unhold .RUN_CAMP_CTRL c).pause c f) :=
  State.asWrite_reached h fun s => .next (s.pause c f)

theorem exec_resume_reached : exec (.resume c f) s = .next ((s.unhold .RUN_CAMP_CTRL c).resume c f) :=
  State.asWrite_reached h fun s => .next (s.resume c f)

theorem exec_step_reached : exec (.step c f) s = .next ((s.unhold .RUN_CAMP_CTRL c).stepCycles c f) :=
  State.asWrite_reached h fun s => .next (s.stepCycles c f)

theorem exec_halt_reached : exec (.halt c f) s = .next ((s.unhold .RUN_CAMP_CTRL c).halt c f) :=
  State.asWrite_reached h fun s => .next (s.halt c f)

theorem exec_unload_reached : exec (.unload c f) s = .next ((s.unhold .RUN_CAMP_CTRL c).unload c f) :=
  State.asWrite_reached h fun s => .next (s.unload c f)

end

/-! ## Where each run command is rejected (R47, R52, R54) -/

section
variable {s : State} {c : Nat} {f : RunFields}

/-- START is not valid while a command is pending, in a state that R47 does not name for it, or with START_SRC 1 and nothing selected. -/
theorem State.startOk_eq_false {src : Bool}
    (h : (s.camp c).pend ≠ none ∨ (s.campState c ≠ 2 ∧ (src = false ∨ (s.campState c ≠ 4 ∧ s.campState c ≠ 5))) ∨
      (src = true ∧ s.rd .DC_SNAP_SEL c .VALID = 0)) : s.startOk c src = false := by
  rcases h with hbusy | ⟨hstate, hsrc | ⟨hpaused, hhalted⟩⟩ | ⟨hsrc, hsel⟩
  · simp [State.startOk, hbusy]
  · simp [State.startOk, hstate, hsrc]
  · simp [State.startOk, hstate, hpaused, hhalted]
  · simp [State.startOk, hsrc, hsel]

theorem State.start_eq_runErr (h : s.startOk c f.src = false) : s.start c f = s.runErr c := by
  simp [State.start, h]

theorem State.pause_eq_runErr (h : (s.camp c).pend ≠ none ∨ s.campState c ≠ 3) : s.pause c f = s.runErr c := by
  refine if_neg fun ⟨hstate, hfree⟩ => ?_
  exact h.elim (· (Option.isNone_iff_eq_none.mp hfree)) (· hstate)

theorem State.resume_eq_runErr (h : (s.camp c).pend ≠ none ∨ s.campState c ≠ 4) : s.resume c f = s.runErr c := by
  refine if_neg fun ⟨hstate, hfree⟩ => ?_
  exact h.elim (· (Option.isNone_iff_eq_none.mp hfree)) (· hstate)

theorem State.stepCycles_eq_runErr
    (h : (s.camp c).pend ≠ none ∨ (s.campState c ≠ 3 ∧ s.campState c ≠ 4) ∨ f.steps % 2 ^ 24 = 0) :
    s.stepCycles c f = s.runErr c := by
  rcases h with hbusy | ⟨hrunning, hpaused⟩ | hzero
  · simp [State.stepCycles, hbusy]
  · simp [State.stepCycles, hrunning, hpaused]
  · exact if_pos (.inl hzero)

/-- Outside RUNNING and PAUSED a HALT has only a held START to take back (R261). -/
theorem State.halt_eq_runErr (hrunning : s.campState c ≠ 3) (hpaused : s.campState c ≠ 4)
    (hstart : (s.camp c).pend ≠ some .start) : s.halt c f = s.runErr c := by
  simp [State.halt, hrunning, hpaused, hstart]

theorem State.unload_eq_runErr
    (h : (s.camp c).pend ≠ none ∨ (s.campState c ≠ 2 ∧ s.campState c ≠ 4 ∧ s.campState c ≠ 5)) :
    s.unload c f = s.runErr c := by
  refine if_neg fun ⟨hstate, hfree⟩ => ?_
  rcases h with hbusy | ⟨hloaded, hpaused, hhalted⟩
  · exact hbusy (Option.isNone_iff_eq_none.mp hfree)
  · exact hstate.elim hloaded (·.elim hpaused hhalted)

/-- A CMD value above UNLOAD's is none of R51's. -/
theorem State.writeRun_eq_runErr {w : RegWrite} (h : 7 ≤ w.got .RUN_CAMP_CTRL .CMD) : s.writeRun c w = s.runErr c := by
  obtain ⟨n, hn⟩ := Nat.exists_eq_add_of_le' h
  unfold State.writeRun
  rw [hn]
  rfl

end

/-- Settles O11: in each state that R47, R52 and R54 shut out, the command's own meaning takes its rejecting branch. -/
theorem rejectedRunCommandChangesNothing : Obligations.RejectedRunCommandChangesNothing := by
  intro s₀ c f w hreach
  rw [exec_start_reached hreach, exec_pause_reached hreach, exec_resume_reached hreach, exec_step_reached hreach,
    exec_halt_reached hreach, exec_unload_reached hreach]
  exact ⟨fun h => congrArg _ (State.start_eq_runErr (State.startOk_eq_false h)),
    fun h => congrArg _ (State.pause_eq_runErr h),
    fun h => congrArg _ (State.resume_eq_runErr h),
    fun h => congrArg _ (State.stepCycles_eq_runErr h),
    fun hrunning hpaused hstart => congrArg _ (State.halt_eq_runErr hrunning hpaused hstart),
    fun h => congrArg _ (State.unload_eq_runErr h),
    State.writeRun_eq_runErr⟩

end Sys2Proof.Machine
end

section
/-! Proofs of the statements of chapter 2: shadow writes, their marks, and the commit at B0 (R76). -/

namespace Sys2Proof.Machine

/-! ## Cells of the 1,024-bit stores at the commit -/

@[simp] theorem Bits1024.zero_at (i : Nat) : Bits1024.at 0 i = false := BitVec.getLsbD_zero

/-- Cell by cell, the commit takes the shadow value of a marked address and keeps the state of an unmarked one. -/
theorem Bp.commit_state_at (b : Bp) (i : Nat) :
    b.commit.state.at i = if b.marks.at i = true then b.shadow.at i else b.state.at i := by
  simp only [Bp.commit, Bits1024.at, BitVec.getLsbD_or, BitVec.getLsbD_and, BitVec.getLsbD_not]
  by_cases hmark : b.marks.getLsbD i = true
  · simp [hmark]
  · simpa [hmark] using fun h : b.state.getLsbD i = true => BitVec.lt_of_getLsbD h

/-! ## What B0 leaves of a BP -/

/-- The BP holds the committed state that `b` commits to, and no mark. -/
def Bp.CommittedFrom (b b' : Bp) : Prop := b'.state = b.commit.state ∧ b'.marks = 0

theorem Bp.committedFrom_commit (b : Bp) : b.CommittedFrom b.commit := ⟨rfl, rfl⟩

/-- With no mark left, a second commit takes nothing from the shadow. -/
theorem Bp.CommittedFrom.commit {b b' : Bp} (h : b.CommittedFrom b') : b.CommittedFrom b'.commit := by
  obtain ⟨hstate, hmarks⟩ := h
  refine ⟨?_, rfl⟩
  calc b'.commit.state
    _ = (b'.state &&& ~~~0#1024) ||| (b'.shadow &&& 0#1024) := by rw [Bp.commit, hmarks]; rfl
    _ = b'.state := by simp only [BitVec.not_zero, BitVec.and_allOnes, BitVec.and_zero, BitVec.or_zero]
    _ = b.commit.state := hstate

theorem Bp.CommittedFrom.withDrain {b b' : Bp} (d : Drain) (h : b.CommittedFrom b') :
    b.CommittedFrom { b' with drain := d } := h

/-- The discard of a halt inside a design cycle (R56) has nothing marked to lose. -/
theorem Bp.CommittedFrom.discard {b b' : Bp} (h : b.CommittedFrom b') :
    b.CommittedFrom { b' with shadow := 0, marks := 0, line := none, drive := none } := ⟨h.1, rfl⟩

/-! ## The BPs of a cluster at B0 -/

theorem Cluster.mulFlush_bp (cl : Cluster) (j : Nat) : cl.mulFlush.bp j = cl.bp j :=
  List.foldlRecOn (motive := fun x : Cluster => x.bp j = cl.bp j) cl.mul _ rfl fun _ h _ _ => h

theorem Cluster.commit_bp (cl : Cluster) (j : Nat) : cl.commit.bp j = (cl.bp j).commit :=
  (Cluster.mulFlush_bp (cl.modAllBps Bp.commit) j).trans (Cluster.bp_modAllBps cl Bp.commit (by decide +kernel) j)

/-- The advance of the drains changes of a BP its drain alone. -/
theorem Cluster.advanceDrains_bp (cl : Cluster) (n j : Nat) : ∃ d, (cl.advanceDrains n).bp j = { cl.bp j with drain := d } := by
  have h : (cl.advanceDrains n).bp j = _ := Cluster.bp_modAllBps cl
    (fun b => match b.drain with | .active p => { b with drain := .active (min 64 (p + n)) } | _ => b) rfl j
  rw [h]
  split
  · exact ⟨_, rfl⟩
  · exact ⟨(cl.bp j).drain, rfl⟩

/-- Where the commit of a BP is what it ought to be, so is the BP as B0 leaves its cluster, whatever becomes of the drain. -/
theorem Cluster.committedFrom_of_commit {b : Bp} {cl : Cluster} {j : Nat} (h : b.CommittedFrom (cl.bp j).commit) :
    b.CommittedFrom ((cl.commit.advanceDrains 1).bp j) := by
  obtain ⟨d, hd⟩ := Cluster.advanceDrains_bp cl.commit 1 j
  rw [hd, Cluster.commit_bp]
  exact h.withDrain d

/-- Every BP of every cluster of a list is committed by the walk of B0 over it; meeting a cluster again changes nothing more. -/
theorem State.forEach_commit_bp (s : State) (l : List Nat) {k : Nat} (hk : k ∈ l) (j : Nat) :
    ((s.cluster k).bp j).CommittedFrom
      (((s.forEach l fun t x => t.modCluster x fun cl => cl.commit.advanceDrains 1).cluster k).bp j) := by
  induction l generalizing s with
  | nil => exact absurd hk List.not_mem_nil
  | cons x l ih =>
    by_cases hx : x = k
    · subst hx
      refine State.forEach_modCluster_bp _ _ l x j (fun cl h => Cluster.committedFrom_of_commit h.commit)
        (s.modCluster x fun cl => cl.commit.advanceDrains 1) ?_
      rw [State.cluster_modCluster_self]
      exact Cluster.committedFrom_of_commit (Bp.committedFrom_commit _)
    · have hl := ih (s.modCluster x fun cl => cl.commit.advanceDrains 1) (List.mem_of_ne_of_mem (Ne.symm hx) hk)
      rwa [State.cluster_modCluster_ne _ _ hx] at hl

/-- The clusters are all that a cluster is read from. -/
theorem State.cluster_congr {t u : State} (h : t.clusters = u.clusters) (k : Nat) : t.cluster k = u.cluster k :=
  congrArg (tget Cluster.reset · k) h

/-! ## B0 changes the clusters by that walk, and by a halt taken where the camp freezes -/

theorem State.chargeSteps_clusters (s : State) (c n : Nat) : (s.chargeSteps c n).clusters = s.clusters := by
  simp only [State.chargeSteps]
  split <;> rfl

theorem State.stepMismatch_clusters (s : State) (c cyc island own other module : Nat) :
    (s.stepMismatch c cyc island own other module).clusters = s.clusters :=
  State.contractEvent_apart apart_clusters (fun _ _ => rfl) _ _ _ _ _ _ _ fun _ => State.wrs_clusters ..

theorem State.summaryFault_clusters (s : State) (c : Nat) : (s.summaryFault c).clusters = s.clusters := by
  unfold State.summaryFault
  split
  · exact State.campIrq_clusters ..
  · rfl

theorem State.makeVector_clusters (s : State) (c m : Nat) : (s.makeVector c m).2.clusters = s.clusters := by
  have hclocks (l : List LogEntry) : (l.foldl (fun t e => t.applyClock c e) s).clusters = s.clusters :=
    State.forEach_same State.clusters
      (fun t e => State.forEach_same State.clusters (fun u _ => by simp) t _) s l
  have hnext (t : State) : (t.nextVector c).2.clusters = t.clusters :=
    List.foldlRecOn (motive := fun a : BitVec 16 × State => a.2.clusters = t.clusters) _ _ rfl fun _ h _ _ => h
  simp only [State.makeVector, State.modCamp_clusters, hnext, hclocks]

theorem State.forEach_modGroup_clusters (s : State) (c : Nat) (l : List Nat) (f : Group → Group) :
    (s.forEach l fun t d => t.modGroup c d f).clusters = s.clusters :=
  State.forEach_same State.clusters (f := fun t d => t.modGroup c d f) (fun _ _ => rfl) s l

theorem State.queueVector_clusters (s : State) (c m : Nat) (v : BitVec 16) : (s.queueVector c m v).clusters = s.clusters :=
  State.forEach_modGroup_clusters s c _ _

/-- Before the move on to B1, which takes a halt where the camp freezes, B0 changes the clusters by its walk alone. -/
theorem State.commitCycle_clusters (s : State) (c : Nat) : ∃ u : State, s.commitCycle c = u.haltIfFrozen c ∧
    u.clusters = (s.forEach (s.campClusters c) fun t k => t.modCluster k fun cl => cl.commit.advanceDrains 1).clusters := by
  refine ⟨_, rfl, ?_⟩
  rw [State.forEach_modGroup_clusters, State.guylineOut_apart apart_clusters, State.forEach_modGroup_clusters,
    State.modCamp_clusters, apply_ite State.clusters, State.queueVector_clusters, ite_self, State.makeVector_clusters,
    apply_ite State.clusters, State.summaryFault_clusters, ite_self]
  split
  · rw [State.stepMismatch_clusters, State.chargeSteps_clusters]
  · rw [State.chargeSteps_clusters]

/-- At the end of B0 every BP of the camp's clusters is committed, also where a halt was taken there (R56, R76). -/
theorem State.commitCycle_bp (s : State) (c : Nat) {k : Nat} (hk : k ∈ s.campClusters c) (j : Nat) :
    ((s.cluster k).bp j).CommittedFrom (((s.commitCycle c).cluster k).bp j) := by
  obtain ⟨u, hu, hclusters⟩ := s.commitCycle_clusters c
  rw [hu]
  refine State.haltIfFrozen_bp _ (fun _ d h => h.withDrain d) (fun _ h => h.discard) u c k j ?_
  rw [State.cluster_congr hclusters]
  exact s.forEach_commit_bp _ hk j

/-! ## A shadow write -/

/-- The shadow and the marks of a BP are `sh` and `mk`. -/
def Bp.HasShadow (sh mk : Bits1024) (b : Bp) : Prop := b.shadow = sh ∧ b.marks = mk

theorem Bp.HasShadow.withBits {sh mk : Bits1024} {b : Bp} (x : Bits1024) (h : b.HasShadow sh mk) :
    Bp.HasShadow sh mk { b with bits := x } := h

theorem Bp.HasShadow.withDrain {sh mk : Bits1024} {b : Bp} (d : Drain) (h : b.HasShadow sh mk) :
    Bp.HasShadow sh mk { b with drain := d } := h

theorem Bp.HasShadow.apply {sh mk : Bits1024} {b : Bp} {e : BpEffect} {a : Nat} {v : Bool} (he : e.shadow = some (a, v))
    (h : b.HasShadow sh mk) : (b.apply e).HasShadow (sh.put a v) (mk.put a true) := by
  simp [Bp.HasShadow, Bp.apply, he, h.1, h.2]

/-- An instruction that writes the state shadow has one address to write, that of its D select, and drives no outgoing slot (R65, R82). -/
theorem bpEffect_of_writesShadow {op : BpOp} {f : BpFields} (h : writesShadow op f = true) (x : StepCtx) (cl : Cluster) (b : Bp) :
    ∃ v, (bpEffect x cl b op f).shadow = some (selIndex f.d, v) ∧ (bpEffect x cl b op f).slot = none := by
  cases op with
  | lut4 =>
    have hdest : f.dest = 1 ∨ f.dest = 2 := by simpa [writesShadow] using h
    exact ⟨_, if_pos hdest, rfl⟩
  | lut4e => exact ⟨_, rfl, rfl⟩
  | nop => cases h
  | route => cases h
  | hold => cases h
  | ckpt => cases h

section
variable {sh mk : Bits1024} {cl : Cluster} {j : Nat}

theorem Cluster.takeBack_hasShadow (who : Nat) (h : (cl.bp j).HasShadow sh mk) : ((cl.takeBack who).bp j).HasShadow sh mk :=
  List.foldrRecOn (motive := fun x : Cluster => (x.bp j).HasShadow sh mk) _ _ h fun x hx e _ =>
    Cluster.bp_modBp (Bp.HasShadow sh mk) x e.bp j _ (fun _ hb => hb.withBits _) hx

theorem Cluster.putBit_hasShadow (who bp addr : Nat) (v : Bool) (h : (cl.bp j).HasShadow sh mk) :
    ((cl.putBit who bp addr v).bp j).HasShadow sh mk :=
  Cluster.bp_modBp (Bp.HasShadow sh mk) cl bp j _ (fun _ hb => hb.withBits _) h

theorem Cluster.ckpt_hasShadow (step i : Nat) (h : (cl.bp j).HasShadow sh mk) : ((cl.ckpt step i).bp j).HasShadow sh mk := by
  have hmod (d : Drain) : ((cl.modBp i fun b => { b with drain := d }).bp j).HasShadow sh mk :=
    Cluster.bp_modBp (Bp.HasShadow sh mk) cl i j _ (fun _ hb => hb.withDrain d) h
  unfold Cluster.ckpt
  split
  · split
    · exact hmod _
    · exact hmod _
  · exact h

/-- A BP's effect reaches its shadow and marks by `Bp.apply` alone: the bit store, the outgoing slot and the drain stand apart. -/
theorem Cluster.applyBp_hasShadow (step : Nat) {e : BpEffect} {a : Nat} {v : Bool} (he : e.shadow = some (a, v))
    (h : (cl.bp j).HasShadow sh mk) : ((cl.applyBp step j e).bp j).HasShadow (sh.put a v) (mk.put a true) := by
  have happlied : ((cl.modBp j fun b => b.apply e).bp j).HasShadow (sh.put a v) (mk.put a true) := by
    rw [Cluster.bp_modBp_self]
    exact h.apply he
  unfold Cluster.applyBp
  extract_lets _ _ written routed
  have hbit : (written.bp j).HasShadow (sh.put a v) (mk.put a true) := by
    unfold written
    split
    · exact Cluster.putBit_hasShadow _ _ _ _ happlied
    · exact happlied
  have hslot : (routed.bp j).HasShadow (sh.put a v) (mk.put a true) := by
    unfold routed
    split
    · exact hbit
    · exact hbit
  split
  · exact Cluster.ckpt_hasShadow _ _ hslot
  · exact hslot

end

theorem State.logFault_clusters (s : State) (c k code bp step opnd : Nat) :
    (s.logFault c k code bp step opnd).clusters = s.clusters := by
  simp only [State.logFault, State.campFault, State.modGroup, State.modCamp_clusters]
  rw [State.logIn_apart apart_clusters (fun _ _ => rfl) _ _ _ _ _ _ _ _ fun _ => State.wr_clusters ..]
  exact State.wr_clusters ..

theorem State.beatUnpack_hasShadow {s : State} {k j : Nat} {sh mk : Bits1024} (c n b : Nat) (h : ((s.cluster k).bp j).HasShadow sh mk) :
    (((s.beatUnpack c k n b).cluster k).bp j).HasShadow sh mk := by
  unfold State.beatUnpack
  split
  · rw [State.cluster_congr (State.logFault_clusters ..), State.cluster_modCluster_self]
    exact Cluster.takeBack_hasShadow _ h
  · exact h

/-- The turn of a BP whose instruction raises no fault and drives no outgoing slot (R94, R124). -/
theorem State.bpTurn_of_no_fault {s : State} {c k n b : Nat} {op : BpOp} {f : BpFields} {e : BpEffect}
    (hfaults : bpFaults (s.ctxAt c (k / 72) k n) (s.cluster k).before ((s.cluster k).before.bp b) op f = [])
    (he : bpEffect (s.ctxAt c (k / 72) k n) (s.cluster k).before ((s.cluster k).before.bp b) op f = e) (hslot : e.slot = none) :
    s.bpTurn c k n b (some op) f =
      (if e.bit.isSome then s.beatUnpack c k n b else s).modCluster k fun x => x.applyBp n b e := by
  simp only [State.bpTurn, bpRun, hfaults, he, hslot]

/-- A shadow write that no check suppresses writes the shadow at the address of its D select and marks that address (R76). -/
theorem State.bpTurn_hasShadow {s : State} {c k n b : Nat} {op : BpOp} {f : BpFields} (hw : writesShadow op f = true)
    (hfaults : bpFaults (s.ctxAt c (k / 72) k n) (s.cluster k).before ((s.cluster k).before.bp b) op f = []) :
    ∃ v, (((s.bpTurn c k n b (some op) f).cluster k).bp b).HasShadow (((s.cluster k).bp b).shadow.put (selIndex f.d) v)
      (((s.cluster k).bp b).marks.put (selIndex f.d) true) := by
  obtain ⟨v, hshadow, hslot⟩ := bpEffect_of_writesShadow hw (s.ctxAt c (k / 72) k n) (s.cluster k).before ((s.cluster k).before.bp b)
  refine ⟨v, ?_⟩
  rw [State.bpTurn_of_no_fault hfaults rfl hslot, State.cluster_modCluster_self]
  refine Cluster.applyBp_hasShadow n hshadow ?_
  split
  · exact State.beatUnpack_hasShadow c n b ⟨rfl, rfl⟩
  · exact ⟨rfl, rfl⟩

theorem State.runBp_of_stepOf {s : State} {loc : BpSite} {c n : Nat} (h : s.stepOf (72 * loc.die + loc.slot) = some (c, n))
    (op : BpOp) (f : BpFields) :
    s.runBp loc op f = (s.bpTurn c (72 * loc.die + loc.slot) n loc.bp (some op) f).haltIfFrozen c := by
  simp only [State.runBp, h]

/-- Settles O15: no turn without a fault writes shadow or marks but through `Bp.apply`, and the walk of B0 commits every BP of
the camp, which nothing after it in B0 undoes. -/
theorem markedAddressesTakeTheirShadow : Obligations.MarkedAddressesTakeTheirShadow := by
  refine ⟨fun s loc f c n op i hi => ?_, fun s c hb0 => ?_⟩
  · intro k cl b hstep hfaults
    obtain ⟨hw, hexec⟩ : writesShadow op f = true ∧ exec i s = .next (s.runBp loc op f) := by
      rcases hi with ⟨rfl, rfl, hdest⟩ | ⟨rfl, rfl⟩
      · exact ⟨by simpa [writesShadow] using hdest, rfl⟩
      · exact ⟨rfl, rfl⟩
    obtain ⟨v, hshadow, hmarks⟩ := State.bpTurn_hasShadow hw hfaults
    exact ⟨_, v, by rw [hexec, State.runBp_of_stepOf hstep], hshadow, hmarks⟩
  · refine ⟨s.commitCycle c, congrArg _ (if_pos hb0), fun k hk j i => ?_⟩
    obtain ⟨hstate, hmarks⟩ := s.commitCycle_bp c hk j
    rw [hstate, hmarks]
    exact ⟨Bp.commit_state_at _ i, Bits1024.zero_at i⟩

end Sys2Proof.Machine
end

section
/-! Proofs of the statements of chapter 12: a task that becomes ready keeps its core out of SLEEP (R435). -/

namespace Sys2Proof.Machine

/-- Being ready for the core is one of the four conditions of SLEEP_ENTRY, so a listed task alone shuts its sleep out (R428, R435). -/
theorem execSleepEntry_of_ready_ne_nil {s : State} {k : Nat} (h : (s.core k).ready ≠ []) : execSleepEntry k s = .next s :=
  if_neg fun ⟨_, _, hready, _⟩ => h hready

/-- Settles O55: the task on the ready list fails the guard of SLEEP_ENTRY, whose other branch answers the state it was given. -/
theorem readyTaskKeepsTheCoreAwake : Obligations.ReadyTaskKeepsTheCoreAwake := by
  intro s k i rest hidle hready
  have hstays : exec (.sleepEntry k) s = .next s :=
    execSleepEntry_of_ready_ne_nil (hready ▸ List.cons_ne_nil i rest)
  exact ⟨s, hstays, rfl, hidle, rfl, rfl⟩

end Sys2Proof.Machine
end

section
/-! Proofs of the statements of chapter 13: a QUIESCE while a blocking port waits (R472). -/

namespace Sys2Proof.Machine

section
variable {s : State} {h : Nat}

/-- Of the registers only CH_CFG says whether the inbound direction waits: it names the port's camp and its turn (R452). -/
theorem State.waitsIn_wr (s : State) {r : RegName} (i : Nat) (f : FName) (v h : Nat) (hr : r ≠ .CH_CFG) :
    (s.wr r i f v).waitsIn h = s.waitsIn h := by
  have hcfg (g : FName) : (s.wr r i f v).rd .CH_CFG h g = s.rd .CH_CFG h g := State.rd_wr_reg s i h f g v hr
  have hturn : (s.wr r i f v).waitingTurn h = s.waitingTurn h := by
    unfold State.waitingTurn State.btask State.chCamp
    rw [hcfg, hcfg, hcfg, State.wr_camp]
  unfold State.waitsIn
  rw [hturn, State.wr_chan]

/-- A QUIESCE of an ACTIVE channel writes CH_CTRL STATE and empties its holding register (R440). -/
theorem exec_chQuiesce_of_active (hreach : s.reaches .CH_CTRL h = true) (hactive : s.rd .CH_CTRL h .STATE = 3) :
    exec (.chQuiesce h) s = .next ((s.unhold .CH_CTRL h).wr .CH_CTRL h .STATE 1) := by
  show execChQuiesce h s = _
  unfold execChQuiesce
  rw [State.asWrite_reached hreach]
  exact if_pos hactive

/-- With POLICY 0 the MS timeout of an inbound wait, in any state but DISABLED, is counted, logged and marked on the channel; the
wait itself goes on (R452, R453, R456). -/
theorem exec_channelTimeout_of_policy_zero (hms : s.rd .CH_TIMEOUT h .MS ≠ 0) (hwaits : s.waitsIn h = true)
    (hlive : s.replays (s.chCamp h) = false) (hfirst : (s.chan h).fired = false) (hstate : s.chState h ≠ 0)
    (hpolicy : s.rd .CH_CFG h .POLICY = 0) (frozen : Nat) :
    exec (.channelTimeout h true frozen) s =
      .next (((s.chError h 5 0 (s.rd .CH_SEQ_IN h .EXPECT) (s.eventCycle (s.chCamp h))).modCamp (s.chCamp h) fun x =>
        { x with logWait := x.logWait ++ [⟨4, h, 0, s.eventCycle (s.chCamp h), [s.rd .CH_SEQ_IN h .EXPECT]⟩] }).modChan h
          fun x => { x with fired := true }) := by
  show execChannelTimeout h true frozen s = _
  simp [execChannelTimeout, hms, hwaits, hlive, hfirst, hstate, hpolicy]

end

/-- Settles O54: the command writes CH_CTRL alone, which neither the wait nor its timeout reads but to see that the channel is
not DISABLED. -/
theorem quiesceLeavesAWaitingPortWaiting : Obligations.QuiesceLeavesAWaitingPortWaiting := by
  intro s h frozen hreach hactive hwaits
  obtain ⟨t, ht⟩ : ∃ t, t = (s.unhold .CH_CTRL h).wr .CH_CTRL h .STATE 1 := ⟨_, rfl⟩
  have hquiescing : t.rd .CH_CTRL h .STATE = 1 := ht ▸ State.rd_wr_self ..
  have hwaiting : t.waitsIn h = true := by
    rw [ht, State.waitsIn_wr _ _ _ _ _ (by decide)]
    exact hwaits
  have hchan : t.chan h = s.chan h := by rw [ht, State.wr_chan, State.unhold_chan]
  refine ⟨t, ht ▸ exec_chQuiesce_of_active hreach hactive, ht, hquiescing, hwaiting, hchan,
    by rw [ht, State.wr_camps, State.unhold_camps], by rw [ht, State.wr_out, State.unhold_out], ?_⟩
  intro hms hlive hfirst hpolicy
  have hother {r : RegName} (i : Nat) (f : FName) (hr : .CH_CTRL ≠ r) : t.rd r i f = s.rd r i f := by
    rw [ht, State.rd_wr_reg _ _ _ _ _ _ hr, State.unhold_rd]
  have hreplays : t.replays (t.chCamp h) = false := by
    rw [State.replays, State.chCamp, hother _ _ (by decide), hother _ _ (by decide)]
    exact hlive
  have hstate : t.chState h ≠ 0 := by
    rw [State.chState, hquiescing]
    decide
  rw [← hother _ _ (by decide)] at hms hpolicy
  rw [← hchan] at hfirst
  exact ⟨_, exec_channelTimeout_of_policy_zero hms hwaiting hreplays hfirst hstate hpolicy frozen,
    by rw [State.chan_modChan_self]⟩

end Sys2Proof.Machine
end

section
/-! Proofs of the statements of chapter 15: RETRAIN during training, and the SPARE that is refused (R527). -/

namespace Sys2Proof.Machine

/-! ## HN_STATUS and what is sent on a port: a flit writes no register but the MP_LINK_STATUS of a link with a key -/

theorem State.launch_rd_hnStatus (s : State) (k : Nat) (nak : Bool) (x : OutFlit) (p : Nat) (g : FName) :
    (s.launch k nak x).rd .HN_STATUS p g = s.rd .HN_STATUS p g := by
  simp only [State.launch, State.setKeys, State.sendTx]
  split <;> simp [State.rd_wr]

theorem State.pumpPort_rd_hnStatus (s : State) (k n p : Nat) (g : FName) :
    (s.pumpPort k n).rd .HN_STATUS p g = s.rd .HN_STATUS p g := by
  induction n generalizing s with
  | zero => rfl
  | succ n ih =>
    simp only [State.pumpPort]
    split
    · rfl
    · split
      · rw [ih, State.launch_rd_hnStatus, State.modHn_rd]
      · rfl

theorem State.sendFlit_rd_hnStatus (s : State) (k : Nat) (x : OutFlit) (p : Nat) (g : FName) :
    (s.sendFlit k x).rd .HN_STATUS p g = s.rd .HN_STATUS p g := by
  simp only [State.sendFlit]
  split
  · simp only [State.exitIdle]
    split <;> rfl
  · rw [State.pumpPort_rd_hnStatus, State.modHn_rd]

/-! ## HN_STATUS and a neighbour's state: its change writes registers of the fabric, of time and of the interrupts -/

theorem State.topoChanged_rd_hnStatus (s : State) (p : Nat) (g : FName) :
    s.topoChanged.rd .HN_STATUS p g = s.rd .HN_STATUS p g := by
  unfold State.topoChanged
  split
  · rw [State.irq_rd _ _ _ _ (by decide), State.rd_wr_reg _ _ _ _ _ _ (by decide)]
  · rfl

theorem State.putTopo_rd_hnStatus (s : State) (a : Nat) (x : Topo) (p : Nat) (g : FName) :
    (s.putTopo a x).rd .HN_STATUS p g = s.rd .HN_STATUS p g := by
  have hshown : ((s.modFab fun f => { f with topo := tset f.topo a x }).showTopo).rd .HN_STATUS p g = s.rd .HN_STATUS p g :=
    State.wrs_rd_reg _ _ _ _ _ (by decide)
  simp only [State.putTopo]
  split
  · exact hshown
  · rw [State.topoChanged_rd_hnStatus, hshown]

theorem State.flood_rd_hnStatus (s : State) (p : Nat) (g : FName) : s.flood.rd .HN_STATUS p g = s.rd .HN_STATUS p g := by
  simp only [State.flood]
  split
  · rw [State.forEach_same (State.rd · .HN_STATUS p g) fun t k => State.sendFlit_rd_hnStatus t k _ p g,
      State.putTopo_rd_hnStatus, State.modFab_rd]
  · rfl

theorem State.offerGone_rd_hnStatus (s : State) (k p : Nat) (g : FName) :
    (s.offerGone k).rd .HN_STATUS p g = s.rd .HN_STATUS p g := by
  have hreparent (t : State) : t.reparent.rd .HN_STATUS p g = t.rd .HN_STATUS p g := by
    unfold State.reparent
    split
    · split
      · exact State.wrs_rd_reg _ _ _ _ _ (by decide)
      · exact State.wrs_rd_reg _ _ _ _ _ (by decide)
    · rfl
  unfold State.offerGone
  split
  · rw [hreparent, State.modTime_rd]
  · rfl

theorem State.setNbr_rd_hnStatus (s : State) (k st p : Nat) (g : FName) :
    (s.setNbr k st).rd .HN_STATUS p g = s.rd .HN_STATUS p g := by
  have hwritten : (s.wr .FB_NBR k .STATE st).rd .HN_STATUS p g = s.rd .HN_STATUS p g :=
    State.rd_wr_reg _ _ _ _ _ _ (by decide)
  have hflagged (t : State) : ((t.wr .FB_STATUS 0 .ADDR_CONFLICT 1).irq 3).rd .HN_STATUS p g = t.rd .HN_STATUS p g := by
    rw [State.irq_rd _ _ _ _ (by decide), State.rd_wr_reg _ _ _ _ _ _ (by decide)]
  simp only [State.setNbr]
  split
  · rfl
  · rw [State.flood_rd_hnStatus]
    split <;> split <;> simp only [State.offerGone_rd_hnStatus, hflagged, hwritten]

/-! ## Training -/

/-- A training begins at DETECT (R506, R517): nothing after the write of STATE reaches HN_STATUS STATE. -/
theorem State.startTraining_hnState (s : State) (p : Nat) (again : Bool) : (s.startTraining p again).hnState p = 1 := by
  simp only [State.hnState, State.startTraining]
  rw [State.setNbr_rd_hnStatus, State.draw_rd, State.modHn_rd, State.wrs_rd_reg _ _ _ _ _ (by decide), State.bump,
    State.rd_wr_reg _ _ _ _ _ _ (by decide), State.wrs_cons, State.wrs_rd_fld _ _ _ _ _ (by simp), State.rd_wr_self]
  rfl

/-- A port whose EN is 1 and whose domain is powered retrains from DETECT. -/
theorem State.retrain_hnState {s : State} {p : Nat} (hen : s.rd .HN_CTRL p .EN = 1) (hpowered : s.powered 77 = true) :
    (s.retrain p).hnState p = 1 := by
  simp only [State.retrain, if_pos (And.intro hen hpowered)]
  exact State.startTraining_hnState ..

/-! ## HN_CTRL -/

theorem State.hnCtrl_en (s : State) (p : Nat) (f : HnFields) : (s.hnCtrl p f).rd .HN_CTRL p .EN = bit f.en := by
  rw [State.hnCtrl, State.wrs_cons, State.wrs_rd_fld _ _ _ _ _ (by simp), State.rd_wr_self]
  cases f.en <;> rfl

theorem State.hnCtrl_powered (s : State) (p : Nat) (f : HnFields) (d : Nat) : (s.hnCtrl p f).powered d = s.powered d := by
  rw [State.powered, State.hnCtrl, State.wrs_rd_reg _ _ _ _ _ (by decide)]
  rfl

/-- A SPARE on a port that is not UP, or whose receive spare is in use, stores the fields of its write and sets CMD_ERR (R527). -/
theorem exec_hnSpareCmd_refused {s : State} {p : Nat} (hreach : s.reaches .HN_CTRL p = true)
    (h : s.hnState p ≠ 8 ∨ s.rd .HN_STATUS p .SPARE_RX = 1) (f : HnFields) :
    exec (.hnSpareCmd p f) s = .next (((s.unhold .HN_CTRL p).hnCtrl p f).wr .HN_STATUS p .CMD_ERR 1) := by
  show execHnSpareCmd p f s = _
  unfold execHnSpareCmd
  rw [State.asWrite_reached hreach]
  exact if_pos (h.imp_right Or.inl)

/-- Settles O51: a retraining ends at DETECT, as no change of the neighbour's state reaches HN_STATUS; the SPARE is refused by the
first two conditions of its guard. -/
theorem retrainAndRefusedSpare : Obligations.RetrainAndRefusedSpare := by
  intro s p f hreach
  refine ⟨fun _ _ hen hpowered => ?_, fun hrefused => exec_hnSpareCmd_refused hreach hrefused f⟩
  refine ⟨_, State.asWrite_reached hreach fun s => .next ((s.hnCtrl p f).retrain p), State.retrain_hnState ?_ ?_⟩
  · rw [State.hnCtrl_en, hen]
    rfl
  · rw [State.hnCtrl_powered]
    exact hpowered

end Sys2Proof.Machine
end

section
/-! Proofs of the statements of chapter 16: a host write of FB_CTRL.ACTIVE that is not software's to make (R550). -/

namespace Sys2Proof.Machine

/-- Of the registers only the states of the power domains say what a host access reaches (R661, R690). -/
theorem State.reaches_of_rd_pwDom {s t : State} (h : ∀ d, t.rd .PW_DOM d .STATE = s.rd .PW_DOM d .STATE) (r : RegName) (i : Nat) :
    t.reaches r i = s.reaches r i := by
  have hdom : t.domState = s.domState := funext h
  unfold State.reaches State.reach State.railed
  rw [hdom]

/-- Without ROUTE_HOST a write of ACTIVE that reaches FB_CTRL only sets CMD_ERR (R550). -/
theorem exec_fbActiveWrite_refused {s : State} (hreach : s.reaches .FB_CTRL 0 = true) (hhost : s.rd .FB_CTRL 0 .ROUTE_HOST = 0) (a : Nat) :
    exec (.fbActiveWrite a) s = .next ((s.unhold .FB_CTRL 0).wr .FB_STATUS 0 .CMD_ERR 1) := by
  show execFbActiveWrite a s = _
  unfold execFbActiveWrite
  rw [State.asWrite_reached hreach, State.unhold_rd, hhost]
  rfl

/-- A route computation changes nothing, or it runs with ROUTE_HOST 0 and of the registers writes only FB_CTRL ACTIVE and the
neighbours' FB_NBR (R536, R537, R553). -/
theorem exec_routeCompute_cases {s t : State} (h : exec .routeCompute s = .next t) :
    t = s ∨ (s.rd .FB_CTRL 0 .ROUTE_HOST = 0 ∧
      ∀ r i f, r ≠ .FB_NBR → (r = .FB_CTRL → f ≠ .ACTIVE) → t.rd r i f = s.rd r i f) := by
  change execRouteCompute s = _ at h
  unfold execRouteCompute at h
  split at h
  · next hhost =>
    cases h
    refine .inr ⟨hhost, fun r i f hnbr hactive => ?_⟩
    rw [State.forEach_same (State.rd · r i f) fun t p => State.rd_wr_reg t p i .TREE f _ hnbr.symm, State.rd_wr,
      if_neg fun hsame => hactive hsame.1.symm hsame.2.2.symm, State.modFab_rd]
  · cases h
    exact .inl rfl

/-- Settles O52: a route computation that flips ACTIVE ran with ROUTE_HOST 0 and leaves it 0, and the power domains' states with it,
so the write after it is refused like any other. -/
theorem activeBankIsSoftwaresOnlyWithRouteHost : Obligations.ActiveBankIsSoftwaresOnlyWithRouteHost := by
  intro s a hreach
  refine ⟨fun hhost => exec_fbActiveWrite_refused hreach hhost a, fun t hcompute hflip => ?_⟩
  obtain rfl | ⟨hhost, hkept⟩ := exec_routeCompute_cases hcompute
  · exact absurd rfl hflip
  · have hreach' : t.reaches .FB_CTRL 0 = true := by
      rw [State.reaches_of_rd_pwDom (fun d => hkept .PW_DOM d .STATE (by decide) (by decide)), hreach]
    have hhost' : t.rd .FB_CTRL 0 .ROUTE_HOST = 0 := by
      rw [hkept .FB_CTRL 0 .ROUTE_HOST (by decide) (by decide), hhost]
    exact ⟨hhost, exec_fbActiveWrite_refused hreach' hhost' a⟩

end Sys2Proof.Machine
end

section
/-! Proofs of the statements of chapter 20: a module reset during FW_PROGRAM (R660), and the LOAD that is taken before a BIST and
an OFF of its pitches (R659, R684). -/

namespace Sys2Proof.Machine

/-! ## What a module reset leaves (R655) -/

/-- The wear record and the failed units are shown in registers alone (R34, R674, R685). -/
theorem State.showHealth_same {β : Type} {p : State → β} (h : ∀ t r i f v, p (State.wr t r i f v) = p t) (s : State) :
    p s.showHealth = p s :=
  (State.forEach_same p (fun t _ => h t ..) _ _).trans ((h ..).trans (h ..))

section
variable {s : State}

/-- Out of phase 0 and with the module not shut off, a module reset keeps the flash and the part's fuses, drops what the power
controller was at, and boots at phase 1 (R651, R655). -/
theorem State.moduleReset_boots (hphase : s.rd .PW_STATUS 0 .PHASE ≠ 0) (hshut : s.power.shut = none) (last : Nat) :
    (s.moduleReset last).flash = s.flash ∧ (s.moduleReset last).part = s.part ∧
      (s.moduleReset last).power = { Power.reset with temps := s.power.temps } ∧ (s.moduleReset last).rd .PW_STATUS 0 .PHASE = 1 := by
  have hresets : ¬(s.rd .PW_STATUS 0 .PHASE = 0 ∨ (s.power.shut.isSome = true ∧ s.power.shut ≠ some last)) := by
    simp [hphase, hshut]
  unfold State.moduleReset
  rw [if_neg hresets]
  refine ⟨?_, ?_, ?_, ?_⟩
  · rw [State.wrs_flash, State.showHealth_same (p := State.flash) State.wr_flash, State.pickRef, State.wrs_flash]
    rfl
  · rw [State.wrs_part, State.showHealth_same (p := State.part) State.wr_part, State.pickRef, State.wrs_part]
    rfl
  · rw [State.wrs_power, State.showHealth_same (p := State.power) State.wr_power, State.pickRef, State.wrs_power]
    rfl
  · rw [State.wrs_cons, State.wrs_cons, State.wrs_nil, State.rd_wr_fld _ _ _ _ _ _ (by decide), State.rd_wr_self]
    decide

/-- Each of the three sources raises the same reset, on a state that differs from the one before it in a holding register or in the
test port's instruction at most (R20, R655, R699, R702). -/
theorem exec_moduleResetSource {c : Instr} {f : PwFields}
    (hc : (c = .pwReset f ∧ s.reaches .PW_CTRL 0 = true) ∨ c = .smbReset 0xA5 ∨ c = .moduleReset) :
    ∃ u : State, exec c s = .next (u.moduleReset 1) ∧ u.flash = s.flash ∧ u.part = s.part ∧ u.power = s.power ∧
      u.regs = s.regs := by
  obtain ⟨rfl, hreach⟩ | rfl | rfl := hc
  · refine ⟨s.unhold .PW_CTRL 0, ?_, rfl, rfl, rfl, rfl⟩
    show execPwReset f s = _
    rw [execPwReset, State.asWrite_reached hreach]
  · exact ⟨s, rfl, rfl, rfl, rfl, rfl⟩
  · exact ⟨s.loadIr 0x22, rfl, rfl, rfl, rfl, rfl⟩

/-! ## The ends of FW_PROGRAM and of ROM verification -/

theorem exec_fwProgramDone_of_no_job (h : s.power.prog = none) (ok : Bool) (bytes : List Byte) (flash : Bool) :
    exec (.fwProgramDone ok bytes flash) s = .next s := by
  show execFwProgramDone ok bytes flash s = _
  rw [execFwProgramDone, h]

/-- In phase 1 the slot that BOOT_SLOT names starts where it verifies, whatever the other slot holds (R651). -/
theorem exec_romVerifyDone_of_named_slot (hphase : s.rd .PW_STATUS 0 .PHASE = 1) (hshut : s.power.shut = none) {rev : Nat}
    (hverified : verifyFw s.part (s.fwSlot s.bootSlot) = .inr rev) :
    exec .romVerifyDone s = .next (s.startFirmware s.bootSlot rev) := by
  show execRomVerifyDone s = _
  rw [execRomVerifyDone, if_pos ⟨hphase, hshut⟩]
  simp only [hverified]

end

/-- BOOT_SLOT and the slots are readings of the flash alone (R648, R649). -/
theorem State.bootSlot_fwSlot_congr {s t : State} (h : t.flash = s.flash) : t.bootSlot = s.bootSlot ∧ t.fwSlot = s.fwSlot := by
  have hconf : t.conf 5 1 = s.conf 5 1 := by
    unfold State.conf
    rw [h]
  constructor
  · rw [State.bootSlot, hconf, State.bootSlot]
  · funext i
    rw [State.fwSlot, h, State.fwSlot]

/-- Settles O53: the reset keeps the flash, which BOOT_SLOT and the slots are read from, and drops the job, so that
FW_PROGRAM_DONE finds none and the ROM in phase 1 verifies the slot named before. -/
theorem moduleResetAbandonsFirmwareWrite : Obligations.ModuleResetAbandonsFirmwareWrite := by
  intro s f job ok flash bytes c _ hphase hshut hc
  obtain ⟨u, hexec, huflash, hupart, hupower, huregs⟩ := exec_moduleResetSource hc
  have huphase : u.rd .PW_STATUS 0 .PHASE ≠ 0 := by
    rw [State.rd, huregs, hupart]
    exact hphase
  obtain ⟨htflash, htpart, htpower, htphase⟩ := State.moduleReset_boots huphase (hupower ▸ hshut) 1
  have hprog : (u.moduleReset 1).power.prog = none := by rw [htpower]; rfl
  have htshut : (u.moduleReset 1).power.shut = none := by rw [htpower]; rfl
  obtain ⟨hslot, hfw⟩ := State.bootSlot_fwSlot_congr (htflash.trans huflash)
  refine ⟨u.moduleReset 1, hexec, htflash.trans huflash, hprog, hslot, exec_fwProgramDone_of_no_job hprog ok bytes flash, ?_⟩
  split
  · next rev hverified =>
    rw [← hslot, ← hfw, ← hupart, ← htpart] at hverified
    rw [← hslot]
    exact exec_romVerifyDone_of_named_slot htphase htshut hverified
  · trivial

/-! ## A pitch that a load under way names -/

section
variable {s : State} {p : Nat}

theorem State.bistOk_of_loadNames (h : s.loadNames p = true) : s.bistOk 0 p = false := by
  simp [State.bistOk, h]

/-- A BIST of a pitch that a load names only takes its target and RESULT = 2 (R671, R684). -/
theorem exec_bist_of_loadNames (hp : p < 64) (hreach : s.reaches .HS_CMD 0 = true) (hidle : s.rd .HS_CMD 0 .BUSY = 0)
    (hnames : s.loadNames p = true) :
    exec (.bist 0 p) s =
      .next (((s.unhold .HS_CMD 0).wrs .HS_CMD 0 [(.TARGET, 0), (.INDEX, p)]).wr .HS_CMD 0 .RESULT 2) := by
  have hrefused : (s.unhold .HS_CMD 0).bistOk 0 p = false := State.bistOk_of_loadNames hnames
  have hnotBusy : ¬(s.unhold .HS_CMD 0).rd .HS_CMD 0 .BUSY = 1 := by
    rw [State.unhold_rd, hidle]
    decide
  show execBist 0 p s = _
  rw [execBist, State.asWrite_reached hreach, if_neg hnotBusy]
  simp only [Nat.zero_mod, Nat.mod_eq_of_lt hp]
  exact if_neg (by simp [hrefused])

/-- An OFF of a domain that is present, outside the condition of R494 and R639, is an error of the power controller and nothing
else (R642). -/
theorem exec_domainOff_of_not_allowed (hp : p < 80) (hreach : s.reaches .PW_DOM p = true) (hpresent : s.domState p ≠ 4)
    (hshut : s.power.shut = none) (side : Bool) (hnot : (s.unhold .PW_DOM p).offAllowed p side = false) :
    exec (.domainOff p side) s = .next (s.unhold .PW_DOM p).powerErr := by
  have hheard : ¬(80 ≤ p ∨ (s.unhold .PW_DOM p).domState p = 4 ∨ (s.unhold .PW_DOM p).power.shut.isSome = true) := by
    rintro (hlarge | habsent | hoff)
    · exact absurd hp (Nat.not_lt.mpr hlarge)
    · exact hpresent habsent
    · rw [State.unhold_power, hshut] at hoff
      exact absurd hoff (by decide)
  show execDomainOff p side s = _
  rw [execDomainOff, State.asWrite_reached hreach, State.domOff, if_neg hheard, hnot]
  rfl

/-- A pitch that a load under way places may not be switched off before the load fails (R494, R639, R659). -/
theorem State.offAllowed_of_loading (hp : p < 64) (hactive : s.load.active = true) (hlive : s.load.failing = none)
    (hnamed : s.load.own.pitches.testBit p = true) (side : Bool) : s.offAllowed p side = false := by
  rw [State.offAllowed, if_pos hp, hactive, hlive, hnamed]
  exact Bool.and_false _

end

/-- Settles O56: the placement entry of this module that names the pitch stands in the way of the BIST's condition and of the
OFF's alike. -/
theorem loadKeepsItsPitchesFromBistAndPowerOff : Obligations.LoadKeepsItsPitchesFromBistAndPowerOff := by
  intro s p m side hp hactive hlive hnamed hlmod
  have hnames : s.loadNames p = true := by simp [State.loadNames, hactive, hnamed, hlmod]
  refine ⟨fun hreach hidle => exec_bist_of_loadNames hp hreach hidle hnames, fun hreach hpresent hshut => ?_⟩
  exact exec_domainOff_of_not_allowed (by omega) hreach hpresent hshut side (State.offAllowed_of_loading hp hactive hlive hnamed side)

end Sys2Proof.Machine
end

section
/-! Proofs of the statements about every command and every step: a next state always, what stays untouched, and the invariant
(O1 to O4, O58). -/

namespace Sys2Proof.Machine

/-! ## What every command keeps -/

/-- Every command keeps the queue, the part, the ticks, what has been said, the counters and the invariant. -/
theorem exec_keeps (i : Instr) (s : State) : KeepsO s (exec i s) := by
  have h := Keeps.refl s
  cases i with
  | scheduleStep => exact execScheduleStep_keeps h
  | bpNop => exact execBpNop_keeps h
  | lut4 => exact execLut4_keeps h
  | lut4e => exact execLut4e_keeps h
  | route => exact execRoute_keeps h
  | hold => exact execHold_keeps h
  | ckpt => exact execCkpt_keeps h
  | drainStart => exact execDrainStart_keeps h
  | drainEnd => exact execDrainEnd_keeps h
  | wuNop => exact execWuNop_keeps h
  | wuAdd => exact execWuAdd_keeps h
  | wuSub => exact execWuSub_keeps h
  | wuCarry => exact execWuCarry_keeps h
  | wuBorrow => exact execWuBorrow_keeps h
  | wuAnd => exact execWuAnd_keeps h
  | wuOr => exact execWuOr_keeps h
  | wuXor => exact execWuXor_keeps h
  | wuAndn => exact execWuAndn_keeps h
  | wuShl => exact execWuShl_keeps h
  | wuShr => exact execWuShr_keeps h
  | wuSar => exact execWuSar_keeps h
  | wuRol => exact execWuRol_keeps h
  | wuRor => exact execWuRor_keeps h
  | wuCmpeq => exact execWuCmpeq_keeps h
  | wuCmpltu => exact execWuCmpltu_keeps h
  | wuCmplts => exact execWuCmplts_keeps h
  | wuSel => exact execWuSel_keeps h
  | wuBsel => exact execWuBsel_keeps h
  | wuExt => exact execWuExt_keeps h
  | wuDep => exact execWuDep_keeps h
  | wuMullo => exact execWuMullo_keeps h
  | wuMulhiu => exact execWuMulhiu_keeps h
  | wuMulhis => exact execWuMulhis_keeps h
  | mulResultWrite => exact execMulResultWrite_keeps h
  | wuLdm => exact execWuLdm_keeps h
  | wuStm => exact execWuStm_keeps h
  | wuPack => exact execWuPack_keeps h
  | wuUnpack => exact execWuUnpack_keeps h
  | wuXec => exact execWuXec_keeps h
  | wuShift => exact execWuShift_keeps h
  | shadowCommit => exact execShadowCommit_keeps h
  | faultFlagsClose => exact execFaultFlagsClose_keeps h
  | acquisitionSample => exact execAcquisitionSample_keeps h
  | recordExchange => exact execRecordExchange_keeps h
  | snapshotPoint => exact execSnapshotPoint_keeps h
  | cycleEnd => exact execCycleEnd_keeps h
  | start => exact execStart_keeps h
  | pause => exact execPause_keeps h
  | resume => exact execResume_keeps h
  | step => exact execStep_keeps h
  | halt => exact execHalt_keeps h
  | unload => exact execUnload_keeps h
  | unloadDone => exact execUnloadDone_keeps h
  | rampStart => exact execRampStart_keeps h
  | rampStep => exact execRampStep_keeps h
  | firstDesignCycleStart => exact execFirstDesignCycleStart_keeps h
  | heldStartRelease => exact execHeldStartRelease_keeps h
  | restoreDone => exact execRestoreDone_keeps h
  | restoreBusError => exact execRestoreBusError_keeps h
  | bankGrant => exact execBankGrant_keeps h
  | mgmtAccessGo => exact execMgmtAccessGo_keeps h
  | mgmtAccessDone => exact execMgmtAccessDone_keeps h
  | wakeClearEnd => exact execWakeClearEnd_keeps h
  | crossingItemArrive => exact execCrossingItemArrive_keeps h
  | fifoWrite => exact execFifoWrite_keeps h
  | fifoRead => exact execFifoRead_keeps h
  | fifoPtrMismatch => exact execFifoPtrMismatch_keeps h
  | fifoReprime => exact execFifoReprime_keeps h
  | stall => exact execStall_keeps h
  | release => exact execRelease_keeps h
  | boundary => exact execBoundary_keeps h
  | guylineHalt => exact execGuylineHalt_keeps h
  | relockDone => exact execRelockDone_keeps h
  | dcTagWrite => exact execDcTagWrite_keeps h
  | dcAccWrite => exact execDcAccWrite_keeps h
  | snapArm => exact execSnapArm_keeps h
  | snapAbort => exact execSnapAbort_keeps h
  | snapshotDone => exact execSnapshotDone_keeps h
  | snapshotBusError => exact execSnapshotBusError_keeps h
  | dcSnapSelWrite => exact execDcSnapSelWrite_keeps h
  | snapSelCheckDone => exact execSnapSelCheckDone_keeps h
  | load => exact execLoad_keeps h
  | ldAbort => exact execLdAbort_keeps h
  | ldDmaPush => exact execLdDmaPush_keeps h
  | loadSegment => exact execLoadSegment_keeps h
  | placementEntryArrive => exact execPlacementEntryArrive_keeps h
  | loadAck => exact execLoadAck_keeps h
  | commit => exact execCommit_keeps h
  | abort => exact execAbort_keeps h
  | loadTimeout => exact execLoadTimeout_keeps h
  | loadClearDone => exact execLoadClearDone_keeps h
  | dmInit => exact execDmInit_keeps h
  | dmInitDone => exact execDmInitDone_keeps h
  | dmActivate => exact execDmActivate_keeps h
  | dmQuiesce => exact execDmQuiesce_keeps h
  | quiesceDone => exact execQuiesceDone_keeps h
  | dmPpr => exact execDmPpr_keeps h
  | pprDone => exact execPprDone_keeps h
  | mrw => exact execMrw_keeps h
  | mrr => exact execMrr_keeps h
  | mpc => exact execMpc_keeps h
  | trainOpDone => exact execTrainOpDone_keeps h
  | dmMapWrite => exact execDmMapWrite_keeps h
  | refreshDue => exact execRefreshDue_keeps h
  | postponedRefreshIssue => exact execPostponedRefreshIssue_keeps h
  | refreshDone => exact execRefreshDone_keeps h
  | rhWindowClear => exact execRhWindowClear_keeps h
  | rfmDone => exact execRfmDone_keeps h
  | deepRequest => exact execDeepRequest_keeps h
  | deepReadDataArrive => exact execDeepReadDataArrive_keeps h
  | reencryptDone => exact execReencryptDone_keeps h
  | install => exact execInstall_keeps h
  | keyBlobReadDone => exact execKeyBlobReadDone_keeps h
  | roll => exact execRoll_keeps h
  | rollDone => exact execRollDone_keeps h
  | remove => exact execRemove_keeps h
  | mpRangeWrite => exact execMpRangeWrite_keeps h
  | regionInitDone => exact execRegionInitDone_keeps h
  | epochLimit => exact execEpochLimit_keeps h
  | add => exact execAdd_keeps h
  | sub => exact execSub_keeps h
  | and => exact execAnd_keeps h
  | or => exact execOr_keeps h
  | xor => exact execXor_keeps h
  | shl => exact execShl_keeps h
  | shr => exact execShr_keeps h
  | sar => exact execSar_keeps h
  | cmp => exact execCmp_keeps h
  | mullo => exact execMullo_keeps h
  | mulhiu => exact execMulhiu_keeps h
  | addi => exact execAddi_keeps h
  | andi => exact execAndi_keeps h
  | ori => exact execOri_keeps h
  | xori => exact execXori_keeps h
  | shli => exact execShli_keeps h
  | shri => exact execShri_keeps h
  | sari => exact execSari_keeps h
  | cmpiLt => exact execCmpiLt_keeps h
  | cmpiLo => exact execCmpiLo_keeps h
  | orh => exact execOrh_keeps h
  | ld8 => exact execLd8_keeps h
  | ld16 => exact execLd16_keeps h
  | ld32 => exact execLd32_keeps h
  | lds => exact execLds_keeps h
  | st8 => exact execSt8_keeps h
  | st16 => exact execSt16_keeps h
  | st32 => exact execSt32_keeps h
  | sts => exact execSts_keeps h
  | aswap => exact execAswap_keeps h
  | aadd => exact execAadd_keeps h
  | call => exact execCall_keeps h
  | callr => exact execCallr_keeps h
  | gate => exact execGate_keeps h
  | codesync => exact execCodesync_keeps h
  | brEq => exact execBrEq_keeps h
  | brNe => exact execBrNe_keeps h
  | brLt => exact execBrLt_keeps h
  | brGe => exact execBrGe_keeps h
  | brLo => exact execBrLo_keeps h
  | brHs => exact execBrHs_keeps h
  | brBs => exact execBrBs_keeps h
  | brBc => exact execBrBc_keeps h
  | csend => exact execCsend_keeps h
  | crecv => exact execCrecv_keeps h
  | cwait => exact execCwait_keeps h
  | evset => exact execEvset_keeps h
  | yield => exact execYield_keeps h
  | done => exact execDone_keeps h
  | order => exact execOrder_keeps h
  | rdcw => exact execRdcw_keeps h
  | wrcw => exact execWrcw_keeps h
  | back => exact execBack_keeps h
  | doze => exact execDoze_keeps h
  | ccMemoryResponse => exact execCcMemoryResponse_keeps h
  | sliceExpire => exact execSliceExpire_keeps h
  | sleepEntry => exact execSleepEntry_keeps h
  | coreWakeDone => exact execCoreWakeDone_keeps h
  | ccCtrlWake => exact execCcCtrlWake_keeps h
  | ccEnableWrite => exact execCcEnableWrite_keeps h
  | ccDomWrite => exact execCcDomWrite_keeps h
  | taskDispatch => exact execTaskDispatch_keeps h
  | bivouacLoadDone => exact execBivouacLoadDone_keeps h
  | taskArm => exact execTaskArm_keeps h
  | taskCancel => exact execTaskCancel_keeps h
  | taskFree => exact execTaskFree_keeps h
  | tsTaskFlagsWrite => exact execTsTaskFlagsWrite_keeps h
  | chEnable => exact execChEnable_keeps h
  | chQuiesce => exact execChQuiesce_keeps h
  | channelQuiesced => exact execChannelQuiesced_keeps h
  | chDisable => exact execChDisable_keeps h
  | channelDoorbell => exact execChannelDoorbell_keeps h
  | inboundSlotFetched => exact execInboundSlotFetched_keeps h
  | dataMessage => exact execDataMessage_keeps h
  | creditMessage => exact execCreditMessage_keeps h
  | outboundCopyDone => exact execOutboundCopyDone_keeps h
  | mirrorBusError => exact execMirrorBusError_keeps h
  | channelTimeout => exact execChannelTimeout_keeps h
  | tsLogKeepWrite => exact execTsLogKeepWrite_keeps h
  | nocPacket => exact execNocPacket_keeps h
  | criticalWindowEnd => exact execCriticalWindowEnd_keeps h
  | fenceDoorbell => exact execFenceDoorbell_keeps h
  | fenceComplete => exact execFenceComplete_keeps h
  | domainOn => exact execDomainOn_keeps h
  | domainOnStart => exact execDomainOnStart_keeps h
  | domainOnDone => exact execDomainOnDone_keeps h
  | domainOff => exact execDomainOff_keeps h
  | powerDownDrainDone => exact execPowerDownDrainDone_keeps h
  | pdTimeout => exact execPdTimeout_keeps h
  | probePop => exact execProbePop_keeps h
  | trainingRetry => exact execTrainingRetry_keeps h
  | trainingStateTimeout => exact execTrainingStateTimeout_keeps h
  | capabilityWord => exact execCapabilityWord_keeps h
  | trainingStateDone => exact execTrainingStateDone_keeps h
  | eqRequest => exact execEqRequest_keeps h
  | eqResponse => exact execEqResponse_keeps h
  | flitReceive => exact execFlitReceive_keeps h
  | dataFlit => exact execDataFlit_keeps h
  | replayTimeout => exact execReplayTimeout_keeps h
  | retrain => exact execRetrain_keeps h
  | hnSpareCmd => exact execHnSpareCmd_keeps h
  | exitIdle => exact execExitIdle_keeps h
  | idleTimer => exact execIdleTimer_keeps h
  | idleEnter => exact execIdleEnter_keeps h
  | idleExitBurst => exact execIdleExitBurst_keeps h
  | idleLockTimeout => exact execIdleLockTimeout_keeps h
  | laneLockLoss => exact execLaneLockLoss_keeps h
  | spareReq => exact execSpareReq_keeps h
  | spareDone => exact execSpareDone_keeps h
  | sparingTimeout => exact execSparingTimeout_keeps h
  | epoch => exact execEpoch_keeps h
  | probe => exact execProbe_keeps h
  | echo => exact execEcho_keeps h
  | hello => exact execHello_keeps h
  | helloTimer => exact execHelloTimer_keeps h
  | fbIdWrite => exact execFbIdWrite_keeps h
  | loadPacket => exact execLoadPacket_keeps h
  | channelPacket => exact execChannelPacket_keeps h
  | topo => exact execTopo_keeps h
  | mgmt => exact execMgmt_keeps h
  | topoTimer => exact execTopoTimer_keeps h
  | topoRecordExpire => exact execTopoRecordExpire_keeps h
  | routeCompute => exact execRouteCompute_keeps h
  | fbActiveWrite => exact execFbActiveWrite_keeps h
  | routeHostWrite => exact execRouteHostWrite_keeps h
  | linkLoss => exact execLinkLoss_keeps h
  | sync => exact execSync_keeps h
  | high => exact execHigh_keeps h
  | syncTimer => exact execSyncTimer_keeps h
  | autoRootTimeout => exact execAutoRootTimeout_keeps h
  | tmRoot => exact execTmRoot_keeps h
  | tmReset => exact execTmReset_keeps h
  | tmLoad => exact execTmLoad_keeps h
  | tmRateWrite => exact execTmRateWrite_keeps h
  | tmDtIncHiWrite => exact execTmDtIncHiWrite_keeps h
  | comparatorFire => exact execComparatorFire_keeps h
  | pulseWidthEnd => exact execPulseWidthEnd_keeps h
  | captureInputEdge => exact execCaptureInputEdge_keeps h
  | triggerInEdge => exact execTriggerInEdge_keeps h
  | conditionerWindowEnd => exact execConditionerWindowEnd_keeps h
  | inputStuck => exact execInputStuck_keeps h
  | acqArm => exact execAcqArm_keeps h
  | acqStop => exact execAcqStop_keeps h
  | acqForce => exact execAcqForce_keeps h
  | decForce => exact execDecForce_keeps h
  | postCyclesEnd => exact execPostCyclesEnd_keeps h
  | holdoffEnd => exact execHoldoffEnd_keeps h
  | captureWriteDone => exact execCaptureWriteDone_keeps h
  | captureBusError => exact execCaptureBusError_keeps h
  | trigoutWidthEnd => exact execTrigoutWidthEnd_keeps h
  | trFlush => exact execTrFlush_keeps h
  | trRoute => exact execTrRoute_keeps h
  | clearFb => exact execClearFb_keeps h
  | frameFlushTimer => exact execFrameFlushTimer_keeps h
  | cairnTimer => exact execCairnTimer_keeps h
  | traceFrameWrite => exact execTraceFrameWrite_keeps h
  | traceBusError => exact execTraceBusError_keeps h
  | fallbackDrainDone => exact execFallbackDrainDone_keeps h
  | tokenLoad => exact execTokenLoad_keeps h
  | tokenLoadDone => exact execTokenLoadDone_keeps h
  | tokenRevoke => exact execTokenRevoke_keeps h
  | powerOn => exact execPowerOn_keeps h
  | inputBrownout => exact execInputBrownout_keeps h
  | inputOvervoltage => exact execInputOvervoltage_keeps h
  | thermalShutdown => exact execThermalShutdown_keeps h
  | powerControlInterval => exact execPowerControlInterval_keeps h
  | romVerifyDone => exact execRomVerifyDone_keeps h
  | dramPhaseDone => exact execDramPhaseDone_keeps h
  | pinsPhaseDone => exact execPinsPhaseDone_keeps h
  | recoveryStreamVerified => exact execRecoveryStreamVerified_keeps h
  | pwReset => exact execPwReset_keeps h (_f := ‹_›)
  | fwProgram => exact execFwProgram_keeps h
  | fwProgramDone => exact execFwProgramDone_keeps h
  | refinLoss => exact execRefinLoss_keeps h
  | useIn => exact execUseIn_keeps h
  | useLocal => exact execUseLocal_keeps h
  | scrubRead => exact execScrubRead_keeps h
  | scrubGo => exact execScrubGo_keeps h
  | scrubPassDone => exact execScrubPassDone_keeps h
  | supervisorCheck => exact execSupervisorCheck_keeps h
  | scrubReloadDone => exact execScrubReloadDone_keeps h
  | bist => exact execBist_keeps h
  | bistDone => exact execBistDone_keeps h
  | flushWear => exact execFlushWear_keeps h
  | wearFlushTimer => exact execWearFlushTimer_keeps h
  | wearCompactDone => exact execWearCompactDone_keeps h
  | hsPitchMapWrite => exact execHsPitchMapWrite_keeps h
  | hsBpMapWrite => exact execHsBpMapWrite_keeps h
  | hsColMapWrite => exact execHsColMapWrite_keeps h
  | bar2Read => exact execBar2Read_keeps h
  | bar2Write => exact execBar2Write_keeps h
  | barBadAccess => exact execBarBadAccess_keeps h
  | msixUnmask => exact execMsixUnmask_keeps h
  | pcieReset => exact execPcieReset_keeps h
  | hiChVecWrite => exact execHiChVecWrite_keeps h
  | rcRead => exact execRcRead_keeps h
  | holdingRegisterRead => exact execHoldingRegisterRead_keeps h
  | runCampCycleLoRead => exact execRunCampCycleLoRead_keeps h
  | tsLogPosLoRead => exact execTsLogPosLoRead_keeps h
  | tmNowFracRead => exact execTmNowFracRead_keeps h
  | tmDtFracRead => exact execTmDtFracRead_keeps h
  | tmCapFracRead => exact execTmCapFracRead_keeps h
  | trFbDataRead => exact execTrFbDataRead_keeps h
  | idKeyDataRead => exact execIdKeyDataRead_keeps h
  | registerWrite => exact execRegisterWrite_keeps h
  | testLogicReset => exact execTestLogicReset_keeps h
  | extest => exact execExtest_keeps h
  | samplePreload => exact execSamplePreload_keeps h
  | idcode => exact execIdcode_keeps h
  | clamp => exact execClamp_keeps h
  | highz => exact execHighz_keeps h
  | regAccess => exact execRegAccess_keeps h
  | loadStream => exact execLoadStream_keeps h
  | moduleReset => exact execModuleReset_keeps h
  | bypass => exact execBypass_keeps h
  | smbPhase => exact execSmbPhase_keeps h
  | smbVin => exact execSmbVin_keeps h
  | smbIin => exact execSmbIin_keeps h
  | smbPin => exact execSmbPin_keeps h
  | smbTemp => exact execSmbTemp_keeps h
  | smbIdent => exact execSmbIdent_keeps h
  | smbAlarm => exact execSmbAlarm_keeps h
  | smbDomains => exact execSmbDomains_keeps h
  | smbReset => exact execSmbReset_keeps h
  | hostif => exact execHostif_keeps h
  | inputRecovery => exact execInputRecovery_keeps h
  | thermalCooldown => exact execThermalCooldown_keeps h
  | inputPowerRemoved => exact execInputPowerRemoved_keeps h
  | refinReturn => exact execRefinReturn_keeps h
  | mr4TemperatureChange => exact execMr4TemperatureChange_keeps h
  | inputLevelChange => exact execInputLevelChange_keeps h
  | stuckMaskRelease => exact execStuckMaskRelease_keeps h

/-- Settles O2: the part of each command is its own `Keeps` lemma, from the state that it acts on. -/
theorem commandsKeepTheRest : Obligations.CommandsKeepTheRest := by
  intro i s t h
  obtain ⟨hpending, hpart, hticks, hout, hids, hdraws, hinv⟩ := exec_keeps i s t h
  exact ⟨hpending, hpart, hticks, hout, hids, hdraws, hinv⟩

/-! ## What every step keeps -/

/-- The invariant names neither the queue nor the tick count. -/
theorem State.Inv.withPending {s : State} (h : s.Inv) (q : List Instr) : ({ s with pending := q } : State).Inv :=
  ⟨h.fits, h.codes, h.mem, h.time⟩

theorem State.Inv.withTicks {s : State} (h : s.Inv) (n : Nat) : ({ s with ticks := n } : State).Inv :=
  ⟨h.fits, h.codes, h.mem, h.time⟩

/-- Settles O3: a step is a tick, which keeps what `State.tick_keeps` says, or the front command on the rest of the queue. -/
theorem stepKeepsInvariant : Obligations.StepKeepsInvariant := by
  intro s t hinv h
  unfold step at h
  split at h
  next hempty =>
    obtain rfl : s.tick = t := Host.Outcome.next.inj h
    obtain ⟨hpending, -, -, hout, -, -, hkeeps⟩ := State.tick_keeps s
    exact ⟨hkeeps (hinv.withTicks _), hout, by rw [hempty]; exact hpending.trans hempty⟩
  next i rest hqueue =>
    obtain ⟨hpending, -, -, hout, -, -, hkeeps⟩ := exec_keeps i _ t h
    exact ⟨hkeeps (hinv.withPending rest), hout, by rw [hqueue]; exact hpending⟩

/-! ## Reset and the tick -/

/-- Settles O4: after reset no register holds a written value, so that the invariant's clauses about registers are about none. -/
theorem resetMeetsInvariant : Obligations.ResetMeetsInvariant :=
  ⟨test_wit_inv_reset.1, rfl, rfl, fun _ => rfl⟩

/-- A tick with nothing held and no row throttled moves fabric time and the tick count alone (R555). -/
theorem State.tick_of_idle_deep {s : State} (hheld : s.deep.held = []) (hthrottled : s.deep.throttled = []) :
    s.tick = { s with now := (s.now + s.rd .TM_RATE 0 .INC) % 2 ^ 96, ticks := s.ticks + 1 } := by
  simp [State.tick, hheld, hthrottled]

theorem step_of_empty {s : State} (h : s.pending = []) : step s = .next s.tick := by
  unfold step
  rw [h]

/-- Settles O1: the three readings of `step`. -/
theorem stepRunsFrontCommand : Obligations.StepRunsFrontCommand := by
  refine ⟨fun s c q => rfl, fun s => step_of_empty, fun s hempty hheld hthrottled => ?_⟩
  rw [step_of_empty hempty, State.tick_of_idle_deep hheld hthrottled]

/-! ## Every command answers a next state -/

/-- An outcome that is a next state. -/
def Answers (o : Host.Outcome State Fault Refusal) : Prop := ∃ t, o = .next t

theorem Answers.next (t : State) : Answers (.next t) := ⟨t, rfl⟩

theorem Answers.ite {c : Prop} [Decidable c] {o p : Host.Outcome State Fault Refusal} (ho : Answers o) (hp : Answers p) :
    Answers (if c then o else p) := by
  split
  · exact ho
  · exact hp

section
variable {s : State} {off : Nat} {r : RegName} {i : Nat} {f : State → Host.Outcome State Fault Refusal} (h : ∀ t, Answers (f t))
include h

/-- A register write that is not taken answers as well: muted blocks ignore it, powered-off ones log it. -/
theorem State.asWriteAt_answers : Answers (s.asWriteAt off r i f) := by
  unfold State.asWriteAt
  split
  · exact h _
  · exact .next _
  · exact .next _

theorem State.asWrite_answers : Answers (s.asWrite r i f) := State.asWriteAt_answers h

end

/-! The commands that match on what they find in the state: each branch ends in a next state. -/

theorem execDrainEnd_answers (loc : BpSite) (s : State) : Answers (execDrainEnd loc s) := by
  unfold execDrainEnd
  extract_lets
  repeat' split
  all_goals exact .next _

theorem execMulResultWrite_answers (loc : ClusterSite) (s : State) : Answers (execMulResultWrite loc s) := by
  unfold execMulResultWrite
  extract_lets
  repeat' split
  all_goals exact .next _

theorem execRecordExchange_answers (camp : Nat) (s : State) : Answers (execRecordExchange camp s) :=
  .ite (.next _) (.next _)

theorem execSnapshotPoint_answers (camp : Nat) (s : State) : Answers (execSnapshotPoint camp s) :=
  .ite (.next _) (.next _)

theorem execStart_answers (camp : Nat) (f : RunFields) (s : State) : Answers (execStart camp f s) :=
  State.asWrite_answers fun _ => .next _

theorem execPause_answers (camp : Nat) (f : RunFields) (s : State) : Answers (execPause camp f s) :=
  State.asWrite_answers fun _ => .next _

theorem execResume_answers (camp : Nat) (f : RunFields) (s : State) : Answers (execResume camp f s) :=
  State.asWrite_answers fun _ => .next _

theorem execStep_answers (camp : Nat) (f : RunFields) (s : State) : Answers (execStep camp f s) :=
  State.asWrite_answers fun _ => .next _

theorem execHalt_answers (camp : Nat) (f : RunFields) (s : State) : Answers (execHalt camp f s) :=
  State.asWrite_answers fun _ => .next _

theorem execUnload_answers (camp : Nat) (f : RunFields) (s : State) : Answers (execUnload camp f s) :=
  State.asWrite_answers fun _ => .next _

theorem execUnloadDone_answers (camp : Nat) (s : State) : Answers (execUnloadDone camp s) :=
  .ite (.next _) (.next _)

theorem execRampStart_answers (camp sinceOther : Nat) (s : State) : Answers (execRampStart camp sinceOther s) :=
  .ite (.next _) (.next _)

theorem execFirstDesignCycleStart_answers (camp : Nat) (s : State) : Answers (execFirstDesignCycleStart camp s) :=
  .ite (.next _) (.next _)

theorem execRestoreDone_answers (camp : Nat) (s : State) : Answers (execRestoreDone camp s) := by
  unfold execRestoreDone
  extract_lets
  repeat' split
  all_goals exact .next _

theorem execBankGrant_answers (loc : ClusterSite) (bank : Nat) (s : State) : Answers (execBankGrant loc bank s) :=
  .ite (.next _) (.next _)

theorem execMgmtAccessGo_answers (die : Nat) (s : State) : Answers (execMgmtAccessGo die s) :=
  State.asWrite_answers fun _ => .ite (.next _) (.ite (.next _) (.next _))

theorem execMgmtAccessDone_answers (die : Nat) (s : State) : Answers (execMgmtAccessDone die s) :=
  .ite (.next _) (.next _)

theorem execWakeClearEnd_answers (pitch : Nat) (s : State) : Answers (execWakeClearEnd pitch s) :=
  .ite (.next _) (.next _)

theorem execCrossingItemArrive_answers (camp dst arr frozen : Nat) (s : State) : Answers (execCrossingItemArrive camp dst arr frozen s) := by
  dsimp only [execCrossingItemArrive]
  repeat' split
  all_goals exact .next _

theorem execFifoWrite_answers (id : FifoId) (x : Nat) (late : Bool) (s : State) : Answers (execFifoWrite id x late s) := by
  unfold execFifoWrite
  extract_lets
  repeat' split
  all_goals exact .next _

theorem execFifoPtrMismatch_answers (id : FifoId) (side : Bool) (s : State) : Answers (execFifoPtrMismatch id side s) :=
  .ite (.next _) (.next _)

theorem execFifoReprime_answers (id : FifoId) (frozen : Nat) (s : State) : Answers (execFifoReprime id frozen s) :=
  .ite (.next _) (.next _)

theorem execStall_answers (camp : Nat) (st : Stall) (port : Option Nat) (s : State) : Answers (execStall camp st port s) :=
  .ite (.next _) (.next _)

theorem execRelease_answers (camp module id : Nat) (port : Option Nat) (frozen : Nat) (s : State) : Answers (execRelease camp module id port frozen s) :=
  .ite (.next _) (.next _)

theorem execBoundary_answers (camp : Nat) (msg : BoundaryMsg) (port : Option Nat) (frozen : Nat) (s : State) : Answers (execBoundary camp msg port frozen s) :=
  .ite (.next _) (.next _)

theorem execGuylineHalt_answers (camp cause module : Nat) (port : Option Nat) (s : State) : Answers (execGuylineHalt camp cause module port s) :=
  .ite (.next _) (.next _)

theorem execDcTagWrite_answers (camp k num den : Nat) (en : Bool) (s : State) : Answers (execDcTagWrite camp k num den en s) := by
  refine State.asWrite_answers fun _ => ?_
  repeat' split
  all_goals exact .next _

theorem execDcAccWrite_answers (camp k acc : Nat) (s : State) : Answers (execDcAccWrite camp k acc s) := by
  refine State.asWrite_answers fun _ => ?_
  extract_lets
  repeat' split
  all_goals exact .next _

theorem execSnapArm_answers (camp : Nat) (next deep abort : Bool) (s : State) : Answers (execSnapArm camp next deep abort s) :=
  State.asWrite_answers fun _ => .next _

theorem execSnapAbort_answers (camp : Nat) (next deep : Bool) (s : State) : Answers (execSnapAbort camp next deep s) :=
  State.asWrite_answers fun _ => .next _

theorem execSnapshotDone_answers (camp : Nat) (s : State) : Answers (execSnapshotDone camp s) := by
  unfold execSnapshotDone
  extract_lets
  repeat' split
  all_goals exact .next _

theorem execDcSnapSelWrite_answers (camp page : Nat) (s : State) : Answers (execDcSnapSelWrite camp page s) :=
  State.asWrite_answers fun _ => .next _

theorem execLoad_answers (src modules : Nat) (grades : List Nat) (s : State) : Answers (execLoad src modules grades s) :=
  State.asWrite_answers fun _ => .ite (.next _) (.next _)

theorem execLdAbort_answers (s : State) : Answers (execLdAbort s) :=
  State.asWrite_answers fun _ => .next _

theorem execLdDmaPush_answers (len : Nat) (s : State) : Answers (execLdDmaPush len s) :=
  State.asWrite_answers fun _ => .ite (.next _) (.ite (.next _) (.next _))

theorem execLoadSegment_answers (bytes : List Byte) (s : State) : Answers (execLoadSegment bytes s) := by
  unfold execLoadSegment
  extract_lets
  repeat' split
  all_goals exact .next _

theorem execLoadTimeout_answers (lmod : Option Nat) (s : State) : Answers (execLoadTimeout lmod s) := by
  dsimp only [execLoadTimeout]
  repeat' split
  all_goals exact .next _

theorem execLoadClearDone_answers (s : State) : Answers (execLoadClearDone s) :=
  .ite (.next _) (.next _)

theorem execDmInit_answers (chan : Nat) (host : Bool) (s : State) : Answers (execDmInit chan host s) :=
  State.asWrite_answers fun _ => .ite (.next _) (.next _)

theorem execDmInitDone_answers (chan : Nat) (ok : Bool) (s : State) : Answers (execDmInitDone chan ok s) :=
  .ite (.next _) (.next _)

theorem execDmActivate_answers (chan : Nat) (host : Bool) (s : State) : Answers (execDmActivate chan host s) :=
  State.asWrite_answers fun _ => .ite (.next _) (.next _)

theorem execDmQuiesce_answers (chan : Nat) (host : Bool) (s : State) : Answers (execDmQuiesce chan host s) :=
  State.asWrite_answers fun _ => .ite (.next _) (.next _)

theorem execQuiesceDone_answers (chan : Nat) (s : State) : Answers (execQuiesceDone chan s) :=
  .ite (.next _) (.next _)

theorem execDmPpr_answers (chan : Nat) (host : Bool) (s : State) : Answers (execDmPpr chan host s) :=
  State.asWrite_answers fun _ => .ite (.next _) (.next _)

theorem execPprDone_answers (chan : Nat) (ok : Bool) (s : State) : Answers (execPprDone chan ok s) :=
  .ite (.ite (.next _) (.next _)) (.next _)

theorem execMrw_answers (chan sub mr data : Nat) (s : State) : Answers (execMrw chan sub mr data s) :=
  State.asWrite_answers fun _ => .next _

theorem execMrr_answers (chan sub mr data : Nat) (s : State) : Answers (execMrr chan sub mr data s) :=
  State.asWrite_answers fun _ => .next _

theorem execMpc_answers (chan sub mr data : Nat) (s : State) : Answers (execMpc chan sub mr data s) :=
  State.asWrite_answers fun _ => .next _

theorem execTrainOpDone_answers (chan data : Nat) (s : State) : Answers (execTrainOpDone chan data s) := by
  unfold execTrainOpDone
  repeat' split
  all_goals exact .next _

theorem execDmMapWrite_answers (chan k mask : Nat) (s : State) : Answers (execDmMapWrite chan k mask s) := by
  refine State.asWriteAt_answers fun _ => ?_
  repeat' split
  all_goals exact .next _

theorem execRefreshDue_answers (chan sub : Nat) (bank : Option Nat) (s : State) : Answers (execRefreshDue chan sub bank s) := by
  unfold execRefreshDue
  extract_lets
  repeat' split
  all_goals exact .next _

theorem execPostponedRefreshIssue_answers (chan sub : Nat) (bank : Option Nat) (s : State) : Answers (execPostponedRefreshIssue chan sub bank s) := by
  unfold execPostponedRefreshIssue
  extract_lets
  repeat' split
  all_goals exact .next _

theorem execRfmDone_answers (chan sub bank row : Nat) (s : State) : Answers (execRfmDone chan sub bank row s) := by
  unfold execRfmDone
  extract_lets
  repeat' split
  all_goals exact .next _

theorem execDeepRequest_answers (req : DeepReq) (obs : DeepObs) (s : State) : Answers (execDeepRequest req obs s) := by
  unfold execDeepRequest
  extract_lets
  repeat' split
  all_goals exact .next _

theorem execDeepReadDataArrive_answers (camp pitch entry frozen : Nat) (s : State) : Answers (execDeepReadDataArrive camp pitch entry frozen s) := by
  unfold execDeepReadDataArrive
  repeat' split
  all_goals exact .next _

theorem execReencryptDone_answers (page frozen : Nat) (s : State) : Answers (execReencryptDone page frozen s) :=
  .ite (.next _) (.next _)

theorem execInstall_answers (target : Nat) (s : State) : Answers (execInstall target s) :=
  State.asWrite_answers fun _ => .ite (.next _) (.ite (.next _) (.next _))

theorem execKeyBlobReadDone_answers (ok : Bool) (blob : List Byte) (s : State) : Answers (execKeyBlobReadDone ok blob s) := by
  unfold execKeyBlobReadDone
  repeat' split
  all_goals exact .next _

theorem execRoll_answers (target : Nat) (s : State) : Answers (execRoll target s) := by
  refine State.asWrite_answers fun _ => ?_
  extract_lets
  repeat' split
  all_goals exact .next _

theorem execRollDone_answers (key : Nat) (s : State) : Answers (execRollDone key s) := by
  unfold execRollDone
  repeat' split
  all_goals exact .next _

theorem execRemove_answers (target : Nat) (s : State) : Answers (execRemove target s) := by
  refine State.asWrite_answers fun _ => ?_
  extract_lets
  repeat' split
  all_goals exact .next _

theorem execMpRangeWrite_answers (r : Nat) (w : RangeWrite) (s : State) : Answers (execMpRangeWrite r w s) :=
  State.asWrite_answers fun _ => .ite (.next _) (.next _)

theorem execRegionInitDone_answers (base : Nat) (s : State) : Answers (execRegionInitDone base s) :=
  .ite (.next _) (.next _)

theorem execEpochLimit_answers (port : Nat) (s : State) : Answers (execEpochLimit port s) :=
  .ite (.next _) (.next _)

theorem execLds_answers (core : Nat) (f : FmtK) (s : State) : Answers (execLds core f s) := by
  unfold execLds
  repeat' split
  all_goals exact .next _

theorem execSts_answers (core : Nat) (f : FmtK) (obs : WriteObs) (s : State) : Answers (execSts core f obs s) := by
  unfold execSts
  repeat' split
  all_goals exact .next _

theorem execCcMemoryResponse_answers (core n victim : Nat) (obs : DeepObs) (s : State) : Answers (execCcMemoryResponse core n victim obs s) := by
  dsimp only [execCcMemoryResponse]
  repeat' split
  all_goals exact .next _

theorem execSliceExpire_answers (core : Nat) (s : State) : Answers (execSliceExpire core s) := by
  unfold execSliceExpire
  repeat' split
  all_goals exact .next _

theorem execSleepEntry_answers (core : Nat) (s : State) : Answers (execSleepEntry core s) :=
  .ite (.next _) (.next _)

theorem execCoreWakeDone_answers (core : Nat) (s : State) : Answers (execCoreWakeDone core s) :=
  .ite (.next _) (.next _)

theorem execCcCtrlWake_answers (core : Nat) (s : State) : Answers (execCcCtrlWake core s) :=
  State.asWrite_answers fun _ => .ite (.next _) (.next _)

theorem execCcEnableWrite_answers (core : Nat) (enable : Bool) (s : State) : Answers (execCcEnableWrite core enable s) :=
  State.asWrite_answers fun _ => .ite (.next _) (.next _)

theorem execCcDomWrite_answers (dom : Nat) (w : DomWrite) (s : State) : Answers (execCcDomWrite dom w s) := by
  refine State.asWrite_answers fun _ => ?_
  repeat' split
  all_goals exact .next _

theorem execTaskDispatch_answers (core : Nat) (s : State) : Answers (execTaskDispatch core s) := by
  dsimp only [execTaskDispatch]
  repeat' split
  all_goals exact .next _

theorem execBivouacLoadDone_answers (core : Nat) (s : State) : Answers (execBivouacLoadDone core s) := by
  unfold execBivouacLoadDone
  repeat' split
  all_goals exact .next _

theorem execTaskArm_answers (s : State) : Answers (execTaskArm s) :=
  State.asWrite_answers fun _ => .ite (.next _) (.next _)

theorem execTaskCancel_answers (frozen : Nat) (s : State) : Answers (execTaskCancel frozen s) := by
  refine State.asWrite_answers fun _ => ?_
  extract_lets
  repeat' split
  all_goals exact .next _

theorem execTaskFree_answers (s : State) : Answers (execTaskFree s) :=
  State.asWrite_answers fun _ => .ite (.next _) (.next _)

theorem execTsTaskFlagsWrite_answers (x : Word) (s : State) : Answers (execTsTaskFlagsWrite x s) :=
  State.asWrite_answers fun _ => .next _

theorem execChEnable_answers (chan frozen : Nat) (s : State) : Answers (execChEnable chan frozen s) :=
  State.asWrite_answers fun _ => .ite (.next _) (.next _)

theorem execChQuiesce_answers (chan : Nat) (s : State) : Answers (execChQuiesce chan s) :=
  State.asWrite_answers fun _ => .ite (.next _) (.next _)

theorem execChannelQuiesced_answers (chan : Nat) (s : State) : Answers (execChannelQuiesced chan s) :=
  .ite (.next _) (.next _)

theorem execChDisable_answers (chan : Nat) (s : State) : Answers (execChDisable chan s) :=
  State.asWrite_answers fun _ => .ite (.next _) (.next _)

theorem execChannelDoorbell_answers (chan : Nat) (value : BitVec 32) (merged : Bool) (frozen : Nat) (s : State) : Answers (execChannelDoorbell chan value merged frozen s) :=
  .ite (.next _) (.next _)

theorem execInboundSlotFetched_answers (chan : Nat) (bytes : List Byte) (frozen : Nat) (s : State) : Answers (execInboundSlotFetched chan bytes frozen s) :=
  .ite (.next _) (.next _)

theorem execOutboundCopyDone_answers (chan : Nat) (s : State) : Answers (execOutboundCopyDone chan s) := by
  unfold execOutboundCopyDone
  repeat' split
  all_goals exact .next _

theorem execMirrorBusError_answers (chan : Nat) (out : Bool) (cause seq : Nat) (s : State) : Answers (execMirrorBusError chan out cause seq s) :=
  .ite (.next _) (.next _)

theorem execChannelTimeout_answers (chan : Nat) (byMs : Bool) (frozen : Nat) (s : State) : Answers (execChannelTimeout chan byMs frozen s) := by
  dsimp only [execChannelTimeout]
  repeat' split
  all_goals exact .next _

theorem execTsLogKeepWrite_answers (camp keep frozen : Nat) (s : State) : Answers (execTsLogKeepWrite camp keep frozen s) :=
  State.asWrite_answers fun _ => .next _

theorem execFenceDoorbell_answers (token : Nat) (s : State) : Answers (execFenceDoorbell token s) :=
  .ite (.next _) (.next _)

theorem execFenceComplete_answers (frozen : Nat) (s : State) : Answers (execFenceComplete frozen s) := by
  unfold execFenceComplete
  repeat' split
  all_goals exact .next _

theorem execDomainOn_answers (dom : Nat) (s : State) : Answers (execDomainOn dom s) :=
  State.asWrite_answers fun _ => .next _

theorem execDomainOnStart_answers (sinceLast : Nat) (s : State) : Answers (execDomainOnStart sinceLast s) := by
  unfold execDomainOnStart
  repeat' split
  all_goals exact .next _

theorem execDomainOnDone_answers (dom : Nat) (s : State) : Answers (execDomainOnDone dom s) :=
  .ite (.next _) (.next _)

theorem execDomainOff_answers (dom : Nat) (side : Bool) (s : State) : Answers (execDomainOff dom side s) :=
  State.asWrite_answers fun _ => .next _

theorem execPowerDownDrainDone_answers (dom : Nat) (s : State) : Answers (execPowerDownDrainDone dom s) :=
  .ite (.next _) (.next _)

theorem execPdTimeout_answers (dom : Nat) (s : State) : Answers (execPdTimeout dom s) :=
  .ite (.next _) (.next _)

theorem execProbePop_answers (probe : Nat) (s : State) : Answers (execProbePop probe s) :=
  State.asWrite_answers fun _ => .next _

theorem execTrainingStateTimeout_answers (port : Nat) (s : State) : Answers (execTrainingStateTimeout port s) := by
  unfold execTrainingStateTimeout
  repeat' split
  all_goals exact .next _

theorem execCapabilityWord_answers (port word : Nat) (s : State) : Answers (execCapabilityWord port word s) := by
  unfold execCapabilityWord
  repeat' split
  all_goals exact .next _

theorem execEqRequest_answers (port tap op preset : Nat) (s : State) : Answers (execEqRequest port tap op preset s) :=
  State.asWrite_answers fun _ => .ite (.next _) (.next _)

theorem execEqResponse_answers (port resp height width : Nat) (s : State) : Answers (execEqResponse port resp height width s) :=
  .ite (.next _) (.next _)

theorem execFlitReceive_answers (port : Nat) (f : Flit) (obs : FlitObs) (s : State) : Answers (execFlitReceive port f obs s) :=
  .ite (.next _) (.next _)

theorem execRetrain_answers (port : Nat) (f : HnFields) (s : State) : Answers (execRetrain port f s) :=
  State.asWrite_answers fun _ => .next _

theorem execHnSpareCmd_answers (port : Nat) (f : HnFields) (s : State) : Answers (execHnSpareCmd port f s) :=
  State.asWrite_answers fun _ => .ite (.next _) (.ite (.next _) (.next _))

theorem execExitIdle_answers (port : Nat) (f : HnFields) (s : State) : Answers (execExitIdle port f s) :=
  State.asWrite_answers fun _ => .next _

theorem execIdleTimer_answers (port : Nat) (s : State) : Answers (execIdleTimer port s) :=
  .ite (.next _) (.next _)

theorem execIdleEnter_answers (port : Nat) (s : State) : Answers (execIdleEnter port s) :=
  .ite (.next _) (.next _)

theorem execIdleExitBurst_answers (port : Nat) (s : State) : Answers (execIdleExitBurst port s) :=
  .ite (.next _) (.next _)

theorem execLaneLockLoss_answers (port lane : Nat) (s : State) : Answers (execLaneLockLoss port lane s) := by
  unfold execLaneLockLoss
  repeat' split
  all_goals exact .next _

theorem execSpareReq_answers (port lane : Nat) (s : State) : Answers (execSpareReq port lane s) :=
  .ite (.next _) (.next _)

theorem execSpareDone_answers (port lane : Nat) (s : State) : Answers (execSpareDone port lane s) :=
  .ite (.next _) (.next _)

theorem execEpoch_answers (port : Nat) (s : State) : Answers (execEpoch port s) :=
  .ite (.next _) (.next _)

theorem execEcho_answers (port turnaround roundTrip : Nat) (s : State) : Answers (execEcho port turnaround roundTrip s) :=
  .ite (.next _) (.next _)

theorem execHello_answers (port addr : Nat) (valid : Bool) (peerPort : Nat) (s : State) : Answers (execHello port addr valid peerPort s) :=
  .ite (.next _) (.next _)

theorem execFbIdWrite_answers (addr : Nat) (valid : Bool) (s : State) : Answers (execFbIdWrite addr valid s) :=
  State.asWrite_answers fun _ => .next _

theorem execTopo_answers (port : Nat) (pkt : Packet) (s : State) : Answers (execTopo port pkt s) := by
  unfold execTopo
  repeat' split
  all_goals exact .next _

theorem execRouteCompute_answers (s : State) : Answers (execRouteCompute s) :=
  .ite (.next _) (.next _)

theorem execFbActiveWrite_answers (active : Nat) (s : State) : Answers (execFbActiveWrite active s) :=
  State.asWrite_answers fun _ => .next _

theorem execRouteHostWrite_answers (host : Bool) (s : State) : Answers (execRouteHostWrite host s) :=
  State.asWrite_answers fun _ => .next _

theorem execLinkLoss_answers (port : Nat) (s : State) : Answers (execLinkLoss port s) :=
  .ite (.next _) (.next _)

theorem execHigh_answers (port ns : Nat) (s : State) : Answers (execHigh port ns s) := by
  unfold execHigh
  repeat' split
  all_goals exact .next _

theorem execSyncTimer_answers (s : State) : Answers (execSyncTimer s) :=
  .ite (.next _) (.next _)

theorem execAutoRootTimeout_answers (s : State) : Answers (execAutoRootTimeout s) :=
  .ite (.next _) (.next _)

theorem execTmRoot_answers (f : TmFields) (s : State) : Answers (execTmRoot f s) :=
  State.asWrite_answers fun _ => .next _

theorem execTmReset_answers (f : TmFields) (s : State) : Answers (execTmReset f s) :=
  State.asWrite_answers fun _ => .next _

theorem execTmLoad_answers (f : TmFields) (s : State) : Answers (execTmLoad f s) :=
  State.asWrite_answers fun _ => .next _

theorem execTmRateWrite_answers (value : Nat) (s : State) : Answers (execTmRateWrite value s) :=
  State.asWrite_answers fun _ => .ite (.next _) (.next _)

theorem execTmDtIncHiWrite_answers (camp hi : Nat) (s : State) : Answers (execTmDtIncHiWrite camp hi s) :=
  State.asWrite_answers fun _ => .ite (.next _) (.ite (.next _) (.next _))

theorem execCaptureInputEdge_answers (input : Nat) (s : State) : Answers (execCaptureInputEdge input s) :=
  .ite (.next _) (.next _)

theorem execInputStuck_answers (input : Nat) (s : State) : Answers (execInputStuck input s) :=
  .ite (.next _) (.next _)

theorem execAcqArm_answers (unit : Nat) (f : AcqFields) (s : State) : Answers (execAcqArm unit f s) :=
  State.asWrite_answers fun _ => .ite (.next _) (.next _)

theorem execAcqStop_answers (unit : Nat) (f : AcqFields) (s : State) : Answers (execAcqStop unit f s) :=
  State.asWrite_answers fun _ => .next _

theorem execAcqForce_answers (unit : Nat) (f : AcqFields) (s : State) : Answers (execAcqForce unit f s) :=
  State.asWrite_answers fun _ => .next _

theorem execDecForce_answers (dec format : Nat) (host : Bool) (s : State) : Answers (execDecForce dec format host s) :=
  State.asWrite_answers fun _ => .ite (.next _) (.next _)

theorem execPostCyclesEnd_answers (unit : Nat) (s : State) : Answers (execPostCyclesEnd unit s) :=
  .ite (.next _) (.next _)

theorem execHoldoffEnd_answers (unit : Nat) (s : State) : Answers (execHoldoffEnd unit s) :=
  .ite (.next _) (.next _)

theorem execCaptureWriteDone_answers (unit : Nat) (s : State) : Answers (execCaptureWriteDone unit s) := by
  dsimp only [execCaptureWriteDone]
  repeat' split
  all_goals exact .next _

theorem execCaptureBusError_answers (unit : Nat) (s : State) : Answers (execCaptureBusError unit s) :=
  .ite (.next _) (.next _)

theorem execTrFlush_answers (s : State) : Answers (execTrFlush s) :=
  State.asWrite_answers fun _ => .next _

theorem execTrRoute_answers (s : State) : Answers (execTrRoute s) :=
  State.asWrite_answers fun _ => .next _

theorem execClearFb_answers (s : State) : Answers (execClearFb s) :=
  State.asWrite_answers fun _ => .next _

theorem execCairnTimer_answers (core : Nat) (s : State) : Answers (execCairnTimer core s) :=
  .ite (.next _) (.next _)

theorem execTraceFrameWrite_answers (s : State) : Answers (execTraceFrameWrite s) := by
  unfold execTraceFrameWrite
  extract_lets
  repeat' split
  all_goals exact .next _

theorem execFallbackDrainDone_answers (s : State) : Answers (execFallbackDrainDone s) :=
  .ite (.next _) (.next _)

theorem execTokenLoad_answers (slot : Nat) (s : State) : Answers (execTokenLoad slot s) :=
  State.asWrite_answers fun _ => .ite (.next _) (.next _)

theorem execTokenLoadDone_answers (ok : Bool) (bytes : List Byte) (s : State) : Answers (execTokenLoadDone ok bytes s) := by
  unfold execTokenLoadDone
  extract_lets
  repeat' split
  all_goals exact .next _

theorem execTokenRevoke_answers (slot : Nat) (s : State) : Answers (execTokenRevoke slot s) :=
  State.asWrite_answers fun _ => .ite (.next _) (.next _)

theorem execPowerOn_answers (refin : Bool) (s : State) : Answers (execPowerOn refin s) :=
  .ite (.next _) (.next _)

theorem execPowerControlInterval_answers (o : PowerObs) (s : State) : Answers (execPowerControlInterval o s) := by
  unfold execPowerControlInterval
  extract_lets
  repeat' split
  all_goals exact .next _

theorem execRomVerifyDone_answers (s : State) : Answers (execRomVerifyDone s) := by
  unfold execRomVerifyDone
  extract_lets
  repeat' split
  all_goals exact .next _

theorem execDramPhaseDone_answers (delays bounds : List Nat) (s : State) : Answers (execDramPhaseDone delays bounds s) := by
  unfold execDramPhaseDone
  extract_lets
  repeat' split
  all_goals exact .next _

theorem execPinsPhaseDone_answers (times : List (Option Nat)) (s : State) : Answers (execPinsPhaseDone times s) :=
  .ite (.next _) (.next _)

theorem execRecoveryStreamVerified_answers (s : State) : Answers (execRecoveryStreamVerified s) := by
  unfold execRecoveryStreamVerified
  repeat' split
  all_goals exact .next _

theorem execFwProgram_answers (f : PwFields) (s : State) : Answers (execFwProgram f s) :=
  .ite (.next _) (.next _)

theorem execFwProgramDone_answers (ok : Bool) (bytes : List Byte) (flash : Bool) (s : State) : Answers (execFwProgramDone ok bytes flash s) := by
  dsimp only [execFwProgramDone]
  repeat' split
  all_goals exact .next _

theorem execRefinLoss_answers (s : State) : Answers (execRefinLoss s) :=
  .ite (.next _) (.next _)

theorem execScrubRead_answers (loc : ClusterSite) (kind unit addr err : Nat) (s : State) : Answers (execScrubRead loc kind unit addr err s) := by
  unfold execScrubRead
  extract_lets
  repeat' split
  all_goals exact .next _

theorem execScrubGo_answers (die kind slot : Nat) (s : State) : Answers (execScrubGo die kind slot s) :=
  State.asWrite_answers fun _ => .ite (.next _) (.next _)

theorem execScrubPassDone_answers (die : Nat) (s : State) : Answers (execScrubPassDone die s) :=
  .ite (.next _) (.next _)

theorem execBist_answers (target index : Nat) (s : State) : Answers (execBist target index s) := by
  refine State.asWrite_answers fun _ => ?_
  dsimp only
  repeat' split
  all_goals exact .next _

theorem execBistDone_answers (fails : List UnitId) (rows : List (Nat × Nat × Nat)) (s : State) : Answers (execBistDone fails rows s) := by
  unfold execBistDone
  repeat' split
  all_goals exact .next _

theorem execFlushWear_answers (target index : Nat) (s : State) : Answers (execFlushWear target index s) :=
  State.asWrite_answers fun _ => .next _

theorem execWearCompactDone_answers (s : State) : Answers (execWearCompactDone s) :=
  .ite (.next _) (.next _)

theorem execHsPitchMapWrite_answers (pitch spareCol : Nat) (s : State) : Answers (execHsPitchMapWrite pitch spareCol s) :=
  State.asWrite_answers fun _ => .next _

theorem execHsBpMapWrite_answers (loc : ClusterSite) (spare0 spare1 : Nat) (failed : Bool) (s : State) : Answers (execHsBpMapWrite loc spare0 spare1 failed s) :=
  State.asWrite_answers fun _ => .next _

theorem execHsColMapWrite_answers (loc : ClusterSite) (col0 col1 : Nat) (s : State) : Answers (execHsColMapWrite loc col0 col1 s) :=
  State.asWrite_answers fun _ => .next _

theorem execHiChVecWrite_answers (chan vec : Nat) (s : State) : Answers (execHiChVecWrite chan vec s) :=
  State.asWrite_answers fun _ => .next _

theorem execRegisterWrite_answers (place : RegSpace) (wide : Bool) (value : Nat) (obs : WriteObs) (s : State) : Answers (execRegisterWrite place wide value obs s) := by
  unfold execRegisterWrite
  repeat' split
  all_goals exact .next _

theorem execRegAccess_answers (dr : Nat) (obs : WriteObs) (s : State) : Answers (execRegAccess dr obs s) :=
  .ite (.next _) (.ite (.next _) (.next _))

theorem execLoadStream_answers (dr : Nat) (s : State) : Answers (execLoadStream dr s) :=
  .ite (.next _) (.next _)

theorem execInputRecovery_answers (s : State) : Answers (execInputRecovery s) := by
  unfold execInputRecovery
  repeat' split
  all_goals exact .next _

theorem execInputLevelChange_answers (input : Nat) (level short : Bool) (s : State) : Answers (execInputLevelChange input level short s) :=
  .ite (.next _) (.ite (.next _) (.next _))

theorem execStuckMaskRelease_answers (input : Nat) (s : State) : Answers (execStuckMaskRelease input s) :=
  .ite (.next _) (.next _)

/-- Every command answers a next state: most by their form, and the others in each of their branches. -/
theorem exec_answers (i : Instr) (s : State) : Answers (exec i s) := by
  cases i with
  | drainEnd => exact execDrainEnd_answers ..
  | mulResultWrite => exact execMulResultWrite_answers ..
  | recordExchange => exact execRecordExchange_answers ..
  | snapshotPoint => exact execSnapshotPoint_answers ..
  | start => exact execStart_answers ..
  | pause => exact execPause_answers ..
  | resume => exact execResume_answers ..
  | step => exact execStep_answers ..
  | halt => exact execHalt_answers ..
  | unload => exact execUnload_answers ..
  | unloadDone => exact execUnloadDone_answers ..
  | rampStart => exact execRampStart_answers ..
  | firstDesignCycleStart => exact execFirstDesignCycleStart_answers ..
  | restoreDone => exact execRestoreDone_answers ..
  | bankGrant => exact execBankGrant_answers ..
  | mgmtAccessGo => exact execMgmtAccessGo_answers ..
  | mgmtAccessDone => exact execMgmtAccessDone_answers ..
  | wakeClearEnd => exact execWakeClearEnd_answers ..
  | crossingItemArrive => exact execCrossingItemArrive_answers ..
  | fifoWrite => exact execFifoWrite_answers ..
  | fifoPtrMismatch => exact execFifoPtrMismatch_answers ..
  | fifoReprime => exact execFifoReprime_answers ..
  | stall => exact execStall_answers ..
  | release => exact execRelease_answers ..
  | boundary => exact execBoundary_answers ..
  | guylineHalt => exact execGuylineHalt_answers ..
  | dcTagWrite => exact execDcTagWrite_answers ..
  | dcAccWrite => exact execDcAccWrite_answers ..
  | snapArm => exact execSnapArm_answers ..
  | snapAbort => exact execSnapAbort_answers ..
  | snapshotDone => exact execSnapshotDone_answers ..
  | dcSnapSelWrite => exact execDcSnapSelWrite_answers ..
  | load => exact execLoad_answers ..
  | ldAbort => exact execLdAbort_answers ..
  | ldDmaPush => exact execLdDmaPush_answers ..
  | loadSegment => exact execLoadSegment_answers ..
  | loadTimeout => exact execLoadTimeout_answers ..
  | loadClearDone => exact execLoadClearDone_answers ..
  | dmInit => exact execDmInit_answers ..
  | dmInitDone => exact execDmInitDone_answers ..
  | dmActivate => exact execDmActivate_answers ..
  | dmQuiesce => exact execDmQuiesce_answers ..
  | quiesceDone => exact execQuiesceDone_answers ..
  | dmPpr => exact execDmPpr_answers ..
  | pprDone => exact execPprDone_answers ..
  | mrw => exact execMrw_answers ..
  | mrr => exact execMrr_answers ..
  | mpc => exact execMpc_answers ..
  | trainOpDone => exact execTrainOpDone_answers ..
  | dmMapWrite => exact execDmMapWrite_answers ..
  | refreshDue => exact execRefreshDue_answers ..
  | postponedRefreshIssue => exact execPostponedRefreshIssue_answers ..
  | rfmDone => exact execRfmDone_answers ..
  | deepRequest => exact execDeepRequest_answers ..
  | deepReadDataArrive => exact execDeepReadDataArrive_answers ..
  | reencryptDone => exact execReencryptDone_answers ..
  | install => exact execInstall_answers ..
  | keyBlobReadDone => exact execKeyBlobReadDone_answers ..
  | roll => exact execRoll_answers ..
  | rollDone => exact execRollDone_answers ..
  | remove => exact execRemove_answers ..
  | mpRangeWrite => exact execMpRangeWrite_answers ..
  | regionInitDone => exact execRegionInitDone_answers ..
  | epochLimit => exact execEpochLimit_answers ..
  | lds => exact execLds_answers ..
  | sts => exact execSts_answers ..
  | ccMemoryResponse => exact execCcMemoryResponse_answers ..
  | sliceExpire => exact execSliceExpire_answers ..
  | sleepEntry => exact execSleepEntry_answers ..
  | coreWakeDone => exact execCoreWakeDone_answers ..
  | ccCtrlWake => exact execCcCtrlWake_answers ..
  | ccEnableWrite => exact execCcEnableWrite_answers ..
  | ccDomWrite => exact execCcDomWrite_answers ..
  | taskDispatch => exact execTaskDispatch_answers ..
  | bivouacLoadDone => exact execBivouacLoadDone_answers ..
  | taskArm => exact execTaskArm_answers ..
  | taskCancel => exact execTaskCancel_answers ..
  | taskFree => exact execTaskFree_answers ..
  | tsTaskFlagsWrite => exact execTsTaskFlagsWrite_answers ..
  | chEnable => exact execChEnable_answers ..
  | chQuiesce => exact execChQuiesce_answers ..
  | channelQuiesced => exact execChannelQuiesced_answers ..
  | chDisable => exact execChDisable_answers ..
  | channelDoorbell => exact execChannelDoorbell_answers ..
  | inboundSlotFetched => exact execInboundSlotFetched_answers ..
  | outboundCopyDone => exact execOutboundCopyDone_answers ..
  | mirrorBusError => exact execMirrorBusError_answers ..
  | channelTimeout => exact execChannelTimeout_answers ..
  | tsLogKeepWrite => exact execTsLogKeepWrite_answers ..
  | fenceDoorbell => exact execFenceDoorbell_answers ..
  | fenceComplete => exact execFenceComplete_answers ..
  | domainOn => exact execDomainOn_answers ..
  | domainOnStart => exact execDomainOnStart_answers ..
  | domainOnDone => exact execDomainOnDone_answers ..
  | domainOff => exact execDomainOff_answers ..
  | powerDownDrainDone => exact execPowerDownDrainDone_answers ..
  | pdTimeout => exact execPdTimeout_answers ..
  | probePop => exact execProbePop_answers ..
  | trainingStateTimeout => exact execTrainingStateTimeout_answers ..
  | capabilityWord => exact execCapabilityWord_answers ..
  | eqRequest => exact execEqRequest_answers ..
  | eqResponse => exact execEqResponse_answers ..
  | flitReceive => exact execFlitReceive_answers ..
  | retrain => exact execRetrain_answers ..
  | hnSpareCmd => exact execHnSpareCmd_answers ..
  | exitIdle => exact execExitIdle_answers ..
  | idleTimer => exact execIdleTimer_answers ..
  | idleEnter => exact execIdleEnter_answers ..
  | idleExitBurst => exact execIdleExitBurst_answers ..
  | laneLockLoss => exact execLaneLockLoss_answers ..
  | spareReq => exact execSpareReq_answers ..
  | spareDone => exact execSpareDone_answers ..
  | epoch => exact execEpoch_answers ..
  | echo => exact execEcho_answers ..
  | hello => exact execHello_answers ..
  | fbIdWrite => exact execFbIdWrite_answers ..
  | topo => exact execTopo_answers ..
  | routeCompute => exact execRouteCompute_answers ..
  | fbActiveWrite => exact execFbActiveWrite_answers ..
  | routeHostWrite => exact execRouteHostWrite_answers ..
  | linkLoss => exact execLinkLoss_answers ..
  | high => exact execHigh_answers ..
  | syncTimer => exact execSyncTimer_answers ..
  | autoRootTimeout => exact execAutoRootTimeout_answers ..
  | tmRoot => exact execTmRoot_answers ..
  | tmReset => exact execTmReset_answers ..
  | tmLoad => exact execTmLoad_answers ..
  | tmRateWrite => exact execTmRateWrite_answers ..
  | tmDtIncHiWrite => exact execTmDtIncHiWrite_answers ..
  | captureInputEdge => exact execCaptureInputEdge_answers ..
  | inputStuck => exact execInputStuck_answers ..
  | acqArm => exact execAcqArm_answers ..
  | acqStop => exact execAcqStop_answers ..
  | acqForce => exact execAcqForce_answers ..
  | decForce => exact execDecForce_answers ..
  | postCyclesEnd => exact execPostCyclesEnd_answers ..
  | holdoffEnd => exact execHoldoffEnd_answers ..
  | captureWriteDone => exact execCaptureWriteDone_answers ..
  | captureBusError => exact execCaptureBusError_answers ..
  | trFlush => exact execTrFlush_answers ..
  | trRoute => exact execTrRoute_answers ..
  | clearFb => exact execClearFb_answers ..
  | cairnTimer => exact execCairnTimer_answers ..
  | traceFrameWrite => exact execTraceFrameWrite_answers ..
  | fallbackDrainDone => exact execFallbackDrainDone_answers ..
  | tokenLoad => exact execTokenLoad_answers ..
  | tokenLoadDone => exact execTokenLoadDone_answers ..
  | tokenRevoke => exact execTokenRevoke_answers ..
  | powerOn => exact execPowerOn_answers ..
  | powerControlInterval => exact execPowerControlInterval_answers ..
  | romVerifyDone => exact execRomVerifyDone_answers ..
  | dramPhaseDone => exact execDramPhaseDone_answers ..
  | pinsPhaseDone => exact execPinsPhaseDone_answers ..
  | recoveryStreamVerified => exact execRecoveryStreamVerified_answers ..
  | fwProgram => exact execFwProgram_answers ..
  | fwProgramDone => exact execFwProgramDone_answers ..
  | refinLoss => exact execRefinLoss_answers ..
  | scrubRead => exact execScrubRead_answers ..
  | scrubGo => exact execScrubGo_answers ..
  | scrubPassDone => exact execScrubPassDone_answers ..
  | bist => exact execBist_answers ..
  | bistDone => exact execBistDone_answers ..
  | flushWear => exact execFlushWear_answers ..
  | wearCompactDone => exact execWearCompactDone_answers ..
  | hsPitchMapWrite => exact execHsPitchMapWrite_answers ..
  | hsBpMapWrite => exact execHsBpMapWrite_answers ..
  | hsColMapWrite => exact execHsColMapWrite_answers ..
  | hiChVecWrite => exact execHiChVecWrite_answers ..
  | registerWrite => exact execRegisterWrite_answers ..
  | regAccess => exact execRegAccess_answers ..
  | loadStream => exact execLoadStream_answers ..
  | inputRecovery => exact execInputRecovery_answers ..
  | inputLevelChange => exact execInputLevelChange_answers ..
  | stuckMaskRelease => exact execStuckMaskRelease_answers ..
  | _ => exact .next _

/-- Settles O58: a step is a tick or the command at the front. -/
theorem everyCommandAnswersANextState : Obligations.EveryCommandAnswersANextState := by
  refine ⟨exec_answers, fun s => ?_⟩
  unfold step
  split
  · exact ⟨_, rfl⟩
  · exact exec_answers _ _

end Sys2Proof.Machine
end

section
/-! Proofs of the statements of chapters 1 and 4: the logical positions that skip the spares (O57), and the code of the cluster
memory (O59). -/

namespace Sys2Proof.Machine

/-- Settles O57: both maps step over the spares, the BP map over the lower of the two first. -/
theorem logicalUnitsSkipTheSpares : Obligations.LogicalUnitsSkipTheSpares := by
  refine ⟨fun c j k hc hj hk => ?_, fun cl b d h0 h1 hne hb hd => ?_⟩
  · unfold physCol
    split <;> split <;> omega
  · have hlo : min cl.spare0 cl.spare1 < max cl.spare0 cl.spare1 := by omega
    have hspares : (min cl.spare0 cl.spare1 = cl.spare0 ∧ max cl.spare0 cl.spare1 = cl.spare1) ∨
        (min cl.spare0 cl.spare1 = cl.spare1 ∧ max cl.spare0 cl.spare1 = cl.spare0) := by omega
    simp only [Cluster.physBp]
    generalize min cl.spare0 cl.spare1 = lo at *
    generalize max cl.spare0 cl.spare1 = hi at *
    repeat' split
    all_goals omega

/-! ## The stored word -/

/-- A word of a canonical memory written whole is stored with its own check byte (R147). -/
theorem Cluster.write_word {cl : Cluster} (h : mcanon MemWord.clear cl.mem = true) (a : Nat) (x : Word) :
    (cl.write a x).word a = ⟨x, 0⟩ := by
  show mread _ (mwrite _ _ _ _) _ = _
  rw [mread_mwrite _ _ h, if_pos rfl]

/-- The stored 48 bits of a word written as `x`, with data `y` and `wrong` the wrong bits of its check byte. -/
def storedWord (x y : Word) (wrong : BitVec 8) : MemWord := ⟨y, (checkByte x ^^^ wrong) ^^^ checkByte y⟩

/-- Without a wrong data bit, the difference of the check byte is its wrong bits. -/
theorem storedWord_self (x : Word) (wrong : BitVec 8) : storedWord x x wrong = ⟨x, wrong⟩ := by
  rw [storedWord, BitVec.xor_comm (checkByte x), BitVec.xor_assoc, BitVec.xor_self, BitVec.xor_zero]

/-- A wrong data bit adds its column to the difference of the check byte. -/
theorem storedWord_flipBit (x y : Word) (wrong : BitVec 8) {i : Nat} (hi : i < 40) :
    storedWord x (flipBit y i) wrong = ⟨flipBit y i, (storedWord x y wrong).syn ^^^ eccColumn i⟩ := by
  rw [storedWord, checkByte_flipBit y i hi, ← BitVec.xor_assoc]
  rfl

theorem flipBit_flipBit (x : Word) (i : Nat) : flipBit (flipBit x i) i = x := by
  rw [flipBit, flipBit, BitVec.xor_assoc, BitVec.xor_self, BitVec.xor_zero]

/-- A difference of one check bit is that bit corrected (R148). -/
theorem MemWord.decode_unit (d : Word) {i : Nat} (hi : i < 8) : (⟨d, 1#8 <<< i⟩ : MemWord).decode = (d, .ce) := by
  have hne : 1#8 <<< i ≠ 0 := fun h => eccColumn_facts.2.1 (h ▸ eccUnit_mem hi)
  rw [MemWord.decode, if_neg hne, if_pos (synWeight_unit i hi)]

/-- Settles O59: each wrong bit adds its column to the difference, and the columns are those of a SEC-DED code. -/
theorem singleErrorsCorrectedDoubleErrorsDetected : Obligations.SingleErrorsCorrectedDoubleErrorsDetected := by
  intro cl a x i j flip stored chk
  have hdata : ∀ {n}, n < 40 → ∀ wrong, stored (flip x n) wrong = ⟨flip x n, wrong ^^^ eccColumn n⟩ := by
    intro n hn wrong
    exact (storedWord_flipBit x x wrong hn).trans (by rw [storedWord_self]; rfl)
  have hone : ∀ {n}, n < 40 → stored (flip x n) 0 = ⟨flip x n, eccColumn n⟩ := fun hn =>
    (hdata hn 0#8).trans (by rw [BitVec.zero_xor])
  refine ⟨fun hmem => ?_, fun hi => ?_, fun hi => ?_, fun hi hj hij => ?_, fun hi hj => ?_, fun hi hj hij => ?_⟩
  · rw [Cluster.write_word hmem]
    exact ⟨rfl, BitVec.zero_xor, rfl⟩
  · rw [hone hi, MemWord.decode_column _ hi]
    exact congrArg (·, Ecc.ce) (flipBit_flipBit x i)
  · exact (congrArg MemWord.decode (storedWord_self x (chk i))).trans (MemWord.decode_unit x hi)
  · have hsyn : (storedWord x (flip x i) 0).syn = eccColumn i := congrArg MemWord.syn (hone hi)
    refine (congrArg (fun m => (MemWord.decode m).2) (storedWord_flipBit x (flip x i) 0 hj)).trans ?_
    rw [hsyn]
    exact MemWord.decode_sum _ (eccColumn_mem hi) (eccColumn_mem hj) fun h => hij (eccColumn_inj hi hj h)
  · rw [hdata hi]
    exact MemWord.decode_sum _ (eccUnit_mem hj) (eccColumn_mem hi) (eccColumn_ne_unit hi hj).symm
  · refine (congrArg (fun m => (MemWord.decode m).2) (storedWord_self x (chk i ^^^ chk j))).trans ?_
    exact MemWord.decode_sum _ (eccUnit_mem hi) (eccUnit_mem hj) fun h => hij (eccUnit_inj i hi j hj h)

end Sys2Proof.Machine
end

section
/-! Proofs of the statements of chapter 2: a BP instruction at fault is suppressed, counted and logged (O6). -/

namespace Sys2Proof.Machine

/-! ## The turn of an instruction at fault -/

/-- The six commands of a BP run the instruction of their opcode. -/
theorem exec_bp_eq_runBp {loc : BpSite} {f : BpFields} {op : BpOp} {i : Instr}
    (hi : (op, i) ∈ [(BpOp.nop, Instr.bpNop loc f), (.lut4, .lut4 loc f), (.lut4e, .lut4e loc f), (.route, .route loc f), (.hold, .hold loc f),
      (.ckpt, .ckpt loc f)]) (s : State) : exec i s = .next (s.runBp loc op f) := by
  simp only [List.mem_cons, Prod.mk.injEq, List.not_mem_nil, or_false] at hi
  rcases hi with ⟨rfl, rfl⟩ | ⟨rfl, rfl⟩ | ⟨rfl, rfl⟩ | ⟨rfl, rfl⟩ | ⟨rfl, rfl⟩ | ⟨rfl, rfl⟩
  all_goals rfl

/-- An instruction with a fault is suppressed with the lowest of its faults (R94). -/
theorem State.bpTurn_of_fault {s : State} {c k n b e o : Nat} {op : BpOp} {f : BpFields} {l : List (Nat × Nat)}
    (h : bpFaults (s.ctxAt c (k / 72) k n) (s.cluster k).before ((s.cluster k).before.bp b) op f = (e, o) :: l) :
    s.bpTurn c k n b (some op) f = s.bpFaulted c k n b e o := by
  simp only [State.bpTurn, bpRun, h]

/-! ## What the log of faults takes and leaves -/

section
variable (s : State) (c k code bp step opnd : Nat)

/-- What registers, interrupts, log moments and camps do not hold, a logged fault leaves alone. -/
theorem State.logFault_apart {α : Type} {p : State → α} (h : Apart p) (hl : ∀ (t : State) f, p (t.modLogAt f) = p t)
    (hc : ∀ (t : State) d g, p (t.modCamp d g) = p t) : p (s.logFault c k code bp step opnd) = p s := by
  simp only [State.logFault, State.campFault, State.modGroup, hc]
  rw [State.logIn_apart h hl _ _ _ _ _ _ _ _ fun t => h.wr t ..]
  exact h.wr ..

/-- A logged fault counts, up to 0xFFFF_FFFF (R98). -/
theorem State.logFault_count :
    (s.logFault c k code bp step opnd).rd .CL_FAULT_COUNT k .COUNT = min (s.rd .CL_FAULT_COUNT k .COUNT + 1) (2 ^ 32 - 1) := by
  simp only [State.logFault, State.campFault, State.modGroup, State.modCamp_rd]
  rw [State.logIn_rd _ _ _ _ _ _ _ _ _ (by decide) (by decide) fun t => State.rd_wr_reg _ _ _ _ _ _ (by decide), State.bump,
    State.rd_wr_self]
  exact Nat.mod_eq_of_lt (by show min _ (2 ^ 32 - 1) < 2 ^ 32; omega)

/-- The log's fields after a fault that an empty log takes (R97, R98). -/
theorem State.logFault_fresh (h : s.rd .CL_FAULT_LOG k .VALID = 0) (g : FName) :
    (s.logFault c k code bp step opnd).rd .CL_FAULT_LOG k g =
      ((s.wrs .CL_FAULT_LOG k [(.CODE, code), (.BP, bp), (.STEP, step), (.OPND, opnd)]).wr .CL_FAULT_LOG k .VALID 1).rd .CL_FAULT_LOG k g := by
  simp only [State.logFault, State.campFault, State.modGroup, State.modCamp_rd]
  have hvalid : (s.bump .CL_FAULT_COUNT k .COUNT 1).rd .CL_FAULT_LOG k .VALID = 0 := by
    rw [State.bump, State.rd_wr_reg _ _ _ _ _ _ (by decide), h]
  rw [State.logIn_fresh _ _ _ _ _ _ _ _ hvalid (by decide) fun t => State.rd_wr_reg _ _ _ _ _ _ (by decide)]
  simp [State.rd_wr, State.bump]

/-- The log's fields after a fault that takes the place of a higher BP's of the same step (R100). -/
theorem State.logFault_before (hnow : s.logsNow .CL_FAULT_LOG k (s.momentOf c (k / 72)) = true)
    (hrank : faultRank code bp < faultRank (s.rd .CL_FAULT_LOG k .CODE) (s.rd .CL_FAULT_LOG k .BP)) (g : FName) :
    (s.logFault c k code bp step opnd).rd .CL_FAULT_LOG k g =
      ((s.wrs .CL_FAULT_LOG k [(.CODE, code), (.BP, bp), (.STEP, step), (.OPND, opnd)]).wr .CL_FAULT_LOG k .MORE 1).rd .CL_FAULT_LOG k g := by
  have hnow' : (s.bump .CL_FAULT_COUNT k .COUNT 1).logsNow .CL_FAULT_LOG k (s.momentOf c (k / 72)) = true := by
    simpa [State.logsNow, State.bump, State.rd_wr] using hnow
  simp only [State.logFault, State.campFault, State.modGroup, State.modCamp_rd, State.logIn, hnow', hrank, decide_true]
  simp [State.rd_wr, State.bump]

end

/-- The widths of the fault log's fields (R97). -/
theorem faultLog_widths : (fieldSpec .CL_FAULT_LOG .VALID).width = 1 ∧ (fieldSpec .CL_FAULT_LOG .MORE).width = 1 ∧
    (fieldSpec .CL_FAULT_LOG .CODE).width = 6 ∧ (fieldSpec .CL_FAULT_LOG .BP).width = 6 ∧ (fieldSpec .CL_FAULT_LOG .STEP).width = 12 :=
  ⟨rfl, rfl, rfl, rfl, rfl⟩

/-- Settles O6: the suppressed instruction is `State.bpFaulted`, whose log entry is `State.logFault`. -/
theorem bpFaultsAreSuppressedAndLogged : Obligations.BpFaultsAreSuppressedAndLogged := by
  intro s loc f c n e o l op i hi k cl hstep hfault
  have hexec : exec i s = .next ((s.bpFaulted c k n loc.bp e o).haltIfFrozen c) := by
    rw [exec_bp_eq_runBp hi, State.runBp_of_stepOf hstep, State.bpTurn_of_fault hfault]
  refine ⟨s.bpFaulted c k n loc.bp e o, hexec, State.logFault_clusters .., ?_, ?_, State.logFault_count .., fun hvalid => ?_,
    fun hnow hrank => ?_⟩
  · exact State.logFault_apart _ _ _ _ _ _ _ apart_deep (fun _ _ => rfl) fun _ _ _ => rfl
  · exact State.logFault_apart _ _ _ _ _ _ _ apart_now (fun _ _ => rfl) fun _ _ _ => rfl
  · have hfield (g : FName) := State.logFault_fresh (s.modCluster k fun y =>
      { y.modBp loc.bp (fun z => { z with drive := none }) with done := loc.bp :: y.done }) c k e loc.bp n o hvalid g
    simp [State.bpFaulted, hfield, State.rd_wr, faultLog_widths]
  · have hfield (g : FName) := State.logFault_before (s.modCluster k fun y =>
      { y.modBp loc.bp (fun z => { z with drive := none }) with done := loc.bp :: y.done }) c k e loc.bp n o hnow hrank g
    simp [State.bpFaulted, hfield, State.rd_wr, faultLog_widths]

end Sys2Proof.Machine
end

section
/-! Proofs of the statements of chapter 2: what the BP instructions write when no check objects (O5). -/

namespace Sys2Proof.Machine

section
variable {s : State} {loc : BpSite} {f : BpFields} {c n : Nat} {op : BpOp} {i : Instr}
  (hi : (op, i) ∈ [(BpOp.nop, Instr.bpNop loc f), (.lut4, .lut4 loc f), (.lut4e, .lut4e loc f), (.route, .route loc f), (.hold, .hold loc f),
    (.ckpt, .ckpt loc f)])
  (hstep : s.stepOf (72 * loc.die + loc.slot) = some (c, n))
  (hfaults : bpFaults (s.ctxAt c ((72 * loc.die + loc.slot) / 72) (72 * loc.die + loc.slot) n) (s.cluster (72 * loc.die + loc.slot)).before
    ((s.cluster (72 * loc.die + loc.slot)).before.bp loc.bp) op f = [])
include hi hstep hfaults

/-- A command of a BP whose instruction raises no fault, writes no bit and drives no slot has its effect on the cluster (R94). -/
theorem exec_bp_of_no_bit {e : BpEffect}
    (he : bpEffect (s.ctxAt c ((72 * loc.die + loc.slot) / 72) (72 * loc.die + loc.slot) n) (s.cluster (72 * loc.die + loc.slot)).before
      ((s.cluster (72 * loc.die + loc.slot)).before.bp loc.bp) op f = e) (hbit : e.bit = none) (hslot : e.slot = none) :
    exec i s = .next ((s.modCluster (72 * loc.die + loc.slot) fun x => x.applyBp n loc.bp e).haltIfFrozen c) := by
  rw [exec_bp_eq_runBp hi, State.runBp_of_stepOf hstep, State.bpTurn_of_no_fault hfaults he hslot, hbit]
  rfl

/-- One that writes a bit has its effect once an UNPACK of that bit has been taken back (R94, R124). -/
theorem exec_bp_of_bit {e : BpEffect} {v : Bool}
    (he : bpEffect (s.ctxAt c ((72 * loc.die + loc.slot) / 72) (72 * loc.die + loc.slot) n) (s.cluster (72 * loc.die + loc.slot)).before
      ((s.cluster (72 * loc.die + loc.slot)).before.bp loc.bp) op f = e) (hbit : e.bit = some v) (hslot : e.slot = none) :
    exec i s = .next (((s.beatUnpack c (72 * loc.die + loc.slot) n loc.bp).modCluster (72 * loc.die + loc.slot)
      fun x => x.applyBp n loc.bp e).haltIfFrozen c) := by
  rw [exec_bp_eq_runBp hi, State.runBp_of_stepOf hstep, State.bpTurn_of_no_fault hfaults he hslot, hbit]
  rfl

end

/-- CKPT begins an armed drain, or has it wait for the path in the order of its step (R88 to R90). -/
theorem Cluster.ckpt_eq (cl : Cluster) (step i : Nat) : cl.ckpt step i =
    if (cl.bp i).drain = .armed then
      if cl.activeDrains < 4 ∧ cl.hasQueued = false then cl.modBp i fun b => { b with drain := .active 0 }
      else cl.modBp i fun b => { b with drain := .queued (64 * step + i) }
    else cl := by
  unfold Cluster.ckpt
  cases (cl.bp i).drain <;> rfl

/-- The turn of a ROUTE without a fault whose slot no lower BP drives: it takes the slot from the higher ones (R84, R188). -/
theorem State.bpTurn_route {s : State} {c k n b : Nat} {f : BpFields} {e : BpEffect} {v : Bool}
    (hfaults : bpFaults (s.ctxAt c (k / 72) k n) (s.cluster k).before ((s.cluster k).before.bp b) .route f = [])
    (he : bpEffect (s.ctxAt c (k / 72) k n) (s.cluster k).before ((s.cluster k).before.bp b) .route f = e)
    (hslot : e.slot = some (selIndex f.d, v)) (hfree : ∀ t ∈ (s.cluster k).before.slots, t.1 = selIndex f.d → b ≤ t.2.1) :
    s.bpTurn c k n b (some .route) f =
      ((if e.bit.isSome then s.beatUnpack c k n b else s).beatRoutes c k n b (selIndex f.d)).modCluster k fun x => x.applyBp n b e := by
  have hlow : (s.cluster k).before.slots.any (fun t => t.1 == selIndex f.d && decide (t.2.1 < b)) = false := by
    simpa using hfree
  simp only [State.bpTurn, bpRun, hfaults, he, hslot, hlow, Bool.false_eq_true, if_false]

/-- Settles O5: each instruction has the effect that `bpEffect` gives it. -/
theorem bpInstructionResults : Obligations.BpInstructionResults := by
  intro s loc f c n k cl b x idx ran wrote ends u hstep
  refine ⟨fun hok => ?_, fun hok hdest => ?_, fun hok hdest => ?_, fun hok hdest => ?_, fun hok hdest => ?_, fun hok => ?_,
    fun hok hfree => ?_, fun hok => ?_, fun hok => ?_⟩
  · exact (exec_bp_of_no_bit (op := .nop) (by simp) hstep hok rfl rfl rfl).trans rfl
  · intro v
    have he : bpEffect x cl b .lut4 f = ⟨some v, none, if f.xout then some v else none, none, false⟩ := by
      simp [bpEffect, ttIndex, writesShadow, hdest, BpEffect.none, v, idx]
    exact (exec_bp_of_bit (op := .lut4) (by simp) hstep hok he rfl rfl).trans rfl
  · intro v
    have he : bpEffect x cl b .lut4 f = ⟨none, some (selIndex f.d, v), if f.xout then some v else none, none, false⟩ := by
      simp [bpEffect, ttIndex, writesShadow, hdest, BpEffect.none, v, idx]
    exact (exec_bp_of_no_bit (op := .lut4) (by simp) hstep hok he rfl rfl).trans rfl
  · intro v
    have he : bpEffect x cl b .lut4 f = ⟨some v, some (selIndex f.d, v), if f.xout then some v else none, none, false⟩ := by
      simp [bpEffect, ttIndex, writesShadow, hdest, BpEffect.none, v, idx]
    exact (exec_bp_of_bit (op := .lut4) (by simp) hstep hok he rfl rfl).trans rfl
  · intro v
    have he : bpEffect x cl b .lut4 f = ⟨none, none, if f.xout then some v else none, none, false⟩ := by
      simp [bpEffect, ttIndex, writesShadow, hdest, BpEffect.none, v, idx]
    exact (exec_bp_of_no_bit (op := .lut4) (by simp) hstep hok he rfl rfl).trans rfl
  · exact (exec_bp_of_bit (op := .lut4e) (by simp) hstep hok rfl rfl rfl).trans rfl
  · intro v w
    have he : bpEffect x cl b .route f = ⟨if f.dest = 0 then some v else none, none, none, some (selIndex f.d, v), false⟩ := rfl
    show Host.Outcome.next (s.runBp loc .route f) = _
    rw [State.runBp_of_stepOf hstep, State.bpTurn_route hok he rfl hfree]
    by_cases hdest : f.dest = 0
    · simp only [w, hdest, if_true]; rfl
    · simp only [w, hdest, if_false]; rfl
  · exact (exec_bp_of_no_bit (op := .hold) (by simp) hstep hok rfl rfl rfl).trans rfl
  · refine (exec_bp_of_no_bit (op := .ckpt) (by simp) hstep hok rfl rfl rfl).trans (congrArg ends (congrArg (s.modCluster k) ?_))
    exact funext fun y => Cluster.ckpt_eq _ n loc.bp

end Sys2Proof.Machine
end

section
/-! Proofs of the statements of chapter 3: the ALU group of the word unit (O7) and its multiplier (O8). -/

namespace Sys2Proof.Machine

/-! ## What an instruction without a fault does -/

/-- A word-unit instruction without a fault has its effect on a cluster whose unit has executed (R107, R130). -/
theorem State.runWu_of_no_fault {s : State} {loc : ClusterSite} {c n : Nat} {op : WuOp} {f : WuFields}
    (hstep : s.stepOf (72 * loc.die + loc.slot) = some (c, n))
    (hok : wuFaults (s.ctxAt c ((72 * loc.die + loc.slot) / 72) (72 * loc.die + loc.slot) n) (s.cluster (72 * loc.die + loc.slot)).before
      (s.rd .WU_CFG (72 * loc.die + loc.slot) .MODE) ((s.cluster (72 * loc.die + loc.slot)).wroteBits n) op f = []) :
    s.runWu loc op f = ((s.modCluster (72 * loc.die + loc.slot) Cluster.wuIdle).wuEffect (72 * loc.die + loc.slot)
      (s.cluster (72 * loc.die + loc.slot)).before op f).haltIfFrozen c := by
  simp only [State.runWu, hstep, State.wuTurn, hok]

/-- An operation of the ALU and multiply group occupies no bank and writes or issues its result (R113, R114). -/
theorem State.wuEffect_of_isAlu {op : WuOp} (h : op.isAlu = true) (s : State) (k : Nat) (pre : Cluster) (f : WuFields) :
    (s.modCluster k Cluster.wuIdle).wuEffect k pre op f =
      s.modCluster k fun y => ({ y with busy := [], done := 64 :: y.done } : Cluster).aluWrite (aluOf pre op f) := by
  cases op with
  | nop | ldm | stm | pack | unpack | xec | shift => cases h
  | _ => simp only [State.wuEffect, State.modCluster_modCluster, wuBanks, Cluster.wuIdle]

/-- An ALU result is written at once (R107). -/
theorem Cluster.aluWrite_of_not_isMul {op : WuOp} (h : op.isMul = false) (cl pre : Cluster) (f : WuFields) :
    cl.aluWrite (aluOf pre op f) = { cl with w := tset cl.w (f.dst % 16) (aluOf pre op f).val } := by
  have hop : (aluOf pre op f).op.isMul = false := h
  rw [Cluster.aluWrite, hop, Cluster.setW]
  simp [aluOf]

/-- A multiply is issued (R114). -/
theorem Cluster.aluWrite_of_isMul {op : WuOp} (h : op.isMul = true) (cl pre : Cluster) (f : WuFields) :
    cl.aluWrite (aluOf pre op f) =
      { cl with mul := cl.mul ++ [⟨if cl.ticked.isSome then 2 else 3, f.dst % 16, (aluOf pre op f).val⟩] } :=
  if_pos h

/-! ## The ALU group -/

theorem flagWord_decide (p : Prop) [Decidable p] : flagWord (decide p) = if p then 1 else 0 := by
  by_cases h : p <;> simp [flagWord, h]

theorem maskOf_getLsbD {j : Nat} (hj : j < 40) (wid : Nat) : (maskOf wid).getLsbD j = decide (j < wid) := by
  rw [maskOf, BitVec.getLsbD_ofNat, Nat.testBit_two_pow_sub_one]
  simp [hj]

/-- EXT, bit by bit (R113). -/
theorem extOf_getLsbD {j : Nat} (hj : j < 40) (a : Word) (pos wid : Nat) :
    (extOf a pos wid).getLsbD j = (decide (j < wid) && a.getLsbD (pos + j)) := by
  rw [extOf, BitVec.getLsbD_and, maskOf_getLsbD hj, BitVec.getLsbD_ushiftRight, Bool.and_comm]

/-- DEP, bit by bit (R113). -/
theorem depOf_getLsbD {j : Nat} (hj : j < 40) (a b : Word) (pos wid : Nat) :
    (depOf a b pos wid).getLsbD j = if pos ≤ j ∧ j < pos + wid then b.getLsbD (j - pos) else a.getLsbD j := by
  have hmask := maskOf_getLsbD (j := j - pos) (by omega) wid
  simp only [depOf, BitVec.getLsbD_or, BitVec.getLsbD_and, BitVec.getLsbD_not, BitVec.getLsbD_shiftLeft, hmask, hj, decide_true,
    Bool.true_and]
  by_cases hlo : j < pos
  · simp [hlo, Nat.not_le.mpr hlo]
  · have hin : j - pos < wid ↔ j < pos + wid := by omega
    by_cases hhi : j < pos + wid
    · simp [hlo, hin, hhi, Nat.le_of_not_lt hlo]
    · simp [hlo, hin, hhi]

/-- Settles O7: every operation of the group writes its `wuAlu`, which is R113's table. -/
theorem wordUnitArithmeticResults : Obligations.WordUnitArithmeticResults := by
  intro s loc f c n k cl x a b m pos wid ok ends put hstep
  have halu : ∀ {i : Instr} {op : WuOp} {v : Word}, exec i s = .next (s.runWu loc op f) → op.isAlu = true → op.isMul = false →
      (aluOf cl op f).val = v → ok op → exec i s = put v := by
    intro i op v hi hisAlu hisMul hv hok
    rw [hi, State.runWu_of_no_fault hstep hok, State.wuEffect_of_isAlu hisAlu]
    simp only [Cluster.aluWrite_of_not_isMul hisMul, put, ends, ← hv]
    rfl
  refine ⟨fun hok => ?_, fun e he hok => ?_, fun hok => ?_, fun hok => ?_⟩
  · show Host.Outcome.next (s.runWu loc .nop f) = _
    rw [State.runWu_of_no_fault hstep hok]
    simp only [State.wuEffect, State.modCluster_modCluster, wuBanks, Cluster.wuIdle]
    rfl
  · simp only [List.mem_cons, List.not_mem_nil, or_false] at he
    rcases he with rfl | rfl | rfl | rfl | rfl | rfl | rfl | rfl | rfl | rfl | rfl | rfl | rfl | rfl | rfl | rfl | rfl | rfl
    any_goals exact halu rfl rfl rfl rfl hok
    all_goals exact halu rfl rfl rfl (flagWord_decide _) hok
  · exact ⟨_, halu rfl rfl rfl rfl hok, fun j hj => extOf_getLsbD hj _ _ _⟩
  · exact ⟨_, halu rfl rfl rfl rfl hok, fun j hj => depOf_getLsbD hj _ _ _ _⟩

/-! ## The multiplier -/

/-- A step's end in the multiplier happens once in the step (R114). -/
theorem Cluster.mulTick_mulTick (cl : Cluster) : cl.mulTick.mulTick = cl.mulTick := by
  have hticked : cl.mulTick.ticked.isSome = true := by
    unfold Cluster.mulTick
    split
    · assumption
    · rfl
  rw [Cluster.mulTick, if_pos hticked]

/-- With one multiply in flight, the step's end counts it down, and writes it where its count ends (R114). -/
theorem Cluster.mulTick_single {cl : Cluster} {left d : Nat} {v : Word} (ht : cl.ticked = none) (hm : cl.mul = [⟨left + 1, d, v⟩]) :
    cl.mulTick = { cl with w := if left = 0 then tset cl.w (d % 16) v else cl.w, mul := if left = 0 then [] else [⟨left, d, v⟩],
                           ticked := some (cl.w, cl.mul) } := by
  unfold Cluster.mulTick
  cases left with
  | zero => simp [ht, hm, Cluster.setW]
  | succ n => simp [ht, hm]

theorem exec_mulResultWrite_of_stepOf {s : State} {loc : ClusterSite} {e : Nat × Nat} (h : s.stepOf (72 * loc.die + loc.slot) = some e) :
    exec (.mulResultWrite loc) s = .next (s.modCluster (72 * loc.die + loc.slot) Cluster.mulTick) := by
  show execMulResultWrite loc s = _
  simp only [execMulResultWrite, h]

/-- Where a step executes does not depend on the clusters. -/
theorem State.stepOf_modCluster (s : State) (k j : Nat) (g : Cluster → Cluster) : (s.modCluster j g).stepOf k = s.stepOf k := rfl

/-- Settles O8: the issue is `Cluster.aluWrite`, the three steps are `Cluster.mulTick_single` with counts 3, 2 and 1. -/
theorem multiplyResultsThreeStepsLater : Obligations.MultiplyResultsThreeStepsLater := by
  refine ⟨?_, ?_⟩
  · intro s loc f c n k cl a b hstep e he hok
    have hmul : ∀ {i : Instr} {op : WuOp} {v : Word}, exec i s = .next (s.runWu loc op f) → op.isAlu = true → op.isMul = true →
        (aluOf cl op f).val = v → wuFaults (s.ctxAt c (k / 72) k n) cl (s.rd .WU_CFG k .MODE) ((s.cluster k).wroteBits n) op f = [] →
        exec i s = .next ((s.modCluster k fun y =>
          { y with busy := [], done := 64 :: y.done, mul := y.mul ++ [⟨if y.ticked.isSome then 2 else 3, f.dst % 16, v⟩] }).haltIfFrozen c) := by
      intro i op v hi hisAlu hisMul hv hok
      rw [hi, State.runWu_of_no_fault hstep hok, State.wuEffect_of_isAlu hisAlu]
      simp only [Cluster.aluWrite_of_isMul hisMul, ← hv]
      rfl
    simp only [List.mem_cons, List.not_mem_nil, or_false] at he
    rcases he with rfl | rfl | rfl
    all_goals exact hmul rfl rfl rfl rfl hok
  · intro s loc k
    refine ⟨?_, ?_⟩
    · intro hnone
      show execMulResultWrite loc s = _
      simp only [execMulResultWrite]
      rw [hnone]
    · intro e hstep hticked d v hmul ends
      have htick (g : Cluster → Cluster) : exec (.mulResultWrite loc) (s.modCluster k g) = .next (s.modCluster k fun y => (g y).mulTick) := by
        rw [exec_mulResultWrite_of_stepOf (s := s.modCluster k g) (e := e) hstep, State.modCluster_modCluster]
      have hend (g : Cluster → Cluster) : ends (s.modCluster k g) = s.modCluster k fun y => (g y).endStep := State.modCluster_modCluster ..
      have h1 := Cluster.mulTick_single hticked hmul
      have h2 := Cluster.mulTick_single (cl := (s.cluster k).mulTick.endStep) (left := 1) (d := d) (v := v) rfl (by rw [h1]; rfl)
      have h3 := Cluster.mulTick_single (cl := (s.cluster k).mulTick.endStep.mulTick.endStep) (left := 0) (d := d) (v := v) rfl (by rw [h2]; rfl)
      refine ⟨_, _, _, exec_mulResultWrite_of_stepOf hstep, (htick _).trans ?_, (congrArg _ (hend _)).trans (htick _),
        (congrArg _ (hend _)).trans (htick _), ?_, ?_, ?_, ?_, rfl, rfl, rfl, fun j hj => State.cluster_modCluster_ne _ _ hj.symm⟩
      · exact congrArg (fun g => Host.Outcome.next (s.modCluster k g)) (funext Cluster.mulTick_mulTick)
      · rw [State.cluster_modCluster_self, h1]
        rfl
      · rw [State.cluster_modCluster_self, h2, h1]
        rfl
      · rw [State.cluster_modCluster_self, h3, h2, h1]
        rfl
      · rw [State.cluster_modCluster_self, h3]
        rfl

end Sys2Proof.Machine
end

section
/-! Proofs of the statements of chapter 3: the word unit's memory, packing and table operations (O9). -/

namespace Sys2Proof.Machine

/-! ## Reads and writes of a cluster memory by its word unit -/

section
variable {s : State} {k a : Nat}

/-- A word with its own check byte reads as it stands, and nothing is logged (R148). -/
theorem State.wuRead_of_clean (h : ((s.cluster k).word a).syn = 0) : s.wuRead k a = (((s.cluster k).word a).data, s) := by
  simp only [State.wuRead, MemWord.decode, h, if_true, State.logEcc]

/-- A write to a line that the snapshot has copied, or with none pending, saves nothing (R254). -/
theorem State.wuWrite_of_copied (h : a / 8 < (s.cluster k).snapLine) (x : Word) :
    s.wuWrite k a x = s.modCluster k fun y => y.write a x := by
  simp only [State.wuWrite, State.saveWord, Nat.not_le.mpr h, false_and, if_false]

/-- A set or clear of bits in a word with its own check byte writes the word with the bits set or cleared (R145). -/
theorem State.wuAlias_of_clean (hclean : ((s.cluster k).word a).syn = 0) (hcopied : a / 8 < (s.cluster k).snapLine) (set : Bool)
    (x : Word) : s.wuAlias k a set x = s.modCluster k fun y => y.write a (aliasValue set ((s.cluster k).word a).data x) := by
  have hwrite := State.wuWrite_of_copied hcopied (aliasValue set ((s.cluster k).word a).data x)
  simp only [State.wuWrite] at hwrite
  simp only [State.wuAlias, MemWord.decode, hclean, if_true, State.logEcc, reduceCtorEq, if_false, hwrite]

end

/-! ## The word that PACK gathers -/

/-- Bits gathered one by one: bit `j` is that of the `j`-th item (R122). -/
theorem gather_getLsbD (p : Nat → Bool) (g : Nat → Nat) {j : Nat} (hj : j < 40) (n : Nat) :
    ((((List.range n).map g).zipIdx.foldl (fun w e => if p e.1 then w ||| (1#40 <<< e.2) else w) 0 : Word)).getLsbD j =
      (decide (j < n) && p (g j)) := by
  induction n with
  | zero => simp
  | succ n ih =>
    rw [List.range_succ, List.map_append, List.zipIdx_append, List.foldl_append]
    simp only [List.map_cons, List.map_nil, List.zipIdx_cons, List.zipIdx_nil, List.foldl_cons, List.foldl_nil, List.length_map,
      List.length_range, Nat.zero_add]
    split
    next hp =>
      rw [BitVec.getLsbD_or, ih, BitVec.getLsbD_shiftLeft, BitVec.getLsbD_one]
      by_cases hjn : j = n
      · subst hjn
        simp [hp, hj]
      · have hne : ¬(n ≤ j ∧ j = n) := fun h => hjn h.2
        by_cases hlt : j < n
        · simp [hlt, Nat.lt_succ_of_lt hlt]
        · simp [hlt, show ¬ j < n + 1 by omega, show ¬ (j - n = 0) by omega]
    next hp =>
      rw [ih]
      by_cases hjn : j = n
      · subst hjn
        simp [hp]
      · simp [show j < n + 1 ↔ j < n by omega]

theorem packWord_getLsbD (cl : Cluster) (f : WuFields) {j : Nat} (hj : j < 40) :
    (packWord cl f).getLsbD j = (decide (j < modeBits f 18 6) && (cl.bp (modeBits f 24 6 + j)).bits.at (modeBits f 30 10)) :=
  gather_getLsbD (fun b => (cl.bp b).bits.at (modeBits f 30 10)) (modeBits f 24 6 + ·) hj _

/-! ## The operations -/

/-- The unit has executed an instruction that occupies the banks `b` (R139). -/
def Cluster.wuBusy (b : List Nat) (cl : Cluster) : Cluster := { cl with busy := b, done := 64 :: cl.done }

/-- An instruction's effect begins with the unit marked as having executed and its banks occupied. -/
theorem State.modCluster_wuIdle_busy (s : State) (k : Nat) (b : List Nat) :
    (s.modCluster k Cluster.wuIdle).modCluster k (fun cl => { cl with busy := b }) = s.modCluster k (Cluster.wuBusy b) :=
  State.modCluster_modCluster ..

section
variable (s : State) (k : Nat) (b : List Nat)

theorem State.word_wuBusy (a : Nat) : ((s.modCluster k (Cluster.wuBusy b)).cluster k).word a = (s.cluster k).word a := by
  rw [State.cluster_modCluster_self]
  rfl

theorem State.snapLine_wuBusy : ((s.modCluster k (Cluster.wuBusy b)).cluster k).snapLine = (s.cluster k).snapLine := by
  rw [State.cluster_modCluster_self]
  rfl

end

section
variable {s : State} {k a : Nat} {b : List Nat}

theorem State.wuRead_wuBusy (h : ((s.cluster k).word a).syn = 0) :
    (s.modCluster k (Cluster.wuBusy b)).wuRead k a = (((s.cluster k).word a).data, s.modCluster k (Cluster.wuBusy b)) := by
  rw [State.wuRead_of_clean (by rw [State.word_wuBusy, h]), State.word_wuBusy]

theorem State.wuWrite_wuBusy (h : a / 8 < (s.cluster k).snapLine) (x : Word) :
    (s.modCluster k (Cluster.wuBusy b)).wuWrite k a x = s.modCluster k fun y => (y.wuBusy b).write a x := by
  rw [State.wuWrite_of_copied (by rwa [State.snapLine_wuBusy]), State.modCluster_modCluster]

theorem State.wuAlias_wuBusy (hclean : ((s.cluster k).word a).syn = 0) (hcopied : a / 8 < (s.cluster k).snapLine) (set : Bool)
    (x : Word) : (s.modCluster k (Cluster.wuBusy b)).wuAlias k a set x =
      s.modCluster k fun y => (y.wuBusy b).write a (aliasValue set ((s.cluster k).word a).data x) := by
  rw [State.wuAlias_of_clean (by rw [State.word_wuBusy, hclean]) (by rwa [State.snapLine_wuBusy]), State.modCluster_modCluster,
    State.word_wuBusy]

end

/-- Settles O9: each operation is its branch of `State.wuEffect`, with a clean read and a write past the snapshot. -/
theorem wordUnitMemoryResults : Obligations.WordUnitMemoryResults := by
  intro s loc f c n k cl ok ends at64 a sel banks x badr base wid t hstep
  have hrun : ∀ {i : Instr} {op : WuOp} {u : State}, exec i s = .next (s.runWu loc op f) → ok op →
      (s.modCluster k Cluster.wuIdle).wuEffect k cl op f = u → exec i s = ends u := by
    intro i op u hi hok hu
    rw [hi, State.runWu_of_no_fault hstep hok, ← hu]
  refine ⟨fun hok hclean => ?_, fun hok hcond hbit => ?_, fun hok hcond hcopied => ?_, fun hok hclean hcopied => ?_, fun hok => ?_,
    fun hok => ?_, fun hok o ho hmul => ?_, fun hok hnone => ?_⟩
  · refine hrun rfl hok ?_
    simp only [State.wuEffect, State.modCluster_wuIdle_busy]
    rw [State.wuRead_wuBusy (show ((s.cluster k).word (wuAddr cl f)).syn = 0 from hclean), State.modCluster_modCluster]
    rfl
  · refine hrun rfl hok ?_
    simp only [State.wuEffect, State.modCluster_wuIdle_busy]
    rw [if_pos ⟨hcond, hbit⟩]
    rfl
  · have hwrites : ¬(modeBits f 33 1 = 1 ∧ (cl.wreg (modeBits f 29 4)).getLsbD 0 = false) := by
      rintro ⟨h1, h0⟩
      rcases hcond with h | h
      · rw [h] at h1
        cases h1
      · rw [h] at h0
        cases h0
    refine ⟨fun hmode => hrun rfl hok ?_, fun hclean hmode => hrun rfl hok ?_, fun hclean hmode => hrun rfl hok ?_⟩
    all_goals simp only [State.wuEffect, State.modCluster_wuIdle_busy, hmode]
    all_goals rw [if_neg hwrites]
    · exact State.wuWrite_wuBusy hcopied x
    · exact State.wuAlias_wuBusy hclean hcopied true x
    · exact State.wuAlias_wuBusy hclean hcopied false x
  · refine hrun rfl hok ?_
    simp only [State.wuEffect, State.modCluster_wuIdle_busy, State.modCluster_rd]
    rw [State.wuRead_wuBusy (show ((s.cluster k).word t).syn = 0 from hclean), State.wuWrite_wuBusy hcopied, State.modCluster_modCluster]
    rfl
  · refine ⟨_, hrun rfl hok ?_, fun j hj => packWord_getLsbD cl f hj⟩
    simp only [State.wuEffect, State.modCluster_modCluster]
    rfl
  · refine hrun rfl hok ?_
    simp only [State.wuEffect, State.modCluster_modCluster]
    rfl
  · refine hrun rfl hok ?_
    simp only [State.wuEffect, State.modCluster_modCluster, ho, Cluster.aluWrite, hmul]
    rfl
  · refine hrun rfl hok ?_
    simp only [State.wuEffect, State.modCluster_modCluster, hnone]
    rfl

end Sys2Proof.Machine
end

section
/-! A request to an open page (O22): a line that nothing makes wait and no check objects to is served alone, and answers its requester. -/

namespace Sys2Proof.Machine

/-- A line of an unowned page of the data area on an ACTIVE channel, at which a clean request of `src` waits for nothing and meets no uncorrectable error. -/
structure State.OpenLine (s : State) (src addr : Nat) : Prop where
  inside : addr < dataEnd
  unowned : s.pageOwner (addr / 4096) = 0
  active : s.chanFault (s.chanOf addr) = none
  page : s.pageWaits (addr / 4096) = false
  bank : s.bankHolds (s.bankOf addr) = false
  sched : s.schedFirst (s.chanOf addr) = false
  alone : ∀ e ∈ s.deep.held, e.req.src ≠ src
  good : ∀ e ∈ s.deep.badLines, e.1 ≠ addr / 64

namespace State.OpenLine

variable {s : State} {src addr : Nat} (h : s.OpenLine src addr)
include h

theorem keyFault : s.keyFault 0 addr = none := by
  have hi : ¬ dataEnd ≤ addr := Nat.not_le.mpr h.inside
  simp only [State.keyFault, if_neg hi, h.unowned, ne_eq, not_true_eq_false, if_false, if_true]

/-- A request of one line waits for nothing. -/
theorem reqWaits {r : DeepReq} (hs : r.src = src) (hk : r.key = 0) (hl : reqLines r = [addr]) :
    s.reqWaits r DeepObs.clean (s.deep.held.map (·.req)) = false := by
  have earlier : (s.deep.held.map (·.req)).any (s.ordered r) = false := by
    rw [List.any_eq_false]
    intro q hq
    obtain ⟨e, he, rfl⟩ := List.mem_map.mp hq
    have hne : (r.src == e.req.src) = false := by
      rw [hs, beq_eq_false_iff_ne]
      exact (h.alone e he).symm
    simp [State.ordered, hne]
  simp [State.reqWaits, hl, hk, State.lineWaits, h.page, h.bank, h.sched, DeepObs.clean, earlier]

/-- The check of the line finds nothing. -/
theorem checkLine (owner : Nat) : s.checkLine addr owner DeepObs.clean = (none, s) := by
  have hg : (s.deep.badLines.find? fun e => e.1 == addr / 64) = none := by
    rw [List.find?_eq_none]
    intro e he
    simpa using h.good e he
  simp only [State.checkLine, hg]
  rfl

/-- A read of the line gives the bytes stored. -/
theorem serveLine_read {r : DeepReq} (hk : r.key = 0) (n : Nat) :
    s.serveLine r DeepObs.clean addr n none = (⟨none, s.deepRead addr n⟩, s) := by
  simp only [State.serveLine, hk, h.keyFault, h.active, if_true, Option.isSome_none, Bool.false_and, Bool.false_eq_true, if_false, DeepObs.clean]
  rw [show (⟨0, [], 0, [], [], false, []⟩ : DeepObs) = DeepObs.clean from rfl, h.checkLine 0]

/-- A write of the line, whole or in part, stores its bytes. -/
theorem serveLine_write {r : DeepReq} (hk : r.key = 0) (n : Nat) (bs : List Byte) :
    s.serveLine r DeepObs.clean addr n (some bs) =
      (⟨none, []⟩, s.modDeep fun d => { d.putBytes addr bs with badLines := tdel d.badLines (addr / 64) }) := by
  have hput : s.putLine addr bs = (none, s.modDeep fun d => { d.putBytes addr bs with badLines := tdel d.badLines (addr / 64) }) := by
    simp only [State.putLine, h.unowned, if_true]
    rfl
  simp only [State.serveLine, hk, h.keyFault, h.active, if_true, DeepObs.clean, Bool.false_eq_true, if_false]
  rw [show (⟨0, [], 0, [], [], false, []⟩ : DeepObs) = DeepObs.clean from rfl, h.checkLine 0, ite_self]
  simp only [hput]

end State.OpenLine

/-- The bytes a write to one line stores are a run of memory; the line is no longer a bad one. -/
def State.stored (s : State) (addr : Nat) (bs : List Byte) : State :=
  s.modDeep fun d => { d.putBytes addr bs with badLines := tdel d.badLines (addr / 64) }

theorem mem_of_mem_tdel {κ ν : Type} [DecidableEq κ] {l : List (κ × ν)} {k : κ} {e : κ × ν} (h : e ∈ tdel l k) : e ∈ l := by
  induction l with
  | nil => exact h
  | cons x l ih =>
    obtain ⟨k', v⟩ := x
    simp only [tdel] at h
    split at h
    · exact List.mem_cons_of_mem _ (ih h)
    · rcases List.mem_cons.mp h with rfl | h
      · exact List.mem_cons_self
      · exact List.mem_cons_of_mem _ (ih h)

/-- A write to an open line leaves it open. -/
theorem State.OpenLine.stored {s : State} {src addr : Nat} (h : s.OpenLine src addr) (bs : List Byte) (o : Out) :
    ((s.stored addr bs).emit o).OpenLine src addr where
  inside := h.inside
  unowned := h.unowned
  active := h.active
  page := h.page
  bank := h.bank
  sched := h.sched
  alone := h.alone
  good e he := h.good e (mem_of_mem_tdel he)

/-- A clean read of part of an open line answers with its bytes. -/
theorem exec_deepRequest_read_of_open {s : State} {src addr n : Nat} {posted : Bool} (h : s.OpenLine src addr) (hs : 64 ≤ src) (hn : 0 < n)
    (hl : addr % 64 + n ≤ 64) :
    exec (.deepRequest ⟨src, 0, addr, n, none, posted⟩ DeepObs.clean) s =
      .next (s.emit (.deepReply src none ((List.range n).map fun i => s.deep.byte (addr + i)))) := by
  have hlt : ¬ src < 64 := Nat.not_lt.mpr hs
  have hlines : linesOf addr n = [(addr, n)] := linesOf_one addr n hn hl
  have hw : s.reqWaits ⟨src, 0, addr, n, none, posted⟩ DeepObs.clean (s.deep.held.map (·.req)) = false :=
    h.reqWaits rfl rfl (by simp [reqLines, hlines])
  have hserve : s.serve ⟨src, 0, addr, n, none, posted⟩ DeepObs.clean = (⟨none, s.deepRead addr n⟩, s) := by
    simp only [State.serve, State.serveWith, hlines, List.foldl_cons, List.foldl_nil, Option.map_none, h.serveLine_read, List.nil_append]
  show execDeepRequest _ _ _ = _
  simp only [execDeepRequest, if_neg hlt, State.submit, hw, Bool.false_eq_true, if_false, hserve]
  rfl

/-- A clean write of part of an open line stores its bytes and answers. -/
theorem exec_deepRequest_write_of_open {s : State} {src addr n : Nat} {bs : List Byte} {posted : Bool} (h : s.OpenLine src addr) (hs : 64 ≤ src)
    (hn : 0 < bs.length) (hl : addr % 64 + bs.length ≤ 64) :
    exec (.deepRequest ⟨src, 0, addr, n, some bs, posted⟩ DeepObs.clean) s = .next ((s.stored addr bs).emit (.deepReply src none [])) := by
  have hlt : ¬ src < 64 := Nat.not_lt.mpr hs
  have hlines : linesOf addr bs.length = [(addr, bs.length)] := linesOf_one addr _ hn hl
  have hw : s.reqWaits ⟨src, 0, addr, n, some bs, posted⟩ DeepObs.clean (s.deep.held.map (·.req)) = false :=
    h.reqWaits rfl rfl (by simp [reqLines, hlines])
  have hserve : s.serve ⟨src, 0, addr, n, some bs, posted⟩ DeepObs.clean = (⟨none, []⟩, s.stored addr bs) := by
    simp only [State.serve, State.serveWith, hlines, List.foldl_cons, List.foldl_nil, Option.map_some, Nat.sub_self, List.drop_zero,
      List.take_length, h.serveLine_write, List.nil_append]
    rfl
  show execDeepRequest _ _ _ = _
  simp only [execDeepRequest, if_neg hlt, State.submit, hw, Bool.false_eq_true, if_false, hserve]
  rfl

/-- Settles O22: the write and the two reads each concern one open line; the bytes are those of a run stored in memory. -/
theorem deepWritesStoreTheirBytesAndNothingElse : Obligations.DeepWritesStoreTheirBytesAndNothingElse := by
  unfold Obligations.DeepWritesStoreTheirBytesAndNothingElse
  intro s src addr n bs posted hmem hsrc hend hown hchan hpage hbank hsched hheld hbad hne hline hn
  subst hn
  have hpos : 0 < bs.length := List.length_pos_iff.mpr hne
  have h : s.OpenLine src addr := ⟨by omega, hown, hchan, hpage, hbank, hsched, hheld, hbad⟩
  have hin : ∀ i (hi : i < bs.length), (s.stored addr bs).deep.byte (addr + i) = bs[i] := (s.deep.putBytes_byte addr addr bs hmem).1
  refine ⟨⟨_, exec_deepRequest_write_of_open h hsrc hpos hline, hin, fun a => (s.deep.putBytes_byte addr a bs hmem).2, rfl, rfl, rfl,
    _, exec_deepRequest_read_of_open (h.stored bs _) hsrc hpos hline, ?_, rfl⟩, exec_deepRequest_read_of_open h hsrc hpos hline⟩
  have hread : ((List.range bs.length).map fun i => (s.stored addr bs).deep.byte (addr + i)) = bs := by
    refine List.ext_getElem (by simp) fun i h1 h2 => ?_
    simpa using hin i h2
  show Out.deepReply src none ((List.range bs.length).map fun i => (s.stored addr bs).deep.byte (addr + i)) :: _ = _
  rw [hread]

end Sys2Proof.Machine
end

section
/-! Run commands where they are accepted (O10): each command's whole next state, and what a START leaves of its camp and of the rest. -/

namespace Sys2Proof.Machine

/-! ## The camp enters RUNNING -/

/-- The camps are all that a camp is read from. -/
theorem State.camp_congr {t u : State} (h : t.camps = u.camps) (k : Nat) : t.camp k = u.camp k :=
  congrArg (tget Camp.reset · k) h

theorem bit_mod_two (b : Bool) : bit b % 2 = bit b := by cases b <;> rfl

section
variable (s : State) (c : Nat)

theorem State.beginStart_rd_status : (s.beginStart c).rd .RUN_CAMP_STATUS c .STATE = 3 ∧ (s.beginStart c).rd .RUN_CAMP_STATUS c .RAMPING = 1 ∧
    (s.beginStart c).rd .RUN_CAMP_STATUS c .HALT_CAUSE = 0 ∧ (s.beginStart c).rd .RUN_CAMP_STATUS c .HALT_MIDCYCLE = 0 := by
  simp [State.beginStart, State.acqStart, State.rd_wr, show (fieldSpec .RUN_CAMP_STATUS .STATE).width = 3 from rfl,
    show (fieldSpec .RUN_CAMP_STATUS .RAMPING).width = 1 from rfl]

/-- A START changes of the registers its own camp's status alone among those of the run unit. -/
theorem State.beginStart_rd_ctrl (i : Nat) (f : FName) : (s.beginStart c).rd .RUN_CAMP_CTRL i f = s.rd .RUN_CAMP_CTRL i f := by
  have hw : (s.forEach (s.campClusters c) fun t k => t.modCluster k Cluster.start).rd .RUN_CAMP_CTRL i f = s.rd .RUN_CAMP_CTRL i f :=
    State.forEach_same (State.rd · .RUN_CAMP_CTRL i f) (f := fun t k => t.modCluster k Cluster.start) (fun _ _ => rfl) s _
  simp [State.beginStart, State.acqStart, State.rd_wr, hw]

/-- Of the camps a START changes its own, which begins afresh. -/
theorem State.beginStart_camps : (s.beginStart c).camps =
    (s.modCamp c fun x => x.start (s.campState c == 2) (s.rd .RUN_CAMP_CTRL c .START_SRC == 1)).camps := by
  have hc : (s.forEach (s.campClusters c) fun t k => t.modCluster k Cluster.start).camps = s.camps :=
    State.forEach_same State.camps (f := fun t k => t.modCluster k Cluster.start) (fun _ _ => rfl) s _
  simp only [State.beginStart, State.acqStart, State.modAcq_camps, State.wr_camps, State.modLogAt_camps, State.wrs_camps]
  simp only [State.modCamp, hc]

/-- What neither the walk over the camp's clusters nor a register write touches stands through a START. -/
theorem State.beginStart_same {β : Type} (p : State → β) (hcl : ∀ t k f, p (State.modCluster t k f) = p t)
    (hcamp : ∀ t k f, p (State.modCamp t k f) = p t) (hwr : ∀ t r i f v, p (State.wr t r i f v) = p t)
    (hlog : ∀ t f, p (State.modLogAt t f) = p t) (hacq : ∀ t f, p (State.modAcq t f) = p t) : p (s.beginStart c) = p s := by
  have hw : p (s.forEach (s.campClusters c) fun t k => t.modCluster k Cluster.start) = p s :=
    State.forEach_same p (f := fun t k => t.modCluster k Cluster.start) (fun t k => hcl t k _) s _
  simp only [State.beginStart, State.acqStart, hacq, hwr, hlog, State.wrs_cons, State.wrs_nil, hcamp, hw]

end

/-! ## The whole next state of each command -/

section
variable {s : State} {c : Nat} {f : RunFields}

theorem State.start_of_loaded (hfree : (s.camp c).pend = none) (hstate : s.campState c = 2) (hsrc : f.src = false) :
    s.start c f = (s.runFields c f).beginStart c := by
  simp [State.start, State.startOk, hfree, hstate, hsrc]

theorem State.start_of_selected (hfree : (s.camp c).pend = none) (hstate : s.campState c = 2 ∨ s.campState c = 4 ∨ s.campState c = 5)
    (hsrc : f.src = true) (hsel : s.rd .DC_SNAP_SEL c .VALID = 1) :
    s.start c f = if s.snapState c = 2 then ((s.runFields c f).await c .start).wrs .RUN_CAMP_STATUS c [(.HALT_CAUSE, 0), (.HALT_MIDCYCLE, 0)]
      else (if s.snapState c = 1 then (s.runFields c f).abandon c 7 else s.runFields c f).beginStart c := by
  have hok : s.startOk c f.src = true := by
    rcases hstate with h | h | h <;> simp [State.startOk, hfree, h, hsrc, hsel]
  rw [State.start, if_pos hok, if_pos hsrc]

theorem State.pause_of_running (hfree : (s.camp c).pend = none) (hstate : s.campState c = 3) :
    s.pause c f = (s.runFields c f).await c .pause := by
  simp [State.pause, hfree, hstate]

theorem State.resume_of_paused (hfree : (s.camp c).pend = none) (hstate : s.campState c = 4) :
    s.resume c f = (s.runFields c f).wr .RUN_CAMP_STATUS c .STATE 3 := by
  simp [State.resume, hfree, hstate]

theorem State.stepCycles_of_paused (hfree : (s.camp c).pend = none) (hstate : s.campState c = 4) (hn : f.steps % 2 ^ 24 ≠ 0) :
    s.stepCycles c f = ((s.runFields c f).wr .RUN_CAMP_STATUS c .STATE 3).modCamp c fun x => { x with stepLeft := some (f.steps % 2 ^ 24) } := by
  rw [State.stepCycles, if_neg fun h => h.elim hn (by simp [hfree]), if_pos hstate]

theorem State.stepCycles_of_running (hfree : (s.camp c).pend = none) (hstate : s.campState c = 3) (hn : f.steps % 2 ^ 24 ≠ 0) :
    s.stepCycles c f = (s.runFields c f).await c (.step (f.steps % 2 ^ 24)) := by
  rw [State.stepCycles, if_neg fun h => h.elim hn (by simp [hfree]), if_neg (by simp [hstate]), if_pos hstate]

/-- A HALT takes effect at once in PAUSED, while the camp ramps, and while it stands frozen; mid-cycle only in the last case (R54, R56). -/
theorem State.halt_of_paused (hfree : (s.camp c).pend = none) (hstate : s.campState c = 4) : s.halt c f = (s.runFields c f).haltNow c 1 false := by
  simp [State.halt, hfree, hstate]

theorem State.halt_of_ramping (hfree : (s.camp c).pend = none) (hstate : s.campState c = 3) (hramp : s.rd .RUN_CAMP_STATUS c .RAMPING = 1) :
    s.halt c f = (s.runFields c f).haltNow c 1 false := by
  simp [State.halt, hfree, hstate, hramp]

theorem State.halt_of_frozen (hfree : (s.camp c).pend = none) (hstate : s.campState c = 3) (hramp : s.rd .RUN_CAMP_STATUS c .RAMPING = 0)
    (hfrozen : s.campFrozen c = true) : s.halt c f = (s.runFields c f).haltNow c 1 true := by
  simp [State.halt, hfree, hstate, hramp, hfrozen]

theorem State.halt_of_running (hpend : (s.camp c).pend ≠ some .unload) (hstate : s.campState c = 3) (hramp : s.rd .RUN_CAMP_STATUS c .RAMPING = 0)
    (hfrozen : s.campFrozen c = false) : s.halt c f = (s.runFields c f).await c .halt := by
  simp [State.halt, hpend, hstate, hramp, hfrozen]

theorem State.unload_of_free (hfree : (s.camp c).pend = none) (hstate : s.campState c = 2 ∨ s.campState c = 4 ∨ s.campState c = 5) :
    s.unload c f = (((if s.snapState c = 1 ∨ s.snapState c = 2 then (s.runFields c f).abandon c 5 else s.runFields c f).wrs
      .RUN_CAMP_STATUS c [(.HALT_CAUSE, 0), (.HALT_MIDCYCLE, 0)]).modCamp c fun x => { x with pend := some .unload }).forEach
        (s.campPitches c) State.clearPitch := by
  simp only [State.unload, hfree, hstate, Option.isNone_none, and_self, if_true]

end

/-- Settles O10: each clause is one branch of the command's own meaning. -/
theorem runCommandsTakeEffect : Obligations.RunCommandsTakeEffect := by
  unfold Obligations.RunCommandsTakeEffect
  intro s₀ c f hreach s s1 pended free snap
  rw [exec_start_reached hreach, exec_pause_reached hreach, exec_resume_reached hreach, exec_step_reached hreach,
    exec_halt_reached hreach, exec_unload_reached hreach]
  refine ⟨fun hfree hstate hsrc => ?_, fun hfree hstate hsrc hsel => ?_,
    fun hfree hstate => congrArg _ (State.pause_of_running hfree hstate),
    fun hfree hstate => congrArg _ (State.resume_of_paused hfree hstate),
    fun hfree hstate hn => congrArg _ (State.stepCycles_of_paused hfree hstate hn),
    fun hfree hstate hn => congrArg _ (State.stepCycles_of_running hfree hstate hn),
    fun hfree hstate => congrArg _ (State.halt_of_paused hfree hstate),
    fun hfree hstate hramp => congrArg _ (State.halt_of_ramping hfree hstate hramp),
    fun hfree hstate hramp hfrozen => congrArg _ (State.halt_of_frozen hfree hstate hramp hfrozen),
    fun hpend hstate hramp hfrozen => congrArg _ (State.halt_of_running hpend hstate hramp hfrozen), fun hfree hstate => ?_⟩
  · obtain ⟨h1, h2, h3, h4⟩ := State.beginStart_rd_status s1 c
    have hsame {β : Type} (p : State → β) := State.beginStart_same s1 c p
    refine ⟨_, congrArg _ (State.start_of_loaded hfree hstate hsrc), h1, h2, h3, h4, ?_, ?_, ?_, ?_, ?_, fun d hd => ?_⟩
    · refine (State.beginStart_rd_ctrl s1 c c _).trans ?_
      simp [s1, State.rd_wr, bit_mod_two, show (fieldSpec .RUN_CAMP_CTRL .HALT_ON_FAULT).width = 1 from rfl]
    · exact (hsame State.deep (fun _ _ _ => rfl) (fun _ _ _ => rfl) (fun _ _ _ _ _ => rfl) (fun _ _ => rfl) fun _ _ => rfl).trans (State.wrs_deep ..)
    · exact (hsame State.chans (fun _ _ _ => rfl) (fun _ _ _ => rfl) (fun _ _ _ _ _ => rfl) (fun _ _ => rfl) fun _ _ => rfl).trans (State.wrs_chans ..)
    · exact (hsame State.cores (fun _ _ _ => rfl) (fun _ _ _ => rfl) (fun _ _ _ _ _ => rfl) (fun _ _ => rfl) fun _ _ => rfl).trans (State.wrs_cores ..)
    · exact (hsame State.out (fun _ _ _ => rfl) (fun _ _ _ => rfl) (fun _ _ _ _ _ => rfl) (fun _ _ => rfl) fun _ _ => rfl).trans (State.wrs_out ..)
    · calc (s1.beginStart c).camp d
        _ = _ := State.camp_congr (State.beginStart_camps s1 c) d
        _ = s1.camp d := State.camp_modCamp_ne _ _ hd
        _ = s.camp d := State.camp_congr (State.wrs_camps ..) d
  · have hstart := State.start_of_selected hfree hstate hsrc hsel
    refine ⟨fun hsnap => congrArg _ (hstart.trans (if_pos hsnap)), fun hsnap => ⟨congrArg _ (hstart.trans (if_neg hsnap)), fun u hu => ?_⟩⟩
    obtain ⟨h1, h2, -, -⟩ := State.beginStart_rd_status u c
    refine ⟨h1, h2, ?_⟩
    rw [State.camp_congr (State.beginStart_camps u c), State.camp_modCamp_self, hu]
    rfl
  · exact congrArg _ (State.unload_of_free hfree hstate)

end Sys2Proof.Machine
end

section
/-! The start sequence and the end of an UNLOAD (O12): each row's whole next state where it acts. -/

namespace Sys2Proof.Machine

/-! ## What a release leaves of a camp -/

/-- A table of registers without some fields reads those as it reads a field that was never set. -/
theorem State.rd_of_regs_filter {s : State} {l : List (RegKey × Nat)} {q : RegKey → Bool} (h : s.regs = l.filter fun e => !q e.1)
    {r : RegName} {i : Nat} {f : FName} (hq : q ⟨r, i, f⟩ = true) : s.rd r i f = resetOf s.part r i f := by
  rw [State.rd, h, tget_filter _ _ (fun k => !q k), hq]
  rfl

section
variable (s : State) (c : Nat)

/-- The register fields that belong to a camp's place go back to their reset values when it is released. -/
theorem State.releaseCamp_rd {r : RegName} {f : FName} (hf : releasedField c ⟨r, c, f⟩ = true) (hr : RegName.RUN_XING_USED ≠ r)
    (hz : ∀ p, resetOf p r c f = 0) : (s.releaseCamp c).rd r c f = 0 := by
  refine (State.rd_wr_reg _ _ _ _ _ _ hr).trans ?_
  exact (State.rd_of_regs_filter (q := releasedField c) rfl hf).trans (hz _)

theorem State.releaseCamp_camp_self : (s.releaseCamp c).camp c = { Camp.reset with logPos := (s.camp c).logPos } :=
  tget_tset_self _ _ _ _

theorem State.releaseCamp_unloaded : (s.releaseCamp c).campState c = 0 ∧ (s.releaseCamp c).rd .RUN_CAMP_STATUS c .KEY_ID = 0 ∧
    (s.releaseCamp c).rd .RUN_CAMP_PITCH_LO c .PITCHES = 0 :=
  ⟨s.releaseCamp_rd c (by simp [releasedField, campRegs]) (by decide) fun _ => rfl,
    s.releaseCamp_rd c (by simp [releasedField, campRegs]) (by decide) fun _ => rfl,
    s.releaseCamp_rd c (by simp [releasedField, campRegs]) (by decide) fun _ => rfl⟩

end

/-! ## The rows of the start sequence -/

section
variable {s : State} {c n : Nat}

theorem exec_rampStart_of_ready (hstate : s.campState c = 3) (hramp : s.rd .RUN_CAMP_STATUS c .RAMPING = 1) (hrest : (s.camp c).restoring = false)
    (hnone : (s.camp c).ramp = none) (hgap : max 10 (min 1000 (s.rd .PW_STAGGER 0 .US)) ≤ n) :
    exec (.rampStart c n) s = .next (s.modCamp c fun y => { y with ramp := some 0 }) :=
  if_pos ⟨hstate, hramp, hrest, hnone, hgap⟩

theorem exec_rampStep_of_ramp (hramp : (s.camp c).ramp = some n) :
    exec (.rampStep c) s = .next (s.modCamp c fun y => { y with ramp := some (min 64 (n + 1)) }) := by
  refine congrArg Host.Outcome.next (State.modCamp_congr _ _ _ _ ?_)
  rw [hramp]
  rfl

theorem exec_heldStartRelease_of_held (hpend : (s.camp c).pend = some .start) (hsnap : s.rd .DC_SNAP_STATUS c .STATE = 3) :
    exec (.heldStartRelease c) s = .next (s.beginStart c) := by
  have hfree : (s.camp c).pend = some .start ∧ s.snapState c ≠ 1 ∧ s.snapState c ≠ 2 := by
    simp [State.snapState, hpend, hsnap]
  exact congrArg Host.Outcome.next (if_pos hfree)

/-- A START leaves no command pending. -/
theorem State.beginStart_rd_cmdPending (s : State) (c : Nat) : (s.beginStart c).rd .RUN_CAMP_STATUS c .CMD_PENDING = 0 := by
  simp [State.beginStart, State.acqStart, State.rd_wr]

theorem State.restores_of (hstate : s.campState c = 3 ∨ s.campState c = 5) (hrest : (s.camp c).restoring = true) : s.restores c = true := by
  rcases hstate with h | h <;> simp [State.restores, h, hrest]

/-- A restore whose accesses meet no bus error ends, and with it a replay whose log holds no inputs (R261, R262). -/
theorem exec_restoreDone_of_none (hr : s.restores c = true) (hok : (s.restore c).1 = none) :
    let r := (s.restore c).2.modCamp c fun x => { x with restoring := false }
    exec (.restoreDone c) s = .next (match if r.replays c && r.campState c == 3 then r.logEnds c (r.camp c).cycle.toNat else none with
      | some e => ((r.endReplay c e).wr .RUN_CAMP_STATUS c .RAMPING 0).pauseNow c
      | none => r) := by
  intro r
  show execRestoreDone c s = _
  rw [execRestoreDone, if_pos hr]
  simp only [hok, Option.isSome_none, Bool.false_eq_true, if_false]
  by_cases hrep : (r.replays c && r.campState c == 3) = true
  · rw [if_pos hrep, if_pos hrep]
    cases r.logEnds c (r.camp c).cycle.toNat <;> rfl
  · rw [if_neg hrep, if_neg hrep]

theorem exec_restoreDone_of_some (hr : s.restores c = true) {e : Nat} (hbad : (s.restore c).1 = some e) :
    exec (.restoreDone c) s = .next ((s.restore c).2.restoreFails c false) := by
  show execRestoreDone c s = _
  rw [execRestoreDone, if_pos hr]
  simp only [hbad, Option.isSome_some, if_true]

theorem exec_restoreBusError_of_restores (hr : s.restores c = true) (alarm : Bool) :
    exec (.restoreBusError c n alarm) s = .next ((s.restorePart c n).restoreFails c alarm) :=
  congrArg Host.Outcome.next (if_pos hr)

/-- UNLOAD_DONE of a camp whose writes have arrived ends in the camp's release. -/
theorem exec_unloadDone_of_cleared (hpend : (s.camp c).pend = some .unload) (hissues : (s.camp c).issues = []) :
    ∃ u : State, exec (.unloadDone c) s = .next (u.releaseCamp c) :=
  ⟨_, if_pos ⟨hpend, hissues⟩⟩

end

/-- Settles O12: each row of the start sequence is the branch of its command that acts, and an UNLOAD ends in the camp's release. -/
theorem startSequenceAndUnload : Obligations.StartSequenceAndUnload := by
  unfold Obligations.StartSequenceAndUnload
  intro s c n
  refine ⟨exec_rampStart_of_ready, exec_rampStep_of_ramp, fun hstate hramp => if_pos ⟨hstate, hramp⟩, fun hpend hsnap => ?_,
    fun hstate hrest => ?_, fun hpend hissues => ?_⟩
  · obtain ⟨hrun, hramping, -, -⟩ := s.beginStart_rd_status c
    exact ⟨_, exec_heldStartRelease_of_held hpend hsnap, hrun, hramping, s.beginStart_rd_cmdPending c⟩
  · have hr := State.restores_of hstate hrest
    exact ⟨exec_restoreDone_of_none hr, fun e hbad => exec_restoreDone_of_some hr hbad, exec_restoreBusError_of_restores hr⟩
  · obtain ⟨u, hu⟩ := exec_unloadDone_of_cleared hpend hissues
    exact ⟨_, _, hu, u.releaseCamp_camp_self c, u.releaseCamp_unloaded c⟩

end Sys2Proof.Machine
end

section
/-! Schedule steps and drains (O13): a die group's step row by row. -/

namespace Sys2Proof.Machine

/-- A die group of a RUNNING camp that does not ramp. -/
def State.Stands (s : State) (c d : Nat) : Prop := s.campState c = 3 ∧ s.rd .RUN_CAMP_STATUS c .RAMPING = 0 ∧ d ∈ s.campDies c

/-- What a group that is not frozen does at the position where the state `w` has it. -/
def State.stepOn (w : State) (c d : Nat) (obs : StepObs) : State :=
  match (w.group c d).pos with
  | .bnd _ => w
  | .step n =>
    if (w.group c d).applied = true ∧ w.frozen c d = false then
      match w.lates c d n with
      | [] => w.doStep c d n obs
      | l => w.forEach l fun t e => t.raiseLate c n e
    else w

section
variable {s : State} {c d n : Nat} {obs : StepObs}

theorem State.stepOn_of_bnd (h : (s.group c d).pos = .bnd n) : s.stepOn c d obs = s := by
  simp only [State.stepOn, h]

theorem State.stepOn_of_frozen (h : s.frozen c d = true) : s.stepOn c d obs = s := by
  unfold State.stepOn
  split
  · rfl
  · rw [if_neg fun hc => Bool.false_ne_true (hc.2.symm.trans h)]

theorem State.stepOn_of_prompt (hpos : (s.group c d).pos = .step n) (happ : (s.group c d).applied = true) (hfree : s.frozen c d = false)
    (hl : s.lates c d n = []) : s.stepOn c d obs = s.doStep c d n obs := by
  simp only [State.stepOn, hpos, happ, hfree, hl, and_self, if_true]

theorem State.stepOn_of_late (hpos : (s.group c d).pos = .step n) (happ : (s.group c d).applied = true) (hfree : s.frozen c d = false)
    (hl : s.lates c d n ≠ []) : s.stepOn c d obs = s.forEach (s.lates c d n) fun t e => t.raiseLate c n e := by
  obtain ⟨e, l, he⟩ := List.exists_cons_of_ne_nil hl
  simp only [State.stepOn, hpos, happ, hfree, he, and_self, if_true]

theorem State.Stands.eq_true (h : s.Stands c d) :
    s.campState c = 3 ∧ s.rd .RUN_CAMP_STATUS c .RAMPING = 0 ∧ (s.campDies c).contains d = true :=
  ⟨h.1, h.2.1, List.contains_iff_mem.mpr h.2.2⟩

theorem exec_scheduleStep_of_not_stands (h : ¬ s.Stands c d) : exec (.scheduleStep c d obs) s = .next s :=
  congrArg Host.Outcome.next (if_neg fun ⟨h1, h2, h3⟩ => h ⟨h1, h2, List.contains_iff_mem.mp h3⟩)

/-- A group that stands before step 0 begins its cycle first. -/
theorem exec_scheduleStep_of_beginning (h : s.Stands c d) (hfree : s.frozen c d = false) (hpos : (s.group c d).pos = .step n)
    (happ : (s.group c d).applied = false) : exec (.scheduleStep c d obs) s = .next (((s.beginCycle c d).takeEarly c).stepOn c d obs) := by
  show Host.Outcome.next (s.scheduleStep c d obs) = _
  rw [State.scheduleStep, if_pos h.eq_true, hfree, if_neg Bool.false_ne_true]
  simp only [hpos, happ, Bool.false_eq_true, if_false]
  rfl

theorem exec_scheduleStep_of_applied (h : s.Stands c d) (hfree : s.frozen c d = false) (hpos : (s.group c d).pos = .step n)
    (happ : (s.group c d).applied = true) : exec (.scheduleStep c d obs) s = .next (s.stepOn c d obs) := by
  show Host.Outcome.next (s.scheduleStep c d obs) = _
  rw [State.scheduleStep, if_pos h.eq_true, hfree, if_neg Bool.false_ne_true, State.stepOn]
  simp only [hpos, happ, hfree, if_true, and_self] <;> rfl

/-- A frozen group raises only what is late at the step where it stands. -/
theorem exec_scheduleStep_of_frozen (h : s.Stands c d) (hfrozen : s.frozen c d = true) (hpos : (s.group c d).pos = .step n)
    (happ : (s.group c d).applied = true) :
    exec (.scheduleStep c d obs) s = .next (s.forEach (s.lates c d n) fun t e => t.raiseLate c n e) := by
  show Host.Outcome.next (s.scheduleStep c d obs) = _
  rw [State.scheduleStep, if_pos h.eq_true, hfrozen, if_pos rfl, State.lateFrozen]
  simp only [hpos, happ, if_true]

/-! ## Beginning a cycle -/

/-- The queued vector is applied where the fault decision is at hand. -/
theorem State.beginCycle_of_queued {v : BitVec 16}
    (hq : (s.group c d).queue.find? (fun e => e.1 == (s.camp c).cycle.toNat) = some ((s.camp c).cycle.toNat, v)) (hdec : s.decisionHeld c = true) :
    s.beginCycle c d = (s.modGroup c d fun g =>
        { g with
          applied := true, prev := g.cur, cur := v, pos := posAfter (nextStep (s.camp c).segs v (s.schedLen c) 0),
          queue := g.queue.filter fun e => (s.camp c).cycle.toNat < e.1 }).wrs .DC_VECTOR c [(.CUR, v.toNat), (.PREV, (s.group c d).cur.toNat)] := by
  simp only [State.beginCycle, hq, hdec, if_true]

theorem State.beginCycle_of_none (hq : (s.group c d).queue.find? (fun e => e.1 == (s.camp c).cycle.toNat) = none) :
    s.beginCycle c d = s.raiseStall c 0xA (s.groupIsland c d) (s.posNow c 0) := by
  simp only [State.beginCycle, hq]

/-- With no DATA flit kept for the cycle none is taken. -/
theorem State.takeEarly_of_nil (h : (s.camp c).early = []) : s.takeEarly c = s ∨ s.takeEarly c = s.modCamp c fun x => { x with early := [] } := by
  unfold State.takeEarly
  split
  · exact .inl rfl
  · right
    simp only [h, List.filter_nil, State.forEach_nil]

theorem State.takeEarly_frame (h : (s.camp c).early = []) (d : Nat) :
    (s.takeEarly c).group c d = s.group c d ∧ (s.takeEarly c).clusters = s.clusters ∧ ∀ r i f, (s.takeEarly c).rd r i f = s.rd r i f := by
  rcases State.takeEarly_of_nil h with he | he <;> rw [he]
  · exact ⟨rfl, rfl, fun _ _ _ => rfl⟩
  · exact ⟨by simp [State.group], rfl, fun _ _ _ => rfl⟩

theorem State.group_modGroup_self (s : State) (c d : Nat) (f : Group → Group) : (s.modGroup c d f).group c d = f (s.group c d) := by
  simp [State.group, State.modGroup, tmod]

/-- A group that has taken its vector, with the camp's registers showing it. -/
theorem State.vector_applied (s : State) (c d : Nat) (f : Group → Group) (v p : BitVec 16) :
    let u := (s.modGroup c d f).wrs .DC_VECTOR c [(.CUR, v.toNat), (.PREV, p.toNat)]
    u.group c d = f (s.group c d) ∧ u.rd .DC_VECTOR c .CUR = v.toNat ∧ u.rd .DC_VECTOR c .PREV = p.toNat ∧ u.clusters = s.clusters ∧
      (u.camp c).early = (s.camp c).early := by
  have hw : (fieldSpec .DC_VECTOR .CUR).width = 16 ∧ (fieldSpec .DC_VECTOR .PREV).width = 16 := ⟨rfl, rfl⟩
  refine ⟨s.group_modGroup_self c d f, ?_, ?_, rfl, by simp [State.modGroup, State.camp_congr (State.wr_camps _ _ _ _ _)]⟩ <;>
    simp [State.rd_wr, hw, Nat.mod_eq_of_lt v.isLt, Nat.mod_eq_of_lt p.isLt]

/-! ## What is late -/

/-- The first STALL of a camp is raised for a late crossing as it is. -/
theorem State.raiseLate_of_crossing (hnone : (s.camp c).stalls = []) (k i : Nat) :
    s.raiseLate c n ⟨k, i, none⟩ = s.raiseStall c k i (s.posNow c n) := by
  simp [State.raiseLate, hnone]

/-- For a late deep read it is raised once the read is counted. -/
theorem State.raiseLate_of_read (hnone : (s.camp c).stalls = []) (k i : Nat) (r : DeepRead) :
    ∃ t : State, s.raiseLate c n ⟨k, i, some r⟩ = t.raiseStall c k i (s.posNow c n) ∧
      t.rd .DM_LATE (s.chanOf r.addr) .COUNT = min (s.rd .DM_LATE (s.chanOf r.addr) .COUNT + 1) (2 ^ 32 - 1) ∧ t.deep = s.deep ∧ t.clusters = s.clusters := by
  refine ⟨(s.bump .DM_LATE (s.chanOf r.addr) .COUNT 1).modCamp c fun x => { x with reads := x.reads.map fun q =>
    if q = r then { q with stall := some ⟨s.nextId, k, i, s.posNow c n, s.ownAddr⟩ } else q }, ?_, ?_, rfl, rfl⟩
  · simp [State.raiseLate, hnone]
  · show (s.bump .DM_LATE (s.chanOf r.addr) .COUNT 1).rd .DM_LATE (s.chanOf r.addr) .COUNT = _
    rw [State.bump, State.rd_wr_self, show (fieldSpec .DM_LATE .COUNT).width = 32 from rfl, satAdd]
    exact Nat.mod_eq_of_lt (by omega)

/-! ## Drains -/

theorem exec_drainStart_of_next {site : ClusterSite} (hmove : s.drainsMove (72 * site.die + site.slot) = true)
    (hfew : (s.cluster (72 * site.die + site.slot)).activeDrains < 4) {a b : Nat}
    (hnext : (s.cluster (72 * site.die + site.slot)).nextDrain = some (a, b)) :
    exec (.drainStart site) s = .next (s.modCluster (72 * site.die + site.slot) fun cl => cl.modBp b fun z => { z with drain := .active 0 }) := by
  refine congrArg Host.Outcome.next ((if_pos hmove).trans (State.modCluster_congr _ _ _ _ ?_))
  simp only [Cluster.startDrain, if_pos hfew, hnext]

theorem exec_drainStart_of_frozen {site : ClusterSite} (hmove : s.drainsMove (72 * site.die + site.slot) = false) :
    exec (.drainStart site) s = .next s :=
  congrArg Host.Outcome.next (if_neg (by rw [hmove]; exact Bool.false_ne_true))

theorem exec_drainEnd_of_over {bp : BpSite} (hdrain : ((s.cluster (72 * bp.die + bp.slot)).bp bp.bp).drain = .active n)
    (hmove : s.drainsMove (72 * bp.die + bp.slot) = true)
    (hover : 64 ≤ n ∨ ∃ c, s.pitchCamp (pitchOf (72 * bp.die + bp.slot)) = some c ∧ (s.campState c = 4 ∨ s.campState c = 5)) :
    exec (.drainEnd bp) s = .next (s.modCluster (72 * bp.die + bp.slot) fun x => x.modBp bp.bp fun b => { b with drain := .idle }) := by
  show execDrainEnd bp s = _
  simp only [execDrainEnd, hdrain]
  refine if_pos ⟨hmove, hover.imp id ?_⟩
  rintro ⟨c, hc, h⟩
  simpa [hc] using h

end

/-- Settles O13: each row is one branch of the schedule step, of a late item, or of a drain. -/
theorem scheduleStepsRun : Obligations.ScheduleStepsRun := by
  unfold Obligations.ScheduleStepsRun
  intro s c d n obs v k i site bp g cyc bound stands free
  refine ⟨fun hs hf hpos happ hq hdec => ?_, fun hs hf hpos happ hq => ?_, fun hs hf hpos happ => ⟨?_, ?_, ?_, ?_⟩,
    fun hs hf hpos happ => exec_scheduleStep_of_frozen hs hf hpos happ, exec_scheduleStep_of_not_stands,
    fun hmove hfew a b hnext => exec_drainStart_of_next hmove hfew hnext, exec_drainStart_of_frozen, exec_drainEnd_of_over⟩
  · intro p u w
    have hw : exec (.scheduleStep c d obs) s = .next (w.stepOn c d obs) := by
      rw [exec_scheduleStep_of_beginning hs hf hpos happ, State.beginCycle_of_queued hq hdec]
      rfl
    refine ⟨fun hb => hw.trans (congrArg _ (State.stepOn_of_bnd hb)),
      fun m hb ha hfr hl => hw.trans (congrArg _ (State.stepOn_of_prompt hb ha hfr hl)), fun hearly => ?_⟩
    obtain ⟨hgroup, hcur, hprev, hcl, he⟩ := s.vector_applied c d
      (fun g => { g with applied := true, prev := g.cur, cur := v, pos := p, queue := g.queue.filter fun e => cyc < e.1 }) v g.cur
    obtain ⟨hgroup', hcl', hrd⟩ := State.takeEarly_frame (s := u) (he.trans hearly) d
    exact ⟨hgroup'.trans hgroup, (hrd ..).trans hcur, (hrd ..).trans hprev, hcl'.trans hcl⟩
  · intro t hfr
    rw [exec_scheduleStep_of_beginning hs hf hpos happ, State.beginCycle_of_none hq]
    exact congrArg _ (State.stepOn_of_frozen hfr)
  · intro hl
    rw [exec_scheduleStep_of_applied hs hf hpos happ, State.stepOn_of_prompt hpos happ hf hl]
  · intro hl
    rw [exec_scheduleStep_of_applied hs hf hpos happ, State.stepOn_of_late hpos happ hf hl]
  · intro hnone hl
    rw [exec_scheduleStep_of_applied hs hf hpos happ, State.stepOn_of_late hpos happ hf (by rw [hl]; exact List.cons_ne_nil _ _), hl]
    exact congrArg _ (State.raiseLate_of_crossing hnone k i)
  · intro r hnone hl
    obtain ⟨t, ht, hrest⟩ := State.raiseLate_of_read (n := n) hnone k i r
    refine ⟨t, ?_, hrest⟩
    rw [exec_scheduleStep_of_applied hs hf hpos happ, State.stepOn_of_late hpos happ hf (by rw [hl]; exact List.cons_ne_nil _ _), hl]
    exact congrArg _ ht

end Sys2Proof.Machine
end

section
/-! The cycle boundary (O14) and the guyline's messages (O18). -/

namespace Sys2Proof.Machine

/-! ## What the executed steps of the drains leave alone -/

/-- Executed boundary steps change clusters, their camp and its charge alone. -/
theorem State.advance_same {β : Type} (p : State → β) (hcl : ∀ t k f, p (State.modCluster t k f) = p t)
    (hcamp : ∀ t k f, p (State.modCamp t k f) = p t) (hwr : ∀ t r i f v, p (State.wr t r i f v) = p t) (s : State) (c n : Nat) :
    p (s.advance c n) = p s := by
  have hcharge (t : State) : p (t.chargeSteps c n) = p t := by
    simp only [State.chargeSteps]
    split
    · rfl
    · simp only [State.bump, hwr, hcamp]
  exact (hcharge _).trans (State.forEach_same p (f := fun t k => t.modCluster k fun cl => cl.advanceDrains n) (fun t k => hcl t k _) s _)

/-- Settles O14: each row is the branch of its command that the stand of the die groups picks. -/
theorem cycleBoundaryRows : Obligations.CycleBoundaryRows := by
  unfold Obligations.CycleBoundaryRows
  intro s c moved
  have stays {b : Bool} (t : State) (h : b = false) : Host.Outcome.next (φ := Fault) (ρ := Refusal) (if b then t else s) = .next s := by rw [h]; rfl
  have moves {b : Bool} (t : State) (h : b = true) : Host.Outcome.next (φ := Fault) (ρ := Refusal) (if b then t else s) = .next t := by rw [h]; rfl
  have exchange (h : s.atBnd c 3 = true) :
      exec (.recordExchange c) s = .next (if s.replays c then (s.advance c 7).replayExchange c else (s.advance c 7).liveExchange c) := if_pos h
  have held (h : s.atBnd c 3 = false) :
      exec (.recordExchange c) s = .next (if s.atBnd c 10 then (s.settle c 0).leaveB10 c else s) :=
    if_neg (Bool.eq_false_iff.mp h)
  have point (h : s.atBnd c 11 = true) :
      exec (.snapshotPoint c) s = .next ((if s.pointNow c then (s.advance c 1).takePoint c false else s.advance c 1).toBnd c 12) := if_pos h
  refine ⟨fun h => ⟨moves _ h, _, moves _ h⟩, fun h => moves _ h, fun h => moves _ h, fun h hr => ?_, fun h hr => ?_, fun h3 h10 => ?_,
    fun h hp => ?_, fun h hp => ?_, fun h => moves _ h, fun u n d hd => ?_, fun u => ⟨?_, ?_, ?_⟩, stays _, stays _, stays _,
    fun h3 h10 => ?_, fun h => ?_, stays _⟩
  · rw [exchange h, hr]; rfl
  · rw [exchange h, hr]; rfl
  · rw [held h3, h10]; rfl
  · rw [point h, hp]; rfl
  · rw [point h, hp]; rfl
  · exact State.forEach_group_mem (fun g => g.pos = .bnd n) (f := fun g => { g with pos := .bnd n }) (fun _ => rfl) u c _ d hd
  · exact State.advance_same State.deep (fun _ _ _ => rfl) (fun _ _ _ => rfl) (fun _ _ _ _ _ => rfl) u c 1
  · exact State.advance_same State.chans (fun _ _ _ => rfl) (fun _ _ _ => rfl) (fun _ _ _ _ _ => rfl) u c 1
  · exact State.advance_same State.cores (fun _ _ _ => rfl) (fun _ _ _ => rfl) (fun _ _ _ _ _ => rfl) u c 1
  · rw [held h3, h10]; rfl
  · exact if_neg (Bool.eq_false_iff.mp h)

/-! ## Guyline messages -/

section
variable {s : State} {c n : Nat} {st : Stall} {port : Option Nat} {m : BoundaryMsg} {cause module id : Nat}

theorem exec_stall_of_heard (h : s.heard c 1 st.module st.id port = true) : exec (.stall c st port) s = .next s := if_pos (.inl h)

theorem exec_release_of_heard (h : s.heard c 2 module id port = true) : exec (.release c module id port n) s = .next s := if_pos h

theorem exec_boundary_of_heard (h : s.heard c 3 m.module m.cycle port = true) : exec (.boundary c m port n) s = .next s := if_pos (.inl h)

theorem exec_guylineHalt_of_heard (h : s.heard c 0 module (s.camp c).cycle.toNat port = true) :
    exec (.guylineHalt c cause module port) s = .next s := if_pos h

theorem exec_stall_of_new (h : s.heard c 1 st.module st.id port = false) (h0 : s.campState c ≠ 0) (h1 : s.campState c ≠ 1) :
    exec (.stall c st port) s = .next (((s.hear c 1 st.module st.id).guylineOut c port (.stall st)).applyStall c st) :=
  if_neg fun hc => hc.elim (fun e => Bool.false_ne_true (h.symm.trans e)) (·.elim h0 h1)

theorem exec_release_of_new (h : s.heard c 2 module id port = false) :
    exec (.release c module id port n) s = .next (((s.hear c 2 module id).guylineOut c port (.release module id)).applyRelease c module id n) :=
  if_neg (Bool.eq_false_iff.mp h)

theorem exec_boundary_of_new (h : s.heard c 3 m.module m.cycle port = false) (hown : m.module ≠ s.ownAddr) (hspan : s.spans c = true) :
    exec (.boundary c m port n) s = .next (((s.hear c 3 m.module m.cycle).guylineOut c port (.boundary m)).applyBoundary c m n) :=
  if_neg fun hc => hc.elim (fun e => Bool.false_ne_true (h.symm.trans e))
    (·.elim hown fun e => Bool.false_ne_true (e.symm.trans hspan))

theorem exec_guylineHalt_of_new (h : s.heard c 0 module (s.camp c).cycle.toNat port = false) :
    exec (.guylineHalt c cause module port) s =
      .next (((s.hear c 0 module (s.camp c).cycle.toNat).guylineOut c port (.halt module cause)).haltHeard c cause) :=
  if_neg (Bool.eq_false_iff.mp h)

/-- A camp of this module alone passes nothing on. -/
theorem State.hear_guylineOut_of_alone (hspan : s.spans c = false) (k : Nat) (g : Guy) :
    (s.hear c k module id).guylineOut c port g = s.hear c k module id := by
  have h : (s.hear c k module id).spans c = false := by simpa [State.spans, State.hear] using hspan
  exact if_neg (Bool.eq_false_iff.mp h)

/-- Where the camp does not run, a STALL is counted and logged and nothing else. -/
theorem State.applyStall_of_not_running (h : s.campState c ≠ 3) :
    (s.applyStall c st).rd .GL_STALL_EVENTS (14 * c + (s.recorded st).cause) .COUNT =
      satAdd 32 (s.rd .GL_STALL_EVENTS (14 * c + (s.recorded st).cause) .COUNT) 1 ∧ (s.applyStall c st).camps = s.camps := by
  have he : s.applyStall c st = (s.bump .GL_STALL_EVENTS (14 * c + (s.recorded st).cause) .COUNT 1).wrs .GL_STALL_LAST c
      ([(.CAUSE, (s.recorded st).cause), (.ISLAND, (s.recorded st).island), (.MODULE, (s.recorded st).module)] ++ posFields (s.recorded st).pos) :=
    if_neg h
  rw [he]
  refine ⟨?_, State.wrs_camps ..⟩
  rw [State.wrs_rd_reg _ _ _ _ _ (by decide), State.bump, State.rd_wr_self, show (fieldSpec .GL_STALL_EVENTS .COUNT).width = 32 from rfl]
  exact Nat.mod_eq_of_lt (by rw [satAdd]; omega)

/-- The release of the one STALL held clears the cause and charges the frozen time to it. -/
theorem State.applyRelease_of_only (h : (s.camp c).stalls = [st]) :
    ((s.applyRelease c st.module st.id n).camp c).stalls = [] ∧ (s.applyRelease c st.module st.id n).rd .GL_STALL_CAUSE c .ACTIVE = 0 ∧
      (s.applyRelease c st.module st.id n).rd .GL_STALL_TIME (14 * c + st.cause) .TIME =
        satAdd 40 (s.rd .GL_STALL_TIME (14 * c + st.cause) .TIME) n := by
  have hz : activeBits [] = 0 := by decide
  have hsat (k : Nat) : satAdd 40 k n % 2 ^ 40 = satAdd 40 k n := Nat.mod_eq_of_lt (by rw [satAdd]; omega)
  have hw : (fieldSpec .GL_STALL_TIME .TIME).width = 40 := rfl
  have hb : ((s.bump .GL_STALL_TIME (14 * c + st.cause) .TIME n).camp c).stalls = [st] := h
  simp only [State.applyRelease, h]
  rw [if_pos (by simp)]
  refine ⟨?_, ?_, ?_⟩
  · rw [State.camp_congr (State.wr_camps ..), State.camp_modCamp_self]
    simp [hb]
  · rw [State.rd_wr_self, State.camp_modCamp_self]
    simp [hb, hz]
  · rw [State.rd_wr_reg _ _ _ _ _ _ (by decide)]
    show (s.bump .GL_STALL_TIME (14 * c + st.cause) .TIME n).rd _ _ _ = _
    rw [State.bump, State.rd_wr_self, hw, hsat]

end

/-- Settles O18: a message not heard yet takes the acting branch, and one heard already the other. -/
theorem guylineMessagesAct : Obligations.GuylineMessagesAct := by
  unfold Obligations.GuylineMessagesAct
  intro s c n st port m cause module id cyc
  refine ⟨exec_stall_of_new, fun h hstate hspan => ?_, exec_release_of_new, fun h hspan hst => ?_, exec_boundary_of_new,
    fun h => exec_guylineHalt_of_new h, exec_stall_of_heard, exec_release_of_heard, exec_boundary_of_heard, exec_guylineHalt_of_heard, rfl⟩
  · refine ⟨_, exec_stall_of_new h (by rw [hstate]; decide) (by rw [hstate]; decide), ?_⟩
    rw [State.hear_guylineOut_of_alone hspan]
    have hnot : (s.hear c 1 st.module st.id).campState c ≠ 3 := by
      show s.campState c ≠ 3
      rw [hstate]
      decide
    obtain ⟨hcount, hcamps⟩ := State.applyStall_of_not_running (st := st) hnot
    refine ⟨hcount, ?_, ?_⟩ <;> rw [State.camp_congr hcamps] <;> simp [State.hear]
  · refine ⟨_, exec_release_of_new h, ?_⟩
    rw [State.hear_guylineOut_of_alone hspan]
    refine State.applyRelease_of_only (s := s.hear c 2 st.module st.id) ?_
    simpa [State.hear] using hst

end Sys2Proof.Machine
end

section
/-! Design-clock and snapshot registers (O19): tag writes, arms, aborts, the end of a copy, and the selection's check. -/

namespace Sys2Proof.Machine

theorem tagValid_iff {num den acc : Nat} {en : Bool} :
    tagValid num den acc en = true ↔ (en = false ∨ (1 ≤ num ∧ num ≤ den ∧ den ≤ 65535 ∧ acc < den)) := by
  simp [tagValid, and_assoc]

/-! ## Tag writes -/

section
variable {s : State} {c : Nat}

theorem State.clockShut_iff : s.clockShut c = true ↔ (s.campState c = 0 ∨ s.campState c = 1) := by simp [State.clockShut]

theorem State.clockOpen_iff : s.clockOpen c = true ↔ (s.campState c = 2 ∨ s.campState c = 4) := by simp [State.clockOpen]

/-- What a write of a tag register does on the module's own terms: an error before the camp has tags, nothing away from home, and at home the setting or the error. -/
def State.tagWrite (s : State) (c : Nat) (valid : Bool) (set : State) : State :=
  if s.clockShut c then s.dcErr c
  else if s.isHome c = false then s
  else if s.clockOpen c = true ∧ valid = true then set.clockSet c
  else s.dcErr c

theorem State.tagWrite_cases (s : State) (c : Nat) {valid : Bool} {fits : Prop} (hfits : valid = true ↔ fits) (set : State) :
    (s.isHome c = true → (s.campState c = 2 ∨ s.campState c = 4) → fits → s.tagWrite c valid set = set.clockSet c) ∧
    (s.isHome c = true → ¬ ((s.campState c = 2 ∨ s.campState c = 4) ∧ fits) → s.tagWrite c valid set = s.dcErr c) ∧
    ((s.campState c = 0 ∨ s.campState c = 1) → s.tagWrite c valid set = s.dcErr c) ∧
    (s.isHome c = false → ¬ (s.campState c = 0 ∨ s.campState c = 1) → s.tagWrite c valid set = s) := by
  refine ⟨fun hhome hopen hf => ?_, fun hhome hnot => ?_, fun hshut => if_pos (State.clockShut_iff.mpr hshut), fun hhome hshut => ?_⟩
  · have hshut : ¬ (s.campState c = 0 ∨ s.campState c = 1) := by omega
    rw [State.tagWrite, if_neg (mt State.clockShut_iff.mp hshut), if_neg (by simp [hhome]), if_pos ⟨State.clockOpen_iff.mpr hopen, hfits.mpr hf⟩]
  · have hboth : ¬ (s.clockOpen c = true ∧ valid = true) := fun ⟨ho, hv⟩ => hnot ⟨State.clockOpen_iff.mp ho, hfits.mp hv⟩
    rw [State.tagWrite, if_neg (c := s.isHome c = false) (by simp [hhome]), if_neg hboth, ite_self]
  · rw [State.tagWrite, if_neg (mt State.clockShut_iff.mp hshut), if_pos hhome]

theorem exec_dcTagWrite_reached {k num den : Nat} {en : Bool} (h : s.reaches .DC_TAG (16 * c + k) = true) :
    exec (.dcTagWrite c k num den en) s =
      let t := s.unhold .DC_TAG (16 * c + k)
      .next (t.tagWrite c (tagValid num den (t.rd .DC_ACC (16 * c + k) .ACC) en)
        (t.wrs .DC_TAG (16 * c + k) [(.NUM, num), (.DEN, den), (.EN, bit en)])) := by
  show execDcTagWrite c k num den en s = _
  rw [execDcTagWrite, State.asWrite_reached h]
  simp only [State.tagWrite, apply_ite Host.Outcome.next]

theorem exec_dcAccWrite_reached {k acc : Nat} (h : s.reaches .DC_ACC (16 * c + k) = true) :
    exec (.dcAccWrite c k acc) s =
      let t := s.unhold .DC_ACC (16 * c + k)
      .next (t.tagWrite c (tagValid (t.rd .DC_TAG (16 * c + k) .NUM) (t.rd .DC_TAG (16 * c + k) .DEN) acc (t.rd .DC_TAG (16 * c + k) .EN == 1))
        (t.wr .DC_ACC (16 * c + k) .ACC acc)) := by
  show execDcAccWrite c k acc s = _
  rw [execDcAccWrite, State.asWrite_reached h]
  simp only [State.tagWrite, apply_ite Host.Outcome.next]

/-! ## Arm, abort, selection -/

theorem exec_snapArm_reached {next deep : Bool} (h : s.reaches .DC_SNAP_CTRL c = true) :
    exec (.snapArm c next deep false) s = .next ((s.unhold .DC_SNAP_CTRL c).snapArm c next deep) :=
  State.asWrite_reached h fun s => .next (s.snapArm c next deep)

theorem exec_snapAbort_reached {next deep : Bool} (h : s.reaches .DC_SNAP_CTRL c = true) :
    exec (.snapAbort c next deep) s =
      .next (((s.unhold .DC_SNAP_CTRL c).wrs .DC_SNAP_CTRL c [(.NEXT, bit next), (.DEEP, bit deep)]).snapAbort c) :=
  State.asWrite_reached h fun s => .next ((s.wrs .DC_SNAP_CTRL c [(.NEXT, bit next), (.DEEP, bit deep)]).snapAbort c)

theorem exec_dcSnapSelWrite_reached {page : Nat} (h : s.reaches .DC_SNAP_SEL c = true) :
    exec (.dcSnapSelWrite c page) s = .next ((s.unhold .DC_SNAP_SEL c).wrs .DC_SNAP_SEL c [(.BASE, page), (.VALID, 0), (.SEL_ERR, 0)]) :=
  State.asWrite_reached h fun s => .next (s.wrs .DC_SNAP_SEL c [(.BASE, page), (.VALID, 0), (.SEL_ERR, 0)])

theorem State.abandonErr_of_copying (h : s.rd .DC_SNAP_STATUS c .STATE = 2) (e : Nat) : ∃ f, s.abandonErr c e = (s.abandon c e).modLogAt f :=
  ⟨_, if_pos h⟩

/-- Draining the word-unit latch leaves the snapshot's state alone. -/
theorem State.drainWords_snapState (s : State) (c : Nat) : (s.drainWords c).snapState c = s.snapState c := by
  unfold State.drainWords
  split
  · exact State.forEach_same (State.snapState · c) (f := fun t k => t.modCluster k fun cl => { cl with wuLeft := 0 }) (fun _ _ => rfl) s _
  · rfl

/-- A copy that is drained, with no page left to copy, writes its parts and closes. -/
theorem exec_snapshotDone_of_drained (hsnap : s.rd .DC_SNAP_STATUS c .STATE = 2) (hpages : (s.camp c).snap.pages = []) (hissues : (s.camp c).issues = [])
    (hdrained : (s.drainWords c).snapDrained c = true)
    (hok : ((s.drainWords c).writeParts (s.rd .RUN_CAMP_STATUS c .KEY_ID) ((s.drainWords c).snapParts c)).1 = none) :
    exec (.snapshotDone c) s =
      .next ((((s.drainWords c).writeParts (s.rd .RUN_CAMP_STATUS c .KEY_ID) ((s.drainWords c).snapParts c)).2.modCamp c
        fun x => { x with snap := { x.snap with reported := s.ownAddr :: x.snap.reported } }).snapClose c) := by
  have hready : s.snapState c = 2 ∧ s.pagesReady c = true := ⟨hsnap, by simp [State.pagesReady, hissues]⟩
  have hcopy : (s.drainWords c).snapState c = 2 ∧ (s.drainWords c).snapDrained c = true := ⟨(s.drainWords_snapState c).trans hsnap, hdrained⟩
  show execSnapshotDone c s = _
  simp only [execSnapshotDone, if_pos hready, hpages, List.foldl_nil, if_pos hcopy, hok]

/-- The check of a selection: without a bus error the header's own checks decide. -/
theorem exec_snapSelCheckDone_read (s : State) (c : Nat) :
    let w := s.deepFetch 80 (s.rd .RUN_CAMP_STATUS c .KEY_ID) (4096 * s.rd .DC_SNAP_SEL c .BASE) 4096
    let e := if w.1 = none then w.2.selErr c (4096 * s.rd .DC_SNAP_SEL c .BASE) else 1
    exec (.snapSelCheckDone c false) s = .next (w.2.wrs .DC_SNAP_SEL c [(.VALID, if e = 0 then 1 else 0), (.SEL_ERR, e)]) := by
  intro w e
  have he : (if w.1.isSome then 1 else w.2.selErr c (4096 * s.rd .DC_SNAP_SEL c .BASE)) = e := by
    simp only [e]
    cases w.1 <;> rfl
  show Host.Outcome.next (State.wrs w.2 .DC_SNAP_SEL c [(.VALID, bit ((if w.1.isSome then 1 else w.2.selErr c (4096 * s.rd .DC_SNAP_SEL c .BASE)) == 0)),
    (.SEL_ERR, if w.1.isSome then 1 else w.2.selErr c (4096 * s.rd .DC_SNAP_SEL c .BASE))]) = _
  rw [he]
  simp [bit]

end

/-- Settles O19: a write of each register is the branch that its conditions pick. -/
theorem designClockAndSnapshotRegisters : Obligations.DesignClockAndSnapshotRegisters := by
  unfold Obligations.DesignClockAndSnapshotRegisters
  intro s₀ c k num den acc page en next deep rd i isOpen shut fits noted snap arm
  refine ⟨fun h => ?_, fun h => ?_, fun h => ?_, fun h => ?_, ?_, exec_dcSnapSelWrite_reached, rfl, exec_snapSelCheckDone_read s₀ c⟩
  · intro s
    have hw := exec_dcTagWrite_reached (num := num) (den := den) (en := en) h
    obtain ⟨h1, h2, h3, h4⟩ := State.tagWrite_cases s c (tagValid_iff (num := num) (den := den) (acc := s.rd .DC_ACC i .ACC) (en := en))
      (s.wrs .DC_TAG i [(.NUM, num), (.DEN, den), (.EN, bit en)])
    exact ⟨fun a b d => hw.trans (congrArg _ (h1 a b d)), fun a b => hw.trans (congrArg _ (h2 a b)), fun a => hw.trans (congrArg _ (h3 a)),
      fun a b => hw.trans (congrArg _ (h4 a b))⟩
  · intro s
    have hw := exec_dcAccWrite_reached (acc := acc) h
    obtain ⟨h1, h2, h3, h4⟩ := State.tagWrite_cases s c (tagValid_iff (num := s.rd .DC_TAG i .NUM) (den := s.rd .DC_TAG i .DEN) (acc := acc)
      (en := s.rd .DC_TAG i .EN == 1)) (s.wr .DC_ACC i .ACC acc)
    exact ⟨fun a b d => hw.trans (congrArg _ (h1 a b d)), fun a b => hw.trans (congrArg _ (h2 a b)), fun a => hw.trans (congrArg _ (h3 a)),
      fun a b => hw.trans (congrArg _ (h4 a b))⟩
  · intro s
    rw [exec_snapArm_reached h, exec_snapAbort_reached h]
    have hstate : (s.wrs .DC_SNAP_CTRL c [(.NEXT, bit next), (.DEEP, bit deep)]).snapState c = snap := State.wrs_rd_reg _ _ _ _ _ (by decide)
    exact ⟨fun ha => congrArg _ (if_pos ha), fun ha => congrArg _ (if_neg (not_not_intro ha)),
      fun hs => congrArg _ (if_neg (by rw [hstate, hs]; decide)), fun hs => congrArg _ (if_pos (by rw [hstate]; exact hs))⟩
  · obtain ⟨f, hf⟩ := State.abandonErr_of_copying h (if rd then 8 else 6)
    exact ⟨f, congrArg _ hf⟩
  · exact exec_snapshotDone_of_drained

end Sys2Proof.Machine
end

section
/-! The loader's commands on the entry module (O20). -/

namespace Sys2Proof.Machine

/-- No list grows when its repeated elements are dropped. -/
theorem length_eraseDups_le {α : Type} [BEq α] (l : List α) : l.eraseDups.length ≤ l.length := by
  induction hn : l.length using Nat.strongRecOn generalizing l with
  | _ n ih =>
    cases l with
    | nil => simp
    | cons a l =>
      have hlt : (l.filter fun b => !b == a).length < n := by
        have := List.length_filter_le (fun b => !b == a) l
        simp only [List.length_cons] at hn
        omega
      have := ih _ hlt _ rfl
      rw [List.eraseDups_cons, List.length_cons]
      omega

/-- The addresses of the entries that a LOAD names. -/
def State.placeAddrs (s : State) (grades : List Nat) (n : Nat) : List Nat := ((List.range n).map (s.placeReg grades)).map (·.addr)

/-- A LOAD that the module can take part in (R308, R309). -/
def State.LoadFits (s : State) (grades : List Nat) (n : Nat) : Prop :=
  s.loading = false ∧ s.rd .PW_STATUS 0 .READY ≠ 0 ∧ 1 ≤ n ∧ n ≤ 128 ∧ (s.placeAddrs grades n).eraseDups.length = n ∧
    (∀ a ∈ s.placeAddrs grades n, a ≤ 127) ∧ (n = 1 ∨ s.rd .FB_ID 0 .ADDR_VALID = 1)

/-- The checks that LOAD makes, on the module count in its field. -/
def State.loadRefuses (s : State) (src n : Nat) (grades : List Nat) : Bool :=
  s.loading || s.rd .PW_STATUS 0 .READY == 0 || n == 0 || decide (128 < n) || decide ((s.placeAddrs grades n).eraseDups.length < n)
    || (s.placeAddrs grades n).any (fun a => decide (127 < a)) || src % 4 == 3 || (decide (1 < n) && !(s.rd .FB_ID 0 .ADDR_VALID == 1))

/-- A LOAD accepted: the module joins, and sends the entries on, or fails the load where its source is the test port. -/
def State.loadTaken (s : State) (src n : Nat) (grades : List Nat) : State :=
  let ps := (List.range n).map (s.placeReg grades)
  let m := if s.rd .FB_ID 0 .ADDR_VALID == 1 then ps.findIdx? fun p => p.addr == s.ownAddr else some 0
  let s1 := (s.wrs .LD_CTRL 0 [(.SRC, src), (.MODULES, n)]).joinLoad true s.ownAddr (src % 4) ps m
  if src % 4 = 2 then s1.loadFailHere 13 else s1.forEach s1.load.others fun t e => t.originate e.2.addr 0 (.places ps)

section
variable {s : State} {src n len : Nat} {grades : List Nat}

theorem State.loadRefuses_eq_false_iff : s.loadRefuses src n grades = false ↔ s.LoadFits grades n ∧ src % 4 ≠ 3 := by
  have hle : (s.placeAddrs grades n).eraseDups.length ≤ n := Nat.le_trans (length_eraseDups_le _) (by simp [State.placeAddrs])
  simp only [State.loadRefuses, State.LoadFits, Bool.or_eq_false_iff, beq_eq_false_iff_ne, decide_eq_false_iff_not, Bool.and_eq_false_iff,
    List.any_eq_false, decide_eq_true_eq, Bool.not_eq_false', beq_iff_eq]
  constructor
  · rintro ⟨⟨⟨⟨⟨⟨⟨h1, h2⟩, h3⟩, h4⟩, h5⟩, h6⟩, h7⟩, h8⟩
    exact ⟨⟨h1, h2, by omega, by omega, by omega, fun a ha => Nat.not_lt.mp (h6 a ha), h8.imp (by omega) id⟩, h7⟩
  · rintro ⟨⟨h1, h2, h3, h4, h5, h6, h8⟩, h7⟩
    exact ⟨⟨⟨⟨⟨⟨⟨h1, h2⟩, by omega⟩, by omega⟩, by omega⟩, fun a ha => Nat.not_lt.mpr (h6 a ha)⟩, h7⟩, h8.imp (by omega) id⟩

theorem exec_load_reached (h : s.reaches .LD_CTRL 0 = true) (hn : n < 256) :
    exec (.load src n grades) s = .next (if (s.unhold .LD_CTRL 0).loadRefuses src n grades then (s.unhold .LD_CTRL 0).loadErr
      else (s.unhold .LD_CTRL 0).loadTaken src n grades) := by
  show execLoad src n grades s = _
  rw [execLoad, State.asWrite_reached h, apply_ite Host.Outcome.next]
  simp only [Nat.mod_eq_of_lt hn]
  rfl

theorem exec_load_of_fits (h : s.reaches .LD_CTRL 0 = true) (hf : (s.unhold .LD_CTRL 0).LoadFits grades n) (hsrc : src % 4 ≠ 3) :
    exec (.load src n grades) s = .next ((s.unhold .LD_CTRL 0).loadTaken src n grades) := by
  obtain ⟨-, -, -, hn, -⟩ := id hf
  rw [exec_load_reached h (by omega), State.loadRefuses_eq_false_iff.mpr ⟨hf, hsrc⟩]
  rfl

theorem exec_load_refused (h : s.reaches .LD_CTRL 0 = true) (hn : n < 256) (hf : ¬ ((s.unhold .LD_CTRL 0).LoadFits grades n ∧ src % 4 ≠ 3)) :
    exec (.load src n grades) s = .next (s.unhold .LD_CTRL 0).loadErr := by
  rw [exec_load_reached h hn, eq_true_of_ne_false (mt State.loadRefuses_eq_false_iff.mp hf)]
  rfl

theorem exec_ldAbort_reached (h : s.reaches .LD_CTRL 0 = true) :
    exec .ldAbort s = .next (if (s.unhold .LD_CTRL 0).loading then (s.unhold .LD_CTRL 0).loadFailHere 15 else (s.unhold .LD_CTRL 0).loadErr) :=
  State.asWrite_reached h fun s => .next (if s.loading then s.loadFailHere 15 else s.loadErr)

/-! ## Segments pushed and taken -/

theorem exec_ldDmaPush_of_room (h : s.reaches .LD_DMA_PUSH 0 = true) (hload : s.loading = true) (hentry : s.load.entry = true) (hsrc : s.load.src = 0)
    (hroom : s.load.queue.length < 8) (hlive : s.load.failing = none) (hlen : len < 2 ^ 21) :
    let t := s.unhold .LD_DMA_PUSH 0
    let a := t.rd .LD_DMA_ADDR_LO 0 .ADDR + 2 ^ 40 * t.rd .LD_DMA_ADDR_HI 0 .ADDR
    exec (.ldDmaPush len) s =
      .next (((t.modLoad fun x => { x with queue := x.queue ++ [(a, len)] }).wr .LD_DMA_PUSH 0 .DEPTH (t.load.queue.length + 1)).emit (.hostRead a len)) := by
  intro t a
  have hok : ¬ (t.loading = false ∨ t.load.entry = false ∨ t.load.src ≠ 0 ∨ 8 ≤ t.load.queue.length) := by
    rintro (h1 | h1 | h1 | h1)
    · exact Bool.false_ne_true (h1.symm.trans hload)
    · exact Bool.false_ne_true (h1.symm.trans hentry)
    · exact h1 hsrc
    · exact absurd hroom (Nat.not_lt.mpr h1)
  have hf : ¬ t.load.failing.isSome = true := by
    rw [show t.load.failing = none from hlive]
    exact Bool.false_ne_true
  show execLdDmaPush len s = _
  rw [execLdDmaPush, State.asWrite_reached h]
  refine (if_neg hok).trans ((if_neg hf).trans ?_)
  rw [Nat.mod_eq_of_lt hlen]

theorem exec_ldDmaPush_refused (h : s.reaches .LD_DMA_PUSH 0 = true)
    (hbad : s.loading = false ∨ s.load.entry = false ∨ s.load.src ≠ 0 ∨ 8 ≤ s.load.queue.length) :
    exec (.ldDmaPush len) s = .next ((s.unhold .LD_DMA_PUSH 0).wr .LD_STATUS 0 .CMD_ERR 1) := by
  show execLdDmaPush len s = _
  rw [execLdDmaPush, State.asWrite_reached h]
  exact if_pos hbad

/-- The entry module passes a segment on to the other listed modules (R309). -/
def State.passOn (s t : State) (b : List Byte) : State := if s.load.entry = true ∧ s.load.others ≠ [] then t.originate 255 0 (.bytes b) else t

theorem State.passOn_eq (s t : State) (b : List Byte) :
    (if s.load.entry && !s.load.others.isEmpty then t.originate 255 0 (.bytes b) else t) = s.passOn t b := by
  simp [State.passOn]

theorem exec_loadSegment_queued {a : Nat} {bytes : List Byte} {rest : List (Nat × Nat)} (hready : s.segmentReady = true)
    (hentry : s.load.entry = true) (hsrc : s.load.src = 0) (hq : s.load.queue = (a, len) :: rest) :
    exec (.loadSegment bytes) s =
      .next ((s.passOn ((s.modLoad fun x => { x with queue := rest }).wr .LD_DMA_PUSH 0 .DEPTH rest.length) (bytes.take len)).takeSegment
        (bytes.take len)) := by
  have hdma : (s.load.entry && s.load.src == 0) = true := by simp [hentry, hsrc]
  show execLoadSegment bytes s = _
  rw [execLoadSegment, if_pos hready]
  simp only [hdma, if_true, hq, State.passOn_eq]

theorem exec_loadSegment_streamed {b bytes : List Byte} (hready : s.segmentReady = true) (hsrc : s.load.entry = false ∨ s.load.src ≠ 0)
    (hs : s.load.streamSegment = some b) :
    exec (.loadSegment bytes) s = .next ((s.passOn (s.modLoad fun x => { x with stream := x.stream.drop b.length }) b).takeSegment b) := by
  have hdma : (s.load.entry && s.load.src == 0) = false := by
    rcases hsrc with h | h <;> simp [h]
  show execLoadSegment bytes s = _
  rw [execLoadSegment, if_pos hready]
  simp only [hdma, Bool.false_eq_true, if_false, hs, State.passOn_eq]

theorem exec_loadSegment_of_not_ready {bytes : List Byte} (h : s.segmentReady = false) : exec (.loadSegment bytes) s = .next s :=
  if_neg (Bool.eq_false_iff.mp h)

end

/-- Settles O20: a LOAD is taken where it fits the module and its source is one of three, and each other command where its conditions stand. -/
theorem loadCommandsOfTheEntryModule : Obligations.LoadCommandsOfTheEntryModule := by
  unfold Obligations.LoadCommandsOfTheEntryModule
  intro s₀ src n len a grades bytes rest
  refine ⟨fun h => ?_, fun h => ?_, ?_⟩
  · intro s ps addrs good own joined err
    have hown : (if s.rd .FB_ID 0 .ADDR_VALID == 1 then ps.findIdx? fun p => p.addr == s.ownAddr else some 0) = own := by
      simp only [own, beq_iff_eq]
    have htaken (hsrc : src < 3) : s.loadTaken src n grades =
        if src = 2 then joined.loadFailHere 13 else joined.forEach joined.load.others fun t e => t.originate e.2.addr 0 (.places ps) := by
      simp only [State.loadTaken, Nat.mod_eq_of_lt (show src < 4 by omega)]
      rw [hown]
    refine ⟨fun hg hsrc => ?_, fun hg hsrc => ?_, fun hn hbad => ?_, fun h1 h2 => ?_, fun hl => ?_, fun hl => ?_⟩
    · rw [exec_load_of_fits h hg (by omega), htaken (by omega), if_neg (by omega)]
    · rw [exec_load_of_fits h hg (by omega), htaken (by omega), if_pos hsrc]
    · exact exec_load_refused h (by omega) fun ⟨hg, hs⟩ => hbad.elim (· hg) fun e => hs (by rw [e])
    · exact exec_load_refused h h2 fun ⟨⟨_, _, _, hle, _⟩, _⟩ => by omega
    · rw [exec_ldAbort_reached h, if_pos hl]
    · rw [exec_ldAbort_reached h, if_neg (Bool.eq_false_iff.mp hl)]
      rfl
  · intro s at40
    exact ⟨exec_ldDmaPush_of_room h, exec_ldDmaPush_refused h⟩
  · intro s cast
    exact ⟨exec_loadSegment_queued, exec_loadSegment_streamed, exec_loadSegment_of_not_ready⟩

end Sys2Proof.Machine
end

section
/-! The DRAM channels: states and their ends (O23), training and masks (O24), refresh and row disturbance (O25). -/

namespace Sys2Proof.Machine

/-! ## The write of DM_CTRL (R341, R344) -/

section
variable {s : State} {ch : Nat} {host ok : Bool}

/-- TRAIN_HOST written along with a command changes neither the channel's state nor anything outside its two registers. -/
theorem State.trainHost_same {β : Type} (p : State → β) (hctrl : ∀ t v, p (State.wr t .DM_CTRL ch .TRAIN_HOST v) = p t)
    (herr : ∀ t v, p (State.wr t .DM_STATUS ch .CMD_ERR v) = p t) : p (s.trainHost ch host) = p s := by
  unfold State.trainHost
  split
  · rfl
  · split
    · exact hctrl ..
    · exact herr ..

theorem State.trainHost_dmState : (s.trainHost ch host).dmState ch = s.rd .DM_STATUS ch .STATE :=
  State.trainHost_same (State.dmState · ch) (fun _ _ => State.rd_wr_reg _ _ _ _ _ _ (by decide)) fun _ _ => State.rd_wr_fld _ _ _ _ _ _ (by decide)

theorem State.trainHost_bound : (s.trainHost ch host).rd .DM_BOUND ch .NS = s.rd .DM_BOUND ch .NS :=
  State.trainHost_same (State.rd · .DM_BOUND ch .NS) (fun _ _ => State.rd_wr_reg _ _ _ _ _ _ (by decide))
    fun _ _ => State.rd_wr_reg _ _ _ _ _ _ (by decide)

theorem State.trainHost_deep : (s.trainHost ch host).deep = s.deep := State.trainHost_same State.deep (fun _ _ => rfl) fun _ _ => rfl

theorem State.dmBusy_eq_false_iff : s.dmBusy ch = false ↔ ch ∉ s.deep.initing ∧ ch ∉ s.deep.repairing ∧ ch ∉ s.deep.quiescing := by
  simp [State.dmBusy, and_assoc]

theorem State.trainHost_idle_iff :
    (s.trainHost ch host).dmBusy ch = false ↔ ch ∉ s.deep.initing ∧ ch ∉ s.deep.repairing ∧ ch ∉ s.deep.quiescing := by
  rw [State.dmBusy_eq_false_iff, State.trainHost_deep]

/-- No operation of the channel is under way. -/
abbrev State.DmIdle (s : State) (ch : Nat) : Prop := ch ∉ s.deep.initing ∧ ch ∉ s.deep.repairing ∧ ch ∉ s.deep.quiescing

variable (h : s.reaches .DM_CTRL ch = true)
include h

theorem exec_dmInit_reached : exec (.dmInit ch host) s =
    let u := (s.unhold .DM_CTRL ch).trainHost ch host
    let st := s.rd .DM_STATUS ch .STATE
    .next (if (st = 1 ∨ st = 2 ∨ st = 4) ∧ s.DmIdle ch then (u.startInit ch).wr .DM_STATUS ch .OUTSTANDING 0 else u.dmErr ch) := by
  show execDmInit ch host s = _
  rw [execDmInit, State.asWrite_reached h]
  simp only [State.trainHost_dmState, State.trainHost_idle_iff, apply_ite Host.Outcome.next, State.DmIdle]
  rfl

theorem exec_dmActivate_reached : exec (.dmActivate ch host) s =
    let u := (s.unhold .DM_CTRL ch).trainHost ch host
    .next (if s.rd .DM_STATUS ch .STATE = 2 ∧ s.DmIdle ch ∧ s.rd .DM_BOUND ch .NS ≠ 0 then u.wr .DM_STATUS ch .STATE 3 else u.dmErr ch) := by
  show execDmActivate ch host s = _
  rw [execDmActivate, State.asWrite_reached h]
  simp only [State.trainHost_dmState, State.trainHost_idle_iff, State.trainHost_bound, apply_ite Host.Outcome.next, State.DmIdle]
  rfl

theorem exec_dmQuiesce_reached : exec (.dmQuiesce ch host) s =
    let u := (s.unhold .DM_CTRL ch).trainHost ch host
    .next (if s.rd .DM_STATUS ch .STATE = 3 ∧ s.DmIdle ch ∧ u.deepRunning = false then u.modDeep fun d => { d with quiescing := ch :: d.quiescing }
      else u.dmErr ch) := by
  show execDmQuiesce ch host s = _
  rw [execDmQuiesce, State.asWrite_reached h]
  simp only [State.trainHost_dmState, State.trainHost_idle_iff, apply_ite Host.Outcome.next, State.DmIdle]
  rfl

theorem exec_dmPpr_reached : exec (.dmPpr ch host) s =
    let u := (s.unhold .DM_CTRL ch).trainHost ch host
    .next (if s.rd .DM_STATUS ch .STATE = 2 ∧ s.DmIdle ch then u.modDeep fun d => { d with repairing := ch :: d.repairing } else u.dmErr ch) := by
  show execDmPpr ch host s = _
  rw [execDmPpr, State.asWrite_reached h]
  simp only [State.trainHost_dmState, State.trainHost_idle_iff, apply_ite Host.Outcome.next, State.DmIdle]
  rfl

end

/-! ## The ends of the operations -/

section
variable {s : State} {ch : Nat} {ok : Bool}

theorem exec_dmInitDone_of_initing (h : ch ∈ s.deep.initing) : exec (.dmInitDone ch ok) s =
    .next ((s.modDeep fun d => { d with initing := d.initing.erase ch }).wr .DM_STATUS ch .STATE (if ok then 2 else 4)) :=
  if_pos (List.contains_iff_mem.mpr h)

theorem State.chanEmpty_iff : s.chanEmpty ch = true ↔
    (∀ h ∈ s.deep.held, ∀ a ∈ reqLines h.req, s.chanOf a ≠ ch) ∧ ∀ c < 64, ∀ x ∈ (s.camp c).issues, s.chanOf x.addr ≠ ch := by
  simp [State.chanEmpty]

theorem exec_quiesceDone_of_empty (hq : ch ∈ s.deep.quiescing) (he : s.chanEmpty ch = true) :
    exec (.quiesceDone ch) s = .next ((s.modDeep fun d => { d with quiescing := d.quiescing.erase ch }).wr .DM_STATUS ch .STATE 2) :=
  if_pos ⟨List.contains_iff_mem.mpr hq, he⟩

theorem exec_quiesceDone_of_held (he : s.chanEmpty ch = false) : exec (.quiesceDone ch) s = .next s :=
  if_neg fun ⟨_, h⟩ => Bool.false_ne_true (he.symm.trans h)

theorem exec_pprDone_failed (h : ch ∈ s.deep.repairing) : exec (.pprDone ch false) s =
    .next (((s.modDeep fun d => { d with repairing := d.repairing.erase ch }).wr .DM_STATUS ch .PPR_FAIL 1).wr .DM_STATUS ch .STATE 4) :=
  if_pos (List.contains_iff_mem.mpr h)

/-- The row that DM_PPR names. -/
def State.pprBank (s : State) (ch : Nat) : BankId := ⟨ch, s.rd .DM_PPR ch .SUB, s.rd .DM_PPR ch .BANK⟩

/-- The state in which a row has been repaired and has not lost its contents yet. -/
def State.repaired (s : State) (ch : Nat) : State :=
  s.modDeep fun d => { d with
    repairing := d.repairing.erase ch
    soft := if s.rd .DM_PPR ch .SOFT = 1 then (s.pprBank ch, s.rd .DM_PPR ch .ROW) :: d.soft else d.soft }

theorem exec_pprDone_ok (h : ch ∈ s.deep.repairing) : exec (.pprDone ch true) s =
    .next ((s.repaired ch).forEach (s.rowLines (s.pprBank ch) (s.rd .DM_PPR ch .ROW)) State.loseLine) := by
  show execPprDone ch true s = _
  rw [execPprDone, if_pos (List.contains_iff_mem.mpr h), if_pos rfl, State.loseRow_lines]
  rfl

end

/-- Settles O23: a command of DM_CTRL acts or is refused as its own conditions say; the ends of the operations clear what they had begun. -/
theorem dramChannelStates : Obligations.DramChannelStates := by
  unfold Obligations.DramChannelStates
  intro s₀ ch host ok st idle bank lines
  refine ⟨fun h => ?_, exec_dmInitDone_of_initing, fun hq hheld hissues => exec_quiesceDone_of_empty hq (State.chanEmpty_iff.mpr ⟨hheld, hissues⟩),
    fun _ hsome => exec_quiesceDone_of_held ?_, exec_pprDone_failed, fun hrep => ?_⟩
  · intro s u err
    rw [exec_dmInit_reached h, exec_dmActivate_reached h, exec_dmQuiesce_reached h, exec_dmPpr_reached h]
    exact ⟨fun a b => congrArg _ (if_pos ⟨a, b⟩), fun a => congrArg _ (if_neg a), fun a b d => congrArg _ (if_pos ⟨a, b, d⟩),
      fun a => congrArg _ (if_neg a), fun a b d => congrArg _ (if_pos ⟨a, b, d⟩), fun a => congrArg _ (if_neg a),
      fun a b => congrArg _ (if_pos ⟨a, b⟩), fun a => congrArg _ (if_neg a)⟩
  · refine Bool.eq_false_iff.mpr fun he => ?_
    obtain ⟨hheld, hissues⟩ := State.chanEmpty_iff.mp he
    rcases hsome with ⟨x, hx, a, ha, hc⟩ | ⟨c, hc, x, hx, hx'⟩
    · exact hheld x hx a ha hc
    · exact hissues c hc x hx hx'
  · have hexec : exec (.pprDone ch true) s₀ = .next ((s₀.repaired ch).forEach lines State.loseLine) := exec_pprDone_ok hrep
    obtain ⟨hregs, hcamps, hrepairing, hsoft, hlost, hkept⟩ := State.loseLines_frame lines (s₀.repaired ch) (s₀.rowLines_aligned bank _)
    exact ⟨_, hexec, hregs, hcamps, hrepairing, hsoft, hlost, hkept⟩

end Sys2Proof.Machine
end

section
/-! Training operations and select masks (O24), refresh and row disturbance (O25). -/

namespace Sys2Proof.Machine

/-! ## Training operations (R344, R345) -/

section
variable {s : State} {ch sub mr data : Nat}

theorem exec_training_reached (h : s.reaches .DM_TRAIN_CMD ch = true) :
    exec (.mrw ch sub mr data) s = .next ((s.unhold .DM_TRAIN_CMD ch).trainOp ch 1 sub mr data false) ∧
    exec (.mrr ch sub mr data) s = .next ((s.unhold .DM_TRAIN_CMD ch).trainOp ch 2 sub mr data false) ∧
    exec (.mpc ch sub mr data) s = .next ((s.unhold .DM_TRAIN_CMD ch).trainOp ch 3 sub mr data false) :=
  ⟨State.asWrite_reached h fun s => .next (s.trainOp ch 1 sub mr data false), State.asWrite_reached h fun s => .next (s.trainOp ch 2 sub mr data false),
    State.asWrite_reached h fun s => .next (s.trainOp ch 3 sub mr data false)⟩

/-- Software issues a training operation in host mode, in UNTRAINED or QUIESCED, with none in progress. -/
theorem State.trainOp_of_may {op : Nat}
    (h : s.rd .DM_CTRL ch .TRAIN_HOST = 1 ∧ (s.dmState ch = 1 ∨ s.dmState ch = 2) ∧ s.rd .DM_TRAIN_CMD ch .BUSY = 0) :
    s.trainOp ch op sub mr data false = (s.modDeep fun d => { d with trainOp := tset d.trainOp ch op }).wrs .DM_TRAIN_CMD ch
      [(.SUB, sub), (.MR, mr), (.DATA, data), (.BUSY, 1)] :=
  if_pos ⟨.inl h.1, h.2⟩

theorem State.trainOp_refused {op : Nat}
    (h : ¬ (s.rd .DM_CTRL ch .TRAIN_HOST = 1 ∧ (s.dmState ch = 1 ∨ s.dmState ch = 2) ∧ s.rd .DM_TRAIN_CMD ch .BUSY = 0)) :
    s.trainOp ch op sub mr data false = s.dmErr ch :=
  if_neg fun ⟨hhost, hrest⟩ => h ⟨hhost.resolve_right Bool.false_ne_true, hrest⟩

theorem exec_trainOpDone_of_mrw (hbusy : s.rd .DM_TRAIN_CMD ch .BUSY = 1) (hop : tget 0 s.deep.trainOp ch = 1) :
    exec (.trainOpDone ch data) s = .next ((s.wr .DM_TRAIN_CMD ch .BUSY 0).modDeep fun d =>
      { d with modeRegs := tset d.modeRegs (ch, s.rd .DM_TRAIN_CMD ch .SUB, s.rd .DM_TRAIN_CMD ch .MR) (s.rd .DM_TRAIN_CMD ch .DATA) }) := by
  show execTrainOpDone ch data s = _
  simp only [execTrainOpDone, if_pos hbusy, hop]

theorem exec_trainOpDone_of_mrr (hbusy : s.rd .DM_TRAIN_CMD ch .BUSY = 1) (hop : tget 0 s.deep.trainOp ch = 2) :
    exec (.trainOpDone ch data) s = .next ((s.wr .DM_TRAIN_CMD ch .BUSY 0).wr .DM_TRAIN_CMD ch .DATA
      (tget data s.deep.modeRegs (ch, s.rd .DM_TRAIN_CMD ch .SUB, s.rd .DM_TRAIN_CMD ch .MR))) := by
  show execTrainOpDone ch data s = _
  simp only [execTrainOpDone, if_pos hbusy, hop]

/-! ## Select masks (R339, R340) -/

/-- Every channel is OFF or UNTRAINED. -/
def State.unmapped (s : State) : Bool := (List.range 8).all fun c => s.dmState c == 0 || s.dmState c == 1

theorem State.unmapped_iff : s.unmapped = true ↔ ∀ c < 8, s.rd .DM_STATUS c .STATE = 0 ∨ s.rd .DM_STATUS c .STATE = 1 := by
  simp [State.unmapped, State.dmState]

variable {k mask : Nat}

theorem exec_dmMapWrite_here (h : s.reach (offsetOf .DM_MAP k + 0x2000 * ch) = .here) :
    exec (.dmMapWrite ch k mask) s =
      let t := s.unhold .DM_MAP k
      .next (if k < 9 ∧ maskOk k (mask % 2 ^ 32) = false then t.forEach (List.range 8) State.dmErr
        else if k < 9 ∧ s.unmapped = true then t.wr .DM_MAP k .MASK mask else t.dmErr ch) := by
  show execDmMapWrite ch k mask s = _
  simp only [execDmMapWrite, State.asWriteAt, h, apply_ite Host.Outcome.next]
  rfl

end

/-- Settles O24: a training operation is issued or refused; a mask is taken, or its error falls on all channels or on the one addressed. -/
theorem dramTrainingAndSelectMasks : Obligations.DramTrainingAndSelectMasks := by
  unfold Obligations.DramTrainingAndSelectMasks
  intro s₀ ch sub mr data k mask st key unmapped
  refine ⟨fun h => ?_, exec_trainOpDone_of_mrw, exec_trainOpDone_of_mrr, fun h => ?_⟩
  · intro s mayTrain issued err
    obtain ⟨hmrw, hmrr, hmpc⟩ := exec_training_reached (sub := sub) (mr := mr) (data := data) h
    rw [hmrw, hmrr, hmpc]
    refine ⟨fun hm => ?_, fun hm => ?_⟩
    · exact ⟨congrArg _ (State.trainOp_of_may hm), congrArg _ (State.trainOp_of_may hm), congrArg _ (State.trainOp_of_may hm)⟩
    · exact ⟨congrArg _ (State.trainOp_refused hm), congrArg _ (State.trainOp_refused hm), congrArg _ (State.trainOp_refused hm)⟩
  · intro s
    have hw := exec_dmMapWrite_here (mask := mask) h
    refine ⟨fun hk hu hm hok => ?_, fun hk hm hok => ?_, fun hbad => ?_⟩
    · rw [hw, Nat.mod_eq_of_lt hm, hok]
      exact congrArg _ ((if_neg (by simp)).trans (if_pos ⟨hk, State.unmapped_iff.mpr hu⟩))
    · rw [hw, Nat.mod_eq_of_lt hm, hok]
      exact congrArg _ (if_pos ⟨hk, rfl⟩)
    · rw [hw]
      rcases hbad with hk | ⟨hm, hok, hu⟩
      · exact congrArg _ ((if_neg fun hc => hk hc.1).trans (if_neg fun hc => hk hc.1))
      · rw [Nat.mod_eq_of_lt hm, hok]
        exact congrArg _ ((if_neg (by simp)).trans (if_neg fun hc => hu (State.unmapped_iff.mp hc.2)))

/-! ## Refresh (R348, R349) -/

section
variable {s : State} {ch sub : Nat} {bank : Option Nat}

theorem State.refreshRuns_iff : s.refreshRuns ch = true ↔ (s.rd .DM_STATUS ch .STATE = 2 ∨ s.rd .DM_STATUS ch .STATE = 3) := by
  simp [State.refreshRuns, State.dmState]

/-- The refresh runs on the channel, and one of its kind falls due. -/
abbrev State.RefreshDue (s : State) (ch sub : Nat) (bank : Option Nat) : Prop :=
  (s.rd .DM_STATUS ch .STATE = 2 ∨ s.rd .DM_STATUS ch .STATE = 3) ∧
    s.refreshNs ch ≤ 2 * (s.ticks - tget 0 s.deep.dueAt (ch, sub, s.refreshKind ch bank))

/-- The refresh is noted as the last of its kind to fall due. -/
def State.noteDue (s : State) (ch sub : Nat) (bank : Option Nat) : State :=
  s.modDeep fun d => { d with dueAt := tset d.dueAt (ch, sub, s.refreshKind ch bank) s.ticks }

theorem exec_refreshDue_of_due (h : s.RefreshDue ch sub bank) :
    exec (.refreshDue ch sub bank) s =
      .next (if 0 < tget 0 s.deep.pulled ch then
          (s.noteDue ch sub bank).modDeep fun d => { d with pulled := tset d.pulled ch (tget 0 s.deep.pulled ch - 1) }
        else if s.scheduledWaits ch sub = true ∧ s.rd .DM_STATUS ch .OUTSTANDING < min 4 (s.rd .DM_REF ch .POSTPONE) then
          (s.noteDue ch sub bank).wr .DM_STATUS ch .OUTSTANDING (s.rd .DM_STATUS ch .OUTSTANDING + 1)
        else (s.noteDue ch sub bank).issueRefresh ⟨ch, sub, s.refreshKind ch bank⟩) := by
  have hdue : (s.refreshRuns ch && s.refreshFalls ch sub (s.refreshKind ch bank)) = true := by
    rw [Bool.and_eq_true, State.refreshRuns_iff, State.refreshFalls, decide_eq_true_eq]
    exact h
  show execRefreshDue ch sub bank s = _
  rw [execRefreshDue, if_pos hdue]
  simp only [apply_ite Host.Outcome.next]
  rfl

theorem exec_refreshDue_of_not_due (h : ¬ s.RefreshDue ch sub bank) : exec (.refreshDue ch sub bank) s = .next s := by
  refine if_neg fun hc => h ?_
  rw [Bool.and_eq_true, State.refreshRuns_iff, State.refreshFalls, decide_eq_true_eq] at hc
  exact hc

theorem exec_postponedRefreshIssue_of_free (hruns : s.rd .DM_STATUS ch .STATE = 2 ∨ s.rd .DM_STATUS ch .STATE = 3)
    (hfree : s.scheduledWaits ch sub = false) :
    exec (.postponedRefreshIssue ch sub bank) s =
      let n := s.rd .DM_STATUS ch .OUTSTANDING
      let p := tget 0 s.deep.pulled ch
      .next (if 0 < n then (s.wr .DM_STATUS ch .OUTSTANDING (n - 1)).issueRefresh ⟨ch, sub, s.refreshKind ch bank⟩
        else if p < 4 then (s.modDeep fun d => { d with pulled := tset d.pulled ch (p + 1) }).issueRefresh ⟨ch, sub, s.refreshKind ch bank⟩
        else s) := by
  show execPostponedRefreshIssue ch sub bank s = _
  rw [execPostponedRefreshIssue, if_pos ⟨State.refreshRuns_iff.mpr hruns, hfree⟩]
  simp only [apply_ite Host.Outcome.next]

theorem exec_postponedRefreshIssue_of_not_free
    (h : ¬ (s.rd .DM_STATUS ch .STATE = 2 ∨ s.rd .DM_STATUS ch .STATE = 3) ∨ s.scheduledWaits ch sub = true) :
    exec (.postponedRefreshIssue ch sub bank) s = .next s :=
  if_neg fun ⟨hr, hw⟩ => h.elim (· (State.refreshRuns_iff.mp hr)) fun e => Bool.false_ne_true (hw.symm.trans e)

/-! ## Row disturbance (R351, R352) -/

/-- The window ends: the channel's tables and the throttles that no RFM keeps are gone, and what waits is served. -/
theorem exec_rhWindowClear_clears (s : State) (ch : Nat) : ∃ t : State, exec (.rhWindowClear ch) s = .next t.serveHeld ∧
    (∀ e ∈ t.deep.rows, e.1.chan ≠ ch) ∧ (∀ e, e.1.chan ≠ ch → (e ∈ t.deep.rows ↔ e ∈ s.deep.rows)) ∧
    (∀ e, e ∈ t.deep.throttled ↔ e ∈ s.deep.throttled ∧ (e.bank.chan = ch → ∃ r ∈ s.deep.rfm, r.1 = e.bank ∧ r.2.1 = e.row)) ∧
    t.deep.bytes = s.deep.bytes ∧ t.regs = s.regs := by
  refine ⟨_, rfl, fun e he => ?_, fun e hne => ?_, fun e => ?_, rfl, rfl⟩
  · have h : e ∈ s.deep.rows.filter fun e => e.1.chan != ch := he
    simpa using (List.mem_filter.mp h).2
  · show e ∈ s.deep.rows.filter (fun e => e.1.chan != ch) ↔ _
    simp [List.mem_filter, hne]
  · show e ∈ s.deep.throttled.filter (fun e => e.bank.chan != ch || s.deep.rfm.any fun r => r.1 == e.bank && r.2.1 == e.row) ↔ _
    by_cases hc : e.bank.chan = ch <;> simp [List.mem_filter, hc]

variable {bk : BankId} {row src : Nat}

/-- An RFM ends: its row's counts are zero and its row's throttle is gone, and what waits is served. -/
theorem exec_rfmDone_of_pending {b : Nat} (hf : s.deep.rfm.find? (fun e => e.1 == ⟨ch, sub, b⟩ && e.2.1 == row) = some (⟨ch, sub, b⟩, row, src))
    (hfree : s.refreshHolds ⟨ch, sub, b⟩ = false) : ∃ t : State, exec (.rfmDone ch sub b row) s = .next t.serveHeld ∧
      t.deep.rfm = s.deep.rfm.erase (⟨ch, sub, b⟩, row, src) ∧
      (∀ e, e ∈ t.deep.throttled ↔ e ∈ s.deep.throttled ∧ ¬ (e.bank = ⟨ch, sub, b⟩ ∧ e.row = row)) ∧
      (∀ e ∈ tget [] t.deep.rows ⟨ch, sub, b⟩, e.row = row → e.count = 0) ∧ t.deep.bytes = s.deep.bytes ∧ t.regs = s.regs := by
  have hexec : exec (.rfmDone ch sub b row) s = .next (s.noteHolds.modDeep fun d =>
      { d with rfm := d.rfm.erase (⟨ch, sub, b⟩, row, src), throttled := d.throttled.filter (fun e => !(e.bank == ⟨ch, sub, b⟩ && e.row == row)),
               rows := tset d.rows ⟨ch, sub, b⟩ ((tget [] d.rows ⟨ch, sub, b⟩).map fun e => if e.row = row then { e with count := 0, pairs := [] } else e) }).serveHeld := by
    show execRfmDone ch sub b row s = _
    simp only [execRfmDone, hf, hfree, Bool.false_eq_true, if_false]
  refine ⟨_, hexec, rfl, fun e => ?_, fun e he hrow => ?_, rfl, rfl⟩
  · show e ∈ s.deep.throttled.filter (fun e => !(e.bank == ⟨ch, sub, b⟩ && e.row == row)) ↔ _
    simp only [List.mem_filter, Bool.not_eq_true', ← Bool.not_eq_true, Bool.and_eq_true, beq_iff_eq]
  · have h : e ∈ (tget [] s.deep.rows ⟨ch, sub, b⟩).map fun e => if e.row = row then { e with count := 0, pairs := [] } else e := by
      rw [← tget_tset_self [] s.deep.rows ⟨ch, sub, b⟩ (List.map _ _)]
      exact he
    obtain ⟨x, -, rfl⟩ := List.mem_map.mp h
    by_cases hx : x.row = row
    · rw [if_pos hx]
    · rw [if_neg hx] at hrow
      exact absurd hrow hx

theorem exec_rfmDone_of_none {b : Nat} (h : s.deep.rfm.find? (fun e => e.1 == ⟨ch, sub, b⟩ && e.2.1 == row) = none ∨ s.refreshHolds ⟨ch, sub, b⟩ = true) :
    exec (.rfmDone ch sub b row) s = .next s := by
  show execRfmDone ch sub b row s = _
  simp only [execRfmDone]
  split
  · rfl
  · rename_i r hf
    rcases h with h | h
    · rw [h] at hf
      exact absurd hf (by simp)
    · rw [if_pos h]

end

/-- Settles O25: each command's branches, one per condition of the clause. -/
theorem refreshAndRowDisturbance : Obligations.RefreshAndRowDisturbance := by
  unfold Obligations.RefreshAndRowDisturbance
  intro s ch sub row page c pitch entry f bank hot q b n p runs bk kind due u issue
  refine ⟨fun hr hd hp => ?_, fun hr hd hp hw hn => ?_, fun hr hd hp hw => ?_, fun h => exec_refreshDue_of_not_due h, fun hr hw hn => ?_,
    fun hr hw hn hp => ?_, fun hr hw hn hp => ?_, exec_postponedRefreshIssue_of_not_free, rfl, exec_rhWindowClear_clears s ch,
    exec_rfmDone_of_pending, exec_rfmDone_of_none, rfl, fun hq => ?_, fun hpage => if_pos (List.contains_iff_mem.mpr hpage),
    fun hpage => if_neg (mt List.contains_iff_mem.mp hpage)⟩
  · exact (exec_refreshDue_of_due ⟨hr, hd⟩).trans (congrArg _ (if_pos hp))
  · exact (exec_refreshDue_of_due ⟨hr, hd⟩).trans (congrArg _ ((if_neg (Nat.not_lt.mpr (Nat.le_of_eq hp))).trans (if_pos ⟨hw, hn⟩)))
  · refine (exec_refreshDue_of_due ⟨hr, hd⟩).trans (congrArg _ ((if_neg (Nat.not_lt.mpr (Nat.le_of_eq hp))).trans (if_neg ?_)))
    exact fun hc => hw.elim (fun e => Bool.false_ne_true (e.symm.trans hc.1)) fun e => absurd hc.2 (Nat.not_lt.mpr e)
  · exact (exec_postponedRefreshIssue_of_free hr hw).trans (congrArg _ (if_pos hn))
  · exact (exec_postponedRefreshIssue_of_free hr hw).trans (congrArg _ ((if_neg (Nat.not_lt.mpr (Nat.le_of_eq hn))).trans (if_pos hp)))
  · exact (exec_postponedRefreshIssue_of_free hr hw).trans (congrArg _ ((if_neg (Nat.not_lt.mpr (Nat.le_of_eq hn))).trans (if_neg (Nat.not_lt.mpr hp))))
  · show execDeepReadDataArrive c pitch entry f s = _
    simp only [execDeepReadDataArrive, hq]

end Sys2Proof.Machine
end

section
/-! Keys, rolls, ranges and the initialisation of regions (O26). -/

namespace Sys2Proof.Machine

/-! ## Camps in the way of a key command (R379, R392) -/

section
variable {s : State} {k : Nat}

theorem State.keyCamp_eq_false {f : Nat → Bool} (h : ∀ c < 64, s.campState c = 0 ∨ s.rd .RUN_CAMP_STATUS c .KEY_ID ≠ k) : s.keyCamp k f = false := by
  rw [State.keyCamp, List.any_eq_false]
  intro c hc
  rcases h c (List.mem_range.mp hc) with h | h <;> simp [h]

theorem State.keyCamp_eq_true {f : Nat → Bool} {c : Nat} (hc : c < 64) (h0 : s.campState c ≠ 0) (hk : s.rd .RUN_CAMP_STATUS c .KEY_ID = k)
    (hf : f (s.campState c) = true) : s.keyCamp k f = true := by
  rw [State.keyCamp, List.any_eq_true]
  exact ⟨c, List.mem_range.mpr hc, by simp [h0, hk, hf]⟩

/-- With the key ID free of camps no key command is refused for one. -/
theorem State.not_keyCamp {f : Nat → Bool} (h : k = 0 ∨ ∀ c < 64, s.campState c = 0 ∨ s.rd .RUN_CAMP_STATUS c .KEY_ID ≠ k) :
    ¬ (k ≠ 0 ∧ s.keyCamp k f = true) := by
  rintro ⟨h0, hk⟩
  rw [State.keyCamp_eq_false (h.resolve_left h0)] at hk
  exact Bool.false_ne_true hk

/-- A camp that holds the key ID in LOADED, RUNNING or PAUSED is in the way of every key command that asks for one of these states. -/
theorem State.keyCamp_of_taken {f : Nat → Bool} (hf : ∀ n, n = 2 ∨ n = 3 ∨ n = 4 → f n = true)
    (h : k ≠ 0 ∧ ∃ c < 64, (s.campState c = 2 ∨ s.campState c = 3 ∨ s.campState c = 4) ∧ s.rd .RUN_CAMP_STATUS c .KEY_ID = k) :
    k ≠ 0 ∧ s.keyCamp k f = true := by
  obtain ⟨h0, c, hc, hst, hk⟩ := h
  exact ⟨h0, State.keyCamp_eq_true hc (by omega) hk (hf _ hst)⟩

end

/-! ## INSTALL, ROLL and REMOVE as host writes -/

section
variable {s : State} {k : Nat} (h : s.reaches .MP_KEY_CMD 0 = true) (hk : k < 256)
include h hk

theorem exec_install_reached : exec (.install k) s =
    let t := s.unhold .MP_KEY_CMD 0
    .next (if s.rd .MP_KEY_CMD 0 .BUSY = 1 then t
      else if k ≠ 0 ∧ s.keyCamp k (fun _ => true) = true then (t.wr .MP_KEY_CMD 0 .TARGET k).wr .MP_KEY_CMD 0 .RESULT 2
      else ((((t.wr .MP_KEY_CMD 0 .TARGET k).wr .MP_KEY_CMD 0 .BUSY 1).modKeys fun x => { x with cmd := some (1, k) }).emit
        (.hostRead (t.rd .MP_KEY_ADDR_LO 0 .ADDR + 2 ^ 40 * t.rd .MP_KEY_ADDR_HI 0 .ADDR) 256))) := by
  show execInstall k s = _
  rw [execInstall, State.asWrite_reached h]
  simp only [Nat.mod_eq_of_lt hk, apply_ite Host.Outcome.next]
  rfl

theorem exec_roll_reached : exec (.roll k) s =
    let t := s.unhold .MP_KEY_CMD 0
    .next (if s.rd .MP_KEY_CMD 0 .BUSY = 1 then t
      else if k ≠ 0 ∧ s.keyCamp k (fun st => st == 2 || st == 3 || st == 4) = true then (t.wr .MP_KEY_CMD 0 .TARGET k).wr .MP_KEY_CMD 0 .RESULT 2
      else if s.rd .MP_KEYSTATE k .INSTALLED = 0 then (t.wr .MP_KEY_CMD 0 .TARGET k).wr .MP_KEY_CMD 0 .RESULT 3
      else (((t.wr .MP_KEY_CMD 0 .TARGET k).wr .MP_KEY_CMD 0 .BUSY 1).modKeys fun x => { x with cmd := some (2, k) }).startRoll k) := by
  show execRoll k s = _
  rw [execRoll, State.asWrite_reached h]
  simp only [Nat.mod_eq_of_lt hk, apply_ite Host.Outcome.next]
  rfl

/-- The keys of a removed key ID and its range entries go, its pages leave with their ciphertext. -/
def State.removeKey (t : State) (k : Nat) : State :=
  let s2 := (((t.wr .MP_KEY_CMD 0 .TARGET k).leavePages k (t.ownedBy k)).modKeys fun x => { x with keys := tdel x.keys k }).wr .MP_KEYSTATE k .INSTALLED 0
  let s3 := s2.forEach (t.validRanges.filter fun r => t.rd .MP_RANGE_BASE r .KEY_ID == k) fun u r => u.wr .MP_RANGE_BASE r .VALID 0
  (s3.loadKeyEvent [k]).lapseTokens k

theorem exec_remove_reached : exec (.remove k) s =
    let t := s.unhold .MP_KEY_CMD 0
    .next (if s.rd .MP_KEY_CMD 0 .BUSY = 1 then t
      else if k ≠ 0 ∧ s.keyCamp k (fun _ => true) = true then (t.wr .MP_KEY_CMD 0 .TARGET k).wr .MP_KEY_CMD 0 .RESULT 2
      else if s.rd .MP_KEYSTATE k .INSTALLED = 0 then (t.wr .MP_KEY_CMD 0 .TARGET k).wr .MP_KEY_CMD 0 .RESULT 3
      else (t.removeKey k).keyDone 0) := by
  show execRemove k s = _
  rw [execRemove, State.asWrite_reached h]
  simp only [Nat.mod_eq_of_lt hk, apply_ite Host.Outcome.next]
  rfl

end

section
variable {s : State} {k base port : Nat}

theorem State.keyDone_shows (s : State) (n : Nat) : (s.keyDone n).rd .MP_KEY_CMD 0 .BUSY = 0 ∧ (s.keyDone 0).rd .MP_KEY_CMD 0 .RESULT = 0 := by
  constructor
  · show (s.wrs .MP_KEY_CMD 0 [(.BUSY, 0), (.RESULT, n)]).rd _ _ _ = 0
    simp [State.rd_wr]
  · show (s.wrs .MP_KEY_CMD 0 [(.BUSY, 0), (.RESULT, 0)]).rd _ _ _ = 0
    simp

theorem exec_keyBlobReadDone_of_error (h : s.keys.cmd = some (1, k)) (blob : List Byte) : exec (.keyBlobReadDone false blob) s = .next (s.keyDone 4) := by
  show execKeyBlobReadDone false blob s = _
  simp only [execKeyBlobReadDone, h, if_true]

theorem exec_keyBlobReadDone_of_free (h : s.keys.cmd = some (1, k)) (hfree : ¬ (k ≠ 0 ∧ s.keyCamp k (fun _ => true) = true)) (blob : List Byte) :
    exec (.keyBlobReadDone true blob) s = .next (match s.unwrap k blob with
      | none => s.keyDone 1
      | some u => s.installKeys k u) := by
  show execKeyBlobReadDone true blob s = _
  simp only [execKeyBlobReadDone, h, if_neg hfree, Bool.true_eq_false, if_false]
  cases s.unwrap k blob <;> rfl

/-- The roll of a key ID without damage ends: its regions are initialised, and what waited is served. -/
def State.rolled (s : State) (k : Nat) : State :=
  let s1 := (s.modDeep fun d => { d with inits := d.inits.filter fun r => !(r.roll && r.key == k) }).modKeys fun x =>
    { x with rolls := x.rolls.filter fun e => e.1 != k }
  (s1.wr .MP_POISON 0 .USED s1.deep.poison.length).wr .MP_KEYSTATE k .ROLLING 0

theorem exec_rollDone_of_clean (h : s.keys.rolls.find? (fun e => e.1 == k) = some (k, []))
    (hserved : ∀ x ∈ s.deep.inits, x.roll = true → x.key = k → s.initServed x = true) :
    exec (.rollDone k) s = .next ((s.rolled k).serveHeld.keyDone 0) := by
  have hall : (s.deep.inits.filter fun r => r.roll && r.key == k).any (fun r => !s.initServed r) = false := by
    rw [List.any_eq_false]
    intro x hx
    obtain ⟨hx, hr⟩ := List.mem_filter.mp hx
    simp only [Bool.and_eq_true, beq_iff_eq] at hr
    simp [hserved x hx hr.1 hr.2]
  show execRollDone k s = _
  simp only [execRollDone, h, hall, Bool.false_eq_true, if_false, List.filter_nil, State.forEach_nil, List.contains_nil]
  rfl

/-! ## Regions and epochs -/

theorem exec_regionInitDone_of_served (h : ∀ x ∈ s.deep.inits, x.roll = false → x.base = base → s.initServed x = true) :
    exec (.regionInitDone base) s =
      .next ((s.modDeep fun d => { d with inits := d.inits.filter fun r => r.roll || r.base != base }).serveHeld.conclude) := by
  refine if_neg (Bool.eq_false_iff.mp (List.any_eq_false.mpr fun x hx => ?_))
  obtain ⟨hx, hr⟩ := List.mem_filter.mp hx
  simp only [Bool.and_eq_true, Bool.not_eq_true', beq_iff_eq] at hr
  simp [h x hx hr.1 hr.2]

theorem exec_regionInitDone_of_waiting (h : ∃ x ∈ s.deep.inits, x.roll = false ∧ x.base = base ∧ s.initServed x = false) :
    exec (.regionInitDone base) s = .next s := by
  obtain ⟨x, hx, hroll, hbase, hserved⟩ := h
  exact if_pos (List.any_eq_true.mpr ⟨x, List.mem_filter.mpr ⟨hx, by simp [hroll, hbase]⟩, by simp [hserved]⟩)

/-- No control slot of an epoch waits at the port. -/
theorem State.noEpochWaits_iff : ((s.hn port).wait.all fun f => f.ctrl % 16 != 2) = true ↔ ∀ f ∈ (s.hn port).wait, f.ctrl % 16 ≠ 2 := by
  simp

theorem exec_epochLimit_of_keyed (hkey : s.keyed port = true) (hnone : ∀ f ∈ (s.hn port).wait, f.ctrl % 16 ≠ 2) :
    exec (.epochLimit port) s = .next (s.sendSlot port 2) :=
  if_pos ⟨hkey, State.noEpochWaits_iff.mpr hnone⟩

theorem exec_epochLimit_of_not (h : s.keyed port = false ∨ ∃ f ∈ (s.hn port).wait, f.ctrl % 16 = 2) : exec (.epochLimit port) s = .next s := by
  refine if_neg fun ⟨hkey, hall⟩ => ?_
  rcases h with h | ⟨f, hf, he⟩
  · exact Bool.false_ne_true (h.symm.trans hkey)
  · exact State.noEpochWaits_iff.mp hall f hf he

/-! ## MP_RANGE_WRITE (R375) -/

/-- The entry as a write stores it. -/
def State.storeRange (s : State) (r : Nat) (e : RangeEntry) : State :=
  (s.wrs .MP_RANGE_BASE r [(.BASE, e.base), (.KEY_ID, e.key), (.VALID, bit e.valid)]).wr .MP_RANGE_SIZE r .PAGES e.pages

/-- The pages that leave the old entry's key ID. -/
def rangeLeaves (o e : RangeEntry) : List (Nat × Nat) :=
  if o.valid then (if o.valid && e.valid && o.key == e.key then minusRange o.base o.pages e.base e.pages else [(o.base, o.pages)]) else []

/-- The pages that the new entry's key ID gains. -/
def rangeEnters (o e : RangeEntry) : List (Nat × Nat) :=
  if e.valid then (if o.valid && e.valid && o.key == e.key then minusRange e.base e.pages o.base o.pages else [(e.base, e.pages)]) else []

variable {r : Nat} {w : RangeWrite}

theorem exec_mpRangeWrite_refused (h : s.reaches (rangeReg w) r = true)
    (hbad : (s.unhold (rangeReg w) r).rangeRefused r ((s.unhold (rangeReg w) r).rangeEntry r) (((s.unhold (rangeReg w) r).rangeEntry r).write w) = true) :
    exec (.mpRangeWrite r w) s = .next ((s.unhold (rangeReg w) r).wr .MP_KEY_CMD 0 .RESULT 2) := by
  show execMpRangeWrite r w s = _
  rw [execMpRangeWrite, State.asWrite_reached h]
  exact if_pos hbad

theorem exec_mpRangeWrite_stored (h : s.reaches (rangeReg w) r = true)
    (hok : (s.unhold (rangeReg w) r).rangeRefused r ((s.unhold (rangeReg w) r).rangeEntry r) (((s.unhold (rangeReg w) r).rangeEntry r).write w) = false) :
    let t := s.unhold (rangeReg w) r
    let o := t.rangeEntry r
    let e := o.write w
    exec (.mpRangeWrite r w) s =
      .next (((t.storeRange r e).leavePages o.key (rangeLeaves o e)).forEach (rangeEnters o e) fun u x => u.initPages x.1 x.2 e.key false) := by
  show execMpRangeWrite r w s = _
  rw [execMpRangeWrite, State.asWrite_reached h]
  exact if_neg (Bool.eq_false_iff.mp hok)

end

/-- Settles O26: each key command is the branch of its conditions, each range write the pages that leave and enter. -/
theorem keyCommandsTakeEffect : Obligations.KeyCommandsTakeEffect := by
  unfold Obligations.KeyCommandsTakeEffect
  intro s₀ k r base port blob w free taken idle ended hk
  refine ⟨fun h => ?_, fun hcmd => exec_keyBlobReadDone_of_error hcmd blob,
    fun hcmd hfree => exec_keyBlobReadDone_of_free hcmd (State.not_keyCamp hfree) blob, fun hroll hserved => ?_, fun h => ?_,
    exec_regionInitDone_of_served, exec_regionInitDone_of_waiting, exec_epochLimit_of_keyed, exec_epochLimit_of_not⟩
  · intro s s1
    have hi := exec_install_reached h hk
    have hr := exec_roll_reached h hk
    have hm := exec_remove_reached h hk
    have way {f : Nat → Bool} (hfree : free) := State.not_keyCamp (f := f) hfree
    refine ⟨fun hidle hfree => ?_, fun hidle htaken => ⟨?_, ?_, ?_⟩, fun hbusy => ⟨?_, ?_, ?_⟩, fun hidle hfree hinst => ?_,
      fun hidle hfree hinst => ⟨?_, ?_⟩, fun hidle hfree hinst => ?_⟩
    · exact hi.trans (congrArg _ ((if_neg hidle).trans (if_neg (way hfree))))
    · exact hi.trans (congrArg _ ((if_neg hidle).trans (if_pos (State.keyCamp_of_taken (fun _ _ => rfl) htaken))))
    · exact hr.trans (congrArg _ ((if_neg hidle).trans (if_pos (State.keyCamp_of_taken (by rintro n (rfl | rfl | rfl) <;> rfl) htaken))))
    · exact hm.trans (congrArg _ ((if_neg hidle).trans (if_pos (State.keyCamp_of_taken (fun _ _ => rfl) htaken))))
    · exact hi.trans (congrArg _ (if_pos (Decidable.not_not.mp hbusy)))
    · exact hr.trans (congrArg _ (if_pos (Decidable.not_not.mp hbusy)))
    · exact hm.trans (congrArg _ (if_pos (Decidable.not_not.mp hbusy)))
    · exact hr.trans (congrArg _ ((if_neg hidle).trans ((if_neg (way hfree)).trans (if_neg hinst))))
    · exact hr.trans (congrArg _ ((if_neg hidle).trans ((if_neg (way hfree)).trans (if_pos hinst))))
    · exact hm.trans (congrArg _ ((if_neg hidle).trans ((if_neg (way hfree)).trans (if_pos hinst))))
    · exact ⟨_, hm.trans (congrArg _ ((if_neg hidle).trans ((if_neg (way hfree)).trans (if_neg hinst)))), State.keyDone_shows _ 0⟩
  · refine ⟨_, exec_rollDone_of_clean hroll hserved, ?_, fun e => ?_, fun x => ?_, rfl⟩
    · exact (State.rd_wr_self ..).trans (Nat.zero_mod _)
    · show e ∈ s₀.keys.rolls.filter (fun e => e.1 != k) ↔ _
      simp [List.mem_filter]
    · show x ∈ s₀.deep.inits.filter (fun r => !(r.roll && r.key == k)) ↔ _
      cases hx : x.roll <;> simp [List.mem_filter, hx]
  · intro s o e stored
    refine ⟨exec_mpRangeWrite_refused h, fun hok ho he => ?_, fun hok ho he => ?_, fun hok ho he => ?_, fun hok ho he hkey => ?_,
      fun hok ho he hkey => ?_⟩ <;> refine (exec_mpRangeWrite_stored h hok).trans (congrArg _ ?_)
    · show ((s.storeRange r e).leavePages o.key (rangeLeaves o e)).forEach (rangeEnters o e) _ = _
      simp only [rangeLeaves, rangeEnters, ho, he]
      rfl
    · show ((s.storeRange r e).leavePages o.key (rangeLeaves o e)).forEach (rangeEnters o e) _ = _
      simp only [rangeLeaves, rangeEnters, ho, he]
      rfl
    · show ((s.storeRange r e).leavePages o.key (rangeLeaves o e)).forEach (rangeEnters o e) _ = _
      simp only [rangeLeaves, rangeEnters, ho, he]
      rfl
    · show ((s.storeRange r e).leavePages o.key (rangeLeaves o e)).forEach (rangeEnters o e) _ = _
      simp only [rangeLeaves, rangeEnters, ho, he, beq_eq_false_iff_ne.mpr hkey]
      rfl
    · show ((s.storeRange r e).leavePages o.key (rangeLeaves o e)).forEach (rangeEnters o e) _ = _
      simp only [rangeLeaves, rangeEnters, ho, he, beq_iff_eq.mpr hkey]
      rfl

end Sys2Proof.Machine
end

section
/-! The channel cores' arithmetic (O27), control flow (O28) and system instructions (O29). -/

namespace Sys2Proof.Machine

/-- A core that can issue: it runs `r` with no trap waiting, and the instruction at its PC is in its instruction cache inside an executable window. -/
structure State.CanIssue (s : State) (k : Nat) (r : Run) : Prop where
  running : s.pstate k = 0
  trapless : (s.core k).trapDue = none
  run : (s.core k).run = some r
  unstalled : s.rd .TR_CTRL 0 .STALL ≠ 1
  inside : (s.core k).pc < 2 ^ 38
  executable : r.allows (fun w => w.ex) (s.core k).pc 8 = true
  cached : ((s.core k).pc / 64, r.key) ∈ (s.core k).icache

/-- The core goes on at a PC, and the instruction counts. -/
def State.goesOn (u : State) (k pc : Nat) : State := (u.modCore k fun y => { y with pc := pc % 2 ^ 40 }).bump .CC_RETIRED k .COUNT 1

theorem Core.pendingReg_of_idle {x : Core} (h : x.mem = []) (r : Nat) : x.pendingReg r = false := by
  simp [Core.pendingReg, h]

section
variable {s : State} {k : Nat} {r : Run} (h : s.CanIssue k r)
include h

theorem State.CanIssue.go {form : Bool} (hform : form = true) {uses : List Nat} (hu : ∀ x ∈ uses, (s.core k).pendingReg x = false)
    {body : State → Run → Issue} {u : State} {pc : Nat} (hb : body (s.traceBoundary k) r = .go u pc) : s.issue k form uses body = u.goesOn k pc := by
  subst hform
  exact State.issue_go s k r uses body u pc h.running h.trapless h.run h.unstalled h.inside h.executable h.cached hu hb

theorem State.CanIssue.trap {form : Bool} (hform : form = true) (hmem : (s.core k).mem = []) {uses : List Nat} {body : State → Run → Issue} {e : Trap}
    (hb : body (s.traceBoundary k) r = .trap e) : s.issue k form uses body = (s.traceBoundary k).takeTrap k e :=
  State.issue_trap s k r form uses body e h.running h.trapless h.run h.unstalled h.inside h.executable h.cached hmem (.inr ⟨hform, hb⟩)

theorem State.CanIssue.illegal {form : Bool} (hform : form = false) (hmem : (s.core k).mem = []) {uses : List Nat} {body : State → Run → Issue} :
    s.issue k form uses body = (s.traceBoundary k).takeTrap k ⟨1, 0, 0, 0, (s.core k).pc⟩ :=
  State.issue_trap s k r form uses body _ h.running h.trapless h.run h.unstalled h.inside h.executable h.cached hmem (.inl ⟨hform, rfl⟩)

theorem State.CanIssue.left {form : Bool} (hform : form = true) (hmem : (s.core k).mem = []) {uses : List Nat} {body : State → Run → Issue} {u : State}
    (hb : body (s.traceBoundary k) r = .left u) : s.issue k form uses body = u.bump .CC_RETIRED k .COUNT 1 := by
  subst hform
  exact State.issue_left s k r uses body u h.running h.trapless h.run h.unstalled h.inside h.executable h.cached
    (fun x _ => Core.pendingReg_of_idle hmem x) hb

/-- With no access pending no register waits for one. -/
theorem State.CanIssue.idleGo {form : Bool} (hform : form = true) (hmem : (s.core k).mem = []) {uses : List Nat} {body : State → Run → Issue} {u : State}
    {pc : Nat} (hb : body (s.traceBoundary k) r = .go u pc) : s.issue k form uses body = u.goesOn k pc :=
  h.go hform (fun x _ => Core.pendingReg_of_idle hmem x) hb

end

/-! ## Arithmetic -/

theorem formT_iff {f : FmtT} : formT f = true ↔ f.zero = 0 ∧ f.cond = 0 := by simp [formT]

section
variable {s : State} {k : Nat} {r : Run} (h : s.CanIssue k r)
include h

/-- A register-to-register instruction writes its result. -/
theorem State.CanIssue.issueT {f : FmtT} (hform : f.zero = 0 ∧ f.cond = 0) (hd : (s.core k).pendingReg f.rd = false)
    (ha : (s.core k).pendingReg f.ra = false) (hb : (s.core k).pendingReg f.rb = false) (op : Word → Word → Word) :
    s.issueT k f op = ((s.traceBoundary k).setReg k f.rd
      (op (((s.traceBoundary k).core k).reg f.ra) (((s.traceBoundary k).core k).reg f.rb))).goesOn k (((s.traceBoundary k).core k).pc + 8) :=
  h.go (formT_iff.mpr hform) (by simp [hd, ha, hb]) rfl

theorem State.CanIssue.issueK {g : FmtK} (hd : (s.core k).pendingReg g.rd = false) (ha : (s.core k).pendingReg g.ra = false) (op : Word → BitVec 24 → Word) :
    s.issueK k g op = ((s.traceBoundary k).setReg k g.rd (op (((s.traceBoundary k).core k).reg g.ra) g.imm)).goesOn k
      (((s.traceBoundary k).core k).pc + 8) :=
  h.go rfl (by simp [hd, ha]) rfl

theorem State.CanIssue.illegalT {f : FmtT} (hform : ¬ (f.zero = 0 ∧ f.cond = 0)) (hmem : (s.core k).mem = []) (op : Word → Word → Word) :
    s.issueT k f op = (s.traceBoundary k).takeTrap k ⟨1, 0, 0, 0, (s.core k).pc⟩ :=
  h.illegal (Bool.eq_false_iff.mpr (mt formT_iff.mp hform)) hmem

end

/-- The shift amount of an immediate is the immediate's own. -/
theorem shiftAmount_zeroExtend (i : BitVec 24) : (i.zeroExtend 40).toNat = i.toNat :=
  BitVec.toNat_setWidth_of_le (by decide)

/-- C0 ignores writes. -/
theorem State.setReg_zero (t : State) (k : Nat) (v : Word) (j : Nat) : (t.setReg k 0 v).core j = t.core j := by
  by_cases hj : k = j
  · subst hj
    simp [State.setReg, Core.setReg]
  · simp [State.setReg, State.core_modCore_ne _ _ hj]

/-- The eight conditions of CMP in R413's own terms. -/
theorem condHolds_eq (c : Nat) (a b : Word) : condHolds c a b = match c with
    | 0 => a == b | 1 => a != b | 2 => decide (a.toInt < b.toInt) | 3 => decide (b.toInt ≤ a.toInt)
    | 4 => decide (a.toNat < b.toNat) | 5 => decide (b.toNat ≤ a.toNat) | 6 => a &&& b != 0 | _ => a &&& b == 0 := by
  match c with
  | 0 | 1 | 2 | 4 | 6 => rfl
  | 3 =>
    show (!decide (a.toInt < b.toInt)) = decide (b.toInt ≤ a.toInt)
    rw [← decide_not, decide_eq_decide, Int.not_lt]
  | 5 =>
    show (!decide (a.toNat < b.toNat)) = decide (b.toNat ≤ a.toNat)
    rw [← decide_not, decide_eq_decide, Nat.not_lt]
  | n + 7 => rfl

/-- Settles O27: every instruction of a format issues alike; its result is its operation on the operands. -/
theorem coreArithmeticResults : Obligations.CoreArithmeticResults := by
  unfold Obligations.CoreArithmeticResults
  intro s k r f g i v x t ready fetched goes a b ka one cond
  have issues (hr : ready) (hf : fetched) : s.CanIssue k r :=
    ⟨hr.1, hr.2.1, hr.2.2.1, hr.2.2.2, hf.1, hf.2.1, hf.2.2⟩
  refine ⟨fun hr hf hd ha hb hz hc hi => ?_, fun hr hf hd ha hb hz => ?_, fun hr hf hd ha hi => ?_, ⟨rfl, fun j => t.setReg_zero k v j⟩,
    fun hr hf hm hbad hi => ?_⟩
  · have hT (op : Word → Word → Word) : Host.Outcome.next (φ := Fault) (ρ := Refusal) (s.issueT k f op) = .next (goes f.rd (op a b)) :=
      congrArg _ ((issues hr hf).issueT ⟨hz, hc⟩ hd ha hb op)
    simp only [List.mem_cons, List.not_mem_nil, or_false, Prod.mk.injEq] at hi
    rcases hi with ⟨rfl, rfl⟩ | ⟨rfl, rfl⟩ | ⟨rfl, rfl⟩ | ⟨rfl, rfl⟩ | ⟨rfl, rfl⟩ | ⟨rfl, rfl⟩ | ⟨rfl, rfl⟩ | ⟨rfl, rfl⟩ | ⟨rfl, rfl⟩ | ⟨rfl, rfl⟩ <;>
      exact hT _
  · have hcond : condHolds f.cond a b = cond := (condHolds_eq f.cond a b).trans rfl
    refine (congrArg Host.Outcome.next ((issues hr hf).go (beq_iff_eq.mpr hz) (by simp [x, hd, ha, hb]) rfl)).trans ?_
    show Host.Outcome.next (State.goesOn (t.setReg k f.rd (flagWord (condHolds f.cond a b))) k ((t.core k).pc + 8)) = _
    rw [hcond]
    rfl
  · have hK (op : Word → BitVec 24 → Word) : Host.Outcome.next (φ := Fault) (ρ := Refusal) (s.issueK k g op) = .next (goes g.rd (op ka g.imm)) :=
      congrArg _ ((issues hr hf).issueK hd ha op)
    have hshift := shiftAmount_zeroExtend g.imm
    simp only [List.mem_cons, List.not_mem_nil, or_false, Prod.mk.injEq] at hi
    rcases hi with ⟨rfl, rfl⟩ | ⟨rfl, rfl⟩ | ⟨rfl, rfl⟩ | ⟨rfl, rfl⟩ | ⟨rfl, rfl⟩ | ⟨rfl, rfl⟩ | ⟨rfl, rfl⟩ | ⟨rfl, rfl⟩ | ⟨rfl, rfl⟩ | ⟨rfl, rfl⟩ <;>
      refine (hK _).trans ?_
    · rfl
    · rfl
    · rfl
    · rfl
    · rw [shlOf, hshift]
    · rw [shrOf, hshift]
    · rw [sarOf, hshift]
    · rfl
    · rfl
    · rfl
  · have hT (op : Word → Word → Word) :
        Host.Outcome.next (φ := Fault) (ρ := Refusal) (s.issueT k f op) = .next (t.takeTrap k ⟨1, 0, 0, 0, x.pc⟩) :=
      congrArg _ ((issues hr hf).illegalT hbad hm op)
    simp only [List.mem_cons, List.not_mem_nil, or_false] at hi
    rcases hi with rfl | rfl | rfl | rfl | rfl | rfl | rfl | rfl | rfl | rfl <;> exact hT _

end Sys2Proof.Machine
end

section
/-! The channel cores' control flow (O28) and system instructions (O29). -/

namespace Sys2Proof.Machine

/-! ## Control flow -/

section
variable {s : State} {k : Nat} {r : Run} (h : s.CanIssue k r) (hmem : (s.core k).mem = [])
include h hmem

theorem exec_call_of_form {p : FmtP} (hp : p.rb = 0) :
    let t := s.traceBoundary k
    let pc := (t.core k).pc
    exec (.call k p) s =
      .next (((t.traceBranch k 1 (targetOf pc p.ofs)).setReg k p.ra (BitVec.ofNat 40 (pc + 8))).goesOn k (targetOf pc p.ofs)) :=
  congrArg Host.Outcome.next (h.idleGo (beq_iff_eq.mpr hp) hmem rfl)

theorem exec_callr_eq {g : FmtK} :
    let t := s.traceBoundary k
    let ea := ((t.core k).reg g.ra + g.imm.signExtend 40).toNat / 8 * 8
    exec (.callr k g) s = .next (((t.traceBranch k 2 ea).setReg k g.rd (BitVec.ofNat 40 ((t.core k).pc + 8))).goesOn k ea) :=
  congrArg Host.Outcome.next (h.idleGo rfl hmem rfl)

theorem exec_gate_of_form {g : FmtK} (hd : g.rd = 0) (ha : g.ra = 0) (hi : g.imm.toNat < 256) :
    let t := s.traceBoundary k
    exec (.gate k g) s = .next (t.takeTrap k ⟨7, 0, g.imm.toNat, 0, (t.core k).pc + 8⟩) := by
  refine congrArg Host.Outcome.next (h.trap ?_ hmem ?_)
  · simp [hd, ha, Nat.div_eq_of_lt hi]
  · rw [Nat.mod_eq_of_lt hi]

theorem exec_gate_of_bad_form {g : FmtK} (hbad : ¬ (g.rd = 0 ∧ g.ra = 0 ∧ g.imm.toNat < 256)) :
    exec (.gate k g) s = .next ((s.traceBoundary k).takeTrap k ⟨1, 0, 0, 0, (s.core k).pc⟩) := by
  refine congrArg Host.Outcome.next (h.illegal (Bool.eq_false_iff.mpr fun hf => hbad ?_) hmem)
  simpa [and_assoc, Nat.div_eq_zero_iff] using hf

theorem exec_order_of_form {g : FmtK} (hd : g.rd = 0) (ha : g.ra = 0) (hi : g.imm.toNat < 8) (hdone : ((s.traceBoundary k).core k).mem = []) :
    exec (.order k g) s = .next ((s.traceBoundary k).goesOn k (((s.traceBoundary k).core k).pc + 8)) := by
  refine congrArg Host.Outcome.next (h.idleGo ?_ hmem ?_)
  · simp [hd, ha, Nat.div_eq_of_lt hi]
  · rw [hdone]
    rfl

theorem exec_order_of_bad_form {g : FmtK} (hbad : ¬ (g.rd = 0 ∧ g.ra = 0 ∧ g.imm.toNat < 8)) :
    exec (.order k g) s = .next ((s.traceBoundary k).takeTrap k ⟨1, 0, 0, 0, (s.core k).pc⟩) := by
  refine congrArg Host.Outcome.next (h.illegal (Bool.eq_false_iff.mpr fun hf => hbad ?_) hmem)
  simpa [and_assoc, Nat.div_eq_zero_iff] using hf

theorem exec_call_of_bad_form {p : FmtP} (hbad : p.rb ≠ 0) :
    exec (.call k p) s = .next ((s.traceBoundary k).takeTrap k ⟨1, 0, 0, 0, (s.core k).pc⟩) :=
  congrArg Host.Outcome.next (h.illegal (beq_eq_false_iff_ne.mpr hbad) hmem)

theorem exec_codesync_of_form {f : FmtT} (hf : f.zero = 0 ∧ f.cond = 0) (hd : f.rd = 0) (ha : f.ra = 0) (hb : f.rb = 0)
    (hdone : ((s.traceBoundary k).core k).mem = []) :
    let t := s.traceBoundary k
    exec (.codesync k f) s = .next ((t.modCore k fun y => { y with icache := [] }).goesOn k ((t.core k).pc + 8)) := by
  refine congrArg Host.Outcome.next (h.idleGo ?_ hmem ?_)
  · simp [formT_iff.mpr hf, hd, ha, hb]
  · rw [hdone]
    rfl

theorem exec_codesync_of_bad_form {f : FmtT} (hbad : ¬ (f.zero = 0 ∧ f.cond = 0 ∧ f.rd = 0 ∧ f.ra = 0 ∧ f.rb = 0)) :
    exec (.codesync k f) s = .next ((s.traceBoundary k).takeTrap k ⟨1, 0, 0, 0, (s.core k).pc⟩) := by
  refine congrArg Host.Outcome.next (h.illegal (Bool.eq_false_iff.mpr fun hf => hbad ?_) hmem)
  simpa [and_assoc, formT_iff] using hf

/-- A branch goes to its target where its condition holds, and on to the next instruction where not. -/
theorem State.CanIssue.issueBr (c : Nat) (p : FmtP) :
    let t := s.traceBoundary k
    let pc := (t.core k).pc
    s.issueBr k c p = if condHolds c ((t.core k).reg p.ra) ((t.core k).reg p.rb) = true then (t.traceBranch k 0 (targetOf pc p.ofs)).goesOn k (targetOf pc p.ofs)
      else (t.traceNotTaken k).goesOn k (pc + 8) := by
  intro t pc
  split
  next hc => exact h.idleGo rfl hmem (if_pos hc)
  next hc => exact h.idleGo rfl hmem (if_neg hc)

end

/-- Settles O28: each instruction is issued, and goes on at its target or traps for its form. -/
theorem coreControlFlowResults : Obligations.CoreControlFlowResults := by
  unfold Obligations.CoreControlFlowResults
  intro s k r f g p i c x t ready fetched on pc link target ea illegal hr hf
  have h : s.CanIssue k r := ⟨hr.1, hr.2.1, hr.2.2.1, hr.2.2.2.1, hf.1, hf.2.1, hf.2.2⟩
  have hm : (s.core k).mem = [] := hr.2.2.2.2
  refine ⟨exec_call_of_form h hm, exec_callr_eq h hm, exec_gate_of_form h hm, fun hz hc hd ha hb hdone => exec_codesync_of_form h hm ⟨hz, hc⟩ hd ha hb hdone,
    exec_order_of_form h hm, exec_call_of_bad_form h hm, exec_gate_of_bad_form h hm, exec_order_of_bad_form h hm, exec_codesync_of_bad_form h hm,
    fun hi => ?_⟩
  have hB (n : Nat) := congrArg (Host.Outcome.next (φ := Fault) (ρ := Refusal)) (h.issueBr hm n p)
  simp only [List.mem_cons, List.not_mem_nil, or_false, Prod.mk.injEq] at hi
  rcases hi with ⟨rfl, rfl⟩ | ⟨rfl, rfl⟩ | ⟨rfl, rfl⟩ | ⟨rfl, rfl⟩ | ⟨rfl, rfl⟩ | ⟨rfl, rfl⟩ | ⟨rfl, rfl⟩ | ⟨rfl, rfl⟩ <;> exact hB _

/-! ## System instructions -/

theorem formQ_iff {g : FmtQ} : formQ g = true ↔ g.zero = 0 ∧ g.cw < 8 := by simp [formQ]

section
variable {s : State} {k : Nat} {r : Run} {frozen : Nat} (h : s.CanIssue k r) (hmem : (s.core k).mem = []) (hdone : ((s.traceBoundary k).core k).mem = [])
include h hmem

/-- A CTL instruction at level 0 has the effect of its own. -/
theorem State.CanIssue.ctl {g : FmtQ} (hform : g.zero = 0 ∧ g.cw < 8) (hpl : r.pl = 0) {uses : List Nat} {effect : State → Run → Issue} {u : State} {pc : Nat}
    (hb : effect (s.traceBoundary k) r = .go u pc) :
    s.issue k (formQ g) uses (fun t r => privOr r (t.core k).pc (effect t r)) = u.goesOn k pc :=
  h.idleGo (formQ_iff.mpr hform) hmem ((if_pos hpl).trans hb)

/-- Outside level 0 it traps with PRIV, whatever its effect. -/
theorem State.CanIssue.ctl_trap {g : FmtQ} (hform : g.zero = 0 ∧ g.cw < 8) (hpl : r.pl ≠ 0) {uses : List Nat} {effect : State → Run → Issue} :
    s.issue k (formQ g) uses (fun t r => privOr r (t.core k).pc (effect t r)) =
      (s.traceBoundary k).takeTrap k ⟨2, 0, 0, 0, ((s.traceBoundary k).core k).pc⟩ :=
  h.trap (formQ_iff.mpr hform) hmem (if_neg hpl)

theorem State.CanIssue.ctl_illegal {g : FmtQ} (hform : g.zero ≠ 0 ∨ 8 ≤ g.cw) {uses : List Nat} {effect : State → Run → Issue} :
    s.issue k (formQ g) uses (fun t r => privOr r (t.core k).pc (effect t r)) = (s.traceBoundary k).takeTrap k ⟨1, 0, 0, 0, (s.core k).pc⟩ :=
  h.illegal (Bool.eq_false_iff.mpr fun hf => by have := formQ_iff.mp hf; omega) hmem

omit h hmem in
/-- The four CTL instructions trap alike. -/
theorem exec_ctl_traps {g : FmtQ} {e : Trap} (i : Instr)
    (hall : ∀ (uses : List Nat) (effect : State → Run → Issue),
      s.issue k (formQ g) uses (fun t r => privOr r (t.core k).pc (effect t r)) = (s.traceBoundary k).takeTrap k e)
    (hi : i ∈ [.rdcw k g, .wrcw k g, .back k g, .doze k g]) : exec i s = .next ((s.traceBoundary k).takeTrap k e) := by
  simp only [List.mem_cons, List.not_mem_nil, or_false] at hi
  rcases hi with rfl | rfl | rfl | rfl <;> exact congrArg Host.Outcome.next (hall _ _)

theorem exec_wrcw_keep {g : FmtQ} (hpl : r.pl = 0) (hz : g.zero = 0) (hcw : g.cw = 6) :
    let t := s.traceBoundary k
    exec (.wrcw k g) s = .next ((t.modCore k fun y => { y with keep := (t.core k).reg g.ra }).goesOn k ((t.core k).pc + 8)) := by
  refine congrArg Host.Outcome.next (h.ctl hmem ⟨hz, by omega⟩ hpl ?_)
  simp only [hcw]

theorem exec_wrcw_handler {g : FmtQ} (hpl : r.pl = 0) (hz : g.zero = 0) (hcw : g.cw = 4) :
    let t := s.traceBoundary k
    exec (.wrcw k g) s = .next ((t.modCore k fun y => { y with handler := ((t.core k).reg g.ra).toNat / 8 * 8 }).goesOn k ((t.core k).pc + 8)) := by
  refine congrArg Host.Outcome.next (h.ctl hmem ⟨hz, by omega⟩ hpl ?_)
  simp only [hcw]

theorem exec_evset_of_may {f : FmtT} (hform : f.zero = 0 ∧ f.cond = 0)
    (hmay : r.pl = 0 ∨ ((s.traceBoundary k).task ((((s.traceBoundary k).core k).reg f.ra).toNat % 4096)).dom = r.dom) :
    let t := s.traceBoundary k
    exec (.evset k f) s = .next (((t.setFlags (((t.core k).reg f.ra).toNat % 4096) ((t.core k).reg f.rb)).setReg k f.rd 0).goesOn k ((t.core k).pc + 8)) :=
  congrArg Host.Outcome.next (h.idleGo (formT_iff.mpr hform) hmem (if_neg fun hc => hmay.elim hc.1 hc.2))

theorem exec_evset_refused {f : FmtT} (hform : f.zero = 0 ∧ f.cond = 0) (hpl : r.pl ≠ 0)
    (hdom : ((s.traceBoundary k).task ((((s.traceBoundary k).core k).reg f.ra).toNat % 4096)).dom ≠ r.dom) :
    let t := s.traceBoundary k
    exec (.evset k f) s = .next ((t.setReg k f.rd 2).goesOn k ((t.core k).pc + 8)) :=
  congrArg Host.Outcome.next (h.idleGo (formT_iff.mpr hform) hmem (if_pos ⟨hpl, hdom⟩))

theorem exec_cwait_of_met {f : FmtT} (hform : f.zero = 0 ∧ f.cond = 0) (hd : f.rd = 0) (hb : f.rb = 0)
    (hmet : ((s.traceBoundary k).task r.task).flags &&& ((s.traceBoundary k).core k).reg f.ra = ((s.traceBoundary k).core k).reg f.ra) :
    let t := s.traceBoundary k
    exec (.cwait k f frozen) s =
      .next ((t.modTask r.task fun y => { y with flags := y.flags &&& ~~~(t.core k).reg f.ra }).goesOn k ((t.core k).pc + 8)) :=
  congrArg Host.Outcome.next (h.idleGo (by simp [formT_iff.mpr hform, hd, hb]) hmem (if_pos hmet))

include hdone

omit h hmem in
/-- A task that leaves its core without ending is made ready, or waits with its mask. -/
theorem State.leave_of_saved (mask : Option Word) (hcancel : ((s.traceBoundary k).task r.task).pendCancel = false)
    (hctx : ((s.traceBoundary k).yieldCtx k r (((s.traceBoundary k).core k).pc + 8)).1 = none) :
    let t := s.traceBoundary k
    let w := (t.yieldCtx k r ((t.core k).pc + 8)).2
    t.leave k r mask frozen = .left (match mask with
      | none => ((w.traceEnd k 0).freeCore k).makeReady r.task
      | some m => (((w.traceEnd k 3).freeCore k).modTask r.task fun x => { x with state := 1, mask := m }).judge r.task) := by
  intro t w
  simp only [State.leave, t, hdone, List.isEmpty_nil, if_true, hcancel, Bool.false_eq_true, if_false, hctx]
  cases mask <;> rfl

theorem exec_cwait_of_unmet {f : FmtT} (hform : f.zero = 0 ∧ f.cond = 0) (hd : f.rd = 0) (hb : f.rb = 0)
    (hunmet : ((s.traceBoundary k).task r.task).flags &&& ((s.traceBoundary k).core k).reg f.ra ≠ ((s.traceBoundary k).core k).reg f.ra)
    (hcancel : ((s.traceBoundary k).task r.task).pendCancel = false)
    (hctx : ((s.traceBoundary k).yieldCtx k r (((s.traceBoundary k).core k).pc + 8)).1 = none) :
    let t := s.traceBoundary k
    exec (.cwait k f frozen) s = .next ((((((t.yieldCtx k r ((t.core k).pc + 8)).2.traceEnd k 3).freeCore k).modTask r.task
      fun y => { y with state := 1, mask := (t.core k).reg f.ra }).judge r.task).bump .CC_RETIRED k .COUNT 1) :=
  congrArg Host.Outcome.next (h.left (by simp [formT_iff.mpr hform, hd, hb]) hmem
    ((if_neg hunmet).trans (State.leave_of_saved hdone (some _) hcancel hctx)))

theorem exec_yield_of_saved {f : FmtT} (hform : f.zero = 0 ∧ f.cond = 0) (hd : f.rd = 0) (ha : f.ra = 0) (hb : f.rb = 0)
    (hcancel : ((s.traceBoundary k).task r.task).pendCancel = false)
    (hctx : ((s.traceBoundary k).yieldCtx k r (((s.traceBoundary k).core k).pc + 8)).1 = none) :
    let t := s.traceBoundary k
    exec (.yield k f frozen) s =
      .next (((((t.yieldCtx k r ((t.core k).pc + 8)).2.traceEnd k 0).freeCore k).makeReady r.task).bump .CC_RETIRED k .COUNT 1) :=
  congrArg Host.Outcome.next (h.left (by simp [formT_iff.mpr hform, hd, ha, hb]) hmem (State.leave_of_saved hdone none hcancel hctx))

theorem exec_done_of_plain {f : FmtT} (hform : f.zero = 0 ∧ f.cond = 0) (hd : f.rd = 0) (ha : f.ra = 0) (hb : f.rb = 0)
    (hcancel : ((s.traceBoundary k).task r.task).pendCancel = false) (htrap : ((s.traceBoundary k).core k).trapped = none) :
    exec (.done k f frozen) s =
      .next (((((s.traceBoundary k).traceEnd k 1).freeCore k).endTask r.task false 0 frozen).bump .CC_RETIRED k .COUNT 1) := by
  refine congrArg Host.Outcome.next (h.left (by simp [formT_iff.mpr hform, hd, ha, hb]) hmem ?_)
  simp only [hdone, List.isEmpty_nil, if_true, hcancel, Bool.false_eq_true, if_false, htrap]

theorem exec_done_of_cancelled {f : FmtT} (hform : f.zero = 0 ∧ f.cond = 0) (hd : f.rd = 0) (ha : f.ra = 0) (hb : f.rb = 0)
    (hcancel : ((s.traceBoundary k).task r.task).pendCancel = true) :
    exec (.done k f frozen) s =
      .next (((((s.traceBoundary k).traceEnd k 2).freeCore k).endTask r.task true 0xF frozen).bump .CC_RETIRED k .COUNT 1) := by
  refine congrArg Host.Outcome.next (h.left (by simp [formT_iff.mpr hform, hd, ha, hb]) hmem ?_)
  simp only [hdone, List.isEmpty_nil, if_true, hcancel]

theorem exec_back_of_level1 {g : FmtQ} {q : Run} {e : Trap} (hpl : r.pl = 0) (hz : g.zero = 0) (hcw : g.cw < 8)
    (htrap : ((s.traceBoundary k).core k).trapped = some (q, e, true)) (hq : q.pl = 1) :
    let t := s.traceBoundary k
    exec (.back k g) s =
      .next ((((t.traceBranch k 3 (t.core k).trapPc).modCore k fun y => { y with run := some q, trapped := none }).showRun k).goesOn k (t.core k).trapPc) := by
  refine congrArg Host.Outcome.next (h.ctl hmem ⟨hz, hcw⟩ hpl ?_)
  have hnot : ¬ q.pl = 2 := by omega
  simp only [hdone, List.isEmpty_nil, if_true, State.back, htrap, if_neg hnot]

end

/-- Settles O29: the CTL instructions act at level 0 alone, and the task instructions as their flags and masks say. -/
theorem coreSystemInstructionResults : Obligations.CoreSystemInstructionResults := by
  unfold Obligations.CoreSystemInstructionResults
  intro s k r q f g e i frozen x t ready fetched on pc plain m tgt ended hr hf
  obtain ⟨hrun, htrap, hres, hstall, hm, hdone⟩ := hr
  have h : s.CanIssue k r := ⟨hrun, htrap, hres, hstall, hf.1, hf.2.1, hf.2.2⟩
  exact ⟨fun hpl hz hcw => congrArg Host.Outcome.next (h.ctl hm ⟨hz, hcw⟩ hpl rfl), exec_wrcw_keep h hm, exec_wrcw_handler h hm,
    exec_back_of_level1 h hm hdone, fun hpl hz hcw => congrArg Host.Outcome.next (h.ctl hm ⟨hz, hcw⟩ hpl rfl),
    fun hpl hz hcw => exec_ctl_traps i fun _ _ => h.ctl_trap hm ⟨hz, hcw⟩ hpl, fun hbad => exec_ctl_traps i fun _ _ => h.ctl_illegal hm hbad,
    exec_evset_of_may h hm, exec_evset_refused h hm, exec_cwait_of_met h hm, exec_cwait_of_unmet h hm hdone, exec_yield_of_saved h hm hdone,
    exec_done_of_plain h hm hdone, exec_done_of_cancelled h hm hdone⟩

end Sys2Proof.Machine
end

section
/-! The channel cores' memory instructions (O30), their completion, and channel records (O31). -/

namespace Sys2Proof.Machine

/-- The checks of an access before it is made: alignment, then space and windows. -/
theorem Run.accessTrap_of_inside {r : Run} {perm : Win → Bool} {a n pc : Nat} (h : a % n = 0 ∧ a < 2 ^ 38 ∧ r.allows perm a n = true) :
    r.accessTrap perm a n pc = none := by
  obtain ⟨halign, hspace, hwin⟩ := h
  rw [Run.accessTrap, if_neg (not_not_intro halign), Run.spaceTrap, if_neg]
  rintro (hc | hc)
  · omega
  · exact Bool.false_ne_true (hc.symm.trans hwin)

theorem Run.accessTrap_of_misaligned {r : Run} {perm : Win → Bool} {a n pc : Nat} (h : a % n ≠ 0) :
    r.accessTrap perm a n pc = some ⟨3, 0, 0, a, pc⟩ := if_pos h

theorem Run.accessTrap_of_outside {r : Run} {perm : Win → Bool} {a n pc : Nat} (h : a % n = 0) (hout : 2 ^ 38 ≤ a ∨ r.allows perm a n = false) :
    r.accessTrap perm a n pc = some ⟨4, 0, 0, a, pc⟩ := (if_neg (not_not_intro h)).trans (if_pos hout)

theorem Core.touches_of_idle {x : Core} (h : x.mem = []) (a n : Nat) : x.touches a n = false := by
  simp [Core.touches, h]

theorem State.CanIssue.issuing {s : State} {k : Nat} {r : Run} (h : s.CanIssue k r) : s.issuing k = some r :=
  (if_pos ⟨h.running, h.trapless⟩).trans h.run

section
variable {s : State} {k : Nat} {r : Run} (h : s.CanIssue k r) (hmem : (s.core k).mem = [])
include h hmem

/-- A load inside a readable window hits its cached line, or leaves for memory. -/
theorem State.CanIssue.loadMem_inside {g : FmtK} {n : Nat} (hdone : ((s.traceBoundary k).core k).mem = [])
    (hin : (s.traceBoundary k).coreEa k g % n = 0 ∧ (s.traceBoundary k).coreEa k g < 2 ^ 38 ∧
      r.allows (fun w => w.rd) ((s.traceBoundary k).coreEa k g) n = true) :
    let t := s.traceBoundary k
    let a := t.coreEa k g
    let u := t.traceData k false false a n 0
    let pc := (t.core k).pc
    s.loadMem k n g = if (t.core k).hits a r.key = true then (u.setReg k g.rd (loadValue (t.deepRead a n))).goesOn k (pc + 8)
      else (u.sendMem k ⟨0, a, n, g.rd, 0, pc, r.key⟩).goesOn k (pc + 8) := by
  intro t a u pc
  split
  next hc =>
    refine h.idleGo rfl hmem ?_
    simp only [Run.accessTrap_of_inside hin, Core.touches_of_idle hdone, Bool.false_eq_true, if_false]
    exact if_pos hc
  next hc =>
    refine h.idleGo rfl hmem ?_
    simp only [Run.accessTrap_of_inside hin, Core.touches_of_idle hdone, Bool.false_eq_true, if_false]
    exact if_neg hc

/-- A store inside a writable window writes its cached line, or leaves for memory. -/
theorem State.CanIssue.storeMem_inside {g : FmtK} {n : Nat} (hdone : ((s.traceBoundary k).core k).mem = [])
    (hin : (s.traceBoundary k).coreEa k g % n = 0 ∧ (s.traceBoundary k).coreEa k g < 2 ^ 38 ∧
      r.allows (fun w => w.wr) ((s.traceBoundary k).coreEa k g) n = true) :
    let t := s.traceBoundary k
    let a := t.coreEa k g
    let v := (t.core k).reg g.rd
    let u := t.traceData k true false a n v
    let pc := (t.core k).pc
    s.storeMem k n g = if (t.core k).hits a r.key = true then (u.storeHit k a (storeBytesOf n v)).goesOn k (pc + 8)
      else (u.sendMem k ⟨1, a, n, g.rd, v, pc, r.key⟩).goesOn k (pc + 8) := by
  intro t a v u pc
  split
  next hc =>
    refine h.idleGo rfl hmem ?_
    simp only [Run.accessTrap_of_inside hin, Core.touches_of_idle hdone, Bool.false_eq_true, if_false]
    exact if_pos hc
  next hc =>
    refine h.idleGo rfl hmem ?_
    simp only [Run.accessTrap_of_inside hin, Core.touches_of_idle hdone, Bool.false_eq_true, if_false]
    exact if_neg hc

/-- An atomic inside a writable window leaves for memory. -/
theorem State.CanIssue.atomic_inside {f : FmtT} (kind : Nat) (hform : f.zero = 0 ∧ f.cond = 0) (hdone : ((s.traceBoundary k).core k).mem = [])
    (hin : (((s.traceBoundary k).core k).reg f.ra).toNat % 8 = 0 ∧ (((s.traceBoundary k).core k).reg f.ra).toNat < 2 ^ 38 ∧
      r.allows (fun w => w.wr) (((s.traceBoundary k).core k).reg f.ra).toNat 8 = true) :
    let t := s.traceBoundary k
    let pc := (t.core k).pc
    s.atomic k kind f = (t.sendMem k ⟨kind, ((t.core k).reg f.ra).toNat, 8, f.rd, (t.core k).reg f.rb, pc, r.key⟩).goesOn k (pc + 8) := by
  intro t pc
  refine h.idleGo (formT_iff.mpr hform) hmem ?_
  simp only [Run.accessTrap_of_inside hin, Core.touches_of_idle hdone, Bool.false_eq_true, if_false, t, pc]

theorem State.CanIssue.loadMem_trap {g : FmtK} {n : Nat} {e : Trap}
    (he : r.accessTrap (fun w => w.rd) ((s.traceBoundary k).coreEa k g) n ((s.traceBoundary k).core k).pc = some e) :
    s.loadMem k n g = (s.traceBoundary k).takeTrap k e := by
  refine h.trap rfl hmem ?_
  simp only [he]

theorem State.CanIssue.storeMem_trap {g : FmtK} {n : Nat} {e : Trap}
    (he : r.accessTrap (fun w => w.wr) ((s.traceBoundary k).coreEa k g) n ((s.traceBoundary k).core k).pc = some e) :
    s.storeMem k n g = (s.traceBoundary k).takeTrap k e := by
  refine h.trap rfl hmem ?_
  simp only [he]

omit h hmem in
theorem not_localSpace {g : FmtK} (hdeep : r.pl ≠ 0 ∨ s.coreEa k g / 2 ^ 38 ≠ 1) : ¬ (r.pl = 0 ∧ localSpace (s.coreEa k g) = true) := by
  rintro ⟨hpl, hl⟩
  exact hdeep.elim (· hpl) (· (beq_iff_eq.mp hl))

omit hmem

theorem exec_lds_of_deep {g : FmtK} (hdeep : r.pl ≠ 0 ∨ s.coreEa k g / 2 ^ 38 ≠ 1) : exec (.lds k g) s = .next (s.loadMem k 8 g) := by
  show execLds k g s = _
  simp only [execLds, h.issuing, if_neg (not_localSpace hdeep)]

theorem exec_sts_of_deep {g : FmtK} {obs : WriteObs} (hdeep : r.pl ≠ 0 ∨ s.coreEa k g / 2 ^ 38 ≠ 1) :
    exec (.sts k g obs) s = .next (s.storeMem k 8 g) := by
  show execSts k g obs s = _
  simp only [execSts, h.issuing, if_neg (not_localSpace hdeep)]

/-- The loads of the four sizes, in deep memory. -/
theorem exec_load_of_deep {g : FmtK} {i : Instr} {n : Nat} (hdeep : r.pl ≠ 0 ∨ s.coreEa k g / 2 ^ 38 ≠ 1)
    (hi : (i, n) ∈ [(Instr.ld8 k g, 1), (.ld16 k g, 2), (.ld32 k g, 4), (.lds k g, 8)]) : exec i s = .next (s.loadMem k n g) := by
  simp only [List.mem_cons, List.not_mem_nil, or_false, Prod.mk.injEq] at hi
  rcases hi with ⟨rfl, rfl⟩ | ⟨rfl, rfl⟩ | ⟨rfl, rfl⟩ | ⟨rfl, rfl⟩
  · rfl
  · rfl
  · rfl
  · exact exec_lds_of_deep h hdeep

theorem exec_store_of_deep {g : FmtK} {obs : WriteObs} {i : Instr} {n : Nat} (hdeep : r.pl ≠ 0 ∨ s.coreEa k g / 2 ^ 38 ≠ 1)
    (hi : (i, n) ∈ [(Instr.st8 k g, 1), (.st16 k g, 2), (.st32 k g, 4), (.sts k g obs, 8)]) : exec i s = .next (s.storeMem k n g) := by
  simp only [List.mem_cons, List.not_mem_nil, or_false, Prod.mk.injEq] at hi
  rcases hi with ⟨rfl, rfl⟩ | ⟨rfl, rfl⟩ | ⟨rfl, rfl⟩ | ⟨rfl, rfl⟩
  · rfl
  · rfl
  · rfl
  · exact exec_sts_of_deep h hdeep

end

/-- Settles O30: the loads and stores of every size make one access, which hits, leaves for memory, or traps. -/
theorem coreMemoryInstructionResults : Obligations.CoreMemoryInstructionResults := by
  unfold Obligations.CoreMemoryInstructionResults
  intro s k r f g obs i n x t ready fetched on pc ea aa deep sent hit inside loads stores hr hf hd
  obtain ⟨hrun, htrap, hres, hstall, hm, hdone⟩ := hr
  have h : s.CanIssue k r := ⟨hrun, htrap, hres, hstall, hf.1, hf.2.1, hf.2.2⟩
  refine ⟨fun hi hin => ?_, fun hi hin => ?_, fun hz hc hin => ⟨?_, ?_⟩, fun hi hbad => ?_, fun hi ha hout => ?_, fun hi ha hout => ?_⟩
  · rw [exec_load_of_deep h hd hi]
    exact congrArg _ (h.loadMem_inside hm hdone hin)
  · rw [exec_store_of_deep h hd hi]
    exact congrArg _ (h.storeMem_inside hm hdone hin)
  · exact congrArg Host.Outcome.next (h.atomic_inside hm 2 ⟨hz, hc⟩ hdone hin)
  · exact congrArg Host.Outcome.next (h.atomic_inside hm 3 ⟨hz, hc⟩ hdone hin)
  · rcases List.mem_append.mp hi with hi | hi
    · rw [exec_load_of_deep h hd hi]
      exact congrArg _ (h.loadMem_trap hm (Run.accessTrap_of_misaligned hbad))
    · rw [exec_store_of_deep h hd hi]
      exact congrArg _ (h.storeMem_trap hm (Run.accessTrap_of_misaligned hbad))
  · rw [exec_load_of_deep h hd hi]
    exact congrArg _ (h.loadMem_trap hm (Run.accessTrap_of_outside ha hout))
  · rw [exec_store_of_deep h hd hi]
    exact congrArg _ (h.storeMem_trap hm (Run.accessTrap_of_outside ha hout))

/-! ## Completion from memory -/

section
variable {s : State} {k n v : Nat} {obs : DeepObs} {mo : MemOp}

theorem exec_ccMemoryResponse_of_none (h : (s.core k).mem[n]? = none) : exec (.ccMemoryResponse k n v obs) s = .next s := by
  show execCcMemoryResponse k n v obs s = _
  simp only [execCcMemoryResponse, h]

/-- What a completed access leaves, by its kind: a load brings its line in, an atomic writes its register and shows its write. -/
def State.completed (s1 : State) (k v : Nat) (mo : MemOp) (val : Word) : State :=
  match mo.kind with
  | 0 => (s1.setReg k mo.rd val).fillLine k mo.ea mo.key v
  | 1 => s1
  | 2 => (s1.setReg k mo.rd val).traceData k true true mo.ea 8 mo.data
  | _ => (s1.setReg k mo.rd val).traceData k true true mo.ea 8 (val + mo.data)

theorem State.completed_eq (s1 : State) (k v : Nat) (mo : MemOp) (val : Word) :
    (match mo.kind with
      | 0 => (if mo.kind = 1 then s1 else s1.setReg k mo.rd val).fillLine k mo.ea mo.key v
      | 1 => if mo.kind = 1 then s1 else s1.setReg k mo.rd val
      | 2 => (if mo.kind = 1 then s1 else s1.setReg k mo.rd val).traceData k true true mo.ea 8 mo.data
      | _ => (if mo.kind = 1 then s1 else s1.setReg k mo.rd val).traceData k true true mo.ea 8 (val + mo.data)) = s1.completed k v mo val := by
  unfold State.completed
  match mo.kind with
  | 0 | 1 | 2 => rfl
  | j + 3 => rfl

theorem exec_ccMemoryResponse_of_served (h : (s.core k).mem[n]? = some mo) (hw : s.memWaits k n mo obs = false) :
    let w := s.serveMem k mo obs
    let s1 := w.2.modCore k fun y => { y with mem := y.mem.eraseIdx n }
    exec (.ccMemoryResponse k n v obs) s = .next (match w.1.cause with
      | some c => (s1.modCore k fun y => { y with trapDue := some (y.trapDue.getD ⟨5, c, 0, mo.ea, mo.pc⟩) }).trapIfDue k
      | none => (s1.completed k v mo (loadValue w.1.bytes)).trapIfDue k) := by
  intro w s1
  show execCcMemoryResponse k n v obs s = _
  simp only [execCcMemoryResponse, h, hw, Bool.false_eq_true, if_false, w, s1]
  cases (s.serveMem k mo obs).1.cause with
  | some c => rfl
  | none => exact congrArg (fun u => Host.Outcome.next (State.trapIfDue u k)) (State.completed_eq _ k v mo _)

end

/-! ## Channel records -/

/-- A channel instruction ends with its status in RD. -/
def State.statusOn (u : State) (k : Nat) (f : FmtT) (pc e : Nat) : State := (u.setReg k f.rd (BitVec.ofNat 40 e)).goesOn k (pc + 8)

/-- The channel that CSEND and CRECV name. -/
def State.namedChan (t : State) (k : Nat) (f : FmtT) : Nat := ((t.core k).reg f.ra).toNat % 256

/-- The address of their record. -/
def State.recordAt (t : State) (k : Nat) (f : FmtT) : Nat := ((t.core k).reg f.rb).toNat

/-- The bytes of the record that CSEND reads, as its own length field gives them. -/
def State.recordLen (t : State) (k : Nat) (f : FmtT) : Nat := 0x20 + 8 * min 16 (leNat (t.deepRead (t.recordAt k f + 8) 1))

/-- A record inside the windows meets no trap. -/
theorem Run.spaceTrap_of_inside {r : Run} {perm : Win → Bool} {a n pc : Nat} (ha : a < 2 ^ 38) (hwin : r.allows perm a n = true) :
    r.spaceTrap perm a n pc = none := by
  refine if_neg ?_
  rintro (hc | hc)
  · omega
  · exact Bool.false_ne_true (hc.symm.trans hwin)

section
variable {s : State} {k : Nat} {r : Run} {f : FmtT} {frozen : Nat} (h : s.CanIssue k r) (hmem : (s.core k).mem = []) (hform : f.zero = 0 ∧ f.cond = 0)
include h hmem hform

theorem exec_csend_refused (hbad : (s.traceBoundary k).chanStatus ((s.traceBoundary k).namedChan k f) r.dom ≠ 0) :
    let t := s.traceBoundary k
    exec (.csend k f frozen) s = .next (t.statusOn k f (t.core k).pc (t.chanStatus (t.namedChan k f) r.dom)) :=
  congrArg Host.Outcome.next (h.idleGo (formT_iff.mpr hform) hmem (if_pos hbad))

theorem exec_crecv_refused (hbad : (s.traceBoundary k).chanStatus ((s.traceBoundary k).namedChan k f) r.dom ≠ 0) :
    let t := s.traceBoundary k
    exec (.crecv k f frozen) s = .next (t.statusOn k f (t.core k).pc (t.chanStatus (t.namedChan k f) r.dom)) :=
  congrArg Host.Outcome.next (h.idleGo (formT_iff.mpr hform) hmem (if_pos hbad))

variable (hok : (s.traceBoundary k).chanStatus ((s.traceBoundary k).namedChan k f) r.dom = 0)
include hok

theorem exec_crecv_of_empty (hnone : (s.traceBoundary k).taskHead ((s.traceBoundary k).namedChan k f) = none) :
    let t := s.traceBoundary k
    exec (.crecv k f frozen) s = .next (t.statusOn k f (t.core k).pc 1) := by
  refine congrArg Host.Outcome.next (h.idleGo (formT_iff.mpr hform) hmem ((if_neg (not_not_intro hok)).trans ?_))
  rw [State.namedChan] at hnone
  simp only [hnone]

end

/-- Nothing makes the access to a record wait: no access of the core is pending, and its line is free. -/
theorem record_free {t : State} {k a n key : Nat} (hdone : (t.core k).mem = []) (hline : t.lineWaits (64 + k) key a false = false) :
    ¬ ((t.core k).touches a n = true ∨ t.lineWaits (64 + k) key a false = true) := by
  rw [Core.touches_of_idle hdone, hline]
  simp

section
variable {s : State} {k : Nat} {r : Run} {f : FmtT} {frozen : Nat} (h : s.CanIssue k r) (hmem : (s.core k).mem = []) (hform : f.zero = 0 ∧ f.cond = 0)
  (hok : (s.traceBoundary k).chanStatus ((s.traceBoundary k).namedChan k f) r.dom = 0) (hdone : ((s.traceBoundary k).core k).mem = [])
  (hspace : (s.traceBoundary k).recordAt k f < 2 ^ 38)
  (hline : (s.traceBoundary k).lineWaits (64 + k) r.key ((s.traceBoundary k).recordAt k f) false = false)
include h hmem hform hok hdone hspace hline

/-- CRECV of a message writes its record, and takes it unless the write meets a bus error. -/
theorem exec_crecv_of_message {msg : Msg} (hhead : (s.traceBoundary k).taskHead ((s.traceBoundary k).namedChan k f) = some msg)
    (hwin : r.allows (fun w => w.wr) ((s.traceBoundary k).recordAt k f) msg.bytes.length = true) :
    let t := s.traceBoundary k
    let w := t.deepWrite (64 + k) r.key (t.recordAt k f) msg.bytes
    exec (.crecv k f frozen) s = .next (if w.1.isSome then w.2.statusOn k f (t.core k).pc 4
      else (w.2.taskTaken (t.namedChan k f) frozen).statusOn k f (t.core k).pc 0) := by
  intro t w
  have hwait := record_free (n := msg.bytes.length) hdone hline
  have hfree := Run.spaceTrap_of_inside (pc := ((s.traceBoundary k).core k).pc) hspace hwin
  simp only [State.namedChan, State.recordAt] at hhead hwait hfree
  split
  next hw =>
    refine congrArg Host.Outcome.next (h.idleGo (formT_iff.mpr hform) hmem ((if_neg (not_not_intro hok)).trans ?_))
    simp only [hhead, hfree, if_neg hwait]
    exact if_pos hw
  next hw =>
    refine congrArg Host.Outcome.next (h.idleGo (formT_iff.mpr hform) hmem ((if_neg (not_not_intro hok)).trans ?_))
    simp only [hhead, hfree, if_neg hwait]
    exact if_neg hw

/-- CSEND of a record read gives the status of sending it, or that of the bus error. -/
theorem exec_csend_of_record (hwin : r.allows (fun w => w.rd) ((s.traceBoundary k).recordAt k f) ((s.traceBoundary k).recordLen k f) = true) :
    let t := s.traceBoundary k
    let n := t.recordLen k f
    let w := t.deepFetch (64 + k) r.key (t.recordAt k f) n
    let b := t.deepRead (t.recordAt k f) n
    let q := w.2.sendRecord (t.namedChan k f) r.task ((b.getD 2 0).toNat) (payloadOf b ((n - 0x20) / 8)) frozen
    exec (.csend k f frozen) s = .next (if w.1.isSome then w.2.statusOn k f (t.core k).pc 4 else q.2.statusOn k f (t.core k).pc q.1) := by
  intro t n w b q
  have hwait := record_free (n := n) hdone hline
  have hfree := Run.spaceTrap_of_inside (pc := ((s.traceBoundary k).core k).pc) hspace hwin
  simp only [State.recordLen, State.recordAt, n, t] at hwait hfree
  split
  next hw =>
    refine congrArg Host.Outcome.next (h.idleGo (formT_iff.mpr hform) hmem ((if_neg (not_not_intro hok)).trans ?_))
    simp only [hfree, if_neg hwait]
    exact if_pos hw
  next hw =>
    refine congrArg Host.Outcome.next (h.idleGo (formT_iff.mpr hform) hmem ((if_neg (not_not_intro hok)).trans ?_))
    simp only [hfree, if_neg hwait]
    exact if_neg hw

end

/-- Settles O31: a pending access is served and ends as its kind says; CSEND and CRECV answer the status of the first check that objects, or of the transfer. -/
theorem coreMemoryResponsesAndRecords : Obligations.CoreMemoryResponsesAndRecords := by
  unfold Obligations.CoreMemoryResponsesAndRecords
  intro s k n v frozen obs mo r f msg x w s1 val t ready fetched on pc c a status len
  have issues (hr : ready) (hf : fetched) : s.CanIssue k r ∧ (s.core k).mem = [] ∧ (t.core k).mem = [] :=
    ⟨⟨hr.1, hr.2.1, hr.2.2.1, hr.2.2.2.1, hf.1, hf.2.1, hf.2.2⟩, hr.2.2.2.2.1, hr.2.2.2.2.2⟩
  refine ⟨fun hx hw => exec_ccMemoryResponse_of_served hx hw, exec_ccMemoryResponse_of_none, fun hr hf hz hc hbad => ?_, fun hr hf hz hc hok hnone => ?_,
    fun hr hf hz hc hok hhead hspace hwin hline => ?_, fun hr hf hz hc hok hspace hwin hline => ?_⟩ <;> obtain ⟨h, hm, hdone⟩ := issues hr hf
  · exact ⟨exec_csend_refused h hm ⟨hz, hc⟩ hbad, exec_crecv_refused h hm ⟨hz, hc⟩ hbad⟩
  · exact exec_crecv_of_empty h hm ⟨hz, hc⟩ hok hnone
  · refine (exec_crecv_of_message h hm ⟨hz, hc⟩ hok hdone hspace hline hhead hwin).trans (congrArg _ ?_)
    show (if (t.deepWrite (64 + k) r.key a msg.bytes).1.isSome then _ else _) = _
    cases (t.deepWrite (64 + k) r.key a msg.bytes).1 <;> rfl
  · refine (exec_csend_of_record h hm ⟨hz, hc⟩ hok hdone hspace hline hwin).trans (congrArg _ ?_)
    show (if (t.deepFetch (64 + k) r.key a len).1.isSome then _ else _) = _
    cases (t.deepFetch (64 + k) r.key a len).1 <;> rfl

end Sys2Proof.Machine
end

section
/-! The task window (O32): ARM, FREE, CANCEL and the flags write of the selected task. -/

namespace Sys2Proof.Machine

/-- CANCEL of the selected task (R459, R466), by the task's state. -/
def State.cancelled (s : State) (frozen : Nat) : Nat → State
  | 1 => s.endTask s.selTask true 0xF frozen
  | 2 => (({ s with unlisted := s.unlisted.erase s.selTask } : State).modCore (s.task s.selTask).core fun x =>
      { x with ready := x.ready.erase s.selTask }).endTask s.selTask true 0xF frozen
  | 3 => ((s.modCore (s.task s.selTask).core fun x => { x with slot := none }).endTask s.selTask true 0xF frozen).fillSlot (s.task s.selTask).core
  | 4 => s.modTask s.selTask fun x => { x with pendCancel := true }
  | _ => s.taskErr

theorem State.cancelled_of_over {s : State} {frozen n : Nat} (hn : n = 0 ∨ 5 ≤ n) : s.cancelled frozen n = s.taskErr := by
  match n, hn with
  | 0, _ => rfl
  | n + 5, _ => rfl

section
variable {s t : State} (h : s.reaches .TS_TASK_CMD 0 = true) (ht : s.unhold .TS_TASK_CMD 0 = t)
include h ht

theorem exec_taskArm_of_free {n : Nat} (hfree : (t.task t.selTask).state = 0) (hflow : (t.task t.selTask).flow ≠ 0)
    (hnext : (tget Flow.reset t.flows (t.task t.selTask).flow).next = n) :
    exec .taskArm s = .next (((t.modFlow (t.task t.selTask).flow fun y => { next := n + 1, unreleased := y.unreleased ++ [n] }).modTask
      t.selTask fun y => { y with state := 1, ticket := n, cause := 0, pendCancel := false }).judge t.selTask) := by
  subst ht hnext
  show execTaskArm s = _
  rw [execTaskArm, State.asWrite_reached h]
  simp only [if_pos hfree, if_neg hflow]

theorem exec_taskArm_of_flowless (hfree : (t.task t.selTask).state = 0) (hflow : (t.task t.selTask).flow = 0) :
    exec .taskArm s = .next ((t.modTask t.selTask fun y => { y with state := 1, ticket := 0, cause := 0, pendCancel := false }).judge t.selTask) := by
  subst ht
  show execTaskArm s = _
  rw [execTaskArm, State.asWrite_reached h]
  simp only [if_pos hfree, if_pos hflow]

theorem exec_taskArm_of_not_free (htask : (t.task t.selTask).state ≠ 0) : exec .taskArm s = .next t.taskErr := by
  subst ht
  show execTaskArm s = _
  rw [execTaskArm, State.asWrite_reached h]
  exact if_neg htask

theorem exec_taskFree_reached : exec .taskFree s = .next (if ((t.task t.selTask).state = 5 ∨ (t.task t.selTask).state = 6) ∧
      ((t.task t.selTask).flow = 0 ∨ t.oldest (t.task t.selTask).flow (t.task t.selTask).ticket = true)
    then t.modTask t.selTask fun x => { x with state := 0 } else t.taskErr) := by
  subst ht
  show execTaskFree s = _
  rw [execTaskFree, State.asWrite_reached h]
  simp only [apply_ite Host.Outcome.next]

theorem exec_taskCancel_reached {frozen n : Nat} (hn : (t.task t.selTask).state = n) : exec (.taskCancel frozen) s = .next (t.cancelled frozen n) := by
  subst ht hn
  show execTaskCancel frozen s = _
  rw [execTaskCancel, State.asWrite_reached h]
  dsimp only
  generalize ((s.unhold .TS_TASK_CMD 0).task (s.unhold .TS_TASK_CMD 0).selTask).state = n
  match n with
  | 0 => rfl
  | 1 => rfl
  | 2 => rfl
  | 3 => rfl
  | 4 => rfl
  | _ + 5 => rfl

end

/-- Settles O32: each command is its effect on the state whose holding register is empty, by the state of the task in the window. -/
theorem taskTableCommands : Obligations.TaskTableCommands := by
  unfold Obligations.TaskTableCommands
  intro s₀ n frozen flags
  refine ⟨fun h => ?_, fun h => State.asWrite_reached h fun s => .next (s.setFlags s.selTask flags)⟩
  intro s sel t err
  exact ⟨fun hfree hflow => exec_taskArm_of_flowless h rfl hfree hflow, fun hfree hflow hnext => exec_taskArm_of_free h rfl hfree hflow hnext,
    fun htask => exec_taskArm_of_not_free h rfl htask, fun hover hflow => (exec_taskFree_reached h rfl).trans (congrArg _ (if_pos ⟨hover, hflow⟩)),
    fun hnot => (exec_taskFree_reached h rfl).trans (congrArg _ (if_neg hnot)), fun hwait => exec_taskCancel_reached h rfl hwait,
    fun hready => exec_taskCancel_reached h rfl hready, fun hloaded => exec_taskCancel_reached h rfl hloaded,
    fun hruns => exec_taskCancel_reached h rfl hruns,
    fun hover => (exec_taskCancel_reached h rfl rfl).trans (congrArg _ (State.cancelled_of_over hover))⟩

end Sys2Proof.Machine
end

section
/-! The cores' state and the domain descriptors (O33). -/

namespace Sys2Proof.Machine

section
variable {s : State} {k i : Nat} {ws : List Word}

theorem exec_bivouacLoadDone_of_waiting {failed : Option Nat} (hslot : (s.core k).slot = some ⟨i, false, ws, failed⟩)
    {w : Option Nat × State} (hw : s.deepFetch (64 + k) (s.rd .CC_DOM_CFG (s.task i).dom .KEY_ID) (64 * (s.task i).ctx) 256 = w) :
    exec (.bivouacLoadDone k) s = .next (w.2.modCore k fun x =>
      { x with slot := some (if w.1.isSome then ⟨i, true, [], w.1⟩ else ⟨i, true, ctxWords (s.deepRead (64 * (s.task i).ctx) 256), none⟩) }) := by
  subst hw
  show execBivouacLoadDone k s = _
  rw [execBivouacLoadDone, hslot]

/-- The task of a slot runs on the core (R421, R460, R462), and the slot takes the next one. -/
def State.dispatched (s : State) (k i : Nat) (ws : List Word) : State :=
  ((((s.modCore k fun y =>
    { y with slot := none, run := some (s.runOf i), trapped := none, mem := [], trapDue := none, pc := (ws.getD 0 0).toNat / 8 * 8,
             c := (List.range 31).map fun j => (j + 1, ws.getD (j + 1) 0), tr := { y.tr with due := 1 :: y.tr.due } }).modTask i fun z =>
    { z with state := 4, flags := z.flags &&& ~~~z.mask, core := k }).wr .CC_STATUS k .PSTATE 0).showRun k).fillSlot k

theorem exec_taskDispatch_of_loaded {failed : Option Nat} (hslot : (s.core k).slot = some ⟨i, true, ws, failed⟩) (hfree : (s.core k).run = none)
    (htakes : s.coreTakes k = true ∧ s.rd .CC_STATUS k .PSTATE < 2 ∧ s.rd .CC_DOM_CFG (s.task i).dom .VALID = 1) :
    exec (.taskDispatch k) s =
      .next (failed.elim (s.dispatched k i ws) fun c => (s.dispatched k i ws).takeTrap k ⟨9, c, 0, 0, 0⟩) := by
  obtain ⟨hcore, hawake, hvalid⟩ := htakes
  have hgo : (s.coreTakes k && decide (s.pstate k < 2) && s.rd .CC_DOM_CFG (s.runOf i).dom .VALID == 1) = true := by
    rw [hcore, decide_eq_true (show s.pstate k < 2 from hawake), show s.rd .CC_DOM_CFG (s.runOf i).dom .VALID = 1 from hvalid]
    rfl
  show execTaskDispatch k s = _
  simp only [execTaskDispatch, hslot, hfree, if_pos hgo]
  cases failed <;> rfl

theorem exec_sliceExpire_of_slice {r : Run} (hstate : s.rd .CC_STATUS k .PSTATE = 0) (htrap : (s.core k).trapDue = none)
    (hrun : (s.core k).run = some r) (hpl : r.pl ≠ 0) (hslice : r.slice ≠ 0) :
    exec (.sliceExpire k) s = .next (if (s.core k).mem = [] then (s.traceBoundary k).takeTrap k ⟨8, 0, 0, 0, (s.core k).pc⟩
      else s.modCore k fun y => { y with trapDue := some ⟨8, 0, 0, 0, (s.core k).pc⟩ }) := by
  have hissue : s.issuing k = some r := (if_pos ⟨hstate, htrap⟩).trans hrun
  show execSliceExpire k s = _
  simp only [execSliceExpire, hissue, if_pos (And.intro hpl hslice), List.isEmpty_iff, apply_ite Host.Outcome.next]

theorem exec_sleepEntry_of_idle (hstate : s.rd .CC_STATUS k .PSTATE = 1) (hen : s.rd .CC_CTRL k .SLEEP_EN = 1)
    (hready : (s.core k).ready = []) (hslot : (s.core k).slot = none) : exec (.sleepEntry k) s = .next (s.enterSleep k) :=
  if_pos ⟨hstate, hen, hready, hslot⟩

theorem exec_coreWakeDone_of_woken (hstate : s.rd .CC_STATUS k .PSTATE = 2)
    (hwoken : (s.core k).waking = true ∨ (s.core k).ready ≠ [] ∨ (s.core k).slot ≠ none) :
    exec (.coreWakeDone k) s =
      .next ((s.wr .CC_STATUS k .PSTATE (if (s.core k).run.isSome then 0 else 1)).modCore k fun y => { y with waking := false }) :=
  if_pos ⟨hstate, hwoken.imp_right (Or.imp_right Option.isSome_iff_ne_none.mpr)⟩

end

section
variable {s t : State} {k : Nat} (h : s.reaches .CC_CTRL k = true) (ht : s.unhold .CC_CTRL k = t)
include h ht

theorem exec_ccCtrlWake_reached : exec (.ccCtrlWake k) s = .next (if t.pstate k = 2 then t.modCore k fun y => { y with waking := true } else t) := by
  subst ht
  show execCcCtrlWake k s = _
  rw [execCcCtrlWake, State.asWrite_reached h]
  simp only [apply_ite Host.Outcome.next]

theorem exec_ccEnableWrite_on : exec (.ccEnableWrite k true) s = .next
    (let on := if t.pstate k = 3 ∧ (t.core k).enLow = true then ((t.wr .CC_CTRL k .ENABLE 1).wr .CC_STATUS k .PSTATE 0).freeCore k
      else t.wr .CC_CTRL k .ENABLE 1
    if on.coreTakes k = true then on.relist else on) := by
  subst ht
  show execCcEnableWrite k true s = _
  rw [execCcEnableWrite, State.asWrite_reached h]
  rfl

theorem exec_ccEnableWrite_off : exec (.ccEnableWrite k false) s =
    .next (((t.wr .CC_CTRL k .ENABLE 0).modCore k fun y => { y with enLow := true }).unlist k) := by
  subst ht
  show execCcEnableWrite k false s = _
  rw [execCcEnableWrite, State.asWrite_reached h]
  rfl

end

/-- A write to a domain descriptor that is neither domain 0's nor locked (R423, R430). -/
def State.domWritten (s : State) (d : Nat) : DomWrite → State
  | .cfg pl key slice valid =>
    if 2 < pl ∨ (pl = 0 ∧ key ≠ 0) ∨ (pl ≠ 0 ∧ key = 0) then s.domErr d
    else s.wrs .CC_DOM_CFG d [(.PL, pl), (.KEY_ID, key), (.SLICE, slice), (.VALID, bit valid)]
  | .base i page rd wr ex => s.wrs .CC_DOM_WBASE (4 * d + i) [(.BASE, page), (.RD, bit rd), (.WR, bit wr), (.EX, bit ex)]
  | .size i pages => s.wr .CC_DOM_WSIZE (4 * d + i) .PAGES pages

theorem exec_ccDomWrite_reached {s t : State} {d : Nat} {w : DomWrite} (h : s.reaches (domReg d w).1 (domReg d w).2 = true)
    (ht : s.unhold (domReg d w).1 (domReg d w).2 = t) :
    exec (.ccDomWrite d w) s = .next (if d = 0 ∨ t.domLocked d = true then t.domErr d else t.domWritten d w) := by
  subst ht
  show execCcDomWrite d w s = _
  rw [execCcDomWrite, State.asWrite_reached h]
  cases w <;> simp only [State.domWritten, apply_ite Host.Outcome.next]

/-- Settles O33: a core's own events on the state as it stands, then the host's writes on the state whose holding register is empty. -/
theorem coreStateAndDomainCommands : Obligations.CoreStateAndDomainCommands := by
  unfold Obligations.CoreStateAndDomainCommands
  intro s₀ k i d pl key slice pages v wr ex rd c ws r x w takes started
  refine ⟨fun hslot hw => (exec_bivouacLoadDone_of_waiting hslot rfl).trans ?_, fun hslot hw => (exec_bivouacLoadDone_of_waiting hslot rfl).trans ?_,
    fun hslot hrun ht => exec_taskDispatch_of_loaded hslot hrun ht, fun hslot hrun ht => exec_taskDispatch_of_loaded hslot hrun ht,
    fun hstate htrap hrun hpl hslice => exec_sliceExpire_of_slice hstate htrap hrun hpl hslice,
    fun hstate hen hready hslot => exec_sleepEntry_of_idle hstate hen hready hslot, fun hstate hwoken => exec_coreWakeDone_of_woken hstate hwoken,
    fun h => ?_, fun h => ?_, fun h => exec_ccDomWrite_reached h rfl, fun h => exec_ccDomWrite_reached h rfl⟩
  case refine_1 => rw [hw]; rfl
  case refine_2 => rw [hw]; rfl
  case refine_3 =>
    intro s on listed
    exact ⟨fun hsleep => (exec_ccCtrlWake_reached h rfl).trans (congrArg _ (if_pos hsleep)),
      fun hawake => (exec_ccCtrlWake_reached h rfl).trans (congrArg _ (if_neg hawake)), exec_ccEnableWrite_off h rfl,
      fun hstopped => (exec_ccEnableWrite_on h rfl).trans (congrArg (fun u => Host.Outcome.next (listed u)) (if_pos hstopped)),
      fun hnot => (exec_ccEnableWrite_on h rfl).trans (congrArg (fun u => Host.Outcome.next (listed u)) (if_neg hnot))⟩
  case refine_4 =>
    intro s
    have hexec : exec (.ccDomWrite d (.cfg pl key slice v)) s₀ =
        .next (if d = 0 ∨ s.domLocked d = true then s.domErr d else s.domWritten d (.cfg pl key slice v)) := exec_ccDomWrite_reached h rfl
    refine ⟨fun hd hlock hpl hkey => hexec.trans (congrArg _ ?_), fun hbad => hexec.trans (congrArg _ ?_)⟩
    · rw [if_neg (not_or.mpr ⟨hd, Bool.eq_false_iff.mp hlock⟩), State.domWritten, if_neg (by omega)]
    · by_cases hlock : d = 0 ∨ s.domLocked d = true
      · exact if_pos hlock
      · rw [if_neg hlock, State.domWritten, if_pos]
        · rfl
        · exact (or_assoc.mpr hbad).resolve_left hlock

end Sys2Proof.Machine
end

section
/-! The channels' commands, messages and timeouts, and the log's KEEP (O34). -/

namespace Sys2Proof.Machine

section
variable {s t : State} {h : Nat} (hreach : s.reaches .CH_CTRL h = true) (ht : s.unhold .CH_CTRL h = t)
include hreach ht

theorem exec_chEnable_reached {frozen : Nat} : exec (.chEnable h frozen) s =
    .next (if (t.chState h = 0 ∨ t.chState h = 2) ∧ t.chOk h = true
      then (((t.wr .CH_CTRL h .STATE 3).modChan h fun x => { x with stuck := false }).pump h).settleChan h frozen else t.chErr h) := by
  subst ht
  show execChEnable h frozen s = _
  rw [execChEnable, State.asWrite_reached hreach]
  simp only [apply_ite Host.Outcome.next]

theorem exec_chQuiesce_reached : exec (.chQuiesce h) s = .next (if t.chState h = 3 then t.wr .CH_CTRL h .STATE 1 else t.chErr h) := by
  subst ht
  show execChQuiesce h s = _
  rw [execChQuiesce, State.asWrite_reached hreach]
  simp only [apply_ite Host.Outcome.next]

theorem exec_chDisable_reached : exec (.chDisable h) s = .next (if t.chState h = 2 then t.chDisable h else t.chErr h) := by
  subst ht
  show execChDisable h s = _
  rw [execChDisable, State.asWrite_reached hreach]
  simp only [apply_ite Host.Outcome.next]

end

theorem State.keepWritten_of_empty {s : State} {c frozen : Nat} (hq : (s.camp c).logQueue = []) : s.keepWritten c frozen = s := if_pos hq

/-- KEEP as the two registers show it (R469). -/
theorem State.rd_keep (s : State) (c keep : Nat) :
    ((s.wr .TS_LOG_KEEP_LO c .KEEP keep).wr .TS_LOG_KEEP_HI c .KEEP (keep / 2 ^ 40)).rd .TS_LOG_KEEP_LO c .KEEP = keep % 2 ^ 40 ∧
      ((s.wr .TS_LOG_KEEP_LO c .KEEP keep).wr .TS_LOG_KEEP_HI c .KEEP (keep / 2 ^ 40)).rd .TS_LOG_KEEP_HI c .KEEP = keep / 2 ^ 40 % 2 ^ 24 := by
  refine ⟨?_, State.rd_wr_self ..⟩
  rw [State.rd_wr_reg _ _ _ _ _ _ (by decide)]
  exact State.rd_wr_self ..

section
variable {s : State} {h frozen : Nat}

theorem exec_channelQuiesced_of_still (hstate : s.rd .CH_CTRL h .STATE = 1) (hstill : (s.chan h).copying = [] ∨ (s.chan h).stuck = true) :
    exec (.channelQuiesced h) s = .next (s.wr .CH_CTRL h .STATE 2) := if_pos ⟨hstate, hstill⟩

theorem exec_channelDoorbell_of_no_fence {value : BitVec 32} {merged : Bool} (hfence : s.noc.fences = []) :
    exec (.channelDoorbell h value merged frozen) s = .next (s.doorbell h value merged frozen) := if_pos hfence

theorem State.doorbell_refused {value : BitVec 32} (hno : s.rd .CH_CTRL h .STATE = 0 ∨ s.rd .CH_CTRL h .STATE = 2 ∨ s.rd .CH_CFG h .AKIND ≠ 0) :
    s.doorbell h value false frozen = s.idError 5 0 (0x1000 * h) 0 := by
  rcases hno with hst | hst | hkind
  · simp [State.doorbell, State.chState, hst]
  · simp [State.doorbell, State.chState, hst]
  · simp [State.doorbell, State.akind, hkind]

theorem State.doorbell_taken {value : BitVec 32} (hst : s.rd .CH_CTRL h .STATE = 3) (hkind : s.rd .CH_CFG h .AKIND = 0)
    (hprod : (value.toNat % 65536 + 65536 - s.rd .CH_IN_IDX h .CONS) % 65536 < s.ringSize h) :
    s.doorbell h value false frozen = (((s.wr .CH_IN_IDX h .PROD (value.toNat % 65536)).wr .CH_OUT_IDX h .CONS (value.toNat / 65536)).afterRoom h
      (s.maySend h)).settleChan h frozen := by
  have hok : ((s.chState h == 3 || s.chState h == 1) && s.akind h == 0
      && decide ((value.toNat % 65536 + 65536 - s.rd .CH_IN_IDX h .CONS) % 65536 ≤ s.ringSize h - 1)) = true := by
    rw [decide_eq_true (by omega), State.chState, hst, State.akind, hkind]
    rfl
  exact if_pos hok

theorem exec_channelDoorbell_of_fence {value : BitVec 32} {merged : Bool} {fe : Fence} (hfence : s.noc.fences = [fe]) :
    exec (.channelDoorbell h value merged frozen) s =
      .next { s with noc := { s.noc with fences := [{ fe with bells := fe.bells ++ [(h, value, merged)] }] } } := by
  show execChannelDoorbell h value merged frozen s = _
  rw [execChannelDoorbell, if_neg (by rw [hfence]; exact List.cons_ne_nil _ _), hfence, holdBell]

theorem exec_inboundSlotFetched_of_active {bytes : List Byte} (hst : s.rd .CH_CTRL h .STATE = 3) (hkind : s.rd .CH_CFG h .AKIND = 0)
    (hidx : s.rd .CH_IN_IDX h .PROD ≠ s.rd .CH_IN_IDX h .CONS) : exec (.inboundSlotFetched h bytes frozen) s =
      .next ((if s.rd .CH_CFG h .MODE = 1 then s.slotAssisted h else s.slotFetched h bytes).settleChan h frozen) := by
  refine (if_pos ⟨hst, hkind, hidx⟩).trans ?_
  simp only [State.assisted, beq_iff_eq]

theorem State.hears_iff : s.hears h = true ↔ s.rd .CH_CTRL h .STATE = 3 ∨ s.rd .CH_CTRL h .STATE = 1 := by
  simp [State.hears, State.chState]

theorem State.peerMessage_of_heard {bytes : List Byte} (hst : s.rd .CH_CTRL h .STATE = 3 ∨ s.rd .CH_CTRL h .STATE = 1)
    (hkind : s.rd .CH_CFG h .AKIND = 1) (hform : malformed bytes h = none) : s.peerMessage h bytes frozen =
      ((if (msgOf bytes).type = 0 then (s.takeCredit h (msgOf bytes).credit).takeData h (msgOf bytes)
        else s.takeCredit h (msgOf bytes).credit).afterRoom h (s.maySend h)).settleChan h frozen := by
  rw [State.peerMessage, if_pos ⟨State.hears_iff.mpr hst, hkind⟩, State.receive, hform]

theorem exec_outboundCopyDone_of_copying {m : Msg} {rest : List Msg} (hcopy : (s.chan h).copying = m :: rest)
    (hst : s.rd .CH_CTRL h .STATE = 3 ∨ s.rd .CH_CTRL h .STATE = 1) (hstuck : (s.chan h).stuck = false) :
    exec (.outboundCopyDone h) s = .next (let n := s.ringSize h
      let t := ((s.emit (.hostWrite (s.hostRing h (256 * (n + s.rd .CH_OUT_IDX h .PROD % n))) m.bytes)).wr .CH_OUT_IDX h .PROD
        (s.rd .CH_OUT_IDX h .PROD + 1)).modChan h fun x => { x with copying := rest }
      (t.emit (.hostWrite (s.hostRing h (512 * n)) (leBytes (t.rd .CH_OUT_IDX h .PROD) 8))).msix (s.rd .HI_CH_VEC h .VEC)) := by
  show execOutboundCopyDone h s = _
  simp only [execOutboundCopyDone, hcopy, if_pos (And.intro (State.hears_iff.mpr hst) hstuck)]

theorem exec_mirrorBusError_of_heard {out : Bool} {cause seq : Nat} (hst : s.rd .CH_CTRL h .STATE = 3 ∨ s.rd .CH_CTRL h .STATE = 1) :
    exec (.mirrorBusError h out cause seq) s = .next ((s.faultAlarm cause
      (s.mirrorAddr h out (if out = true then s.rd .CH_OUT_IDX h .PROD else s.rd .CH_IN_IDX h .CONS))).mirrorError h seq) :=
  if_pos (State.hears_iff.mpr hst)

end

/-! CHANNEL_TIMEOUT (R452): when it may act, and what the wait of an inbound direction comes to. -/

/-- The timeout that R452 names is on: MS, or CYCLES with the camp not frozen. -/
def State.mayTime (s : State) (h : Nat) (byMs : Bool) : Prop :=
  if byMs = true then s.rd .CH_TIMEOUT h .MS ≠ 0 else s.rd .CH_TIMEOUT h .CYCLES ≠ 0 ∧ s.campFrozen (s.chCamp h) = false

theorem State.mayTime_iff {s : State} {h : Nat} {byMs : Bool} : s.mayTime h byMs ↔
    (if byMs then s.rd .CH_TIMEOUT h .MS != 0 else s.rd .CH_TIMEOUT h .CYCLES != 0 && !s.campFrozen (s.chCamp h)) = true := by
  cases byMs <;> simp [State.mayTime]

/-- The timeout of an inbound wait, counted, logged and marked on the channel (R452, R453, R456). -/
def State.timedIn (s : State) (h pol : Nat) : State :=
  ((s.chError h 5 0 (s.rd .CH_SEQ_IN h .EXPECT) (s.eventCycle (s.chCamp h))).modCamp (s.chCamp h) fun x =>
    { x with logWait := x.logWait ++ [⟨4, h, pol, s.eventCycle (s.chCamp h), [s.rd .CH_SEQ_IN h .EXPECT]⟩] }).modChan h fun x => { x with fired := true }

/-- What POLICY makes of the timeout of an inbound wait (R453). -/
def State.timeoutIn (s : State) (h frozen : Nat) : Nat → State
  | 0 => s.timedIn h 0
  | 1 => (((if s.waitsOut h = true then ((s.timedIn h 1).errorRecord h).giveUpOut h else (s.timedIn h 1).errorRecord h).modChan h fun x =>
      { x with fired := false }).settleChan h frozen)
  | n + 2 => (s.timedIn h (n + 2)).haltCond (s.chCamp h) 3

theorem State.timeoutIn_of_halting {s : State} {h frozen pol : Nat} (hpol : 2 ≤ pol) :
    s.timeoutIn h frozen pol = (s.timedIn h pol).haltCond (s.chCamp h) 3 := by
  obtain ⟨n, rfl⟩ := Nat.exists_eq_add_of_le' hpol
  rfl

theorem exec_channelTimeout_of_off {s : State} {h frozen : Nat} {byMs : Bool} (hoff : ¬ s.mayTime h byMs) :
    exec (.channelTimeout h byMs frozen) s = .next s := by
  have hno := Bool.eq_false_iff.mpr (mt State.mayTime_iff.mpr hoff)
  show execChannelTimeout h byMs frozen s = _
  simp only [execChannelTimeout, hno, Bool.false_and, if_neg Bool.false_ne_true]

theorem exec_channelTimeout_of_waitsIn {s : State} {h frozen pol : Nat} {byMs : Bool} (hon : s.mayTime h byMs) (hwaits : s.waitsIn h = true)
    (hlive : s.replays (s.chCamp h) = false) (hfirst : (s.chan h).fired = false) (hstate : s.rd .CH_CTRL h .STATE ≠ 0)
    (hpol : s.rd .CH_CFG h .POLICY = pol) : exec (.channelTimeout h byMs frozen) s = .next (s.timeoutIn h frozen pol) := by
  have hst : (s.chState h != 0) = true := bne_iff_ne.mpr hstate
  show execChannelTimeout h byMs frozen s = _
  simp only [execChannelTimeout, State.mayTime_iff.mp hon, hwaits, hlive, hfirst, hst, hpol, Bool.true_or, Bool.not_false, Bool.and_true, if_true]
  match pol with
  | 0 => rfl
  | 1 => rfl
  | _ + 2 => rfl

/-- Settles O34: the host's commands on the state whose holding register is empty, the channel's own events on the state as it stands. -/
theorem channelCommandsTakeEffect : Obligations.ChannelCommandsTakeEffect := by
  unfold Obligations.ChannelCommandsTakeEffect
  intro s₀ h frozen keep cause seq value merged out byMs bytes m rest fe st
  refine ⟨fun hreach => ?_, fun hreach => ?_, ?_⟩
  · intro s err
    exact ⟨fun hst hok => (exec_chEnable_reached hreach rfl).trans (congrArg _ (if_pos ⟨hst, hok⟩)),
      fun hnot => (exec_chEnable_reached hreach rfl).trans (congrArg _ (if_neg hnot)),
      fun hst => (exec_chQuiesce_reached hreach rfl).trans (congrArg _ (if_pos hst)),
      fun hst => (exec_chQuiesce_reached hreach rfl).trans (congrArg _ (if_neg hst)),
      fun hst => (exec_chDisable_reached hreach rfl).trans (congrArg _ (if_pos hst)),
      fun hst => (exec_chDisable_reached hreach rfl).trans (congrArg _ (if_neg hst))⟩
  · intro s u
    have hexec : exec (.tsLogKeepWrite h keep frozen) s₀ = .next (u.keepWritten h frozen) :=
      State.asWrite_reached hreach fun s => .next ((s.unhold .TS_LOG_KEEP_HI h).setKeep h keep frozen)
    exact ⟨hexec, fun hq => hexec.trans (congrArg _ (State.keepWritten_of_empty hq)), State.rd_keep s h keep⟩
  · intro s a size p c cyc pol mayTime timed
    exact ⟨exec_channelQuiesced_of_still,
      fun hfence hno => (exec_channelDoorbell_of_no_fence hfence).trans (congrArg _ (State.doorbell_refused hno)),
      fun hfence hst hkind hprod => (exec_channelDoorbell_of_no_fence hfence).trans (congrArg _ (State.doorbell_taken hst hkind hprod)),
      exec_channelDoorbell_of_fence, exec_inboundSlotFetched_of_active,
      fun hst hkind hform => ⟨congrArg _ (State.peerMessage_of_heard hst hkind hform), rfl⟩,
      exec_outboundCopyDone_of_copying, exec_mirrorBusError_of_heard, exec_channelTimeout_of_off,
      fun hon hwaits hlive hfirst hst hpol => exec_channelTimeout_of_waitsIn hon hwaits hlive hfirst hst hpol,
      fun hon hwaits hlive hfirst hst hpol => exec_channelTimeout_of_waitsIn hon hwaits hlive hfirst hst hpol,
      fun hon hwaits hlive hfirst hst hpol =>
        (exec_channelTimeout_of_waitsIn hon hwaits hlive hfirst hst rfl).trans (congrArg _ (State.timeoutIn_of_halting hpol))⟩

end Sys2Proof.Machine
end

section
/-! The on-chip network and the power domains (O35). -/

namespace Sys2Proof.Machine

section
variable {s : State}

/-- A router has passed 102 class-0 packets on an output in the window (R487). -/
theorem nocHeavy_iff {l : List ((Nat × Nat × Nat) × Nat)} {router : Nat} :
    (l.any fun e => e.1.1 == router && decide (102 < e.2)) = true ↔ ∃ e ∈ l, e.1.1 = router ∧ 102 < e.2 := by
  simp only [List.any_eq_true, Bool.and_eq_true, beq_iff_eq, decide_eq_true_eq]

theorem exec_criticalWindowEnd {router : Nat} : exec (.criticalWindowEnd router) s = .next
    (if (∃ e ∈ s.noc.load, e.1.1 = router ∧ 102 < e.2) ∧ (s.rd .NOC_CRIT_STATUS 0 .OVER).testBit router = false
      then (s.modNoc fun n => { n with load := n.load.filter fun e => e.1.1 != router }).wr .NOC_CRIT_STATUS 0 .OVER
        (s.rd .NOC_CRIT_STATUS 0 .OVER + 2 ^ router)
      else s.modNoc fun n => { n with load := n.load.filter fun e => e.1.1 != router }) := by
  show execCriticalWindowEnd router s = _
  simp only [execCriticalWindowEnd, nocHeavy_iff]

theorem exec_fenceDoorbell_of_room {token : Nat} (h : s.noc.fences.length < 4) : exec (.fenceDoorbell token) s =
    .next ((s.modNoc fun n => { n with fences := n.fences ++ [⟨token % 2 ^ 32, (s.deep.held.map (·.req)).filter fun r =>
      r.src == 83 && r.data.isSome, []⟩] }).wr .NOC_FENCE_STATUS 0 .PENDING (s.noc.fences.length + 1)) := by
  refine (if_neg (Nat.not_le.mpr h)).trans ?_
  rw [State.showFences, show ∀ f : Fence, (s.modNoc fun n => { n with fences := n.fences ++ [f] }).noc.fences.length = s.noc.fences.length + 1 from
    fun f => List.length_append]

theorem exec_fenceDoorbell_of_full {token : Nat} (h : 4 ≤ s.noc.fences.length) :
    exec (.fenceDoorbell token) s = .next (s.wr .NOC_FENCE_STATUS 0 .DROPPED 1) := if_pos h

theorem exec_fenceComplete_of_none {frozen : Nat} (h : s.noc.fences = []) : exec (.fenceComplete frozen) s = .next s := by
  show execFenceComplete frozen s = _
  rw [execFenceComplete, h]

/-- A host write that the fence waits for has not landed (R491). -/
theorem fenceWaits_iff {f : Fence} : (f.before.any fun r => s.deep.held.any fun h => h.req == r) = true ↔
    ∃ r ∈ f.before, ∃ h ∈ s.deep.held, h.req = r := by
  simp only [List.any_eq_true, beq_iff_eq]

theorem exec_fenceComplete_of_pending {frozen : Nat} {f : Fence} {rest : List Fence} (h : s.noc.fences = f :: rest) :
    exec (.fenceComplete frozen) s = .next (if ∃ r ∈ f.before, ∃ h ∈ s.deep.held, h.req = r then s else
      (((((s.modNoc fun n => { n with fences := rest }).wr .NOC_FENCE_STATUS 0 .PENDING rest.length).emit
        (.hostWrite (s.rd .NOC_FENCE_ADDR_LO 0 .ADDR + 2 ^ 40 * s.rd .NOC_FENCE_ADDR_HI 0 .ADDR) (leBytes f.token 4))).wr
          .NOC_FENCE_STATUS 0 .TOKEN f.token).irq 5).forEach f.bells fun t b => t.doorbell b.1 b.2.1 b.2.2 frozen) := by
  show execFenceComplete frozen s = _
  simp only [execFenceComplete, h, fenceWaits_iff, apply_ite Host.Outcome.next]
  rfl

end

section
variable {s t : State} {d : Nat} (h : s.reaches .PW_DOM d = true) (ht : s.unhold .PW_DOM d = t)

theorem State.domOn_of_off (hd : d < 80) (hshut : s.power.shut = none) (hst : s.domState d = 0) :
    s.domOn d = (s.wr .PW_DOM d .STATE 1).modPower fun p => { p with queue := p.queue ++ [d] } := by
  rw [State.domOn, if_neg (by simp [hshut]; omega), if_pos hst]

theorem State.domOn_of_draining (hd : d < 80) (hshut : s.power.shut = none) (hst : s.domState d = 3) :
    s.domOn d = s.modPower fun p => { p with again := d :: p.again.erase d } := by
  rw [State.domOn, if_neg (by simp [hshut]; omega), if_neg (by omega), if_pos hst]

theorem State.domOn_of_neither (hno : 80 ≤ d ∨ s.power.shut ≠ none ∨ (s.domState d ≠ 0 ∧ s.domState d ≠ 3)) : s.domOn d = s := by
  rw [State.domOn]
  split
  · rfl
  next hheard =>
    obtain ⟨hd, hshut⟩ := not_or.mp hheard
    rcases hno with hbig | hoff | ⟨hnotOff, hnotDraining⟩
    · exact absurd hbig hd
    · exact absurd (Option.isSome_iff_ne_none.mpr hoff) hshut
    · rw [if_neg hnotOff, if_neg hnotDraining]

theorem State.domOff_of_admitted {side : Bool} (hd : d < 80) (hshut : s.power.shut = none) (hst : s.domState d = 1 ∨ s.domState d = 2)
    (hok : s.offAllowed d side = true) : s.domOff d side = s.beginDrain d := by
  rw [State.domOff, if_neg (by simp [hshut]; omega), hok, if_pos hst]
  rfl

include h ht

theorem exec_domainOn_reached : exec (.domainOn d) s = .next (t.domOn d) := by
  subst ht
  exact State.asWrite_reached h fun s => .next (s.domOn d)

theorem exec_domainOff_reached {side : Bool} : exec (.domainOff d side) s = .next (t.domOff d side) := by
  subst ht
  exact State.asWrite_reached h fun s => .next (s.domOff d side)

end

section
variable {s : State} {d since : Nat} {q : List Nat}

theorem exec_domainOnStart_of_queued (hq : s.power.queue = d :: q) : exec (.domainOnStart since) s =
    .next (if s.staggerUs ≤ since then s.modPower fun p => { p with queue := q, rising := d :: p.rising } else s) := by
  show execDomainOnStart since s = _
  simp only [execDomainOnStart, hq, apply_ite Host.Outcome.next]

/-- What a domain brings with it when its rail is in regulation (R640, R493). -/
def State.domBrings (s t : State) (d : Nat) : State :=
  if d < 64 then t.clearPitch d
  else if 72 ≤ d ∧ d < 76 then
    ((t.forEach (pairChans d) fun t c => t.wr .DM_STATUS c .STATE 1).modTrace fun t => { t with pairsDown := t.pairsDown.erase (d - 72) }).traceRoute
  else if d = 77 then t.forEach ((List.range 6).filter fun p => s.rd .HN_CTRL p .EN == 1) fun t p => t.startTraining p false
  else if d = 78 then t.resetCores
  else t

theorem exec_domainOnDone_of_rising (hd : d ∈ s.power.rising) : exec (.domainOnDone d) s =
    .next (s.domBrings ((s.modPower fun p => { p with rising := p.rising.erase d }).wr .PW_DOM d .STATE 2) d).bootGoesOn :=
  if_pos (List.contains_iff_mem.mpr hd)

theorem exec_domainOnDone_of_not_rising (hd : d ∉ s.power.rising) : exec (.domainOnDone d) s = .next s :=
  if_neg (mt List.contains_iff_mem.mp hd)

theorem State.domBrings_of_pitch {t : State} (hd : d < 64) : s.domBrings t d = t.clearPitch d := if_pos hd

theorem State.domBrings_of_pair {t : State} (hlo : 72 ≤ d) (hhi : d < 76) : s.domBrings t d =
    ((t.forEach (pairChans d) fun t c => t.wr .DM_STATUS c .STATE 1).modTrace fun t => { t with pairsDown := t.pairsDown.erase (d - 72) }).traceRoute :=
  (if_neg (by omega)).trans (if_pos ⟨hlo, hhi⟩)

end

/-- Settles O35: the network's own events by their guards, the power commands on the state whose holding register is empty. -/
theorem networkAndPowerDomainCommands : Obligations.NetworkAndPowerDomainCommands := by
  unfold Obligations.NetworkAndPowerDomainCommands
  intro s router out net token frozen probe d since pkts f rest q side past addr
  refine ⟨rfl, exec_criticalWindowEnd, exec_fenceDoorbell_of_room, exec_fenceDoorbell_of_full, exec_fenceComplete_of_none,
    fun hf hwait => (exec_fenceComplete_of_pending hf).trans (congrArg _ (if_pos hwait)),
    fun hf hland => (exec_fenceComplete_of_pending hf).trans (congrArg _ (if_neg ?_)),
    fun h => State.asWrite_reached h fun s => .next ((s.modNoc fun n => { n with rings := tmod [] n.rings probe fun l => l.drop 1 }).showRing probe),
    fun h => ?_, fun hq hstag => (exec_domainOnStart_of_queued hq).trans (congrArg _ (if_pos hstag)),
    fun hq hstag => (exec_domainOnStart_of_queued hq).trans (congrArg _ (if_neg (Nat.not_le.mpr hstag))),
    fun hd hrise => (exec_domainOnDone_of_rising hrise).trans (congrArg (fun u => Host.Outcome.next (State.bootGoesOn u)) (State.domBrings_of_pitch hd)),
    fun hlo hhi hrise => (exec_domainOnDone_of_rising hrise).trans (congrArg (fun u => Host.Outcome.next (State.bootGoesOn u)) (State.domBrings_of_pair hlo hhi)),
    exec_domainOnDone_of_not_rising, fun hst hbusy => if_pos ⟨hst, hbusy⟩,
    fun _ hbusy => if_neg fun hidle => Bool.false_ne_true (hidle.2.symm.trans hbusy), fun hst => if_neg hst, fun hst => if_pos hst⟩
  case refine_1 =>
    rintro ⟨r, hr, h, hh, heq⟩
    exact hland r hr h hh heq
  case refine_2 =>
    intro u
    exact ⟨fun hd hshut hst => (exec_domainOn_reached h rfl).trans (congrArg _ (State.domOn_of_off hd hshut hst)),
      fun hd hshut hst => (exec_domainOn_reached h rfl).trans (congrArg _ (State.domOn_of_draining hd hshut hst)),
      fun hno => (exec_domainOn_reached h rfl).trans (congrArg _ (State.domOn_of_neither hno)),
      fun hd hshut hpresent hno => exec_domainOff_of_not_allowed hd h hpresent hshut side hno,
      fun hd hshut hst hok => (exec_domainOff_reached h rfl).trans (congrArg _ (State.domOff_of_admitted hd hshut hst hok))⟩

end Sys2Proof.Machine
end

section
/-! Training of a Halnal port (O36): each state's completion and timeout, the capability word, and equaliser requests. -/

namespace Sys2Proof.Machine

section
variable {s : State} {p : Nat} {obs : TrainObs}

theorem exec_trainingStateDone_of_not_align (h : s.hnState p ≠ 5) : exec (.trainingStateDone p obs) s = .next (s.trainStep p obs) :=
  congrArg Host.Outcome.next (if_neg fun hc => h hc.1)

theorem exec_trainingStateDone_of_detect (hst : s.hnState p = 1) (hlanes : lanesOk obs.lanes = true) : exec (.trainingStateDone p obs) s =
    .next (let t := (s.wr .HN_STATUS p .STATE 2).modHn p fun x => { x with lanes := obs.lanes }
      t.emit (.capability p (t.capWord p))) := by
  rw [exec_trainingStateDone_of_not_align (by omega)]
  simp only [State.trainStep, hst, if_pos hlanes]

theorem exec_trainingStateDone_of_other_clock (hst : s.hnState p = 2) (hclock : obs.clock = false) :
    exec (.trainingStateDone p obs) s = .next (s.failTraining p 3) := by
  rw [exec_trainingStateDone_of_not_align (by omega)]
  simp only [State.trainStep, hst, if_pos hclock]

theorem exec_trainingStateDone_of_capability (hst : s.hnState p = 2) (hclock : obs.clock = true) (hcap : (s.hn p).capOk = true) :
    exec (.trainingStateDone p obs) s = .next (s.wr .HN_STATUS p .STATE 3) := by
  rw [exec_trainingStateDone_of_not_align (by omega)]
  simp only [State.trainStep, hst, hclock, hcap, reduceCtorEq, if_false, if_true]

theorem exec_trainingStateDone_of_rate (hst : s.hnState p = 3) : exec (.trainingStateDone p obs) s =
    .next ((s.wr .HN_STATUS p .STATE 4).modHn p fun x => { x with taps := (List.range 9).map fun i => (i, presetTaps (s.rd .HN_CTRL p .PRESET)) }) := by
  rw [exec_trainingStateDone_of_not_align (by omega)]
  simp only [State.trainStep, hst]

/-- The port goes to ALIGN with the peer's equaliser requests applied (R510, R511): the spare takes a missing lane's place. -/
def State.equalised (s : State) (p : Nat) (obs : TrainObs) : State :=
  let t := (s.forEach (obs.reqs.filter fun q => decide (q.lane ≤ 8)) fun t q => t.eqApply p q).wr .HN_STATUS p .STATE 5
  match missingLane ((s.hn p).lanes &&& obs.lanes) with
  | some i => t.wrs .HN_STATUS p [(.SPARE_RX, 1), (.SPARED_RX, i)]
  | none => t

theorem exec_trainingStateDone_of_eq (hst : s.hnState p = 4) (hhost : (s.hn p).eqHost = false)
    (hlanes : lanesOk ((s.hn p).lanes &&& obs.lanes) = true) : exec (.trainingStateDone p obs) s = .next (s.equalised p obs) := by
  rw [exec_trainingStateDone_of_not_align (by omega)]
  simp only [State.trainStep, hst, hhost, Bool.false_and, if_neg Bool.false_ne_true, if_pos hlanes]
  rfl

theorem exec_trainingStateDone_of_latency (hst : s.hnState p = 6) (hechoes : 16 ≤ (s.hn p).echoes.length) :
    exec (.trainingStateDone p obs) s = .next (s.wr .HN_STATUS p .STATE 7) := by
  rw [exec_trainingStateDone_of_not_align (by omega)]
  simp only [State.trainStep, hst, if_pos hechoes]

theorem exec_trainingStateDone_of_no_key (hst : s.hnState p = 7) (hkey : s.keys.fabric = none) :
    exec (.trainingStateDone p obs) s = .next s := by
  rw [exec_trainingStateDone_of_not_align (by omega)]
  simp only [State.trainStep, hst, hkey]

/-- What the timeout of a training state comes to (R506). -/
def State.timedOut (s : State) (p : Nat) : Nat → State
  | 3 | 6 => (s.wrs .HN_STATUS p [(.STATE, 0), (.FAIL, s.openAt 0 % 6)]).draw
  | 1 => s.failTraining p 1
  | 2 => s.failTraining p 2
  | 4 => s.failTraining p 4
  | 5 => s.failTraining p 5
  | 7 => s.enterUp p
  | _ => s

theorem State.timedOut_of_untrained {n : Nat} (h : n = 0 ∨ 8 ≤ n) : s.timedOut p n = s := by
  match n, h with
  | 0, _ => rfl
  | _ + 8, _ => rfl

theorem exec_trainingStateTimeout_of_state {n : Nat} (hst : s.hnState p = n) : exec (.trainingStateTimeout p) s = .next (s.timedOut p n) := by
  show execTrainingStateTimeout p s = _
  rw [execTrainingStateTimeout, hst]
  match n with
  | 0 | 1 | 2 | 3 | 4 | 5 | 6 | 7 => rfl
  | _ + 8 => rfl

section
variable {word : Nat} (hst : s.hnState p = 2) (hcrc : bitsOf word 144 16 = crc16 (word % 2 ^ 144) 144)
include hst hcrc

theorem exec_capabilityWord_of_wrong
    (hwrong : bitsOf word 0 16 ≠ 0x484E ∨ bitsOf word 16 4 ≠ 1 ∨ commonRate (s.hn p).rates (bitsOf word 20 3) = none) :
    exec (.capabilityWord p word) s = .next (s.failTraining p 2) := by
  show execCapabilityWord p word s = _
  rw [execCapabilityWord, if_neg (by simp [hst, hcrc])]
  split
  · rfl
  next hform =>
    obtain ⟨hmagic, hversion⟩ := not_or.mp hform
    rw [(hwrong.resolve_left hmagic).resolve_left hversion]

theorem exec_capabilityWord_of_good {r : Nat} (hmagic : bitsOf word 0 16 = 0x484E) (hversion : bitsOf word 16 4 = 1)
    (hrate : commonRate (s.hn p).rates (bitsOf word 20 3) = some r) : exec (.capabilityWord p word) s =
      .next ((((s.wr .HN_STATUS p .RATE r).wr .HN_PEER p .SERIAL (bitsOf word 32 40)).wrs .HN_LINK_ID p
        [(.PEER_PORT, bitsOf word 23 3), (.PEER_SPARE_OK, bitsOf word 26 1), (.PEER_RATES, bitsOf word 20 3)]).modHn p fun h =>
          { h with capOk := true, peerNonce := leBytes (bitsOf word 72 64) 8 }) := by
  show execCapabilityWord p word s = _
  rw [execCapabilityWord, if_neg (by simp [hst, hcrc]), if_neg (by simp [hmagic, hversion]), hrate]

end

theorem exec_trainingRetry_of_down (hst : s.hnState p = 0) (hen : s.rd .HN_CTRL p .EN = 1) (hpow : s.powered 77 = true) :
    exec (.trainingRetry p) s = .next (s.startTraining p (s.hn p).again) :=
  congrArg Host.Outcome.next (if_pos ⟨hst, hen, hpow⟩)

theorem exec_trainingRetry_of_not_ready (h : s.hnState p ≠ 0 ∨ s.rd .HN_CTRL p .EN = 0 ∨ s.powered 77 = false) :
    exec (.trainingRetry p) s = .next s := by
  refine congrArg Host.Outcome.next (if_neg ?_)
  rintro ⟨hst, hen, hpow⟩
  simp [hst, hen, hpow] at h

theorem exec_eqRequest_reached {t : State} {tap op preset : Nat} (h : s.reaches .HN_EQ_REQ p = true) (ht : s.unhold .HN_EQ_REQ p = t) :
    exec (.eqRequest p tap op preset) s = .next (let q := t.wrs .HN_EQ_REQ p [(.TAP, tap), (.OP, op), (.PRESET, preset)]
      if (t.hn p).eqHost = true ∧ t.hnState p = 4 ∧ t.rd .HN_EQ_REQ p .BUSY = 0
      then ((q.wr .HN_EQ_REQ p .BUSY 1).modHn p fun h => { h with eqLane := t.laneSel p }).emit (.eqRequest p (t.laneSel p) tap op preset) else q) := by
  subst ht
  show execEqRequest p tap op preset s = _
  rw [execEqRequest, State.asWrite_reached h]
  simp only [apply_ite Host.Outcome.next]

end

/-- Settles O36: one lemma per training state's completion, and one table for the timeouts. -/
theorem linkTrainingCommands : Obligations.LinkTrainingCommands := by
  unfold Obligations.LinkTrainingCommands
  intro s p tap op preset resp ht wd word r obs st v q
  refine ⟨exec_trainingRetry_of_down, exec_trainingRetry_of_not_ready, fun hst => ?_, fun hst => ?_, fun hst => ⟨s.openAt 0 % 6, Nat.mod_lt _ (by decide), ?_⟩,
    fun hst => exec_trainingStateTimeout_of_state hst,
    fun hst => (exec_trainingStateTimeout_of_state rfl).trans (congrArg _ (State.timedOut_of_untrained hst)), fun hbad => if_pos hbad,
    exec_capabilityWord_of_wrong, fun hst hcrc hmagic hversion hrate => exec_capabilityWord_of_good hst hcrc hmagic hversion hrate,
    exec_trainingStateDone_of_detect, exec_trainingStateDone_of_other_clock,
    exec_trainingStateDone_of_capability, exec_trainingStateDone_of_rate, exec_trainingStateDone_of_eq, exec_trainingStateDone_of_latency,
    exec_trainingStateDone_of_no_key,
    fun h hst hhost hbusy => (exec_eqRequest_reached h rfl).trans (congrArg _ (if_pos ⟨hhost, hst, hbusy⟩)),
    fun h hno => (exec_eqRequest_reached h rfl).trans (congrArg _ (if_neg ?_)), fun hbusy => if_pos hbusy, fun hidle => if_neg hidle⟩
  case refine_1 => rcases hst with hst | hst <;> rw [exec_trainingStateTimeout_of_state hst, hst] <;> rfl
  case refine_2 => rcases hst with hst | hst <;> rw [exec_trainingStateTimeout_of_state hst, hst] <;> rfl
  case refine_3 => rcases hst with hst | hst <;> exact exec_trainingStateTimeout_of_state hst
  case refine_4 =>
    rintro ⟨hhost, hst, hbusy⟩
    rcases hno with hno | hno | hno
    · exact hno hst
    · exact Bool.false_ne_true (hno.symm.trans hhost)
    · exact hno hbusy

end Sys2Proof.Machine
end

section
/-! A running Halnal link (O37): flits, retraining, idling, lane sparing, epochs and latency probes. -/

namespace Sys2Proof.Machine

section
variable {s : State} {p : Nat}

theorem exec_flitReceive_of_clean {f : Flit} {obs : FlitObs} (hflow : s.flowing p = true) (hsym : obs.sym = []) (hlock : obs.locked8 = false) :
    exec (.flitReceive p f obs) s = .next (s.judgeFlit p f obs) := by
  show execFlitReceive p f obs s = _
  rw [execFlitReceive, if_pos hflow, hsym, hlock]
  exact congrArg Host.Outcome.next (if_pos hflow)

theorem exec_flitReceive_of_not_flowing {f : Flit} {obs : FlitObs} (hflow : s.flowing p = false) : exec (.flitReceive p f obs) s = .next s :=
  if_neg (Bool.eq_false_iff.mp hflow)

theorem State.judgeFlit_of_uncorrectable {f : Flit} {obs : FlitObs} (hfec : obs.fec = 2) :
    s.judgeFlit p f obs = (s.bump .HN_FEC_UE p .COUNT 1).flitFails p none := if_pos hfec

theorem State.judgeFlit_of_bad_crc {f : Flit} {obs : FlitObs} (hfec : obs.fec = 0) (hcrc : obs.crc = false ∨ 3 ≤ f.type) :
    s.judgeFlit p f obs = (s.bump .HN_CRC_ERR p .COUNT 1).flitFails p none := by
  rw [State.judgeFlit, if_neg (by omega)]
  simp only [if_pos hcrc]
  rw [if_neg (by omega)]

theorem exec_idleTimer_of_unused (hst : s.hnState p = 8) (hen : s.rd .HN_CTRL p .IDLE_EN = 1) (hused : s.linkUsed p = false)
    (hwait : (s.hn p).wait = []) : exec (.idleTimer p) s = .next ((s.sendSlot p 5).wr .HN_STATUS p .STATE 9) :=
  if_pos ⟨hst, hen, hused, List.isEmpty_iff.mpr hwait⟩

theorem exec_idleEnter_of_unused (hst : s.hnState p = 8) (hused : s.linkUsed p = false) : exec (.idleEnter p) s =
    .next (if (s.hn p).wait = [] then s.wr .HN_STATUS p .STATE 9 else (s.wr .HN_STATUS p .STATE 9).exitIdle p) := by
  refine (if_pos ⟨hst, hused⟩).trans ?_
  simp only [List.isEmpty_iff]

theorem State.startSpare_of_free {lane : Nat} (hspare : s.rd .HN_STATUS p .SPARE_RX = 0) (hfree : (s.hn p).sparing = none) :
    s.startSpare p lane = (s.modHn p fun y => { y with sparing := some lane }).sendSlot p (3 + 2 ^ 4 * lane) := by
  refine if_neg ?_
  rintro (hone | hsome)
  · omega
  · rw [hfree] at hsome
    exact Bool.false_ne_true hsome

theorem exec_laneLockLoss_of_free {lane : Nat} (hst : s.hnState p = 8) (hlane : lane < 8) (hspare : s.rd .HN_STATUS p .SPARE_RX = 0)
    (hfree : (s.hn p).sparing = none) : exec (.laneLockLoss p lane) s =
      .next ((s.modHn p fun y => { y with sparing := some lane }).sendSlot p (3 + 2 ^ 4 * lane)) := by
  show execLaneLockLoss p lane s = _
  rw [execLaneLockLoss, if_neg (not_not_intro hst), if_neg (Nat.not_le.mpr hlane), if_neg (by omega), hfree,
    if_neg (Option.some_ne_none lane).symm, State.startSpare_of_free hspare hfree]

theorem exec_hnSpareCmd_reached {t : State} {x : HnFields} (h : s.reaches .HN_CTRL p = true) (ht : s.unhold .HN_CTRL p = t) :
    exec (.hnSpareCmd p x) s = .next (if t.hnState p ≠ 8 ∨ t.rd .HN_STATUS p .SPARE_RX = 1 ∨ (t.hn p).sparing.isSome = true
      then (t.hnCtrl p x).wr .HN_STATUS p .CMD_ERR 1
      else if t.laneSel p < 8 then (t.hnCtrl p x).startSpare p (t.laneSel p) else t.hnCtrl p x) := by
  subst ht
  show execHnSpareCmd p x s = _
  rw [execHnSpareCmd, State.asWrite_reached h]
  simp only [apply_ite Host.Outcome.next]

theorem exec_epoch_of_keyed (hkey : s.keyed p = true) : exec (.epoch p) s = .next
    (((s.modHn p fun y => { y with epochRx := y.epochRx + 1, expect := 0 }).wr .MP_LINK_STATUS p .EPOCH_RX
      (((s.hn p).epochRx + 1) % 65536)).setKeys p) := by
  refine (if_pos hkey).trans ?_
  rw [State.hn_modHn_self]

theorem exec_echo_sixteenth {ta rt : Nat} (hst : s.hnState p = 6) (hlen : (s.hn p).echoes.length = 15) : exec (.echo p ta rt) s =
    .next ((s.modHn p fun y => { y with echoes := (s.hn p).echoes ++ [(rt - ta) / 2] }).wr .HN_LAT p .ONEWAY_PS
      (((s.hn p).echoes ++ [(rt - ta) / 2]).foldl max 0)) :=
  (if_pos ⟨hst, by omega⟩).trans (congrArg Host.Outcome.next (if_pos (by rw [List.length_append, hlen]; rfl)))

end

/-- Settles O37: each event by its guard, the commands of HN_CTRL on the state whose holding register is empty. -/
theorem runningLinkCommands : Obligations.RunningLinkCommands := by
  unfold Obligations.RunningLinkCommands
  intro s p lane ta rt f obs d x st h v ctl
  refine ⟨exec_flitReceive_of_clean, exec_flitReceive_of_not_flowing, fun _ => State.judgeFlit_of_uncorrectable,
    fun _ => State.judgeFlit_of_bad_crc, fun hst hkey => congrArg Host.Outcome.next (if_pos ⟨hst, hkey⟩), fun hno => congrArg Host.Outcome.next (if_neg ?_),
    fun hflow => congrArg Host.Outcome.next (if_pos hflow),
    fun hctl => ⟨State.asWrite_reached hctl fun s => .next ((s.hnCtrl p x).retrain p), State.asWrite_reached hctl fun s => .next ((s.hnCtrl p x).exitIdle p)⟩,
    exec_idleTimer_of_unused, fun _ hused => if_neg fun hc => Bool.false_ne_true (hc.2.symm.trans hused), exec_idleEnter_of_unused,
    fun hst => if_pos hst, fun hst hexit => congrArg Host.Outcome.next (if_pos ⟨hst, hexit⟩),
    fun hst => ⟨if_neg hst, congrArg Host.Outcome.next (if_neg fun hc => hst hc.1)⟩, exec_laneLockLoss_of_free,
    fun hctl hbusy => (exec_hnSpareCmd_reached hctl rfl).trans (congrArg _ (if_pos hbusy)),
    fun hctl hst hspare hfree => (exec_hnSpareCmd_reached hctl rfl).trans (congrArg _ (if_neg ?_)), fun hst => if_pos hst, fun hmirror => if_pos hmirror,
    fun hspare => congrArg Host.Outcome.next (if_pos (Or.inl (Option.isSome_iff_exists.mpr ⟨lane, hspare⟩))), exec_epoch_of_keyed,
    fun hkey => if_neg (Bool.eq_false_iff.mp hkey), fun hflow => congrArg Host.Outcome.next (if_pos hflow), exec_echo_sixteenth⟩
  case refine_1 =>
    rintro ⟨hst, hkey⟩
    exact hno.elim (absurd hst) fun hkeyless => Bool.false_ne_true (hkeyless.symm.trans hkey)
  case refine_2 =>
    rintro (hnot | hone | hsome)
    · exact hnot hst
    · exact absurd (hspare.symm.trans hone) (by decide)
    · exact Option.isSome_iff_ne_none.mp hsome hfree

end Sys2Proof.Machine
end

section
/-! The fabric of modules (O38): HELLO, packets, topology records, routes and link loss. -/

namespace Sys2Proof.Machine

section
variable {s : State} {p : Nat}

theorem exec_hello_of_up {addr peerPort : Nat} {valid : Bool} (hup : s.hnState p = 8 ∨ s.hnState p = 9) :
    exec (.hello p addr valid peerPort) s = .next
      (let n := s.wrs .FB_NBR p [(.ADDR, addr), (.ADDR_VALID, bit valid), (.PORT, peerPort)]
      if s.rd .FB_NBR p .STATE = 3 then n else n.setNbr p (n.judgeNbr p)) := if_pos hup

/-- An address above 127 is not valid, whatever is written with it (R529). -/
theorem State.setFbId_of_large {addr : Nat} {valid : Bool} (h : 127 < addr) : s.setFbId addr valid = s.setFbId addr false := by
  simp only [State.setFbId, decide_eq_false (Nat.not_le.mpr h), Bool.and_false]

theorem exec_fbIdWrite_of_large {addr : Nat} {valid : Bool} (h : 127 < addr) : exec (.fbIdWrite addr valid) s = exec (.fbIdWrite addr false) s :=
  congrArg (s.asWrite .FB_ID 0) (funext fun _ => congrArg Host.Outcome.next (State.setFbId_of_large h))

/-! A packet acts according to the neighbour on its port, where its command is the one of its KIND. -/

theorem State.packetIn_of_inactive {k : Packet} {frozen : Nat} (h : s.nbrActive p = false) : s.packetIn (some p) k frozen = s.fbDrop 1 :=
  if_neg (Bool.eq_false_iff.mp h)

theorem State.packetIn_of_active {k : Packet} {frozen : Nat} (h : s.nbrActive p = true) : s.packetIn (some p) k frozen =
    if (s.routePacket (some p) k).1 then (s.routePacket (some p) k).2.deliver k frozen else (s.routePacket (some p) k).2 := if_pos h

theorem exec_loadPacket_of_kind {port : Option Nat} {k : Packet} (h : k.kind < 2) : exec (.loadPacket port k) s = .next (s.packetIn port k 0) :=
  congrArg Host.Outcome.next (if_neg (by omega))

theorem exec_channelPacket_of_kind {port : Option Nat} {k : Packet} {frozen : Nat} (h : k.kind = 2) :
    exec (.channelPacket port k frozen) s = .next (s.packetIn port k frozen) := congrArg Host.Outcome.next (if_pos h)

theorem exec_mgmt_of_kind {port : Option Nat} {k : Packet} (h : k.kind = 4) : exec (.mgmt port k) s = .next (s.packetIn port k 0) :=
  congrArg Host.Outcome.next (if_pos h)

theorem exec_topo_of_active {k : Packet} {t : Topo} (hnbr : s.nbrActive p = true) (hid : s.rd .FB_ID 0 .ADDR_VALID = 1) (hkind : k.kind = 3)
    (hdata : k.data = .topo t) : exec (.topo p k) s = .next (s.topoArrives p k t) := by
  refine (if_pos ⟨hid, hnbr, hkind⟩).trans ?_
  rw [hdata]

section
variable (h : s.reaches .FB_CTRL 0 = true)
include h

theorem exec_fbActiveWrite_reached {t : State} (ht : s.unhold .FB_CTRL 0 = t) {active : Nat} : exec (.fbActiveWrite active) s =
    .next (if t.rd .FB_CTRL 0 .ROUTE_HOST = 1 then t.wr .FB_CTRL 0 .ACTIVE active else t.fbErr) := by
  subst ht
  exact State.asWrite_reached h fun s => .next (if s.rd .FB_CTRL 0 .ROUTE_HOST = 1 then s.wr .FB_CTRL 0 .ACTIVE active else s.fbErr)

theorem exec_routeHostWrite_reached {t : State} (ht : s.unhold .FB_CTRL 0 = t) {host : Bool} : exec (.routeHostWrite host) s =
    .next (if t.ownInFlight then t.fbErr else t.wr .FB_CTRL 0 .ROUTE_HOST (bit host)) := by
  subst ht
  exact State.asWrite_reached h fun s => .next (if s.ownInFlight then s.fbErr else s.wr .FB_CTRL 0 .ROUTE_HOST (bit host))

end

theorem exec_linkLoss_of_lost (hdown : ¬ (s.hnState p = 8 ∨ s.hnState p = 9)) (hpeer : (s.hn p).peer ≠ none) :
    exec (.linkLoss p) s = .next ((s.linkLost p 0).modHn p fun h => { h with peer := none, again := false }) := by
  refine if_neg ?_
  rintro (hup | hidle | hnone)
  · exact hdown (.inl hup)
  · exact hdown (.inr hidle)
  · exact hpeer (Option.isNone_iff_eq_none.mp hnone)

theorem exec_linkLoss_of_kept (h : (s.hnState p = 8 ∨ s.hnState p = 9) ∨ (s.hn p).peer = none) : exec (.linkLoss p) s = .next s := by
  refine if_pos ?_
  rw [← or_assoc]
  exact h.imp_right Option.isNone_iff_eq_none.mpr

end

/-- Settles O38: each event by its guard, the host's writes on the state whose holding register is empty. -/
theorem fabricCommands : Obligations.FabricCommands := by
  unfold Obligations.FabricCommands
  intro s p addr peerPort active frozen valid host k t up n bank
  refine ⟨fun hup hst => (exec_hello_of_up hup).trans (congrArg _ (if_neg hst)), fun hup hst => (exec_hello_of_up hup).trans (congrArg _ (if_pos hst)),
    fun hdown => if_neg hdown, fun hup => congrArg Host.Outcome.next (if_pos hup), fun hdown => congrArg Host.Outcome.next (if_neg hdown),
    fun h => State.asWrite_reached h fun s => .next (s.setFbId addr valid), exec_fbIdWrite_of_large, fun hnbr => ?_, fun hnbr => ?_,
    exec_loadPacket_of_kind, exec_topo_of_active, fun hid => ⟨if_neg fun hc => hid hc.1, congrArg Host.Outcome.next (if_neg hid)⟩,
    fun hid => congrArg Host.Outcome.next (if_pos hid), fun haddr => congrArg Host.Outcome.next (if_neg fun hc => haddr hc.2),
    fun hid => congrArg Host.Outcome.next (if_pos ⟨hid, rfl⟩), fun hhost => if_pos hhost, fun hhost => if_neg (by omega), fun h => ?_,
    exec_linkLoss_of_lost, exec_linkLoss_of_kept⟩
  case refine_1 =>
    exact ⟨fun hk => (exec_loadPacket_of_kind hk).trans (congrArg _ (State.packetIn_of_inactive hnbr)),
      fun hk => (exec_channelPacket_of_kind hk).trans (congrArg _ (State.packetIn_of_inactive hnbr)),
      fun hk => (exec_mgmt_of_kind hk).trans (congrArg _ (State.packetIn_of_inactive hnbr)),
      if_neg fun hc => Bool.false_ne_true (hnbr.symm.trans hc.2.1)⟩
  case refine_2 =>
    intro r
    exact ⟨fun hk => (exec_loadPacket_of_kind hk).trans (congrArg _ (State.packetIn_of_active hnbr)),
      fun hk => (exec_channelPacket_of_kind hk).trans (congrArg _ (State.packetIn_of_active hnbr)),
      fun hk => (exec_mgmt_of_kind hk).trans (congrArg _ (State.packetIn_of_active hnbr))⟩
  case refine_3 =>
    intro u
    exact ⟨fun hhost => (exec_fbActiveWrite_reached h rfl).trans (congrArg _ (if_pos hhost)), fun hhost => exec_fbActiveWrite_refused h hhost active,
      fun hown => (exec_routeHostWrite_reached h rfl).trans (congrArg _ (if_pos hown)),
      fun hown => (exec_routeHostWrite_reached h rfl).trans (congrArg _ (if_neg (Bool.eq_false_iff.mp hown)))⟩

end Sys2Proof.Machine
end

section
/-! Fabric time (O39): SYNC, the root, and writes of the time registers. -/

namespace Sys2Proof.Machine

section
variable {s : State}

theorem exec_high_of_none {p ns : Nat} (h : s.time.sync.find? (fun e => e.1 == p) = none) : exec (.high p ns) s = .next s := by
  show execHigh p ns s = _
  rw [execHigh, h]

theorem exec_high_of_waiting {p ns : Nat} {w : SyncWait} (h : s.time.sync.find? (fun e => e.1 == p) = some (p, w)) :
    exec (.high p ns) s = .next ((s.modTime fun t => { t with sync := tdel t.sync p }).pair p ns w) := by
  show execHigh p ns s = _
  rw [execHigh, h]

theorem exec_autoRootTimeout_of_root (hst : s.tmState = 0) (hauto : s.rd .TM_CTRL 0 .AUTO_ROOT = 1) (hid : s.rd .FB_ID 0 .ADDR_VALID = 1)
    (hroot : s.ownAddr = s.rd .FB_STATUS 0 .ROOT) (hoffers : s.time.offers = []) : exec .autoRootTimeout s = .next s.becomeRoot :=
  if_pos ⟨hst, hauto, hid, hroot, List.isEmpty_iff.mpr hoffers⟩

theorem exec_autoRootTimeout_of_not_root
    (h : s.tmState ≠ 0 ∨ s.rd .TM_CTRL 0 .AUTO_ROOT = 0 ∨ s.rd .FB_ID 0 .ADDR_VALID = 0 ∨ s.time.offers ≠ []) :
    exec .autoRootTimeout s = .next s := by
  refine if_neg ?_
  rintro ⟨hst, hauto, hid, -, hoffers⟩
  rcases h with h | h | h | h
  · exact h hst
  · omega
  · omega
  · exact h (List.isEmpty_iff.mp hoffers)

section
variable {f : TmFields} (h : s.reaches .TM_CTRL 0 = true)
include h

theorem exec_tmRoot_reached {t : State} (ht : s.unhold .TM_CTRL 0 = t) :
    exec (.tmRoot f) s = .next (if t.tmState = 0 then (t.tmCtrl f).becomeRoot else (t.tmCtrl f).tmErr) := by
  subst ht
  exact State.asWrite_reached h fun s => .next (if s.tmState = 0 then (s.tmCtrl f).becomeRoot else (s.tmCtrl f).tmErr)

theorem exec_tmLoad_reached {t : State} (ht : s.unhold .TM_CTRL 0 = t) :
    exec (.tmLoad f) s = .next (if t.tmState = 0 then { t.tmCtrl f with now := t.time.staged % 2 ^ 96 } else (t.tmCtrl f).tmErr) := by
  subst ht
  exact State.asWrite_reached h fun s => .next (if s.tmState = 0 then { s.tmCtrl f with now := s.time.staged % 2 ^ 96 } else (s.tmCtrl f).tmErr)

theorem exec_tmReset_reached {t : State} (ht : s.unhold .TM_CTRL 0 = t) : exec (.tmReset f) s =
    .next (((t.tmCtrl f).wrs .TM_STATUS 0 [(.STATE, 0), (.PARENT, 7), (.ROOT, 0), (.HOPS, 0), (.OUT_OF_TOL, 0)]).modTime
      fun t => { t with good := 0, sync := [], refused := [] }) := by
  subst ht
  exact State.asWrite_reached h fun s => .next (((s.tmCtrl f).wrs .TM_STATUS 0 [(.STATE, 0), (.PARENT, 7), (.ROOT, 0), (.HOPS, 0), (.OUT_OF_TOL, 0)]).modTime
    fun t => { t with good := 0, sync := [], refused := [] })

end

theorem exec_tmRateWrite_reached {t : State} {value : Nat} (h : s.reaches .TM_RATE 0 = true) (ht : s.unhold .TM_RATE 0 = t) :
    exec (.tmRateWrite value) s = .next (if t.rd .TM_CTRL 0 .SERVO_HOST = 1
      then t.wr .TM_RATE 0 .INC (2 ^ 33 + clampInt t.servoMax ((value % 2 ^ 36 : Nat) - (2 ^ 33 : Int))).toNat else t.tmErr) := by
  subst ht
  show execTmRateWrite value s = _
  rw [execTmRateWrite, State.asWrite_reached h]
  simp only [apply_ite Host.Outcome.next]

/-! TM_DT_INC_HI_WRITE (R567 to R569). -/

theorem State.dtOpen_of_alone {c : Nat} (h : (s.camp c).modules.length ≤ 1) : s.dtOpen c = true := by
  simp [State.dtOpen, State.spans, Nat.not_lt.mpr h]

/-- The increment written is submitted (R567). -/
def State.submitDt (s : State) (camp hi : Nat) : State :=
  (s.wr .TM_DT_INC_HI camp .INC hi).modCamp camp fun x => { x with dtNew := some (s.rd .TM_DT_INC_LO camp .INC + 2 ^ 40 * (hi % 2 ^ 24)) }

/-- The increment is carried to the camp's other modules (R568). -/
def State.carryDt (s : State) (camp hi : Nat) : State :=
  (((s.submitDt camp hi).modCamp camp fun x => { x with dtAcks := x.peers }).wr .TM_DT_CTRL camp .BUSY 1).forEach (s.camp camp).peers
    fun t p => t.originate p 4 (.mgmt (.dtInc (s.camp camp).tag (s.rd .TM_DT_INC_LO camp .INC + 2 ^ 40 * (hi % 2 ^ 24))))

theorem exec_tmDtIncHiWrite_reached {t : State} {camp hi : Nat} (h : s.reaches .TM_DT_INC_HI camp = true) (ht : s.unhold .TM_DT_INC_HI camp = t) :
    exec (.tmDtIncHiWrite camp hi) s = .next (if t.rd .DC_REPLAY_CTRL camp .REPLAY = 1 ∨ t.dtOpen camp = false then t.wr .TM_DT_CTRL camp .WR_ERR 1
      else if t.spans camp then t.carryDt camp hi else t.submitDt camp hi) := by
  subst ht
  show execTmDtIncHiWrite camp hi s = _
  rw [execTmDtIncHiWrite, State.asWrite_reached h]
  simp only [apply_ite Host.Outcome.next]
  rfl

end

/-- Settles O39: each event by its guard, the host's writes on the state whose holding register is empty. -/
theorem timeUnitCommands : Obligations.TimeUnitCommands := by
  unfold Obligations.TimeUnitCommands
  intro s p root hops ns frac value camp hi offer w f c ctl v z toRoot inc
  refine ⟨fun hnbr => congrArg Host.Outcome.next (if_pos hnbr), fun hnbr => congrArg Host.Outcome.next (if_neg (Bool.eq_false_iff.mp hnbr)),
    exec_high_of_none, exec_high_of_waiting, fun hst => if_pos hst, fun hnotLocked hnotRoot => if_neg (not_or.mpr ⟨hnotLocked, hnotRoot⟩),
    exec_autoRootTimeout_of_root, exec_autoRootTimeout_of_not_root,
    fun h hst => ⟨(exec_tmRoot_reached h rfl).trans (congrArg _ (if_pos hst)), (exec_tmLoad_reached h rfl).trans (congrArg _ (if_pos hst))⟩,
    fun h hst => ⟨(exec_tmRoot_reached h rfl).trans (congrArg _ (if_neg hst)), (exec_tmLoad_reached h rfl).trans (congrArg _ (if_neg hst))⟩,
    fun h => exec_tmReset_reached h rfl, fun h hhost => (exec_tmRateWrite_reached h rfl).trans (congrArg _ (if_pos hhost)),
    fun h hhost => (exec_tmRateWrite_reached h rfl).trans (congrArg _ (if_neg fun hone => absurd (hhost.symm.trans hone) (by decide))),
    fun h hshut => (exec_tmDtIncHiWrite_reached h rfl).trans (congrArg _ (if_pos hshut)), fun h hlive halone => ?_, fun h hlive hspans hopen => ?_⟩
  case refine_1 =>
    refine (exec_tmDtIncHiWrite_reached h rfl).trans (congrArg _ ((if_neg ?_).trans (if_neg ?_)))
    · rintro (hone | hshut)
      · exact absurd (hlive.symm.trans hone) (by decide)
      · exact Bool.false_ne_true (hshut.symm.trans (State.dtOpen_of_alone halone))
    · exact fun hspans => Nat.not_lt.mpr halone (of_decide_eq_true hspans)
  case refine_2 =>
    refine (exec_tmDtIncHiWrite_reached h rfl).trans (congrArg _ ((if_neg ?_).trans (if_pos (decide_eq_true hspans))))
    rintro (hone | hshut)
    · exact absurd (hlive.symm.trans hone) (by decide)
    · exact Bool.false_ne_true (hshut.symm.trans hopen)

end Sys2Proof.Machine
end

section
/-! Comparators, conditioned inputs and the capture units (O40). -/

namespace Sys2Proof.Machine

section
variable {s : State} {i u : Nat}

theorem exec_inputLevelChange_of_held {level : Bool} (hi : i < 3) : exec (.inputLevelChange i level false) s =
    .next (if (s.inp i).raw ≠ level ∧ (s.inp i).window = true ∧ s.rd .ACQ_IN_CFG i .MASKED = 0
      then (s.modIn i fun y => { y with raw := level }).bump .ACQ_IN_OVERRATE i .COUNT 1 else s.modIn i fun y => { y with raw := level }) := by
  show execInputLevelChange i level false s = _
  rw [execInputLevelChange, if_neg (by simp [hi])]
  simp only [apply_ite Host.Outcome.next]

theorem exec_inputStuck_of_not_stuck (h : s.rd .ACQ_IN_CFG i .STUCK_MS = 0 ∨ (s.inp i).raw ≠ s.activeLevel i) :
    exec (.inputStuck i) s = .next s :=
  if_neg fun hc => h.elim hc.2.1 fun hidle => hidle hc.2.2

section
variable {f : AcqFields} {t : State} (h : s.reaches .ACQ_CTRL u = true) (ht : s.unhold .ACQ_CTRL u = t)
include h ht

theorem exec_acqArm_reached : exec (.acqArm u f) s =
    .next (if t.unitState u = 0 ∨ t.unitState u = 4 then (t.acqCtrl u f).armUnit u 0 else t.acqCtrl u f) := by
  subst ht
  show execAcqArm u f s = _
  rw [execAcqArm, State.asWrite_reached h]
  simp only [apply_ite Host.Outcome.next]

theorem exec_acqStop_reached : exec (.acqStop u f) s = .next ((t.acqCtrl u f).stopUnit u 3) := by
  subst ht
  exact State.asWrite_reached h fun s => .next ((s.acqCtrl u f).stopUnit u 3)

theorem exec_acqForce_reached : exec (.acqForce u f) s =
    .next ((t.acqCtrl u f).modUnit u fun x => if x.events.contains .force then x else { x with events := x.events ++ [.force] }) := by
  subst ht
  exact State.asWrite_reached h fun s =>
    .next ((s.acqCtrl u f).modUnit u fun x => if x.events.contains .force then x else { x with events := x.events ++ [.force] })

end

/-- The camp that owns an event decoder (R613). -/
def State.decOwner (s : State) (dec : Nat) : Option Nat := if s.rd .ACQ_DEC_CFG dec .OWNED = 1 then some (s.rd .ACQ_DEC_CFG dec .CAMP) else none

theorem exec_decForce_reached {t : State} {dec format : Nat} {host : Bool} (h : s.reaches .ACQ_DEC_CFG dec = true) (ht : s.unhold .ACQ_DEC_CFG dec = t) :
    exec (.decForce dec format host) s = .next (if t.acqWritable (t.decOwner dec) = true
      then (if host then (t.decCtrl dec format host).latchEvent (.dec dec) else t.decCtrl dec format host) else t.decCtrl dec format host) := by
  subst ht
  show execDecForce dec format host s = _
  rw [execDecForce, State.asWrite_reached h]
  simp only [apply_ite Host.Outcome.next]
  rfl

theorem exec_holdoffEnd_of_over (hst : s.unitState u = 3) (hmin : 64 ≤ (s.unit u).since) (hset : s.rd .ACQ_TIMING u .HOLDOFF ≤ (s.unit u).since) :
    exec (.holdoffEnd u) s = .next (s.armUnit u (if s.rd .ACQ_SEQ u .BUF = s.rd .ACQ_CTRL u .BUFS then 0 else s.rd .ACQ_SEQ u .BUF + 1)) :=
  if_pos ⟨hst, Nat.max_le.mpr ⟨hmin, hset⟩⟩

theorem exec_holdoffEnd_of_early (h : (s.unit u).since < 64) : exec (.holdoffEnd u) s = .next s :=
  if_neg fun hc => absurd (Nat.le_trans (Nat.le_max_left 64 _) hc.2) (Nat.not_le.mpr h)

theorem exec_captureWriteDone_of_none (hrecs : (s.unit u).recs = []) (hfull : (s.unit u).full = false) : exec (.captureWriteDone u) s = .next s := by
  show execCaptureWriteDone u s = _
  rw [execCaptureWriteDone, hrecs, hfull]
  exact congrArg Host.Outcome.next (if_neg fun hc => Bool.false_ne_true hc.2)

theorem exec_captureWriteDone_of_error {r : AcqRec} {l : List AcqRec} {c : Nat} (hrecs : (s.unit u).recs = r :: l) (herr : (s.writeRec u r).1 = some c) :
    exec (.captureWriteDone u) s = .next ((s.writeRec u r).2.captureError u) := by
  show execCaptureWriteDone u s = _
  simp only [execCaptureWriteDone, hrecs, herr]

end

/-- Settles O40: each event by its guard, the commands of a unit on the state whose holding register is empty. -/
theorem acquisitionCommands : Obligations.AcquisitionCommands := by
  unfold Obligations.AcquisitionCommands
  intro s k u i dec format host level f x ctrl ctl dctl v owner b w
  exact ⟨fun hfire => congrArg Host.Outcome.next (if_pos hfire), fun hfire => congrArg Host.Outcome.next (if_neg (Bool.eq_false_iff.mp hfire)), rfl,
    fun hi hdue => if_pos ⟨hi, hdue⟩, fun hdue => if_neg fun hc => Bool.false_ne_true (hdue.symm.trans hc.2),
    fun hdue => congrArg Host.Outcome.next (if_pos hdue), fun hdue => congrArg Host.Outcome.next (if_neg (Bool.eq_false_iff.mp hdue)),
    fun hi hdue => congrArg Host.Outcome.next (if_pos ⟨hi, hdue⟩),
    fun hdue => congrArg Host.Outcome.next (if_neg fun hc => Bool.false_ne_true (hdue.symm.trans hc.2)),
    fun hi hms hactive => if_pos ⟨hi, hms, hactive⟩, exec_inputStuck_of_not_stuck,
    fun hi hlevel hopen hmask => (exec_inputLevelChange_of_held hi).trans (congrArg _ (if_pos ⟨hlevel, hopen, hmask⟩)),
    fun hi hshut => (exec_inputLevelChange_of_held hi).trans (congrArg _ (if_neg fun hc => Bool.false_ne_true (hshut.symm.trans hc.2.1))),
    if_pos (Or.inr rfl), fun hi hmask hidle => if_pos ⟨hi, hmask, hidle⟩,
    fun h hst => (exec_acqArm_reached h rfl).trans (congrArg _ (if_pos hst)),
    fun h hnotIdle hnotStopped => (exec_acqArm_reached h rfl).trans (congrArg _ (if_neg (not_or.mpr ⟨hnotIdle, hnotStopped⟩))),
    fun h => exec_acqStop_reached h rfl, fun h hopen => (exec_acqStop_reached h rfl).trans (congrArg _ (if_pos hopen)),
    fun h => exec_acqForce_reached h rfl, fun h hwrite => (exec_decForce_reached h rfl).trans (congrArg _ (if_pos hwrite)),
    fun h hwrite => (exec_decForce_reached h rfl).trans (congrArg _ (if_neg (Bool.eq_false_iff.mp hwrite))),
    fun hst hset hover => if_pos ⟨hst, hset, hover⟩, exec_holdoffEnd_of_over, exec_holdoffEnd_of_early, exec_captureWriteDone_of_none,
    fun hrecs => if_pos (List.isEmpty_iff.mpr hrecs), fun hrecs => if_neg (mt List.isEmpty_iff.mp hrecs),
    fun _ _ _ => exec_captureWriteDone_of_error, rfl⟩

end Sys2Proof.Machine
end

section
/-! Trace commands and debug tokens (O41). -/

namespace Sys2Proof.Machine

section
variable {s : State}

theorem exec_traceFrameWrite_of_wait (h : s.traceRoute.trace.closed = [] ∨ s.traceRoute.trace.draining = true) :
    exec .traceFrameWrite s = .next s.traceRoute := by
  show execTraceFrameWrite s = _
  simp only [execTraceFrameWrite]
  split
  · rfl
  next hclosed =>
    refine if_pos (h.resolve_left ?_)
    rw [hclosed]
    exact List.cons_ne_nil _ _

theorem exec_traceFrameWrite_of_closed {fr : Frame} {rest : List Frame} (hclosed : s.traceRoute.trace.closed = fr :: rest)
    (hdrain : s.traceRoute.trace.draining = false) : exec .traceFrameWrite s = .next (if s.traceRoute.trace.onRing
      then ((s.traceRoute.modTrace fun u => { u with closed := rest }).toRing fr).2
      else (s.traceRoute.modTrace fun u => { u with closed := rest }).toFallback fr) := by
  show execTraceFrameWrite s = _
  simp only [execTraceFrameWrite, hclosed, hdrain, if_neg Bool.false_ne_true, apply_ite Host.Outcome.next]

theorem State.modTrace_congr {f g : TraceUnit → TraceUnit} (h : f s.trace = g s.trace) : s.modTrace f = s.modTrace g :=
  congrArg (fun t => ({ s with trace := t } : State)) h

/-- The frame that a bus error drops was on its way to the ring (R627). -/
theorem exec_traceBusError_of_ring (hdrain : s.trace.draining = false) (hring : s.trace.onRing = true) :
    exec .traceBusError s = .next (s.modTrace fun u => { u with closed := u.closed.drop 1 }).traceBusErr := by
  have hdrop : ¬ (s.trace.draining || !s.trace.onRing) = true := by simp [hdrain, hring]
  refine congrArg (fun u => Host.Outcome.next (State.traceBusErr u)) (State.modTrace_congr ?_)
  exact congrArg (fun l => { s.trace with closed := l }) (if_neg hdrop)

theorem exec_traceBusError_of_no_ring (h : s.trace.draining = true ∨ s.trace.onRing = false) : exec .traceBusError s = .next s.traceBusErr := by
  have hkept : (s.trace.draining || !s.trace.onRing) = true := by
    rcases h with h | h <;> simp [h]
  refine congrArg (fun u => Host.Outcome.next (State.traceBusErr u)) (?_ : s.modTrace _ = s.modTrace id)
  exact State.modTrace_congr (congrArg (fun l => { s.trace with closed := l }) (if_pos hkept))

section
variable {t : State} {slot : Nat} (h : s.reaches .TR_TOKEN_CMD 0 = true) (ht : s.unhold .TR_TOKEN_CMD 0 = t)
include h ht

theorem exec_tokenLoad_reached : exec (.tokenLoad slot) s = .next (if t.rd .TR_TOKEN_CMD 0 .BUSY = 1 then t else
    ((t.wrs .TR_TOKEN_CMD 0 [(.SLOT, slot), (.BUSY, 1)]).modTrace fun u => { u with loading := some (slot % 8) }).emit
      (.hostRead (t.rd .TR_TOKEN_ADDR_LO 0 .ADDR + 2 ^ 40 * t.rd .TR_TOKEN_ADDR_HI 0 .ADDR) 144)) := by
  subst ht
  show execTokenLoad slot s = _
  rw [execTokenLoad, State.asWrite_reached h]
  simp only [apply_ite Host.Outcome.next]

theorem exec_tokenRevoke_reached : exec (.tokenRevoke slot) s = .next (if t.rd .TR_TOKEN_CMD 0 .BUSY = 1 then t else
    (t.wrs .TR_TOKEN_CMD 0 [(.SLOT, slot), (.RESULT, 0)]).dropToken (slot % 8)) := by
  subst ht
  show execTokenRevoke slot s = _
  rw [execTokenRevoke, State.asWrite_reached h]
  simp only [apply_ite Host.Outcome.next]

end

/-- A token's load ends with a result (R629, R635). -/
def State.tokenShows (s : State) (res : Nat) : State :=
  (s.wrs .TR_TOKEN_CMD 0 [(.BUSY, 0), (.RESULT, res)]).modTrace fun u => { u with loading := none }

/-- A token that has passed its checks takes its slot (R630). -/
def State.tokenTaken (s : State) (t : Nat) (b : List Byte) : State :=
  (s.wrs .TR_TOKEN t [(.VALID, 1), (.KEY_ID, leNat ((b.drop 5).take 1)), (.SCOPE, leNat ((b.drop 6).take 2))]).modTrace fun u =>
    { u with domains := tset u.domains t (leNat ((b.drop 0x18).take 8)) }

theorem exec_tokenLoadDone_of_none {ok : Bool} {bytes : List Byte} (h : s.trace.loading = none) : exec (.tokenLoadDone ok bytes) s = .next s := by
  show execTokenLoadDone ok bytes s = _
  rw [execTokenLoadDone, h]

theorem exec_tokenLoadDone_of_loading {ok : Bool} {bytes : List Byte} {t res : Nat} (h : s.trace.loading = some t)
    (hres : (if ok then s.tokenResult bytes else 4) = res) : exec (.tokenLoadDone ok bytes) s =
      .next (if res = 0 then (s.tokenShows res).tokenTaken t bytes else s.tokenShows res) := by
  subst hres
  show execTokenLoadDone ok bytes s = _
  simp only [execTokenLoadDone, h, apply_ite Host.Outcome.next]
  rfl

theorem State.tokenResult_of_short {b : List Byte} (h : b.length ≠ 144) : s.tokenResult b = 1 := if_pos (Or.inl h)

end

/-- Settles O41: each event by its guard, the host's commands on the state whose holding register is empty. -/
theorem traceAndTokenCommands : Obligations.TraceAndTokenCommands := by
  unfold Obligations.TraceAndTokenCommands
  intro s k slot t ok bytes fr rest q num idle w v tok
  exact ⟨fun h => ⟨State.asWrite_reached h fun s => .next (s.forEach (List.range 16) State.closeFrame),
      State.asWrite_reached h fun s => .next (s.modTrace fun u => { u with busErr := false }).traceRoute,
      State.asWrite_reached h fun s => .next (s.modTrace fun u => { u with fb := [], head := 0 })⟩, rfl,
    fun hset hon => if_pos ⟨hset, hon⟩, fun hno => if_neg fun hc => hno.elim hc.1 fun hoff => Bool.false_ne_true (hoff.symm.trans hc.2),
    exec_traceFrameWrite_of_wait, exec_traceFrameWrite_of_closed, exec_traceBusError_of_ring, exec_traceBusError_of_no_ring,
    fun hdrain => if_pos hdrain, fun hdrain => if_neg (Bool.eq_false_iff.mp hdrain),
    fun h hbusy => ⟨(exec_tokenLoad_reached h rfl).trans (congrArg _ (if_pos hbusy)), (exec_tokenRevoke_reached h rfl).trans (congrArg _ (if_pos hbusy))⟩,
    fun h hidle => (exec_tokenLoad_reached h rfl).trans (congrArg _ (if_neg fun hc => absurd (hidle.symm.trans hc) (by decide))),
    fun h hidle => (exec_tokenRevoke_reached h rfl).trans (congrArg _ (if_neg fun hc => absurd (hidle.symm.trans hc) (by decide))),
    exec_tokenLoadDone_of_none, fun hload => exec_tokenLoadDone_of_loading (res := 4) hload rfl,
    fun hload hshort => exec_tokenLoadDone_of_loading (res := 1) hload (State.tokenResult_of_short hshort),
    fun hload => exec_tokenLoadDone_of_loading (res := s.tokenResult bytes) hload rfl⟩

end Sys2Proof.Machine
end

section
/-! Power on, shut-offs, resets, the boot phases, firmware programming and the reference clock (O42). -/

namespace Sys2Proof.Machine

section
variable {s : State}

theorem State.shutOff_of_on {n : Nat} (hphase : s.rd .PW_STATUS 0 .PHASE ≠ 0) (hshut : s.power.shut = none) :
    s.shutOff n = (s.wipe alwaysOnReg).showHealth.modPower fun p => { p with shut := some n } := by
  refine if_neg ?_
  rintro (hzero | hoff)
  · exact hphase hzero
  · rw [hshut] at hoff
    exact Bool.false_ne_true hoff

theorem exec_inputRecovery_of_shut {n : Nat} (hshut : s.power.shut = some n) :
    exec .inputRecovery s = .next (if n = 2 ∨ n = 3 then s.moduleReset n else s) := by
  show execInputRecovery s = _
  rw [execInputRecovery, hshut]

theorem exec_thermalCooldown_of_shut {n : Nat} (hshut : s.power.shut = some n) :
    exec .thermalCooldown s = .next (if n = 4 then s.moduleReset 4 else s) := by
  show execThermalCooldown s = _
  simp only [execThermalCooldown, hshut, Option.some.injEq]

theorem State.moduleReset_of_heard {n : Nat} (hphase : s.rd .PW_STATUS 0 .PHASE ≠ 0) (hshut : s.power.shut = none ∨ s.power.shut = some n) :
    s.moduleReset n = ((s.wipe fun _ => false).pickRef (s.rd .PW_REFCLK 0 .PRESENT == 1)).showHealth.wrs .PW_STATUS 0
      [(.PHASE, 1), (.LAST_RESET, n)] := by
  refine if_neg ?_
  rintro (hzero | ⟨hoff, hother⟩)
  · exact hphase hzero
  · rcases hshut with hnone | hsame
    · rw [hnone] at hoff
      exact Bool.false_ne_true hoff
    · exact hother hsame

/-- The firmware that the ROM starts (R651): of the slot that BOOT_SLOT names, then of the other. -/
def State.romVerified (s : State) : State :=
  match verifyFw s.part (s.fwSlot s.bootSlot), verifyFw s.part (s.fwSlot (1 - s.bootSlot)) with
  | .inr rev, _ => s.startFirmware s.bootSlot rev
  | .inl _, .inr rev => s.startFirmware (1 - s.bootSlot) rev
  | .inl _, .inl _ => s.enterRecovery

theorem exec_romVerifyDone_of_phase (hphase : s.rd .PW_STATUS 0 .PHASE = 1) (hshut : s.power.shut = none) :
    exec .romVerifyDone s = .next s.romVerified := by
  refine (if_pos ⟨hphase, hshut⟩).trans ?_
  unfold State.romVerified
  cases verifyFw s.part (s.fwSlot s.bootSlot) <;> cases verifyFw s.part (s.fwSlot (1 - s.bootSlot)) <;> rfl

/-! DRAM_PHASE_DONE (R651): by the states of the eight channels. -/

theorem State.dramFailed_iff : (!(List.range 8).all fun c => s.dmState c != 4) = true ↔ ∃ c, c < 8 ∧ s.dmState c = 4 := by
  simp only [Bool.not_eq_true', List.all_eq_false, List.mem_range, bne_iff_ne, Decidable.not_not]

theorem State.dramUntrained_iff : ((List.range 8).all fun c => s.dmState c == 1) = true ↔ ∀ c, c < 8 → s.dmState c = 1 := by
  simp only [List.all_eq_true, List.mem_range, beq_iff_eq]

section
variable {delays bounds : List Nat}

theorem exec_dramPhaseDone_of_failed (hphase : s.rd .PW_STATUS 0 .PHASE = 3) (h : ∃ c, c < 8 ∧ s.dmState c = 4) :
    exec (.dramPhaseDone delays bounds) s = .next ((s.wr .PW_STATUS 0 .PHASE 7).irq 0) :=
  (if_neg (not_not_intro hphase)).trans (if_pos (State.dramFailed_iff.mpr h))

theorem exec_dramPhaseDone_of_host (hphase : s.rd .PW_STATUS 0 .PHASE = 3) (hhost : s.rd .DM_CTRL 0 .TRAIN_HOST = 1)
    (h : ∀ c, c < 8 → s.dmState c = 1) : exec (.dramPhaseDone delays bounds) s = .next (s.wr .PW_STATUS 0 .PHASE 4) := by
  refine (if_neg (not_not_intro hphase)).trans ((if_neg (mt State.dramFailed_iff.mp ?_)).trans ((if_pos hhost).trans ?_))
  · rintro ⟨c, hc, hfailed⟩
    exact absurd ((h c hc).symm.trans hfailed) (by decide)
  · exact congrArg Host.Outcome.next (if_pos (State.dramUntrained_iff.mpr h))

end

/-- A stream that verifies in RECOVERY is slot 0 from then on (R651). -/
def State.recovered (s : State) : State :=
  match verifyFw s.part s.load.stream with
  | .inr _ => (({ s with flash := { s.flash with slot0 := s.load.stream } }.putConf 5 [0]).modLoad fun l => { l with stream := [] }).wr .PW_STATUS 0 .PHASE 1
  | .inl _ => s

theorem exec_recoveryStreamVerified_of_recovery (hphase : s.rd .PW_STATUS 0 .PHASE = 6) : exec .recoveryStreamVerified s = .next s.recovered := by
  show execRecoveryStreamVerified s = _
  rw [execRecoveryStreamVerified, hphase]
  unfold State.recovered
  cases verifyFw s.part s.load.stream <;> rfl

theorem exec_recoveryStreamVerified_of_other (hphase : s.rd .PW_STATUS 0 .PHASE ≠ 6) : exec .recoveryStreamVerified s = .next s := by
  show execRecoveryStreamVerified s = _
  unfold execRecoveryStreamVerified
  split
  next hsix _ => exact absurd hsix hphase
  · rfl

theorem exec_fwProgram_reached {t : State} {w : PwFields} (h : s.reaches .PW_CTRL 0 = true) (ht : s.unhold .PW_CTRL 0 = t) :
    exec (.fwProgram w) s = .next (let a := t.rd .PW_FW_ADDR_LO 0 .ADDR + 2 ^ 40 * t.rd .PW_FW_ADDR_HI 0 .ADDR
      if 2 ≤ t.rd .PW_STATUS 0 .PHASE ∧ t.rd .PW_STATUS 0 .PHASE ≠ 6 ∧ t.power.prog = none ∧ t.power.shut = none
      then (((t.pwFields w).wr .PW_FW_STATUS 0 .BUSY 1).modPower fun p => { p with prog := some (a, t.rd .PW_FW_LEN 0 .BYTES) }).emit
        (.hostRead a (t.rd .PW_FW_LEN 0 .BYTES))
      else t.pwFields w) := by
  subst ht
  show execFwProgram w s = _
  rw [execFwProgram, State.asWrite_reached h]
  simp only [apply_ite Host.Outcome.next]

theorem exec_fwProgramDone_of_failed_read {pr : Nat × Nat} {bytes : List Byte} {flash : Bool} (h : s.power.prog = some pr) :
    exec (.fwProgramDone false bytes flash) s =
      .next (((s.modPower fun p => { p with prog := none }).wr .PW_FW_STATUS 0 .BUSY 0).wr .PW_FW_STATUS 0 .RESULT 4) := by
  show execFwProgramDone false bytes flash s = _
  rw [execFwProgramDone, h]
  rfl

section
variable {en : Bool} {t : State} (h : s.reaches .PW_REFCLK 0 = true) (ht : s.unhold .PW_REFCLK 0 = t)
include h ht

theorem exec_useIn_reached : exec (.useIn en) s = .next (if t.rd .PW_REFCLK 0 .PRESENT = 1
    then (t.wr .PW_REFCLK 0 .OUT_EN (bit en)).wr .PW_REFCLK 0 .SRC 0 else (t.wr .PW_REFCLK 0 .OUT_EN (bit en)).wr .PW_REFCLK 0 .CMD_ERR 1) := by
  subst ht
  exact State.asWrite_reached h fun s => .next (if s.rd .PW_REFCLK 0 .PRESENT = 1
    then (s.wr .PW_REFCLK 0 .OUT_EN (bit en)).wr .PW_REFCLK 0 .SRC 0 else (s.wr .PW_REFCLK 0 .OUT_EN (bit en)).wr .PW_REFCLK 0 .CMD_ERR 1)

theorem exec_useLocal_reached : exec (.useLocal en) s = .next ((t.wr .PW_REFCLK 0 .OUT_EN (bit en)).wr .PW_REFCLK 0 .SRC 1) := by
  subst ht
  exact State.asWrite_reached h fun s => .next ((s.wr .PW_REFCLK 0 .OUT_EN (bit en)).wr .PW_REFCLK 0 .SRC 1)

end
end

/-- Settles O42: each event by the phase and by what holds the module off, the host's commands on the state whose holding register is
empty. -/
theorem powerAndStartUpCommands : Obligations.PowerAndStartUpCommands := by
  unfold Obligations.PowerAndStartUpCommands
  intro s refin ok flash en w times delays bounds bytes pr n ph ctl ref c off r from40
  refine ⟨fun hph => if_pos hph, fun hph => if_neg hph,
    fun hph hon => ⟨congrArg _ (State.shutOff_of_on hph hon), congrArg _ (State.shutOff_of_on hph hon), congrArg _ (State.shutOff_of_on hph hon)⟩,
    fun hshut hn => ⟨(exec_inputRecovery_of_shut hshut).trans (congrArg _ (if_pos hn)), (exec_thermalCooldown_of_shut hshut).trans (congrArg _ (if_neg (by omega)))⟩,
    fun hshut => ⟨exec_thermalCooldown_of_shut hshut, exec_inputRecovery_of_shut hshut⟩,
    fun h => State.asWrite_reached h fun s => .next (s.moduleReset 1), State.moduleReset_of_heard,
    fun hph hon => (exec_romVerifyDone_of_phase hph hon).trans (congrArg Host.Outcome.next ?_), exec_dramPhaseDone_of_failed, exec_dramPhaseDone_of_host, fun hph => if_pos hph, fun hph => if_pos hph,
    fun hph => (exec_recoveryStreamVerified_of_recovery hph).trans (congrArg Host.Outcome.next ?_), exec_recoveryStreamVerified_of_other,
    fun h hlo hph hprog hon => (exec_fwProgram_reached h rfl).trans (congrArg _ (if_pos ⟨hlo, hph, hprog, hon⟩)),
    fun h hno => (exec_fwProgram_reached h rfl).trans (congrArg _ (if_neg ?_)), fun hprog => exec_fwProgramDone_of_no_job hprog ok bytes flash,
    exec_fwProgramDone_of_failed_read, fun hsrc => if_pos hsrc, fun hsrc => if_neg hsrc, rfl,
    fun h hpres => (exec_useIn_reached h rfl).trans (congrArg _ (if_pos hpres)),
    fun h hpres => (exec_useIn_reached h rfl).trans (congrArg _ (if_neg fun hone => absurd (hpres.symm.trans hone) (by decide))),
    fun h => exec_useLocal_reached h rfl, ⟨_, rfl, rfl, rfl, rfl, rfl, rfl⟩⟩
  case refine_1 =>
    unfold State.romVerified
    cases verifyFw s.part (s.fwSlot s.bootSlot) <;> cases verifyFw s.part (s.fwSlot (1 - s.bootSlot)) <;> rfl
  case refine_2 =>
    unfold State.recovered
    cases verifyFw s.part s.load.stream <;> rfl
  case refine_3 =>
    rintro ⟨hlo, hph, hprog, -⟩
    rcases hno with hearly | hrecovery | hbusy
    · exact absurd hlo (Nat.not_le.mpr hearly)
    · exact hph hrecovery
    · exact hbusy hprog

end Sys2Proof.Machine
end

section
/-! The power controller's interval (O43), and host writes of the health registers (O45). -/

namespace Sys2Proof.Machine

section
variable {s : State}

/-- Current, temperature or power is above its limit (R645). -/
def State.overLimit (s : State) (o : PowerObs) : Prop :=
  o.ilim = true ∨ s.rd .PW_CTRL 0 .TEMP_LIM < (hottest o.temps).1 ∨ s.powerLimit o.vavg < o.pin

theorem State.overLimit_iff {o : PowerObs} : (o.ilim || decide (s.rd .PW_CTRL 0 .TEMP_LIM < (hottest o.temps).1) ||
    decide (s.powerLimit o.vavg < o.pin)) = true ↔ s.overLimit o := by
  simp only [Bool.or_eq_true, decide_eq_true_eq, or_assoc, State.overLimit]

section
variable {o : PowerObs}

theorem exec_powerControlInterval_of_over (h : s.overLimit o) : exec (.powerControlInterval o) s =
    .next (((s.showSensors o).forEach (s.movable.filter fun c =>
      decide (250 ≤ levelMhz (s.rd .RUN_CAMP_TARGET c .MHZ) (s.rd .PW_CAMP c .LEVEL + 1))) fun t c =>
        t.setLevel c (s.rd .PW_CAMP c .LEVEL + 1)).modPower fun p => { p with quiet := 0 }) := if_pos (State.overLimit_iff.mpr h)

variable (h : ¬ s.overLimit o)
include h

theorem exec_powerControlInterval_of_tenth (hunder : o.pin + s.rd .PW_CTRL 0 .HYST_W ≤ s.powerLimit o.vavg) (hquiet : s.power.quiet = 9) :
    exec (.powerControlInterval o) s = .next (((s.showSensors o).forEach (s.movable.filter fun c => decide (0 < s.rd .PW_CAMP c .LEVEL)) fun t c =>
      t.setLevel c (s.rd .PW_CAMP c .LEVEL - 1)).modPower fun p => { p with quiet := 0 }) :=
  (if_neg (mt State.overLimit_iff.mp h)).trans ((if_pos hunder).trans (if_pos (congrArg (· + 1) hquiet)))

theorem exec_powerControlInterval_of_quiet (hunder : o.pin + s.rd .PW_CTRL 0 .HYST_W ≤ s.powerLimit o.vavg) (hquiet : s.power.quiet ≠ 9) :
    exec (.powerControlInterval o) s = .next ((s.showSensors o).modPower fun p => { p with quiet := p.quiet + 1 }) :=
  (if_neg (mt State.overLimit_iff.mp h)).trans ((if_pos hunder).trans (if_neg (mt Nat.succ.inj hquiet)))

theorem exec_powerControlInterval_of_between (hunder : ¬ o.pin + s.rd .PW_CTRL 0 .HYST_W ≤ s.powerLimit o.vavg) :
    exec (.powerControlInterval o) s = .next ((s.showSensors o).modPower fun p => { p with quiet := 0 }) :=
  (if_neg (mt State.overLimit_iff.mp h)).trans (if_neg hunder)

end

/-- The camps whose clock the controller may move (R645). -/
theorem State.mem_movable {c : Nat} : c ∈ s.movable ↔ c < 64 ∧ s.campState c = 3 ∧ s.rd .RUN_CAMP_STATUS c .RAMPING = 0 := by
  simp only [State.movable, List.mem_filter, List.mem_range, Bool.and_eq_true, beq_iff_eq]

end

/-- Settles O43: the three bands of the interval, and what a move of a level is. -/
theorem powerControlKeepsThePowerLimit : Obligations.PowerControlKeepsThePowerLimit := by
  unfold Obligations.PowerControlKeepsThePowerLimit
  intro s o l above under shown level zero slow fast
  exact ⟨exec_powerControlInterval_of_over, exec_powerControlInterval_of_tenth, exec_powerControlInterval_of_quiet,
    exec_powerControlInterval_of_between, fun _ _ _ => rfl, fun _ => State.mem_movable⟩

section
variable {s t : State}

/-- A scrub pass that the host begins (R667). -/
def State.scrubBegun (s : State) (d kind slot : Nat) : State :=
  { (s.wrs .SC_CTRL d [(.KIND, kind), (.SLOT, slot)]).wr .SC_STATUS d .BUSY 1 with
      health := { s.health with scrubs := tset s.health.scrubs d (kind, slot % 128) } }

theorem exec_scrubGo_reached {d kind slot : Nat} (h : s.reaches .SC_CTRL d = true) (ht : s.unhold .SC_CTRL d = t) : exec (.scrubGo d kind slot) s =
    .next (if t.rd .HS_CTRL 0 .SCRUB_HOST = 1 ∧ t.rd .SC_STATUS d .BUSY = 0 ∧ kind ≤ 4 then t.scrubBegun d kind slot
      else t.wrs .SC_CTRL d [(.KIND, kind), (.SLOT, slot)]) := by
  subst ht
  show execScrubGo d kind slot s = _
  rw [execScrubGo, State.asWrite_reached h]
  simp only [apply_ite Host.Outcome.next]
  rfl

theorem exec_scrubGo_muted {d kind slot : Nat} (h : s.reach (offsetOf .SC_CTRL d) = .muted) : exec (.scrubGo d kind slot) s = .next s := by
  show execScrubGo d kind slot s = _
  rw [execScrubGo, State.asWrite_muted h]

section
variable {target index : Nat} (h : s.reaches .HS_CMD 0 = true) (ht : s.unhold .HS_CMD 0 = t)
include h ht

theorem exec_bist_of_busy (hbusy : t.rd .HS_CMD 0 .BUSY = 1) : exec (.bist target index) s = .next t := by
  subst ht
  show execBist target index s = _
  rw [execBist, State.asWrite_reached h]
  exact if_pos hbusy

theorem exec_bist_of_refused (hidle : t.rd .HS_CMD 0 .BUSY = 0) (hno : t.bistOk (target % 4) (index % 64) = false) : exec (.bist target index) s =
    .next ((t.wrs .HS_CMD 0 [(.TARGET, target % 4), (.INDEX, index % 64)]).wr .HS_CMD 0 .RESULT 2) := by
  subst ht
  show execBist target index s = _
  rw [execBist, State.asWrite_reached h]
  exact (if_neg (by omega)).trans (if_neg (Bool.eq_false_iff.mp hno))

/-- The BIST of a pitch is under way (R684). -/
def State.bistBegun (s : State) (i : Nat) : State :=
  { (s.wrs .HS_CMD 0 [(.TARGET, 0), (.INDEX, i)]).wr .HS_CMD 0 .BUSY 1 with health := { s.health with bist := some (0, i) } }

theorem exec_bist_of_pitch (hidle : t.rd .HS_CMD 0 .BUSY = 0) (hok : t.bistOk 0 (index % 64) = true) :
    exec (.bist 0 index) s = .next ((t.bistBegun (index % 64)).domOn (index % 64)) := by
  subst ht
  show execBist 0 index s = _
  rw [execBist, State.asWrite_reached h]
  exact (if_neg (by omega)).trans (if_pos hok)

theorem exec_flushWear_reached : exec (.flushWear target index) s =
    .next (if t.rd .HS_CMD 0 .BUSY = 1 then t else (t.wrs .HS_CMD 0 [(.TARGET, target), (.INDEX, index)]).flushWear) := by
  subst ht
  exact State.asWrite_reached h fun s =>
    .next (if s.rd .HS_CMD 0 .BUSY = 1 then s else (s.wrs .HS_CMD 0 [(.TARGET, target), (.INDEX, index)]).flushWear)

end

/-! The spare maps (R32, R33, R676): host mode only. -/

theorem exec_hsPitchMapWrite_reached {a b : Nat} (h : s.reaches .HS_PITCH_MAP a = true) (ht : s.unhold .HS_PITCH_MAP a = t) :
    exec (.hsPitchMapWrite a b) s = .next (if t.rd .HS_CTRL 0 .SPARE_HOST = 0 then t.hsErr
      else ((t.wr .HS_PITCH_MAP a .SPARE_COL b).pendMap .HS_PITCH_MAP a).refreshPitch a) := by
  subst ht
  show execHsPitchMapWrite a b s = _
  rw [execHsPitchMapWrite, State.asWrite_reached h]

theorem exec_hsBpMapWrite_reached {loc : ClusterSite} {a b : Nat} {failed : Bool} (h : s.reaches .HS_BP_MAP (72 * loc.die + loc.slot) = true)
    (ht : s.unhold .HS_BP_MAP (72 * loc.die + loc.slot) = t) : exec (.hsBpMapWrite loc a b failed) s =
      .next (if t.rd .HS_CTRL 0 .SPARE_HOST = 0 then t.hsErr
        else (t.wrs .HS_BP_MAP (72 * loc.die + loc.slot) [(.SPARE0, a), (.SPARE1, b), (.FAILED, bit failed)]).refreshPitch (pitchOf (72 * loc.die + loc.slot))) := by
  subst ht
  show execHsBpMapWrite loc a b failed s = _
  rw [execHsBpMapWrite, State.asWrite_reached h]

theorem exec_hsColMapWrite_reached {loc : ClusterSite} {a b : Nat} (h : s.reaches .HS_COL_MAP (72 * loc.die + loc.slot) = true)
    (ht : s.unhold .HS_COL_MAP (72 * loc.die + loc.slot) = t) : exec (.hsColMapWrite loc a b) s =
      .next (if t.rd .HS_CTRL 0 .SPARE_HOST = 0 then t.hsErr
        else ((t.wrs .HS_COL_MAP (72 * loc.die + loc.slot) [(.COL0, a), (.COL1, b)]).pendMap .HS_COL_MAP (72 * loc.die + loc.slot)).refreshPitch
          (pitchOf (72 * loc.die + loc.slot))) := by
  subst ht
  show execHsColMapWrite loc a b s = _
  rw [execHsColMapWrite, State.asWrite_reached h]

end

/-- Settles O45: each write on the state whose holding register is empty. -/
theorem healthWrites : Obligations.HealthWrites := by
  unfold Obligations.HealthWrites
  intro s loc kind d slot t i a b fl k
  refine ⟨exec_scrubGo_muted, fun h => ?_, fun h => ?_, fun h => exec_hsPitchMapWrite_reached h rfl, fun h => exec_hsBpMapWrite_reached h rfl,
    fun h => exec_hsColMapWrite_reached h rfl⟩
  case refine_1 =>
    intro u sc
    refine ⟨fun hhost hidle hkind => ⟨u.scrubBegun d kind slot, (exec_scrubGo_reached h rfl).trans (congrArg _ (if_pos ⟨hhost, hidle, hkind⟩)), rfl, rfl⟩,
      fun hno => (exec_scrubGo_reached h rfl).trans (congrArg _ (if_neg ?_))⟩
    rintro ⟨hhost, hidle, hkind⟩
    rcases hno with hhw | hbusy | hbig
    · exact hhw hhost
    · exact absurd (hidle.symm.trans hbusy) (by decide)
    · exact absurd hkind (Nat.not_le.mpr hbig)
  case refine_2 =>
    intro u cmd
    exact ⟨fun hbusy => ⟨exec_bist_of_busy h rfl hbusy, (exec_flushWear_reached h rfl).trans (congrArg _ (if_pos hbusy))⟩,
      fun hidle hno => exec_bist_of_refused h rfl hidle hno, fun hidle hok => ⟨u.bistBegun (i % 64), exec_bist_of_pitch h rfl hidle hok, rfl, rfl⟩,
      fun hidle => (exec_flushWear_reached h rfl).trans (congrArg _ (if_neg fun hc => absurd (hidle.symm.trans hc) (by decide)))⟩

end Sys2Proof.Machine
end

section
/-! Register accesses of the host (O46): what an offset of BAR0 reaches, and the parts of a slot. -/

namespace Sys2Proof.Machine

theorem aligned_iff {off : Nat} {wide : Bool} : aligned off wide = true ↔ off % (if wide then 8 else 4) = 0 := beq_iff_eq

theorem aligned_half {off : Nat} (h : off % 4 = 0) : aligned off false = true := aligned_iff.mpr h

theorem partOf_lower {off : Nat} (h : off % 8 = 0) : partOf off false = 0 := by
  simp [partOf, h]

theorem partOf_upper {off : Nat} (h : off % 8 = 4) : partOf off false = 1 := by
  simp [partOf, h]

section
variable {s : State} {off : Nat} {wide : Bool}

theorem exec_rcRead_bar0_of_unaligned (h : ¬ off % (if wide then 8 else 4) = 0) :
    exec (.rcRead (.bar0 off) wide) s = .next ((s.idError 1 0 off 0).emit (.answer 0 true)) :=
  congrArg Host.Outcome.next (if_neg (mt aligned_iff.mp h))

section
variable {v : Nat} {o : WriteObs}

theorem exec_registerWrite_bar0_of_unaligned (h : ¬ off % (if wide then 8 else 4) = 0) :
    exec (.registerWrite (.bar0 off) wide v o) s = .next (s.idError 1 0 off 0) :=
  congrArg Host.Outcome.next (if_neg (mt aligned_iff.mp h))

theorem exec_registerWrite_bar0 (h : aligned off wide = true) :
    exec (.registerWrite (.bar0 off) wide v o) s = .next (s.bar0Write off (partOf off wide) v o .host) :=
  congrArg Host.Outcome.next (if_pos h)

end

/-! What an offset reaches decides the read and the write of it (R642, R690). -/

section
variable {part v : Nat} {o : WriteObs} {by' : Writer}

theorem State.bar0Read_of_off (h : s.reach off = .off) : s.bar0Read off part = (0, s.idError 2 0 off 0) := by
  rw [State.bar0Read, h]

theorem State.bar0Write_of_off (h : s.reach off = .off) : s.bar0Write off part v o by' = s.idError 2 0 off 0 := by
  rw [State.bar0Write, h]

theorem State.bar0Read_of_nothing (h : s.reach off = .muted ∨ (s.reach off = .here ∧ regAt (off / 8 * 8) = none)) :
    s.bar0Read off part = (0, s) := by
  rcases h with hmuted | ⟨hhere, hnone⟩
  · rw [State.bar0Read, hmuted]
  · rw [State.bar0Read, hhere, hnone]

theorem State.bar0Write_of_nothing (h : s.reach off = .muted ∨ (s.reach off = .here ∧ regAt (off / 8 * 8) = none)) :
    s.bar0Write off part v o by' = s := by
  rcases h with hmuted | ⟨hhere, hnone⟩
  · rw [State.bar0Write, hmuted]
  · rw [State.bar0Write, hhere, hnone]

variable {r : RegName} {i : Nat} (hhere : s.reach off = .here) (hreg : regAt (off / 8 * 8) = some (r, i))
include hhere hreg

theorem State.bar0Read_of_reg : s.bar0Read off part = s.readReg r i part := by
  rw [State.bar0Read, hhere, hreg]

theorem State.bar0Write_of_reg : s.bar0Write off part v o by' = (s.unhold r i).writeReg r i off (RegWrite.of v part) o by' := by
  rw [State.bar0Write, hhere, hreg]

theorem exec_rcRead_of_reg (h : aligned off wide = true) {w : Nat × State} (hread : s.readReg r i (partOf off wide) = w) :
    exec (.rcRead (.bar0 off) wide) s = .next (w.2.emit (.answer w.1 false)) := by
  subst hread
  rw [exec_rcRead_bar0 h, State.bar0Read_of_reg hhere hreg]

end

theorem exec_rcRead_of_off (h : aligned off wide = true) (hoff : s.reach off = .off) :
    exec (.rcRead (.bar0 off) wide) s = .next ((s.idError 2 0 off 0).emit (.answer 0 false)) := by
  rw [exec_rcRead_bar0 h, State.bar0Read_of_off hoff]

theorem exec_rcRead_of_nothing (h : aligned off wide = true)
    (hno : s.reach off = .muted ∨ (s.reach off = .here ∧ regAt (off / 8 * 8) = none)) :
    exec (.rcRead (.bar0 off) wide) s = .next (s.emit (.answer 0 false)) := by
  rw [exec_rcRead_bar0 h, State.bar0Read_of_nothing hno]

end

/-! The parts of a register's slot (R14, R19, R20). -/

section
variable {s : State} {r : RegName} {i : Nat}

theorem State.readReg_whole : s.readReg r i 2 = (s.regValue r i, ((s.unhold r i).readLatch r i).clearRc r i) := rfl

theorem State.readReg_lower : s.readReg r i 0 = (s.regValue r i % 2 ^ 32, { ((s.unhold r i).readLatch r i).clearRc r i with
    hold := tset (((s.unhold r i).readLatch r i).clearRc r i).hold (r, i) (s.regValue r i / 2 ^ 32) }) := rfl

theorem State.readReg_upper_of_held {v : Nat} (h : s.hold.find? (fun e => e.1 == (r, i)) = some ((r, i), v)) :
    s.readReg r i 1 = (v, s.unhold r i) := by
  rw [State.readReg, h]
  rfl

theorem State.readReg_upper_of_empty (h : s.hold.find? (fun e => e.1 == (r, i)) = none) : s.readReg r i 1 = (s.regValue r i / 2 ^ 32, s) := by
  rw [State.readReg, h]
  rfl

/-- The row of a single register reads at its base, `stride` bytes further for each element of its array. -/
theorem State.namedRead_at {stride base : Nat} {wide : Bool} (h : (placeOf r).base = base) :
    s.namedRead r stride i wide = s.hostRead (.bar0 (base + stride * i)) wide := by
  rw [State.namedRead, h]

end

/-- Settles O46: an access is aligned or not; what its offset reaches decides the rest; a register's slot is read whole, by its lower or by its
upper half. -/
theorem hostReadsAndWrites : Obligations.HostReadsAndWrites := by
  unfold Obligations.HostReadsAndWrites
  intro s off i c n v wide w r o slot cleared
  refine ⟨fun h => ⟨exec_rcRead_bar0_of_unaligned h, exec_registerWrite_bar0_of_unaligned h⟩, rfl,
    fun h hoff => ⟨exec_rcRead_of_off (aligned_iff.mpr h) hoff,
      (exec_registerWrite_bar0 (aligned_iff.mpr h)).trans (congrArg Host.Outcome.next (State.bar0Write_of_off hoff))⟩,
    fun h hno => ⟨exec_rcRead_of_nothing (aligned_iff.mpr h) hno,
      (exec_registerWrite_bar0 (aligned_iff.mpr h)).trans (congrArg Host.Outcome.next (State.bar0Write_of_nothing hno))⟩,
    fun h hhere hreg => ?_, fun h hhere hreg hheld => ?_, fun h hhere hreg hempty => ?_, rfl, ?_⟩
  case refine_1 =>
    have hwhole : aligned off true = true := aligned_iff.mpr h
    have hlower : s.readReg r i (partOf off false) = s.readReg r i 0 := congrArg _ (partOf_lower h)
    exact ⟨exec_rcRead_of_reg hhere hreg hwhole State.readReg_whole, exec_rcRead_of_reg hhere hreg (aligned_half (by omega)) (hlower.trans State.readReg_lower),
      (exec_registerWrite_bar0 hwhole).trans (congrArg Host.Outcome.next (State.bar0Write_of_reg hhere hreg))⟩
  case refine_2 =>
    have hupper : s.readReg r i (partOf off false) = s.readReg r i 1 := congrArg _ (partOf_upper h)
    exact exec_rcRead_of_reg hhere hreg (aligned_half (by omega)) (hupper.trans (State.readReg_upper_of_held hheld))
  case refine_3 =>
    have hupper : s.readReg r i (partOf off false) = s.readReg r i 1 := congrArg _ (partOf_upper h)
    exact exec_rcRead_of_reg hhere hreg (aligned_half (by omega)) (hupper.trans (State.readReg_upper_of_empty hempty))
  case refine_4 =>
    exact ⟨congrArg Host.Outcome.next (State.namedRead_at rfl), congrArg Host.Outcome.next (State.namedRead_at rfl),
      congrArg Host.Outcome.next (State.namedRead_at rfl), congrArg Host.Outcome.next (State.namedRead_at rfl),
      congrArg Host.Outcome.next (State.namedRead_at rfl), congrArg Host.Outcome.next (State.namedRead_at rfl),
      congrArg Host.Outcome.next (State.namedRead_at rfl)⟩

end Sys2Proof.Machine
end

section
/-! The test port (O48) and the management bus (O49). -/

namespace Sys2Proof.Machine

section
variable {s : State}

theorem State.loadPinIr_of_free {code : Nat} (h : s.pinsFree = true) : s.loadPinIr code = s.loadIr code := if_pos h

/-- An instruction that may not take the pins acts as BYPASS, with the refused bit (R699). -/
theorem State.loadPinIr_of_refused {code : Nat} (h : s.pinsFree = false) :
    s.loadPinIr code = { s.loadIr 0xFF with test := { (s.loadIr 0xFF).test with refused := true } } := if_neg (Bool.eq_false_iff.mp h)

theorem exec_extest_of_free {shift : List Bool} (h : s.pinsFree = true) (hshift : shift ≠ []) : exec (.extest shift) s =
    .next { s.loadIr 0 with test := { (s.loadIr 0).test with bsr := shift, driven := shift } } := by
  show execExtest shift s = _
  rw [execExtest, State.loadPinIr_of_free h]
  refine congrArg Host.Outcome.next (if_neg ?_)
  rw [show (s.loadIr 0).test.refused = false from rfl, Bool.false_or]
  exact mt List.isEmpty_iff.mp hshift

theorem exec_extest_of_no_scan (h : s.pinsFree = true) : exec (.extest []) s = .next (s.loadIr 0) := by
  show execExtest [] s = _
  rw [execExtest, State.loadPinIr_of_free h]
  exact congrArg Host.Outcome.next (if_pos (Bool.or_true _))

theorem exec_extest_of_refused {shift : List Bool} (h : s.pinsFree = false) : exec (.extest shift) s =
    .next { s.loadIr 0xFF with test := { (s.loadIr 0xFF).test with refused := true } } := by
  show execExtest shift s = _
  rw [execExtest, State.loadPinIr_of_refused h]
  rfl

/-! REG_ACCESS (R700). -/

section
variable {dr : Nat} {obs : WriteObs}

/-- REG_ACCESS is loaded, and the result of the access before leaves. -/
def State.regAccessed (s : State) : State := (s.loadIr 0x20).emit (.answer (2 ^ 27 * bit s.test.result.2 + 2 ^ 28 * s.test.result.1) false)

theorem exec_regAccess_of_outside (h : regAccessReaches (bitsOf dr 3 23 * 8) = false) :
    exec (.regAccess dr obs) s = .next (s.regAccessed.setResult 0 true) := if_pos h

theorem exec_regAccess_of_write (h : regAccessReaches (bitsOf dr 3 23 * 8) = true) (hwrite : dr.testBit 26 = true) : exec (.regAccess dr obs) s =
    .next ((s.regAccessed.setResult 0 false).bar0Write (bitsOf dr 3 23 * 8) 2 (bitsOf dr 28 40) obs .port) := by
  show execRegAccess dr obs s = _
  simp only [execRegAccess, h, hwrite, if_true, reduceCtorEq, if_false]
  rfl

theorem exec_regAccess_of_read (h : regAccessReaches (bitsOf dr 3 23 * 8) = true) (hread : dr.testBit 26 = false) : exec (.regAccess dr obs) s =
    .next ((s.regAccessed.bar0Read (bitsOf dr 3 23 * 8) 2).2.setResult (s.regAccessed.bar0Read (bitsOf dr 3 23 * 8) 2).1 false) := by
  show execRegAccess dr obs s = _
  simp only [execRegAccess, h, hread, reduceCtorEq, if_false]
  rfl

end

/-! LOAD_STREAM (R651, R701). -/

/-- The loader, or the ROM in RECOVERY, takes stream bytes from the test port. -/
theorem State.takesStream_iff : (s.rd .PW_STATUS 0 .PHASE == 6 || (s.loading && s.load.entry && s.load.src == 1)) = true ↔
    s.rd .PW_STATUS 0 .PHASE = 6 ∨ (s.loading = true ∧ s.load.entry = true ∧ s.load.src = 1) := by
  simp only [Bool.or_eq_true, Bool.and_eq_true, beq_iff_eq, and_assoc]

section
variable {dr : Nat}

theorem exec_loadStream_of_taken (h : s.rd .PW_STATUS 0 .PHASE = 6 ∨ (s.loading = true ∧ s.load.entry = true ∧ s.load.src = 1)) :
    ∃ t, exec (.loadStream dr) s = .next t ∧ t.load.stream = s.load.stream ++ (leBytes (bitsOf dr 0 32) 4).take (bitsOf dr 32 2 + 1) :=
  ⟨_, if_pos (State.takesStream_iff.mpr h), rfl⟩

theorem exec_loadStream_of_dropped (h : ¬ (s.rd .PW_STATUS 0 .PHASE = 6 ∨ (s.loading = true ∧ s.load.entry = true ∧ s.load.src = 1))) :
    ∃ t, exec (.loadStream dr) s = .next t ∧ t.load = s.load :=
  ⟨_, if_neg (mt State.takesStream_iff.mp h), rfl⟩

end
end

/-- Settles O48: an instruction is loaded, and then does its own work. -/
theorem testPortCommands : Obligations.TestPortCommands := by
  unfold Obligations.TestPortCommands
  intro s pins shift dr obs load refused bytes takes acc
  exact ⟨rfl, rfl,
    fun h => ⟨congrArg Host.Outcome.next (State.loadPinIr_of_free h), congrArg Host.Outcome.next (State.loadPinIr_of_free h), exec_extest_of_no_scan h,
      exec_extest_of_free h⟩,
    fun h => ⟨congrArg Host.Outcome.next (State.loadPinIr_of_refused h), congrArg Host.Outcome.next (State.loadPinIr_of_refused h), exec_extest_of_refused h⟩,
    rfl, rfl, exec_regAccess_of_outside, exec_regAccess_of_write, exec_regAccess_of_read, exec_loadStream_of_taken, exec_loadStream_of_dropped, rfl⟩

section
variable {s : State} {o : Out}

theorem State.smb_of_awake (h : s.rd .PW_STATUS 0 .PHASE ≠ 0) : s.smb o = .next (s.emit o) :=
  congrArg (fun o => Host.Outcome.next (s.emit o)) (if_neg h)

theorem State.smb_of_por (h : s.rd .PW_STATUS 0 .PHASE = 0) : s.smb o = .next (s.emit (.answer 0 true)) :=
  congrArg (fun o => Host.Outcome.next (s.emit o)) (if_pos h)

end

/-- Settles O49: every read goes through `State.smb`, which answers what R702 lists once the module is out of phase 0. -/
theorem managementBusCommands : Obligations.ManagementBusCommands := by
  unfold Obligations.ManagementBusCommands
  intro s v awake say
  refine ⟨fun h => ?_, fun h => ?_, fun h => ?_, rfl, fun hv => congrArg Host.Outcome.next (if_neg hv)⟩
  · exact ⟨State.smb_of_awake h, State.smb_of_awake h, State.smb_of_awake h, State.smb_of_awake h, State.smb_of_awake h, State.smb_of_awake h,
      State.smb_of_awake h, State.smb_of_awake h, congrArg Host.Outcome.next (if_neg h), congrArg Host.Outcome.next (if_neg h)⟩
  · exact ⟨State.smb_of_por h, State.smb_of_por h, State.smb_of_por h, State.smb_of_por h, State.smb_of_por h, State.smb_of_por h,
      State.smb_of_por h, State.smb_of_por h⟩
  · rcases h with hpor | hv
    · exact congrArg Host.Outcome.next (if_pos hpor)
    · refine congrArg Host.Outcome.next ?_
      rw [if_neg (by omega : ¬ v = 1), if_neg (by omega : ¬ v = 0)]
      exact ite_self _

end Sys2Proof.Machine
end
